-- ==== Sys2Proof/Word.lean ====
section
/-! DEFINITION. The word types of the MH-9410: bytes, 32-bit register words and 64-bit values. -/

namespace Sys2Proof

/-- One byte of host memory, LPDDR5X, a wire or a record. -/
abbrev Byte := BitVec 8

/-- One 32-bit register or bus word (R513). -/
abbrev Word := BitVec 32

/-- A 64-bit value: a LO/HI pair (R514), a Canvas entry (R76), a neuron context. -/
abbrev Word64 := BitVec 64

end Sys2Proof
end

