-- ==== Sys2Proof/Syntax.lean ====
section
/-! DEFINITION. The commands of the MH-9410: the operand types and the one inductive Instr. -/

namespace Sys2Proof

/-- What a read of host memory returns (R311, R342). -/
inductive FetchResult where
  /-- The bytes, read without error. -/
  | ok (bytes : List Byte)
  /-- A poisoned completion. -/
  | poisoned
  /-- Unsupported Request, Completer Abort or completion timeout. -/
  | failed
  deriving DecidableEq, Repr

/-- The three kinds of ring (R294). -/
inductive RingKind where
  | sq | cq | str
  deriving DecidableEq, Repr

/-- Which window a PCIe register access goes to (R291): PF BAR0, or the requester's function page. -/
inductive Space where
  | bar0 | page
  deriving DecidableEq, Repr

/-- What an ECC check of a word finds (R439). -/
inductive Ecc where
  | ok | single | uncorrectable
  deriving DecidableEq, Repr

/-- A CSI-2 long packet as received (R39): whether the header checked after ECC, virtual channel, data type, payload, whether the CRC checked. -/
structure Packet where
  hdrOk : Bool
  vc : Nat
  dt : Nat
  payload : List Byte
  crcOk : Bool
  deriving DecidableEq, Repr

/-- A CAN frame received without error (R238). -/
structure CanFrame where
  ext : Bool
  id : Nat
  fd : Bool
  brs : Bool
  data : List Byte
  remote : Bool := false
  deriving DecidableEq, Repr

/-- What Mainstay measures for a SURROUNDINGS record (R485). -/
structure Measurement where
  railMv : List Nat
  rail10mA : List Nat
  tj : List Int
  pcie : Nat
  phys : List Nat
  deriving DecidableEq, Repr

/-- The bus errors of R237, by the change of the error counters that ISO 11898-1 gives them. -/
inductive CanError where
  | rx (inc : Nat) | tx (inc : Nat) | rxOk | txOk
  deriving DecidableEq, Repr

/-- The wake sources of R417. -/
inductive WakeSource where
  | port (p : Fin 8) | tci (c : Fin 4) | alarm | pcie | i2c | perst
  deriving DecidableEq, Repr

/-- A protected word that a command may read (R439), named by what it holds, in the configuration set that the command works on: layers by position, elements by index. -/
inductive MemWord where
  /-- A Canvas entry by its key: MSD × 2^24 + tile × 64 + index (R77). -/
  | canvas (key : Nat)
  | weight (layer i : Nat)
  /-- Entry `i` of a layer's parameter block, word `i` of its table block (R161). -/
  | param (layer i : Nat)
  | table (layer i : Nat)
  /-- An element of a layer's accumulator or activation plane, or of the input copy of one of its edges (R134). -/
  | acc (layer i : Nat)
  | act (layer i : Nat)
  | copy (layer edge i : Nat)
  /-- A synapse word, an entry of the index tables, a route entry, a class entry, a neuron context (R190–R199). -/
  | synapse (core i : Nat)
  | first (core i : Nat)
  | second (core i : Nat)
  | route (source : Nat)
  | cls (core c : Nat)
  | context (core i : Nat)
  /-- A word that holds none of these. -/
  | other
  deriving DecidableEq, Repr

/-- What the check of a word finds where a command reads it. -/
structure MemHit where
  word : MemWord
  ecc : Ecc
  deriving DecidableEq, Repr

/-- The SRAM a scrub or ECC error lies in (R439, R440). -/
inductive MemKind where
  | core | cluster | bolt
  deriving DecidableEq, Repr


/-- A queue of a unit as a hang snapshot finds it (R479, R481): its number, words in it, credits held as producer and owed as consumer, the first two words, each with VALID and poison tag. -/
structure QueueSnap where
  queue : Nat
  occupancy : Nat
  held : Nat
  owed : Nat
  head0 : Nat
  valid0 : Bool
  poison0 : Bool
  head1 : Nat
  valid1 : Bool
  poison1 : Bool
  deriving DecidableEq, Repr

/-- A unit as a hang snapshot finds it (R477, R479, R481): index and kind, wait reason, the unit it waits on, µs since its last progress, queues, and the 64 words of its event ring, oldest first. -/
structure UnitSnap where
  index : Nat
  kind : Nat
  wait : Nat
  waitOn : Nat
  idleUs : Nat
  queues : List QueueSnap
  events : List Nat
  deriving DecidableEq, Repr

/-- The commands of the block: one constructor per row of the opcode table. -/
inductive Instr where
  /-- NOP (R302): A NOP descriptor completes OK with RESULT 0. -/
  | nop (f : Fin 8) (q : Fin 4)
  /-- LOAD_SET (R341): LOAD_SET checks a configuration image and starts loading it into the shadow set, or waits while a swap is pending or another load runs. -/
  | loadSet (f : Fin 8) (q : Fin 4) (img : List Byte) (ecc : Ecc)
  /-- LOAD_SET_COMPLETE (R345): The rest planes of a loading set are finished, the shadow set becomes READY and LOAD_SET completes OK with the IMAGE_ID. -/
  | loadSetComplete (hits : List MemHit)
  /-- SWAP_SET (R349): SWAP_SET is checked and then either refused or made pending with its effective tick reported in HIF_SWAP_TICK. -/
  | swapSet (f : Fin 8) (q : Fin 4)
  /-- SWAP_TAKES_EFFECT (R350): At the boundary of the swap's effective tick the two sets exchange roles on every unit and the SWAP_SET completes. -/
  | swapTakesEffect
  /-- START (R347): START is checked and either refused or moves the run state to STARTING with first tick n0. -/
  | start (f : Fin 8) (q : Fin 4)
  /-- RUN_BEGINS (R348): At the boundary of n0 the ingest hold is released, the dense path, fabric, filter hand-over and FTU start, and START completes. -/
  | runBegins
  /-- STOP (R346): A STOP descriptor is accepted and fixes the boundary T of the consistent cut, or reports the T of a stop already pending or in force. -/
  | stop (f : Fin 8) (q : Fin 4)
  /-- STOP_BOUNDARY (R353): At boundary T ingest is held for a FULL stop, dirty sets and hand-overs for T and later stop, and pending swaps before T are aborted. -/
  | stopBoundary
  /-- CUT_COMPLETE (R352): Once dense work and drain, the FTU record of T-1 and the fabric halt have all ended, the run state becomes STOPPED and the STOP completes. -/
  | cutComplete
  /-- SET_PHASE (R390): SET_PHASE is checked against the active set's work-phase table and scheduled for its boundary. -/
  | setPhase (f : Fin 8) (q : Fin 4)
  /-- PHASE_TAKES_EFFECT (R390): At the scheduled tick boundary the new phase is in force, the move to its PREF_OP begins and SET_PHASE completes. -/
  | phaseTakesEffect
  /-- READ_WINDOW (R303): READ_WINDOW copies a kept WINDOW_COUNTS record, waits for a future window, or completes with ABORTED_BY_STOP or WINDOW_GONE. -/
  | readWindow (f : Fin 8) (q : Fin 4)
  /-- CONFIGURE (R471): TRACE_CTL CONFIGURE takes the trace location, sources, quota and size, checks them and discards the trace content. -/
  | configure (f : Fin 8) (q : Fin 4)
  /-- ARM (R470): TRACE_CTL ARM discards the trace content and starts capture in ARMED state. -/
  | arm (f : Fin 8) (q : Fin 4)
  /-- TRIGGER (R470): TRACE_CTL TRIGGER moves an armed trace to TRIGGERED and writes a TRIGGER entry, or is counted as ignored. -/
  | trigger (f : Fin 8) (q : Fin 4)
  /-- DISARM (R470): TRACE_CTL DISARM stops capture and keeps the content. -/
  | disarm (f : Fin 8) (q : Fin 4)
  /-- DRAIN (R476): TRACE_CTL DRAIN copies the trace ring oldest first into a stream ring as TRACE_CHUNK records. -/
  | drain (f : Fin 8) (q : Fin 4) (eccs : List Ecc)
  /-- DUMP_FETCH (R482): DUMP_FETCH copies part of the held hang dump to a host buffer or as DUMP_CHUNK records, waiting if the capture is still being written. -/
  | dumpFetch (f : Fin 8) (q : Fin 4) (eccs : List Ecc)
  /-- FENCE (R304): A FENCE is fetched and waits for earlier descriptors of the function and, with STREAMS, its staged records. -/
  | fence (f : Fin 8) (q : Fin 4)
  /-- FENCE_RELEASE (R304): The last awaited descriptor or staged record of a FENCE is done and the FENCE completes. -/
  | fenceRelease (f : Fin 8) (q : Fin 4)
  /-- SURROUNDINGS (R485): Mainstay measures rails, Tj, link and PHYs and writes a SURROUNDINGS record to the named stream ring. -/
  | surroundings (f : Fin 8) (q : Fin 4) (m : Measurement)
  /-- FW_UPDATE (R302): FW_UPDATE reads and checks a signed firmware image and writes it to flash. -/
  | fwUpdate (f : Fin 8) (q : Fin 4) (img : List Byte)
  /-- LPDDR_WRITE (R305): LPDDR_WRITE copies a host buffer into LPDDR5X below the reserved area and completes when written. -/
  | lpddrWrite (f : Fin 8) (q : Fin 4)
  /-- OPERAND_READ_FAIL (R342): A host read for a LOAD_SET, FW_UPDATE or LPDDR_WRITE operand fails and the descriptor ends with POISONED or FETCH_FAIL. -/
  | operandReadFail (f : Fin 8) (q : Fin 4) (poisoned : Bool)
  /-- SQ_DOORBELL (R297): A write to FN_SQi_DB sets the submission ring tail, or is ignored with DB_ERR. -/
  | sqDoorbell (f : Fin 8) (i : Fin 4) (size : Nat) (v : Word)
  /-- CQ_DOORBELL (R299): A write to FN_CQi_DB sets the completion ring head and frees entries, or is ignored with DB_ERR. -/
  | cqDoorbell (f : Fin 8) (i : Fin 4) (size : Nat) (v : Word)
  /-- STREAM_DOORBELL (R315): A write to FN_STRr_DB sets software's read offset and frees stream ring space, or is ignored with DB_ERR. -/
  | streamDoorbell (f : Fin 8) (r : Fin 8) (size : Nat) (v : Word)
  /-- URGENT_STOP (R323): A write to FN_URGENT with bit 0 set is accepted at once as a STOP request of the selected scope and reports T in FN_URGENT_TICK. -/
  | urgentStop (f : Fin 8) (size : Nat) (v : Word)
  /-- DESCRIPTOR_FETCH (R298): A descriptor fetch returns, a CQ entry having been reserved, and the descriptor is started or queued in the device-wide queue. -/
  | descriptorFetch (f : Fin 8) (q : Fin 4) (res : FetchResult)
  /-- RECORD_STAGING (R319): A producer hands a stream record to ring staging, where it is admitted, added to an open GAP record or starts a new one, or is discarded for a disabled ring. -/
  | recordStaging (parity : Bool)
  /-- STREAM_RECORD_WRITE (R317): When ring room allows, the oldest staged record is written with placeholder, payload and header last, preceded by an IDLE record at the ring end. -/
  | streamRecordWrite (f : Fin 8) (r : Fin 8) (ecc : Ecc)
  /-- STREAM_IRQ_TIMEOUT (R322): TIME_US after the first record since the last interrupt, the stream ring's vector is raised. -/
  | streamIrqTimeout (f : Fin 8) (r : Fin 8)
  /-- RING_ENABLE (R295): Setting a ring's EN resets its indices, phase and SEQ, and for a stream ring writes a GEN 0 placeholder at offset 0. -/
  | ringEnable (k : RingKind) (f : Fin 8) (i : Fin 8) (v : Word)
  /-- RING_DISABLE (R320): Clearing a stream ring's EN discards its staged records and open GAP record and counts them in FN_RING_OFF. -/
  | ringDisable (f : Fin 8) (r : Fin 8) (v : Word)
  /-- LOSS_ACK (R328): A write to FN_LOSS_ACK that equals FN_LOSS_EPOCH ends the STATE_LOST handshake for the function. -/
  | lossAck (f : Fin 8) (v : Word)
  /-- FLR (R329): A function level reset discards the function's fetched descriptors and staged records and loses its F and S state as a loss event. -/
  | flr (f : Fin 8)
  /-- I2C_ADDRESS_MATCH (R422): The clockless comparator matches the management address, acknowledges and wakes a device in a reef state. -/
  | i2cAddressMatch
  /-- STATUS (R423): The I2C STATUS command returns reef, run, loss and thermal status and the loss epoch. -/
  | status
  /-- I2C_STOP (R424): The I2C STOP command is accepted at its stop condition as a STOP request, or refused when STOP_EN is 0. -/
  | i2cStop (operand : Byte)
  /-- REG_READ (R423): The I2C REG_READ command returns a PF BAR0 register without clearing RC fields. -/
  | regRead (off : Word)
  /-- REG_WRITE (R423): The I2C REG_WRITE command writes a register of the MGT block. -/
  | regWrite (off : Word) (v : Word)
  /-- DUMP_INFO (R484): The I2C DUMP_INFO command returns the held dump's length, trigger and die mask. -/
  | dumpInfo
  /-- DUMP_READ (R484): The I2C DUMP_READ command returns 32 bytes of the held dump. -/
  | dumpRead (off : Word) (ecc : Ecc)
  /-- LIFE_READ (R484): The I2C LIFE_READ command returns 32 bytes of the newest valid lifetime copy in flash. -/
  | lifeRead (off : Nat)
  /-- REGISTER_WRITE (R7): A write to a register with no row of its own acts by its fields' access codes, or is ignored with a RUN_WRITE flag where a block forbids it while running. -/
  | registerWrite (f : Fin 8) (sp : Space) (off : Nat) (size : Nat) (v : BitVec 64)
  /-- LO_WRITE (R514): A write to the LO half of a 64-bit pair stores the value in the requester's staging latch only. -/
  | loWrite (f : Fin 8) (sp : Space) (off : Nat) (v : Word)
  /-- HI_WRITE (R514): A write to the HI half of a 64-bit pair takes effect as one 64-bit value with the requester's latched low half. -/
  | hiWrite (f : Fin 8) (sp : Space) (off : Nat) (v : Word)
  /-- LO_READ (R515): A read of the LO half of a 64-bit pair or time counter latches the high half and fraction for that requester. -/
  | loRead (f : Fin 8) (sp : Space) (off : Nat) (size : Nat)
  /-- RC_READ (R7): A read of an RC field returns its value and clears it. -/
  | rcRead (f : Fin 8) (sp : Space) (off : Nat)
  /-- CAP_LO_READ (R377): A read of TIM_TCIc_CAP_LO removes the oldest capture entry and latches its high half. -/
  | capLoRead (c : Fin 4)
  /-- GNSS_RX_READ (R245): A read of FLT_GNSS_RX returns and removes the oldest raw GNSS byte. -/
  | gnssRxRead
  /-- COEF_DATA_ACCESS (R261): An access to FLT_COEF_DATA reads or writes the coefficient at FLT_COEF_ADDR and increments the address. -/
  | coefDataAccess (wr : Option Word)
  /-- LIF_DATA_READ (R489): A read of LIF_DATA returns 4 bytes of Mainstay's lifetime values and advances LIF_ADDR. -/
  | lifDataRead
  /-- PORT_ENABLE (R75): Setting a port's ING_CTL.PORT_EN bit starts its training and marks its time base and rebase triple invalid. -/
  | portEnable (p : Fin 8)
  /-- PORT_DISABLE (R75): Clearing a port's ING_CTL.PORT_EN bit stops its link and reception at once while decoded events drain. -/
  | portDisable (p : Fin 8)
  /-- RETRAIN (R74): Writing ING_PORTn_CFG.RETRAIN clears UP and retrains the port's link. -/
  | retrain (p : Fin 8) (v : Word)
  /-- CCI_GO (R70): Writing ING_PORTn_CCI_CTL.GO starts a CCI transaction to the sensor unless one is busy. -/
  | cciGo (p : Fin 8) (v : Word)
  /-- CCI_TRANSACTION_END (R70): A CCI transaction ends, BUSY clears and NACK records whether the sensor acknowledged. -/
  | cciTransactionEnd (p : Fin 8) (nack : Bool) (data : Word)
  /-- IMU_ENABLE (R232): Setting FLT_IMUi_CFG.EN is checked against the element offsets and enables the IMU master or sets CFG_ERR. -/
  | imuEnable (i : Fin 2) (v : Word)
  /-- IMU_XFER (R234): Writing FLT_IMUi_XFER_CTL.GO while the master is disabled makes one full-duplex SPI transfer. -/
  | imuXfer (i : Fin 2) (v : Word)
  /-- CHANNEL_ENABLE (R253): Setting a bit of FLT_CH_EN checks the channel and either enables and restarts it or sets CFG_ERR. -/
  | channelEnable (n : Fin 32)
  /-- CLEAR (R228): Writing FAB_REFLEXr_STAT.CLEAR returns a latched reflex output to its inactive level at once. -/
  | clear (r : Fin 2)
  /-- SNAP (R467): Writing DBG_OPC_CTL.SNAP or FN_OPC_CTL.SNAP requests a latch of the operation counters at the next tick boundary. -/
  | snap (page : Option (Fin 8))
  /-- RELEASE (R483): Writing DBG_DUMP_CTL.RELEASE releases the held hang dump. -/
  | release
  /-- SOFT_RESET (R426): Writing 0x5A5A to MGT_SOFT_RESET.KEY resets the device except the AON domain and the PCIe link. -/
  | softReset (key : Word)
  /-- DIE_RESET (R427): Writing MGT_DIE_RESET in RECOVERY mode resets one offline die, and is ignored otherwise. -/
  | dieReset (v : Word)
  /-- DIE_RESET_DONE (R460): A die reset's self-test and link retraining end, returning the die to service as parked or leaving it offline with source 0x11. -/
  | dieResetDone (d : Fin 4) (pass : Bool)
  /-- SERVICE_MODE_WRITE (R480): A write to HIF_SVC.MODE changes the service mode at once unless a die is offline or the value is RECOVERY. -/
  | serviceModeWrite (v : Word)
  /-- STEP (R362): A TIM_ADJ_HI write in STEP mode while STOPPED changes device time and rebase offsets at once, restarts filter channels and re-places pulses. -/
  | step (hi : Word)
  /-- SLEW (R361): A TIM_ADJ_HI write in SLEW mode adds its amount to the slew engine of device time over its interval. -/
  | slew (hi : Word)
  /-- TIM_INCR_WRITE (R358): A write of TIM_INCR_HI sets the device time increment on every die within 4 cycles. -/
  | timIncrWrite (hi : Word)
  /-- DOMAIN_STEP (R363): A TIM_DOMx_ADJ_HI write in STEP mode steps a domain counter, and device time follows it when it follows that domain. -/
  | domainStep (x : Fin 2) (hi : Word)
  /-- DOMAIN_SLEW (R363): A TIM_DOMx_ADJ_HI write in SLEW mode slews a domain counter, and device time follows it when it follows that domain. -/
  | domainSlew (x : Fin 2) (hi : Word)
  /-- SWITCH_REQUEST (R365): A write to TIM_SEL schedules a domain switch at a tick boundary, or is refused while a switch is pending. -/
  | switchRequest (v : Word)
  /-- DOMAIN_SWITCH (R366): At the switch boundary the device captures the difference to the new domain and switches by slew or step, or refuses. -/
  | domainSwitch
  /-- TPO_ENABLE (R374): Setting TIM_TPOp_CFG.EN arms a time pulse output, moving past instants forward or marking a one-shot MISSED. -/
  | tpoEnable (p : Fin 4) (v : Word)
  /-- TPO_DISABLE (R375): Clearing TIM_TPOp_CFG.EN drives the output inactive within one time clock cycle. -/
  | tpoDisable (p : Fin 4) (v : Word)
  /-- TPO_EDGE (R373): Device time reaches a pulse edge instant and the time pulse output changes level. -/
  | tpoEdge (p : Fin 4)
  /-- MAC_TX_DOORBELL (R370): A write to TIM_MACm_TX_DB sets the transmit ring tail and starts transmission. -/
  | macTxDoorbell (m : Fin 2) (v : Word)
  /-- TRANSMIT_SLOT (R371): A MAC sends one transmit slot, inserting one-step departure times and returning a transmit stamp when requested. -/
  | transmitSlot (m : Fin 2) (slot : List Byte)
  /-- PTP_FRAME (R369): A received PTP frame is stamped and staged as a PTP_FRAME record, and other frames are discarded. -/
  | ptpFrame (m : Fin 2) (frame : List Byte)
  /-- EXPORT_DATAGRAM (R372): A MAC sends a UDP datagram copy of a fused result record within 20 us of its hand-over. -/
  | exportDatagram (m : Fin 2)
  /-- TCI_EDGE (R376): An edge on an enabled capture input is stamped and placed in its FIFO, replacing the oldest entry when full. -/
  | tciEdge (c : Fin 4) (rising : Bool) (held : Nat)
  /-- REBASE_ESTIMATE (R379): Every 100 ms Mainstay fits the kept stamp pairs of a port and commits a new rebase triple with its quality metric. -/
  | rebaseEstimate (p : Fin 8)
  /-- FIRST_TRIPLE_COMMIT (R380): After the first packet following a port's first training, Mainstay commits a first rebase triple that makes the port valid. -/
  | firstTripleCommit (p : Fin 8)
  /-- LINK_TRAINING (R65): An A-PHY training ends, reporting gear, insertion loss and cable length, and the port starts receiving. -/
  | linkTraining (p : Fin 8) (ok : Bool) (gear : Nat) (loss : Nat)
  /-- CAPABILITY_READ (R69): After a successful training Mainstay reads the partner capability block over CCI and sets UP and CAP_VALID. -/
  | capabilityRead (p : Fin 8) (ack : Bool) (data : List Byte)
  /-- LINK_LOSS (R74): A trained link is lost, UP clears, CNT_LINKDOWN counts and the port retrains up to three times. -/
  | linkLoss (p : Fin 8)
  /-- CAMERA_CURRENT_SAMPLE (R68): A camera feed current sample updates CUR_MA and sets OVER or UNDER against the thresholds. -/
  | cameraCurrentSample (p : Fin 8) (code : BitVec 12)
  /-- LONG_PACKET (R39): A CSI-2 long packet arrives whole, is checked, filtered by VC and data type, and its events are decoded to the rebase stage or burst buffer. -/
  | longPacket (p : Fin 8) (pkt : Packet)
  /-- REBASE_CYCLE (R59): In each IOD cycle the rebase stage takes up to 12 head events, converts their stamps and accepts, discards or holds each under R53. -/
  | rebaseCycle (bad : Nat)
  /-- SURFACE_UPDATE (R84): A surface engine applies a received event word to the Canvas, updates ACT and HOT, runs the corner test and marks dirty elements and aging wheel slots. -/
  | surfaceUpdate (e : Fin 8) (hits : List MemHit) (parity : Bool)
  /-- FLOW_FIT (R92): A surface engine completes the normal flow fit for a tested event within 150 ns of its commit. -/
  | flowFit (e : Fin 8) (hits : List MemHit)
  /-- STALE_SWEEP_VISIT (R81): A surface engine's sweep visits an entry and marks polarities of age 4 s or more STALE. -/
  | staleSweepVisit (p : Fin 8) (x : Nat) (y : Nat) (hits : List MemHit)
  /-- AGING_WHEEL_SCAN (R99): After a tick's closing instant each surface engine scans that tick's wheel slot, marks crossings, reschedules tiles and delivers the dirty set. -/
  | agingWheelScan (e : Fin 8) (hits : List MemHit)
  /-- TAP_RECORD_CLOSE (R104): A tap record closes at 64 entries or 10 us after its first entry and passes to ring staging. -/
  | tapRecordClose (e : Fin 8) (corner : Bool)
  /-- REGION_INIT (R522): Within 2 ms of a write that makes a region new, its surface engines set every entry to both polarities STALE. -/
  | regionInit (p : Fin 8)
  /-- CANVAS_STALE_MARK (R430): Within 2 ms after a STEP or a loss of class S the surface engines mark every Canvas polarity STALE. -/
  | canvasStaleMark
  /-- TICK_BOUNDARY_MARK (R447): At each tick boundary units act on the boundary mark, applying commands and deferred register writes due there, or wait for a late mark. -/
  | tickBoundaryMark
  /-- COMMAND_MESSAGE (R334): A Halyard command message from the root reaches a unit within 4 us. -/
  | commandMessage (die : Fin 5) (parity : Bool)
  /-- TICK_WORK_READY (R146): The dense work of a tick becomes ready when its dirty sets are delivered and the previous tick's work has ended, and Hem engines convert dirty tiles. -/
  | tickWorkReady (tiles : Nat) (hits : List MemHit)
  /-- DELTA_PACKET (R156): A consumer core receives a delta packet and applies R138 to the element's pending store and input copy. -/
  | deltaPacket (i : Nat) (pass : Bool) (parity : Bool) (hits : List MemHit)
  /-- LAYER_EVALUATION (R140): Once every producer of a layer has finished the tick, the layer evaluates its marked elements and propagates changed outputs. -/
  | layerEvaluation (l : Nat) (n : Nat) (hits : List MemHit)
  /-- TICK_COMPLETE (R142): A tick's dense work completes by its deadline and the record gets DET_VALID = 1. -/
  | tickComplete
  /-- TICK_CUT (R147): At the publish deadline unfinished tick work is cut and its pending entries carry into the next tick. -/
  | tickCut
  /-- DENSE_DRAIN (R150): When a STOP follows a cut tick the dense path drains the carried work with no deadline and Gauze level 0. -/
  | denseDrain
  /-- CHECK_SLICE (R153): Between ticks the check sweep recomputes one slice and compares it with the stored planes. -/
  | checkSlice (hits : List MemHit)
  /-- REFRESH_SLICE (R154): Between ticks the refresh sweep recomputes and overwrites one slice with every product computed. -/
  | refreshSlice (hits : List MemHit)
  /-- DPP_RUN (R178): Once a descriptor's head layers are complete, the DPP decodes candidates, suppresses overlaps and hands survivors to the FTU. -/
  | dppRun (die : Fin 2) (parity : Bool) (hits : List MemHit)
  /-- INPUT_SPIKE_INJECTION (R194): A surface engine injects an input spike for a raising event into the spike fabric toward its target cores. -/
  | inputSpikeInjection (e : Fin 8) (parity : Bool) (hits : List MemHit)
  /-- SPIKE_ARRIVAL (R202): An event engine integrates an arriving spike into each target context, testing, leaking and merging by its stamp. -/
  | spikeArrival (i : Nat) (parity : Bool) (hits : List MemHit)
  /-- INSTANT_CLOSE (R205): A core closes an instant by testing every pending context of that instant, and sends its step mark after a step's last instant. -/
  | instantClose (c : Fin 64) (hits : List MemHit)
  /-- STEP_START (R211): A step starts at a core once the previous step has drained and its nominal start is reached, and the core enters or leaves SHED. -/
  | stepStart (c : Fin 64)
  /-- CONTEXT_AGE_SWEEP (R208): An event engine visits a context and sets OLD when it has not integrated for 255 instants. -/
  | contextAgeSweep (c : Fin 64) (ix : Nat) (hits : List MemHit)
  /-- WINDOW_END (R216): When every core has drained a window's last step the device writes its WINDOW_COUNTS record and serves waiting READ_WINDOW descriptors. -/
  | windowEnd
  /-- LOOMING_HANDOVER (R221): The looming unit hands a tick's samples to the FTU when the covering step has drained, or INCOMPLETE at the publish deadline. -/
  | loomingHandover
  /-- REFLEX_FIRE (R222): A fire of a reflex group updates its sliding-window count and drives the reflex pin active when the threshold is met. -/
  | reflexFire (parity : Bool)
  /-- REFLEX_HOLD_EXPIRY (R223): The hold of an unlatched reflex output expires and the pin returns to its inactive level. -/
  | reflexHoldExpiry (r : Fin 2)
  /-- FABRIC_HALT (R226): At the first step boundary at or after a STOP's T the fabric halts with every earlier step drained. -/
  | fabricHalt
  /-- FABRIC_SET_CHANGE (R226): At the first step boundary at or after a swap's effective tick the fabric changes to the new set. -/
  | fabricSetChange
  /-- DRDY_EDGE (R232): A filtered IMU data-ready edge is stamped and starts an SPI read, or is latched behind a read in progress. -/
  | drdyEdge (i : Fin 2) (held : Nat)
  /-- IMU_READ_COMPLETE (R232): An IMU read ends and its elements enter the filter channels as raw samples. -/
  | imuReadComplete (i : Fin 2) (data : List Byte) (perr : Nat)
  /-- ENCODER_TRANSITION (R235): A quadrature transition updates the encoder counter or is counted as illegal. -/
  | encoderTransition (e : Fin 8) (a : Bool) (b : Bool) (held : Nat)
  /-- ENCODER_SAMPLE (R236): At each microsecond boundary an enabled encoder delivers its count increment as a sample. -/
  | encoderSample (e : Fin 8) (perr : Nat)
  /-- CAN_FRAME (R238): A CAN controller receives a frame without error, stamps it and passes it through filters and signal maps. -/
  | canFrame (c : Fin 4) (sof : Nat) (fr : CanFrame) (taken : Nat) (perr : Nat)
  /-- BUS_OFF_RECOVERY (R237): A bus-off CAN controller recovers after 128 occurrences of 11 recessive bits. -/
  | busOffRecovery (c : Fin 4)
  /-- GNSS_SENTENCE (R243): A complete GGA or RMC sentence is checked, stamped from the PPS edge and given to the FTU. -/
  | gnssSentence (arrived : Nat) (text : List Byte)
  /-- GNSS_BYTE (R245): In raw mode a received GNSS byte is placed in the FIFO or discarded when full. -/
  | gnssByte (b : Byte)
  /-- RESAMPLER_TIMEOUT (R251): Device time reaches t_eval plus WAIT_NS and the resampler computes the channel output for that instant. -/
  | resamplerTimeout (n : Fin 32) (perr : Bool)
  /-- CHANNEL_GAP_RESTART (R254): A channel whose source falls silent past its gap limit restarts and releases any active threshold. -/
  | channelGapRestart (n : Fin 32)
  /-- FUSION_PASS (R265): At a tick's publish deadline the FTU aligns sources, updates ego and tracks, replays late samples and writes the fused result record. -/
  | fusionPass
  /-- RESIDUAL_RETURN (R278): The model core returns a track's residual values for the next pass. -/
  | residualReturn (id : Nat)
  /-- SHROUD_SAMPLE (R394): Every 0.5 us the energy model and rail sense form a current sample and the Shroud limiter throttles or releases issue duty. -/
  | shroudSample (r : Fin 6) (acts : List Nat) (sense : Nat)
  /-- EST_MISMATCH (R396): The 1 ms estimated and measured rail currents are compared and EST_MISMATCH is set when they differ. -/
  | estMismatch (r : Fin 5)
  /-- OP_STEP (R387): The power manager takes one operating point step, ordering voltage and clock changes. -/
  | opStep
  /-- VR_CHECK (R388): At the end of a 10 us voltage wait the rail monitor checks the compute rail and sets VR_ERR on deviation. -/
  | vrCheck (d : Fin 2) (mv : Nat)
  /-- CAP_EVALUATION (R401): Each millisecond Mainstay evaluates the software cap and takes at most one down or up action. -/
  | capEvaluation
  /-- THERMAL_CONTROL (R406): Mainstay adjusts the thermal bound and duty from die temperatures. -/
  | thermalControl (temps : List Int)
  /-- THERMTRIP (R407): A sensor at 125 C or more asserts THERMTRIP_N and raises a Device-fatal error. -/
  | thermtrip (sensor : Nat) (temp : Int)
  /-- RAIL_MEASURE (R408): Every 10 us the rail monitor measures rail voltages and currents. -/
  | railMeasure (mv : List Nat)
  /-- IDLE1_EXPIRY (R411): The IDLE1 timer expires and the device enters REEF1 by gating its fast clocks. -/
  | idle1Expiry
  /-- IDLE2_EXPIRY (R411): The IDLE2 timer expires and the device begins entry to REEF2. -/
  | idle2Expiry (l12 : Bool)
  /-- IDLE3_EXPIRY (R411): The IDLE3 timer expires and the device begins entry to REEF3. -/
  | idle3Expiry
  /-- REEF_ENTRY_DONE (R415): A reef entry sequence ends and any latched wake starts the exit. -/
  | reefEntryDone
  /-- WAKE (R417): A wake source is detected in a reef state and the exit sequence of that state begins. -/
  | wake (w : WakeSource)
  /-- READY (R416): After the fixed exit delay the device is ready, held doorbells act and the loss is recorded; where a power sequence has come to its rail check (R420), the check runs first, on the rail monitor's readings in the order of R491. -/
  | ready (mv : List Nat) (ddr : Bool)
  /-- POR (R426): The always-on supplies rise through their thresholds and the whole device resets and runs the REEF3 exit sequence. -/
  | por (straps : BitVec 3) (testEn : Bool) (gib : Nat)
  /-- WARM_RESET (R426): PERST_N or RESET_N is asserted and released, resetting everything except the AON domain. -/
  | warmReset (resetN : Bool) (held : Nat)
  /-- WATCHDOG_RESET (R426): The Mainstay watchdog expires and the device resets as for a warm reset. -/
  | watchdogReset
  /-- SCRUB_VISIT (R440): The scrubber reads an SRAM word and corrects single-bit errors. -/
  | scrubVisit (m : MemKind) (addr : Nat) (shadow : Bool) (hit : MemHit)
  /-- VEJAN_RETRY (R445): A Vejan receiver sees a CRC failure or sequence gap and the sender replays from its retry buffer. -/
  | vejanRetry (l : Fin 7)
  /-- RETRAIN_COMPLETE (R446): A Vejan retrain completes, replays its buffer and is reported as Corrected. -/
  | retrainComplete (l : Fin 7)
  /-- RETRAIN_TIMEOUT (R446): A retrain not completed within 10 us has failed and takes its compute die offline. -/
  | retrainTimeout (l : Fin 7)
  /-- HALYARD_HOP_RETRY (R448): A Halyard hop fails its CRC and is retried, and a fourth failure is Device-fatal. -/
  | halyardHopRetry
  /-- PROGRESS_WATCHDOG_EXPIRY (R477): A unit's progress watchdog expires and the device raises the fault and orders a snapshot capture. -/
  | progressWatchdogExpiry (die : Fin 5) (unit : Nat) (reasons : List Nat) (idleNs : Nat)
  /-- SNAPSHOT_CAPTURE (R478): A die receives the capture command and writes its part of the hang snapshot, after which the die's error handling applies. -/
  | snapshotCapture (die : Fin 5) (units : List UnitSnap) (eccs : List Ecc)
  /-- HARDWARE_TRIGGER (R474): An enabled hardware trigger condition moves an armed trace to TRIGGERED, or is counted as ignored. -/
  | hardwareTrigger (k : Fin 9)
  /-- TRACE_FIFO_DRAIN (R475): The trace writer moves an entry from a die FIFO into the trace ring, freezing the trace when POST_QUOTA is reached. -/
  | traceFifoDrain (die : Fin 5)
  /-- COUNTER_EXPORT (R473): Every EXPORT_TICKS ticks the live operation counters are written as trace entries. -/
  | counterExport
  /-- LIFETIME_SAMPLE (R486): Once per second Mainstay samples Tj and rails into the lifetime histograms and counts POWER_ON_S. -/
  | lifetimeSample
  /-- LIFETIME_COPY_WRITE (R487): Mainstay writes a new lifetime copy to the next flash slot. -/
  | lifetimeCopyWrite (ok : Bool)
  /-- STEP_BOUNDARY (R228): Device time reaches a nominal step boundary k x P x 1,000 ns, where register writes waiting for the next step boundary take effect and surface engines send their step marks. -/
  | stepBoundary
  /-- CAN_BUS_ERROR (R237): A CAN controller detects a bus error, updates REC and TEC under fault confinement and may move to error passive or bus-off. -/
  | canBusError (c : Fin 4) (err : CanError)
  /-- AON_POWER_LOSS (R493): VDD_AON or VDDIO_AON falls below its threshold, POR is asserted again and the device is Off, with lifetime counts since the last copy lost. -/
  | aonPowerLoss
  /-- SLEW_INTERVAL_END (R361): The remaining interval of a slew engine runs out, REM reaches 0 and TIM_STATUS.SLEWING clears. -/
  | slewIntervalEnd (k : Fin 3)
  /-- LPDDR_WRITE_DONE (R305): The last byte of an LPDDR_WRITE range is written to LPDDR5X and the descriptor completes OK with the bytes copied. -/
  | lpddrWriteDone (f : Fin 8) (q : Fin 4) (data : List Byte)
  /-- FW_UPDATE_DONE (R310): The firmware image has been read, checked and written to flash, and FW_UPDATE completes with the accepted firmware version. -/
  | fwUpdateDone (f : Fin 8) (q : Fin 4)
  /-- IMU_XFER_DONE (R234): A software-started IMU SPI transfer ends, the received bytes replace XFER_DATA and BUSY clears. -/
  | imuXferDone (i : Fin 2) (data : List Byte)
  deriving DecidableEq, Repr

end Sys2Proof
end

