-- ==== Sys2Proof/Decode.lean ====
section
/-! DEFINITION. Words of the opcode table: no row of this block's table gives bits, so no word spells a command. -/

namespace Sys2Proof

/-- The command that `w` spells in `nbits` bits of the table's numbering: none, since no row of the table has bits. -/
def decodeTableWord (_nbits _w : Nat) : Option Instr := none

end Sys2Proof
end

