-- ==== Sys2Proof/Config.lean ====
section
/-! DEFINITION. What the spec leaves open: constants and free values without a body. -/

namespace Sys2Proof.Config

/-- The n-th free value of a run (DESIGN CHOICE, log entry 10): the value of something the spec leaves open. -/
opaque free : Nat → Nat

/-- Mainstay's line through kept stamp pairs (S, t): OFS in ns at the newest S, RATE in 2^−32 ns per µs (R379, DESIGN CHOICE, log entry 18). -/
opaque fitLine : List (Nat × Nat) → Nat × Nat

/-- How many FP32 codes the coefficients a and b of flow points (dx, dy, t), evaluated in FP32 in an order the spec does not give, lie from the exact least-squares solution rounded to FP32 (R92, DESIGN CHOICE, log entry 20). -/
opaque flowUlps : List (Int × Int × Int) → Int × Int

/-- The FP32 codes of a and b where the points allow no single solution (R92, DESIGN CHOICE, log entry 20). -/
opaque flowFlat : List (Int × Int × Int) → Nat × Nat

/-- Which event of each group of 2^DECIM a tap's decimator passes (R102 says one of them, DESIGN CHOICE, log entry 21). -/
opaque tapPhase : (counter : Nat) → Nat

/-- Whether input A leading input B counts an encoder up (R235 names no direction, DESIGN CHOICE, log entry 22). -/
opaque encoderUp : Bool

/-- Where an image places the weights and planes of its layer at a position, in the memory that WMEM and UNIT name (R155, R159, R343): start and length in bytes of each stretch. The spec gives no layout for the addresses (DESIGN CHOICE, log entry 30). -/
opaque placement : (image : List Byte) → (layer : Nat) → List (Nat × Nat)

/-- Weight code `i` of the weights at offset `ofs` of an image, as stored in `width` bits; the spec gives no storage order (DESIGN CHOICE, log entry 31). -/
opaque weightCode : (image : List Byte) → (ofs width i : Nat) → Nat

/-- Offsets and counts in the fabric section, whose arrangement the spec does not give (R193, R199, R340; DESIGN CHOICE, log entry 32): the 16 class entries of a core, the eight input maps, N_c, class and route entry offset of a neuron, first-level, second-level and synapse tables of a core. -/
opaque fabClassAt : (image : List Byte) → (core : Nat) → Nat
/-- The input maps. -/
opaque fabMapAt : (image : List Byte) → Nat
/-- N_c. -/
opaque fabCount : (image : List Byte) → (core : Nat) → Nat
/-- Class and route entry offset of a neuron. -/
opaque fabNeuron : (image : List Byte) → (core i : Nat) → Nat × Nat
/-- The first-level index table. -/
opaque fabFirstAt : (image : List Byte) → (core : Nat) → Nat
/-- The second-level table. -/
opaque fabSecondAt : (image : List Byte) → (core : Nat) → Nat
/-- The synapse words. -/
opaque fabSynAt : (image : List Byte) → (core : Nat) → Nat

/-- The looming TTC table in an image (R220, R340; DESIGN CHOICE, log entry 32). -/
opaque ttcAt : (image : List Byte) → Nat

/-- Where the neighbour mirror lies in the bolt store of MSD `m` (R79, R343; DESIGN CHOICE, log entry 30). -/
opaque mirrorAt : (regions : List (Nat × Nat × Nat)) → (m : Nat) → Nat

/-- Bolt-store space taken by aging wheels, dirty sets and burst buffers, from the tile ranges of the enabled regions (R343; DESIGN CHOICE, log entry 30). -/
opaque auxSpace : (regions : List (Nat × Nat × Nat)) → List (Nat × Nat × Nat)

/-- Bolt-store space of a trace ring of a size in MiB (R471; DESIGN CHOICE, log entry 30). -/
opaque traceSpace : (mib : Nat) → List (Nat × Nat × Nat)

/-- Whether the FTU section of an image maps a residual network to a core (R263, R278; DESIGN CHOICE, log entry 32). -/
opaque residualOn : (ftu : List Byte) → (core : Nat) → Bool

/-- The FP32 scale of residual `i` in the FTU section of an image (R278; DESIGN CHOICE, log entry 32). -/
opaque residScale : (ftu : List Byte) → (i : Nat) → Nat

/-- Source field of feature `i` in the feature table (0–9 an element of the track state, 10 ego forward speed, 11 ego yaw rate, 12 track age), and its FP32 scale (R278; DESIGN CHOICE, log entry 32). -/
opaque featSource : (ftu : List Byte) → (i : Nat) → Fin 13
/-- The FP32 scale of a feature. -/
opaque featScale : (ftu : List Byte) → (i : Nat) → Nat

/-- The INT8 feature that a value which is no number gives (R278; DESIGN CHOICE, log entry 159). -/
opaque featNan : Nat

/-- Weight of input `j` and bias of output `o` in layer `k` (0–2) of the residual network (R278; DESIGN CHOICE, log entry 32). -/
opaque residWeight : (ftu : List Byte) → (k o j : Nat) → BitVec 8
/-- The bias of an output. -/
opaque residBias : (ftu : List Byte) → (k o : Nat) → Int
/-- The value before saturation that output `o` of layer `k` forms from its sum; the spec gives the network's layers and not this conversion (R278; DESIGN CHOICE, log entry 159). -/
opaque residForm : (ftu : List Byte) → (k o : Nat) → (sum : Int) → Int

/-- Error-state standard deviation `i` in the FTU section, as an FP32 code (R271; DESIGN CHOICE, log entry 32). -/
opaque egoDev : (ftu : List Byte) → (i : Nat) → Nat
/-- Entry (r, c) of the covariance that a new track starts with, as an FP32 code (R280; DESIGN CHOICE, log entry 32). -/
opaque trackCov : (ftu : List Byte) → (r c : Nat) → Nat

/-- Component `i` of the number that a GNSS sample's fields give a slot, as an FP32 code: speed of an RMC, position in the run frame of a GGA. The spec gives no conversion (R262, R268; DESIGN CHOICE, log entry 98). -/
opaque gnssRaw : (frame : Option (Nat × Nat × Nat)) → (fields : List Nat) → (i : Nat) → Nat

/-- Forward speed and yaw rate where the flow points allow no single fit (R264; DESIGN CHOICE, log entry 98). -/
opaque visFlat : List (Nat × Nat × Nat × Nat) → Nat × Nat

/-- The energy coefficient of activity `k` of a die in fJ, from the part's calibration (R393; DESIGN CHOICE, log entry 143). -/
opaque energyCoef : (die k : Nat) → Nat

/-- A die's leakage power in mW at a voltage in mV and a Tj, from the part's calibration (R393; DESIGN CHOICE, log entry 143). -/
opaque leakage : (die mv : Nat) → (tj : Int) → Nat

/-- Whether a firmware image passes its header and signature check (R312), and the version it holds (R310); the spec refers its format elsewhere (DESIGN CHOICE, log entry 144). -/
opaque firmwareOk : List Byte → Bool
/-- The version of a firmware image. -/
opaque firmwareVersion : List Byte → Nat

/-- What an event ring's slot holds in which no event has come since the mode was entered (R479, R480; DESIGN CHOICE, log entry 135). -/
opaque emptyEvent : (time unit slot : Nat) → BitVec 64

end Sys2Proof.Config
end

