-- ==== Sys2Proof/Machine/State.lean ====
section
/-! DEFINITION. The state of the MH-9410 as plain data, and its value at reset. -/

namespace Sys2Proof.Machine

/-- Sparse data by key: keys strictly rising (SMap.sorted), an unlisted key holds the default its reader names. -/
abbrev SMap (α : Type) := List (Nat × α)

/-- Access codes of R7. -/
inductive Acc where
  | rw | ro | wo | w1c | w1s | rc
  deriving DecidableEq, Repr

/-- Retention classes (R10). -/
inductive Cls where
  | none | l | a | w | f | s
  deriving DecidableEq, Repr

/-- One field of a register table: lowest bit, width, access code, reset value, class. -/
structure FieldSpec where
  lo : Nat
  width : Nat
  acc : Acc
  reset : Nat
  cls : Cls
  deriving DecidableEq, Repr

/-- One row of a register table: base address, two nested repetitions, whether it is a LO/HI pair, its fields. -/
structure RegSpec where
  base : Nat
  n : Nat
  stride : Nat
  n2 : Nat
  stride2 : Nat
  pair : Bool
  fields : List FieldSpec
  deriving DecidableEq, Repr

/-- A register found at an address: its row, the address of its (LO) word, whether the address is the HI half. -/
structure RegHit where
  spec : RegSpec
  lo : Nat
  hi : Bool
  deriving DecidableEq, Repr

/-- One field of one register: the address of its (LO) word, lowest bit, width, reset value. -/
structure Fld where
  addr : Nat
  lo : Nat
  width : Nat
  reset : Nat
  deriving DecidableEq, Repr

/-- The key of a field in the register map. -/
def Fld.key (f : Fld) : Nat := f.addr * 64 + f.lo

/-! ### Reef states (R410–R418) -/

/-- A detected wake: WAKE_SRC and WAKE_PORT of MGT_REEF_STATUS (R433). -/
structure WakeMark where
  src : Nat
  port : Nat
  deriving DecidableEq, Repr

/-- Where the device stands between off and SAIL. Instants are reference cycles (TimeState.clk). -/
inductive Phase where
  /-- VDD_AON or VDDIO_AON absent (R493). -/
  | off
  /-- After a reset, until ready (R426). -/
  | boot (readyAt : Nat)
  | sail
  /-- An entry sequence toward REEF n, with a wake latched meanwhile (R415). -/
  | entering (n endAt : Nat) (wake : Option WakeMark)
  | reef (n : Nat)
  /-- The exit from REEF n (R416). -/
  | exiting (n readyAt : Nat) (wake : WakeMark)
  deriving DecidableEq, Repr

/-! ### Host interface -/

/-- The operation of a fetched descriptor, with its operands (R302). -/
inductive Op where
  | nop
  | loadSet (addr len : Nat) (inLpddr : Bool)
  | swapSet
  | start
  | stop (full : Bool)
  | setPhase (phase : Nat)
  | readWindow (window addr len : Nat)
  | trace (action : Nat) (inLpddr : Bool) (ring sources quota sizeMib : Nat)
  | dumpFetch (addr len ofs : Nat) (toRing : Bool) (ring : Nat)
  | fence (streams : Bool)
  | surroundings (ring : Nat)
  | fwUpdate (addr len : Nat)
  | lpddrWrite (src dst len : Nat)
  deriving DecidableEq, Repr

/-- How far the descriptor at the head of a submission ring has come (R298, R338). -/
inductive Stage where
  /-- Fetched; its row has not acted on it yet. A device-wide command also stands in the device-wide queue. -/
  | fetched
  /-- A LOAD_SET accepted while another load runs or a swap is pending (R345). -/
  | loadWait
  /-- Its effect has begun; a later row completes it. -/
  | running
  deriving DecidableEq, Repr

/-- What a GAP record stands for (R319). -/
structure Gap where
  lostType : Nat
  count : Nat
  first : Nat
  deriving DecidableEq, Repr

/-- A stream record before it is written: type, the index FIRST would name (R319), payload after the header, flags of R313. -/
structure Rec where
  type : Nat
  index : Nat := 0
  payload : List Byte := []
  poison : Bool := false
  error : Bool := false
  gap : Option Gap := none
  deriving DecidableEq, Repr

/-- A fetched descriptor (R301). -/
structure Desc where
  cid : Nat
  irq : Bool
  op : Op
  stage : Stage
  /-- The completion ring of its reserved entry, whether that ring has been disabled since, and the SQ's head after it (R298, R307). -/
  cq : Nat
  cqGone : Bool := false
  head : Nat
  /-- For a FENCE: the submission rings of its function and the staged records it still waits for (R304). -/
  waitRings : List Nat := []
  waitRecords : List Nat := []
  /-- For a DRAIN, a DUMP_FETCH to a ring or a SURROUNDINGS: records still to be staged, and its RESULT; `waitRecords` names those staged. -/
  chunks : List Rec := []
  result : Nat := 0
  deriving DecidableEq, Repr

/-- What a submission ring holds beside its registers: the tail of R297 and the descriptor it runs. -/
structure Sq where
  tail : Nat := 0
  cur : Option Desc := none
  deriving DecidableEq, Repr

/-- What a completion ring holds beside its registers: the head of R299, the phase of this pass (R309), entries reserved (R298). -/
structure Cq where
  head : Nat := 0
  phase : Bool := true
  resv : Nat := 0
  deriving DecidableEq, Repr

/-- A record that a producer hands over for ring `ring` of function `fn` (R319). -/
structure Handed where
  fn : Nat
  ring : Nat
  record : Rec
  deriving DecidableEq, Repr

/-- A staged record with its number in staging order (R319). -/
structure Staged where
  id : Nat
  record : Rec
  /-- A GAP record that still takes losses of its type. -/
  isOpen : Bool := false
  deriving DecidableEq, Repr

/-- What a stream ring holds beside its registers: read offset, generation (R317), staged records oldest first, records since the last interrupt and when the first of them was written (R322). -/
structure Str where
  rd : Nat := 0
  gen : Bool := true
  staged : List Staged := []
  irqCount : Nat := 0
  irqFirst : Option Nat := none
  deriving DecidableEq, Repr

/-- An access that waits for ready (R300, R418): a doorbell, a register write or read (requester's function, whether on its function page, offset, size, value), a long packet in its port FIFO with the device time of its last byte, an FLR. -/
inductive Held where
  | sq (f i v : Nat) | cq (f i v : Nat) | str (f i v : Nat) | urgent (f v : Nat)
  | write (f : Nat) (page : Bool) (off size v : Nat)
  | read (f : Nat) (page : Bool) (off size : Nat)
  | packet (p : Nat) (k : Packet) (last : Nat)
  | flr (f : Nat)
  deriving DecidableEq, Repr

/-- The host side of the device. -/
structure HostSide where
  sq : SMap Sq := []
  cq : SMap Cq := []
  str : SMap Str := []
  /-- Device-wide commands not accepted yet, in the order their fetches completed (R298): function and ring. -/
  wide : List (Nat × Nat) := []
  handed : List Handed := []
  nextId : Nat := 0
  held : List Held := []
  /-- Bytes the device has written to host memory, keyed function × 2^64 + address. -/
  mem : List Host.Cell := []
  /-- MSI-X messages sent, keyed function × 32 + vector. -/
  msix : SMap Nat := []
  /-- What the last read returned, low word first. -/
  rdata : List Word := []
  /-- Whether the last posted write of a function was of a kind that carries Relaxed Ordering while the host enables it (R321). -/
  lastRo : SMap Bool := []
  /-- Whether the host has cleared Enable Relaxed Ordering of a function (R321). [PRESUMED, log entry 156] -/
  roOff : SMap Bool := []
  deriving DecidableEq, Repr

/-- Staging latches (R514) and high-half read latches (R515), keyed requester × 2^32 + address of LO. -/
structure Latches where
  wr : SMap Word := []
  rd : SMap Word := []
  deriving DecidableEq, Repr

/-- At which boundary a deferred write acts (R519). -/
inductive Boundary where
  | tick (n : Nat) | step (k : Nat)
  deriving DecidableEq, Repr

/-- A register write waiting for its boundary (R519): the word address and the value written. -/
structure Deferred where
  due : Boundary
  addr : Nat
  value : Nat
  deriving DecidableEq, Repr

/-! ### Observation and errors -/

/-- A trace entry (R472). -/
structure TraceEntry where
  time : Nat
  source : Nat
  die : Nat
  unit : Nat
  arg : Nat
  data : Nat
  deriving DecidableEq, Repr

/-- A die's trace FIFO (R475): entries oldest first, and the losses a GAP entry will report. -/
structure TraceFifo where
  entries : List TraceEntry := []
  lost : Nat := 0
  lostMask : Nat := 0
  lostTime : Nat := 0
  deriving DecidableEq, Repr

/-- The trace facility (R470–R475). -/
structure TraceState where
  sources : Nat := 0
  quota : Nat := 0
  sizeMib : Nat := 0
  inLpddr : Bool := false
  fifo : SMap TraceFifo := []
  /-- Content of the ring, oldest first. -/
  ring : List TraceEntry := []
  /-- Entries still to write after the TRIGGER entry. -/
  post : Nat := 0
  /-- Hardware trigger conditions that hold and have not been taken (R474). -/
  conditions : Nat := 0
  /-- Events and spikes seen since the last sampled one, by engine and core (R473). -/
  evt : SMap Nat := []
  spike : SMap Nat := []
  /-- Counter values at the last INGEST entry of each port: committed, shed, overflow, stale. -/
  ingest : SMap Nat := []
  /-- The tick of the last counter export. -/
  exportAt : Nat := 0
  deriving DecidableEq, Repr

/-- The hang snapshot (R478–R483): what triggered it, capture time and sections of each die. -/
structure Dump where
  mode : Nat
  source : Nat
  die : Nat
  unit : Nat
  time : Nat
  /-- Device time from which on the event rings hold events (R480). -/
  ringSince : Nat := 0
  /-- Capture time of each die that has written its part. -/
  captured : SMap Nat := []
  sections : SMap (List UnitSnap) := []
  /-- Dies whose part is still awaited, and the dies and units whose expiries joined the snapshot: their faults act once it is written (R478). -/
  waiting : List Nat := []
  hung : List (Nat × Nat) := []
  deriving DecidableEq, Repr

/-- An uncorrected error in the lifetime records (R486). -/
structure LifeError where
  powerOn : Nat
  cls : Nat
  source : Nat
  die : Nat
  unit : Nat
  detail : Nat
  time : Nat
  deriving DecidableEq, Repr

/-- A cable entry in the lifetime records (R486). -/
structure LifeCable where
  loss : Nat
  len : Nat
  coax : Nat
  hours : Nat
  deriving DecidableEq, Repr

/-- Mainstay's lifetime values (R486). -/
structure Lifetime where
  seq : Nat := 0
  powerOn : Nat := 0
  resets : SMap Nat := []
  trips : SMap Nat := []
  retrains : SMap Nat := []
  ecc : SMap Nat := []
  uncorrTotal : Nat := 0
  uncorr : SMap LifeError := []
  tj : SMap Nat := []
  volt : SMap Nat := []
  cable : SMap LifeCable := []
  cableNext : SMap Nat := []
  deriving DecidableEq, Repr

/-- Counting, tracing, dumping and lifetime state. -/
structure Observe where
  /-- Live operation counters, keyed die × 32 + k (R466). -/
  opc : SMap Nat := []
  /-- Snapshots waiting for a tick boundary: 0 for DBG_OPC_CTL, f + 1 for function f; with the tick (R467, R468). -/
  snaps : List (Nat × Nat) := []
  trace : TraceState := {}
  dump : Option Dump := none
  life : Lifetime := {}
  /-- POWER_ON_S at the last flash copy. -/
  lifeAt : Nat := 0
  /-- The reference cycle of the last lifetime sample. -/
  sampleAt : Nat := 0
  /-- Lifetime copies in flash by slot, and the slot after the newest (R487). -/
  flash : SMap Lifetime := []
  flashNext : Nat := 0
  /-- A moment of R487 has come and its copy is not written yet. -/
  lifeDue : Bool := false
  deriving DecidableEq, Repr

/-- Corrected faults of one source and unit (R451): the millisecond of the last report, faults folded since, device time of the first of them. -/
structure Fold where
  ms : Nat
  count : Nat
  first : Nat
  detail : Nat
  deriving DecidableEq, Repr

/-- A Vejan link (R445, R446): device times of the retries of the last ms, and when a retrain began. -/
structure Link where
  retries : List Nat := []
  retrain : Option Nat := none
  deriving DecidableEq, Repr

/-- Error handling state. -/
structure Errors where
  folds : SMap Fold := []
  link : SMap Link := []
  /-- Failures of the Halyard message in progress on its hop (R448). -/
  hopFails : Nat := 0
  /-- Spikes counted by an armed injection (R461). -/
  fiFab : Nat := 0
  /-- Dies in a die reset: the reference cycle at which it ends (R426). -/
  dieResets : SMap Nat := []
  /-- Compute dies that came back from a die reset and stay parked until a swap (R460), one bit each. -/
  parked : Nat := 0
  /-- Device time at which the present service mode was entered, from which on event rings hold events (R479, R480). -/
  ringSince : Nat := 0
  deriving DecidableEq, Repr

/-! ### Time -/

/-- A slew engine (R361): the amount still to spread and the amount of one cycle in 2^−32 ns, and the cycles left. -/
structure Slew where
  rem : Int := 0
  per : Int := 0
  left : Nat := 0
  deriving DecidableEq, Repr

/-- A time pulse output (R373): index of the next pulse, whether it has a pulse left, the instant (ns) at which the present pulse ends. -/
structure Tpo where
  k : Nat := 0
  armed : Bool := false
  fall : Option Nat := none
  deriving DecidableEq, Repr

/-- An Ethernet MAC: transmit tail, frames sent with their FCS, FUSED_RESULT records waiting for export. -/
structure Mac where
  tail : Nat := 0
  sent : List (List Byte) := []
  exports : List Rec := []
  deriving DecidableEq, Repr

/-- A stamp pair of R379: sensor stamp S and device time t. -/
structure StampPair where
  s : Nat
  t : Nat
  deriving DecidableEq, Repr

/-- Mainstay's estimator of one port (R379–R381): the kept pair of each 10 ms bin, when it last committed. -/
structure Rebaser where
  bins : SMap StampPair := []
  lastFit : Nat := 0
  deriving DecidableEq, Repr

/-- Device time and what is timed by it. Counters are in units of 2^−32 ns, modulo 2^96. -/
structure TimeState where
  /-- The master counter on the IOD (R21). -/
  dev : Nat := 0
  /-- The follower counters of CD0, CD1, MSD0, MSD1 (R21, R22). -/
  followers : List Nat := [0, 0, 0, 0]
  domA : Nat := 0
  domB : Nat := 0
  slew : Slew := {}
  slewA : Slew := {}
  slewB : Slew := {}
  /-- Reference cycles of 4 ns since POR (the model's own, log entry 3). -/
  clk : Nat := 0
  /-- A switch of R365 that waits for its boundary: new selection, FORCE. -/
  switch : Option (Nat × Bool) := none
  tpo : SMap Tpo := []
  /-- Capture FIFOs, oldest first: stamps in ns (R376). -/
  tci : SMap (List Nat) := []
  /-- Edges of the last 2 s by capture input, newest first (R244). -/
  edges : SMap (List Nat) := []
  mac : SMap Mac := []
  rb : SMap Rebaser := []
  deriving DecidableEq, Repr

/-! ### Sensor ingest -/

/-- A decoded event that waits for the rebase stage: stamp in sensor µs, pixel, polarity (R42–R45). -/
structure Event where
  stamp : Nat
  x : Nat
  y : Nat
  pol : Bool
  /-- Its queue word failed a parity check (R436). -/
  poison : Bool := false
  deriving DecidableEq, Repr

/-- Where a port stands with its first rebase triple (R380). -/
inductive FirstTriple where
  /-- None wanted: not enabled since, or committed. -/
  | idle
  /-- Enabled; the first link training has not ended. -/
  | training
  /-- Trained; the first packet has not come. -/
  | packet
  /-- The first packet's pair (S, t). -/
  | pair (p : StampPair)
  deriving DecidableEq, Repr

/-- One sensor port beside its registers. -/
structure Port where
  /-- The time base TB of R45; none while invalid (R46). -/
  tb : Option Nat := none
  /-- The link is trained: long packets are received (R69). -/
  trained : Bool := false
  /-- A training is in progress. -/
  training : Bool := false
  /-- Failed trainings in succession (R74). -/
  fails : Nat := 0
  /-- The capability read of R69 is still to come. -/
  capWait : Bool := false
  first : FirstTriple := .idle
  /-- The decoder-to-rebase path: decoded events that the rebase stage takes in its next cycle, oldest first (R60). -/
  path : List Event := []
  /-- The burst buffer, oldest first; younger than the events of the path (R60). -/
  queue : List Event := []
  /-- READ and LEN_M1 of the CCI transaction in progress (R70, R75). -/
  cciRead : Bool := false
  cciLen : Nat := 0
  /-- Packets counted by an armed injection, and the packet held under SWAP (R72). -/
  fiCount : Nat := 0
  fiHeld : Option Packet := none
  /-- Device time (ns) of the held packet's last byte. -/
  fiLast : Nat := 0
  /-- The last 16 converter codes, oldest first (R67). -/
  codes : List Nat := []
  deriving DecidableEq, Repr

/-- The ingest side. -/
structure Ingest where
  port : SMap Port := []
  /-- Event words on their way to each surface engine, oldest first (R57); bit 64 is a word's poison tag (R436). -/
  words : SMap (List Nat) := []
  /-- The port the next rebase cycle serves first (R59). -/
  rr : Nat := 0
  /-- Credits that each surface engine grants in all (R59; log entry 16). -/
  pool : Nat := 64
  deriving DecidableEq, Repr

/-! ### Canvas -/

/-- A commit younger than the visibility window of R83: pixel key, engine, device time, the entry before it. -/
structure RecentWrite where
  key : Nat
  engine : Nat
  time : Nat
  old : Nat
  deriving DecidableEq, Repr

/-- A tile marked dirty in a tick (R97, R100, R101): port, tile coordinates, 128-bit element mask (bit 64 × polarity + pixel), WHOLE mark. -/
structure DirtyTile where
  tick : Nat
  engine : Nat
  port : Nat
  tx : Nat
  ty : Nat
  mask : Nat
  whole : Bool
  deriving DecidableEq, Repr

/-- An event that a surface engine's fit or injection still concerns. -/
structure EngineEvent where
  word : Nat
  corner : Bool
  time : Nat
  poison : Bool := false
  deriving DecidableEq, Repr

/-- A tap record being filled or waiting (R103, R104). -/
structure TapRecord where
  entries : List (List Byte) := []
  first : Nat := 0
  dropped : Nat := 0
  /-- An entry came from a poisoned word (R453); the record was cut short by the loss of its die (R438). -/
  poison : Bool := false
  error : Bool := false
  deriving DecidableEq, Repr

/-- One tap of one engine. -/
structure Tap where
  filling : TapRecord := {}
  closed : Option TapRecord := none
  /-- Entries dropped that the next record will report. -/
  dropped : Nat := 0
  deriving DecidableEq, Repr

/-- A normal flow value for the FTU (R92, R93): port, pixel, FP16 components, device time. -/
structure FlowSample where
  port : Nat
  x : Nat
  y : Nat
  vx : Nat
  vy : Nat
  time : Nat
  poison : Bool := false
  deriving DecidableEq, Repr

/-- The Canvas and its engines. -/
structure Canvas where
  /-- Pixel entries by MSD × 2^24 + tile × 64 + index (R77); an unlisted entry is both polarities STALE. -/
  entries : SMap Nat := []
  recent : List RecentWrite := []
  /-- Bits of the aging wheels: ((engine × 512 + slot) × 8 + port) × 2^16 + ty × 256 + tx (R98). -/
  wheel : SMap Bool := []
  /-- Dirty tiles not delivered yet (R101). -/
  dirty : List DirtyTile := []
  /-- The tick that each engine scans next (R99). -/
  scan : SMap Nat := []
  /-- Ports whose region waits for its initialisation (R522), one bit each. -/
  inits : Nat := 0
  /-- Tested events waiting for their flow fit, by engine (R92). -/
  fits : SMap (List EngineEvent) := []
  /-- Raising events that may be injected, by engine (R194). -/
  spikes : SMap (List EngineEvent) := []
  /-- Taps by engine × 2 + (1 for the corner tap). -/
  taps : SMap Tap := []
  /-- Events counted by the tap decimators: engine × 16 + port for events, engine × 16 + 8 for corners (R102). -/
  decim : SMap Nat := []
  /-- Flow values of the FTU's present interval. -/
  flows : List FlowSample := []
  /-- Entries that the scrubber stored as poisoned words (R440). -/
  bad : SMap Bool := []
  deriving DecidableEq, Repr

/-! ### Configuration sets: the dense side -/

/-- A stretch of a memory: 0–63 core memories, 64–71 cluster memories, 72 and 73 the bolt stores (R155, R343). -/
structure Range where
  mem : Nat
  start : Nat
  len : Nat
  deriving DecidableEq, Repr

/-- A pending entry: the applied value and whether it was poisoned (R134, R442). -/
structure Applied where
  value : Nat
  poison : Bool := false
  deriving DecidableEq, Repr

/-- One input edge of a layer (R134): the producer's position among the set's layers, the input copy, the pending store, poisoned elements of the copy. -/
structure EdgeSt where
  producer : Nat
  copy : List Nat := []
  pend : SMap Applied := []
  poison : SMap Bool := []
  deriving DecidableEq, Repr

/-- A layer of a loaded set: descriptor, parameter and table blocks as in the image, weight codes in reduction order, and what R134 keeps. -/
structure LayerSt where
  desc : List Byte
  params : List Byte := []
  table : List Byte := []
  weights : List Nat := []
  /-- Output width and height (R164). -/
  outW : Nat := 0
  outH : Nat := 0
  act : List Nat := []
  acc : List Nat := []
  edges : List EdgeSt := []
  marks : SMap Bool := []
  poisonAct : SMap Bool := []
  poisonAcc : SMap Bool := []
  /-- Poisoned weights, parameter entries and table entries (R442). -/
  poisonW : SMap Bool := []
  poisonParam : SMap Bool := []
  poisonTable : SMap Bool := []
  /-- Gauze-tainted (R131), and whether a refresh pass has begun since the last tick with τg > 0. -/
  tainted : Bool := false
  passBegun : Bool := false
  deriving DecidableEq, Repr

/-- A DPP descriptor with its anchor pairs (R187). -/
structure DppDesc where
  desc : List Byte
  anchors : List (Nat × Nat) := []
  deriving DecidableEq, Repr

/-- A Canvas tile still to be converted for a layer (R137, R147). -/
structure ConvTile where
  layer : Nat
  port : Nat
  tx : Nat
  ty : Nat
  mask : Nat
  whole : Bool
  deriving DecidableEq, Repr

/-- A delta packet on its way (R156): producer and consumer layers by position, the consumer's edge, element, y, y′. -/
structure DeltaPacket where
  producer : Nat
  consumer : Nat
  edge : Nat
  elem : Nat
  old : Nat
  new : Nat
  poison : Bool := false
  /-- The number of the group that it is a word of (R437). -/
  group : Nat := 0
  deriving DecidableEq, Repr

/-- The packet of a producer's changes (R156, R437): its words so far, and its length slot: reserved while it is open, then filled. `error` marks one that the loss of its producer's die closed (R438). -/
structure Group where
  words : Nat := 0
  len : Option Nat := none
  error : Bool := false
  deriving DecidableEq, Repr

/-! ### Configuration sets: the spike fabric side -/

/-- A parameter class (R192); the leak table is L[0]–L[255]. -/
structure ClassEntry where
  theta : Int := 1
  reset : Nat := 0
  graded : Bool := false
  fix : Int := 0
  shift : Nat := 0
  leak : List Nat := []
  vInit : Int := 0
  deriving DecidableEq, Repr

/-- A route entry (R197). -/
structure Route where
  mask : Nat := 0
  outIndex : Nat := 0
  outEn : Bool := false
  group : Nat := 0
  groupEn : Bool := false
  sector : Nat := 0
  loomEn : Bool := false
  deriving DecidableEq, Repr

/-- An input map (R195). -/
structure InputMap where
  base : Nat := 0
  en : Bool := false
  shiftX : Nat := 0
  shiftY : Nat := 0
  split : Bool := false
  posEn : Bool := false
  negEn : Bool := false
  payPos : Int := 0
  payNeg : Int := 0
  deriving DecidableEq, Repr

/-- A neuron context (R190), with its poison (R225). ACC is kept as the signed number its 42 bits hold, LAST as the instant's 16 bits. -/
structure Context where
  acc : Int := 0
  last : Nat := 0
  cls : Nat := 0
  pf : Bool := false
  old : Bool := true
  poison : Bool := false
  deriving DecidableEq, Repr

/-- The fabric section of a loaded set: class entries by core × 16 + class, N_c by core, input maps by port, route entries by source address, index tables and synapse words by core × 2^20 + entry (first level: core × 64 + entry) (R192–R199), and the contexts by source address. -/
structure FabSet where
  classes : SMap ClassEntry := []
  count : SMap Nat := []
  maps : SMap InputMap := []
  routes : SMap Route := []
  first : SMap Nat := []
  second : SMap Nat := []
  syn : SMap Nat := []
  ctx : SMap Context := []
  /-- Poisoned synapse words, index entries, route entries and class entries, under the keys above (R442). -/
  badSyn : SMap Bool := []
  badFirst : SMap Bool := []
  badSecond : SMap Bool := []
  badRoute : SMap Bool := []
  badClass : SMap Bool := []
  deriving DecidableEq, Repr

/-- A loaded configuration set (R340). -/
structure ConfigSet where
  id : Nat := 0
  useCd0 : Bool := false
  useCd1 : Bool := false
  layers : List LayerSt := []
  dpps : List DppDesc := []
  fab : FabSet := {}
  /-- The FTU section and the work-phase table, as in the image (R340, R389). -/
  ftuSection : List Byte := []
  /-- The looming TTC table, FP16 codes of entries 1–127 (R220). -/
  ttc : List Nat := []
  phases : List Byte := []
  places : List Range := []
  /-- Dirty tiles that a cut left unconverted (R147, R350). -/
  carried : List ConvTile := []
  /-- Delta packets on their way among its layers, oldest first, and the packets of changes, open or not yet taken whole, by number (R156, R437). -/
  packets : List DeltaPacket := []
  groups : SMap Group := []
  /-- The open group of each producer, and the number of the next group. -/
  opened : SMap Nat := []
  nextGroup : Nat := 0
  deriving DecidableEq, Repr

/-! ### The dense path -/

/-- A detection handed to the FTU (R186). Score and corners are FP32 codes. -/
structure Detection where
  port : Nat
  cls : Nat
  score : Nat
  x0 : Nat
  y0 : Nat
  x1 : Nat
  y1 : Nat
  cand : Nat
  die : Nat
  poison : Bool
  deriving DecidableEq, Repr

/-- What the dense work of a tick leaves for the FTU (R131, R149). -/
structure TickResult where
  done : Bool := false
  gauze : Bool := false
  dets : List Detection := []
  /-- Ego head values at completion, as FP32 codes (R264); whether one was poisoned. -/
  head : List Nat := []
  headPoison : Bool := false
  deriving DecidableEq, Repr

/-- A sweep (R151, R152): the layer and the output element that its next slice begins with, and whether its slice is running in this gap. -/
structure Sweep where
  layer : Nat := 0
  pos : Nat := 0
  running : Bool := false
  deriving DecidableEq, Repr

/-- The dense path. -/
structure Dense where
  /-- The next tick to work (R146), none while no run is in force. -/
  next : Option Nat := none
  /-- Its dirty sets have been delivered and its work has begun. -/
  working : Bool := false
  /-- The last tick of the run ended by a cut, with work left for a drain (R150). -/
  carry : Bool := false
  /-- Swaps that the dense path has not followed yet, oldest first: the tick from which the new set is worked (R350), and whether the sets have exchanged roles. -/
  swaps : List (Nat × Bool) := []
  /-- Ticks treated as WHOLE (R136). -/
  whole : List Nat := []
  /-- Engines that have delivered their dirty set, by tick, one bit each. -/
  delivered : SMap Nat := []
  /-- Dirty tiles delivered and not taken up yet. -/
  inbox : List DirtyTile := []
  /-- Tiles still to convert in the tick being worked. -/
  todo : List ConvTile := []
  /-- DPP descriptors of the set that have run in this tick, and their detections. -/
  dppDone : List Nat := []
  dets : List Detection := []
  /-- Gauze levels set at the boundary of each tick: CD0 + 32 × CD1 (R128). -/
  levels : SMap Nat := []
  /-- Results of ended ticks, until the FTU takes them. -/
  results : SMap TickResult := []
  gauzeSeen : Bool := false
  check : Sweep := {}
  refresh : Sweep := {}
  /-- A slice still ran as the next tick's work became ready: the compute dies' issue does not start from idle (R398). -/
  busy : Bool := false
  /-- The lowest layer that produced NaN in the present unit of work (R113). -/
  nanUnit : Option Nat := none
  deriving DecidableEq, Repr

/-! ### The spike fabric -/

/-- A spike on its way to one target core (R189, R198): its source — a core's neuron, or an input of engine `engine` — stamp as an absolute microsecond (the instant is its low 16 bits), payload, and how many steps its source had marked when it was sent (R210). -/
structure Spike where
  core : Nat
  source : Nat
  engine : Option Nat := none
  stamp : Nat
  payload : Int
  poison : Bool := false
  marks : Nat := 0
  deriving DecidableEq, Repr

/-- What a core keeps for the barrier (R205, R211–R213): the closed-through instant as an absolute microsecond, the step it is in, its SHED state, its injection buffer. -/
structure CoreFab where
  closed : Nat := 0
  step : Option Nat := none
  /-- The core itself ran the step that it is in, and its drain is not counted yet. -/
  ran : Bool := false
  shed : Bool := false
  buffer : List Spike := []
  deriving DecidableEq, Repr

/-- A count window being filled (R216–R219): counts, payload sums and poison by output index, shed input spikes, folds, largest slip, and whether a die went offline in it. -/
structure Window where
  counts : SMap Nat := []
  sums : SMap Int := []
  poison : SMap Bool := []
  shed : Nat := 0
  fold : Nat := 0
  slip : Nat := 0
  loss : Bool := false
  deriving DecidableEq, Repr

/-- A kept window record (R303). -/
structure KeptWindow where
  index : Nat
  record : Rec
  deriving DecidableEq, Repr

/-- A fire that updates a looming sector (R220). -/
structure LoomFire where
  stamp : Nat
  payload : Int
  poison : Bool
  die : Nat
  deriving DecidableEq, Repr

/-- A looming sample handed to the FTU (R220, R221). -/
structure LoomSample where
  ttc : Nat
  age : Nat
  valid : Bool
  incomplete : Bool
  poison : Bool
  deriving DecidableEq, Repr

/-- A fire of an output group on its way to the reflex unit (R222). -/
structure ReflexFire where
  group : Nat
  step : Nat
  deriving DecidableEq, Repr

/-- A reflex output beside its registers: fire counts by step, the newest step counted, the instant (ns) at which the hold ends. -/
structure Reflex where
  counts : SMap Nat := []
  newest : Nat := 0
  holdEnd : Nat := 0
  deriving DecidableEq, Repr

/-- The spike fabric. -/
structure Fabric where
  running : Bool := false
  /-- The first step of the run, and the step B of a stop (R226). -/
  first : Nat := 0
  halt : Option Nat := none
  /-- Swaps that the fabric has not followed yet, oldest first: the step from which the new set runs (R226), and whether the sets have exchanged roles. -/
  swaps : List (Nat × Bool) := []
  core : SMap CoreFab := []
  flight : List Spike := []
  /-- Steps that each surface engine has marked (R210). -/
  marks : SMap Nat := []
  windows : SMap Window := []
  /-- The next window to end. -/
  winNext : Nat := 0
  kept : List KeptWindow := []
  loom : SMap (List LoomFire) := []
  /-- The next tick whose looming samples are handed over. -/
  loomNext : Nat := 0
  loomOut : SMap (List LoomSample) := []
  reflexQ : List ReflexFire := []
  reflex : SMap Reflex := []
  deriving DecidableEq, Repr

/-! ### Auxiliary inputs and the filter chain -/

/-- One threshold of a channel (R256) beside its ACTIVE bit: the run, whether a counted output carried POISON, and EN, OUT_EN, MIN_N_M1 and LVL as of the channel's last output (R260). -/
structure Threshold where
  run : Nat := 0
  poison : Bool := false
  en : Bool := false
  outEn : Bool := false
  minN : Nat := 0
  lvl : Nat := 0
  deriving DecidableEq, Repr

/-- A CIC output kept by the resampler (R250). -/
structure Point where
  stamp : Nat
  value : Int
  deriving DecidableEq, Repr

/-- A filter channel beside its registers (R247–R256). -/
structure Channel where
  /-- The FIR delay line, newest first. -/
  fir : List Int := []
  /-- CIC integrators and combs, first stage first. -/
  ints : List Int := []
  combs : List Int := []
  /-- FIR outputs since the last CIC output. -/
  phase : Nat := 0
  /-- The 16 most recent CIC outputs, newest first. -/
  hist : List Point := []
  /-- The estimate of their spacing: spNum / 64^spPow ns. -/
  spNum : Nat := 0
  spPow : Nat := 0
  /-- Raw samples since the restart. -/
  raw : Nat := 0
  lastRaw : Option Nat := none
  /-- The next instant to compute, in ticks. -/
  next : Nat := 0
  /-- Instant (ns) and FP32 code of the last output handed over. -/
  lastInstant : Nat := 0
  sat : Bool := false
  /-- A coefficient read since the last output had a parity error (R252). -/
  perr : Bool := false
  thrA : Threshold := {}
  thrB : Threshold := {}
  deriving DecidableEq, Repr

/-- An IMU master: the stamp of the read in progress and of a latched edge (R232, R233). -/
structure Imu where
  reading : Option Nat := none
  latched : Option Nat := none
  /-- The bytes sent in the transfer or read in progress, chip select asserted (R232, R234). -/
  sent : List Byte := []
  deriving DecidableEq, Repr

/-- What a signal map takes from a frame (R240, R241): the map, DIRECT, the value. -/
structure CanValue where
  map : Nat
  direct : Bool
  value : Int
  deriving DecidableEq, Repr

/-- A received frame in the receive FIFO, its filter and maps as they stood when it was received (R260): stamp and values. -/
structure CanKept where
  stamp : Nat
  vals : List CanValue
  deriving DecidableEq, Repr

/-- What a CAN controller last sent: an acknowledge, an active or a passive error frame (R237). -/
inductive CanSent where
  | ack | activeError | passiveError
  deriving DecidableEq, Repr

/-- A CAN controller beside its registers: its receive FIFO, oldest first, and what it last sent (R237). -/
structure CanPort where
  fifo : List CanKept := []
  sent : Option CanSent := none
  deriving DecidableEq, Repr

/-- A wheel encoder: the two input levels, the counter at the last sample, the microsecond of that sample (R235, R236). -/
structure Encoder where
  a : Bool := false
  b : Bool := false
  prev : Nat := 0
  us : Nat := 0
  deriving DecidableEq, Repr

/-- The filter chain. -/
structure Filter where
  chan : SMap Channel := []
  imu : SMap Imu := []
  can : SMap CanPort := []
  enc : SMap Encoder := []
  /-- Coefficient memory by address, 16-bit codes (R261). -/
  coef : SMap Nat := []
  /-- Raw GNSS bytes, oldest first (R245). -/
  gnss : List Byte := []
  /-- The tick boundary from which outputs are not handed over (R259). -/
  stopAt : Option Nat := some 0
  deriving DecidableEq, Repr

/-! ### Fusion and tracking -/

/-- Where a sample comes from (R241, R243, R252). -/
inductive Origin where
  | chan (n : Nat) | can (map : Nat) | gga | rmc
  deriving DecidableEq, Repr

/-- A sample handed to the FTU: stamp in ns, values (an FP32 code for a channel or CAN map, the fields of R243 for a sentence), flags. -/
structure Sample where
  origin : Origin
  stamp : Nat
  vals : List Nat
  sat : Bool := false
  poison : Bool := false
  noPps : Bool := false
  /-- Device time (ns) at which it reached the FTU. -/
  arrived : Nat := 0
  deriving DecidableEq, Repr

/-- A sample that a source slot holds: stamp in ns, FP32 values, poison. -/
structure SlotSample where
  stamp : Nat
  vals : List Nat
  poison : Bool := false
  deriving DecidableEq, Repr

/-- A source slot beside its registers (R266, R272). -/
structure SourceSlot where
  /-- The 64 most recent samples, stamps rising. -/
  samples : List SlotSample := []
  /-- Arrivals (device ns) of the last 1,024 ticks, newest first, and of the last sample. -/
  arrivals : List Nat := []
  lastArrival : Option Nat := none
  /-- Values of the last sample received, and how many consecutive ones were identical to it. -/
  lastVals : List Nat := []
  same : Nat := 0
  /-- Normalised squared innovations of the last fresh updates, newest first. -/
  chi : List Nat := []
  /-- Monitor tests that mask the slot, by code, with the passes each has passed since it failed. -/
  tests : SMap Nat := []
  /-- Quantities whose test masked the slot CONTRA, one bit each. -/
  contra : Nat := 0
  /-- Masked for a reason other than STALE in the last pass. -/
  counted : Bool := false
  deriving DecidableEq, Repr

/-- The contradiction test of a quantity (R274): runs of its conditions in passes, passes since the contradiction began, passes in which each group agreed with every other. -/
structure Quantity where
  odd : Option Nat := none
  oddRun : Nat := 0
  splitRun : Nat := 0
  since : Option Nat := none
  agreeRun : Nat := 0
  groups : SMap Nat := []
  deriving DecidableEq, Repr

/-- The ego estimate (R268, R287), FP32 codes: the nominal position, velocity, attitude and biases in the run frame, and the covariance of the 15 error states. -/
structure Ego where
  pos : List Nat := [0, 0, 0]
  vel : List Nat := [0, 0, 0]
  quat : List Nat := [0x3F800000, 0, 0, 0]
  rate : List Nat := [0, 0, 0]
  gyroBias : List Nat := [0, 0, 0]
  accelBias : List Nat := [0, 0, 0]
  /-- The covariance of the error state, 15 rows of 15: position, velocity, attitude, gyro bias, accelerometer bias. -/
  cov : List Nat := List.replicate 225 0
  /-- The attitude has been levelled since START (R271). -/
  levelled : Bool := false
  poison : Bool := false
  deriving DecidableEq, Repr

/-- Track states (R281). -/
inductive TrackState where
  | tentative | confirmed | coasting
  deriving DecidableEq, Repr

/-- A track (R277–R281). -/
structure Track where
  id : Nat
  st : TrackState := .tentative
  port : Nat
  cls : Nat
  age : Nat := 0
  /-- x, y, z, vx, vy, vz, yaw, yaw rate, length, width as FP32 codes. -/
  vec : List Nat
  /-- Its covariance as FP32 codes, 10 rows of 10 in the order of the state. -/
  cov : List Nat
  /-- Hits and misses since birth, newest first, while TENTATIVE; consecutive misses. -/
  hits : List Bool := []
  misses : Nat := 0
  conf : Nat := 0
  predicted : Bool := false
  resid : Bool := false
  residMiss : Bool := false
  poison : Bool := false
  /-- The 16 INT8 features that have gone to the model core for the next pass (R278). -/
  sent : Option (List Byte) := none
  deriving DecidableEq, Repr

/-- An epoch clone (R284): P, position, velocity and covariance (of position and velocity, 6 rows of 6), and its cross-covariance with the live state (6 rows of 15). -/
structure Clone where
  p : Nat
  pos : List Nat
  vel : List Nat
  cov : List Nat
  cross : List Nat
  deriving DecidableEq, Repr

/-- What a replay restores (R282). -/
structure Moment where
  ego : Ego := {}
  tracks : List Track := []
  /-- Newest first. -/
  clones : List Clone := []
  /-- Residuals returned, by track ID. -/
  resid : SMap (List Byte) := []
  /-- The instant before (ns). -/
  last : Nat := 0
  deriving DecidableEq, Repr

/-- An instant among the 16 most recently passed (R282): its tick, what stood before its updates, its detections, the aligned inputs of its slots, the deduction of its pass, and whether its pass updated the state through a clone, and with poison. -/
structure Passed where
  tick : Nat
  before : Moment
  valid : Bool
  dets : List Detection
  inputs : SMap (List Nat) := []
  deduction : Nat := 0
  clone : Option Bool := none
  deriving DecidableEq, Repr

/-- The fusion and tracking unit beside its registers. -/
structure Ftu where
  /-- Samples that reached the FTU since the last pass, oldest first. -/
  inbox : List Sample := []
  /-- PPS edges of the last 2 s, oldest first (R284). -/
  pps : List Nat := []
  slots : SMap SourceSlot := []
  quant : SMap Quantity := []
  cur : Moment := {}
  /-- Newest first. -/
  passed : List Passed := []
  /-- The tick of the next pass, none while no run is in force; the first tick of the run, and when it began. -/
  next : Option Nat := none
  first : Nat := 0
  startAt : Nat := 0
  /-- D of R265 in force. -/
  decim : Nat := 0
  /-- The run frame: none for the level frame of the ego at START, else LAT, LON and ALT of the east-north-up frame (R268). -/
  frame : Option (Nat × Nat × Nat) := none
  /-- Passes since the mode last changed (R270). -/
  ramp : Option Nat := none
  deriving DecidableEq, Repr

/-! ### Power -/

/-- A Shroud limiter (R394, R395), and what is measured of its rail: the last current samples in µA, newest first, its duty in 64ths, samples in succession at or below 0.9 × LIMIT_A, whether its throttle is being released. -/
structure Limiter where
  samples : List Nat := []
  duty : Nat := 64
  low : Nat := 0
  releasing : Bool := false
  /-- Estimated and measured current in µA summed over the present millisecond, with the number of samples (R396, R408). -/
  estSum : Nat := 0
  measSum : Nat := 0
  count : Nat := 0
  /-- Their means over the last whole millisecond. -/
  estMean : Nat := 0
  measMean : Nat := 0
  deriving DecidableEq, Repr

/-- A voltage written to a compute rail's regulator (R388): over PMBus to an address, or over AVSBus to a rail select. -/
structure VrWrite where
  die : Nat
  pmbus : Bool
  addr : Nat
  mv : Nat
  deriving DecidableEq, Repr

/-- Power and thermal control beside the registers. -/
structure Power where
  limiter : SMap Limiter := []
  /-- Energy by die in fJ: in the present millisecond, and in those before it, newest first (R401). -/
  energy : SMap Nat := []
  past : SMap (List Nat) := []
  ms : Nat := 0
  /-- The millisecond of the last cap evaluation, and of the last cap action (R401). -/
  evalMs : Option Nat := none
  actMs : Option Nat := none
  /-- The operating point whose voltage the compute rails are commanded to; it leads the clock on a step up (R387). -/
  voltOp : Nat := 5
  /-- When the 10 µs wait of the last voltage command ends (ns), and the rails not checked yet after it (R387, R388). -/
  opReady : Nat := 0
  vrWait : List Nat := []
  /-- Voltages written to the regulators, oldest first (R388). -/
  vrWrites : List VrWrite := []
  /-- The Sheet control's permitted issue activity by compute die (R398): its level in 64ths of full rate at an instant in ns, from which it rises. -/
  permit : SMap (Nat × Nat) := []
  /-- Since when a die has been at the throttle point, and every die below the release point (R406). -/
  hotSince : Option Nat := none
  coolSince : Option Nat := none
  /-- L_margin by compute die, and whether the limiter of its rail has throttled in the present tick (R404). -/
  margin : SMap Nat := []
  throttled : SMap Bool := []
  /-- Instant (ns) of the last phase change (R390). -/
  phaseAt : Option Nat := none
  deriving DecidableEq, Repr

/-! ### Control -/

/-- A LOAD_SET that has passed its checks: the ring that owns it, none after an FLR (R329), and the set it loads. -/
structure Loading where
  owner : Option (Nat × Nat)
  set : ConfigSet
  deriving DecidableEq, Repr

/-- Who waits for a stop (R323, R346). -/
inductive Stopper where
  | ring (f q : Nat) | urgent (f : Nat)
  deriving DecidableEq, Repr

/-- A SWAP_SET that waits for its tick (R349); `aborted` once a STOP with T at or before it has been accepted (R351). -/
structure PendingSwap where
  owner : Option (Nat × Nat)
  tick : Nat
  aborted : Bool := false
  deriving DecidableEq, Repr

/-- A SET_PHASE that waits for its boundary (R390). -/
structure PendingPhase where
  owner : Option (Nat × Nat)
  tick : Nat
  phase : Nat
  deriving DecidableEq, Repr

/-- Run control. -/
structure Control where
  /-- The boundary T of a FULL ingest hold in force (R53, R353), and one still to come. -/
  hold : Option Nat := none
  holdAt : Option Nat := none
  /-- A STEP or a loss of class S has made every Canvas polarity STALE pending (R362, R430): held events wait until it is done. -/
  staleMark : Bool := false
  load : Option Loading := none
  /-- The START of a STARTING run; whether a STOP has cancelled the run (R346). -/
  start : Option (Nat × Nat) := none
  cancelled : Bool := false
  stops : List Stopper := []
  /-- The boundary of a stop has been reached. -/
  atBoundary : Bool := false
  swap : Option PendingSwap := none
  phases : List PendingPhase := []
  /-- The firmware image in flash, and one that passed its checks and is being written. -/
  firmware : List Byte := []
  newFirmware : Option (List Byte) := none
  /-- Command messages of the Halyard root that a die still has to receive, by die (R334). -/
  messages : SMap Nat := []
  /-- The last tick boundary whose mark has come, and the first one whose mark is late (R447). -/
  marked : Nat := 0
  lateMark : Option Nat := none
  deriving DecidableEq, Repr

/-! ### Reef states, resets and the I²C target -/

/-- An I²C transaction that the target serves at ready (R422): command byte and operand bytes. -/
structure I2cCommand where
  code : Nat
  operand : List Byte
  /-- What the read of the dump region finds (R443). -/
  ecc : Ecc := .ok
  deriving DecidableEq, Repr

/-- What the AON domain does with the power-enable outputs (R415, R419, R420): all released; asserting them one after the other from a reference cycle on; all asserted and the rail check passed; releasing them from a cycle on, where the rails behind a named output have failed the check, or on the way into REEF3. -/
inductive Rails where
  | off
  | rising (start : Nat)
  | up
  | falling (start : Nat) (failed : Option Nat)
  deriving DecidableEq, Repr

/-- What belongs to reef states, resets and the I²C target beside the registers. -/
structure Reef where
  /-- The device time, in counter units, at which the IDLE1 timer last stood at 0 (R412, R413). -/
  idleAt : Nat := 0
  /-- When the present reef state was entered: device time in ns, and reference cycle. -/
  since : Nat := 0
  sinceClk : Nat := 0
  /-- Loss events that wait for ready: their causes, by the code of HIF_STATE_LOST.CAUSE, and the union of the classes they lost (R431). -/
  causes : List Nat := [7]
  classes : Nat := 0xF
  /-- Functions in an FLR: the reference cycle at which each is ready (R426). -/
  flr : SMap Nat := []
  /-- An FLR of the loss event in progress is recorded device-wide, and others that overlap it still run (R431). -/
  merged : Bool := false
  /-- The power-enable outputs: after POR, as on the exit from REEF3 (R426). -/
  rails : Rails := .rising 0
  /-- A state left and its wake, which a reset overtook, to be shown at ready (R416). -/
  woken : Option (Nat × WakeMark) := none
  /-- Captures stamped from the AON clock: input and stamp in ns (R378). -/
  coarse : List (Nat × Nat) := []
  /-- MGT_ADDR and TEST_EN as sampled at POR, and the LPDDR5X populated, in GiB (R16, R433). -/
  straps : Nat := 0
  testEn : Bool := false
  gib : Nat := 64
  /-- Resets by place in RESETS of R486, to be counted at ready. -/
  counted : List Nat := [0]
  /-- Transactions that wait with SCL held low (R422), what the last command returns, and whether the target acknowledged it (R423). -/
  served : List I2cCommand := []
  result : List Byte := []
  ack : Bool := true
  deriving DecidableEq, Repr

/-! ### The machine -/

/-- Why a step could stop with a fault. The spec gives every command of the table an effect, so no meaning raises one: the one constructor is kept for a state no command leads to. -/
inductive Fault where
  /-- Raised by no command; safe, since nothing reaches it. -/
  | unreachable
  deriving DecidableEq, Repr

/-- Why a step could refuse a command. -/
inductive Refusal where
  /-- A command without a meaning in this model, by its mnemonic; safe, since the machine stops. -/
  | notModelled (mnemonic : String)
  deriving DecidableEq, Repr

/-- The whole device. -/
structure State where
  /-- Commands waiting, first in first out. -/
  pending : List Instr := []
  /-- Free values taken so far (the model's own counter, log entry 10). -/
  free : Nat := 0
  /-- Every register field not at its reset value, by Fld.key. -/
  regs : SMap Nat := []
  /-- Reset leaves the device booting; ready comes 75 ms after the oscillator's start (R426). -/
  phase : Phase := .boot 18750000
  latch : Latches := {}
  deferred : List Deferred := []
  time : TimeState := {}
  host : HostSide := {}
  lpddr : List Host.Cell := []
  ing : Ingest := {}
  cv : Canvas := {}
  /-- The active and the shadow configuration set. -/
  active : Option ConfigSet := none
  shadow : Option ConfigSet := none
  tns : Dense := {}
  fab : Fabric := {}
  flt : Filter := {}
  ftu : Ftu := {}
  pwr : Power := {}
  ctl : Control := {}
  reef : Reef := {}
  obs : Observe := {}
  err : Errors := {}
  /-- A Device-fatal error has halted the device (R456). -/
  halted : Bool := false
  deriving DecidableEq, Repr

/-- The machine right after reset. [DESIGN CHOICE, log entry 1; DESIGN CHOICE, log entry 16; DESIGN CHOICE, log entry 23; DESIGN CHOICE, log entry 24; DESIGN CHOICE, log entry 86] -/
def State.reset : State := {}

end Sys2Proof.Machine
end

