-- ==== Sys2Proof/Machine/SMap.lean ====
section
/-! DEFINITION. Sparse maps in canonical form: reading, writing, bytes of a memory, little-endian numbers. -/

namespace Sys2Proof.Machine

/-- The value listed for key `k`. -/
def SMap.find? {α : Type} (k : Nat) : SMap α → Option α
  | [] => none
  | (k', v) :: m => if k = k' then some v else SMap.find? k m

/-- The value of key `k`, `d` where it is not listed. -/
def SMap.get {α : Type} (m : SMap α) (d : α) (k : Nat) : α := (SMap.find? k m).getD d

/-- `m` with `v` listed for `k`, keys kept rising. -/
def SMap.put {α : Type} (k : Nat) (v : α) : SMap α → SMap α
  | [] => [(k, v)]
  | (k', v') :: m =>
    if k < k' then (k, v) :: (k', v') :: m
    else if k = k' then (k, v) :: m
    else (k', v') :: SMap.put k v m

/-- `m` with nothing listed for `k`. -/
def SMap.del {α : Type} (k : Nat) (m : SMap α) : SMap α := m.filter (fun e => !(e.1 == k))

/-- `m` with key `k` at `v`; the default `d` is not listed, so equal contents are equal lists. -/
def SMap.set {α : Type} [DecidableEq α] (m : SMap α) (d : α) (k : Nat) (v : α) : SMap α :=
  if v = d then SMap.del k m else SMap.put k v m

/-- `m` with key `k` changed by `f`. -/
def SMap.upd {α : Type} [DecidableEq α] (m : SMap α) (d : α) (k : Nat) (f : α → α) : SMap α :=
  SMap.set m d k (f (SMap.get m d k))

/-- Keys of the map strictly rise from above `lo`. -/
def SMap.above {α : Type} (lo : Nat) : SMap α → Bool
  | [] => true
  | (k, _) :: m => decide (lo < k) && SMap.above k m

/-- The canonical order: keys strictly rising. -/
def SMap.sorted {α : Type} : SMap α → Bool
  | [] => true
  | (k, _) :: m => SMap.above k m

/-- The canonical form of a byte memory (Host.Cell) whose unlisted bytes read as `d`: addresses strictly rising, no entry equal to `d`. -/
def Memory.wf (d : Byte) (m : List Host.Cell) : Bool :=
  SMap.sorted m && m.all (fun c => !(c.2 == d))

/-- One byte of a memory. -/
def readByte (m : List Host.Cell) (d : Byte) (a : Nat) : Byte := SMap.get m d a

/-- `n` bytes from `a` up. -/
def readBytes (m : List Host.Cell) (d : Byte) (a : Nat) : Nat → List Byte
  | 0 => []
  | n + 1 => readByte m d a :: readBytes m d (a + 1) n

/-- The bytes `bs` written from `a` up, canonical form kept. -/
def writeBytes (m : List Host.Cell) (d : Byte) (a : Nat) : List Byte → List Host.Cell
  | [] => m
  | b :: bs => writeBytes (SMap.set m d a b) d (a + 1) bs

/-- `n` bytes of the number `v`, least significant first. -/
def leBytes (v : Nat) : Nat → List Byte
  | 0 => []
  | n + 1 => BitVec.ofNat 8 v :: leBytes (v / 256) n

/-- The number that little-endian bytes spell. -/
def leNat : List Byte → Nat
  | [] => 0
  | b :: bs => b.toNat + 256 * leNat bs

/-- `n` bytes of `bs` from offset `ofs`. -/
def slice (bs : List Byte) (ofs n : Nat) : List Byte := (bs.drop ofs).take n

/-- The little-endian number in `n` bytes of `bs` from offset `ofs`. -/
def leAt (bs : List Byte) (ofs n : Nat) : Nat := leNat (slice bs ofs n)

/-- Bits [lo + w − 1 : lo] of `v`. -/
def bits (v lo w : Nat) : Nat := v / 2 ^ lo % 2 ^ w

/-- Bit `i` of `v`. -/
def bit (v i : Nat) : Bool := v / 2 ^ i % 2 == 1

/-- `v` with bit `i` set to `b`. -/
def setBit (v i : Nat) (b : Bool) : Nat :=
  if bit v i then (if b then v else v - 2 ^ i) else (if b then v + 2 ^ i else v)

/-- 1 for true, 0 for false. -/
def b2n (b : Bool) : Nat := if b then 1 else 0

/-- An integer as an unsigned `w`-bit number (two's complement). -/
def ofInt (w : Nat) (i : Int) : Nat := (i % (2 ^ w : Int)).toNat

/-- The signed value of an unsigned `w`-bit number. -/
def toSigned (w : Nat) (v : Nat) : Int :=
  if v % 2 ^ w < 2 ^ (w - 1) then (v % 2 ^ w : Nat) else (v % 2 ^ w : Nat) - (2 ^ w : Int)

/-- The wrap-aware difference a − b of two `w`-bit numbers as a signed number (glossary). -/
def wrapDiff (w a b : Nat) : Int := toSigned w (ofInt w ((a : Int) - b))

/-- `v` held between `lo` and `hi`. -/
def clampInt (lo hi v : Int) : Int := if v < lo then lo else if hi < v then hi else v

/-- The smallest multiple of `m` at or above `v`, divided by `m`. -/
def ceilDiv (v m : Nat) : Nat := (v + m - 1) / m

/-- The number of bits set among the low `n` bits of `v`. -/
def popCount (v : Nat) : Nat → Nat
  | 0 => 0
  | n + 1 => v % 2 + popCount (v / 2) n

/-- Bytes `new` put into `b` at offset `ofs`. -/
def patch (b : List Byte) (ofs : Nat) (new : List Byte) : List Byte := b.take ofs ++ new ++ b.drop (ofs + new.length)

/-- The quotient of two integers rounded toward minus infinity. -/
def floorDiv (a b : Int) : Int := a.fdiv b

end Sys2Proof.Machine
end

