-- ==== Sys2Proof/Machine/Fp.lean ====
section
/-! DEFINITION. The floating-point formats of R110: values, exact arithmetic on them, and rounding to nearest with ties to even (R111–R113, R122, R124). -/

namespace Sys2Proof.Machine

/-- A floating-point value: (−1)^neg × m × 2^e where finite. -/
inductive FV where
  | nan
  | inf (neg : Bool)
  | fin (neg : Bool) (m : Nat) (e : Int)
  deriving DecidableEq, Repr

/-- A binary format: exponent bits, mantissa bits; `ocp` for FP8-E4M3, whose top exponent is finite but for one NaN code. -/
structure FFmt where
  eb : Nat
  mb : Nat
  ocp : Bool := false
  deriving DecidableEq, Repr

/-- FP32. -/
def fp32 : FFmt := ⟨8, 23, false⟩
/-- FP16. -/
def fp16 : FFmt := ⟨5, 10, false⟩
/-- BF16. -/
def bf16 : FFmt := ⟨8, 7, false⟩
/-- FP8-E4M3. -/
def e4m3 : FFmt := ⟨4, 3, true⟩
/-- FP8-E5M2. -/
def e5m2 : FFmt := ⟨5, 2, false⟩
/-- binary64, the format of the geodetic origin and of the ego position. -/
def fp64 : FFmt := ⟨11, 52, false⟩

/-- The exponent of the least significant mantissa bit of a subnormal. -/
def FFmt.emin (f : FFmt) : Int := 1 - (2 ^ (f.eb - 1) - 1 : Nat) - f.mb

/-- The largest biased exponent of a finite value. -/
def FFmt.emax (f : FFmt) : Nat := if f.ocp then 2 ^ f.eb - 1 else 2 ^ f.eb - 2

/-- The value that code `w` of a format has (R110, R111). -/
def decodeF (f : FFmt) (w : Nat) : FV :=
  let s := bit w (f.eb + f.mb)
  let ex := bits w f.mb f.eb
  let m := bits w 0 f.mb
  if f.ocp && ex == 2 ^ f.eb - 1 && m == 2 ^ f.mb - 1 then .nan
  else if !f.ocp && ex == 2 ^ f.eb - 1 then (if m = 0 then .inf s else .nan)
  else if ex = 0 then .fin s m f.emin
  else .fin s (2 ^ f.mb + m) (f.emin + ex - 1)

/-- The quotient of two numbers rounded to nearest, ties to even. -/
def roundDiv (num den : Nat) : Nat :=
  let q := num / den
  let r := num % den
  if 2 * r < den then q else if den < 2 * r then q + 1 else if q % 2 = 0 then q else q + 1

/-- num / den scaled by 2^−e, rounded to nearest, ties to even. -/
def roundAt (num den : Nat) (e : Int) : Nat :=
  if 0 ≤ e then roundDiv num (den * 2 ^ e.toNat) else roundDiv (num * 2 ^ (-e).toNat) den

/-- Whether num / den is at least 2^k. -/
def atLeastPow (num den : Nat) (k : Int) : Bool :=
  if 0 ≤ k then decide (den * 2 ^ k.toNat ≤ num) else decide (den ≤ num * 2 ^ (-k).toNat)

/-- The exponent at which num / den is rounded in a format: mb + 1 bits of mantissa, or the format's last place. -/
def roundExp (f : FFmt) (num den : Nat) : Int :=
  let k : Int := (Nat.log2 num : Int) - Nat.log2 den
  let top := if atLeastPow num den k then k else k - 1
  max f.emin (top - f.mb)

/-- The positive number num / den rounded to a format as if its exponent had no upper limit: mantissa and exponent, the mantissa below 2^(mb + 1). -/
def roundQ (f : FFmt) (num den : Nat) : Nat × Int :=
  if num = 0 then (0, f.emin) else
  let e := roundExp f num den
  let q := roundAt num den e
  if q = 2 ^ (f.mb + 1) then (2 ^ f.mb, e + 1) else (q, e)

/-- The biased exponent of a rounded mantissa and exponent. -/
def biased (f : FFmt) (m : Nat) (e : Int) : Nat := if m < 2 ^ f.mb then 0 else (e - f.emin + 1).toNat

/-- The code of a sign, mantissa and exponent that fit the format. -/
def packF (f : FFmt) (neg : Bool) (m : Nat) (e : Int) : Nat :=
  2 ^ (f.eb + f.mb) * b2n neg + 2 ^ f.mb * biased f m e + m % 2 ^ f.mb

/-- Whether a rounded mantissa and exponent exceed the format's largest finite value. -/
def exceeds (f : FFmt) (m : Nat) (e : Int) : Bool :=
  decide (f.emax < biased f m e) || (f.ocp && biased f m e == f.emax && m % 2 ^ f.mb == 2 ^ f.mb - 1)

/-- The code of an infinity in an IEEE format. -/
def infCode (f : FFmt) (neg : Bool) : Nat := 2 ^ (f.eb + f.mb) * b2n neg + 2 ^ f.mb * (2 ^ f.eb - 1)

/-- The code of the largest finite value. -/
def maxCode (f : FFmt) (neg : Bool) : Nat :=
  2 ^ (f.eb + f.mb) * b2n neg + 2 ^ f.mb * f.emax + (if f.ocp then 2 ^ f.mb - 2 else 2 ^ f.mb - 1)

/-- The canonical NaN (R113, R124): 0x7F for both FP8 formats, quiet NaN otherwise. -/
def nanCode (f : FFmt) : Nat :=
  if f.eb + f.mb = 7 then 0x7F else 2 ^ f.mb * (2 ^ f.eb - 1) + 2 ^ (f.mb - 1)

/-- A finite dyadic as numerator and denominator. -/
def dyadic (m : Nat) (e : Int) : Nat × Nat :=
  if 0 ≤ e then (m * 2 ^ e.toNat, 1) else (m, 2 ^ (-e).toNat)

/-- A value rounded to an IEEE format; overflow gives infinity. -/
def toIeee (f : FFmt) : FV → Nat
  | .nan => nanCode f
  | .inf neg => infCode f neg
  | .fin neg m e =>
    let d := dyadic m e
    let r := roundQ f d.1 d.2
    if exceeds f r.1 r.2 then infCode f neg else packF f neg r.1 r.2

/-- A value converted to an output format (R124): saturating; the flag is set on each saturation. -/
def toOut (f : FFmt) : FV → Nat × Bool
  | .nan => (nanCode f, false)
  | .inf neg => (maxCode f neg, true)
  | .fin neg m e =>
    let d := dyadic m e
    let r := roundQ f d.1 d.2
    if exceeds f r.1 r.2 then (maxCode f neg, true) else (packF f neg r.1 r.2, false)

/-- A finite value as an integer times 2^e. -/
def signed (neg : Bool) (m : Nat) : Int := if neg then -(m : Int) else m

/-- An integer times 2^e as a value; zero is +0. -/
def ofSigned (v : Int) (e : Int) : FV := .fin (decide (v < 0)) v.natAbs e

/-- The exact sum of two values. -/
def FV.add : FV → FV → FV
  | .nan, _ => .nan
  | _, .nan => .nan
  | .inf a, .inf b => if a = b then .inf a else .nan
  | .inf a, .fin .. => .inf a
  | .fin .., .inf b => .inf b
  | .fin a m e, .fin b n g =>
    if m = 0 ∧ n = 0 then .fin (a && b) 0 e else
    let k := min e g
    ofSigned (signed a (m * 2 ^ (e - k).toNat) + signed b (n * 2 ^ (g - k).toNat)) k

/-- The value negated. -/
def FV.neg : FV → FV
  | .nan => .nan
  | .inf a => .inf (!a)
  | .fin a m e => .fin (!a) m e

/-- The exact product of two values. -/
def FV.mul : FV → FV → FV
  | .nan, _ => .nan
  | _, .nan => .nan
  | .inf a, .inf b => .inf (a != b)
  | .inf a, .fin b n _ => if n = 0 then .nan else .inf (a != b)
  | .fin a m _, .inf b => if m = 0 then .nan else .inf (a != b)
  | .fin a m e, .fin b n g => .fin (a != b) (m * n) (e + g)

/-- The magnitude. -/
def FV.abs : FV → FV
  | .nan => .nan
  | .inf _ => .inf false
  | .fin _ m e => .fin false m e

/-- a < b; a comparison with NaN is false. -/
def FV.lt : FV → FV → Bool
  | .nan, _ => false
  | _, .nan => false
  | .inf a, .inf b => a && !b
  | .inf a, .fin .. => a
  | .fin .., .inf b => !b
  | .fin a m e, .fin b n g =>
    let k := min e g
    decide (signed a (m * 2 ^ (e - k).toNat) < signed b (n * 2 ^ (g - k).toNat))

/-- a ≤ b; a comparison with NaN is false. -/
def FV.le (a b : FV) : Bool := FV.lt a b || (FV.lt b a == false && a != .nan && b != .nan)

/-- The greatest integer not above a finite value. -/
def FV.floor : FV → Int
  | .fin a m e => if 0 ≤ e then signed a (m * 2 ^ e.toNat) else floorDiv (signed a m) (2 ^ (-e).toNat)
  | _ => 0

/-- An integer as a value. -/
def ofInteger (i : Int) : FV := ofSigned i 0

/-- A value rounded to FP32. -/
def round32 (v : FV) : FV := decodeF fp32 (toIeee fp32 v)

/-- FP32 addition. -/
def add32 (a b : FV) : FV := round32 (a.add b)

/-- FP32 subtraction. -/
def sub32 (a b : FV) : FV := round32 (a.add b.neg)

/-- FP32 multiplication. -/
def mul32 (a b : FV) : FV := round32 (a.mul b)

/-- A quotient of finite values rounded to FP32, the divisor not 0. -/
def quot32 (neg : Bool) (m : Nat) (e : Int) (n : Nat) (g : Int) : FV :=
  let d := e - g
  let num := if 0 ≤ d then m * 2 ^ d.toNat else m
  let den := if 0 ≤ d then n else n * 2 ^ (-d).toNat
  let r := roundQ fp32 num den
  if exceeds fp32 r.1 r.2 then .inf neg else .fin neg r.1 r.2

/-- FP32 division. -/
def div32 : FV → FV → FV
  | .nan, _ => .nan
  | _, .nan => .nan
  | .inf _, .inf _ => .nan
  | .inf a, .fin b _ _ => .inf (a != b)
  | .fin a _ _, .inf b => .fin (a != b) 0 0
  | .fin a m e, .fin b n g => if n = 0 then (if m = 0 then .nan else .inf (a != b)) else quot32 (a != b) m e n g

/-- The integer square root of `n`, from its bits below `k` down, over root `r` so far. -/
def isqrt (n : Nat) : Nat → Nat → Nat
  | 0, r => r
  | k + 1, r => isqrt n k (if (r + 2 ^ k) * (r + 2 ^ k) ≤ n then r + 2 ^ k else r)

/-- FP32 square root. -/
def sqrt32 : FV → FV
  | .nan => .nan
  | .inf true => .nan
  | .inf false => .inf false
  | .fin neg m e =>
    if m = 0 then .fin neg 0 e else if neg then .nan else
    let k : Nat := if e % 2 = 0 then 60 else 61
    let n := m * 2 ^ k
    let r := isqrt n (Nat.log2 n / 2 + 1) 0
    round32 (.fin false (2 * r + b2n (r * r != n)) ((e - k) / 2 - 1))

/-- The FP32 value of a code. -/
def f32 (w : Nat) : FV := decodeF fp32 w

/-- The FP32 code of a value. -/
def code32 (v : FV) : Nat := toIeee fp32 v

/-- π × 2^256. -/
def pi256 : Int := 363771576891766324280234942777729862653393377328392429958772151117938894466185

/-- A finite value × 2^256, cut to an integer. -/
def FV.fixed : FV → Int
  | .fin a m e => if 0 ≤ e + 256 then signed a (m * 2 ^ (e + 256).toNat) else signed a (m / 2 ^ (-(e + 256)).toNat)
  | _ => 0

/-- The sum of `fuel` terms of the power series of sine or cosine over x² × 2^256, from `term`, the one of order k, on. -/
def trigSum (x2 : Int) : Nat → Int → Nat → Int
  | 0, _, _ => 0
  | fuel + 1, term, k => term + trigSum x2 fuel (-(term * x2 / 2 ^ 256 / ((k + 1) * (k + 2)))) (k + 2)

/-- Cosine and sine of an angle in radians, rounded to FP32; no number where the angle is none. -/
def cosSin (v : FV) : FV × FV :=
  match v with
  | .fin _ _ _ =>
    let t := v.fixed
    let x := t - 2 * pi256 * ((t + pi256) / (2 * pi256))
    let x2 := x * x / 2 ^ 256
    (round32 (ofSigned (trigSum x2 60 (2 ^ 256) 0) (-256)), if t = 0 then v else round32 (ofSigned (trigSum x2 60 x 1) (-256)))
  | _ => (.nan, .nan)

/-- The quotient of a finite value and a positive finite one, rounded once to FP16, saturated at ±65,504 (R92). -/
def quotient16 (a b : FV) : Nat :=
  match a, b with
  | .fin s m e, .fin _ n g =>
    if n = 0 then (toOut fp16 (.inf s)).1 else
    let d := e - g
    let num := if 0 ≤ d then m * 2 ^ d.toNat else m
    let den := if 0 ≤ d then n else n * 2 ^ (-d).toNat
    let r := roundQ fp16 num den
    if exceeds fp16 r.1 r.2 then maxCode fp16 s else packF fp16 s r.1 r.2
  | _, _ => nanCode fp16

end Sys2Proof.Machine
end

