-- ==== Sys2Proof/Machine/Regs.lean ====
section
/-! DEFINITION. The register tables of PF BAR0 and of the function pages, field by field (R7, R511, R292), and a name for every field the meanings use. -/

namespace Sys2Proof.Machine

/-- Register table of block Hif, part 0 (R7, R330, R356). -/
def tableHif0 : List RegSpec :=
  [⟨0, 1, 0, 1, 0, false, [⟨0, 16, .ro, 0x9410, .none⟩, ⟨16, 8, .ro, 0, .none⟩]⟩,
   ⟨4, 1, 0, 1, 0, false, [⟨0, 3, .ro, 0, .s⟩, ⟨3, 5, .ro, 0, .s⟩]⟩,
   ⟨8, 1, 0, 1, 0, false, [⟨0, 2, .rw, 0, .w⟩]⟩,
   ⟨0xc, 1, 0, 1, 0, false, [⟨0, 32, .rw, 0xf, .w⟩]⟩,
   ⟨0x10, 1, 0, 1, 0, false, [⟨0, 4, .w1c, 0xf, .a⟩, ⟨8, 3, .ro, 7, .a⟩]⟩,
   ⟨0x14, 1, 0, 1, 0, false, [⟨0, 32, .ro, 1, .a⟩]⟩,
   ⟨0x40, 1, 0, 1, 0, false, [⟨0, 2, .ro, 0, .s⟩, ⟨2, 1, .ro, 0, .s⟩, ⟨3, 1, .ro, 0, .s⟩]⟩,
   ⟨0x44, 1, 0, 1, 0, false, [⟨0, 2, .ro, 0, .w⟩, ⟨2, 2, .ro, 0, .w⟩, ⟨4, 1, .ro, 0, .s⟩, ⟨5, 1, .ro, 0, .s⟩, ⟨8, 2, .ro, 0, .w⟩, ⟨10, 2, .ro, 0, .w⟩]⟩,
   ⟨0x48, 1, 0, 1, 0, false, [⟨0, 32, .ro, 0, .w⟩]⟩,
   ⟨0x4c, 1, 0, 1, 0, false, [⟨0, 32, .ro, 0, .w⟩]⟩,
   ⟨0x50, 1, 0, 1, 0, true, [⟨0, 64, .ro, 0, .s⟩]⟩,
   ⟨0x58, 1, 0, 1, 0, true, [⟨0, 64, .ro, 0, .s⟩]⟩,
   ⟨0x60, 1, 0, 1, 0, true, [⟨0, 64, .ro, 0, .s⟩]⟩,
   ⟨0x68, 1, 0, 1, 0, false, [⟨0, 32, .ro, 0, .s⟩]⟩,
   ⟨0x6c, 1, 0, 1, 0, false, [⟨0, 32, .ro, 0, .s⟩]⟩,
   ⟨0x70, 1, 0, 1, 0, false, [⟨0, 32, .ro, 0, .s⟩]⟩]

/-- Every register of block Hif. -/
def tableHif : List RegSpec :=
  tableHif0

/-- Register table of block Mgt, part 0 (R7, R433, R510). -/
def tableMgt0 : List RegSpec :=
  [⟨0x100000, 1, 0, 1, 0, false, [⟨0, 16, .rw, 0xc8, .a⟩]⟩,
   ⟨0x100004, 1, 0, 1, 0, false, [⟨0, 16, .rw, 0x32, .a⟩]⟩,
   ⟨0x100008, 1, 0, 1, 0, false, [⟨0, 12, .rw, 0, .a⟩, ⟨31, 1, .rw, 0, .a⟩]⟩,
   ⟨0x10000c, 1, 0, 1, 0, false, [⟨0, 2, .ro, 0, .a⟩, ⟨4, 3, .ro, 0, .a⟩, ⟨8, 8, .ro, 0, .s⟩, ⟨16, 3, .ro, 0, .a⟩]⟩,
   ⟨0x100010, 1, 0, 1, 0, false, [⟨0, 8, .rw, 0xff, .a⟩, ⟨8, 4, .rw, 0xf, .a⟩]⟩,
   ⟨0x100018, 1, 0, 1, 0, true, [⟨0, 64, .rw, 0, .a⟩]⟩,
   ⟨0x100020, 1, 0, 1, 0, false, [⟨0, 1, .rw, 0, .a⟩]⟩,
   ⟨0x100024, 1, 0, 1, 0, false, [⟨0, 16, .wo, 0, .none⟩]⟩,
   ⟨0x100028, 1, 0, 1, 0, false, [⟨0, 4, .wo, 0, .none⟩]⟩,
   ⟨0x100030, 1, 0, 1, 0, false, [⟨0, 1, .rw, 1, .a⟩, ⟨1, 1, .rw, 1, .a⟩, ⟨8, 7, .ro, 0x58, .a⟩]⟩,
   ⟨0x100034, 1, 0, 1, 0, false, [⟨0, 1, .w1c, 0, .a⟩, ⟨8, 3, .ro, 0, .a⟩]⟩,
   ⟨0x100038, 1, 0, 1, 0, false, [⟨0, 1, .rw, 0, .a⟩, ⟨1, 1, .ro, 0, .a⟩, ⟨12, 20, .ro, 0, .a⟩]⟩,
   ⟨0x100100, 1, 0, 1, 0, false, [⟨0, 2, .rw, 0, .w⟩]⟩,
   ⟨0x100104, 1, 0, 1, 0, false, [⟨0, 2, .rw, 0, .w⟩]⟩,
   ⟨0x100108, 1, 0, 1, 0, false, [⟨8, 4, .rw, 0, .w⟩]⟩,
   ⟨0x10010c, 1, 0, 1, 0, false, [⟨0, 2, .rw, 0, .w⟩, ⟨8, 4, .rw, 1, .w⟩]⟩,
   ⟨0x100110, 1, 0, 1, 0, false, [⟨0, 2, .rw, 0, .w⟩, ⟨8, 4, .rw, 1, .w⟩]⟩,
   ⟨0x100114, 1, 0, 1, 0, false, [⟨8, 4, .rw, 0, .w⟩]⟩,
   ⟨0x100118, 1, 0, 1, 0, false, [⟨0, 2, .rw, 0, .w⟩]⟩,
   ⟨0x10011c, 1, 0, 1, 0, false, [⟨8, 4, .rw, 4, .w⟩]⟩,
   ⟨0x100120, 1, 0, 1, 0, false, [⟨0, 2, .rw, 0, .w⟩]⟩,
   ⟨0x100124, 1, 0, 1, 0, false, [⟨0, 2, .rw, 0, .w⟩]⟩,
   ⟨0x100128, 1, 0, 1, 0, false, [⟨0, 2, .rw, 0, .w⟩]⟩,
   ⟨0x10012c, 1, 0, 1, 0, false, [⟨8, 4, .rw, 6, .a⟩]⟩,
   ⟨0x100140, 1, 0, 1, 0, false, [⟨0, 2, .rw, 0, .w⟩, ⟨2, 2, .rw, 0, .w⟩, ⟨4, 2, .rw, 0, .w⟩]⟩]

/-- Register table of block Mgt, part 1 (R7, R510). -/
def tableMgt1 : List RegSpec :=
  [⟨0x100144, 1, 0, 1, 0, false, [⟨0, 1, .w1c, 0, .s⟩]⟩]

/-- Every register of block Mgt. -/
def tableMgt : List RegSpec :=
  tableMgt0 ++ tableMgt1

/-- Register table of block Pwr, part 0 (R7, R409). -/
def tablePwr0 : List RegSpec :=
  [⟨0x200000, 1, 0, 1, 0, false, [⟨0, 1, .rw, 0, .w⟩, ⟨8, 6, .rw, 4, .w⟩]⟩,
   ⟨0x200004, 1, 0, 1, 0, false, [⟨0, 3, .ro, 5, .s⟩, ⟨8, 3, .ro, 5, .s⟩, ⟨16, 3, .ro, 7, .s⟩, ⟨24, 3, .ro, 7, .s⟩]⟩,
   ⟨0x200008, 1, 0, 1, 0, false, [⟨0, 3, .ro, 0, .w⟩]⟩,
   ⟨0x20000c, 1, 0, 1, 0, false, [⟨0, 1, .w1c, 0, .s⟩, ⟨1, 1, .w1c, 0, .s⟩]⟩,
   ⟨0x200010, 1, 0, 1, 0, false, [⟨0, 8, .rw, 0, .w⟩, ⟨8, 4, .rw, 4, .w⟩]⟩,
   ⟨0x200014, 1, 0, 1, 0, false, [⟨0, 3, .ro, 0, .s⟩, ⟨8, 1, .ro, 0, .s⟩]⟩,
   ⟨0x200018, 1, 0, 1, 0, false, [⟨0, 16, .ro, 0, .s⟩]⟩,
   ⟨0x200020, 1, 0, 1, 0, false, [⟨0, 16, .ro, 0, .s⟩, ⟨16, 16, .ro, 0, .s⟩]⟩,
   ⟨0x200024, 5, 4, 1, 0, false, [⟨0, 16, .ro, 0, .s⟩]⟩,
   ⟨0x200040, 1, 0, 1, 0, false, [⟨0, 5, .ro, 0x10, .s⟩, ⟨8, 5, .ro, 0x10, .s⟩]⟩,
   ⟨0x200050, 1, 0, 1, 0, false, [⟨0, 1, .rw, 0, .w⟩, ⟨1, 7, .rw, 0x40, .w⟩, ⟨8, 4, .rw, 0, .w⟩]⟩,
   ⟨0x200054, 1, 0, 1, 0, false, [⟨0, 1, .rw, 0, .w⟩, ⟨1, 7, .rw, 0x41, .w⟩, ⟨8, 4, .rw, 1, .w⟩]⟩,
   ⟨0x200060, 1, 0, 1, 0, false, [⟨0, 5, .rw, 4, .w⟩, ⟨8, 4, .rw, 0xf, .w⟩]⟩,
   ⟨0x200080, 1, 0, 1, 0, false, [⟨0, 8, .rw, 0x82, .w⟩]⟩,
   ⟨0x200088, 1, 0, 1, 0, false, [⟨0, 8, .rw, 0x82, .w⟩]⟩,
   ⟨0x200090, 1, 0, 1, 0, false, [⟨0, 8, .rw, 0x28, .w⟩]⟩,
   ⟨0x200098, 1, 0, 1, 0, false, [⟨0, 8, .rw, 0x28, .w⟩]⟩,
   ⟨0x2000a0, 1, 0, 1, 0, false, [⟨0, 8, .rw, 0x1e, .w⟩]⟩,
   ⟨0x200084, 5, 8, 1, 0, false, [⟨0, 16, .ro, 0, .s⟩, ⟨16, 1, .w1c, 0, .s⟩, ⟨17, 1, .w1c, 0, .s⟩, ⟨18, 1, .w1c, 0, .s⟩]⟩,
   ⟨0x2000c0, 1, 0, 1, 0, false, [⟨0, 8, .rw, 0xf, .w⟩]⟩,
   ⟨0x2000d0, 6, 4, 1, 0, false, [⟨0, 16, .rw, 0x28, .w⟩]⟩,
   ⟨0x200100, 8, 4, 1, 0, false, [⟨0, 12, .ro, 0, .s⟩, ⟨16, 16, .ro, 0, .s⟩]⟩,
   ⟨0x200180, 1, 0, 1, 0, false, [⟨0, 7, .rw, 0x69, .w⟩, ⟨8, 4, .rw, 3, .w⟩]⟩,
   ⟨0x200184, 1, 0, 1, 0, false, [⟨0, 1, .ro, 0, .s⟩, ⟨1, 1, .ro, 0, .a⟩, ⟨8, 5, .ro, 0x10, .s⟩]⟩,
   ⟨0x200188, 1, 0, 1, 0, false, [⟨0, 32, .ro, 0, .s⟩]⟩]

/-- Register table of block Pwr, part 1 (R7, R409). -/
def tablePwr1 : List RegSpec :=
  [⟨0x20018c, 1, 0, 1, 0, false, [⟨0, 8, .ro, 0, .s⟩]⟩,
   ⟨0x200200, 44, 4, 1, 0, false, [⟨0, 8, .ro, 0, .s⟩]⟩,
   ⟨0x200300, 1, 0, 1, 0, false, [⟨0, 32, .ro, 0, .s⟩]⟩,
   ⟨0x200304, 1, 0, 1, 0, false, [⟨0, 32, .ro, 0, .s⟩]⟩,
   ⟨0x200308, 1, 0, 1, 0, false, [⟨0, 32, .ro, 0, .s⟩]⟩,
   ⟨0x20030c, 1, 0, 1, 0, false, [⟨0, 32, .ro, 0, .s⟩]⟩,
   ⟨0x200310, 1, 0, 1, 0, false, [⟨0, 32, .ro, 0, .s⟩]⟩,
   ⟨0x200314, 1, 0, 1, 0, false, [⟨0, 32, .ro, 0, .s⟩]⟩,
   ⟨0x200318, 1, 0, 1, 0, false, [⟨0, 32, .ro, 0, .s⟩]⟩,
   ⟨0x20031c, 1, 0, 1, 0, false, [⟨0, 32, .ro, 0, .s⟩]⟩,
   ⟨0x200320, 1, 0, 1, 0, false, [⟨0, 32, .ro, 0, .s⟩]⟩]

/-- Every register of block Pwr. -/
def tablePwr : List RegSpec :=
  tablePwr0 ++ tablePwr1

/-- Register table of block Tim, part 0 (R7, R384). -/
def tableTim0 : List RegSpec :=
  [⟨0x300000, 1, 0, 1, 0, true, [⟨0, 64, .ro, 0, .w⟩]⟩,
   ⟨0x300008, 1, 0, 1, 0, false, [⟨0, 32, .ro, 0, .w⟩]⟩,
   ⟨0x300010, 1, 0, 1, 0, true, [⟨0, 64, .rw, 0x400000000, .w⟩]⟩,
   ⟨0x300018, 1, 0, 1, 0, true, [⟨0, 64, .wo, 0, .none⟩]⟩,
   ⟨0x300020, 1, 0, 1, 0, false, [⟨0, 1, .rw, 0, .w⟩, ⟨8, 22, .rw, 0x3e8, .w⟩]⟩,
   ⟨0x300024, 1, 0, 1, 0, false, [⟨0, 2, .rw, 0, .w⟩, ⟨4, 1, .rw, 0, .w⟩]⟩,
   ⟨0x300028, 1, 0, 1, 0, false, [⟨0, 17, .rw, 0x3e8, .w⟩]⟩,
   ⟨0x30002c, 1, 0, 1, 0, false, [⟨0, 1, .ro, 0, .s⟩, ⟨1, 1, .ro, 0, .s⟩, ⟨2, 1, .w1c, 0, .s⟩, ⟨3, 1, .w1c, 0, .s⟩, ⟨4, 1, .w1c, 0, .s⟩, ⟨5, 1, .w1c, 0, .s⟩, ⟨6, 1, .w1c, 0, .s⟩, ⟨7, 1, .w1c, 0, .s⟩, ⟨8, 2, .ro, 0, .w⟩]⟩,
   ⟨0x300030, 1, 0, 1, 0, true, [⟨0, 64, .ro, 0, .s⟩]⟩,
   ⟨0x300038, 1, 0, 1, 0, true, [⟨0, 64, .ro, 0, .s⟩]⟩,
   ⟨0x300040, 1, 0, 1, 0, true, [⟨0, 64, .ro, 0, .s⟩]⟩,
   ⟨0x300048, 1, 0, 1, 0, false, [⟨0, 5, .rw, 0, .w⟩]⟩,
   ⟨0x300080, 2, 0x20, 1, 0, true, [⟨0, 64, .ro, 0, .w⟩]⟩,
   ⟨0x300088, 2, 0x20, 1, 0, false, [⟨0, 32, .ro, 0, .w⟩]⟩,
   ⟨0x30008c, 2, 0x20, 1, 0, true, [⟨0, 64, .rw, 0x400000000, .w⟩]⟩,
   ⟨0x300094, 2, 0x20, 1, 0, true, [⟨0, 64, .wo, 0, .none⟩]⟩,
   ⟨0x30009c, 2, 0x20, 1, 0, false, [⟨0, 1, .rw, 0, .w⟩, ⟨8, 22, .rw, 0x3e8, .w⟩]⟩,
   ⟨0x300100, 2, 0x40, 1, 0, false, [⟨0, 1, .rw, 0, .w⟩, ⟨8, 8, .rw, 0, .w⟩, ⟨16, 8, .rw, 1, .w⟩]⟩,
   ⟨0x300104, 2, 0x40, 1, 0, false, [⟨0, 16, .rw, 0, .w⟩, ⟨16, 16, .rw, 0, .w⟩]⟩,
   ⟨0x300108, 2, 0x40, 1, 0, false, [⟨0, 1, .rw, 0, .w⟩, ⟨4, 3, .rw, 0, .w⟩, ⟨8, 3, .rw, 0, .w⟩]⟩,
   ⟨0x30010c, 2, 0x40, 1, 0, true, [⟨0, 64, .rw, 0, .w⟩]⟩,
   ⟨0x300114, 2, 0x40, 1, 0, false, [⟨0, 4, .rw, 4, .w⟩, ⟨31, 1, .rw, 0, .w⟩]⟩,
   ⟨0x300118, 2, 0x40, 1, 0, false, [⟨0, 12, .wo, 0, .none⟩]⟩,
   ⟨0x30011c, 2, 0x40, 1, 0, false, [⟨0, 12, .ro, 0, .s⟩]⟩,
   ⟨0x300120, 2, 0x40, 1, 0, false, [⟨0, 1, .rw, 0, .w⟩, ⟨1, 6, .rw, 0x2a, .w⟩, ⟨16, 14, .rw, 0x5dc, .w⟩]⟩]

/-- Register table of block Tim, part 1 (R7, R384). -/
def tableTim1 : List RegSpec :=
  [⟨0x300200, 2, 0x40, 16, 4, false, [⟨0, 32, .rw, 0, .w⟩]⟩,
   ⟨0x300300, 4, 0x20, 1, 0, true, [⟨0, 64, .rw, 0, .w⟩]⟩,
   ⟨0x300308, 4, 0x20, 1, 0, true, [⟨0, 64, .rw, 0, .w⟩]⟩,
   ⟨0x300310, 4, 0x20, 1, 0, false, [⟨0, 32, .rw, 0x3e8, .w⟩]⟩,
   ⟨0x300314, 4, 0x20, 1, 0, false, [⟨0, 1, .rw, 0, .w⟩, ⟨1, 1, .rw, 1, .w⟩, ⟨2, 1, .rw, 0, .w⟩]⟩,
   ⟨0x300318, 4, 0x20, 1, 0, false, [⟨0, 1, .w1c, 0, .s⟩]⟩,
   ⟨0x300380, 4, 0x10, 1, 0, false, [⟨0, 1, .rw, 0, .w⟩, ⟨1, 1, .rw, 0, .w⟩, ⟨2, 1, .rw, 0, .w⟩]⟩,
   ⟨0x300384, 4, 0x10, 1, 0, true, [⟨0, 64, .rc, 0, .s⟩]⟩,
   ⟨0x30038c, 4, 0x10, 1, 0, false, [⟨0, 5, .ro, 0, .s⟩, ⟨8, 1, .w1c, 0, .s⟩, ⟨9, 1, .w1c, 0, .s⟩]⟩,
   ⟨0x300400, 8, 0x10, 1, 0, false, [⟨0, 16, .rw, 0, .w⟩, ⟨16, 16, .rw, 0x7d0, .w⟩]⟩,
   ⟨0x300404, 8, 0x10, 1, 0, false, [⟨0, 16, .ro, 0, .s⟩, ⟨16, 14, .ro, 0, .s⟩, ⟨31, 1, .ro, 0, .s⟩]⟩,
   ⟨0x300500, 1, 0, 1, 0, false, [⟨0, 32, .ro, 0, .s⟩]⟩,
   ⟨0x300504, 1, 0, 1, 0, false, [⟨0, 32, .ro, 0, .s⟩]⟩,
   ⟨0x300508, 1, 0, 1, 0, false, [⟨0, 32, .ro, 0, .s⟩]⟩,
   ⟨0x30050c, 1, 0, 1, 0, false, [⟨0, 32, .ro, 0, .s⟩]⟩,
   ⟨0x300510, 1, 0, 1, 0, false, [⟨0, 32, .ro, 0, .s⟩]⟩,
   ⟨0x300514, 1, 0, 1, 0, false, [⟨0, 32, .ro, 0, .s⟩]⟩,
   ⟨0x300518, 1, 0, 1, 0, false, [⟨0, 32, .ro, 0, .s⟩]⟩,
   ⟨0x30051c, 1, 0, 1, 0, false, [⟨0, 32, .ro, 0, .s⟩]⟩,
   ⟨0x300520, 1, 0, 1, 0, false, [⟨0, 32, .ro, 0, .s⟩]⟩,
   ⟨0x300524, 1, 0, 1, 0, false, [⟨0, 32, .ro, 0, .s⟩]⟩,
   ⟨0x300528, 1, 0, 1, 0, false, [⟨0, 32, .ro, 0, .s⟩]⟩]

/-- Every register of block Tim. -/
def tableTim : List RegSpec :=
  tableTim0 ++ tableTim1

/-- Register table of block Ing, part 0 (R7, R73). -/
def tableIng0 : List RegSpec :=
  [⟨0x400000, 1, 0, 1, 0, false, [⟨0, 8, .rw, 0, .w⟩]⟩,
   ⟨0x400004, 1, 0, 1, 0, false, [⟨0, 1, .w1c, 0, .s⟩]⟩,
   ⟨0x400010, 1, 0, 1, 0, false, [⟨0, 16, .rw, 0x6e, .w⟩, ⟨16, 8, .rw, 0xa, .w⟩]⟩,
   ⟨0x400014, 1, 0, 1, 0, false, [⟨0, 16, .rw, 0x50, .w⟩, ⟨16, 8, .rw, 0xa, .w⟩]⟩,
   ⟨0x400018, 1, 0, 1, 0, false, [⟨0, 16, .rw, 0x37, .w⟩, ⟨16, 8, .rw, 0xa, .w⟩]⟩,
   ⟨0x40001c, 1, 0, 1, 0, false, [⟨0, 16, .rw, 0x64, .w⟩, ⟨16, 8, .rw, 0xa, .w⟩]⟩,
   ⟨0x401000, 8, 0x100, 1, 0, false, [⟨0, 3, .rw, 5, .w⟩, ⟨3, 4, .rw, 0, .w⟩, ⟨7, 1, .rw, 0, .w⟩, ⟨8, 2, .rw, 0, .w⟩, ⟨10, 1, .wo, 0, .none⟩]⟩,
   ⟨0x401004, 8, 0x100, 1, 0, false, [⟨0, 6, .rw, 0x30, .w⟩, ⟨6, 1, .rw, 0, .w⟩, ⟨8, 6, .rw, 0x31, .w⟩, ⟨14, 1, .rw, 0, .w⟩, ⟨16, 6, .rw, 0x32, .w⟩, ⟨22, 1, .rw, 0, .w⟩]⟩,
   ⟨0x401008, 8, 0x100, 1, 0, false, [⟨0, 11, .rw, 0x4ff, .w⟩, ⟨16, 11, .rw, 0x3ff, .w⟩]⟩,
   ⟨0x40100c, 8, 0x100, 1, 0, false, [⟨0, 6, .rw, 0x20, .w⟩, ⟨8, 6, .rw, 0x10, .w⟩]⟩,
   ⟨0x401010, 8, 0x100, 1, 0, false, [⟨0, 12, .rw, 0x3e8, .w⟩, ⟨16, 12, .rw, 0x32, .w⟩]⟩,
   ⟨0x401014, 8, 0x100, 1, 0, false, [⟨0, 1, .ro, 0, .s⟩, ⟨1, 3, .ro, 0, .s⟩, ⟨4, 10, .ro, 0, .s⟩, ⟨14, 14, .ro, 0, .s⟩, ⟨28, 1, .ro, 0, .s⟩]⟩,
   ⟨0x401018, 8, 0x100, 1, 0, false, [⟨0, 16, .ro, 0, .s⟩, ⟨16, 1, .ro, 0, .s⟩, ⟨17, 1, .ro, 0, .s⟩]⟩,
   ⟨0x40101c, 8, 0x100, 1, 0, false, [⟨0, 16, .ro, 0, .s⟩, ⟨16, 1, .w1c, 0, .s⟩, ⟨17, 1, .w1c, 0, .s⟩]⟩,
   ⟨0x401020, 8, 0x100, 1, 0, false, [⟨0, 12, .rw, 0x3e8, .w⟩, ⟨12, 10, .rw, 0, .w⟩, ⟨22, 10, .rw, 0, .w⟩]⟩,
   ⟨0x401024, 8, 0x100, 1, 0, false, [⟨0, 7, .rw, 0, .w⟩, ⟨7, 1, .rw, 0, .w⟩, ⟨8, 16, .rw, 0, .w⟩, ⟨24, 2, .rw, 0, .w⟩, ⟨26, 1, .rw, 0, .w⟩, ⟨29, 1, .ro, 0, .s⟩, ⟨30, 1, .wo, 0, .none⟩, ⟨31, 1, .ro, 0, .s⟩]⟩,
   ⟨0x401028, 8, 0x100, 1, 0, false, [⟨0, 32, .rw, 0, .s⟩]⟩,
   ⟨0x40102c, 8, 0x100, 1, 0, false, [⟨0, 7, .rw, 0, .w⟩, ⟨8, 16, .rw, 0, .w⟩, ⟨24, 1, .rw, 0, .w⟩]⟩,
   ⟨0x401030, 8, 0x100, 4, 4, false, [⟨0, 32, .ro, 0, .s⟩]⟩,
   ⟨0x401040, 8, 0x100, 1, 0, true, [⟨0, 32, .ro, 0, .w⟩]⟩,
   ⟨0x401048, 8, 0x100, 1, 0, true, [⟨0, 64, .ro, 0, .w⟩]⟩,
   ⟨0x401050, 8, 0x100, 1, 0, true, [⟨0, 64, .ro, 0x3e800000000, .w⟩]⟩,
   ⟨0x401058, 8, 0x100, 1, 0, false, [⟨0, 1, .ro, 0, .none⟩, ⟨1, 1, .ro, 0, .s⟩]⟩,
   ⟨0x401060, 8, 0x100, 1, 0, false, [⟨0, 2, .rw, 0, .s⟩, ⟨2, 1, .rw, 0, .s⟩, ⟨8, 8, .rw, 1, .s⟩]⟩,
   ⟨0x401080, 8, 0x100, 1, 0, false, [⟨0, 32, .ro, 0, .s⟩]⟩]

/-- Register table of block Ing, part 1 (R7, R73). -/
def tableIng1 : List RegSpec :=
  [⟨0x401084, 8, 0x100, 1, 0, false, [⟨0, 32, .ro, 0, .s⟩]⟩,
   ⟨0x401088, 8, 0x100, 1, 0, false, [⟨0, 32, .ro, 0, .s⟩]⟩,
   ⟨0x40108c, 8, 0x100, 1, 0, false, [⟨0, 32, .ro, 0, .s⟩]⟩,
   ⟨0x401090, 8, 0x100, 1, 0, false, [⟨0, 32, .ro, 0, .s⟩]⟩,
   ⟨0x401094, 8, 0x100, 1, 0, false, [⟨0, 32, .ro, 0, .s⟩]⟩,
   ⟨0x401098, 8, 0x100, 1, 0, false, [⟨0, 32, .ro, 0, .s⟩]⟩,
   ⟨0x40109c, 8, 0x100, 1, 0, false, [⟨0, 32, .ro, 0, .s⟩]⟩,
   ⟨0x4010a0, 8, 0x100, 1, 0, false, [⟨0, 32, .ro, 0, .s⟩]⟩,
   ⟨0x4010a4, 8, 0x100, 1, 0, false, [⟨0, 32, .ro, 0, .s⟩]⟩,
   ⟨0x4010a8, 8, 0x100, 1, 0, false, [⟨0, 32, .ro, 0, .s⟩]⟩,
   ⟨0x4010ac, 8, 0x100, 1, 0, false, [⟨0, 32, .ro, 0, .s⟩]⟩,
   ⟨0x4010b0, 8, 0x100, 1, 0, false, [⟨0, 32, .ro, 0, .s⟩]⟩,
   ⟨0x4010b4, 8, 0x100, 1, 0, false, [⟨0, 32, .ro, 0, .s⟩]⟩,
   ⟨0x4010b8, 8, 0x100, 1, 0, false, [⟨0, 32, .ro, 0, .s⟩]⟩,
   ⟨0x4010bc, 8, 0x100, 1, 0, false, [⟨0, 32, .ro, 0, .s⟩]⟩]

/-- Every register of block Ing. -/
def tableIng : List RegSpec :=
  tableIng0 ++ tableIng1

/-- Register table of block Srf, part 0 (R7, R106). -/
def tableSrf0 : List RegSpec :=
  [⟨0x500000, 1, 0, 1, 0, false, [⟨0, 1, .rw, 0, .w⟩, ⟨1, 1, .rw, 1, .w⟩]⟩,
   ⟨0x500010, 1, 0, 1, 0, false, [⟨0, 14, .rw, 0x32, .w⟩]⟩,
   ⟨0x500014, 1, 0, 1, 0, false, [⟨0, 14, .rw, 0x64, .w⟩]⟩,
   ⟨0x500018, 1, 0, 1, 0, false, [⟨0, 14, .rw, 0xc8, .w⟩]⟩,
   ⟨0x50001c, 1, 0, 1, 0, false, [⟨0, 14, .rw, 0x190, .w⟩]⟩,
   ⟨0x500020, 1, 0, 1, 0, false, [⟨0, 14, .rw, 0x320, .w⟩]⟩,
   ⟨0x500024, 1, 0, 1, 0, false, [⟨0, 14, .rw, 0x640, .w⟩]⟩,
   ⟨0x500028, 1, 0, 1, 0, false, [⟨0, 14, .rw, 0x1900, .w⟩]⟩,
   ⟨0x500030, 1, 0, 1, 0, false, [⟨0, 8, .rw, 0x40, .w⟩, ⟨8, 8, .rw, 0x10, .w⟩, ⟨16, 16, .rw, 0x1f4, .w⟩]⟩,
   ⟨0x500034, 1, 0, 1, 0, false, [⟨0, 14, .rw, 0x1388, .w⟩, ⟨16, 5, .rw, 8, .w⟩]⟩,
   ⟨0x500040, 1, 0, 1, 0, false, [⟨0, 4, .rw, 0, .w⟩, ⟨4, 4, .rw, 0, .w⟩, ⟨8, 1, .rw, 0, .w⟩, ⟨9, 1, .rw, 0, .w⟩, ⟨16, 3, .rw, 0, .w⟩, ⟨20, 3, .rw, 0, .w⟩]⟩,
   ⟨0x500044, 1, 0, 1, 0, false, [⟨0, 1, .w1c, 0, .s⟩, ⟨1, 1, .w1c, 0, .s⟩, ⟨2, 1, .w1c, 0, .s⟩]⟩,
   ⟨0x500100, 8, 0x10, 1, 0, false, [⟨0, 17, .rw, 0, .w⟩, ⟨31, 1, .rw, 0, .w⟩]⟩,
   ⟨0x500104, 8, 0x10, 1, 0, false, [⟨0, 17, .rw, 0, .w⟩]⟩,
   ⟨0x500200, 8, 0x40, 1, 0, false, [⟨0, 32, .ro, 0, .s⟩]⟩,
   ⟨0x500204, 8, 0x40, 1, 0, false, [⟨0, 32, .ro, 0, .s⟩]⟩,
   ⟨0x500208, 8, 0x40, 1, 0, false, [⟨0, 32, .ro, 0, .s⟩]⟩,
   ⟨0x50020c, 8, 0x40, 1, 0, false, [⟨0, 32, .ro, 0, .s⟩]⟩,
   ⟨0x500210, 8, 0x40, 1, 0, false, [⟨0, 32, .ro, 0, .s⟩]⟩,
   ⟨0x500214, 8, 0x40, 1, 0, false, [⟨0, 32, .ro, 0, .s⟩]⟩,
   ⟨0x500218, 8, 0x40, 1, 0, false, [⟨0, 32, .ro, 0, .s⟩]⟩,
   ⟨0x50021c, 8, 0x40, 1, 0, false, [⟨0, 32, .ro, 0, .s⟩]⟩]

/-- Every register of block Srf. -/
def tableSrf : List RegSpec :=
  tableSrf0

/-- Register table of block Tns, part 0 (R7, R133, R158, R188). -/
def tableTns0 : List RegSpec :=
  [⟨0x600000, 1, 0, 1, 0, false, [⟨0, 4, .rw, 2, .w⟩]⟩,
   ⟨0x600004, 1, 0, 1, 0, false, [⟨0, 1, .rw, 0, .w⟩, ⟨1, 1, .rw, 1, .w⟩, ⟨2, 1, .rw, 0, .w⟩, ⟨8, 5, .rw, 0xc, .w⟩]⟩,
   ⟨0x600008, 1, 0, 1, 0, false, [⟨0, 1, .w1c, 0, .s⟩, ⟨1, 1, .w1c, 0, .s⟩, ⟨2, 1, .w1c, 0, .s⟩, ⟨8, 8, .ro, 0, .s⟩]⟩,
   ⟨0x60000c, 1, 0, 1, 0, false, [⟨0, 9, .ro, 0, .s⟩, ⟨31, 1, .ro, 0, .s⟩]⟩,
   ⟨0x600010, 1, 0, 1, 0, false, [⟨0, 32, .ro, 0, .s⟩]⟩,
   ⟨0x600014, 1, 0, 1, 0, true, [⟨0, 64, .ro, 0, .s⟩]⟩,
   ⟨0x60001c, 1, 0, 1, 0, false, [⟨0, 32, .ro, 0, .s⟩]⟩,
   ⟨0x600040, 1, 0, 1, 0, false, [⟨0, 32, .ro, 0, .s⟩]⟩,
   ⟨0x600044, 1, 0, 1, 0, false, [⟨0, 32, .ro, 0, .s⟩]⟩,
   ⟨0x600048, 1, 0, 1, 0, false, [⟨0, 32, .ro, 0, .s⟩]⟩,
   ⟨0x60004c, 1, 0, 1, 0, false, [⟨0, 32, .ro, 0, .s⟩]⟩,
   ⟨0x600050, 1, 0, 1, 0, false, [⟨0, 32, .ro, 0, .s⟩]⟩,
   ⟨0x600054, 1, 0, 1, 0, false, [⟨0, 32, .ro, 0, .s⟩]⟩,
   ⟨0x600058, 1, 0, 1, 0, false, [⟨0, 32, .ro, 0, .s⟩]⟩,
   ⟨0x600100, 1, 0, 1, 0, false, [⟨0, 1, .rw, 0, .w⟩]⟩,
   ⟨0x600104, 1, 0, 1, 0, false, [⟨0, 5, .ro, 0, .s⟩, ⟨8, 5, .ro, 0, .s⟩]⟩,
   ⟨0x600108, 1, 0, 1, 0, false, [⟨0, 1, .ro, 0, .s⟩]⟩,
   ⟨0x60010c, 1, 0, 1, 0, false, [⟨0, 1, .w1c, 0, .s⟩, ⟨1, 1, .w1c, 0, .s⟩, ⟨2, 1, .w1c, 0, .s⟩]⟩,
   ⟨0x600110, 1, 0, 1, 0, false, [⟨0, 9, .ro, 0, .s⟩, ⟨31, 1, .ro, 0, .s⟩]⟩,
   ⟨0x600200, 1, 0, 1, 0, false, [⟨0, 1, .w1c, 0, .s⟩, ⟨1, 1, .w1c, 0, .s⟩, ⟨2, 1, .w1c, 0, .s⟩]⟩,
   ⟨0x600240, 1, 0, 1, 0, false, [⟨0, 32, .ro, 0, .s⟩]⟩,
   ⟨0x600244, 1, 0, 1, 0, false, [⟨0, 32, .ro, 0, .s⟩]⟩,
   ⟨0x600248, 1, 0, 1, 0, false, [⟨0, 32, .ro, 0, .s⟩]⟩,
   ⟨0x60024c, 1, 0, 1, 0, false, [⟨0, 32, .ro, 0, .s⟩]⟩,
   ⟨0x600250, 1, 0, 1, 0, false, [⟨0, 32, .ro, 0, .s⟩]⟩]

/-- Register table of block Tns, part 1 (R7, R188). -/
def tableTns1 : List RegSpec :=
  [⟨0x600254, 1, 0, 1, 0, false, [⟨0, 32, .ro, 0, .s⟩]⟩,
   ⟨0x600258, 1, 0, 1, 0, false, [⟨0, 32, .ro, 0, .s⟩]⟩,
   ⟨0x60025c, 1, 0, 1, 0, false, [⟨0, 32, .ro, 0, .s⟩]⟩]

/-- Every register of block Tns. -/
def tableTns : List RegSpec :=
  tableTns0 ++ tableTns1

/-- Register table of block Fab, part 0 (R7, R229). -/
def tableFab0 : List RegSpec :=
  [⟨0x700000, 1, 0, 1, 0, false, [⟨0, 10, .rw, 0x19, .w⟩]⟩,
   ⟨0x700004, 1, 0, 1, 0, false, [⟨0, 15, .rw, 0x7d0, .w⟩]⟩,
   ⟨0x700008, 1, 0, 1, 0, false, [⟨0, 8, .rw, 4, .w⟩]⟩,
   ⟨0x70000c, 1, 0, 1, 0, false, [⟨0, 16, .rw, 0x28, .w⟩, ⟨16, 13, .rw, 0, .w⟩]⟩,
   ⟨0x700010, 1, 0, 1, 0, false, [⟨0, 1, .rw, 0, .w⟩, ⟨4, 3, .rw, 0, .w⟩, ⟨8, 3, .rw, 0, .w⟩]⟩,
   ⟨0x700014, 1, 0, 1, 0, false, [⟨0, 6, .rw, 0, .w⟩, ⟨16, 16, .rw, 0x1388, .w⟩]⟩,
   ⟨0x700020, 2, 0x10, 1, 0, false, [⟨0, 1, .rw, 0, .w⟩, ⟨1, 1, .rw, 1, .w⟩, ⟨2, 1, .rw, 0, .w⟩, ⟨8, 6, .rw, 0, .w⟩, ⟨16, 6, .rw, 0, .w⟩]⟩,
   ⟨0x700024, 2, 0x10, 1, 0, false, [⟨0, 16, .rw, 1, .w⟩]⟩,
   ⟨0x700028, 2, 0x10, 1, 0, false, [⟨0, 16, .rw, 0x3e8, .w⟩]⟩,
   ⟨0x70002c, 2, 0x10, 1, 0, false, [⟨0, 1, .ro, 0, .s⟩, ⟨1, 1, .wo, 0, .none⟩, ⟨16, 16, .ro, 0, .s⟩]⟩,
   ⟨0x700080, 1, 0, 1, 0, false, [⟨0, 8, .rc, 0, .s⟩, ⟨8, 1, .ro, 0, .s⟩, ⟨16, 1, .w1c, 0, .s⟩, ⟨17, 1, .w1c, 0, .s⟩, ⟨18, 1, .w1c, 0, .s⟩]⟩,
   ⟨0x700088, 1, 0, 1, 0, true, [⟨0, 64, .ro, 0, .s⟩]⟩,
   ⟨0x700100, 1, 0, 1, 0, false, [⟨0, 32, .ro, 0, .s⟩]⟩,
   ⟨0x700104, 1, 0, 1, 0, false, [⟨0, 32, .ro, 0, .s⟩]⟩,
   ⟨0x700108, 1, 0, 1, 0, false, [⟨0, 32, .ro, 0, .s⟩]⟩,
   ⟨0x70010c, 1, 0, 1, 0, false, [⟨0, 32, .ro, 0, .s⟩]⟩,
   ⟨0x700110, 1, 0, 1, 0, false, [⟨0, 32, .ro, 0, .s⟩]⟩,
   ⟨0x700114, 1, 0, 1, 0, false, [⟨0, 32, .ro, 0, .s⟩]⟩,
   ⟨0x700118, 1, 0, 1, 0, false, [⟨0, 32, .ro, 0, .s⟩]⟩,
   ⟨0x70011c, 1, 0, 1, 0, false, [⟨0, 32, .ro, 0, .s⟩]⟩,
   ⟨0x700120, 1, 0, 1, 0, false, [⟨0, 32, .ro, 0, .s⟩]⟩,
   ⟨0x700124, 1, 0, 1, 0, false, [⟨0, 32, .ro, 0, .s⟩]⟩,
   ⟨0x700128, 1, 0, 1, 0, false, [⟨0, 32, .ro, 0, .s⟩]⟩,
   ⟨0x70012c, 1, 0, 1, 0, false, [⟨0, 32, .ro, 0, .s⟩]⟩,
   ⟨0x700130, 1, 0, 1, 0, false, [⟨0, 32, .ro, 0, .s⟩]⟩]

/-- Register table of block Fab, part 1 (R7, R229). -/
def tableFab1 : List RegSpec :=
  [⟨0x700134, 1, 0, 1, 0, false, [⟨0, 32, .ro, 0, .s⟩]⟩,
   ⟨0x700138, 1, 0, 1, 0, false, [⟨0, 32, .ro, 0, .s⟩]⟩]

/-- Every register of block Fab. -/
def tableFab : List RegSpec :=
  tableFab0 ++ tableFab1

/-- Register table of block Flt, part 0 (R7, R261). -/
def tableFlt0 : List RegSpec :=
  [⟨0x800000, 1, 0, 1, 0, false, [⟨0, 32, .rw, 0, .w⟩]⟩,
   ⟨0x800004, 1, 0, 1, 0, false, [⟨0, 1, .w1c, 0, .s⟩, ⟨1, 1, .w1c, 0, .s⟩, ⟨2, 1, .w1c, 0, .s⟩]⟩,
   ⟨0x800008, 1, 0, 1, 0, false, [⟨0, 32, .ro, 0, .s⟩]⟩,
   ⟨0x80000c, 1, 0, 1, 0, false, [⟨0, 1, .rw, 0, .w⟩, ⟨4, 3, .rw, 0, .w⟩, ⟨8, 3, .rw, 0, .w⟩]⟩,
   ⟨0x800010, 1, 0, 1, 0, false, [⟨0, 1, .rw, 1, .w⟩, ⟨1, 1, .ro, 0, .s⟩]⟩,
   ⟨0x800014, 1, 0, 1, 0, false, [⟨0, 12, .rw, 0, .w⟩]⟩,
   ⟨0x800018, 1, 0, 1, 0, false, [⟨0, 16, .rw, 0, .w⟩]⟩,
   ⟨0x800020, 1, 0, 1, 0, false, [⟨0, 1, .rw, 0, .w⟩, ⟨1, 1, .rw, 0, .w⟩, ⟨4, 18, .rw, 0x196e7, .w⟩, ⟨24, 2, .rw, 0, .w⟩]⟩,
   ⟨0x800024, 1, 0, 1, 0, false, [⟨0, 8, .rc, 0, .s⟩, ⟨8, 1, .rc, 0, .s⟩]⟩,
   ⟨0x800040, 2, 0x20, 1, 0, false, [⟨0, 1, .rw, 0, .w⟩, ⟨1, 1, .rw, 0, .w⟩, ⟨2, 1, .rw, 0, .w⟩, ⟨3, 1, .rw, 1, .w⟩, ⟨4, 8, .rw, 0x27, .w⟩, ⟨12, 2, .rw, 0, .w⟩, ⟨16, 5, .rw, 0xe, .w⟩]⟩,
   ⟨0x800044, 2, 0x20, 1, 0, false, [⟨0, 32, .rw, 0, .w⟩]⟩,
   ⟨0x800048, 2, 0x20, 1, 0, false, [⟨0, 30, .rw, 0x14831040, .w⟩]⟩,
   ⟨0x80004c, 2, 0x20, 1, 0, false, [⟨0, 4, .rw, 1, .w⟩, ⟨30, 1, .wo, 0, .none⟩, ⟨31, 1, .ro, 0, .s⟩]⟩,
   ⟨0x800050, 2, 0x20, 1, 0, true, [⟨0, 64, .rw, 0, .s⟩]⟩,
   ⟨0x800058, 2, 0x20, 1, 0, false, [⟨0, 5, .rw, 0xc, .w⟩]⟩,
   ⟨0x800080, 1, 0, 1, 0, false, [⟨0, 8, .rw, 0, .w⟩, ⟨8, 8, .rw, 0, .w⟩]⟩,
   ⟨0x8000a0, 8, 4, 1, 0, false, [⟨0, 32, .ro, 0, .s⟩]⟩,
   ⟨0x800100, 4, 0x10, 1, 0, false, [⟨0, 1, .rw, 0, .w⟩, ⟨1, 1, .rw, 0, .w⟩, ⟨2, 1, .rw, 0, .w⟩]⟩,
   ⟨0x800104, 4, 0x10, 1, 0, false, [⟨0, 8, .rw, 0, .w⟩, ⟨8, 8, .rw, 0, .w⟩, ⟨16, 7, .rw, 0, .w⟩, ⟨24, 7, .rw, 0, .w⟩]⟩,
   ⟨0x800108, 4, 0x10, 1, 0, false, [⟨0, 8, .rw, 0, .w⟩, ⟨8, 8, .rw, 0, .w⟩, ⟨16, 7, .rw, 0, .w⟩, ⟨24, 7, .rw, 0, .w⟩]⟩,
   ⟨0x80010c, 4, 0x10, 1, 0, false, [⟨0, 2, .ro, 0, .s⟩, ⟨8, 8, .ro, 0, .s⟩, ⟨16, 8, .ro, 0, .s⟩]⟩,
   ⟨0x800200, 64, 8, 1, 0, false, [⟨0, 29, .rw, 0, .w⟩, ⟨29, 1, .rw, 0, .w⟩, ⟨30, 2, .rw, 0, .w⟩]⟩,
   ⟨0x800204, 64, 8, 1, 0, false, [⟨0, 29, .rw, 0, .w⟩, ⟨31, 1, .rw, 0, .w⟩]⟩,
   ⟨0x800400, 32, 8, 1, 0, false, [⟨0, 6, .rw, 0, .w⟩, ⟨6, 9, .rw, 0, .w⟩, ⟨15, 5, .rw, 0, .w⟩, ⟨20, 1, .rw, 0, .w⟩, ⟨21, 1, .rw, 0, .w⟩, ⟨22, 1, .rw, 0, .w⟩]⟩,
   ⟨0x800404, 32, 8, 1, 0, false, [⟨0, 1, .rw, 1, .w⟩]⟩]

/-- Register table of block Flt, part 1 (R7, R261). -/
def tableFlt1 : List RegSpec :=
  [⟨0x800800, 32, 0x40, 1, 0, false, [⟨0, 8, .rw, 0, .w⟩]⟩,
   ⟨0x800804, 32, 0x40, 1, 0, false, [⟨0, 7, .rw, 0, .w⟩, ⟨8, 5, .rw, 0xf, .w⟩]⟩,
   ⟨0x800808, 32, 0x40, 1, 0, false, [⟨0, 3, .rw, 1, .w⟩, ⟨8, 7, .rw, 1, .w⟩, ⟨16, 5, .rw, 0, .w⟩]⟩,
   ⟨0x80080c, 32, 0x40, 1, 0, false, [⟨0, 2, .rw, 0, .w⟩, ⟨8, 8, .rw, 0, .w⟩, ⟨16, 16, .rw, 0x2710, .w⟩]⟩,
   ⟨0x800810, 32, 0x40, 1, 0, false, [⟨0, 32, .rw, 0x1e848, .w⟩]⟩,
   ⟨0x800814, 32, 0x40, 1, 0, false, [⟨0, 12, .rw, 0, .w⟩]⟩,
   ⟨0x800818, 32, 0x40, 1, 0, false, [⟨0, 32, .rw, 0x3f800000, .w⟩]⟩,
   ⟨0x80081c, 32, 0x40, 1, 0, false, [⟨0, 32, .rw, 0, .w⟩]⟩,
   ⟨0x800820, 32, 0x40, 1, 0, false, [⟨0, 1, .rw, 0, .w⟩, ⟨1, 1, .rw, 0, .w⟩, ⟨2, 1, .rw, 0, .w⟩, ⟨3, 1, .rw, 0, .w⟩, ⟨8, 8, .rw, 0, .w⟩]⟩,
   ⟨0x800824, 32, 0x40, 1, 0, false, [⟨0, 32, .rw, 0, .w⟩]⟩,
   ⟨0x800828, 32, 0x40, 1, 0, false, [⟨0, 32, .rw, 0, .w⟩]⟩,
   ⟨0x80082c, 32, 0x40, 1, 0, false, [⟨0, 1, .rw, 0, .w⟩, ⟨1, 1, .rw, 0, .w⟩, ⟨2, 1, .rw, 0, .w⟩, ⟨3, 1, .rw, 0, .w⟩, ⟨8, 8, .rw, 0, .w⟩]⟩,
   ⟨0x800830, 32, 0x40, 1, 0, false, [⟨0, 32, .rw, 0, .w⟩]⟩,
   ⟨0x800834, 32, 0x40, 1, 0, false, [⟨0, 32, .rw, 0, .w⟩]⟩,
   ⟨0x800838, 32, 0x40, 1, 0, false, [⟨0, 1, .ro, 0, .s⟩, ⟨1, 1, .ro, 0, .s⟩, ⟨2, 1, .ro, 0, .s⟩, ⟨16, 16, .ro, 0, .s⟩]⟩,
   ⟨0x801000, 1, 0, 1, 0, false, [⟨0, 32, .ro, 0, .s⟩]⟩,
   ⟨0x801004, 1, 0, 1, 0, false, [⟨0, 32, .ro, 0, .s⟩]⟩,
   ⟨0x801008, 1, 0, 1, 0, false, [⟨0, 32, .ro, 0, .s⟩]⟩,
   ⟨0x80100c, 1, 0, 1, 0, false, [⟨0, 32, .ro, 0, .s⟩]⟩,
   ⟨0x801010, 1, 0, 1, 0, false, [⟨0, 32, .ro, 0, .s⟩]⟩,
   ⟨0x801014, 1, 0, 1, 0, false, [⟨0, 32, .ro, 0, .s⟩]⟩,
   ⟨0x801018, 1, 0, 1, 0, false, [⟨0, 32, .ro, 0, .s⟩]⟩,
   ⟨0x80101c, 1, 0, 1, 0, false, [⟨0, 32, .ro, 0, .s⟩]⟩,
   ⟨0x801020, 1, 0, 1, 0, false, [⟨0, 32, .ro, 0, .s⟩]⟩,
   ⟨0x801024, 1, 0, 1, 0, false, [⟨0, 32, .ro, 0, .s⟩]⟩]

/-- Register table of block Flt, part 2 (R7, R261). -/
def tableFlt2 : List RegSpec :=
  [⟨0x801028, 1, 0, 1, 0, false, [⟨0, 32, .ro, 0, .s⟩]⟩,
   ⟨0x80102c, 1, 0, 1, 0, false, [⟨0, 32, .ro, 0, .s⟩]⟩,
   ⟨0x801030, 1, 0, 1, 0, false, [⟨0, 32, .ro, 0, .s⟩]⟩,
   ⟨0x801034, 1, 0, 1, 0, false, [⟨0, 32, .ro, 0, .s⟩]⟩,
   ⟨0x801038, 1, 0, 1, 0, false, [⟨0, 32, .ro, 0, .s⟩]⟩,
   ⟨0x80103c, 1, 0, 1, 0, false, [⟨0, 32, .ro, 0, .s⟩]⟩,
   ⟨0x801040, 1, 0, 1, 0, false, [⟨0, 32, .ro, 0, .s⟩]⟩]

/-- Every register of block Flt. -/
def tableFlt : List RegSpec :=
  tableFlt0 ++ tableFlt1 ++ tableFlt2

/-- Register table of block Ftu, part 0 (R7, R289). -/
def tableFtu0 : List RegSpec :=
  [⟨0x900000, 1, 0, 1, 0, false, [⟨0, 1, .rw, 0, .w⟩, ⟨1, 1, .rw, 1, .w⟩, ⟨2, 1, .rw, 1, .w⟩]⟩,
   ⟨0x900004, 1, 0, 1, 0, false, [⟨0, 1, .rw, 0, .w⟩, ⟨4, 3, .rw, 0, .w⟩, ⟨8, 3, .rw, 0, .w⟩]⟩,
   ⟨0x900008, 1, 0, 1, 0, false, [⟨0, 1, .rw, 0, .w⟩, ⟨16, 16, .rw, 0x190, .w⟩]⟩,
   ⟨0x90000c, 1, 0, 1, 0, false, [⟨0, 16, .rw, 0x3e8, .w⟩, ⟨16, 16, .rw, 0x7d0, .w⟩]⟩,
   ⟨0x900010, 1, 0, 1, 0, false, [⟨0, 16, .rw, 0x28, .w⟩, ⟨16, 16, .rw, 0x190, .w⟩]⟩,
   ⟨0x900014, 1, 0, 1, 0, false, [⟨0, 16, .rw, 0xc8, .w⟩, ⟨16, 8, .rw, 0x20, .w⟩]⟩,
   ⟨0x900018, 1, 0, 1, 0, false, [⟨0, 4, .rw, 3, .w⟩, ⟨4, 4, .rw, 5, .w⟩, ⟨8, 16, .rw, 0x190, .w⟩]⟩,
   ⟨0x90001c, 1, 0, 1, 0, false, [⟨0, 32, .rw, 0x41380000, .w⟩]⟩,
   ⟨0x900020, 1, 0, 1, 0, false, [⟨0, 32, .rw, 0x3f000000, .w⟩]⟩,
   ⟨0x900024, 1, 0, 1, 0, false, [⟨0, 6, .rw, 0, .w⟩]⟩,
   ⟨0x900028, 1, 0, 1, 0, true, [⟨0, 64, .rw, 0, .w⟩]⟩,
   ⟨0x900030, 1, 0, 1, 0, true, [⟨0, 64, .rw, 0, .w⟩]⟩,
   ⟨0x900038, 1, 0, 1, 0, true, [⟨0, 64, .rw, 0, .w⟩]⟩,
   ⟨0x900040, 1, 0, 1, 0, false, [⟨0, 32, .rw, 0, .w⟩]⟩,
   ⟨0x900044, 1, 0, 1, 0, false, [⟨0, 1, .rw, 0, .w⟩]⟩,
   ⟨0x900048, 1, 0, 1, 0, false, [⟨0, 9, .rw, 0, .w⟩, ⟨31, 1, .rw, 0, .w⟩]⟩,
   ⟨0x90004c, 1, 0, 1, 0, false, [⟨0, 16, .rw, 0, .w⟩, ⟨16, 16, .rw, 0, .w⟩]⟩,
   ⟨0x900050, 1, 0, 1, 0, false, [⟨0, 32, .rw, 0x3f800000, .w⟩]⟩,
   ⟨0x900054, 1, 0, 1, 0, false, [⟨0, 8, .rw, 0, .w⟩, ⟨16, 8, .rw, 0x10, .w⟩]⟩,
   ⟨0x900080, 2, 8, 1, 0, false, [⟨0, 32, .rw, 0x3e800000, .w⟩]⟩,
   ⟨0x900084, 2, 8, 1, 0, false, [⟨0, 1, .rw, 0, .w⟩, ⟨8, 4, .rw, 0, .w⟩]⟩,
   ⟨0x900100, 1, 0, 1, 0, false, [⟨0, 1, .w1c, 0, .s⟩, ⟨1, 1, .w1c, 0, .s⟩, ⟨2, 1, .w1c, 0, .s⟩, ⟨3, 1, .w1c, 0, .s⟩, ⟨8, 1, .ro, 0, .s⟩]⟩,
   ⟨0x900108, 1, 0, 1, 0, true, [⟨0, 64, .ro, 0, .s⟩]⟩,
   ⟨0x900110, 1, 0, 1, 0, true, [⟨0, 64, .ro, 0, .s⟩]⟩,
   ⟨0x900400, 64, 0x20, 1, 0, false, [⟨0, 4, .rw, 0, .w⟩, ⟨4, 1, .rw, 0, .w⟩, ⟨5, 5, .rw, 0, .w⟩, ⟨10, 4, .rw, 0, .w⟩, ⟨14, 1, .rw, 0, .w⟩, ⟨15, 1, .rw, 1, .w⟩, ⟨16, 3, .rw, 0, .w⟩, ⟨19, 1, .rw, 0, .w⟩, ⟨20, 12, .rw, 2, .w⟩]⟩]

/-- Register table of block Ftu, part 1 (R7, R289). -/
def tableFtu1 : List RegSpec :=
  [⟨0x900404, 64, 0x20, 1, 0, false, [⟨0, 32, .rw, 0x3f800000, .w⟩]⟩,
   ⟨0x900408, 64, 0x20, 1, 0, false, [⟨0, 32, .rw, 0, .w⟩]⟩,
   ⟨0x90040c, 64, 0x20, 1, 0, false, [⟨0, 16, .rw, 8, .w⟩, ⟨16, 16, .rw, 0, .w⟩]⟩,
   ⟨0x900410, 64, 0x20, 1, 0, false, [⟨0, 16, .rw, 0, .w⟩, ⟨16, 16, .rw, 0, .w⟩]⟩,
   ⟨0x900414, 64, 0x20, 1, 0, false, [⟨0, 32, .rw, 0, .w⟩]⟩,
   ⟨0x900418, 64, 0x20, 1, 0, false, [⟨0, 8, .rw, 0x28, .w⟩, ⟨8, 8, .rw, 0x10, .w⟩]⟩,
   ⟨0x90041c, 64, 0x20, 1, 0, false, [⟨0, 1, .ro, 0, .s⟩, ⟨1, 3, .ro, 0, .s⟩, ⟨4, 1, .ro, 0, .s⟩]⟩,
   ⟨0x901000, 8, 0x40, 9, 4, false, [⟨0, 32, .rw, 0, .w⟩]⟩,
   ⟨0x900140, 1, 0, 1, 0, false, [⟨0, 32, .ro, 0, .s⟩]⟩,
   ⟨0x900144, 1, 0, 1, 0, false, [⟨0, 32, .ro, 0, .s⟩]⟩,
   ⟨0x900148, 1, 0, 1, 0, false, [⟨0, 32, .ro, 0, .s⟩]⟩,
   ⟨0x90014c, 1, 0, 1, 0, false, [⟨0, 32, .ro, 0, .s⟩]⟩,
   ⟨0x900150, 1, 0, 1, 0, false, [⟨0, 32, .ro, 0, .s⟩]⟩,
   ⟨0x900154, 1, 0, 1, 0, false, [⟨0, 32, .ro, 0, .s⟩]⟩,
   ⟨0x900158, 1, 0, 1, 0, false, [⟨0, 32, .ro, 0, .s⟩]⟩,
   ⟨0x90015c, 1, 0, 1, 0, false, [⟨0, 32, .ro, 0, .s⟩]⟩,
   ⟨0x900160, 1, 0, 1, 0, false, [⟨0, 32, .ro, 0, .s⟩]⟩,
   ⟨0x900164, 1, 0, 1, 0, false, [⟨0, 32, .ro, 0, .s⟩]⟩,
   ⟨0x900168, 1, 0, 1, 0, false, [⟨0, 32, .ro, 0, .s⟩]⟩,
   ⟨0x90016c, 1, 0, 1, 0, false, [⟨0, 32, .ro, 0, .s⟩]⟩,
   ⟨0x900170, 1, 0, 1, 0, false, [⟨0, 32, .ro, 0, .s⟩]⟩,
   ⟨0x900174, 1, 0, 1, 0, false, [⟨0, 32, .ro, 0, .s⟩]⟩]

/-- Every register of block Ftu. -/
def tableFtu : List RegSpec :=
  tableFtu0 ++ tableFtu1

/-- Register table of block Dbg, part 0 (R7, R489). -/
def tableDbg0 : List RegSpec :=
  [⟨0xa00000, 1, 0, 1, 0, false, [⟨0, 1, .wo, 0, .none⟩, ⟨1, 1, .rw, 0, .w⟩, ⟨8, 16, .rw, 0x28, .w⟩]⟩,
   ⟨0xa00008, 1, 0, 1, 0, true, [⟨0, 64, .ro, 0, .s⟩]⟩,
   ⟨0xa00010, 1, 0, 1, 0, false, [⟨0, 2, .ro, 0, .s⟩, ⟨2, 1, .ro, 0, .w⟩]⟩,
   ⟨0xa00018, 1, 0, 1, 0, true, [⟨0, 64, .ro, 0, .s⟩]⟩,
   ⟨0xa00020, 1, 0, 1, 0, true, [⟨0, 64, .ro, 0, .s⟩]⟩,
   ⟨0xa00028, 1, 0, 1, 0, false, [⟨0, 4, .rw, 8, .w⟩, ⟨4, 4, .rw, 8, .w⟩]⟩,
   ⟨0xa0002c, 1, 0, 1, 0, false, [⟨0, 9, .rw, 0, .w⟩]⟩,
   ⟨0xa00030, 1, 0, 1, 0, false, [⟨0, 1, .rw, 1, .w⟩, ⟨16, 16, .rw, 0x7d0, .w⟩]⟩,
   ⟨0xa00034, 1, 0, 1, 0, false, [⟨0, 1, .ro, 0, .s⟩, ⟨1, 1, .ro, 0, .s⟩]⟩,
   ⟨0xa00038, 1, 0, 1, 0, false, [⟨0, 32, .ro, 0, .s⟩]⟩,
   ⟨0xa0003c, 1, 0, 1, 0, false, [⟨0, 1, .wo, 0, .none⟩]⟩,
   ⟨0xa00040, 1, 0, 1, 0, true, [⟨0, 64, .ro, 0, .w⟩]⟩,
   ⟨0xa00080, 1, 0, 1, 0, false, [⟨0, 32, .ro, 0, .s⟩]⟩,
   ⟨0xa00084, 1, 0, 1, 0, false, [⟨0, 32, .ro, 0, .s⟩]⟩,
   ⟨0xa00088, 1, 0, 1, 0, false, [⟨0, 32, .ro, 0, .s⟩]⟩,
   ⟨0xa0008c, 1, 0, 1, 0, false, [⟨0, 32, .ro, 0, .s⟩]⟩,
   ⟨0xa00090, 1, 0, 1, 0, false, [⟨0, 32, .ro, 0, .s⟩]⟩,
   ⟨0xa00094, 1, 0, 1, 0, false, [⟨0, 32, .ro, 0, .s⟩]⟩,
   ⟨0xa01000, 6, 0x100, 22, 8, true, [⟨0, 64, .ro, 0, .s⟩]⟩]

/-- Every register of block Dbg. -/
def tableDbg : List RegSpec :=
  tableDbg0

/-- Register table of block Lif, part 0 (R7, R489). -/
def tableLif0 : List RegSpec :=
  [⟨0xb00000, 1, 0, 1, 0, false, [⟨0, 13, .rw, 0, .w⟩]⟩,
   ⟨0xb00004, 1, 0, 1, 0, false, [⟨0, 32, .ro, 0, .l⟩]⟩,
   ⟨0xb00008, 1, 0, 1, 0, true, [⟨0, 64, .ro, 0, .l⟩]⟩,
   ⟨0xb00010, 1, 0, 1, 0, false, [⟨0, 1, .ro, 0, .a⟩, ⟨1, 1, .w1c, 0, .a⟩]⟩]

/-- Every register of block Lif. -/
def tableLif : List RegSpec :=
  tableLif0

/-- Register table of block Err, part 0 (R7, R464). -/
def tableErr0 : List RegSpec :=
  [⟨0xc00000, 1, 0, 1, 0, false, [⟨0, 1, .rw, 0, .w⟩, ⟨1, 1, .rw, 1, .w⟩]⟩,
   ⟨0xc00004, 1, 0, 1, 0, false, [⟨0, 3, .rw, 0, .w⟩]⟩,
   ⟨0xc00008, 1, 0, 1, 0, false, [⟨0, 1, .w1c, 0, .s⟩, ⟨1, 1, .w1c, 0, .s⟩, ⟨2, 1, .w1c, 0, .s⟩, ⟨3, 1, .w1c, 0, .a⟩]⟩,
   ⟨0xc0000c, 1, 0, 1, 0, false, [⟨0, 4, .ro, 0, .w⟩]⟩,
   ⟨0xc00010, 1, 0, 1, 0, false, [⟨0, 8, .ro, 0, .a⟩, ⟨8, 3, .ro, 0, .a⟩, ⟨31, 1, .ro, 0, .a⟩]⟩,
   ⟨0xc00020, 1, 0, 1, 0, false, [⟨0, 3, .rw, 0, .s⟩, ⟨3, 1, .rw, 0, .s⟩, ⟨4, 2, .rw, 0, .s⟩, ⟨6, 1, .rw, 0, .s⟩, ⟨8, 8, .rw, 1, .s⟩]⟩,
   ⟨0xc00024, 1, 0, 1, 0, false, [⟨0, 2, .rw, 0, .s⟩, ⟨2, 1, .rw, 0, .s⟩, ⟨8, 6, .rw, 0, .s⟩, ⟨16, 8, .rw, 1, .s⟩]⟩,
   ⟨0xc00040, 1, 0, 1, 0, false, [⟨0, 32, .ro, 0, .s⟩]⟩,
   ⟨0xc00044, 1, 0, 1, 0, false, [⟨0, 32, .ro, 0, .s⟩]⟩,
   ⟨0xc00048, 1, 0, 1, 0, false, [⟨0, 32, .ro, 0, .s⟩]⟩,
   ⟨0xc0004c, 1, 0, 1, 0, false, [⟨0, 32, .ro, 0, .s⟩]⟩,
   ⟨0xc00050, 1, 0, 1, 0, false, [⟨0, 32, .ro, 0, .s⟩]⟩,
   ⟨0xc00054, 1, 0, 1, 0, false, [⟨0, 32, .ro, 0, .s⟩]⟩,
   ⟨0xc00058, 1, 0, 1, 0, false, [⟨0, 32, .ro, 0, .s⟩]⟩,
   ⟨0xc0005c, 1, 0, 1, 0, false, [⟨0, 32, .ro, 0, .s⟩]⟩,
   ⟨0xc00060, 1, 0, 1, 0, false, [⟨0, 32, .ro, 0, .s⟩]⟩,
   ⟨0xc00100, 7, 8, 1, 0, false, [⟨0, 32, .ro, 0, .s⟩]⟩,
   ⟨0xc00104, 7, 8, 1, 0, false, [⟨0, 32, .ro, 0, .s⟩]⟩]

/-- Every register of block Err. -/
def tableErr : List RegSpec :=
  tableErr0

/-- Register table of block Fn, part 0 (R7, R292, R331, R489). -/
def tableFn0 : List RegSpec :=
  [⟨0x1001000, 8, 0x10000, 1, 0, false, [⟨0, 1, .ro, 0, .s⟩, ⟨1, 1, .w1c, 0, .f⟩, ⟨2, 1, .w1c, 0, .f⟩, ⟨3, 1, .w1c, 0, .f⟩, ⟨4, 1, .w1c, 0, .f⟩, ⟨5, 1, .w1c, 0, .f⟩]⟩,
   ⟨0x1001004, 8, 0x10000, 1, 0, false, [⟨0, 4, .w1c, 0xf, .a⟩]⟩,
   ⟨0x1001008, 8, 0x10000, 1, 0, false, [⟨0, 32, .ro, 1, .a⟩]⟩,
   ⟨0x100100c, 8, 0x10000, 1, 0, false, [⟨0, 32, .rw, 0, .a⟩]⟩,
   ⟨0x1001010, 8, 0x10000, 1, 0, true, [⟨0, 64, .ro, 0, .f⟩]⟩,
   ⟨0x1001018, 8, 0x10000, 1, 0, false, [⟨0, 5, .rw, 0, .f⟩, ⟨8, 5, .rw, 0, .f⟩, ⟨16, 5, .rw, 0, .f⟩]⟩,
   ⟨0x100101c, 8, 0x10000, 1, 0, false, [⟨0, 32, .ro, 0, .s⟩]⟩,
   ⟨0x1001020, 8, 0x10000, 1, 0, false, [⟨0, 1, .wo, 0, .none⟩]⟩,
   ⟨0x1001028, 8, 0x10000, 1, 0, true, [⟨0, 64, .ro, 0, .s⟩]⟩,
   ⟨0x1001030, 8, 0x10000, 22, 8, true, [⟨0, 64, .ro, 0, .s⟩]⟩,
   ⟨0x1001100, 8, 0x10000, 4, 0x20, true, [⟨0, 64, .rw, 0, .f⟩]⟩,
   ⟨0x1001108, 8, 0x10000, 4, 0x20, false, [⟨0, 5, .rw, 4, .f⟩, ⟨8, 2, .rw, 0, .f⟩, ⟨31, 1, .rw, 0, .f⟩]⟩,
   ⟨0x100110c, 8, 0x10000, 4, 0x20, false, [⟨0, 16, .ro, 0, .f⟩]⟩,
   ⟨0x1001200, 8, 0x10000, 4, 0x20, true, [⟨0, 64, .rw, 0, .f⟩]⟩,
   ⟨0x1001208, 8, 0x10000, 4, 0x20, false, [⟨0, 5, .rw, 4, .f⟩, ⟨8, 5, .rw, 0, .f⟩, ⟨31, 1, .rw, 0, .f⟩]⟩,
   ⟨0x100120c, 8, 0x10000, 4, 0x20, false, [⟨0, 16, .ro, 0, .f⟩]⟩,
   ⟨0x1001300, 8, 0x10000, 8, 0x20, true, [⟨0, 64, .rw, 0, .f⟩]⟩,
   ⟨0x1001308, 8, 0x10000, 8, 0x20, false, [⟨0, 5, .rw, 0x12, .f⟩, ⟨8, 5, .rw, 0, .f⟩, ⟨31, 1, .rw, 0, .f⟩]⟩,
   ⟨0x100130c, 8, 0x10000, 8, 0x20, false, [⟨0, 16, .rw, 1, .f⟩, ⟨16, 16, .rw, 0x64, .f⟩]⟩,
   ⟨0x1001310, 8, 0x10000, 8, 0x20, false, [⟨0, 30, .ro, 0, .f⟩]⟩,
   ⟨0x1001314, 8, 0x10000, 8, 0x20, false, [⟨0, 32, .ro, 0, .f⟩]⟩,
   ⟨0x1001318, 8, 0x10000, 8, 0x20, false, [⟨0, 21, .ro, 0, .f⟩]⟩,
   ⟨0x100131c, 8, 0x10000, 8, 0x20, false, [⟨0, 32, .ro, 0, .s⟩]⟩,
   ⟨0x100e000, 8, 0x10000, 32, 0x10, false, [⟨0, 32, .rw, 0, .f⟩]⟩,
   ⟨0x100e004, 8, 0x10000, 32, 0x10, false, [⟨0, 32, .rw, 0, .f⟩]⟩]

/-- Register table of block Fn, part 1 (R7, R292). -/
def tableFn1 : List RegSpec :=
  [⟨0x100e008, 8, 0x10000, 32, 0x10, false, [⟨0, 32, .rw, 0, .f⟩]⟩,
   ⟨0x100e00c, 8, 0x10000, 32, 0x10, false, [⟨0, 1, .rw, 1, .f⟩]⟩,
   ⟨0x100f000, 8, 0x10000, 1, 0, false, [⟨0, 32, .ro, 0, .f⟩]⟩]

/-- Every register of block Fn. -/
def tableFn : List RegSpec :=
  tableFn0 ++ tableFn1

/-- The table of the block that holds address `a` (R511); function pages share one table. -/
def tableOf (a : Nat) : List RegSpec :=
  match a / 0x100000 with
  | 0 => tableHif | 1 => tableMgt | 2 => tablePwr | 3 => tableTim | 4 => tableIng
  | 5 => tableSrf | 6 => tableTns | 7 => tableFab | 8 => tableFlt | 9 => tableFtu
  | 10 => tableDbg | 11 => tableLif | 12 => tableErr
  | 16 => tableFn
  | _ => []

/-- The address of the word of `r` that lies at or 4 below `a`, with whether `a` is its HI half; none where `r` has no word at `a`. -/
def RegSpec.locate (r : RegSpec) (a : Nat) : Option (Nat × Bool) :=
  if a < r.base then none else
  let d := a - r.base
  let i := if r.n = 1 then 0 else d / r.stride
  let d1 := if r.n = 1 then d else d % r.stride
  let j := if r.n2 = 1 then 0 else d1 / r.stride2
  let d2 := if r.n2 = 1 then d1 else d1 % r.stride2
  if i < r.n && j < r.n2 then
    if d2 = 0 then some (a, false)
    else if r.pair && d2 = 4 then some (a - 4, true)
    else none
  else none

/-- The first register of `l` with a word at `a`. -/
def findReg (a : Nat) : List RegSpec → Option RegHit
  | [] => none
  | r :: rs =>
    match r.locate a with
    | some (lo, hi) => some ⟨r, lo, hi⟩
    | none => findReg a rs

/-- The register at address `a`, if one occupies it (R512). -/
def regAt (a : Nat) : Option RegHit := findReg a (tableOf a)

/-- The retention class of the field with key `k` (R10). -/
def classOfKey (k : Nat) : Cls :=
  match regAt (k / 64) with
  | some h => (h.spec.fields.find? (fun f => f.lo == k % 64)).elim .none (·.cls)
  | none => .none

/-- HIF_LINK.SPEED (R330). -/
def R.hifLinkSpeed : Fld := ⟨4, 0, 3, 0⟩
/-- HIF_LINK.WIDTH (R330). -/
def R.hifLinkWidth : Fld := ⟨4, 3, 5, 0⟩
/-- HIF_SVC.MODE (R330). -/
def R.hifSvcMode : Fld := ⟨8, 0, 2, 0⟩
/-- HIF_PRIV.FN (R330). -/
def R.hifPrivFn : Fld := ⟨0xc, 0, 32, 0xf⟩
/-- HIF_STATE_LOST.CLASSES (R330). -/
def R.hifStateLostClasses : Fld := ⟨0x10, 0, 4, 0xf⟩
/-- HIF_STATE_LOST.CAUSE (R330). -/
def R.hifStateLostCause : Fld := ⟨0x10, 8, 3, 7⟩
/-- HIF_LOSS_EPOCH.EPOCH (R330). -/
def R.hifLossEpochEpoch : Fld := ⟨0x14, 0, 32, 1⟩
/-- HIF_RUN.STATE (R356). -/
def R.hifRunState : Fld := ⟨0x40, 0, 2, 0⟩
/-- HIF_RUN.HOLD (R356). -/
def R.hifRunHold : Fld := ⟨0x40, 2, 1, 0⟩
/-- HIF_RUN.LAST_FULL (R356). -/
def R.hifRunLastFull : Fld := ⟨0x40, 3, 1, 0⟩
/-- HIF_SETS.ACTIVE (R356). -/
def R.hifSetsActive : Fld := ⟨0x44, 0, 2, 0⟩
/-- HIF_SETS.SHADOW (R356). -/
def R.hifSetsShadow : Fld := ⟨0x44, 2, 2, 0⟩
/-- HIF_SETS.SWAP_PENDING (R356). -/
def R.hifSetsSwapPending : Fld := ⟨0x44, 4, 1, 0⟩
/-- HIF_SETS.LOAD_WAIT (R356). -/
def R.hifSetsLoadWait : Fld := ⟨0x44, 5, 1, 0⟩
/-- HIF_SETS.ACTIVE_DIES (R356). -/
def R.hifSetsActiveDies : Fld := ⟨0x44, 8, 2, 0⟩
/-- HIF_SETS.SHADOW_DIES (R356). -/
def R.hifSetsShadowDies : Fld := ⟨0x44, 10, 2, 0⟩
/-- HIF_SET_ACTIVE_ID.IMAGE_ID (R356). -/
def R.hifSetActiveIdImageId : Fld := ⟨0x48, 0, 32, 0⟩
/-- HIF_SET_SHADOW_ID.IMAGE_ID (R356). -/
def R.hifSetShadowIdImageId : Fld := ⟨0x4c, 0, 32, 0⟩
/-- HIF_STOP_TICK.TICK (R356). -/
def R.hifStopTickTick : Fld := ⟨0x50, 0, 64, 0⟩
/-- HIF_SWAP_TICK.TICK (R356). -/
def R.hifSwapTickTick : Fld := ⟨0x58, 0, 64, 0⟩
/-- HIF_RUN_TICK.TICK (R356). -/
def R.hifRunTickTick : Fld := ⟨0x60, 0, 64, 0⟩
/-- CNT_HAL_CMD.COUNT (R356). -/
def R.cntHalCmd : Fld := ⟨0x68, 0, 32, 0⟩
/-- CNT_SWAP.COUNT (R356). -/
def R.cntSwap : Fld := ⟨0x6c, 0, 32, 0⟩
/-- CNT_STOP.COUNT (R356). -/
def R.cntStop : Fld := ⟨0x70, 0, 32, 0⟩
/-- MGT_IDLE1.US (R433). -/
def R.mgtIdle1Us : Fld := ⟨0x100000, 0, 16, 0xc8⟩
/-- MGT_IDLE2.MS (R433). -/
def R.mgtIdle2Ms : Fld := ⟨0x100004, 0, 16, 0x32⟩
/-- MGT_IDLE3.S (R433). -/
def R.mgtIdle3S : Fld := ⟨0x100008, 0, 12, 0⟩
/-- MGT_IDLE3.LINK_OK (R433). -/
def R.mgtIdle3LinkOk : Fld := ⟨0x100008, 31, 1, 0⟩
/-- MGT_REEF_STATUS.LAST_STATE (R433). -/
def R.mgtReefStatusLastState : Fld := ⟨0x10000c, 0, 2, 0⟩
/-- MGT_REEF_STATUS.WAKE_SRC (R433). -/
def R.mgtReefStatusWakeSrc : Fld := ⟨0x10000c, 4, 3, 0⟩
/-- MGT_REEF_STATUS.WAKE_PORT (R433). -/
def R.mgtReefStatusWakePort : Fld := ⟨0x10000c, 16, 3, 0⟩
/-- MGT_WAKE_EN.PORT (R433). -/
def R.mgtWakeEnPort : Fld := ⟨0x100010, 0, 8, 0xff⟩
/-- MGT_WAKE_EN.TCI (R433). -/
def R.mgtWakeEnTci : Fld := ⟨0x100010, 8, 4, 0xf⟩
/-- MGT_ALARM.NS (R433). -/
def R.mgtAlarmNs : Fld := ⟨0x100018, 0, 64, 0⟩
/-- MGT_ALARM_CTL.EN (R433). -/
def R.mgtAlarmCtlEn : Fld := ⟨0x100020, 0, 1, 0⟩
/-- MGT_SOFT_RESET.KEY (R433). -/
def R.mgtSoftResetKey : Fld := ⟨0x100024, 0, 16, 0⟩
/-- MGT_DIE_RESET.DIE (R433). -/
def R.mgtDieResetDie : Fld := ⟨0x100028, 0, 4, 0⟩
/-- MGT_I2C.STRETCH_EN (R433). -/
def R.mgtI2cStretchEn : Fld := ⟨0x100030, 0, 1, 1⟩
/-- MGT_I2C.STOP_EN (R433). -/
def R.mgtI2cStopEn : Fld := ⟨0x100030, 1, 1, 1⟩
/-- MGT_I2C.ADDR (R433). -/
def R.mgtI2cAddr : Fld := ⟨0x100030, 8, 7, 0x58⟩
/-- MGT_PWRSEQ.SEQ_FAIL (R433). -/
def R.mgtPwrseqSeqFail : Fld := ⟨0x100034, 0, 1, 0⟩
/-- MGT_PWRSEQ.FAIL_PEN (R433). -/
def R.mgtPwrseqFailPen : Fld := ⟨0x100034, 8, 3, 0⟩
/-- MGT_DDR.INLINE_ECC (R433). -/
def R.mgtDdrInlineEcc : Fld := ⟨0x100038, 0, 1, 0⟩
/-- MGT_DDR.ECC_ON (R433). -/
def R.mgtDdrEccOn : Fld := ⟨0x100038, 1, 1, 0⟩
/-- MGT_DDR.USABLE_MIB (R433). -/
def R.mgtDdrUsableMib : Fld := ⟨0x100038, 12, 20, 0⟩
/-- MGT_PAD_STATUS.RUN_WRITE (R510). -/
def R.mgtPadStatusRunWrite : Fld := ⟨0x100144, 0, 1, 0⟩
/-- PWR_CTL.MARGIN_MODE (R409). -/
def R.pwrCtlMarginMode : Fld := ⟨0x200000, 0, 1, 0⟩
/-- PWR_CTL.SHEET_SLOPE (R409). -/
def R.pwrCtlSheetSlope : Fld := ⟨0x200000, 8, 6, 4⟩
/-- PWR_OP.CURRENT (R409). -/
def R.pwrOpCurrent : Fld := ⟨0x200004, 0, 3, 5⟩
/-- PWR_OP.TARGET (R409). -/
def R.pwrOpTarget : Fld := ⟨0x200004, 8, 3, 5⟩
/-- PWR_OP.CAP_BOUND (R409). -/
def R.pwrOpCapBound : Fld := ⟨0x200004, 16, 3, 7⟩
/-- PWR_OP.THERM_BOUND (R409). -/
def R.pwrOpThermBound : Fld := ⟨0x200004, 24, 3, 7⟩
/-- PWR_PHASE.PHASE (R409). -/
def R.pwrPhasePhase : Fld := ⟨0x200008, 0, 3, 0⟩
/-- PWR_STATUS.VR_ERR (R409). -/
def R.pwrStatusVrErr : Fld := ⟨0x20000c, 0, 1, 0⟩
/-- PWR_STATUS.RUN_WRITE (R409). -/
def R.pwrStatusRunWrite : Fld := ⟨0x20000c, 1, 1, 0⟩
/-- PWR_CAP.CAP_W (R409). -/
def R.pwrCapCapW : Fld := ⟨0x200010, 0, 8, 0⟩
/-- PWR_CAP.HYST_W (R409). -/
def R.pwrCapHystW : Fld := ⟨0x200010, 8, 4, 4⟩
/-- PWR_CAP_STATUS.FLOOR_STEP (R409). -/
def R.pwrCapStatusFloorStep : Fld := ⟨0x200014, 0, 3, 0⟩
/-- PWR_CAP_STATUS.CAP_UNREACHABLE (R409). -/
def R.pwrCapStatusCapUnreachable : Fld := ⟨0x200014, 8, 1, 0⟩
/-- PWR_CAP_FLOOR.FLOOR (R409). -/
def R.pwrCapFloorFloor : Fld := ⟨0x200018, 0, 16, 0⟩
/-- PWR_EST_TOTAL.M1 (R409). -/
def R.pwrEstTotalM1 : Fld := ⟨0x200020, 0, 16, 0⟩
/-- PWR_EST_TOTAL.M10 (R409). -/
def R.pwrEstTotalM10 : Fld := ⟨0x200020, 16, 16, 0⟩
/-- PWR_EST_DIEd.M1 (R409). -/
def R.pwrEstDieM1 (i : Nat) : Fld := ⟨0x200024 + 4 * i, 0, 16, 0⟩
/-- PWR_DUTY.CD0 (R409). -/
def R.pwrDutyCd0 : Fld := ⟨0x200040, 0, 5, 0x10⟩
/-- PWR_DUTY.CD1 (R409). -/
def R.pwrDutyCd1 : Fld := ⟨0x200040, 8, 5, 0x10⟩
/-- PWR_GAUZE_POL.MARGIN_UP (R409). -/
def R.pwrGauzePolMarginUp : Fld := ⟨0x200060, 0, 5, 4⟩
/-- PWR_GAUZE_POL.TEMP_SPAN_C (R409). -/
def R.pwrGauzePolTempSpanC : Fld := ⟨0x200060, 8, 4, 0xf⟩
/-- PWR_SHROUD0.LIMIT_A (R409). -/
def R.pwrShroud0LimitA : Fld := ⟨0x200080, 0, 8, 0x82⟩
/-- PWR_SHROUD1.LIMIT_A (R409). -/
def R.pwrShroud1LimitA : Fld := ⟨0x200088, 0, 8, 0x82⟩
/-- PWR_SHROUD2.LIMIT_A (R409). -/
def R.pwrShroud2LimitA : Fld := ⟨0x200090, 0, 8, 0x28⟩
/-- PWR_SHROUD3.LIMIT_A (R409). -/
def R.pwrShroud3LimitA : Fld := ⟨0x200098, 0, 8, 0x28⟩
/-- PWR_SHROUD4.LIMIT_A (R409). -/
def R.pwrShroud4LimitA : Fld := ⟨0x2000a0, 0, 8, 0x1e⟩
/-- PWR_SHROUDr_STAT.MEAN (R409). -/
def R.pwrShroudStatMean (i : Nat) : Fld := ⟨0x200084 + 8 * i, 0, 16, 0⟩
/-- PWR_SHROUDr_STAT.TRIP (R409). -/
def R.pwrShroudStatTrip (i : Nat) : Fld := ⟨0x200084 + 8 * i, 16, 1, 0⟩
/-- PWR_SHROUDr_STAT.SAT (R409). -/
def R.pwrShroudStatSat (i : Nat) : Fld := ⟨0x200084 + 8 * i, 17, 1, 0⟩
/-- PWR_SHROUDr_STAT.EST_MISMATCH (R409). -/
def R.pwrShroudStatEstMismatch (i : Nat) : Fld := ⟨0x200084 + 8 * i, 18, 1, 0⟩
/-- PWR_SHROUD_CFG.TOL_PCT (R409). -/
def R.pwrShroudCfgTolPct : Fld := ⟨0x2000c0, 0, 8, 0xf⟩
/-- PWR_ISNS_SCALEr.SCALE (R409). -/
def R.pwrIsnsScaleScale (i : Nat) : Fld := ⟨0x2000d0 + 4 * i, 0, 16, 0x28⟩
/-- PWR_RAILv.MV (R409). -/
def R.pwrRailMv (i : Nat) : Fld := ⟨0x200100 + 4 * i, 0, 12, 0⟩
/-- PWR_RAILv.I_10MA (R409). -/
def R.pwrRailI10ma (i : Nat) : Fld := ⟨0x200100 + 4 * i, 16, 16, 0⟩
/-- PWR_THERM_CFG.THROT_C (R409). -/
def R.pwrThermCfgThrotC : Fld := ⟨0x200180, 0, 7, 0x69⟩
/-- PWR_THERM_CFG.HYST_C (R409). -/
def R.pwrThermCfgHystC : Fld := ⟨0x200180, 8, 4, 3⟩
/-- PWR_THERM_STATUS.THROTTLING (R409). -/
def R.pwrThermStatusThrottling : Fld := ⟨0x200184, 0, 1, 0⟩
/-- PWR_THERM_STATUS.TRIP (R409). -/
def R.pwrThermStatusTrip : Fld := ⟨0x200184, 1, 1, 0⟩
/-- PWR_THERM_STATUS.THERM_DUTY (R409). -/
def R.pwrThermStatusThermDuty : Fld := ⟨0x200184, 8, 5, 0x10⟩
/-- PWR_TJ0.TJ (R409). -/
def R.pwrTj0Tj : Fld := ⟨0x200188, 0, 32, 0⟩
/-- PWR_TJ1.IOD (R409). -/
def R.pwrTj1Iod : Fld := ⟨0x20018c, 0, 8, 0⟩
/-- PWR_TSENSs.TEMP (R409). -/
def R.pwrTsensTemp (i : Nat) : Fld := ⟨0x200200 + 4 * i, 0, 8, 0⟩
/-- CNT_OP_STEP.COUNT (R409). -/
def R.cntOpStep : Fld := ⟨0x200300, 0, 32, 0⟩
/-- CNT_SHROUD_TRIP0.COUNT (R409). -/
def R.cntShroudTrip0 : Fld := ⟨0x200304, 0, 32, 0⟩
/-- CNT_SHROUD_TRIP1.COUNT (R409). -/
def R.cntShroudTrip1 : Fld := ⟨0x200308, 0, 32, 0⟩
/-- CNT_SHROUD_TRIP2.COUNT (R409). -/
def R.cntShroudTrip2 : Fld := ⟨0x20030c, 0, 32, 0⟩
/-- CNT_SHROUD_TRIP3.COUNT (R409). -/
def R.cntShroudTrip3 : Fld := ⟨0x200310, 0, 32, 0⟩
/-- CNT_SHROUD_TRIP4.COUNT (R409). -/
def R.cntShroudTrip4 : Fld := ⟨0x200314, 0, 32, 0⟩
/-- CNT_THROT.COUNT (R409). -/
def R.cntThrot : Fld := ⟨0x200318, 0, 32, 0⟩
/-- CNT_CAP_ACTION.COUNT (R409). -/
def R.cntCapAction : Fld := ⟨0x20031c, 0, 32, 0⟩
/-- CNT_VR_ERR.COUNT (R409). -/
def R.cntVrErr : Fld := ⟨0x200320, 0, 32, 0⟩
/-- TIM_INCR.INCR (R384). -/
def R.timIncrIncr : Fld := ⟨0x300010, 0, 64, 0x400000000⟩
/-- TIM_ADJ.AMOUNT (R384). -/
def R.timAdjAmount : Fld := ⟨0x300018, 0, 64, 0⟩
/-- TIM_ADJ_CTL.MODE (R384). -/
def R.timAdjCtlMode : Fld := ⟨0x300020, 0, 1, 0⟩
/-- TIM_ADJ_CTL.INTERVAL_US (R384). -/
def R.timAdjCtlIntervalUs : Fld := ⟨0x300020, 8, 22, 0x3e8⟩
/-- TIM_SEL.DOM (R384). -/
def R.timSelDom : Fld := ⟨0x300024, 0, 2, 0⟩
/-- TIM_SEL.FORCE (R384). -/
def R.timSelForce : Fld := ⟨0x300024, 4, 1, 0⟩
/-- TIM_SWITCH_SLEW.SLEW_US (R384). -/
def R.timSwitchSlewSlewUs : Fld := ⟨0x300028, 0, 17, 0x3e8⟩
/-- TIM_STATUS.SWITCH_PENDING (R384). -/
def R.timStatusSwitchPending : Fld := ⟨0x30002c, 1, 1, 0⟩
/-- TIM_STATUS.SWITCH_DONE (R384). -/
def R.timStatusSwitchDone : Fld := ⟨0x30002c, 2, 1, 0⟩
/-- TIM_STATUS.SWITCH_REFUSED (R384). -/
def R.timStatusSwitchRefused : Fld := ⟨0x30002c, 3, 1, 0⟩
/-- TIM_STATUS.ADJ_REFUSED (R384). -/
def R.timStatusAdjRefused : Fld := ⟨0x30002c, 4, 1, 0⟩
/-- TIM_STATUS.FOLLOW_WRITE (R384). -/
def R.timStatusFollowWrite : Fld := ⟨0x30002c, 5, 1, 0⟩
/-- TIM_STATUS.STEPPED (R384). -/
def R.timStatusStepped : Fld := ⟨0x30002c, 6, 1, 0⟩
/-- TIM_STATUS.COARSE (R384). -/
def R.timStatusCoarse : Fld := ⟨0x30002c, 7, 1, 0⟩
/-- TIM_STATUS.FOLLOWING (R384). -/
def R.timStatusFollowing : Fld := ⟨0x30002c, 8, 2, 0⟩
/-- TIM_SWITCH_TICK.TICK (R384). -/
def R.timSwitchTickTick : Fld := ⟨0x300038, 0, 64, 0⟩
/-- TIM_SWITCH_DELTA.DELTA (R384). -/
def R.timSwitchDeltaDelta : Fld := ⟨0x300040, 0, 64, 0⟩
/-- TIM_IRQ.VEC (R384). -/
def R.timIrqVec : Fld := ⟨0x300048, 0, 5, 0⟩
/-- TIM_DOMx_INCR.INCR (R384). -/
def R.timDomIncrIncr (i : Nat) : Fld := ⟨0x30008c + 0x20 * i, 0, 64, 0x400000000⟩
/-- TIM_DOMx_ADJ.AMOUNT (R384). -/
def R.timDomAdjAmount (i : Nat) : Fld := ⟨0x300094 + 0x20 * i, 0, 64, 0⟩
/-- TIM_DOMx_ADJ_CTL.MODE (R384). -/
def R.timDomAdjCtlMode (i : Nat) : Fld := ⟨0x30009c + 0x20 * i, 0, 1, 0⟩
/-- TIM_DOMx_ADJ_CTL.INTERVAL_US (R384). -/
def R.timDomAdjCtlIntervalUs (i : Nat) : Fld := ⟨0x30009c + 0x20 * i, 8, 22, 0x3e8⟩
/-- TIM_MACm_CFG.EN (R384). -/
def R.timMacCfgEn (i : Nat) : Fld := ⟨0x300100 + 0x40 * i, 0, 1, 0⟩
/-- TIM_MACm_CFG.DOMNUM_A (R384). -/
def R.timMacCfgDomnumA (i : Nat) : Fld := ⟨0x300100 + 0x40 * i, 8, 8, 0⟩
/-- TIM_MACm_CFG.DOMNUM_B (R384). -/
def R.timMacCfgDomnumB (i : Nat) : Fld := ⟨0x300100 + 0x40 * i, 16, 8, 1⟩
/-- TIM_MACm_LAT.RX_NS (R384). -/
def R.timMacLatRxNs (i : Nat) : Fld := ⟨0x300104 + 0x40 * i, 0, 16, 0⟩
/-- TIM_MACm_LAT.TX_NS (R384). -/
def R.timMacLatTxNs (i : Nat) : Fld := ⟨0x300104 + 0x40 * i, 16, 16, 0⟩
/-- TIM_MACm_RX_DEST.EN (R384). -/
def R.timMacRxDestEn (i : Nat) : Fld := ⟨0x300108 + 0x40 * i, 0, 1, 0⟩
/-- TIM_MACm_RX_DEST.RING (R384). -/
def R.timMacRxDestRing (i : Nat) : Fld := ⟨0x300108 + 0x40 * i, 4, 3, 0⟩
/-- TIM_MACm_RX_DEST.FUNC (R384). -/
def R.timMacRxDestFunc (i : Nat) : Fld := ⟨0x300108 + 0x40 * i, 8, 3, 0⟩
/-- TIM_MACm_TXR_CFG.SIZE_LOG2 (R384). -/
def R.timMacTxrCfgSizeLog2 (i : Nat) : Fld := ⟨0x300114 + 0x40 * i, 0, 4, 4⟩
/-- TIM_MACm_TXR_CFG.EN (R384). -/
def R.timMacTxrCfgEn (i : Nat) : Fld := ⟨0x300114 + 0x40 * i, 31, 1, 0⟩
/-- TIM_MACm_TX_DB.TAIL (R384). -/
def R.timMacTxDbTail (i : Nat) : Fld := ⟨0x300118 + 0x40 * i, 0, 12, 0⟩
/-- TIM_MACm_TX_HEAD.HEAD (R384). -/
def R.timMacTxHeadHead (i : Nat) : Fld := ⟨0x30011c + 0x40 * i, 0, 12, 0⟩
/-- TIM_MACm_EXP.EN (R384). -/
def R.timMacExpEn (i : Nat) : Fld := ⟨0x300120 + 0x40 * i, 0, 1, 0⟩
/-- TIM_MACm_EXP.HDR_LEN (R384). -/
def R.timMacExpHdrLen (i : Nat) : Fld := ⟨0x300120 + 0x40 * i, 1, 6, 0x2a⟩
/-- TIM_MACm_EXP.MTU (R384). -/
def R.timMacExpMtu (i : Nat) : Fld := ⟨0x300120 + 0x40 * i, 16, 14, 0x5dc⟩
/-- TIM_MACm_TMPLi.BYTES (R384). -/
def R.timMacTmplBytes (i j : Nat) : Fld := ⟨0x300200 + 0x40 * i + 4 * j, 0, 32, 0⟩
/-- TIM_TPOp_START.START (R384). -/
def R.timTpoStartStart (i : Nat) : Fld := ⟨0x300300 + 0x20 * i, 0, 64, 0⟩
/-- TIM_TPOp_PERIOD.PERIOD (R384). -/
def R.timTpoPeriodPeriod (i : Nat) : Fld := ⟨0x300308 + 0x20 * i, 0, 64, 0⟩
/-- TIM_TPOp_WIDTH.WIDTH (R384). -/
def R.timTpoWidthWidth (i : Nat) : Fld := ⟨0x300310 + 0x20 * i, 0, 32, 0x3e8⟩
/-- TIM_TPOp_CFG.EN (R384). -/
def R.timTpoCfgEn (i : Nat) : Fld := ⟨0x300314 + 0x20 * i, 0, 1, 0⟩
/-- TIM_TPOp_CFG.ACTIVE_HIGH (R384). -/
def R.timTpoCfgActiveHigh (i : Nat) : Fld := ⟨0x300314 + 0x20 * i, 1, 1, 1⟩
/-- TIM_TPOp_CFG.IRQ_EN (R384). -/
def R.timTpoCfgIrqEn (i : Nat) : Fld := ⟨0x300314 + 0x20 * i, 2, 1, 0⟩
/-- TIM_TPOp_STAT.MISSED (R384). -/
def R.timTpoStatMissed (i : Nat) : Fld := ⟨0x300318 + 0x20 * i, 0, 1, 0⟩
/-- TIM_TCIc_CFG.EN (R384). -/
def R.timTciCfgEn (i : Nat) : Fld := ⟨0x300380 + 0x10 * i, 0, 1, 0⟩
/-- TIM_TCIc_CFG.FALLING (R384). -/
def R.timTciCfgFalling (i : Nat) : Fld := ⟨0x300380 + 0x10 * i, 1, 1, 0⟩
/-- TIM_TCIc_CFG.IRQ_EN (R384). -/
def R.timTciCfgIrqEn (i : Nat) : Fld := ⟨0x300380 + 0x10 * i, 2, 1, 0⟩
/-- TIM_TCIc_CAP.STAMP (R384). -/
def R.timTciCapStamp (i : Nat) : Fld := ⟨0x300384 + 0x10 * i, 0, 64, 0⟩
/-- TIM_TCIc_STAT.COUNT (R384). -/
def R.timTciStatCount (i : Nat) : Fld := ⟨0x30038c + 0x10 * i, 0, 5, 0⟩
/-- TIM_TCIc_STAT.OVF (R384). -/
def R.timTciStatOvf (i : Nat) : Fld := ⟨0x30038c + 0x10 * i, 8, 1, 0⟩
/-- TIM_TCIc_STAT.COARSE (R384). -/
def R.timTciStatCoarse (i : Nat) : Fld := ⟨0x30038c + 0x10 * i, 9, 1, 0⟩
/-- TIM_RBp_CFG.LAT_NS (R384). -/
def R.timRbCfgLatNs (i : Nat) : Fld := ⟨0x300400 + 0x10 * i, 0, 16, 0⟩
/-- TIM_RBp_CFG.LOCK_NS (R384). -/
def R.timRbCfgLockNs (i : Nat) : Fld := ⟨0x300400 + 0x10 * i, 16, 16, 0x7d0⟩
/-- TIM_RBp_QUAL.SPREAD_NS (R384). -/
def R.timRbQualSpreadNs (i : Nat) : Fld := ⟨0x300404 + 0x10 * i, 0, 16, 0⟩
/-- TIM_RBp_QUAL.PPM (R384). -/
def R.timRbQualPpm (i : Nat) : Fld := ⟨0x300404 + 0x10 * i, 16, 14, 0⟩
/-- TIM_RBp_QUAL.LOCKED (R384). -/
def R.timRbQualLocked (i : Nat) : Fld := ⟨0x300404 + 0x10 * i, 31, 1, 0⟩
/-- CNT_SWITCH.COUNT (R384). -/
def R.cntSwitch : Fld := ⟨0x300500, 0, 32, 0⟩
/-- TIM_CNT_STEP.COUNT (R384). -/
def R.timCntStep : Fld := ⟨0x300504, 0, 32, 0⟩
/-- CNT_PTP_RX.COUNT (R384). -/
def R.cntPtpRx : Fld := ⟨0x300508, 0, 32, 0⟩
/-- CNT_PTP_TX.COUNT (R384). -/
def R.cntPtpTx : Fld := ⟨0x30050c, 0, 32, 0⟩
/-- CNT_PTP_TXBAD.COUNT (R384). -/
def R.cntPtpTxbad : Fld := ⟨0x300510, 0, 32, 0⟩
/-- CNT_ETH_OTHER.COUNT (R384). -/
def R.cntEthOther : Fld := ⟨0x300514, 0, 32, 0⟩
/-- CNT_EXP_TX.COUNT (R384). -/
def R.cntExpTx : Fld := ⟨0x300518, 0, 32, 0⟩
/-- CNT_EXP_DROP.COUNT (R384). -/
def R.cntExpDrop : Fld := ⟨0x30051c, 0, 32, 0⟩
/-- CNT_EXP_TRUNC.COUNT (R384). -/
def R.cntExpTrunc : Fld := ⟨0x300520, 0, 32, 0⟩
/-- CNT_TCI_OVF.COUNT (R384). -/
def R.cntTciOvf : Fld := ⟨0x300524, 0, 32, 0⟩
/-- CNT_RB_UNLOCK.COUNT (R384). -/
def R.cntRbUnlock : Fld := ⟨0x300528, 0, 32, 0⟩
/-- ING_CTL.PORT_EN (R73). -/
def R.ingCtlPortEn : Fld := ⟨0x400000, 0, 8, 0⟩
/-- ING_STATUS.RUN_WRITE (R73). -/
def R.ingStatusRunWrite : Fld := ⟨0x400004, 0, 1, 0⟩
/-- ING_COAX_COEF0.COEF (R73). -/
def R.ingCoaxCoef0Coef : Fld := ⟨0x400010, 0, 16, 0x6e⟩
/-- ING_COAX_COEF0.CONN (R73). -/
def R.ingCoaxCoef0Conn : Fld := ⟨0x400010, 16, 8, 0xa⟩
/-- ING_COAX_COEF1.COEF (R73). -/
def R.ingCoaxCoef1Coef : Fld := ⟨0x400014, 0, 16, 0x50⟩
/-- ING_COAX_COEF1.CONN (R73). -/
def R.ingCoaxCoef1Conn : Fld := ⟨0x400014, 16, 8, 0xa⟩
/-- ING_COAX_COEF2.COEF (R73). -/
def R.ingCoaxCoef2Coef : Fld := ⟨0x400018, 0, 16, 0x37⟩
/-- ING_COAX_COEF2.CONN (R73). -/
def R.ingCoaxCoef2Conn : Fld := ⟨0x400018, 16, 8, 0xa⟩
/-- ING_COAX_COEF3.COEF (R73). -/
def R.ingCoaxCoef3Coef : Fld := ⟨0x40001c, 0, 16, 0x64⟩
/-- ING_COAX_COEF3.CONN (R73). -/
def R.ingCoaxCoef3Conn : Fld := ⟨0x40001c, 16, 8, 0xa⟩
/-- ING_PORTn_CFG.GEAR_MAX (R73). -/
def R.ingPortCfgGearMax (i : Nat) : Fld := ⟨0x401000 + 0x100 * i, 0, 3, 5⟩
/-- ING_PORTn_CFG.VC (R73). -/
def R.ingPortCfgVc (i : Nat) : Fld := ⟨0x401000 + 0x100 * i, 3, 4, 0⟩
/-- ING_PORTn_CFG.SHED (R73). -/
def R.ingPortCfgShed (i : Nat) : Fld := ⟨0x401000 + 0x100 * i, 7, 1, 0⟩
/-- ING_PORTn_CFG.COAX_CLASS (R73). -/
def R.ingPortCfgCoaxClass (i : Nat) : Fld := ⟨0x401000 + 0x100 * i, 8, 2, 0⟩
/-- ING_PORTn_DT.DT_AE64 (R73). -/
def R.ingPortDtDtAe64 (i : Nat) : Fld := ⟨0x401004 + 0x100 * i, 0, 6, 0x30⟩
/-- ING_PORTn_DT.EN_AE64 (R73). -/
def R.ingPortDtEnAe64 (i : Nat) : Fld := ⟨0x401004 + 0x100 * i, 6, 1, 0⟩
/-- ING_PORTn_DT.DT_VG32 (R73). -/
def R.ingPortDtDtVg32 (i : Nat) : Fld := ⟨0x401004 + 0x100 * i, 8, 6, 0x31⟩
/-- ING_PORTn_DT.EN_VG32 (R73). -/
def R.ingPortDtEnVg32 (i : Nat) : Fld := ⟨0x401004 + 0x100 * i, 14, 1, 0⟩
/-- ING_PORTn_DT.DT_CT32 (R73). -/
def R.ingPortDtDtCt32 (i : Nat) : Fld := ⟨0x401004 + 0x100 * i, 16, 6, 0x32⟩
/-- ING_PORTn_DT.EN_CT32 (R73). -/
def R.ingPortDtEnCt32 (i : Nat) : Fld := ⟨0x401004 + 0x100 * i, 22, 1, 0⟩
/-- ING_PORTn_GEOM.WIDTH_M1 (R73). -/
def R.ingPortGeomWidthM1 (i : Nat) : Fld := ⟨0x401008 + 0x100 * i, 0, 11, 0x4ff⟩
/-- ING_PORTn_GEOM.HEIGHT_M1 (R73). -/
def R.ingPortGeomHeightM1 (i : Nat) : Fld := ⟨0x401008 + 0x100 * i, 16, 11, 0x3ff⟩
/-- ING_PORTn_WM.HWM (R73). -/
def R.ingPortWmHwm (i : Nat) : Fld := ⟨0x40100c + 0x100 * i, 0, 6, 0x20⟩
/-- ING_PORTn_WM.LWM (R73). -/
def R.ingPortWmLwm (i : Nat) : Fld := ⟨0x40100c + 0x100 * i, 8, 6, 0x10⟩
/-- ING_PORTn_LIMIT.AGE_MS (R73). -/
def R.ingPortLimitAgeMs (i : Nat) : Fld := ⟨0x401010 + 0x100 * i, 0, 12, 0x3e8⟩
/-- ING_PORTn_LIMIT.LEAD_US (R73). -/
def R.ingPortLimitLeadUs (i : Nat) : Fld := ⟨0x401010 + 0x100 * i, 16, 12, 0x32⟩
/-- ING_PORTn_LINK.UP (R73). -/
def R.ingPortLinkUp (i : Nat) : Fld := ⟨0x401014 + 0x100 * i, 0, 1, 0⟩
/-- ING_PORTn_LINK.GEAR (R73). -/
def R.ingPortLinkGear (i : Nat) : Fld := ⟨0x401014 + 0x100 * i, 1, 3, 0⟩
/-- ING_PORTn_LINK.LOSS (R73). -/
def R.ingPortLinkLoss (i : Nat) : Fld := ⟨0x401014 + 0x100 * i, 4, 10, 0⟩
/-- ING_PORTn_LINK.LEN_CM (R73). -/
def R.ingPortLinkLenCm (i : Nat) : Fld := ⟨0x401014 + 0x100 * i, 14, 14, 0⟩
/-- ING_PORTn_LINK.CAP_VALID (R73). -/
def R.ingPortLinkCapValid (i : Nat) : Fld := ⟨0x401014 + 0x100 * i, 28, 1, 0⟩
/-- ING_PORTn_BUF.OCC (R73). -/
def R.ingPortBufOcc (i : Nat) : Fld := ⟨0x401018 + 0x100 * i, 0, 16, 0⟩
/-- ING_PORTn_BUF.SHEDDING (R73). -/
def R.ingPortBufShedding (i : Nat) : Fld := ⟨0x401018 + 0x100 * i, 16, 1, 0⟩
/-- ING_PORTn_BUF.HELD (R73). -/
def R.ingPortBufHeld (i : Nat) : Fld := ⟨0x401018 + 0x100 * i, 17, 1, 0⟩
/-- ING_PORTn_ISNS.CUR_MA (R73). -/
def R.ingPortIsnsCurMa (i : Nat) : Fld := ⟨0x40101c + 0x100 * i, 0, 16, 0⟩
/-- ING_PORTn_ISNS.OVER (R73). -/
def R.ingPortIsnsOver (i : Nat) : Fld := ⟨0x40101c + 0x100 * i, 16, 1, 0⟩
/-- ING_PORTn_ISNS.UNDER (R73). -/
def R.ingPortIsnsUnder (i : Nat) : Fld := ⟨0x40101c + 0x100 * i, 17, 1, 0⟩
/-- ING_PORTn_ISNS_CFG.SCALE_UA (R73). -/
def R.ingPortIsnsCfgScaleUa (i : Nat) : Fld := ⟨0x401020 + 0x100 * i, 0, 12, 0x3e8⟩
/-- ING_PORTn_ISNS_CFG.OVER_10MA (R73). -/
def R.ingPortIsnsCfgOver10ma (i : Nat) : Fld := ⟨0x401020 + 0x100 * i, 12, 10, 0⟩
/-- ING_PORTn_ISNS_CFG.UNDER_10MA (R73). -/
def R.ingPortIsnsCfgUnder10ma (i : Nat) : Fld := ⟨0x401020 + 0x100 * i, 22, 10, 0⟩
/-- ING_PORTn_CCI_CTL.DEV (R73). -/
def R.ingPortCciCtlDev (i : Nat) : Fld := ⟨0x401024 + 0x100 * i, 0, 7, 0⟩
/-- ING_PORTn_CCI_CTL.READ (R73). -/
def R.ingPortCciCtlRead (i : Nat) : Fld := ⟨0x401024 + 0x100 * i, 7, 1, 0⟩
/-- ING_PORTn_CCI_CTL.REG (R73). -/
def R.ingPortCciCtlReg (i : Nat) : Fld := ⟨0x401024 + 0x100 * i, 8, 16, 0⟩
/-- ING_PORTn_CCI_CTL.LEN_M1 (R73). -/
def R.ingPortCciCtlLenM1 (i : Nat) : Fld := ⟨0x401024 + 0x100 * i, 24, 2, 0⟩
/-- ING_PORTn_CCI_CTL.REG16 (R73). -/
def R.ingPortCciCtlReg16 (i : Nat) : Fld := ⟨0x401024 + 0x100 * i, 26, 1, 0⟩
/-- ING_PORTn_CCI_CTL.NACK (R73). -/
def R.ingPortCciCtlNack (i : Nat) : Fld := ⟨0x401024 + 0x100 * i, 29, 1, 0⟩
/-- ING_PORTn_CCI_CTL.BUSY (R73). -/
def R.ingPortCciCtlBusy (i : Nat) : Fld := ⟨0x401024 + 0x100 * i, 31, 1, 0⟩
/-- ING_PORTn_CCI_DATA.DATA (R73). -/
def R.ingPortCciDataData (i : Nat) : Fld := ⟨0x401028 + 0x100 * i, 0, 32, 0⟩
/-- ING_PORTn_CAP_CFG.EN (R73). -/
def R.ingPortCapCfgEn (i : Nat) : Fld := ⟨0x40102c + 0x100 * i, 24, 1, 0⟩
/-- ING_PORTn_CAPi.CAP (R73). -/
def R.ingPortCapCap (i j : Nat) : Fld := ⟨0x401030 + 0x100 * i + 4 * j, 0, 32, 0⟩
/-- ING_PORTn_RB_ANCHOR.ANCHOR (R73). -/
def R.ingPortRbAnchorAnchor (i : Nat) : Fld := ⟨0x401040 + 0x100 * i, 0, 32, 0⟩
/-- ING_PORTn_RB_OFS.OFS (R73). -/
def R.ingPortRbOfsOfs (i : Nat) : Fld := ⟨0x401048 + 0x100 * i, 0, 64, 0⟩
/-- ING_PORTn_RB_RATE.RATE (R73). -/
def R.ingPortRbRateRate (i : Nat) : Fld := ⟨0x401050 + 0x100 * i, 0, 64, 0x3e800000000⟩
/-- ING_PORTn_RB_CTL.VALID (R73). -/
def R.ingPortRbCtlValid (i : Nat) : Fld := ⟨0x401058 + 0x100 * i, 1, 1, 0⟩
/-- ING_PORTn_FI.MODE (R73). -/
def R.ingPortFiMode (i : Nat) : Fld := ⟨0x401060 + 0x100 * i, 0, 2, 0⟩
/-- ING_PORTn_FI.REPEAT (R73). -/
def R.ingPortFiRepeat (i : Nat) : Fld := ⟨0x401060 + 0x100 * i, 2, 1, 0⟩
/-- ING_PORTn_FI.INTERVAL (R73). -/
def R.ingPortFiInterval (i : Nat) : Fld := ⟨0x401060 + 0x100 * i, 8, 8, 1⟩
/-- ING_CNT_IN.COUNT (R73). -/
def R.ingCntIn (i : Nat) : Fld := ⟨0x401080 + 0x100 * i, 0, 32, 0⟩
/-- ING_CNT_COMMIT.COUNT (R73). -/
def R.ingCntCommit (i : Nat) : Fld := ⟨0x401084 + 0x100 * i, 0, 32, 0⟩
/-- ING_CNT_SHED.COUNT (R73). -/
def R.ingCntShed (i : Nat) : Fld := ⟨0x401088 + 0x100 * i, 0, 32, 0⟩
/-- ING_CNT_OVF.COUNT (R73). -/
def R.ingCntOvf (i : Nat) : Fld := ⟨0x40108c + 0x100 * i, 0, 32, 0⟩
/-- ING_CNT_HOLD_DROP.COUNT (R73). -/
def R.ingCntHoldDrop (i : Nat) : Fld := ⟨0x401090 + 0x100 * i, 0, 32, 0⟩
/-- ING_CNT_CRC.COUNT (R73). -/
def R.ingCntCrc (i : Nat) : Fld := ⟨0x401094 + 0x100 * i, 0, 32, 0⟩
/-- ING_CNT_LAYOUT.COUNT (R73). -/
def R.ingCntLayout (i : Nat) : Fld := ⟨0x401098 + 0x100 * i, 0, 32, 0⟩
/-- ING_CNT_NOBASE.COUNT (R73). -/
def R.ingCntNobase (i : Nat) : Fld := ⟨0x40109c + 0x100 * i, 0, 32, 0⟩
/-- ING_CNT_RANGE.COUNT (R73). -/
def R.ingCntRange (i : Nat) : Fld := ⟨0x4010a0 + 0x100 * i, 0, 32, 0⟩
/-- ING_CNT_STALE.COUNT (R73). -/
def R.ingCntStale (i : Nat) : Fld := ⟨0x4010a4 + 0x100 * i, 0, 32, 0⟩
/-- ING_CNT_FUTURE.COUNT (R73). -/
def R.ingCntFuture (i : Nat) : Fld := ⟨0x4010a8 + 0x100 * i, 0, 32, 0⟩
/-- ING_CNT_LATE.COUNT (R73). -/
def R.ingCntLate (i : Nat) : Fld := ⟨0x4010ac + 0x100 * i, 0, 32, 0⟩
/-- ING_CNT_CLAMP.COUNT (R73). -/
def R.ingCntClamp (i : Nat) : Fld := ⟨0x4010b0 + 0x100 * i, 0, 32, 0⟩
/-- ING_CNT_UNMAPPED.COUNT (R73). -/
def R.ingCntUnmapped (i : Nat) : Fld := ⟨0x4010b4 + 0x100 * i, 0, 32, 0⟩
/-- ING_CNT_DIE_DROP.COUNT (R73). -/
def R.ingCntDieDrop (i : Nat) : Fld := ⟨0x4010b8 + 0x100 * i, 0, 32, 0⟩
/-- ING_CNT_LINKDOWN.COUNT (R73). -/
def R.ingCntLinkdown (i : Nat) : Fld := ⟨0x4010bc + 0x100 * i, 0, 32, 0⟩
/-- SRF_CTL.FLOW_EN (R106). -/
def R.srfCtlFlowEn : Fld := ⟨0x500000, 0, 1, 0⟩
/-- SRF_CTL.MASK_INPUT (R106). -/
def R.srfCtlMaskInput : Fld := ⟨0x500000, 1, 1, 1⟩
/-- SRF_BIN_EDGE1.EDGE (R106). -/
def R.srfBinEdge1Edge : Fld := ⟨0x500010, 0, 14, 0x32⟩
/-- SRF_BIN_EDGE2.EDGE (R106). -/
def R.srfBinEdge2Edge : Fld := ⟨0x500014, 0, 14, 0x64⟩
/-- SRF_BIN_EDGE3.EDGE (R106). -/
def R.srfBinEdge3Edge : Fld := ⟨0x500018, 0, 14, 0xc8⟩
/-- SRF_BIN_EDGE4.EDGE (R106). -/
def R.srfBinEdge4Edge : Fld := ⟨0x50001c, 0, 14, 0x190⟩
/-- SRF_BIN_EDGE5.EDGE (R106). -/
def R.srfBinEdge5Edge : Fld := ⟨0x500020, 0, 14, 0x320⟩
/-- SRF_BIN_EDGE6.EDGE (R106). -/
def R.srfBinEdge6Edge : Fld := ⟨0x500024, 0, 14, 0x640⟩
/-- SRF_BIN_EDGE7.EDGE (R106). -/
def R.srfBinEdge7Edge : Fld := ⟨0x500028, 0, 14, 0x1900⟩
/-- SRF_HOT.HOT_ON (R106). -/
def R.srfHotHotOn : Fld := ⟨0x500030, 0, 8, 0x40⟩
/-- SRF_HOT.HOT_OFF (R106). -/
def R.srfHotHotOff : Fld := ⟨0x500030, 8, 8, 0x10⟩
/-- SRF_HOT.HALF_US (R106). -/
def R.srfHotHalfUs : Fld := ⟨0x500030, 16, 16, 0x1f4⟩
/-- SRF_FLOW.WIN_US (R106). -/
def R.srfFlowWinUs : Fld := ⟨0x500034, 0, 14, 0x1388⟩
/-- SRF_FLOW.MIN_PTS (R106). -/
def R.srfFlowMinPts : Fld := ⟨0x500034, 16, 5, 8⟩
/-- SRF_TAP.EVT_DECIM (R106). -/
def R.srfTapEvtDecim : Fld := ⟨0x500040, 0, 4, 0⟩
/-- SRF_TAP.CRN_DECIM (R106). -/
def R.srfTapCrnDecim : Fld := ⟨0x500040, 4, 4, 0⟩
/-- SRF_TAP.EVT_EN (R106). -/
def R.srfTapEvtEn : Fld := ⟨0x500040, 8, 1, 0⟩
/-- SRF_TAP.CRN_EN (R106). -/
def R.srfTapCrnEn : Fld := ⟨0x500040, 9, 1, 0⟩
/-- SRF_TAP.RING (R106). -/
def R.srfTapRing : Fld := ⟨0x500040, 16, 3, 0⟩
/-- SRF_TAP.FUNC (R106). -/
def R.srfTapFunc : Fld := ⟨0x500040, 20, 3, 0⟩
/-- SRF_STATUS.REGION_ERR (R106). -/
def R.srfStatusRegionErr : Fld := ⟨0x500044, 0, 1, 0⟩
/-- SRF_STATUS.EDGE_ERR (R106). -/
def R.srfStatusEdgeErr : Fld := ⟨0x500044, 1, 1, 0⟩
/-- SRF_STATUS.RUN_WRITE (R106). -/
def R.srfStatusRunWrite : Fld := ⟨0x500044, 2, 1, 0⟩
/-- SRF_REGIONp_B0.BASE (R106). -/
def R.srfRegionB0Base (i : Nat) : Fld := ⟨0x500100 + 0x10 * i, 0, 17, 0⟩
/-- SRF_REGIONp_B0.EN (R106). -/
def R.srfRegionB0En (i : Nat) : Fld := ⟨0x500100 + 0x10 * i, 31, 1, 0⟩
/-- SRF_REGIONp_B1.BASE (R106). -/
def R.srfRegionB1Base (i : Nat) : Fld := ⟨0x500104 + 0x10 * i, 0, 17, 0⟩
/-- SRF_CNT_UPDATE.COUNT (R106). -/
def R.srfCntUpdate (i : Nat) : Fld := ⟨0x500200 + 0x40 * i, 0, 32, 0⟩
/-- SRF_CNT_RAISE.COUNT (R106). -/
def R.srfCntRaise (i : Nat) : Fld := ⟨0x500204 + 0x40 * i, 0, 32, 0⟩
/-- SRF_CNT_CORNER.COUNT (R106). -/
def R.srfCntCorner (i : Nat) : Fld := ⟨0x500208 + 0x40 * i, 0, 32, 0⟩
/-- SRF_CNT_FLOW.COUNT (R106). -/
def R.srfCntFlow (i : Nat) : Fld := ⟨0x50020c + 0x40 * i, 0, 32, 0⟩
/-- SRF_CNT_HOTMASK.COUNT (R106). -/
def R.srfCntHotmask (i : Nat) : Fld := ⟨0x500210 + 0x40 * i, 0, 32, 0⟩
/-- SRF_CNT_STALE_MARK.COUNT (R106). -/
def R.srfCntStaleMark (i : Nat) : Fld := ⟨0x500214 + 0x40 * i, 0, 32, 0⟩
/-- SRF_CNT_AGE_MARK.COUNT (R106). -/
def R.srfCntAgeMark (i : Nat) : Fld := ⟨0x500218 + 0x40 * i, 0, 32, 0⟩
/-- SRF_CNT_TAP_DROP.COUNT (R106). -/
def R.srfCntTapDrop (i : Nat) : Fld := ⟨0x50021c + 0x40 * i, 0, 32, 0⟩
/-- TNS_DELTA_CTL.DET_LAG (R158). -/
def R.tnsDeltaCtlDetLag : Fld := ⟨0x600000, 0, 4, 2⟩
/-- TNS_SWEEP_CTL.CHECK_EN (R158). -/
def R.tnsSweepCtlCheckEn : Fld := ⟨0x600004, 0, 1, 0⟩
/-- TNS_SWEEP_CTL.REFRESH_EN (R158). -/
def R.tnsSweepCtlRefreshEn : Fld := ⟨0x600004, 1, 1, 1⟩
/-- TNS_SWEEP_CTL.CHECK_REPAIR (R158). -/
def R.tnsSweepCtlCheckRepair : Fld := ⟨0x600004, 2, 1, 0⟩
/-- TNS_SWEEP_CTL.SLICE_LOG2 (R158). -/
def R.tnsSweepCtlSliceLog2 : Fld := ⟨0x600004, 8, 5, 0xc⟩
/-- TNS_DELTA_STATUS.CUT (R158). -/
def R.tnsDeltaStatusCut : Fld := ⟨0x600008, 0, 1, 0⟩
/-- TNS_DELTA_STATUS.MISMATCH (R158). -/
def R.tnsDeltaStatusMismatch : Fld := ⟨0x600008, 1, 1, 0⟩
/-- TNS_DELTA_STATUS.RUN_WRITE (R158). -/
def R.tnsDeltaStatusRunWrite : Fld := ⟨0x600008, 2, 1, 0⟩
/-- TNS_DELTA_STATUS.CUT_STREAK (R158). -/
def R.tnsDeltaStatusCutStreak : Fld := ⟨0x600008, 8, 8, 0⟩
/-- TNS_MISMATCH_LAYER.LAYER (R158). -/
def R.tnsMismatchLayerLayer : Fld := ⟨0x60000c, 0, 9, 0⟩
/-- TNS_MISMATCH_LAYER.VALID (R158). -/
def R.tnsMismatchLayerValid : Fld := ⟨0x60000c, 31, 1, 0⟩
/-- TNS_MISMATCH_ELEM.ELEM (R158). -/
def R.tnsMismatchElemElem : Fld := ⟨0x600010, 0, 32, 0⟩
/-- TNS_LAST_CUT_TICK.TICK (R158). -/
def R.tnsLastCutTickTick : Fld := ⟨0x600014, 0, 64, 0⟩
/-- TNS_SLACK_LAST.NS (R158). -/
def R.tnsSlackLastNs : Fld := ⟨0x60001c, 0, 32, 0⟩
/-- CNT_TICK_DONE.COUNT (R158). -/
def R.cntTickDone : Fld := ⟨0x600040, 0, 32, 0⟩
/-- CNT_TICK_CUT.COUNT (R158). -/
def R.cntTickCut : Fld := ⟨0x600044, 0, 32, 0⟩
/-- CNT_DRAIN.COUNT (R158). -/
def R.cntDrain : Fld := ⟨0x600048, 0, 32, 0⟩
/-- CNT_CHECK_SLICE.COUNT (R158). -/
def R.cntCheckSlice : Fld := ⟨0x60004c, 0, 32, 0⟩
/-- CNT_REFRESH_SLICE.COUNT (R158). -/
def R.cntRefreshSlice : Fld := ⟨0x600050, 0, 32, 0⟩
/-- CNT_SLICE_ABANDON.COUNT (R158). -/
def R.cntSliceAbandon : Fld := ⟨0x600054, 0, 32, 0⟩
/-- CNT_MISMATCH.COUNT (R158). -/
def R.cntMismatch : Fld := ⟨0x600058, 0, 32, 0⟩
/-- TNS_GAUZE_CTL.DISABLE (R133). -/
def R.tnsGauzeCtlDisable : Fld := ⟨0x600100, 0, 1, 0⟩
/-- TNS_GAUZE_LEVEL.LEVEL_CD0 (R133). -/
def R.tnsGauzeLevelLevelCd0 : Fld := ⟨0x600104, 0, 5, 0⟩
/-- TNS_GAUZE_LEVEL.LEVEL_CD1 (R133). -/
def R.tnsGauzeLevelLevelCd1 : Fld := ⟨0x600104, 8, 5, 0⟩
/-- TNS_GAUZE_TAINT.ANY (R133). -/
def R.tnsGauzeTaintAny : Fld := ⟨0x600108, 0, 1, 0⟩
/-- TNS_ARITH_STATUS.NAN (R133). -/
def R.tnsArithStatusNan : Fld := ⟨0x60010c, 0, 1, 0⟩
/-- TNS_ARITH_STATUS.SAT (R133). -/
def R.tnsArithStatusSat : Fld := ⟨0x60010c, 1, 1, 0⟩
/-- TNS_ARITH_STATUS.INF_IN (R133). -/
def R.tnsArithStatusInfIn : Fld := ⟨0x60010c, 2, 1, 0⟩
/-- TNS_ARITH_NAN_LAYER.LAYER (R133). -/
def R.tnsArithNanLayerLayer : Fld := ⟨0x600110, 0, 9, 0⟩
/-- TNS_ARITH_NAN_LAYER.VALID (R133). -/
def R.tnsArithNanLayerValid : Fld := ⟨0x600110, 31, 1, 0⟩
/-- TNS_POST_STATUS.CAND_OVF (R188). -/
def R.tnsPostStatusCandOvf : Fld := ⟨0x600200, 0, 1, 0⟩
/-- TNS_POST_STATUS.SURV_TRUNC (R188). -/
def R.tnsPostStatusSurvTrunc : Fld := ⟨0x600200, 1, 1, 0⟩
/-- TNS_POST_STATUS.SHAPE_ERR (R188). -/
def R.tnsPostStatusShapeErr : Fld := ⟨0x600200, 2, 1, 0⟩
/-- CNT_ABSORBED.COUNT (R188). -/
def R.cntAbsorbed : Fld := ⟨0x600240, 0, 32, 0⟩
/-- CNT_VOIDWIN.COUNT (R188). -/
def R.cntVoidwin : Fld := ⟨0x600244, 0, 32, 0⟩
/-- CNT_HEM_CONV.COUNT (R188). -/
def R.cntHemConv : Fld := ⟨0x600248, 0, 32, 0⟩
/-- CNT_DPP_CAND.COUNT (R188). -/
def R.cntDppCand : Fld := ⟨0x60024c, 0, 32, 0⟩
/-- CNT_DPP_OVERFLOW.COUNT (R188). -/
def R.cntDppOverflow : Fld := ⟨0x600250, 0, 32, 0⟩
/-- CNT_DPP_DISCARD.COUNT (R188). -/
def R.cntDppDiscard : Fld := ⟨0x600254, 0, 32, 0⟩
/-- CNT_DPP_TRUNC.COUNT (R188). -/
def R.cntDppTrunc : Fld := ⟨0x600258, 0, 32, 0⟩
/-- CNT_DPP_SURV.COUNT (R188). -/
def R.cntDppSurv : Fld := ⟨0x60025c, 0, 32, 0⟩
/-- FAB_STEP.PERIOD_US (R229). -/
def R.fabStepPeriodUs : Fld := ⟨0x700000, 0, 10, 0x19⟩
/-- FAB_CLOSE.LAG_NS (R229). -/
def R.fabCloseLagNs : Fld := ⟨0x700004, 0, 15, 0x7d0⟩
/-- FAB_SLIP.LIMIT (R229). -/
def R.fabSlipLimit : Fld := ⟨0x700008, 0, 8, 4⟩
/-- FAB_WIN_CFG.STEPS (R229). -/
def R.fabWinCfgSteps : Fld := ⟨0x70000c, 0, 16, 0x28⟩
/-- FAB_WIN_CFG.N_OUT_M1 (R229). -/
def R.fabWinCfgNOutM1 : Fld := ⟨0x70000c, 16, 13, 0⟩
/-- FAB_WIN_DEST.EN (R229). -/
def R.fabWinDestEn : Fld := ⟨0x700010, 0, 1, 0⟩
/-- FAB_WIN_DEST.RING (R229). -/
def R.fabWinDestRing : Fld := ⟨0x700010, 4, 3, 0⟩
/-- FAB_WIN_DEST.FUNC (R229). -/
def R.fabWinDestFunc : Fld := ⟨0x700010, 8, 3, 0⟩
/-- FAB_LOOM.SECTORS (R229). -/
def R.fabLoomSectors : Fld := ⟨0x700014, 0, 6, 0⟩
/-- FAB_LOOM.HOLD_US (R229). -/
def R.fabLoomHoldUs : Fld := ⟨0x700014, 16, 16, 0x1388⟩
/-- FAB_REFLEXr_CFG.EN (R229). -/
def R.fabReflexCfgEn (i : Nat) : Fld := ⟨0x700020 + 0x10 * i, 0, 1, 0⟩
/-- FAB_REFLEXr_CFG.ACTIVE_HIGH (R229). -/
def R.fabReflexCfgActiveHigh (i : Nat) : Fld := ⟨0x700020 + 0x10 * i, 1, 1, 1⟩
/-- FAB_REFLEXr_CFG.LATCH (R229). -/
def R.fabReflexCfgLatch (i : Nat) : Fld := ⟨0x700020 + 0x10 * i, 2, 1, 0⟩
/-- FAB_REFLEXr_CFG.GROUP (R229). -/
def R.fabReflexCfgGroup (i : Nat) : Fld := ⟨0x700020 + 0x10 * i, 8, 6, 0⟩
/-- FAB_REFLEXr_CFG.WIN_M1 (R229). -/
def R.fabReflexCfgWinM1 (i : Nat) : Fld := ⟨0x700020 + 0x10 * i, 16, 6, 0⟩
/-- FAB_REFLEXr_THR.THR (R229). -/
def R.fabReflexThrThr (i : Nat) : Fld := ⟨0x700024 + 0x10 * i, 0, 16, 1⟩
/-- FAB_REFLEXr_HOLD.HOLD_US (R229). -/
def R.fabReflexHoldHoldUs (i : Nat) : Fld := ⟨0x700028 + 0x10 * i, 0, 16, 0x3e8⟩
/-- FAB_REFLEXr_STAT.ASSERTED (R229). -/
def R.fabReflexStatAsserted (i : Nat) : Fld := ⟨0x70002c + 0x10 * i, 0, 1, 0⟩
/-- FAB_REFLEXr_STAT.COUNT_NOW (R229). -/
def R.fabReflexStatCountNow (i : Nat) : Fld := ⟨0x70002c + 0x10 * i, 16, 16, 0⟩
/-- FAB_STATUS.SLIP_MAX (R229). -/
def R.fabStatusSlipMax : Fld := ⟨0x700080, 0, 8, 0⟩
/-- FAB_STATUS.SHEDDING (R229). -/
def R.fabStatusShedding : Fld := ⟨0x700080, 8, 1, 0⟩
/-- FAB_STATUS.RUN_WRITE (R229). -/
def R.fabStatusRunWrite : Fld := ⟨0x700080, 16, 1, 0⟩
/-- FAB_STATUS.POISON (R229). -/
def R.fabStatusPoison : Fld := ⟨0x700080, 17, 1, 0⟩
/-- FAB_STATUS.FOLD (R229). -/
def R.fabStatusFold : Fld := ⟨0x700080, 18, 1, 0⟩
/-- FAB_SHED_MASK.CORES (R229). -/
def R.fabShedMaskCores : Fld := ⟨0x700088, 0, 64, 0⟩
/-- CNT_SYN_UPD.COUNT (R229). -/
def R.cntSynUpd : Fld := ⟨0x700100, 0, 32, 0⟩
/-- CNT_FIRE.COUNT (R229). -/
def R.cntFire : Fld := ⟨0x700104, 0, 32, 0⟩
/-- CNT_INJECT.COUNT (R229). -/
def R.cntInject : Fld := ⟨0x700108, 0, 32, 0⟩
/-- CNT_SHED_SLIP.COUNT (R229). -/
def R.cntShedSlip : Fld := ⟨0x70010c, 0, 32, 0⟩
/-- CNT_SHED_FULL.COUNT (R229). -/
def R.cntShedFull : Fld := ⟨0x700110, 0, 32, 0⟩
/-- CNT_FOLD.COUNT (R229). -/
def R.cntFold : Fld := ⟨0x700114, 0, 32, 0⟩
/-- CNT_NOSYN.COUNT (R229). -/
def R.cntNosyn : Fld := ⟨0x700118, 0, 32, 0⟩
/-- FAB_CNT_STEP.COUNT (R229). -/
def R.fabCntStep : Fld := ⟨0x70011c, 0, 32, 0⟩
/-- CNT_WIN.COUNT (R229). -/
def R.cntWin : Fld := ⟨0x700120, 0, 32, 0⟩
/-- CNT_WIN_GAP.COUNT (R229). -/
def R.cntWinGap : Fld := ⟨0x700124, 0, 32, 0⟩
/-- CNT_REFLEX0.COUNT (R229). -/
def R.cntReflex0 : Fld := ⟨0x700128, 0, 32, 0⟩
/-- CNT_REFLEX1.COUNT (R229). -/
def R.cntReflex1 : Fld := ⟨0x70012c, 0, 32, 0⟩
/-- CNT_SWEEP.COUNT (R229). -/
def R.cntSweep : Fld := ⟨0x700130, 0, 32, 0⟩
/-- CNT_LOOM_LATE.COUNT (R229). -/
def R.cntLoomLate : Fld := ⟨0x700134, 0, 32, 0⟩
/-- CNT_EDGE_DROP.COUNT (R229). -/
def R.cntEdgeDrop : Fld := ⟨0x700138, 0, 32, 0⟩
/-- FLT_CH_EN.EN (R261). -/
def R.fltChEnEn : Fld := ⟨0x800000, 0, 32, 0⟩
/-- FLT_STATUS.CFG_ERR (R261). -/
def R.fltStatusCfgErr : Fld := ⟨0x800004, 0, 1, 0⟩
/-- FLT_STATUS.RUN_WRITE (R261). -/
def R.fltStatusRunWrite : Fld := ⟨0x800004, 1, 1, 0⟩
/-- FLT_STATUS.COEF_PERR (R261). -/
def R.fltStatusCoefPerr : Fld := ⟨0x800004, 2, 1, 0⟩
/-- FLT_SETTLED.SETTLED (R261). -/
def R.fltSettledSettled : Fld := ⟨0x800008, 0, 32, 0⟩
/-- FLT_THR_DEST.EN (R261). -/
def R.fltThrDestEn : Fld := ⟨0x80000c, 0, 1, 0⟩
/-- FLT_THR_DEST.RING (R261). -/
def R.fltThrDestRing : Fld := ⟨0x80000c, 4, 3, 0⟩
/-- FLT_THR_DEST.FUNC (R261). -/
def R.fltThrDestFunc : Fld := ⟨0x80000c, 8, 3, 0⟩
/-- FLT_THR_OUT.ACTIVE_HIGH (R261). -/
def R.fltThrOutActiveHigh : Fld := ⟨0x800010, 0, 1, 1⟩
/-- FLT_THR_OUT.LEVEL (R261). -/
def R.fltThrOutLevel : Fld := ⟨0x800010, 1, 1, 0⟩
/-- FLT_COEF_ADDR.ADDR (R261). -/
def R.fltCoefAddrAddr : Fld := ⟨0x800014, 0, 12, 0⟩
/-- FLT_GNSS_CFG.EN (R261). -/
def R.fltGnssCfgEn : Fld := ⟨0x800020, 0, 1, 0⟩
/-- FLT_GNSS_CFG.RAW (R261). -/
def R.fltGnssCfgRaw : Fld := ⟨0x800020, 1, 1, 0⟩
/-- FLT_GNSS_CFG.PPS_TCI (R261). -/
def R.fltGnssCfgPpsTci : Fld := ⟨0x800020, 24, 2, 0⟩
/-- FLT_IMUi_CFG.EN (R261). -/
def R.fltImuCfgEn (i : Nat) : Fld := ⟨0x800040 + 0x20 * i, 0, 1, 0⟩
/-- FLT_IMUi_CFG.MODE3 (R261). -/
def R.fltImuCfgMode3 (i : Nat) : Fld := ⟨0x800040 + 0x20 * i, 1, 1, 0⟩
/-- FLT_IMUi_CFG.W24 (R261). -/
def R.fltImuCfgW24 (i : Nat) : Fld := ⟨0x800040 + 0x20 * i, 2, 1, 0⟩
/-- FLT_IMUi_CFG.BE (R261). -/
def R.fltImuCfgBe (i : Nat) : Fld := ⟨0x800040 + 0x20 * i, 3, 1, 1⟩
/-- FLT_IMUi_CFG.SCLK_DIV (R261). -/
def R.fltImuCfgSclkDiv (i : Nat) : Fld := ⟨0x800040 + 0x20 * i, 4, 8, 0x27⟩
/-- FLT_IMUi_CFG.CMD_LEN_M1 (R261). -/
def R.fltImuCfgCmdLenM1 (i : Nat) : Fld := ⟨0x800040 + 0x20 * i, 12, 2, 0⟩
/-- FLT_IMUi_CFG.RD_LEN (R261). -/
def R.fltImuCfgRdLen (i : Nat) : Fld := ⟨0x800040 + 0x20 * i, 16, 5, 0xe⟩
/-- FLT_IMUi_OFS.OFS (R261). -/
def R.fltImuOfsOfs (i : Nat) : Fld := ⟨0x800048 + 0x20 * i, 0, 30, 0x14831040⟩
/-- FLT_IMUi_XFER_CTL.LEN (R261). -/
def R.fltImuXferCtlLen (i : Nat) : Fld := ⟨0x80004c + 0x20 * i, 0, 4, 1⟩
/-- FLT_IMUi_XFER_CTL.BUSY (R261). -/
def R.fltImuXferCtlBusy (i : Nat) : Fld := ⟨0x80004c + 0x20 * i, 31, 1, 0⟩
/-- FLT_IMUi_XFER_DATA.DATA (R261). -/
def R.fltImuXferDataData (i : Nat) : Fld := ⟨0x800050 + 0x20 * i, 0, 64, 0⟩
/-- FLT_IMUi_OFS6.OFS_6 (R261). -/
def R.fltImuOfs6Ofs6 (i : Nat) : Fld := ⟨0x800058 + 0x20 * i, 0, 5, 0xc⟩
/-- FLT_ENC_CFG.EN (R261). -/
def R.fltEncCfgEn : Fld := ⟨0x800080, 0, 8, 0⟩
/-- FLT_ENC_CFG.INVERT (R261). -/
def R.fltEncCfgInvert : Fld := ⟨0x800080, 8, 8, 0⟩
/-- FLT_ENCe_POS.POS (R261). -/
def R.fltEncPosPos (i : Nat) : Fld := ⟨0x8000a0 + 4 * i, 0, 32, 0⟩
/-- FLT_CANc_CFG.EN (R261). -/
def R.fltCanCfgEn (i : Nat) : Fld := ⟨0x800100 + 0x10 * i, 0, 1, 0⟩
/-- FLT_CANc_CFG.FD_EN (R261). -/
def R.fltCanCfgFdEn (i : Nat) : Fld := ⟨0x800100 + 0x10 * i, 2, 1, 0⟩
/-- FLT_CANc_STAT.STATE (R261). -/
def R.fltCanStatState (i : Nat) : Fld := ⟨0x80010c + 0x10 * i, 0, 2, 0⟩
/-- FLT_CANc_STAT.REC (R261). -/
def R.fltCanStatRec (i : Nat) : Fld := ⟨0x80010c + 0x10 * i, 8, 8, 0⟩
/-- FLT_CANc_STAT.TEC (R261). -/
def R.fltCanStatTec (i : Nat) : Fld := ⟨0x80010c + 0x10 * i, 16, 8, 0⟩
/-- FLT_CANFf_ID.ID (R261). -/
def R.fltCanfIdId (i : Nat) : Fld := ⟨0x800200 + 8 * i, 0, 29, 0⟩
/-- FLT_CANFf_ID.IDE (R261). -/
def R.fltCanfIdIde (i : Nat) : Fld := ⟨0x800200 + 8 * i, 29, 1, 0⟩
/-- FLT_CANFf_ID.CTRL (R261). -/
def R.fltCanfIdCtrl (i : Nat) : Fld := ⟨0x800200 + 8 * i, 30, 2, 0⟩
/-- FLT_CANFf_MASK.MASK (R261). -/
def R.fltCanfMaskMask (i : Nat) : Fld := ⟨0x800204 + 8 * i, 0, 29, 0⟩
/-- FLT_CANFf_MASK.EN (R261). -/
def R.fltCanfMaskEn (i : Nat) : Fld := ⟨0x800204 + 8 * i, 31, 1, 0⟩
/-- FLT_SIGs_CFG.FILTER (R261). -/
def R.fltSigCfgFilter (i : Nat) : Fld := ⟨0x800400 + 8 * i, 0, 6, 0⟩
/-- FLT_SIGs_CFG.START (R261). -/
def R.fltSigCfgStart (i : Nat) : Fld := ⟨0x800400 + 8 * i, 6, 9, 0⟩
/-- FLT_SIGs_CFG.LEN_M1 (R261). -/
def R.fltSigCfgLenM1 (i : Nat) : Fld := ⟨0x800400 + 8 * i, 15, 5, 0⟩
/-- FLT_SIGs_CFG.BE (R261). -/
def R.fltSigCfgBe (i : Nat) : Fld := ⟨0x800400 + 8 * i, 20, 1, 0⟩
/-- FLT_SIGs_CFG.SIGNED (R261). -/
def R.fltSigCfgSigned (i : Nat) : Fld := ⟨0x800400 + 8 * i, 21, 1, 0⟩
/-- FLT_SIGs_CFG.EN (R261). -/
def R.fltSigCfgEn (i : Nat) : Fld := ⟨0x800400 + 8 * i, 22, 1, 0⟩
/-- FLT_SIGs_DEST.DIRECT (R261). -/
def R.fltSigDestDirect (i : Nat) : Fld := ⟨0x800404 + 8 * i, 0, 1, 1⟩
/-- FLT_CHn_SRC.SRC (R261). -/
def R.fltChSrcSrc (i : Nat) : Fld := ⟨0x800800 + 0x40 * i, 0, 8, 0⟩
/-- FLT_CHn_FIR.TAPS (R261). -/
def R.fltChFirTaps (i : Nat) : Fld := ⟨0x800804 + 0x40 * i, 0, 7, 0⟩
/-- FLT_CHn_FIR.SHIFT (R261). -/
def R.fltChFirShift (i : Nat) : Fld := ⟨0x800804 + 0x40 * i, 8, 5, 0xf⟩
/-- FLT_CHn_CIC.ORDER (R261). -/
def R.fltChCicOrder (i : Nat) : Fld := ⟨0x800808 + 0x40 * i, 0, 3, 1⟩
/-- FLT_CHn_CIC.RATE (R261). -/
def R.fltChCicRate (i : Nat) : Fld := ⟨0x800808 + 0x40 * i, 8, 7, 1⟩
/-- FLT_CHn_CIC.SHIFT (R261). -/
def R.fltChCicShift (i : Nat) : Fld := ⟨0x800808 + 0x40 * i, 16, 5, 0⟩
/-- FLT_CHn_RS.BANK (R261). -/
def R.fltChRsBank (i : Nat) : Fld := ⟨0x80080c + 0x40 * i, 0, 2, 0⟩
/-- FLT_CHn_RS.OUT_DIV_M1 (R261). -/
def R.fltChRsOutDivM1 (i : Nat) : Fld := ⟨0x80080c + 0x40 * i, 8, 8, 0⟩
/-- FLT_CHn_RS.WAIT_NS (R261). -/
def R.fltChRsWaitNs (i : Nat) : Fld := ⟨0x80080c + 0x40 * i, 16, 16, 0x2710⟩
/-- FLT_CHn_NOM.NOM_NS (R261). -/
def R.fltChNomNomNs (i : Nat) : Fld := ⟨0x800810 + 0x40 * i, 0, 32, 0x1e848⟩
/-- FLT_CHn_PDLY.PDLY (R261). -/
def R.fltChPdlyPdly (i : Nat) : Fld := ⟨0x800814 + 0x40 * i, 0, 12, 0⟩
/-- FLT_CHn_SCALE.OUT_SCALE (R261). -/
def R.fltChScaleOutScale (i : Nat) : Fld := ⟨0x800818 + 0x40 * i, 0, 32, 0x3f800000⟩
/-- FLT_CHn_OFS.OUT_OFS (R261). -/
def R.fltChOfsOutOfs (i : Nat) : Fld := ⟨0x80081c + 0x40 * i, 0, 32, 0⟩
/-- FLT_CHn_THRA_CFG.EN (R261). -/
def R.fltChThraCfgEn (i : Nat) : Fld := ⟨0x800820 + 0x40 * i, 0, 1, 0⟩
/-- FLT_CHn_THRA_CFG.BELOW (R261). -/
def R.fltChThraCfgBelow (i : Nat) : Fld := ⟨0x800820 + 0x40 * i, 1, 1, 0⟩
/-- FLT_CHn_THRA_CFG.OUT_EN (R261). -/
def R.fltChThraCfgOutEn (i : Nat) : Fld := ⟨0x800820 + 0x40 * i, 2, 1, 0⟩
/-- FLT_CHn_THRA_CFG.IRQ_EN (R261). -/
def R.fltChThraCfgIrqEn (i : Nat) : Fld := ⟨0x800820 + 0x40 * i, 3, 1, 0⟩
/-- FLT_CHn_THRA_CFG.MIN_N_M1 (R261). -/
def R.fltChThraCfgMinNM1 (i : Nat) : Fld := ⟨0x800820 + 0x40 * i, 8, 8, 0⟩
/-- FLT_CHn_THRA_LVL.LVL (R261). -/
def R.fltChThraLvlLvl (i : Nat) : Fld := ⟨0x800824 + 0x40 * i, 0, 32, 0⟩
/-- FLT_CHn_THRA_HYST.HYST (R261). -/
def R.fltChThraHystHyst (i : Nat) : Fld := ⟨0x800828 + 0x40 * i, 0, 32, 0⟩
/-- FLT_CHn_THRB_CFG.EN (R261). -/
def R.fltChThrbCfgEn (i : Nat) : Fld := ⟨0x80082c + 0x40 * i, 0, 1, 0⟩
/-- FLT_CHn_THRB_CFG.BELOW (R261). -/
def R.fltChThrbCfgBelow (i : Nat) : Fld := ⟨0x80082c + 0x40 * i, 1, 1, 0⟩
/-- FLT_CHn_THRB_CFG.OUT_EN (R261). -/
def R.fltChThrbCfgOutEn (i : Nat) : Fld := ⟨0x80082c + 0x40 * i, 2, 1, 0⟩
/-- FLT_CHn_THRB_CFG.IRQ_EN (R261). -/
def R.fltChThrbCfgIrqEn (i : Nat) : Fld := ⟨0x80082c + 0x40 * i, 3, 1, 0⟩
/-- FLT_CHn_THRB_CFG.MIN_N_M1 (R261). -/
def R.fltChThrbCfgMinNM1 (i : Nat) : Fld := ⟨0x80082c + 0x40 * i, 8, 8, 0⟩
/-- FLT_CHn_THRB_LVL.LVL (R261). -/
def R.fltChThrbLvlLvl (i : Nat) : Fld := ⟨0x800830 + 0x40 * i, 0, 32, 0⟩
/-- FLT_CHn_THRB_HYST.HYST (R261). -/
def R.fltChThrbHystHyst (i : Nat) : Fld := ⟨0x800834 + 0x40 * i, 0, 32, 0⟩
/-- FLT_CHn_STAT.SETTLED (R261). -/
def R.fltChStatSettled (i : Nat) : Fld := ⟨0x800838 + 0x40 * i, 0, 1, 0⟩
/-- FLT_CHn_STAT.THRA_ACTIVE (R261). -/
def R.fltChStatThraActive (i : Nat) : Fld := ⟨0x800838 + 0x40 * i, 1, 1, 0⟩
/-- FLT_CHn_STAT.THRB_ACTIVE (R261). -/
def R.fltChStatThrbActive (i : Nat) : Fld := ⟨0x800838 + 0x40 * i, 2, 1, 0⟩
/-- FLT_CHn_STAT.COUNT (R261). -/
def R.fltChStatCount (i : Nat) : Fld := ⟨0x800838 + 0x40 * i, 16, 16, 0⟩
/-- CNT_DRDY_OVR0.COUNT (R261). -/
def R.cntDrdyOvr0 : Fld := ⟨0x801000, 0, 32, 0⟩
/-- CNT_DRDY_OVR1.COUNT (R261). -/
def R.cntDrdyOvr1 : Fld := ⟨0x801004, 0, 32, 0⟩
/-- CNT_ENC_ILLEGAL.COUNT (R261). -/
def R.cntEncIllegal : Fld := ⟨0x801008, 0, 32, 0⟩
/-- CNT_CAN_FRAME.COUNT (R261). -/
def R.cntCanFrame : Fld := ⟨0x80100c, 0, 32, 0⟩
/-- CNT_CAN_NOMATCH.COUNT (R261). -/
def R.cntCanNomatch : Fld := ⟨0x801010, 0, 32, 0⟩
/-- CNT_CAN_SHORT.COUNT (R261). -/
def R.cntCanShort : Fld := ⟨0x801018, 0, 32, 0⟩
/-- CNT_GNSS_SENT.COUNT (R261). -/
def R.cntGnssSent : Fld := ⟨0x80101c, 0, 32, 0⟩
/-- CNT_GNSS_BAD.COUNT (R261). -/
def R.cntGnssBad : Fld := ⟨0x801020, 0, 32, 0⟩
/-- CNT_GNSS_NOPPS.COUNT (R261). -/
def R.cntGnssNopps : Fld := ⟨0x801024, 0, 32, 0⟩
/-- CNT_GNSS_RXOVF.COUNT (R261). -/
def R.cntGnssRxovf : Fld := ⟨0x801028, 0, 32, 0⟩
/-- CNT_RESTART.COUNT (R261). -/
def R.cntRestart : Fld := ⟨0x80102c, 0, 32, 0⟩
/-- CNT_STRETCH.COUNT (R261). -/
def R.cntStretch : Fld := ⟨0x801030, 0, 32, 0⟩
/-- CNT_SAT.COUNT (R261). -/
def R.cntSat : Fld := ⟨0x801034, 0, 32, 0⟩
/-- CNT_OUT.COUNT (R261). -/
def R.cntOut : Fld := ⟨0x801038, 0, 32, 0⟩
/-- CNT_THR_EVENT.COUNT (R261). -/
def R.cntThrEvent : Fld := ⟨0x80103c, 0, 32, 0⟩
/-- CNT_THR_GAP.COUNT (R261). -/
def R.cntThrGap : Fld := ⟨0x801040, 0, 32, 0⟩
/-- FTU_CTL.RESID_EN (R289). -/
def R.ftuCtlResidEn : Fld := ⟨0x900000, 0, 1, 0⟩
/-- FTU_CTL.DET_OUT (R289). -/
def R.ftuCtlDetOut : Fld := ⟨0x900000, 1, 1, 1⟩
/-- FTU_CTL.CLONE_EN (R289). -/
def R.ftuCtlCloneEn : Fld := ⟨0x900000, 2, 1, 1⟩
/-- FTU_DEST.EN (R289). -/
def R.ftuDestEn : Fld := ⟨0x900004, 0, 1, 0⟩
/-- FTU_DEST.RING (R289). -/
def R.ftuDestRing : Fld := ⟨0x900004, 4, 3, 0⟩
/-- FTU_DEST.FUNC (R289). -/
def R.ftuDestFunc : Fld := ⟨0x900004, 8, 3, 0⟩
/-- FTU_EGO.VIS_ONLY (R289). -/
def R.ftuEgoVisOnly : Fld := ⟨0x900008, 0, 1, 0⟩
/-- FTU_EGO.RAMP_TICKS (R289). -/
def R.ftuEgoRampTicks : Fld := ⟨0x900008, 16, 16, 0x190⟩
/-- FTU_CONF.EGO_SIGMA_MM (R289). -/
def R.ftuConfEgoSigmaMm : Fld := ⟨0x90000c, 0, 16, 0x3e8⟩
/-- FTU_CONF.TRK_SIGMA_MM (R289). -/
def R.ftuConfTrkSigmaMm : Fld := ⟨0x90000c, 16, 16, 0x7d0⟩
/-- FTU_CONTRA.CONTRA_N (R289). -/
def R.ftuContraContraN : Fld := ⟨0x900010, 0, 16, 0x28⟩
/-- FTU_CONTRA.UNMASK_N (R289). -/
def R.ftuContraUnmaskN : Fld := ⟨0x900010, 16, 16, 0x190⟩
/-- FTU_HOLD.HOLD_TICKS (R289). -/
def R.ftuHoldHoldTicks : Fld := ⟨0x900014, 0, 16, 0xc8⟩
/-- FTU_HOLD.CONTRA_STEP (R289). -/
def R.ftuHoldContraStep : Fld := ⟨0x900014, 16, 8, 0x20⟩
/-- FTU_TRK.M (R289). -/
def R.ftuTrkM : Fld := ⟨0x900018, 0, 4, 3⟩
/-- FTU_TRK.N (R289). -/
def R.ftuTrkN : Fld := ⟨0x900018, 4, 4, 5⟩
/-- FTU_TRK.COAST_MAX (R289). -/
def R.ftuTrkCoastMax : Fld := ⟨0x900018, 8, 16, 0x190⟩
/-- FTU_GATE.GATE (R289). -/
def R.ftuGateGate : Fld := ⟨0x90001c, 0, 32, 0x41380000⟩
/-- FTU_BIRTH.BIRTH (R289). -/
def R.ftuBirthBirth : Fld := ⟨0x900020, 0, 32, 0x3f000000⟩
/-- FTU_MODEL.CORE (R289). -/
def R.ftuModelCore : Fld := ⟨0x900024, 0, 6, 0⟩
/-- FTU_RESID_CLASS.CLASSES (R289). -/
def R.ftuResidClassClasses : Fld := ⟨0x900028, 0, 64, 0⟩
/-- FTU_VIS_HEAD.LAYER (R289). -/
def R.ftuVisHeadLayer : Fld := ⟨0x900048, 0, 9, 0⟩
/-- FTU_VIS_HEAD.EN (R289). -/
def R.ftuVisHeadEn : Fld := ⟨0x900048, 31, 1, 0⟩
/-- FTU_VIS_CH.CH0 (R289). -/
def R.ftuVisChCh0 : Fld := ⟨0x90004c, 0, 16, 0⟩
/-- FTU_VIS_CH.ZP (R289). -/
def R.ftuVisChZp : Fld := ⟨0x90004c, 16, 16, 0⟩
/-- FTU_VIS_SCALE.SCALE (R289). -/
def R.ftuVisScaleScale : Fld := ⟨0x900050, 0, 32, 0x3f800000⟩
/-- FTU_VIS_FLOW.PORT_EN (R289). -/
def R.ftuVisFlowPortEn : Fld := ⟨0x900054, 0, 8, 0⟩
/-- FTU_VIS_FLOW.FLOW_MIN (R289). -/
def R.ftuVisFlowFlowMin : Fld := ⟨0x900054, 16, 8, 0x10⟩
/-- FTU_Qq_TOL.TOL (R289). -/
def R.ftuQTolTol (i : Nat) : Fld := ⟨0x900080 + 8 * i, 0, 32, 0x3e800000⟩
/-- FTU_Qq_CFG.EN (R289). -/
def R.ftuQCfgEn (i : Nat) : Fld := ⟨0x900084 + 8 * i, 0, 1, 0⟩
/-- FTU_Qq_CFG.TIE (R289). -/
def R.ftuQCfgTie (i : Nat) : Fld := ⟨0x900084 + 8 * i, 8, 4, 0⟩
/-- FTU_STATUS.RUN_WRITE (R289). -/
def R.ftuStatusRunWrite : Fld := ⟨0x900100, 0, 1, 0⟩
/-- FTU_STATUS.CONTRA (R289). -/
def R.ftuStatusContra : Fld := ⟨0x900100, 1, 1, 0⟩
/-- FTU_STATUS.LATE_DROP (R289). -/
def R.ftuStatusLateDrop : Fld := ⟨0x900100, 2, 1, 0⟩
/-- FTU_STATUS.RESID_MISS (R289). -/
def R.ftuStatusResidMiss : Fld := ⟨0x900100, 3, 1, 0⟩
/-- FTU_STATUS.MODE (R289). -/
def R.ftuStatusMode : Fld := ⟨0x900100, 8, 1, 0⟩
/-- FTU_MASKED.SLOTS (R289). -/
def R.ftuMaskedSlots : Fld := ⟨0x900108, 0, 64, 0⟩
/-- FTU_WITHHELD.SLOTS (R289). -/
def R.ftuWithheldSlots : Fld := ⟨0x900110, 0, 64, 0⟩
/-- FTU_SRCk_CFG.KIND (R289). -/
def R.ftuSrcCfgKind (i : Nat) : Fld := ⟨0x900400 + 0x20 * i, 0, 4, 0⟩
/-- FTU_SRCk_CFG.FROM_CAN (R289). -/
def R.ftuSrcCfgFromCan (i : Nat) : Fld := ⟨0x900400 + 0x20 * i, 4, 1, 0⟩
/-- FTU_SRCk_CFG.INDEX (R289). -/
def R.ftuSrcCfgIndex (i : Nat) : Fld := ⟨0x900400 + 0x20 * i, 5, 5, 0⟩
/-- FTU_SRCk_CFG.GROUP (R289). -/
def R.ftuSrcCfgGroup (i : Nat) : Fld := ⟨0x900400 + 0x20 * i, 10, 4, 0⟩
/-- FTU_SRCk_CFG.CUBIC (R289). -/
def R.ftuSrcCfgCubic (i : Nat) : Fld := ⟨0x900400 + 0x20 * i, 14, 1, 0⟩
/-- FTU_SRCk_CFG.EVERY (R289). -/
def R.ftuSrcCfgEvery (i : Nat) : Fld := ⟨0x900400 + 0x20 * i, 15, 1, 1⟩
/-- FTU_SRCk_CFG.AXIS (R289). -/
def R.ftuSrcCfgAxis (i : Nat) : Fld := ⟨0x900400 + 0x20 * i, 16, 3, 0⟩
/-- FTU_SRCk_CFG.IMU_SEL (R289). -/
def R.ftuSrcCfgImuSel (i : Nat) : Fld := ⟨0x900400 + 0x20 * i, 19, 1, 0⟩
/-- FTU_SRCk_CFG.EXTRAP_MAX (R289). -/
def R.ftuSrcCfgExtrapMax (i : Nat) : Fld := ⟨0x900400 + 0x20 * i, 20, 12, 2⟩
/-- FTU_SRCk_SCALE.SCALE (R289). -/
def R.ftuSrcScaleScale (i : Nat) : Fld := ⟨0x900404 + 0x20 * i, 0, 32, 0x3f800000⟩
/-- FTU_SRCk_OFS.OFS (R289). -/
def R.ftuSrcOfsOfs (i : Nat) : Fld := ⟨0x900408 + 0x20 * i, 0, 32, 0⟩
/-- FTU_SRCk_MON.ABSENT_T (R289). -/
def R.ftuSrcMonAbsentT (i : Nat) : Fld := ⟨0x90040c + 0x20 * i, 0, 16, 8⟩
/-- FTU_SRCk_MON.STUCK_N (R289). -/
def R.ftuSrcMonStuckN (i : Nat) : Fld := ⟨0x90040c + 0x20 * i, 16, 16, 0⟩
/-- FTU_SRCk_RATE.RATE_MIN (R289). -/
def R.ftuSrcRateRateMin (i : Nat) : Fld := ⟨0x900410 + 0x20 * i, 0, 16, 0⟩
/-- FTU_SRCk_RATE.RATE_MAX (R289). -/
def R.ftuSrcRateRateMax (i : Nat) : Fld := ⟨0x900410 + 0x20 * i, 16, 16, 0⟩
/-- FTU_SRCk_CHI_GATE.CHI_GATE (R289). -/
def R.ftuSrcChiGateChiGate (i : Nat) : Fld := ⟨0x900414 + 0x20 * i, 0, 32, 0⟩
/-- FTU_SRCk_CHI.CHI_WIN (R289). -/
def R.ftuSrcChiChiWin (i : Nat) : Fld := ⟨0x900418 + 0x20 * i, 0, 8, 0x28⟩
/-- FTU_SRCk_CHI.CONF_STEP (R289). -/
def R.ftuSrcChiConfStep (i : Nat) : Fld := ⟨0x900418 + 0x20 * i, 8, 8, 0x10⟩
/-- FTU_SRCk_STAT.MASKED (R289). -/
def R.ftuSrcStatMasked (i : Nat) : Fld := ⟨0x90041c + 0x20 * i, 0, 1, 0⟩
/-- FTU_SRCk_STAT.REASON (R289). -/
def R.ftuSrcStatReason (i : Nat) : Fld := ⟨0x90041c + 0x20 * i, 1, 3, 0⟩
/-- FTU_SRCk_STAT.WITHHELD (R289). -/
def R.ftuSrcStatWithheld (i : Nat) : Fld := ⟨0x90041c + 0x20 * i, 4, 1, 0⟩
/-- FTU_HOMp_i.H (R289). -/
def R.ftuHomH (i j : Nat) : Fld := ⟨0x901000 + 0x40 * i + 4 * j, 0, 32, 0⟩
/-- CNT_PASS.COUNT (R289). -/
def R.cntPass : Fld := ⟨0x900140, 0, 32, 0⟩
/-- CNT_REPLAY.COUNT (R289). -/
def R.cntReplay : Fld := ⟨0x900144, 0, 32, 0⟩
/-- CNT_REPLAY_TICKS.COUNT (R289). -/
def R.cntReplayTicks : Fld := ⟨0x900148, 0, 32, 0⟩
/-- CNT_LATE_DROP.COUNT (R289). -/
def R.cntLateDrop : Fld := ⟨0x90014c, 0, 32, 0⟩
/-- CNT_CLONE_UPD.COUNT (R289). -/
def R.cntCloneUpd : Fld := ⟨0x900150, 0, 32, 0⟩
/-- CNT_MASK.COUNT (R289). -/
def R.cntMask : Fld := ⟨0x900154, 0, 32, 0⟩
/-- CNT_CONTRA.COUNT (R289). -/
def R.cntContra : Fld := ⟨0x900158, 0, 32, 0⟩
/-- CNT_EXTRAP.COUNT (R289). -/
def R.cntExtrap : Fld := ⟨0x90015c, 0, 32, 0⟩
/-- CNT_TRK_BIRTH.COUNT (R289). -/
def R.cntTrkBirth : Fld := ⟨0x900160, 0, 32, 0⟩
/-- CNT_TRK_DEL.COUNT (R289). -/
def R.cntTrkDel : Fld := ⟨0x900164, 0, 32, 0⟩
/-- CNT_TRK_FULL.COUNT (R289). -/
def R.cntTrkFull : Fld := ⟨0x900168, 0, 32, 0⟩
/-- CNT_RESID_MISS.COUNT (R289). -/
def R.cntResidMiss : Fld := ⟨0x90016c, 0, 32, 0⟩
/-- CNT_DET_NOGROUND.COUNT (R289). -/
def R.cntDetNoground : Fld := ⟨0x900170, 0, 32, 0⟩
/-- CNT_ASSOC.COUNT (R289). -/
def R.cntAssoc : Fld := ⟨0x900174, 0, 32, 0⟩
/-- DBG_OPC_CTL.SNAP (R489). -/
def R.dbgOpcCtlSnap : Fld := ⟨0xa00000, 0, 1, 0⟩
/-- DBG_OPC_CTL.EXPORT_EN (R489). -/
def R.dbgOpcCtlExportEn : Fld := ⟨0xa00000, 1, 1, 0⟩
/-- DBG_OPC_CTL.EXPORT_TICKS (R489). -/
def R.dbgOpcCtlExportTicks : Fld := ⟨0xa00000, 8, 16, 0x28⟩
/-- DBG_OPC_SNAP_TICK.TICK (R489). -/
def R.dbgOpcSnapTickTick : Fld := ⟨0xa00008, 0, 64, 0⟩
/-- DBG_TRACE_STATE.STATE (R489). -/
def R.dbgTraceStateState : Fld := ⟨0xa00010, 0, 2, 0⟩
/-- DBG_TRACE_STATE.IN_LPDDR (R489). -/
def R.dbgTraceStateInLpddr : Fld := ⟨0xa00010, 2, 1, 0⟩
/-- DBG_TRACE_TRIG.INDEX (R489). -/
def R.dbgTraceTrigIndex : Fld := ⟨0xa00018, 0, 64, 0⟩
/-- DBG_TRACE_WR.COUNT (R489). -/
def R.dbgTraceWrCount : Fld := ⟨0xa00020, 0, 64, 0⟩
/-- DBG_TRACE_CFG.EVT_DECIM (R489). -/
def R.dbgTraceCfgEvtDecim : Fld := ⟨0xa00028, 0, 4, 8⟩
/-- DBG_TRACE_CFG.SPIKE_DECIM (R489). -/
def R.dbgTraceCfgSpikeDecim : Fld := ⟨0xa00028, 4, 4, 8⟩
/-- DBG_TRIG.MASK (R489). -/
def R.dbgTrigMask : Fld := ⟨0xa0002c, 0, 9, 0⟩
/-- DBG_HANG.EN (R489). -/
def R.dbgHangEn : Fld := ⟨0xa00030, 0, 1, 1⟩
/-- DBG_DUMP_STATUS.VALID (R489). -/
def R.dbgDumpStatusValid : Fld := ⟨0xa00034, 0, 1, 0⟩
/-- DBG_DUMP_STATUS.BUSY (R489). -/
def R.dbgDumpStatusBusy : Fld := ⟨0xa00034, 1, 1, 0⟩
/-- DBG_DUMP_LEN.LEN (R489). -/
def R.dbgDumpLenLen : Fld := ⟨0xa00038, 0, 32, 0⟩
/-- DBG_DUMP_CTL.RELEASE (R489). -/
def R.dbgDumpCtlRelease : Fld := ⟨0xa0003c, 0, 1, 0⟩
/-- DBG_LPDDR_RSV.ADDR (R489). -/
def R.dbgLpddrRsvAddr : Fld := ⟨0xa00040, 0, 64, 0⟩
/-- CNT_TRACE_ENTRY.COUNT (R489). -/
def R.cntTraceEntry : Fld := ⟨0xa00080, 0, 32, 0⟩
/-- CNT_TRACE_DROP.COUNT (R489). -/
def R.cntTraceDrop : Fld := ⟨0xa00084, 0, 32, 0⟩
/-- CNT_TRACE_GAP.COUNT (R489). -/
def R.cntTraceGap : Fld := ⟨0xa00088, 0, 32, 0⟩
/-- CNT_TRIG_IGNORED.COUNT (R489). -/
def R.cntTrigIgnored : Fld := ⟨0xa0008c, 0, 32, 0⟩
/-- CNT_HANG.COUNT (R489). -/
def R.cntHang : Fld := ⟨0xa00090, 0, 32, 0⟩
/-- CNT_DUMP_SKIP.COUNT (R489). -/
def R.cntDumpSkip : Fld := ⟨0xa00094, 0, 32, 0⟩
/-- DBG_OPC_d_k.COUNT (R489). -/
def R.dbgOpcCount (i j : Nat) : Fld := ⟨0xa01000 + 0x100 * i + 8 * j, 0, 64, 0⟩
/-- LIF_ADDR.ADDR (R489). -/
def R.lifAddrAddr : Fld := ⟨0xb00000, 0, 13, 0⟩
/-- LIF_SEQ.SEQ (R489). -/
def R.lifSeqSeq : Fld := ⟨0xb00008, 0, 64, 0⟩
/-- LIF_STATUS.VALID (R489). -/
def R.lifStatusValid : Fld := ⟨0xb00010, 0, 1, 0⟩
/-- LIF_STATUS.WRITE_ERR (R489). -/
def R.lifStatusWriteErr : Fld := ⟨0xb00010, 1, 1, 0⟩
/-- ERR_CTL.REPORT_EN (R464). -/
def R.errCtlReportEn : Fld := ⟨0xc00000, 0, 1, 0⟩
/-- ERR_CTL.CORR_REPORT (R464). -/
def R.errCtlCorrReport : Fld := ⟨0xc00000, 1, 1, 1⟩
/-- ERR_DEST.RING (R464). -/
def R.errDestRing : Fld := ⟨0xc00004, 0, 3, 0⟩
/-- ERR_STATUS.CORRECTED (R464). -/
def R.errStatusCorrected : Fld := ⟨0xc00008, 0, 1, 0⟩
/-- ERR_STATUS.CONTAINED (R464). -/
def R.errStatusContained : Fld := ⟨0xc00008, 1, 1, 0⟩
/-- ERR_STATUS.DIE_FATAL (R464). -/
def R.errStatusDieFatal : Fld := ⟨0xc00008, 2, 1, 0⟩
/-- ERR_STATUS.DEVICE_FATAL (R464). -/
def R.errStatusDeviceFatal : Fld := ⟨0xc00008, 3, 1, 0⟩
/-- ERR_OFFLINE.DIES (R464). -/
def R.errOfflineDies : Fld := ⟨0xc0000c, 0, 4, 0⟩
/-- ERR_FIRST_FATAL.SOURCE (R464). -/
def R.errFirstFatalSource : Fld := ⟨0xc00010, 0, 8, 0⟩
/-- ERR_FIRST_FATAL.DIE (R464). -/
def R.errFirstFatalDie : Fld := ⟨0xc00010, 8, 3, 0⟩
/-- ERR_FIRST_FATAL.VALID (R464). -/
def R.errFirstFatalValid : Fld := ⟨0xc00010, 31, 1, 0⟩
/-- ERR_FI_VEJAN.LINK (R464). -/
def R.errFiVejanLink : Fld := ⟨0xc00020, 0, 3, 0⟩
/-- ERR_FI_VEJAN.MODE (R464). -/
def R.errFiVejanMode : Fld := ⟨0xc00020, 4, 2, 0⟩
/-- ERR_FI_VEJAN.REPEAT (R464). -/
def R.errFiVejanRepeat : Fld := ⟨0xc00020, 6, 1, 0⟩
/-- ERR_FI_FAB.MODE (R464). -/
def R.errFiFabMode : Fld := ⟨0xc00024, 0, 2, 0⟩
/-- ERR_FI_FAB.REPEAT (R464). -/
def R.errFiFabRepeat : Fld := ⟨0xc00024, 2, 1, 0⟩
/-- ERR_FI_FAB.CORE (R464). -/
def R.errFiFabCore : Fld := ⟨0xc00024, 8, 6, 0⟩
/-- ERR_FI_FAB.INTERVAL (R464). -/
def R.errFiFabInterval : Fld := ⟨0xc00024, 16, 8, 1⟩
/-- CNT_ECC_CORR.COUNT (R464). -/
def R.cntEccCorr : Fld := ⟨0xc00040, 0, 32, 0⟩
/-- CNT_ECC_UNCORR.COUNT (R464). -/
def R.cntEccUncorr : Fld := ⟨0xc00044, 0, 32, 0⟩
/-- CNT_PARITY.COUNT (R464). -/
def R.cntParity : Fld := ⟨0xc00048, 0, 32, 0⟩
/-- CNT_CANVAS_REINIT.COUNT (R464). -/
def R.cntCanvasReinit : Fld := ⟨0xc0004c, 0, 32, 0⟩
/-- CNT_HAL_RETRY.COUNT (R464). -/
def R.cntHalRetry : Fld := ⟨0xc00050, 0, 32, 0⟩
/-- CNT_MARK_WAIT.COUNT (R464). -/
def R.cntMarkWait : Fld := ⟨0xc00054, 0, 32, 0⟩
/-- CNT_DIE_DISCARD.COUNT (R464). -/
def R.cntDieDiscard : Fld := ⟨0xc00058, 0, 32, 0⟩
/-- CNT_REPORT.COUNT (R464). -/
def R.cntReport : Fld := ⟨0xc0005c, 0, 32, 0⟩
/-- CNT_FI_FAB.COUNT (R464). -/
def R.cntFiFab : Fld := ⟨0xc00060, 0, 32, 0⟩
/-- ERR_LINKl_CNT_RETRY.COUNT (R464). -/
def R.errLinkCntRetry (i : Nat) : Fld := ⟨0xc00100 + 8 * i, 0, 32, 0⟩
/-- ERR_LINKl_CNT_RETRAIN.COUNT (R464). -/
def R.errLinkCntRetrain (i : Nat) : Fld := ⟨0xc00104 + 8 * i, 0, 32, 0⟩
/-- FN_STATUS.READY (R331). -/
def R.fnStatusReady (i : Nat) : Fld := ⟨0x1001000 + 0x10000 * i, 0, 1, 0⟩
/-- FN_STATUS.DB_ERR (R331). -/
def R.fnStatusDbErr (i : Nat) : Fld := ⟨0x1001000 + 0x10000 * i, 1, 1, 0⟩
/-- FN_STATUS.RING_ERR (R331). -/
def R.fnStatusRingErr (i : Nat) : Fld := ⟨0x1001000 + 0x10000 * i, 2, 1, 0⟩
/-- FN_STATUS.FETCH_ERR (R331). -/
def R.fnStatusFetchErr (i : Nat) : Fld := ⟨0x1001000 + 0x10000 * i, 3, 1, 0⟩
/-- FN_STATUS.PRIV_ERR (R331). -/
def R.fnStatusPrivErr (i : Nat) : Fld := ⟨0x1001000 + 0x10000 * i, 4, 1, 0⟩
/-- FN_STATUS.URGENT_DONE (R331). -/
def R.fnStatusUrgentDone (i : Nat) : Fld := ⟨0x1001000 + 0x10000 * i, 5, 1, 0⟩
/-- FN_STATE_LOST.CLASSES (R331). -/
def R.fnStateLostClasses (i : Nat) : Fld := ⟨0x1001004 + 0x10000 * i, 0, 4, 0xf⟩
/-- FN_LOSS_EPOCH.EPOCH (R331). -/
def R.fnLossEpochEpoch (i : Nat) : Fld := ⟨0x1001008 + 0x10000 * i, 0, 32, 1⟩
/-- FN_LOSS_ACK.ACK (R331). -/
def R.fnLossAckAck (i : Nat) : Fld := ⟨0x100100c + 0x10000 * i, 0, 32, 0⟩
/-- FN_URGENT_TICK.TICK (R331). -/
def R.fnUrgentTickTick (i : Nat) : Fld := ⟨0x1001010 + 0x10000 * i, 0, 64, 0⟩
/-- FN_VEC.ERR (R331). -/
def R.fnVecErr (i : Nat) : Fld := ⟨0x1001018 + 0x10000 * i, 0, 5, 0⟩
/-- FN_VEC.THR (R331). -/
def R.fnVecThr (i : Nat) : Fld := ⟨0x1001018 + 0x10000 * i, 8, 5, 0⟩
/-- FN_VEC.URGENT (R331). -/
def R.fnVecUrgent (i : Nat) : Fld := ⟨0x1001018 + 0x10000 * i, 16, 5, 0⟩
/-- FN_RING_OFF.CNT_OFF (R331). -/
def R.fnRingOffCntOff (i : Nat) : Fld := ⟨0x100101c + 0x10000 * i, 0, 32, 0⟩
/-- FN_OPC_SNAP_TICK.TICK (R489). -/
def R.fnOpcSnapTickTick (i : Nat) : Fld := ⟨0x1001028 + 0x10000 * i, 0, 64, 0⟩
/-- FN_OPC_k.COUNT (R489). -/
def R.fnOpcCount (i j : Nat) : Fld := ⟨0x1001030 + 0x10000 * i + 8 * j, 0, 64, 0⟩
/-- FN_SQi_CFG.SIZE_LOG2 (R331). -/
def R.fnSqCfgSizeLog2 (i j : Nat) : Fld := ⟨0x1001108 + 0x10000 * i + 0x20 * j, 0, 5, 4⟩
/-- FN_SQi_CFG.CQ (R331). -/
def R.fnSqCfgCq (i j : Nat) : Fld := ⟨0x1001108 + 0x10000 * i + 0x20 * j, 8, 2, 0⟩
/-- FN_SQi_CFG.EN (R331). -/
def R.fnSqCfgEn (i j : Nat) : Fld := ⟨0x1001108 + 0x10000 * i + 0x20 * j, 31, 1, 0⟩
/-- FN_SQi_HEAD.HEAD (R331). -/
def R.fnSqHeadHead (i j : Nat) : Fld := ⟨0x100110c + 0x10000 * i + 0x20 * j, 0, 16, 0⟩
/-- FN_CQi_BASE.BASE (R331). -/
def R.fnCqBaseBase (i j : Nat) : Fld := ⟨0x1001200 + 0x10000 * i + 0x20 * j, 0, 64, 0⟩
/-- FN_CQi_CFG.SIZE_LOG2 (R331). -/
def R.fnCqCfgSizeLog2 (i j : Nat) : Fld := ⟨0x1001208 + 0x10000 * i + 0x20 * j, 0, 5, 4⟩
/-- FN_CQi_CFG.VEC (R331). -/
def R.fnCqCfgVec (i j : Nat) : Fld := ⟨0x1001208 + 0x10000 * i + 0x20 * j, 8, 5, 0⟩
/-- FN_CQi_CFG.EN (R331). -/
def R.fnCqCfgEn (i j : Nat) : Fld := ⟨0x1001208 + 0x10000 * i + 0x20 * j, 31, 1, 0⟩
/-- FN_CQi_TAIL.TAIL (R331). -/
def R.fnCqTailTail (i j : Nat) : Fld := ⟨0x100120c + 0x10000 * i + 0x20 * j, 0, 16, 0⟩
/-- FN_STRr_BASE.BASE (R331). -/
def R.fnStrBaseBase (i j : Nat) : Fld := ⟨0x1001300 + 0x10000 * i + 0x20 * j, 0, 64, 0⟩
/-- FN_STRr_CFG.SIZE_LOG2 (R331). -/
def R.fnStrCfgSizeLog2 (i j : Nat) : Fld := ⟨0x1001308 + 0x10000 * i + 0x20 * j, 0, 5, 0x12⟩
/-- FN_STRr_CFG.VEC (R331). -/
def R.fnStrCfgVec (i j : Nat) : Fld := ⟨0x1001308 + 0x10000 * i + 0x20 * j, 8, 5, 0⟩
/-- FN_STRr_CFG.EN (R331). -/
def R.fnStrCfgEn (i j : Nat) : Fld := ⟨0x1001308 + 0x10000 * i + 0x20 * j, 31, 1, 0⟩
/-- FN_STRr_IRQ.COUNT (R331). -/
def R.fnStrIrqCount (i j : Nat) : Fld := ⟨0x100130c + 0x10000 * i + 0x20 * j, 0, 16, 1⟩
/-- FN_STRr_IRQ.TIME_US (R331). -/
def R.fnStrIrqTimeUs (i j : Nat) : Fld := ⟨0x100130c + 0x10000 * i + 0x20 * j, 16, 16, 0x64⟩
/-- FN_STRr_WR.WR (R331). -/
def R.fnStrWrWr (i j : Nat) : Fld := ⟨0x1001310 + 0x10000 * i + 0x20 * j, 0, 30, 0⟩
/-- FN_STRr_SEQ.SEQ (R331). -/
def R.fnStrSeqSeq (i j : Nat) : Fld := ⟨0x1001314 + 0x10000 * i + 0x20 * j, 0, 32, 0⟩
/-- FN_STRr_STAGE.OCC (R331). -/
def R.fnStrStageOcc (i j : Nat) : Fld := ⟨0x1001318 + 0x10000 * i + 0x20 * j, 0, 21, 0⟩
/-- FN_STRr_GAP.CNT_GAP (R331). -/
def R.fnStrGapCntGap (i j : Nat) : Fld := ⟨0x100131c + 0x10000 * i + 0x20 * j, 0, 32, 0⟩
/-- FN_MSIXv_CTL.MASK (R292). -/
def R.fnMsixCtlMask (i j : Nat) : Fld := ⟨0x100e00c + 0x10000 * i + 0x10 * j, 0, 1, 1⟩
/-- FN_MSIX_PBA.PENDING (R292). -/
def R.fnMsixPbaPending (i : Nat) : Fld := ⟨0x100f000 + 0x10000 * i, 0, 32, 0⟩
/-- CNT_CAN_OVF.COUNT (R261). -/
def R.cntCanOvf : Fld := ⟨0x801014, 0, 32, 0⟩
/-- FLT_CANc_CFG.LISTEN (R261). -/
def R.fltCanCfgListen (i : Nat) : Fld := ⟨0x800100 + 0x10 * i, 1, 1, 0⟩
/-- FLT_IMUi_CMD.CMD (R261). -/
def R.fltImuCmdCmd (i : Nat) : Fld := ⟨0x800044 + 0x20 * i, 0, 32, 0⟩
/-- FTU_GEO_ALT.ALT (R289). -/
def R.ftuGeoAltAlt : Fld := ⟨0x900040, 0, 32, 0⟩
/-- FTU_GEO_CTL.VALID (R289). -/
def R.ftuGeoCtlValid : Fld := ⟨0x900044, 0, 1, 0⟩
/-- FTU_GEO_LAT.LAT (R289). -/
def R.ftuGeoLatLat : Fld := ⟨0x900030, 0, 64, 0⟩
/-- FTU_GEO_LON.LON (R289). -/
def R.ftuGeoLonLon : Fld := ⟨0x900038, 0, 64, 0⟩
/-- PWR_VR0_CFG.ADDR (R409). -/
def R.pwrVr0CfgAddr : Fld := ⟨0x200050, 1, 7, 0x40⟩
/-- PWR_VR0_CFG.AVS_RAIL (R409). -/
def R.pwrVr0CfgAvsRail : Fld := ⟨0x200050, 8, 4, 0⟩
/-- PWR_VR0_CFG.IF (R409). -/
def R.pwrVr0CfgIf : Fld := ⟨0x200050, 0, 1, 0⟩
/-- PWR_VR1_CFG.ADDR (R409). -/
def R.pwrVr1CfgAddr : Fld := ⟨0x200054, 1, 7, 0x41⟩
/-- PWR_VR1_CFG.AVS_RAIL (R409). -/
def R.pwrVr1CfgAvsRail : Fld := ⟨0x200054, 8, 4, 1⟩
/-- PWR_VR1_CFG.IF (R409). -/
def R.pwrVr1CfgIf : Fld := ⟨0x200054, 0, 1, 0⟩
/-- DBG_HANG.TIMEOUT_US (R489). -/
def R.dbgHangTimeoutUs : Fld := ⟨0xa00030, 16, 16, 0x7d0⟩
/-- MGT_PAD11.FILT (R510). -/
def R.mgtPad11Filt : Fld := ⟨0x10012c, 8, 4, 6⟩
/-- MGT_PAD2.FILT (R510). -/
def R.mgtPad2Filt : Fld := ⟨0x100108, 8, 4, 0⟩
/-- MGT_PAD3.FILT (R510). -/
def R.mgtPad3Filt : Fld := ⟨0x10010c, 8, 4, 1⟩
/-- MGT_PAD4.FILT (R510). -/
def R.mgtPad4Filt : Fld := ⟨0x100110, 8, 4, 1⟩
/-- MGT_PAD5.FILT (R510). -/
def R.mgtPad5Filt : Fld := ⟨0x100114, 8, 4, 0⟩

end Sys2Proof.Machine
end

