-- ==== Sys2Proof/Machine/Ops.lean ====
section
/-! DEFINITION. The named operations every meaning is built from: register fields, free values, device time, interrupts, host writes, completions, record hand-over. -/

namespace Sys2Proof.Machine

/-! ### Register fields -/

/-- The present value of a register field (R7). -/
def State.get (s : State) (f : Fld) : Nat := SMap.get s.regs f.reset f.key

/-- The field set to `v`, cut to its width. -/
def State.set (s : State) (f : Fld) (v : Nat) : State :=
  { s with regs := SMap.set s.regs f.reset f.key (v % 2 ^ f.width) }

/-- Whether a field is not 0. -/
def State.flag (s : State) (f : Fld) : Bool := !(s.get f == 0)

/-- A one-bit field set or cleared. -/
def State.setFlag (s : State) (f : Fld) (b : Bool) : State := s.set f (b2n b)

/-- A field held inside its stated range (R73). [DESIGN CHOICE, log entry 25] -/
def State.getIn (s : State) (f : Fld) (lo hi : Nat) : Nat := max lo (min hi (s.get f))

/-- A field as a signed number. -/
def State.getInt (s : State) (f : Fld) : Int := toSigned f.width (s.get f)

/-- A field set to a signed number. -/
def State.setInt (s : State) (f : Fld) (v : Int) : State := s.set f (ofInt f.width v)

/-- A counter advanced by `n`; counters wrap. -/
def State.add (s : State) (f : Fld) (n : Nat) : State := s.set f (s.get f + n)

/-- A counter advanced by 1. -/
def State.inc (s : State) (f : Fld) : State := s.add f 1

/-- The step `f` taken only where `c` holds. -/
def State.when (s : State) (c : Bool) (f : State → State) : State := if c then f s else s

/-- The step taken once per element, in order. -/
def State.each {α : Type} (s : State) (l : List α) (f : State → α → State) : State := l.foldl f s

/-! ### Free values -/

/-- The next free value (log entry 10). [DESIGN CHOICE, log entry 10] -/
def State.freeValue (s : State) : Nat := Config.free s.free

/-- The state after taking `n` free values. [DESIGN CHOICE, log entry 10] -/
def State.took (s : State) (n : Nat) : State := { s with free := s.free + n }

/-- `n` free bytes, from free value `i` on. -/
def freeBytes (i : Nat) : Nat → List Byte
  | 0 => []
  | n + 1 => BitVec.ofNat 8 (Config.free i) :: freeBytes (i + 1) n

/-! ### Device time -/

/-- One second, millisecond and so on are counted in ns; counters hold 2^32 units a ns. -/
def unitsPerNs : Nat := 2 ^ 32

/-- Device time in whole ns. -/
def State.now (s : State) : Nat := s.time.dev / 2 ^ 32

/-- Device time counters wrap at 2^96 units. -/
def wrapTime (t : Int) : Nat := (t % (2 ^ 96 : Int)).toNat

/-- Length of a tick in ns (R3). -/
def tickNs : Nat := 25000

/-- The tick of an instant in ns (R3, R4). -/
def tickOf (ns : Nat) : Nat := ns / tickNs

/-- The present tick. -/
def State.tick (s : State) : Nat := tickOf s.now

/-- The effective tick of a command accepted at device time `dev` (R5): the first boundary at least 5 µs later. -/
def effectiveTick (dev : Nat) : Nat := ceilDiv (dev + 5000 * 2 ^ 32) (tickNs * 2 ^ 32)

/-- The first tick boundary strictly after device time `dev` (R519). -/
def nextTick (dev : Nat) : Nat := dev / (tickNs * 2 ^ 32) + 1

/-- The fabric step period in ns (R6). -/
def State.stepNs (s : State) : Nat := s.getIn R.fabStepPeriodUs 1 1000 * 1000

/-- The first step boundary strictly after the present instant (R519). -/
def State.nextStep (s : State) : Nat := s.time.dev / (s.stepNs * 2 ^ 32) + 1

/-- Whether device time has reached instant `ns`. -/
def State.reached (s : State) (ns : Nat) : Bool := decide (ns ≤ s.now)

/-- Whether the mark of tick `n` is late (R447). [DESIGN CHOICE, log entry 139] -/
def State.late (s : State) (n : Nat) : Bool := match s.ctl.lateMark with | some m => decide (m ≤ n) | none => false

/-- Whether the boundary of tick `n` has come and its mark with it (R447). -/
def State.markHeld (s : State) (n : Nat) : Bool := s.reached (n * tickNs) && !s.late n

/-! ### Run state (R346) -/

/-- STOPPED. -/
def runStopped : Nat := 0
/-- STARTING. -/
def runStarting : Nat := 1
/-- RUNNING. -/
def runRunning : Nat := 2
/-- STOPPING. -/
def runStopping : Nat := 3

/-- HIF_RUN.STATE. -/
def State.run (s : State) : Nat := s.get R.hifRunState

/-- Whether the device is STOPPED. -/
def State.stopped (s : State) : Bool := s.run == runStopped

/-! ### Reef states -/

/-- Whether the device is in SAIL: register accesses are served. -/
def State.served (s : State) : Bool := s.phase == .sail

/-- Whether units work: in SAIL their clocks run, and a Device-fatal error has not halted them (R410, R456). -/
def State.awake (s : State) : Bool := s.served && !s.halted

/-- What a unit does, where units work. [DESIGN CHOICE, log entry 5] -/
def State.clocked (s t : State) : State := if s.awake then t else s

/-- Whether the time clock runs (R382): SAIL and REEF1, with the sequences between them and the entry toward REEF2. -/
def State.timeRuns (s : State) : Bool :=
  match s.phase with
  | .sail => true
  | .entering n _ _ => decide (n ≤ 2)
  | .reef n => n == 1
  | .exiting n _ _ => n == 1
  | _ => false

/-- The IDLE1 timer restarts at 0 (R412). -/
def State.touch (s : State) : State := { s with reef := { s.reef with idleAt := s.time.dev } }

/-- Cycles of the exit from REEF n (R416): 1.5 µs, 240 µs, 75 ms. -/
def exitCycles (n : Nat) : Nat := if n = 1 then 375 else if n = 2 then 60000 else 18750000

/-- The length F in ns of the glitch filter that field `f` of a pad group sets (R503). -/
def State.filterNs (s : State) (f : Fld) : Nat := [10, 20, 50, 100, 200, 500, 1000, 2000, 5000].getD (s.get f) 10000

/-- Whether the filter that `f` sets passes a level held for `held` ns without a break (R503). -/
def State.filterPasses (s : State) (f : Fld) (held : Nat) : Bool := decide (s.filterNs f ≤ held)

/-- The reef state that the device is in, enters or leaves. -/
def Phase.reefOf : Phase → Nat
  | .entering n _ _ => n
  | .reef n => n
  | .exiting n _ _ => n
  | _ => 0

/-- What a source is to REEF n (R417): its code and port of MGT_REEF_STATUS, none where it does not wake that state. [DESIGN CHOICE, log entry 121] -/
def State.wakeMark (s : State) (n : Nat) : WakeSource → Option WakeMark
  | .port p => if decide (n ≤ 2) && bit (s.get R.ingCtlPortEn) p && bit (s.get R.mgtWakeEnPort) p then some ⟨1, p⟩ else none
  | .tci c => if decide (n ≤ 2) && s.flag (R.timTciCfgEn c) && bit (s.get R.mgtWakeEnTci) c then some ⟨4, c⟩ else none
  | .alarm =>
    let ns := s.get R.mgtAlarmNs
    if n == 1 && s.flag R.mgtAlarmCtlEn && decide (s.reef.since ≤ ns) && decide (ns ≤ s.now) then some ⟨3, 0⟩ else none
  | .pcie => if n = 1 then some ⟨2, 0⟩ else if n = 2 then some ⟨6, 0⟩ else none
  | .i2c => some ⟨5, 0⟩
  | .perst => none

/-- The exit from REEF `n` begins (R416); from REEF3 the AON domain asserts the power-enable outputs (R419). -/
def State.beginExit (s : State) (n : Nat) (m : WakeMark) : State :=
  { s with phase := .exiting n (s.time.clk + exitCycles n) m, reef := if n = 3 then { s.reef with rails := .rising s.time.clk } else s.reef }

/-- A source is detected (R415–R417): a reef state begins its exit, an entry latches the first wake. -/
def State.wake (s : State) (w : WakeSource) : State :=
  match s.wakeMark s.phase.reefOf w with
  | none => s
  | some m =>
    match s.phase with
    | .reef n => s.beginExit n m
    | .entering n e none => { s with phase := .entering n e (some m) }
    | _ => s

/-- An access that waits for ready (R300, R418). -/
def State.hold (s : State) (h : Held) : State :=
  { s with host := { s.host with held := s.host.held ++ [h] } }

/-- Whether the PCIe link takes a transaction at all: not while the device is off or in REEF3, or leaves it (R421). -/
def State.linkUp (s : State) : Bool :=
  match s.phase with
  | .off => false
  | .sail | .boot _ => true
  | p => decide (p.reefOf ≤ 2)

/-- A PCIe transaction arrives: it restarts the idle timer, and wakes (R412, R417). -/
def State.transact (s : State) : State := s.touch.wake .pcie

/-- A PCIe register access: it acts in SAIL, waits for ready in REEF1 and REEF2 and in sequences (R418), and is lost while the link is down. [DESIGN CHOICE, log entry 44] -/
def State.bus (s : State) (h : Held) (act : State → State) : State :=
  if s.served then act s.touch
  else if s.linkUp then s.transact.hold h
  else s

/-! ### LO/HI pairs (R514) -/

/-- Requester numbers: functions 0–7, the I²C target 8. -/
def requesterI2c : Nat := 8

/-- The key of a requester's latch of the pair whose LO word stands at `lo`. -/
def latchKey (rq lo : Nat) : Nat := rq * 2 ^ 32 + lo

/-- A write to HI: the 64-bit value that takes effect, the requester's latch emptied (R514); `cur` is the pair's present value. [DESIGN CHOICE, log entry 33] -/
def State.joinPair (s : State) (rq lo cur hi : Nat) : State × Nat :=
  match SMap.find? (latchKey rq lo) s.latch.wr with
  | some w => ({ s with latch := { s.latch with wr := SMap.del (latchKey rq lo) s.latch.wr } }, w.toNat + 2 ^ 32 * hi)
  | none => (s, cur % 2 ^ 32 + 2 ^ 32 * hi)

/-! ### Interrupts and host writes -/

/-- The key of vector `v` of function `f`. [PRESUMED, log entry 2] -/
def msixKey (f v : Nat) : Nat := f * 32 + v

/-- Vector `v` of function `f` is raised (R322): sent, or held pending while masked. [PRESUMED, log entry 2] -/
def State.raise (s : State) (f v : Nat) : State :=
  if s.flag (R.fnMsixCtlMask f v) then
    s.set (R.fnMsixPbaPending f) (setBit (s.get (R.fnMsixPbaPending f)) v true)
  else
    { s with host := { s.host with
        msix := SMap.upd s.host.msix 0 (msixKey f v) (· + 1)
        lastRo := SMap.set s.host.lastRo false f false } }

/-- A posted write of function `f` to host memory; `ro` where R321 sets the attribute while the host enables it. [DESIGN CHOICE, log entry 9; DESIGN CHOICE, log entry 53; PRESUMED, log entry 156] -/
def State.post (s : State) (f addr : Nat) (ro : Bool) (bs : List Byte) : State :=
  { s with host := { s.host with
      mem := s.host.mem |> fun m => bs.zipIdx.foldl (fun m b => SMap.put (f * 2 ^ 64 + (addr + b.2) % 2 ^ 64) b.1 m) m
      lastRo := SMap.set s.host.lastRo false f (ro && !SMap.get s.host.roOff false f) } }

/-! ### Submission and completion rings -/

/-- The key of ring `i` of function `f`. -/
def ringKey (f i : Nat) : Nat := f * 8 + i

/-- Submission ring `q` of function `f`. -/
def State.sq (s : State) (f q : Nat) : Sq := SMap.get s.host.sq {} (ringKey f q)

/-- Submission ring `q` of function `f` replaced. -/
def State.setSq (s : State) (f q : Nat) (v : Sq) : State :=
  { s with host := { s.host with sq := SMap.set s.host.sq {} (ringKey f q) v } }

/-- Completion ring `q` of function `f`. -/
def State.cq (s : State) (f q : Nat) : Cq := SMap.get s.host.cq {} (ringKey f q)

/-- Completion ring `q` of function `f` replaced. -/
def State.setCq (s : State) (f q : Nat) (v : Cq) : State :=
  { s with host := { s.host with cq := SMap.set s.host.cq {} (ringKey f q) v } }

/-- Stream ring `r` of function `f`. -/
def State.str (s : State) (f r : Nat) : Str := SMap.get s.host.str {} (ringKey f r)

/-- Stream ring `r` of function `f` replaced. -/
def State.setStr (s : State) (f r : Nat) (v : Str) : State :=
  { s with host := { s.host with str := SMap.set s.host.str {} (ringKey f r) v } }

/-- The descriptor that submission ring `q` of function `f` runs. -/
def State.cur (s : State) (f q : Nat) : Option Desc := (s.sq f q).cur

/-- The running descriptor replaced. -/
def State.setCur (s : State) (f q : Nat) (d : Option Desc) : State :=
  s.setSq f q { s.sq f q with cur := d }

/-- Completion status codes (R308). -/
inductive Status where
  | ok | badDesc | geomEmpty | setNotReady | abortedByStop | noResource | privilege | stateLost
  | poisoned | dieLost | deviceFatal
  deriving DecidableEq, Repr

/-- The code of a status (R308). -/
def Status.code : Status → Nat
  | .ok => 0x00 | .badDesc => 0x01 | .geomEmpty => 0x02 | .setNotReady => 0x03
  | .abortedByStop => 0x04 | .noResource => 0x05 | .privilege => 0x06 | .stateLost => 0x07
  | .poisoned => 0x10 | .dieLost => 0x20 | .deviceFatal => 0x3F

/-- Statuses whose completion raises FN_VEC.ERR (R457). -/
def Status.raisesErr : Status → Bool
  | .poisoned | .dieLost | .deviceFatal => true
  | _ => false

/-- The outcome of a descriptor: status, reason, RESULT (R307). -/
structure Done where
  status : Status
  reason : Nat := 0
  result : Nat := 0
  deriving DecidableEq, Repr

/-- OK with a RESULT. -/
def Done.okay (result : Nat) : Done := { status := .ok, result := result }

/-- BAD_DESC with a reason. -/
def Done.bad (reason : Nat) : Done := { status := .badDesc, reason := reason }

/-- The 16 bytes of a completion entry (R307). -/
def cqEntry (cid q head : Nat) (phase : Bool) (o : Done) : List Byte :=
  leBytes cid 2 ++ [BitVec.ofNat 8 (o.status.code + 128 * b2n phase), BitVec.ofNat 8 q]
    ++ leBytes head 2 ++ [BitVec.ofNat 8 o.reason, 0] ++ leBytes o.result 8

/-- Size in entries of completion ring `i` of function `f`. -/
def State.cqSize (s : State) (f i : Nat) : Nat := 2 ^ s.get (R.fnCqCfgSizeLog2 f i)

/-- Size in entries of submission ring `q` of function `f`. -/
def State.sqSize (s : State) (f q : Nat) : Nat := 2 ^ s.get (R.fnSqCfgSizeLog2 f q)

/-- A completion entry written to completion ring `i` (R307, R309): the whole entry in one write, then TAIL and phase move on. -/
def State.pushCq (s : State) (f i q cid head : Nat) (o : Done) : State :=
  let c := s.cq f i
  let tail := s.get (R.fnCqTailTail f i)
  let nxt := (tail + 1) % s.cqSize f i
  ((s.post f (s.get (R.fnCqBaseBase f i) + 16 * tail) false (cqEntry cid q head c.phase o)).set
      (R.fnCqTailTail f i) nxt).setCq f i
    { c with phase := if nxt = 0 then !c.phase else c.phase, resv := c.resv - 1 }

/-- Ring `q` of function `f` has completed a descriptor: no FENCE of the function waits for it any more (R304). -/
def State.releaseFences (s : State) (f q : Nat) : State :=
  s.each (List.range 4) fun s i =>
    match s.cur f i with
    | some d => if d.waitRings.contains q then s.setCur f i (some { d with waitRings := d.waitRings.filter (· != q) }) else s
    | none => s

/-- The descriptor of ring `q` of function `f` completes with `o` (R307–R311, R322). The entry is not written where the completion ring has been disabled since the reservation. [DESIGN CHOICE, log entry 14] -/
def State.complete (s : State) (f q : Nat) (o : Done) : State :=
  match s.cur f q with
  | none => s
  | some d =>
    let s1 := (s.setCur f q none).releaseFences f q
    if d.cqGone || !s.flag (R.fnCqCfgEn f d.cq) then s1
    else ((s1.pushCq f d.cq q d.cid d.head o).when d.irq fun s => s.raise f (s.get (R.fnCqCfgVec f d.cq))).when
      o.status.raisesErr fun s => s.raise f (s.get (R.fnVecErr f))

/-- Completion for the ring that owns a running operation; none where an FLR has taken the descriptor (R329). -/
def State.completeOwner (s : State) (owner : Option (Nat × Nat)) (o : Done) : State :=
  match owner with
  | some (f, q) => s.complete f q o
  | none => s

/-- The running descriptor of a ring marked as begun. -/
def State.begin (s : State) (f q : Nat) : State :=
  match s.cur f q with
  | some d => s.setCur f q (some { d with stage := .running })
  | none => s

/-! ### Swaps (R226, R350) -/

/-- Whether what runs at tick or step `k` stands in the active place: swaps taken but later than `k` undo, swaps due by `k` and not yet taken do. -/
def inActivePlace (swaps : List (Nat × Bool)) (k : Nat) : Bool :=
  (swaps.filter fun x => if x.2 then decide (k < x.1) else decide (x.1 ≤ k)).length % 2 == 0

/-! ### Records -/

/-- A producer hands record `r` over for ring `ring` of function `f` (R319); RECORD_STAGING stages it. [DESIGN CHOICE, log entry 49] -/
def State.hand (s : State) (f ring : Nat) (r : Rec) : State :=
  { s with host := { s.host with handed := s.host.handed ++ [⟨f, ring, r⟩] } }

/-- Bytes of a record, padded to 64 (R313). -/
def Rec.padded (r : Rec) : Nat :=
  match r.gap with
  | some _ => 64
  | none => ceilDiv (8 + r.payload.length) 64 * 64

end Sys2Proof.Machine
end

