-- ==== Sys2Proof/Machine/Observe.lean ====
section
/-! DEFINITION. What every family reports as it works: operation counters (R466), trace entries (R472–R475), hardware trigger conditions (R474), faults (R449–R453, R457). -/

namespace Sys2Proof.Machine

/-! ### Dies (ERR_FIRST_FATAL.DIE) -/

/-- CD0. -/
def dieCd0 : Nat := 0
/-- CD1. -/
def dieCd1 : Nat := 1
/-- MSD0. -/
def dieMsd0 : Nat := 2
/-- MSD1. -/
def dieMsd1 : Nat := 3
/-- The I/O die. -/
def dieIod : Nat := 4

/-- The compute die of core `c` (R520). -/
def dieOfCore (c : Nat) : Nat := if c < 32 then dieCd0 else dieCd1

/-- The MSD of surface engine `e` (R28). -/
def dieOfEngine (e : Nat) : Nat := if e < 4 then dieMsd0 else dieMsd1

/-- Whether die `d` is offline (ERR_OFFLINE). -/
def State.dieOff (s : State) (d : Nat) : Bool := d < 4 && bit (s.get R.errOfflineDies) d

/-- Whether die `d` does no work of the active set: offline, or back from a die reset and parked (R454, R460). -/
def State.offline (s : State) (d : Nat) : Bool := s.dieOff d || bit s.err.parked d

/-- Whether a set maps work to, or places data on, compute die `d`. -/
def ConfigSet.usesDie (c : ConfigSet) (d : Nat) : Bool := if d = 0 then c.useCd0 else c.useCd1

/-- Whether a set, where there is one, maps work to compute die `d`. -/
def setUses (c : Option ConfigSet) (d : Nat) : Bool := match c with | some c => c.usesDie d | none => false

/-- Whether compute die `d` is parked: the active set maps no work to it (R13), or it came back from a die reset (R460). -/
def State.parkedDie (s : State) (d : Nat) : Bool := bit s.err.parked d || !setUses s.active d

/-- Whether the compute logic of die `d` is powered (R13, R355): the active set works on it, an accepted swap's new set will, or the dense path or the fabric still works for the outgoing set that uses it. [DEDUCED, log entry 154] -/
def State.powered (s : State) (d : Nat) : Bool :=
  !s.dieOff d && (!s.parkedDie d || (s.ctl.swap.isSome && setUses s.shadow d)
    || ((s.tns.swaps.any (·.2) || s.fab.swaps.any (·.2)) && setUses s.shadow d && !bit s.err.parked d))

/-! ### Vejan links (R11, R12, R446) -/

/-- Link `l`. -/
def State.link (s : State) (l : Nat) : Link := SMap.get s.err.link {} l

/-- Whether link `l` carries traffic: a retrain holds it (R446). -/
def State.linkOpen (s : State) (l : Nat) : Bool := (s.link l).retrain.isNone

/-- The compute die through which the traffic between the IOD and MSD `m` passes (R12): its own one, the other while that one is offline or, alone, parked. [DEDUCED, log entry 154] -/
def State.viaDie (s : State) (m : Nat) : Nat :=
  let own := m - dieMsd0
  if s.dieOff own || (s.parkedDie own && !s.parkedDie (1 - own) && !s.dieOff (1 - own)) then 1 - own else own

/-- The link between compute die `c` and MSD `m` (R446). -/
def memLink (c m : Nat) : Nat := 2 * c + (m - dieMsd0)

/-- The links between the IOD and MSD `m` (R12). -/
def State.route (s : State) (m : Nat) : List Nat := [5 + s.viaDie m, memLink (s.viaDie m) m]

/-- Whether traffic between the IOD and MSD `m` moves. -/
def State.routeOpen (s : State) (m : Nat) : Bool := (s.route m).all s.linkOpen

/-- Whether the links between the MSDs and the compute dies that are online carry traffic: dirty sets, Canvas reads and spikes pass there (R28, R446). -/
def State.memOpen (s : State) : Bool :=
  (List.range 2).all fun d => s.dieOff d || (s.linkOpen (memLink d dieMsd0) && s.linkOpen (memLink d dieMsd1))

/-! ### Operation counters -/

/-- Live counter k of die d advanced by n, modulo 2^64 (R466). -/
def State.count (s : State) (d k n : Nat) : State :=
  { s with obs := { s.obs with opc := SMap.upd s.obs.opc 0 (d * 32 + k) fun v => (v + n) % 2 ^ 64 } }

/-- The live value of counter k of die d; die 5 is the sum over all dies (R466). -/
def State.opc (s : State) (d k : Nat) : Nat :=
  if d = 5 then ((List.range 5).map fun x => SMap.get s.obs.opc 0 (x * 32 + k)).sum % 2 ^ 64
  else SMap.get s.obs.opc 0 (d * 32 + k)

/-! ### Trace -/

/-- DBG_TRACE_STATE values (R489). -/
def traceIdle : Nat := 0
/-- ARMED. -/
def traceArmed : Nat := 1
/-- TRIGGERED. -/
def traceTriggered : Nat := 2
/-- FROZEN. -/
def traceFrozen : Nat := 3

/-- Whether the trace captures (R470). -/
def State.capturing (s : State) : Bool :=
  s.get R.dbgTraceStateState == traceArmed || s.get R.dbgTraceStateState == traceTriggered

/-- The trace facility replaced. -/
def State.setTrace (s : State) (t : TraceState) : State := { s with obs := { s.obs with trace := t } }

/-- Entries a die's FIFO holds beside the slot kept for a GAP entry (R475). -/
def fifoRoom : Nat := 4095

/-- A happening of source `source` on die `die` makes a trace entry, where the source is enabled and the trace captures (R473); a full FIFO drops it (R475). -/
def State.trace (s : State) (die source unit arg data : Nat) : State :=
  if s.capturing && bit s.obs.trace.sources source then
    let q := SMap.get s.obs.trace.fifo {} die
    if q.lost = 0 ∧ q.entries.length < fifoRoom then
      let q' := { q with entries := q.entries ++ [⟨s.now, source, die, unit, arg, data⟩] }
      s.setTrace { s.obs.trace with fifo := SMap.set s.obs.trace.fifo {} die q' }
    else
      let first := if q.lost = 0 then s.now else q.lostTime
      let q' := { q with lost := q.lost + 1, lostMask := setBit q.lostMask source true, lostTime := first }
      (s.inc R.cntTraceDrop).setTrace { s.obs.trace with fifo := SMap.set s.obs.trace.fifo {} die q' }
  else s

/-- Hardware trigger condition `k` of R474 comes to hold, where DBG_TRIG enables it. -/
def State.condition (s : State) (k : Nat) : State :=
  if bit (s.get R.dbgTrigMask) k then
    s.setTrace { s.obs.trace with conditions := setBit s.obs.trace.conditions k true }
  else s

/-- The capacity of the trace ring in entries (R471). -/
def TraceState.capacity (t : TraceState) : Nat := t.sizeMib * 32768

/-- An entry written to the trace ring, over the oldest where the ring is full (R475). -/
def State.traceWrite (s : State) (e : TraceEntry) : State :=
  let t := s.obs.trace
  let l := t.ring ++ [e]
  let l := l.drop (l.length - t.capacity)
  (((s.set R.dbgTraceWrCount (s.get R.dbgTraceWrCount + 1)).inc R.cntTraceEntry).setTrace { t with ring := l })

/-- An armed trace is triggered: the TRIGGER entry is written at the next index (R470). -/
def State.trigger (s : State) : State :=
  let i := s.get R.dbgTraceWrCount
  let s1 := (s.set R.dbgTraceTrigIndex i).traceWrite ⟨s.now, 30, dieIod, 0, 0, 0⟩
  let frozen := s.obs.trace.quota = 0
  (s1.set R.dbgTraceStateState (if frozen then traceFrozen else traceTriggered)).setTrace
    { s1.obs.trace with post := s.obs.trace.quota }

/-! ### Faults -/

/-- The error classes (R449). -/
inductive FaultClass where
  | corrected | contained | dieFatal | deviceFatal
  deriving DecidableEq, Repr

/-- CLASS of an ERROR_REPORT (R465). -/
def FaultClass.code : FaultClass → Nat
  | .corrected => 0 | .contained => 1 | .dieFatal => 2 | .deviceFatal => 3

/-- An ERROR_REPORT record (R465). [DESIGN CHOICE, log entry 141] -/
def errorReport (cls : FaultClass) (source die unit count time detail : Nat) : Rec :=
  { type := 0x0A,
    payload := leBytes cls.code 1 ++ leBytes source 1 ++ leBytes die 1 ++ [0] ++ leBytes unit 4 ++ leBytes count 4
      ++ leBytes time 8 ++ leBytes (tickOf time) 8 ++ leBytes detail 8 ++ [0, 0, 0, 0] }

/-- The ERROR_REPORT handed over to PF0's ring ERR_DEST.RING (R451). -/
def State.report (s : State) (r : Rec) : State := (s.inc R.cntReport).hand 0 (s.get R.errDestRing) r

/-- An error of class Contained or worse enters the lifetime records (R486). -/
def State.lifeError (s : State) (cls : FaultClass) (source die unit detail : Nat) : State :=
  let l := s.obs.life
  { s with obs := { s.obs with life := { l with
      uncorrTotal := (l.uncorrTotal + 1) % 2 ^ 32
      uncorr := SMap.put (l.uncorrTotal % 64) ⟨l.powerOn, cls.code, source, die, unit, detail, s.now⟩ l.uncorr } } }

/-- A lifetime copy is due (R487). -/
def State.copyDue (s : State) : State := { s with obs := { s.obs with lifeDue := true } }

/-- The report of a Corrected fault (R451): the first of each millisecond of a source and unit is reported, with the faults folded since the last report. -/
def State.reportCorrected (s : State) (source die unit detail : Nat) : State :=
  let key := source * 2 ^ 32 + unit
  let ms := s.now / 1000000
  match SMap.find? key s.err.folds with
  | none =>
    ({ s with err := { s.err with folds := SMap.put key ⟨ms, 0, 0, 0⟩ s.err.folds } }).report
      (errorReport .corrected source die unit 1 s.now detail)
  | some f =>
    if f.ms = ms then
      let f' : Fold := if f.count = 0 then ⟨ms, 1, s.now, detail⟩ else { f with count := f.count + 1 }
      { s with err := { s.err with folds := SMap.put key f' s.err.folds } }
    else
      let s1 := { s with err := { s.err with folds := SMap.put key ⟨ms, 0, 0, 0⟩ s.err.folds } }
      if f.count = 0 then s1.report (errorReport .corrected source die unit 1 s.now detail)
      else s1.report (errorReport .corrected source die unit (f.count + 1) f.first f.detail)

/-- A detected fault is counted, traced and reported (R449, R451, R473); what its class does beyond that is done where it is raised. [DESIGN CHOICE, log entry 141] -/
def State.fault (s : State) (cls : FaultClass) (source die unit detail : Nat) : State :=
  let s1 := s.trace die 4 unit source detail
  match cls with
  | .corrected =>
    (s1.setFlag R.errStatusCorrected true).when (s.flag R.errCtlReportEn && s.flag R.errCtlCorrReport)
      fun s => s.reportCorrected source die unit detail
  | .contained =>
    (((s1.setFlag R.errStatusContained true).condition 0).lifeError .contained source die unit detail).when
      (s.flag R.errCtlReportEn) fun s => s.report (errorReport .contained source die unit 1 s.now detail)
  | .dieFatal =>
    ((((s1.setFlag R.errStatusDieFatal true).condition 1).lifeError .dieFatal source die unit detail).copyDue).when
      (s.flag R.errCtlReportEn) fun s => s.report (errorReport .dieFatal source die unit 1 s.now detail)
  | .deviceFatal =>
    let s2 := ((s1.setFlag R.errStatusDeviceFatal true).condition 1).lifeError .deviceFatal source die unit detail |>.copyDue
    s2.when (!s.flag R.errFirstFatalValid) fun s =>
      ((s.set R.errFirstFatalSource source).set R.errFirstFatalDie die).setFlag R.errFirstFatalValid true

/-- A read of SRAM finds `e` (R439): a single-bit error is corrected, an uncorrectable one delivered with its poison tag. `mem` is the memory's place in ECC_CORR of the lifetime records (R486). -/
def State.eccRead (s : State) (e : Ecc) (die mem detail : Nat) : State :=
  match e with
  | .ok => s
  | .single =>
    let l := s.obs.life
    let s1 := { s with obs := { s.obs with life := { l with ecc := SMap.upd l.ecc 0 mem (· + 1) } } }
    (s1.inc R.cntEccCorr).fault .corrected 0x01 die mem detail
  | .uncorrectable => (s.inc R.cntEccUncorr).fault .contained 0x02 die mem detail

/-- The die of a memory: 0–63 core memories, 64–71 cluster memories, 72 and 73 the bolt stores (R520). -/
def dieOfMemory (m : Nat) : Nat := if m < 64 then dieOfCore m else if m < 68 then dieCd0 else if m < 72 then dieCd1 else dieMsd0 + (m - 72)

/-- The place of a memory in ECC_CORR of the lifetime records (R486). -/
def placeOfMemory (m : Nat) : Nat := if m < 64 then 2 * dieOfMemory m else if m < 72 then 2 * dieOfMemory m + 1 else 4 + (m - 72)

/-- What a command's reads find at word `w` (R439). -/
def hitOn (hits : List MemHit) (w : MemWord) : Ecc := ((hits.find? fun h => h.word == w).map (·.ecc)).getD .ok

/-- A read of LPDDR5X of MSD `m` at `addr` finds `e` (R443): nothing is detected while inline ECC is not in force. -/
def State.lpddrCheck (s : State) (e : Ecc) (m addr : Nat) : State :=
  if !s.flag R.mgtDdrEccOn then s else
  match e with
  | .ok => s
  | .single =>
    let l := s.obs.life
    let s1 := { s with obs := { s.obs with life := { l with ecc := SMap.upd l.ecc 0 (4 + m) (· + 1) } } }
    (s1.inc R.cntEccCorr).fault .corrected 0x05 m (4 + m) addr
  | .uncorrectable => (s.inc R.cntEccUncorr).fault .contained 0x06 m (4 + m) addr

/-- Whether a read of LPDDR5X delivers poison (R443). -/
def State.lpddrPoison (s : State) (e : Ecc) : Bool := e == .uncorrectable && s.flag R.mgtDdrEccOn

/-- A read of LPDDR5X content that is not duplicated finds `e`; which MSD's channels hold an address is open. [DESIGN CHOICE, log entry 155] -/
def State.lpddrRead (s : State) (e : Ecc) (addr : Nat) : State :=
  if e == .ok then s else (s.lpddrCheck e (dieMsd0 + s.freeValue % 2) addr).took 1

/-- The MSD from whose channels duplicated LPDDR5X content is read (R444): MSD0 while it is online. [DESIGN CHOICE, log entry 155] -/
def State.copyDie (s : State) : Nat := if s.dieOff dieMsd0 then dieMsd1 else dieMsd0

/-- A read of duplicated LPDDR5X content finds `e` (R443, R444). -/
def State.copyRead (s : State) (e : Ecc) : State := s.lpddrCheck e s.copyDie 0

/-- A read of the trace ring finds `e`: in LPDDR5X (R443), or in the bolt stores (R439), between which it is split; which MSD and which address is free. [DESIGN CHOICE, log entry 155] -/
def State.traceRead (s : State) (e : Ecc) : State :=
  if s.obs.trace.inLpddr then s.lpddrRead e 0
  else if e == .ok then s
  else let m := s.freeValue % 2; (s.eccRead e (dieMsd0 + m) (4 + m) (Config.free (s.free + 1) % 2 ^ 64)).took 2

/-- Whether a read of the trace ring delivers poison. -/
def State.tracePoison (s : State) (e : Ecc) : Bool := if s.obs.trace.inLpddr then s.lpddrPoison e else e == .uncorrectable

/-- The data of a record read with outcomes `es`, one for each record: the data behind the first `n` payload bytes are free where poison is delivered, and the record is marked (R453). -/
def State.readChunks (rd : State → Ecc → State) (bad : State → Ecc → Bool) (n : Nat) (s : State) : List Rec → List Ecc → State × List Rec
  | [], _ => (s, [])
  | r :: rs, es =>
    let e := es.headD .ok
    let t := rd s e
    let len := r.payload.length - n
    let x := if bad s e then (t.took len, { r with poison := true, payload := r.payload.take n ++ freeBytes t.free len }) else (t, r)
    let q := x.1.readChunks rd bad n rs es.tail
    (q.1, x.2 :: q.2)

/-- The trace holds nothing: ring, FIFOs, pending conditions. -/
def TraceState.cleared (t : TraceState) : TraceState := { t with fifo := [], ring := [], post := 0, conditions := 0, evt := [], spike := [] }

/-- A queue word fails its parity check (R436): delivered poisoned, counted, Contained. -/
def State.parityCheck (s : State) (bad : Bool) (die unit : Nat) : State :=
  s.when bad fun s => (s.inc R.cntParity).fault .contained 0x04 die unit 0

end Sys2Proof.Machine
end

