-- ==== Sys2Proof/Machine/Ingest.lean ====
section
/-! DEFINITION. Sensor ports and event ingest (R39–R75), with Mainstay's rebase estimators (R379–R381). -/

namespace Sys2Proof.Machine

/-- Port `p`. -/
def State.port (s : State) (p : Nat) : Port := SMap.get s.ing.port {} p

/-- Port `p` replaced. -/
def State.setPort (s : State) (p : Nat) (v : Port) : State :=
  { s with ing := { s.ing with port := SMap.set s.ing.port {} p v } }

/-- Whether port `p` is enabled (R75). -/
def State.portOn (s : State) (p : Nat) : Bool := bit (s.get R.ingCtlPortEn) p

/-! ### Links (R65, R66, R69, R74, R75) -/

/-- UP falls; a fall from 1 to 0 counts in CNT_LINKDOWN (R74). -/
def State.dropUp (s : State) (p : Nat) : State :=
  if s.flag (R.ingPortLinkUp p) then (s.setFlag (R.ingPortLinkUp p) false).inc (R.ingCntLinkdown p) else s

/-- A training of port `p` begins (R46, R74). -/
def State.train (s : State) (p fails : Nat) : State :=
  let s1 := s.dropUp p
  s1.setPort p { s1.port p with tb := none, trained := false, training := true, fails := fails, capWait := false }

/-- ING_STATUS.RUN_WRITE set (R75). -/
def State.ingRunWrite (s : State) : State := s.setFlag R.ingStatusRunWrite true

/-- Bit p of PORT_EN goes from 0 to 1 (R46, R75, R380): training starts, time base and triple are invalid. -/
def State.enablePort (s : State) (p : Nat) : State :=
  let s1 := (s.set R.ingCtlPortEn (setBit (s.get R.ingCtlPortEn) p true)).setFlag (R.ingPortRbCtlValid p) false
  let s2 := s1.train p 0
  s2.setPort p { s2.port p with first := .training }

/-- Bit p of PORT_EN goes from 1 to 0 (R75): link and reception stop; decoded events stay. -/
def State.disablePort (s : State) (p : Nat) : State :=
  let s1 := (s.set R.ingCtlPortEn (setBit (s.get R.ingCtlPortEn) p false)).dropUp p
  s1.setPort p { s1.port p with trained := false, training := false, capWait := false, first := .idle }

/-- PORT_EN bit p written as `on`: only a change acts. -/
def State.writePortBit (s : State) (p : Nat) (on : Bool) : State :=
  if s.portOn p = on then s else if on then s.enablePort p else s.disablePort p

/-- PORT_ENABLE. -/
def execPortEnable (p : Fin 8) (s : State) : Host.Outcome State Fault Refusal :=
  .next (s.bus (.write 0 false 0x400000 4 (setBit (s.get R.ingCtlPortEn) p true)) fun s =>
    if s.stopped then s.writePortBit p true else s.ingRunWrite)

/-- PORT_DISABLE. -/
def execPortDisable (p : Fin 8) (s : State) : Host.Outcome State Fault Refusal :=
  .next (s.bus (.write 0 false 0x400000 4 (setBit (s.get R.ingCtlPortEn) p false)) fun s =>
    if s.stopped then s.writePortBit p false else s.ingRunWrite)

/-- A write of ING_PORTn_CFG (R73–R75): outside STOPPED only RETRAIN acts, and a changed field sets RUN_WRITE. RETRAIN of a disabled port has no link to retrain. [DESIGN CHOICE, log entry 151] -/
def State.writePortCfg (s : State) (p v : Nat) : State :=
  let s1 :=
    if s.stopped then
      (((s.set (R.ingPortCfgGearMax p) (bits v 0 3)).set (R.ingPortCfgVc p) (bits v 3 4)).set (R.ingPortCfgShed p) (bits v 7 1)).set
        (R.ingPortCfgCoaxClass p) (bits v 8 2)
    else
      let same := bits v 0 3 == s.get (R.ingPortCfgGearMax p) && bits v 3 4 == s.get (R.ingPortCfgVc p)
        && bits v 7 1 == s.get (R.ingPortCfgShed p) && bits v 8 2 == s.get (R.ingPortCfgCoaxClass p)
      s.when (!same) (·.ingRunWrite)
  if bit v 10 && s.portOn p then s1.train p 0 else s1

/-- RETRAIN. -/
def execRetrain (p : Fin 8) (v : Word) (s : State) : Host.Outcome State Fault Refusal :=
  .next (s.bus (.write 0 false (0x401000 + 0x100 * p) 4 v.toNat) fun s => s.writePortCfg p v.toNat)

/-- COEF and CONN of a coax class (R66). -/
def coaxCoef (c : Nat) : Fld × Fld :=
  match c with
  | 0 => (R.ingCoaxCoef0Coef, R.ingCoaxCoef0Conn)
  | 1 => (R.ingCoaxCoef1Coef, R.ingCoaxCoef1Conn)
  | 2 => (R.ingCoaxCoef2Coef, R.ingCoaxCoef2Conn)
  | _ => (R.ingCoaxCoef3Coef, R.ingCoaxCoef3Conn)

/-- LEN_CM (R66): LOSS and CONN in 0.1 dB, COEF in 0.01 dB/m, so 100 × (LOSS − CONN) / COEF is 1,000 × the difference of the fields over COEF. -/
def lenCm (loss coef conn : Nat) : Nat := if coef = 0 then 0 else min 16383 (1000 * (loss - conn) / coef)

/-- GEAR_MAX as it acts (R73): 0, 6 and 7 act as 5. -/
def gearMax (v : Nat) : Nat := if v = 0 ∨ 5 < v then 5 else v

/-- The loss measured during a training, and the length it gives at that moment (R65, R66). [DESIGN CHOICE, log entry 151] -/
def State.measureLoss (s : State) (p loss : Nat) : State :=
  let c := coaxCoef (s.get (R.ingPortCfgCoaxClass p))
  let l := min 1023 loss
  (s.set (R.ingPortLinkLoss p) l).set (R.ingPortLinkLenCm p) (lenCm l (s.get c.1) (s.get c.2))

/-- A training of port `p` ends (R65, R66, R74): the loss is reported whether it succeeds or fails. LEN_CM is formed here and not again when COEF, CONN or COAX_CLASS are rewritten. [DEDUCED, log entry 56; DESIGN CHOICE, log entry 151] -/
def State.trainingEnds (s : State) (p : Nat) (ok : Bool) (gear loss : Nat) : State :=
  let v := s.port p
  if !v.training then s
  else if ok then
    let first := match v.first with | .training => .packet | x => x
    ((s.measureLoss p loss).set (R.ingPortLinkGear p) (max 1 (min gear (gearMax (s.get (R.ingPortCfgGearMax p)))))).setPort p
      { v with training := false, trained := true, fails := 0, capWait := true, tb := none, first := first }
  else
    (s.measureLoss p loss).setPort p { v with training := decide (v.fails + 1 < 3), fails := v.fails + 1 }

/-- LINK_TRAINING. -/
def execLinkTraining (p : Fin 8) (ok : Bool) (gear loss : Nat) (s : State) : Host.Outcome State Fault Refusal :=
  .next (s.clocked (s.trainingEnds p ok gear loss))

/-- A training that set UP enters the lifetime records (R486). -/
def State.lifeCable (s : State) (p : Nat) : State :=
  let l := s.obs.life
  let n := SMap.get l.cableNext 0 p
  let c : LifeCable := ⟨s.get (R.ingPortLinkLoss p), s.get (R.ingPortLinkLenCm p), s.get (R.ingPortCfgCoaxClass p), l.powerOn / 3600⟩
  { s with obs := { s.obs with life := { l with cable := SMap.put (p * 16 + n) c l.cable, cableNext := SMap.set l.cableNext 0 p ((n + 1) % 16) } } }

/-- The capability read after a training ends (R69): UP is set; CAP0–CAP3 and CAP_VALID as the read gave; a read that is disabled or not acknowledged leaves CAP0–CAP3 as they were. [DESIGN CHOICE, log entry 151] -/
def State.capabilityRead (s : State) (p : Nat) (ack : Bool) (data : List Byte) : State :=
  let v := s.port p
  if !v.capWait then s else
  let got := s.flag (R.ingPortCapCfgEn p) && ack
  let valid := got && leAt data 11 1 == 0x01
  let s1 := s.when got fun s => s.each (List.range 4) fun s i => s.set (R.ingPortCapCap p i) (leAt data (4 * i) 4)
  (((s1.setFlag (R.ingPortLinkCapValid p) valid).setFlag (R.ingPortLinkUp p) true).setPort p { v with capWait := false }).lifeCable p

/-- CAPABILITY_READ. -/
def execCapabilityRead (p : Fin 8) (ack : Bool) (data : List Byte) (s : State) : Host.Outcome State Fault Refusal :=
  .next (s.clocked (s.capabilityRead p ack data))

/-- LINK_LOSS (R74): the port retrains by itself. -/
def execLinkLoss (p : Fin 8) (s : State) : Host.Outcome State Fault Refusal :=
  .next (s.clocked (if (s.port p).trained then s.train p 0 else s))

/-! ### CCI (R70) -/

/-- A write of ING_PORTn_CCI_CTL: GO starts a transaction unless one is busy; while BUSY a write of GO = 1 has no effect, and any other write acts from the next transaction (R70, R75). -/
def State.writeCci (s : State) (p v : Nat) : State :=
  let go := bit v 30
  if go && s.flag (R.ingPortCciCtlBusy p) then s
  else
    ((((((s.set (R.ingPortCciCtlDev p) (bits v 0 7)).set (R.ingPortCciCtlRead p) (bits v 7 1)).set (R.ingPortCciCtlReg p) (bits v 8 16)).set
      (R.ingPortCciCtlLenM1 p) (bits v 24 2)).set (R.ingPortCciCtlReg16 p) (bits v 26 1)).when go
        fun s => (s.setFlag (R.ingPortCciCtlBusy p) true).setPort p { s.port p with cciRead := bit v 7, cciLen := bits v 24 2 })

/-- The address of ING_PORTn_CCI_CTL (R73). -/
def portCciAddr (p : Nat) : Nat := (R.ingPortCciCtlDev p).addr

/-- CCI_GO. -/
def execCciGo (p : Fin 8) (v : Word) (s : State) : Host.Outcome State Fault Refusal :=
  .next (s.bus (.write 0 false (portCciAddr p) 4 v.toNat) fun s => s.writeCci p v.toNat)

/-- CCI_TRANSACTION_END (R70): after an acknowledged read CCI_DATA holds its bytes, with 0 above them; after any other transaction it keeps its value. [DESIGN CHOICE, log entry 151] -/
def execCciTransactionEnd (p : Fin 8) (nack : Bool) (data : Word) (s : State) : Host.Outcome State Fault Refusal :=
  .next (s.clocked (if s.flag (R.ingPortCciCtlBusy p) then
      ((s.setFlag (R.ingPortCciCtlBusy p) false).setFlag (R.ingPortCciCtlNack p) nack).when ((s.port p).cciRead && !nack)
        fun s => s.set (R.ingPortCciDataData p) (data.toNat % 2 ^ (8 * ((s.port p).cciLen + 1)))
    else s))

/-! ### Camera feed current (R67, R68) -/

/-- CAMERA_CURRENT_SAMPLE: the mean is over the last 16 codes, a free value while fewer have come (R67, R68). [DESIGN CHOICE, log entry 17] -/
def execCameraCurrentSample (p : Fin 8) (code : BitVec 12) (s : State) : Host.Outcome State Fault Refusal :=
  .next (s.clocked (
    let v := s.port p
    let l := v.codes ++ [code.toNat]
    let l := l.drop (l.length - 16)
    let ma := if l.length = 16 then l.sum * s.get (R.ingPortIsnsCfgScaleUa p) / (16 * 1000) else s.freeValue % 2 ^ 16
    let hiLim := s.get (R.ingPortIsnsCfgOver10ma p)
    let loLim := s.get (R.ingPortIsnsCfgUnder10ma p)
    ((((s.took (if l.length = 16 then 0 else 1)).setPort p { v with codes := l }).set (R.ingPortIsnsCurMa p) ma).when
      (s.portOn p && hiLim != 0 && decide (10 * hiLim < ma)) fun s => s.setFlag (R.ingPortIsnsOver p) true).when
      (s.portOn p && loLim != 0 && decide (ma < 10 * loLim)) fun s => s.setFlag (R.ingPortIsnsUnder p) true))

/-! ### Packets (R39–R50, R60–R64, R71, R72) -/

/-- The event layouts. -/
inductive Layout where
  | ae64 | vg32 | ct32
  deriving DecidableEq, Repr

/-- The layout that data type `dt` maps to on port `p` (R40, R41): AE64 before VG32 before CT32; a type outside 0x30–0x37 disables its layout. -/
def State.layoutOf (s : State) (p dt : Nat) : Option Layout :=
  if !(decide (0x30 ≤ dt) && decide (dt ≤ 0x37)) then none
  else if s.flag (R.ingPortDtEnAe64 p) && s.get (R.ingPortDtDtAe64 p) == dt then some .ae64
  else if s.flag (R.ingPortDtEnVg32 p) && s.get (R.ingPortDtDtVg32 p) == dt then some .vg32
  else if s.flag (R.ingPortDtEnCt32 p) && s.get (R.ingPortDtDtCt32 p) == dt then some .ct32
  else none

/-- Bytes of burst buffer that one decoded event takes (log entry 15). [DEDUCED, log entry 15] -/
def eventBytes : Nat := 8

/-- Burst buffer of a port (R60). -/
def burstBytes : Nat := 4 * 2 ^ 20

/-- HWM in bytes (R61, R73). -/
def State.hwm (s : State) (p : Nat) : Nat := s.getIn (R.ingPortWmHwm p) 1 63

/-- LWM in 64 KiB units: a value of HWM or more acts as HWM − 1. -/
def State.lwm (s : State) (p : Nat) : Nat :=
  if s.hwm p ≤ s.get (R.ingPortWmLwm p) then s.hwm p - 1 else s.get (R.ingPortWmLwm p)

/-- Whether port `p` is SHEDDING. -/
def State.shedding (s : State) (p : Nat) : Bool := s.flag (R.ingPortBufShedding p)

/-- Occupancy of the burst buffer in bytes. -/
def State.occupancy (s : State) (p : Nat) : Nat := eventBytes * (s.port p).queue.length

/-- The water marks of R61 and ING_PORTn_BUF.OCC after the occupancy changed. -/
def State.waterMarks (s : State) (p : Nat) : State :=
  let occ := s.occupancy p
  let s1 := s.set (R.ingPortBufOcc p) (occ / 256)
  if !s.shedding p && decide (s.hwm p * 65536 < occ) then (s1.setFlag (R.ingPortBufShedding p) true).condition 3
  else if s.shedding p && decide (occ ≤ s.lwm p * 65536) then s1.setFlag (R.ingPortBufShedding p) false
  else s1

/-! ### The rebase stage: tests (R28, R51–R59) -/

/-- The device time of a sensor stamp under a triple (R51), ns. -/
def rebase (anchor ofs rate stamp : Nat) : Int :=
  (ofs : Int) + floorDiv (wrapDiff 32 stamp anchor * (rate : Int)) (2 ^ 32)

/-- Device time of stamp `S` on port `p` (R51). -/
def State.rebased (s : State) (p stamp : Nat) : Int :=
  rebase (s.get (R.ingPortRbAnchorAnchor p)) (s.get (R.ingPortRbOfsOfs p)) (s.get (R.ingPortRbRateRate p)) stamp

/-- The surface engine of a pixel (R28). -/
def engineOf (x y : Nat) : Nat := x / 8 % 4 + 4 * (y / 8 % 2)

/-- The internal event word (R57), with the poison tag of its queue word at bit 64 (R436). -/
def eventWord (t : Int) (e : Event) (p : Nat) (coal late : Bool) : Nat :=
  ofInt 24 (floorDiv t 1000) + 2 ^ 24 * (e.x % 2048) + 2 ^ 35 * (e.y % 2048) + 2 ^ 46 * b2n e.pol + 2 ^ 47 * p
    + 2 ^ 50 * b2n coal + 2 ^ 51 * b2n late + 2 ^ 64 * b2n e.poison

/-- What the rebase stage does with a head event (R53–R56, R59). -/
inductive HeadCase where
  /-- Discarded, counted in this field. -/
  | discard (cnt : Fld)
  /-- Held under R56. -/
  | held
  /-- Its engine's pool holds no credit (R59), or its region is being initialised (R522). -/
  | noCredit
  /-- Accepted with device time `t`; whether t was clamped (R55). -/
  | accept (t : Int) (clamp : Bool)
  deriving DecidableEq, Repr

/-- Event words on their way to engine `e`. -/
def State.words (s : State) (e : Nat) : List Nat := SMap.get s.ing.words [] e

/-- The boundary T of the FULL hold in force (R53, R353): from the instant T on, whether or not its boundary's command has run. [DEDUCED, log entry 55] -/
def State.holdT (s : State) : Option Nat :=
  match s.ctl.hold with
  | some T => some T
  | none => match s.ctl.holdAt with | some T => if s.reached (T * tickNs) then some T else none | none => none

/-- The tests of R53 in the order of R54. [DEDUCED, log entry 55] -/
def State.headCase (s : State) (p : Nat) (e : Event) : HeadCase :=
  if !s.flag (R.ingPortRbCtlValid p) then .discard (R.ingCntStale p) else
  let t := s.rebased p e.stamp
  let held := match s.holdT with | some T => decide ((T * tickNs : Int) ≤ t) | none => false
  if held then .held
  else if t < (s.now : Int) - (s.getIn (R.ingPortLimitAgeMs p) 1 4000 * 1000000 : Nat) then .discard (R.ingCntStale p)
  else if (s.now : Int) + (min (s.get (R.ingPortLimitLeadUs p)) 1000 * 1000 : Nat) < t then .discard (R.ingCntFuture p)
  else if bit s.cv.inits p then .noCredit
  else if s.ing.pool ≤ (s.words (engineOf e.x e.y)).length then .noCredit
  else if (s.now : Int) < t then .accept (s.now : Int) true
  else .accept t false

/-- Whether the rebase stage works: not while the Canvas is being marked STALE (R362), a boundary mark is late (R447), or the device is halted (R456) or asleep. -/
def State.rebases (s : State) : Bool := !(s.ctl.staleMark || s.ctl.lateMark.isSome || s.halted || !s.awake)

/-- The head event of port `p`: the path is older than the burst buffer (R60). -/
def Port.head? (v : Port) : Option Event :=
  match v.path with
  | e :: _ => some e
  | [] => v.queue.head?

/-- ING_PORTn_BUF.HELD: the port's head is held under R56 at this moment. -/
def State.heldHead (s : State) (p : Nat) : Bool :=
  match (s.port p).head? with
  | some e => s.headCase p e == .held
  | none => false

/-- Whether the rebase stage can take event `e` of port `p` (R59): it is accepted, or discarded under R54. -/
def HeadCase.taken : HeadCase → Bool
  | .discard _ | .accept .. => true
  | .held | .noCredit => false

/-! ### Decoding (R42–R50, R60–R63) -/

/-- Whether a decoded event goes straight to the rebase stage (R60): the burst buffer is empty, one of the port's two slots of the cycle is left, and the stage can take the event. [DEDUCED, log entry 152] -/
def State.direct (s : State) (p : Nat) (e : Event) : Bool :=
  let v := s.port p
  v.queue.isEmpty && decide (v.path.length < 2) && s.rebases && (s.headCase p e).taken

/-- Event `e` enters the burst buffer, or is lost where it is full (R61). -/
def State.buffer (s : State) (p : Nat) (e : Event) : State :=
  if burstBytes < s.occupancy p + eventBytes then
    ((s.inc (if s.heldHead p then R.ingCntHoldDrop p else R.ingCntOvf p)).count dieIod 18 1).condition 3
  else (s.setPort p { s.port p with queue := (s.port p).queue ++ [e] }).waterMarks p

/-- One decoded event with a stamp (R49, R60, R61, R63): counted in CNT_IN, then out of range, shed, passed on, or buffered. -/
def State.decoded (s : State) (p : Nat) (e : Event) : State :=
  let s := s.inc (R.ingCntIn p)
  if s.get (R.ingPortGeomWidthM1 p) < e.x ∨ s.getIn (R.ingPortGeomHeightM1 p) 0 1535 < e.y then s.inc (R.ingCntRange p)
  else if s.offline dieMsd0 || s.offline dieMsd1 then (s.inc (R.ingCntDieDrop p)).inc R.cntDieDiscard
  else if s.shedding p && s.flag (R.ingPortCfgShed p) then ((s.inc (R.ingCntShed p)).count dieIod 18 1).condition 3
  else if s.direct p e then s.setPort p { s.port p with path := (s.port p).path ++ [e] }
  else s.buffer p e

/-- The 64-bit words of an AE64 payload (R42); a partial word counts as a layout error (R48). -/
def State.decodeAe64 (s : State) (p : Nat) (pl : List Byte) : State :=
  let n := pl.length / 8
  let s1 := s.each (List.range n) fun s i =>
    let w := leAt pl (8 * i) 8
    let tag := bits w 56 8
    if tag = 0xAE then s.decoded p ⟨bits w 0 32, bits w 32 11, bits w 43 11, bit w 54, false⟩
    else if tag = 0x00 then s
    else s.inc (R.ingCntLayout p)
  s1.when (pl.length % 8 != 0) fun s => s.inc (R.ingCntLayout p)

/-- What a 32-bit word of a VG32 or CT32 payload is (R43). -/
inductive Word32 where
  | event (pol : Bool) (x y toff : Nat)
  | marker (tb : Nat)
  | padding
  | error
  deriving DecidableEq, Repr

/-- The coding of R43. -/
def word32 (w : Nat) : Word32 :=
  if w = 0xFFFFFFFF then .padding
  else if !bit w 0 then .event (bit w 1) (bits w 2 11) (bits w 13 11) (bits w 24 6)
  else if bits w 1 3 = 0 then .marker (bits w 4 28)
  else .error

/-- The stamp of a CT32 event or VG32 group (R45). -/
def stamp32 (tb toff : Nat) : Nat := (tb * 16 + toff) % 2 ^ 32

/-- Events at (x, y), one for each x of `xs`, under the time base (R45, R47). -/
def State.based (s : State) (p : Nat) (pol : Bool) (xs : List Nat) (y toff : Nat) : State :=
  match (s.port p).tb with
  | none => s.add (R.ingCntNobase p) xs.length
  | some tb => s.each xs fun s x => s.decoded p ⟨stamp32 tb toff, x, y, pol, false⟩

/-- A time-base marker (R45, R46). -/
def State.marker (s : State) (p tb : Nat) : State := s.setPort p { s.port p with tb := some tb }

/-- The words of a CT32 payload (R43, R47, R48). -/
def State.decodeCt32 (s : State) (p : Nat) : List Nat → State
  | [] => s
  | w :: ws =>
    match word32 w with
    | .event pol x y toff => (s.based p pol [x] y toff).decodeCt32 p ws
    | .marker tb => (s.marker p tb).decodeCt32 p ws
    | .padding => s.decodeCt32 p ws
    | .error => (s.inc (R.ingCntLayout p)).decodeCt32 p ws

/-- The columns of a mask word, lowest bit first (R44). -/
def maskCols (base mask : Nat) : List Nat := ((List.range 32).filter fun i => bit mask i).map (base + ·)

/-- The words of a VG32 payload (R43, R44, R47, R48): a head word takes the next word as its mask; a head that ends the payload is one layout error. -/
def State.decodeVg32 (s : State) (p : Nat) : List Nat → State
  | [] => s
  | [w] =>
    match word32 w with
    | .event .. | .error => s.inc (R.ingCntLayout p)
    | .marker tb => s.marker p tb
    | .padding => s
  | w :: m :: ws =>
    match word32 w with
    | .event pol x y toff => (s.based p pol (maskCols x m) y toff).decodeVg32 p ws
    | .marker tb => (s.marker p tb).decodeVg32 p (m :: ws)
    | .padding => s.decodeVg32 p (m :: ws)
    | .error => (s.inc (R.ingCntLayout p)).decodeVg32 p (m :: ws)

/-- The whole 32-bit words of a payload. -/
def words32 (pl : List Byte) : List Nat := (List.range (pl.length / 4)).map fun i => leAt pl (4 * i) 4

/-- The stamp of the last event that a CT32 payload codes: `tb` the time base so far, `acc` the stamp so far. -/
def newestCt32 (tb acc : Option Nat) : List Nat → Option Nat
  | [] => acc
  | w :: ws =>
    match word32 w with
    | .event _ _ _ toff => newestCt32 tb ((tb.map fun t => stamp32 t toff).orElse fun _ => acc) ws
    | .marker t => newestCt32 (some t) acc ws
    | .padding | .error => newestCt32 tb acc ws

/-- The stamp of the last event that a VG32 payload codes: a head without a mask, or with a mask of 0, codes none (R44, R48). -/
def newestVg32 (tb acc : Option Nat) : List Nat → Option Nat
  | [] => acc
  | [_] => acc
  | w :: m :: ws =>
    match word32 w with
    | .event _ _ _ toff => newestVg32 tb (if m = 0 then acc else (tb.map fun t => stamp32 t toff).orElse fun _ => acc) ws
    | .marker t => newestVg32 (some t) acc (m :: ws)
    | .padding | .error => newestVg32 tb acc (m :: ws)

/-- The stamp of a packet's newest event (R379): the last event that the payload codes. -/
def newestStamp (l : Layout) (tb : Option Nat) (pl : List Byte) : Option Nat :=
  match l with
  | .ae64 =>
    ((List.range (pl.length / 8)).map fun i => leAt pl (8 * i) 8).foldl
      (fun acc w => if bits w 56 8 = 0xAE then some (bits w 0 32) else acc) none
  | .vg32 => newestVg32 tb none (words32 pl)
  | .ct32 => newestCt32 tb none (words32 pl)

/-- Mainstay's estimator of port `p`. -/
def State.rb (s : State) (p : Nat) : Rebaser := SMap.get s.time.rb {} p

/-- The estimator replaced. -/
def State.setRb (s : State) (p : Nat) (v : Rebaser) : State :=
  { s with time := { s.time with rb := SMap.set s.time.rb {} p v } }

/-- The pair (S, t) of a packet whose CRC checked and whose last byte came at `last` (R379, R380): each 10 ms bin keeps the pair whose t lies earliest relative to the current line. [DESIGN CHOICE, log entry 57] -/
def State.takePair (s : State) (p stamp last : Nat) : State :=
  let t := last - s.get (R.timRbCfgLatNs p)
  let pr : StampPair := ⟨stamp, t⟩
  let v := s.port p
  let s1 := match v.first with | .packet => s.setPort p { v with first := .pair pr } | _ => s
  let r := s1.rb p
  let b := t / 10000000
  let keep := match SMap.find? b r.bins with
    | none => true
    | some o => decide ((t : Int) - s.rebased p stamp < (o.t : Int) - s.rebased p o.s)
  if keep then s1.setRb p { r with bins := SMap.put b pr r.bins } else s1

/-- A packet with a mapped data type, its last byte come at `last`, is checked and decoded (R39, R46). -/
def State.packet (s : State) (p : Nat) (l : Layout) (k : Packet) (last : Nat) : State :=
  if !k.crcOk then
    (s.inc (R.ingCntCrc p)).when (l != .ae64) fun s => s.setPort p { s.port p with tb := none }
  else
    let s1 := match newestStamp l (s.port p).tb k.payload with | some x => s.takePair p x last | none => s
    match l with
    | .ae64 => s1.decodeAe64 p k.payload
    | .vg32 => (s1.decodeVg32 p (words32 k.payload)).when (k.payload.length % 4 != 0) fun s => s.inc (R.ingCntLayout p)
    | .ct32 => (s1.decodeCt32 p (words32 k.payload)).when (k.payload.length % 4 != 0) fun s => s.inc (R.ingCntLayout p)

/-- TEST service mode (R71, R461). -/
def State.testMode (s : State) : Bool := s.get R.hifSvcMode == 2

/-- A packet whose virtual channel or data type the port does not take (R40); a failing payload CRC counts too, since it is checked on every long packet (R39). [DEDUCED, log entry 153] -/
def State.unmapped (s : State) (p : Nat) (k : Packet) : State :=
  (s.inc (R.ingCntUnmapped p)).when (!k.crcOk) fun s => s.inc (R.ingCntCrc p)

/-- A held packet is delivered (R72). -/
def State.deliverHeld (s : State) (p : Nat) (h : Packet) (last : Nat) : State :=
  match s.layoutOf p h.dt with
  | some l => s.packet p l h last
  | none => s.unmapped p h

/-- A packet with a mapped data type passes an armed injection (R72); one whose own CRC fails is among those that the port would otherwise decode. [DESIGN CHOICE, log entry 151] -/
def State.inject (s : State) (p : Nat) (l : Layout) (k : Packet) (last : Nat) : State :=
  let v := s.port p
  let mode := s.get (R.ingPortFiMode p)
  let rep := s.flag (R.ingPortFiRepeat p)
  match v.fiHeld with
  | some h =>
    ((s.setPort p { v with fiHeld := none, fiCount := v.fiCount + 1 }).packet p l k last).deliverHeld p h v.fiLast
  | none =>
    if !s.testMode || mode = 0 then s.packet p l k last
    else if rep && decide (v.fiCount + 1 < max 1 (s.get (R.ingPortFiInterval p))) then
      (s.setPort p { v with fiCount := v.fiCount + 1 }).packet p l k last
    else
      let s1 := (s.setPort p { v with fiCount := 0 }).when (!rep) fun s => s.set (R.ingPortFiMode p) 0
      if mode = 1 then s1
      else if mode = 2 then s1.packet p l { k with crcOk := false } last
      else s1.setPort p { v with fiCount := 0, fiHeld := some k, fiLast := last }

/-- A long packet whose last byte came at `last` reaches port `p`'s decoder (R39, R40, R46). -/
def State.longPacket (s : State) (p : Nat) (k : Packet) (last : Nat) : State :=
  if !(s.port p).trained || s.halted then s
  else if !k.hdrOk then (s.inc (R.ingCntCrc p)).setPort p { s.port p with tb := none }
  else if k.vc ≠ s.get (R.ingPortCfgVc p) then s.unmapped p k
  else match s.layoutOf p k.dt with
    | none => s.unmapped p k
    | some l => s.inject p l k last

/-- LONG_PACKET: one that arrives in REEF1, its entry or its exit waits in the port FIFO (R418); a link that rests delivers none. -/
def execLongPacket (p : Fin 8) (pkt : Packet) (s : State) : Host.Outcome State Fault Refusal :=
  .next (match s.phase with
    | .sail => s.touch.longPacket p pkt s.now
    | .reef 1 => (s.wake (.port p)).hold (.packet p pkt s.now)
    | .entering 1 _ _ => (s.wake (.port p)).hold (.packet p pkt s.now)
    | .exiting 1 _ _ => s.hold (.packet p pkt s.now)
    | _ => s)

/-- A write of ING_PORTn_FI (R71, R72): in TEST mode only; MODE = 0 delivers a packet held under SWAP, and a write of MODE restarts the count. [DESIGN CHOICE, log entry 39] -/
def State.writeFi (s : State) (p v : Nat) : State :=
  if !s.testMode then s else
  let q := s.port p
  let s1 := ((s.set (R.ingPortFiMode p) (bits v 0 2)).set (R.ingPortFiRepeat p) (bits v 2 1)).set (R.ingPortFiInterval p) (bits v 8 8)
  let s2 := s1.setPort p { q with fiCount := 0, fiHeld := if bits v 0 2 = 0 then none else q.fiHeld }
  match q.fiHeld with
  | some h => if bits v 0 2 = 0 then s2.deliverHeld p h q.fiLast else s2
  | none => s2

/-! ### The rebase stage: cycles (R55–R59) -/

/-- The head of port `p` leaves its path or its buffer. -/
def State.popHead (s : State) (p : Nat) : State :=
  let v := s.port p
  match v.path with
  | _ :: es => s.setPort p { v with path := es }
  | [] => (s.setPort p { v with queue := v.queue.tail }).waterMarks p

/-- An accepted event passes the ingest commit point (R55, R57, R58). -/
def State.commit (s : State) (p : Nat) (e : Event) (t : Int) (clamp : Bool) : State :=
  let late := decide (t < (s.tick * tickNs : Nat))
  let coal := s.shedding p && !s.flag (R.ingPortCfgShed p)
  let g := engineOf e.x e.y
  let w := eventWord t e p coal late
  let s1 := (((s.inc (R.ingCntCommit p)).when clamp fun s => s.inc (R.ingCntClamp p)).when late fun s => s.inc (R.ingCntLate p))
  { s1.touch with ing := { s1.ing with words := SMap.set s1.ing.words [] g (s1.words g ++ [w]) } }

/-- One head of port `p` in a rebase cycle: the state, and whether a head was taken (R59); `bad` where the head's queue word fails its parity check, which poisons it (R436). -/
def State.takeHead (s : State) (p : Nat) (bad : Bool) : State × Bool :=
  match (s.port p).head? with
  | none => (s, false)
  | some e =>
    match s.headCase p e with
    | .discard c => (((s.parityCheck bad dieIod p).inc c).popHead p, true)
    | .held | .noCredit => (s, false)
    | .accept t clamp => (((s.parityCheck bad dieIod p).commit p { e with poison := e.poison || bad } t clamp).popHead p, true)

/-- Ports in turn, each offering one head, until the slots of the cycle are used (R59); the next cycle begins at the port after the last one that gave a head. `bad` names the ports whose queue words fail their parity check. [DESIGN CHOICE, log entry 54] -/
def State.serve (s : State) (bad slots : Nat) : List Nat → State × Nat
  | [] => (s, slots)
  | p :: ps =>
    if slots = 0 then (s, 0) else
    let r := s.takeHead p (bit bad p)
    (if r.2 then { r.1 with ing := { r.1.ing with rr := (p + 1) % 8 } } else r.1).serve bad (if r.2 then slots - 1 else slots) ps

/-- The eight ports in round-robin order from `r`. [DESIGN CHOICE, log entry 54] -/
def robin (r : Nat) : List Nat := (List.range 8).map fun i => (r + i) % 8

/-- What the cycle has not taken from the path of port `p` enters its burst buffer, where it is the oldest (R60). -/
def State.settlePath (s : State) (p : Nat) : State :=
  let v := s.port p
  if v.path.isEmpty then s else (s.setPort p { v with path := [], queue := v.path ++ v.queue }).waterMarks p

/-- One IOD cycle of the rebase stage (R59): two rounds over the ports, twelve heads in all. Events wait while the Canvas is being marked STALE (R362) and after a Device-fatal halt (R456). [DESIGN CHOICE, log entry 54] -/
def State.rebaseCycle (s : State) (bad : Nat) : State :=
  if !s.rebases then s else
  let order := robin s.ing.rr
  ((s.serve bad 12 (order ++ order)).1).each (List.range 8) State.settlePath

/-- REBASE_CYCLE. -/
def execRebaseCycle (bad : Nat) (s : State) : Host.Outcome State Fault Refusal := .next (s.rebaseCycle bad)

/-! ### Rebase triples (R52, R379–R381) -/

/-- A triple is committed (R52). [DESIGN CHOICE, log entry 57] -/
def State.commitTriple (s : State) (p anchor ofs rate : Nat) : State :=
  (((s.set (R.ingPortRbAnchorAnchor p) anchor).set (R.ingPortRbOfsOfs p) ofs).set (R.ingPortRbRateRate p) rate).setFlag
    (R.ingPortRbCtlValid p) true

/-- The largest absolute residual of the pairs about a line (R381), ns. -/
def spread (anchor ofs rate : Nat) (l : List StampPair) : Nat :=
  l.foldl (fun m x => max m ((x.t : Int) - rebase anchor ofs rate x.s).natAbs) 0

/-- PPM of R381: the rate's deviation from 1,000 ns/µs in units of 0.01 ppm; held in 14 signed bits. -/
def ratePpm (rate : Nat) : Int :=
  clampInt (-8192) 8191 (floorDiv (((rate : Int) - 1000 * 2 ^ 32) * 100000000) (1000 * 2 ^ 32))

/-- The kept pairs of the last 1 s by bin (R379). -/
def State.lastBins (s : State) (p : Nat) : SMap StampPair := (s.rb p).bins.filter fun b => decide (s.now / 10000000 < b.1 + 100)

/-- A line commits as the new triple, with its quality over the kept pairs (R379, R381). [DESIGN CHOICE, log entry 57] -/
def State.commitLine (s : State) (p anchor ofs rate : Nat) (bins : SMap StampPair) : State :=
  let sp := spread anchor ofs rate (bins.map (·.2))
  let locked := decide (50 ≤ bins.length) && decide (sp ≤ s.get (R.timRbCfgLockNs p))
  ((((s.commitTriple p anchor ofs rate).set (R.timRbQualSpreadNs p) (min 65535 sp)).setInt (R.timRbQualPpm p) (ratePpm rate)).setFlag
    (R.timRbQualLocked p) locked).when (s.flag (R.timRbQualLocked p) && !locked) fun s => s.inc R.cntRbUnlock

/-- FIRST_TRIPLE_COMMIT (R380, R381): ANCHOR = S, OFS = t, RATE = 1,000 ns/µs. -/
def execFirstTripleCommit (p : Fin 8) (s : State) : Host.Outcome State Fault Refusal :=
  .next (s.clocked (match (s.port p).first with
    | .pair pr =>
      let s1 := s.commitLine p pr.s pr.t (1000 * 2 ^ 32) (s.lastBins p)
      s1.setPort p { s1.port p with first := .idle }
    | _ => s))

/-- Mainstay fits the pairs of the last 1 s every 100 ms (R379–R381); fewer than two kept pairs allow no commit. The fit itself is a free function of the pairs (log entry 18). [DESIGN CHOICE, log entry 18] -/
def State.rebaseEstimate (s : State) (p : Nat) : State :=
  let r := s.rb p
  let bins := s.lastBins p
  let pairs := bins.map (·.2)
  if !s.portOn p || !s.flag (R.ingPortRbCtlValid p) || !s.reached (r.lastFit + 100000000) then s
  else
    let s1 := s.setRb p { bins := bins, lastFit := s.now }
    match bins.getLast? with
    | none => s1
    | some last =>
      if pairs.length < 2 then s1 else
      let fit := Config.fitLine (pairs.map fun x => (x.s, x.t))
      s1.commitLine p last.2.s (fit.1 % 2 ^ 64) (fit.2 % 2 ^ 64) bins

/-- REBASE_ESTIMATE. -/
def execRebaseEstimate (p : Fin 8) (s : State) : Host.Outcome State Fault Refusal := .next (s.clocked (s.rebaseEstimate p))

end Sys2Proof.Machine
end

