-- ==== Sys2Proof/Machine/Rings.lean ====
section
/-! DEFINITION. Rings and doorbells of the host interface (R293–R322): doorbells, descriptor fetch, staging, the stream ring writer, FENCE, LPDDR_WRITE. -/

namespace Sys2Proof.Machine

/-! ### The PCIe endpoint (R290) -/

/-- Device ID of function `f`. -/
def deviceId (f : Nat) : Nat := if f = 0 then 0x9410 else 0x9411

/-- Class code: processing accelerator. -/
def classCode : Nat := 0x120000

/-- The largest payload and read request in bytes, tags the descriptor fetcher holds for itself, MSI-X vectors of a function. -/
def maxPayload : Nat := 512
/-- The largest read request. -/
def maxReadRequest : Nat := 4096
/-- Tags of the descriptor fetcher. -/
def fetchTags : Nat := 16
/-- MSI-X vectors of a function. -/
def msixVectors : Nat := 32

/-- The virtual functions: number, offset of the first, stride. -/
def sriov : Nat × Nat × Nat := (7, 1, 1)

/-! ### Doorbells (R293, R297, R299, R300, R315) -/

/-- FN_STATUS.DB_ERR of function `f` set (R293). -/
def State.dbErr (s : State) (f : Nat) : State := s.setFlag (R.fnStatusDbErr f) true

/-- A submission ring doorbell acts (R297). -/
def State.sqDoorbell (s : State) (f i v : Nat) : State :=
  if s.flag (R.fnSqCfgEn f i) && decide (v < s.sqSize f i) then s.setSq f i { s.sq f i with tail := v }
  else s.dbErr f

/-- A completion ring doorbell acts (R299): it frees only entries that have been written. -/
def State.cqDoorbell (s : State) (f i v : Nat) : State :=
  let size := s.cqSize f i
  let c := s.cq f i
  let written := (s.get (R.fnCqTailTail f i) + size - c.head) % size
  if s.flag (R.fnCqCfgEn f i) && decide (v < size) && decide ((v + size - c.head) % size ≤ written) then
    s.setCq f i { c with head := v }
  else s.dbErr f

/-- Size in bytes of stream ring `r` of function `f`. -/
def State.strSize (s : State) (f r : Nat) : Nat := 2 ^ s.get (R.fnStrCfgSizeLog2 f r)

/-- A stream ring doorbell acts (R315). -/
def State.strDoorbell (s : State) (f r v : Nat) : State :=
  let size := s.strSize f r
  let st := s.str f r
  let filled := (s.get (R.fnStrWrWr f r) + size - st.rd) % size
  if s.flag (R.fnStrCfgEn f r) && decide (v % 64 = 0) && decide (v < size)
      && decide ((v + size - st.rd) % size ≤ filled) then
    s.setStr f r { st with rd := v }
  else s.dbErr f

/-- Whether function `f` has READY = 1 (R300). -/
def State.ready (s : State) (f : Nat) : Bool := s.flag (R.fnStatusReady f)

/-- A doorbell write of `size` bytes (R293, R300): only 4-byte writes count, and they wait for READY. [DESIGN CHOICE, log entry 43] -/
def State.doorbell (s : State) (f size : Nat) (h : Held) (act : State → State) : State :=
  if !s.linkUp then s
  else if size = 4 then (if s.ready f then act s.touch else s.transact.hold h)
  else s.transact.dbErr f

/-- SQ_DOORBELL. -/
def execSqDoorbell (f : Fin 8) (i : Fin 4) (size : Nat) (v : Word) (s : State) : Host.Outcome State Fault Refusal :=
  .next (s.doorbell f size (.sq f i v.toNat) fun s => s.sqDoorbell f i v.toNat)

/-- CQ_DOORBELL. -/
def execCqDoorbell (f : Fin 8) (i : Fin 4) (size : Nat) (v : Word) (s : State) : Host.Outcome State Fault Refusal :=
  .next (s.doorbell f size (.cq f i v.toNat) fun s => s.cqDoorbell f i v.toNat)

/-- STREAM_DOORBELL. -/
def execStreamDoorbell (f : Fin 8) (r : Fin 8) (size : Nat) (v : Word) (s : State) : Host.Outcome State Fault Refusal :=
  .next (s.doorbell f size (.str f r v.toNat) fun s => s.strDoorbell f r v.toNat)

/-! ### Descriptors (R298, R301, R302, R306, R311, R327) -/

/-- Operand bits of each opcode beyond bytes 0–7: offset, byte count, mask (R302). -/
def operandFields : Nat → Option (List (Nat × Nat))
  | 0x00 => some []
  | 0x01 => some [(8, 2 ^ 64 - 1), (16, 2 ^ 32 - 1), (20, 1)]
  | 0x02 => some []
  | 0x03 => some []
  | 0x04 => some [(8, 1)]
  | 0x05 => some [(8, 7)]
  | 0x06 => some [(8, 2 ^ 64 - 1), (16, 2 ^ 64 - 1), (24, 2 ^ 32 - 1)]
  | 0x07 => some [(8, 7), (9, 0x71), (12, 2 ^ 32 - 1), (16, 2 ^ 32 - 1), (20, 2 ^ 32 - 1)]
  | 0x08 => some [(8, 2 ^ 64 - 1), (16, 2 ^ 32 - 1), (20, 2 ^ 32 - 1), (24, 0x71)]
  | 0x09 => some [(8, 1)]
  | 0x0A => some [(8, 7)]
  | 0x0B => some [(8, 2 ^ 64 - 1), (16, 2 ^ 32 - 1)]
  | 0x0C => some [(8, 2 ^ 64 - 1), (16, 2 ^ 64 - 1), (24, 2 ^ 32 - 1)]
  | _ => none

/-- The bits of a 64-byte descriptor that `fields` and bytes 0–3 give a meaning. -/
def usedBits (fields : List (Nat × Nat)) : Nat :=
  fields.foldl (fun m x => m + x.2 * 2 ^ (8 * x.1)) 0xFFFF01FF

/-- Whether every reserved bit of a descriptor is 0 (R301). -/
def reservedClear (fields : List (Nat × Nat)) (b : List Byte) : Bool :=
  leNat (b.take 64) &&& (2 ^ 512 - 1 - usedBits fields) == 0

/-- The operation that a descriptor's bytes name (R302). -/
def parseOp (b : List Byte) : Op :=
  match leAt b 0 1 with
  | 0x01 => .loadSet (leAt b 8 8) (leAt b 16 4) (bit (leAt b 20 1) 0)
  | 0x02 => .swapSet
  | 0x03 => .start
  | 0x04 => .stop (bit (leAt b 8 1) 0)
  | 0x05 => .setPhase (bits (leAt b 8 1) 0 3)
  | 0x06 => .readWindow (leAt b 8 8) (leAt b 16 8) (leAt b 24 4)
  | 0x07 => .trace (bits (leAt b 8 1) 0 3) (bit (leAt b 9 1) 0) (bits (leAt b 9 1) 4 3) (leAt b 12 4) (leAt b 16 4) (leAt b 20 4)
  | 0x08 => .dumpFetch (leAt b 8 8) (leAt b 16 4) (leAt b 20 4) (bit (leAt b 24 1) 0) (bits (leAt b 24 1) 4 3)
  | 0x09 => .fence (bit (leAt b 8 1) 0)
  | 0x0A => .surroundings (bits (leAt b 8 1) 0 3)
  | 0x0B => .fwUpdate (leAt b 8 8) (leAt b 16 4)
  | 0x0C => .lpddrWrite (leAt b 8 8) (leAt b 16 8) (leAt b 24 4)
  | _ => .nop

/-- Whether an operation passes through the device-wide queue (R298). -/
def Op.wide : Op → Bool
  | .loadSet .. | .swapSet | .start | .stop .. | .setPhase .. | .fwUpdate .. => true
  | _ => false

/-- Whether the address operands are aligned as R302 requires. -/
def Op.aligned : Op → Bool
  | .loadSet a _ _ => a % 64 == 0
  | .readWindow _ a _ => a % 64 == 0
  | .dumpFetch a _ _ toRing _ => toRing || a % 64 == 0
  | .lpddrWrite a d n => a % 64 == 0 && d % 64 == 0 && n % 64 == 0
  | _ => true

/-- Privilege bit `b` of function `f` (R306, R330): PF0 holds every privilege. -/
def State.privilege (s : State) (f b : Nat) : Bool := f == 0 || bit (s.get R.hifPrivFn) (4 * f + b)

/-- Whether function `f` may issue `op` (R306). -/
def State.mayIssue (s : State) (f : Nat) : Op → Bool
  | .nop | .fence _ => true
  | .loadSet .. | .swapSet | .start | .setPhase _ | .surroundings _ | .lpddrWrite .. => s.privilege f 0
  | .stop _ => s.privilege f 1
  | .trace .. => s.privilege f 2
  | .dumpFetch .. => s.privilege f 3
  | .readWindow .. => s.get R.fabWinDestFunc == f || s.privilege f 0
  | .fwUpdate .. => f == 0

/-- The numbers of the records staged for the rings of function `f` (R304). -/
def State.stagedIds (s : State) (f : Nat) : List Nat :=
  (List.range 8).flatMap fun r => (s.str f r).staged.map (·.id)

/-- The other rings of function `f` that run a descriptor (R304). -/
def State.busyRings (s : State) (f q : Nat) : List Nat :=
  (List.range 4).filter fun i => i != q && (s.cur f i).isSome

/-- The outcome that a fetched descriptor meets before it starts: the loss handshake first (R327), then opcode, reserved bits, alignment and privilege (R301, R302, R306); log entry 12. [DEDUCED, log entry 12] -/
def State.screen (s : State) (f : Nat) (b : List Byte) : Option Done :=
  if s.get (R.fnLossAckAck f) ≠ s.get (R.fnLossEpochEpoch f) then
    some { status := .stateLost, result := s.get (R.fnLossEpochEpoch f) + 2 ^ 32 * s.get (R.fnStateLostClasses f) }
  else match operandFields (leAt b 0 1) with
    | none => some (.bad 0x01)
    | some fields =>
      if !reservedClear fields b then some (.bad 0x02)
      else if !s.mayIssue f (parseOp b) then some { status := .privilege }
      else if !(parseOp b).aligned then some (.bad 0x03)
      else none

/-- Entries of completion ring `i` that are neither written and unread nor reserved; a ring holds size − 1 (log entry 13). [DEDUCED, log entry 13] -/
def State.cqFree (s : State) (f i : Nat) : Nat :=
  let size := s.cqSize f i
  let c := s.cq f i
  size - 1 - ((s.get (R.fnCqTailTail f i) + size - c.head) % size + c.resv)

/-- Whether ring `q` of function `f` can fetch (R297, R298): enabled, ready, tail ahead of head, nothing running (log entry 11), an entry free in its completion ring. [DEDUCED, log entry 11; DEDUCED, log entry 13] -/
def State.canFetch (s : State) (f q : Nat) : Bool :=
  let c := s.get (R.fnSqCfgCq f q)
  s.flag (R.fnSqCfgEn f q) && s.ready f && !s.halted && (s.cur f q).isNone
    && s.get (R.fnSqHeadHead f q) != (s.sq f q).tail
    && s.flag (R.fnCqCfgEn f c) && decide (0 < s.cqFree f c)

/-- The descriptor of ring `q` whose fetch returned, with its reserved entry and the head behind it. -/
def State.fetched (s : State) (f q cid : Nat) (irq : Bool) (op : Op) : State :=
  let c := s.get (R.fnSqCfgCq f q)
  let nxt := (s.get (R.fnSqHeadHead f q) + 1) % s.sqSize f q
  let d : Desc := { cid := cid, irq := irq, op := op, stage := .fetched, cq := c, head := nxt }
  let d := match op with
    | .fence streams => { d with waitRings := s.busyRings f q, waitRecords := if streams then s.stagedIds f else [] }
    | _ => d
  ((s.set (R.fnSqHeadHead f q) nxt).setCq f c { s.cq f c with resv := (s.cq f c).resv + 1 }).setCur f q (some d)

/-- A descriptor fetch returns (R298, R301, R311); an ACTION that R302 does not list is refused with a free reason. [DESIGN CHOICE, log entry 46] -/
def State.descriptorFetch (s : State) (f q : Nat) (res : FetchResult) : State :=
  if !s.canFetch f q then s else
  match res with
  | .poisoned =>
    ((s.fetched f q 0xFFFF false .nop).fault .contained 0x0C dieIod (f * 4 + q) 0).complete f q { status := .poisoned }
  | .failed =>
    (((s.fetched f q 0xFFFF false .nop).setFlag (R.fnSqCfgEn f q) false).setFlag
      (R.fnStatusFetchErr f) true).complete f q (.bad 0x05)
  | .ok b =>
    let op := parseOp b
    let s1 := s.fetched f q (leAt b 2 2) (bit (leAt b 1 1) 0) op
    match s.screen f b with
    | some o => s1.complete f q o
    | none =>
      match op with
      | .trace 5 .. | .trace 6 .. | .trace 7 .. => (s1.took 1).complete f q (.bad (s.freeValue % 256))
      | _ => if op.wide then { s1 with host := { s1.host with wide := s1.host.wide ++ [(f, q)] } } else s1

/-- DESCRIPTOR_FETCH. [DESIGN CHOICE, log entry 8] -/
def execDescriptorFetch (f : Fin 8) (q : Fin 4) (res : FetchResult) (s : State) : Host.Outcome State Fault Refusal :=
  .next (s.clocked (s.descriptorFetch f q res))

/-- The operation that ring `q` has fetched and not begun. -/
def State.fetchedOp (s : State) (f q : Nat) : Option Op :=
  match s.cur f q with
  | some d => if d.stage = .fetched then some d.op else none
  | none => none

/-- The operation that ring `q` has begun. -/
def State.runningOp (s : State) (f q : Nat) : Option Op :=
  match s.cur f q with
  | some d => if d.stage = .running then some d.op else none
  | none => none

/-- Where an accepted device-wide command of ring `q` stands: under number q + 4, without a completion, once an FLR has reset its function (R329). [DESIGN CHOICE, log entry 52] -/
def State.ownRing (s : State) (f q : Nat) : Nat := if (s.cur f (q + 4)).isSome then q + 4 else q

/-- The device-wide command of ring `q`, where it stands at the head of the device-wide queue (R338) or waits there accepted. -/
def State.wideOp (s : State) (f q : Nat) : Option Op :=
  if s.host.wide.head? = some (f, q) then s.fetchedOp f q else none

/-- The command at the head of the device-wide queue is accepted: the next one moves up (R338). -/
def State.accept (s : State) : State := { s with host := { s.host with wide := s.host.wide.tail } }

/-- NOP (R302). -/
def execNop (f : Fin 8) (q : Fin 4) (s : State) : Host.Outcome State Fault Refusal :=
  .next (s.clocked (match s.fetchedOp f q with
    | some .nop => s.complete f q (.okay 0)
    | _ => s))

/-- Whether nothing is left that the FENCE of ring `q` waits for (R304). -/
def State.fenceDone (s : State) (f q : Nat) : Bool :=
  match s.cur f q with
  | some d => d.waitRings.isEmpty && d.waitRecords.isEmpty
  | none => false

/-- FENCE (R304): it waits, or completes where nothing is left to wait for. -/
def execFence (f : Fin 8) (q : Fin 4) (s : State) : Host.Outcome State Fault Refusal :=
  .next (s.clocked (match s.fetchedOp f q with
    | some (.fence _) => if s.fenceDone f q then s.complete f q (.okay 0) else s.begin f q
    | _ => s))

/-- FENCE_RELEASE (R304). -/
def execFenceRelease (f : Fin 8) (q : Fin 4) (s : State) : Host.Outcome State Fault Refusal :=
  .next (s.clocked (match s.runningOp f q with
    | some (.fence _) => if s.fenceDone f q then s.complete f q (.okay 0) else s
    | _ => s))

/-- LPDDR_WRITE (R305): the range must lie below DBG_LPDDR_RSV.ADDR. -/
def execLpddrWrite (f : Fin 8) (q : Fin 4) (s : State) : Host.Outcome State Fault Refusal :=
  .next (s.clocked (match s.fetchedOp f q with
    | some (.lpddrWrite _ dst len) =>
      if dst + len ≤ s.get R.dbgLpddrRsvAddr then s.begin f q else s.complete f q (.bad 0x03)
    | _ => s))

/-- What an LPDDR5X byte reads as that nothing has written (log entry 7). [DESIGN CHOICE, log entry 7] -/
def lpddrFill : Byte := 0

/-- LPDDR_WRITE_DONE (R305): the data read from the host lands, and the descriptor completes. -/
def execLpddrWriteDone (f : Fin 8) (q : Fin 4) (data : List Byte) (s : State) : Host.Outcome State Fault Refusal :=
  .next (s.clocked (match s.runningOp f q with
    | some (.lpddrWrite _ dst len) =>
      if data.length = len then
        { s with lpddr := writeBytes s.lpddr lpddrFill dst data }.complete f q (.okay len)
      else s
    | _ => s))

/-! ### Ring staging (R319, R320) -/

/-- Staging of one ring: 1 MiB (R319). -/
def stagingBytes : Nat := 2 ^ 20

/-- Room kept for one further GAP record of every record type that can reach a ring of function `f` (R319): ten types, ERROR_REPORT to PF0 only. [DEDUCED, log entry 47] -/
def gapReserve (f : Nat) : Nat := 64 * (if f = 0 then 10 else 9)

/-- Bytes staged for a ring. [DEDUCED, log entry 47] -/
def stagedBytes (l : List Staged) : Nat := (l.map fun x => x.record.padded).sum

/-- Whether staging admits a record of `z` padded bytes (R319). -/
def Str.admits (st : Str) (f z : Nat) : Bool := decide (stagedBytes st.staged + z + gapReserve f ≤ stagingBytes)

/-- The index that a GAP's FIRST names (R319): of FUSED_RESULT and WINDOW_COUNTS, otherwise 0. -/
def Rec.first (r : Rec) : Nat := if r.type = 0x01 ∨ r.type = 0x02 then r.index else 0

/-- No GAP record of `type` is open any more. -/
def closeGaps (type : Nat) (l : List Staged) : List Staged :=
  l.map fun x =>
    match x.record.gap with
    | some g => if g.lostType = type then { x with isOpen := false } else x
    | none => x

/-- The open GAP record of `type` takes one more record; none where no GAP of the type is open. -/
def addToGap (type : Nat) : List Staged → Option (List Staged)
  | [] => none
  | x :: l =>
    match x.record.gap with
    | some g =>
      if x.isOpen && g.lostType == type then
        some ({ x with record := { x.record with gap := some { g with count := g.count + 1 } } } :: l)
      else (addToGap type l).map (x :: ·)
    | none => (addToGap type l).map (x :: ·)

/-- The stream ring with its staging replaced, FN_STRr_STAGE.OCC in step. -/
def State.setStaged (s : State) (f r : Nat) (l : List Staged) : State :=
  (s.setStr f r { s.str f r with staged := l }).set (R.fnStrStageOcc f r) (stagedBytes l)

/-- The next record number. -/
def State.countRecord (s : State) : State := { s with host := { s.host with nextId := s.host.nextId + 1 } }

/-- The loss of one record in a GAP record is counted by its producer's counter, where it has one (R219, R257). -/
def State.countGap (s : State) (type : Nat) : State :=
  if type = 0x02 then s.inc R.cntWinGap
  else if type = 0x08 then s.inc R.cntThrGap
  else s

/-- A record reaches staging (R319, R320). -/
def State.stage (s : State) (f r : Nat) (x : Rec) : State :=
  let s := s.touch
  let st := s.str f r
  if !s.flag (R.fnStrCfgEn f r) then s.inc (R.fnRingOffCntOff f)
  else if st.admits f x.padded then
    (s.setStaged f r (closeGaps x.type st.staged ++ [{ id := s.host.nextId, record := x }])).countRecord
  else
    let s1 := (s.inc (R.fnStrGapCntGap f r)).countGap x.type
    match addToGap x.type st.staged with
    | some l => s1.setStaged f r l
    | none =>
      let gap : Rec := { type := 0x0B, gap := some ⟨x.type, 1, x.first⟩ }
      (s1.setStaged f r (st.staged ++ [{ id := s.host.nextId, record := gap, isOpen := true }])).countRecord

/-- The oldest record handed over reaches staging; `bad` where its queue word fails its parity check, which poisons it (R436, R453). [DESIGN CHOICE, log entry 49] -/
def State.stageNext (s : State) (bad : Bool) : State :=
  match s.host.handed with
  | [] => s
  | h :: l =>
    ({ s with host := { s.host with handed := l } }.parityCheck bad dieIod (ringKey h.fn h.ring)).stage h.fn h.ring
      { h.record with poison := h.record.poison || bad }

/-- RECORD_STAGING. -/
def execRecordStaging (parity : Bool) (s : State) : Host.Outcome State Fault Refusal :=
  .next (s.clocked (s.stageNext parity))

/-- Every record handed over reaches staging. -/
def State.stageAll (s : State) : State := s.each s.host.handed fun s _ => s.stageNext false

/-! ### Taps of the surface engines (R102–R104) -/

/-- The Canvas replaced. -/
def State.setCv (s : State) (c : Canvas) : State := { s with cv := c }

/-- Tap `c` (corner tap if true) of engine `e`. -/
def tapKey (e : Nat) (c : Bool) : Nat := e * 2 + b2n c

/-- A tap. -/
def State.tap (s : State) (e : Nat) (c : Bool) : Tap := SMap.get s.cv.taps {} (tapKey e c)

/-- A tap replaced. -/
def State.setTap (s : State) (e : Nat) (c : Bool) (t : Tap) : State :=
  s.setCv { s.cv with taps := SMap.set s.cv.taps {} (tapKey e c) t }

/-- The payload of a tap record (R104). -/
def TapRecord.rcd (t : TapRecord) (e : Nat) (c : Bool) : Rec :=
  { type := if c then 0x07 else 0x06, poison := t.poison, error := t.error,
    payload := leBytes t.dropped 4 ++ leBytes e 1 ++ [0] ++ leBytes t.entries.length 2 ++ t.entries.flatten }

/-- A closed tap record passes to ring staging where that admits it, or is discarded where the ring is off (R103, R320). -/
def State.passTap (s : State) (e : Nat) (c : Bool) : State :=
  let t := s.tap e c
  let f := s.get R.srfTapFunc
  let r := s.get R.srfTapRing
  match t.closed with
  | none => s
  | some x =>
    let rcd := x.rcd e c
    if !s.flag (R.fnStrCfgEn f r) || (s.str f r).admits f rcd.padded then
      (s.setTap e c { t with closed := none }).stage f r rcd
    else s

/-- A tap's closed record passes on where it can, and the record being filled closes at 64 entries or 10 µs after its first entry, once the closed slot is empty (R103, R104). -/
def State.closeTap (s : State) (e : Nat) (c : Bool) : State :=
  let s1 := s.passTap e c
  let t := s1.tap e c
  let due := t.filling.entries.length == 64 || (!t.filling.entries.isEmpty && s.reached (t.filling.first + 10000))
  if due && t.closed.isNone then (s1.setTap e c { t with closed := some t.filling, filling := {} }).passTap e c
  else s1

/-- Staging has room again: every tap goes on (R103). -/
def State.closeTaps (s : State) : State := s.each (List.range 16) fun s i => s.closeTap (i / 2) (i % 2 == 1)

/-- TAP_RECORD_CLOSE. -/
def execTapRecordClose (e : Fin 8) (corner : Bool) (s : State) : Host.Outcome State Fault Refusal :=
  .next (s.clocked (s.closeTap e corner))

/-- An entry joins the record being filled; the first one fixes its DROPPED count. -/
def Tap.take (t : Tap) (now : Nat) (b : List Byte) (poison : Bool) : Tap :=
  let f := t.filling
  if f.entries.isEmpty then { t with filling := ⟨[b], now, t.dropped, poison, false⟩, dropped := 0 }
  else { t with filling := { f with entries := f.entries ++ [b], poison := f.poison || poison } }

/-- An entry reaches a tap (R103): it joins the record being filled, which closes at once with its 64th entry where the closed slot is empty; it is dropped and counted while that record holds 64 entries and the closed one still waits. [DEDUCED, log entry 60] -/
def State.tapEntry (s : State) (e : Nat) (c : Bool) (b : List Byte) (poison : Bool) : State :=
  let s1 := s.closeTap e c
  let t := s1.tap e c
  if t.filling.entries.length < 64 then (s1.setTap e c (t.take s.now b poison)).closeTap e c
  else (s1.setTap e c { t with dropped := min 0xFFFFFFFF (t.dropped + 1) }).inc (R.srfCntTapDrop e)

/-! ### The stream ring writer (R313, R315–R318, R322) -/

/-- A record header (R313). -/
def recHeader (type : Nat) (gen : Bool) (poison error : Bool) (len seq : Nat) : List Byte :=
  leBytes (type + 256 * b2n gen + 512 * b2n poison + 1024 * b2n error + 2 ^ 16 * len + 2 ^ 32 * seq) 8

/-- `n` idle words (R313). -/
def idleWords : Nat → List Byte
  | 0 => []
  | n + 1 => leBytes 0x1D1E1D1E1D1E1D1E 8 ++ idleWords n

/-- The payload of a record, after its header: a GAP's fields (R319), or the producer's bytes filled to 8. -/
def Rec.body (x : Rec) : List Byte :=
  match x.gap with
  | some g => leBytes g.lostType 1 ++ [0, 0, 0] ++ leBytes g.count 4 ++ leBytes g.first 8
  | none => x.payload ++ List.replicate ((8 - x.payload.length % 8) % 8) 0

/-- LENGTH of a record in 8-byte units (R313). -/
def Rec.units (x : Rec) : Nat := 1 + x.body.length / 8

/-- Free bytes of a stream ring (R315); RD = WR is empty. -/
def State.strFree (s : State) (f r : Nat) : Nat :=
  let size := s.strSize f r
  let d := ((s.str f r).rd + size - s.get (R.fnStrWrWr f r)) % size
  if d = 0 then size else d

/-- One record written at WR: placeholder of the record behind it, payload with idle words, header last (R317); WR, GEN, SEQ move on (R318); ERROR = 1 raises FN_VEC.ERR (R457). -/
def State.writeRecord (s : State) (f r : Nat) (x : Rec) (z : Nat) : State :=
  let base := s.get (R.fnStrBaseBase f r)
  let st := s.str f r
  let wr := s.get (R.fnStrWrWr f r)
  let seq := s.get (R.fnStrSeqSeq f r)
  let wraps := wr + z == s.strSize f r
  let nxt := if wraps then 0 else wr + z
  let gen' := if wraps then !st.gen else st.gen
  ((((((s.post f (base + nxt) true (recHeader 0 (!gen') false false 0 0)).post f (base + wr + 8) true
      (x.body ++ idleWords (z / 8 - x.units))).post f (base + wr) false
        (recHeader x.type st.gen x.poison x.error (if x.type = 0x0F then z / 8 else x.units) seq)).set
          (R.fnStrWrWr f r) nxt).set (R.fnStrSeqSeq f r) (seq + 1)).setStr f r { st with gen := gen' }).when
            x.error (fun s => s.raise f (s.get (R.fnVecErr f)))

/-- The interrupt rule of R322 after a record is written. [DESIGN CHOICE, log entry 48] -/
def State.countIrq (s : State) (f r : Nat) : State :=
  let count := s.get (R.fnStrIrqCount f r)
  let st := s.str f r
  if count = 0 then s
  else if count ≤ st.irqCount + 1 then
    (s.setStr f r { st with irqCount := 0, irqFirst := none }).raise f (s.get (R.fnStrCfgVec f r))
  else s.setStr f r { st with irqCount := st.irqCount + 1, irqFirst := some (st.irqFirst.getD s.now) }

/-- A staged record is done with: no FENCE of function `f` waits for it any more (R304). -/
def State.releaseRecord (s : State) (f id : Nat) : State :=
  s.each (List.range 4) fun s i =>
    match s.cur f i with
    | some d => if d.waitRecords.contains id then s.setCur f i (some { d with waitRecords := d.waitRecords.filter (· != id) }) else s
    | none => s

/-- An IDLE record (R316). -/
def idleRec : Rec := { type := 0x0F }

/-- The stream ring that a running descriptor writes records to: DRAIN, DUMP_FETCH to a ring, SURROUNDINGS. -/
def Op.target : Op → Option Nat
  | .trace 4 _ ring _ _ _ => some ring
  | .dumpFetch _ _ _ true ring => some ring
  | .surroundings ring => some ring
  | _ => none

/-- A descriptor that writes to ring `r` stages its next record where staging admits one (R319). -/
def State.feedOne (s : State) (f q r : Nat) : State :=
  match s.cur f q with
  | some d =>
    match d.chunks with
    | x :: l =>
      if d.op.target == some r && (s.str f r).admits f x.padded then
        (s.stage f r x).setCur f q (some { d with chunks := l, waitRecords := d.waitRecords ++ [s.host.nextId] })
      else s
    | [] => s
  | none => s

/-- Records are staged while there are some and staging admits them. [DESIGN CHOICE, log entry 50] -/
def State.feed (s : State) (f q r : Nat) : State :=
  match s.cur f q with
  | some d => s.each d.chunks fun s _ => s.feedOne f q r
  | none => s

/-- Once the last record of the descriptor is written it completes (R476, R482); a SURROUNDINGS reports its record's SEQ, which is `seq` (R310). -/
def State.endWriter (s : State) (f q r seq : Nat) : State :=
  match s.cur f q with
  | some d =>
    if d.op.target == some r && d.stage == .running && d.chunks.isEmpty && d.waitRecords.isEmpty then
      s.complete f q (.okay (match d.op with | .surroundings _ => seq | _ => d.result))
    else s
  | none => s

/-- Descriptors of function `f` that write to ring `r` go on after a record of it has been written. [DESIGN CHOICE, log entry 50] -/
def State.writersGoOn (s : State) (f r seq : Nat) : State :=
  s.each (List.range 4) fun s q => (s.feed f q r).endWriter f q r seq

/-- SEQ of the record last written to a ring. -/
def State.lastSeq (s : State) (f r : Nat) : Nat := (s.get (R.fnStrSeqSeq f r) + 2 ^ 32 - 1) % 2 ^ 32

/-- A descriptor begins to write `chunks` to ring `r`, with RESULT `result` (R320: the ring must be enabled). -/
def State.beginWriter (s : State) (f q r : Nat) (chunks : List Rec) (result : Nat) : State :=
  match s.cur f q with
  | some d =>
    if !s.flag (R.fnStrCfgEn f r) then s.complete f q (.bad 0x08)
    else if chunks.isEmpty then s.complete f q (.okay result)
    else (s.setCur f q (some { d with stage := .running, chunks := chunks, result := result })).feed f q r
  | none => s

/-- The staged record `x` of ring `r` is written, `l` stays staged. -/
def State.writeStaged (s : State) (f r : Nat) (x : Staged) (l : List Staged) : State :=
  let s1 := ((((s.writeRecord f r x.record x.record.padded).setStaged f r l).releaseRecord f x.id).countIrq f r).when (x.record.type == 0x02)
    fun s => s.inc R.cntWin
  s1.writersGoOn f r (s1.lastSeq f r)

/-- The record read from LPDDR5X staging for ring `r` (R443, R444): an uncorrectable error poisons it, and its payload is free. [DESIGN CHOICE, log entry 155] -/
def State.readStaged (s : State) (x : Staged) (ecc : Ecc) : Staged :=
  if s.lpddrPoison ecc then { x with record := { x.record with poison := true, payload := freeBytes s.free x.record.payload.length } } else x

/-- The oldest staged record is written when room allows (R315, R316); its read from staging finds `ecc`. Taps go on with the room this leaves (R103). [DESIGN CHOICE, log entry 48] -/
def State.streamWrite (s : State) (f r : Nat) (ecc : Ecc) : State :=
  match (s.str f r).staged with
  | [] => s
  | x :: l =>
    let z := x.record.padded
    let fill := s.strSize f r - s.get (R.fnStrWrWr f r)
    let y := s.readStaged x ecc
    if !s.flag (R.fnStrCfgEn f r) then s
    else if z ≤ fill then
      if z + 64 ≤ s.strFree f r then
        (((s.copyRead ecc).took x.record.payload.length).writeStaged f r y l).closeTaps
      else s
    else if fill + z + 64 ≤ s.strFree f r then
      (((((s.copyRead ecc).took x.record.payload.length).writeRecord f r idleRec fill).countIrq f r).writeStaged f r y l).closeTaps
    else s

/-- STREAM_RECORD_WRITE. -/
def execStreamRecordWrite (f : Fin 8) (r : Fin 8) (ecc : Ecc) (s : State) : Host.Outcome State Fault Refusal :=
  .next (s.clocked (s.streamWrite f r ecc))

/-- STREAM_IRQ_TIMEOUT (R322): TIME_US after the first record since the last interrupt. -/
def execStreamIrqTimeout (f : Fin 8) (r : Fin 8) (s : State) : Host.Outcome State Fault Refusal :=
  .next (s.clocked (
    let st := s.str f r
    match st.irqFirst with
    | some t =>
      if s.get (R.fnStrIrqCount f r) ≠ 0 && s.reached (t + 1000 * s.get (R.fnStrIrqTimeUs f r)) then
        (s.setStr f r { st with irqCount := 0, irqFirst := none }).raise f (s.get (R.fnStrCfgVec f r))
      else s
    | none => s))

/-! ### Enabling and disabling rings (R295, R317, R320) -/

/-- FN_STATUS.RING_ERR of function `f` set (R295). -/
def State.ringErr (s : State) (f : Nat) : State := s.setFlag (R.fnStatusRingErr f) true

/-- No descriptor of function `f` still owns a reserved entry of completion ring `i` (log entry 14). [DESIGN CHOICE, log entry 14] -/
def State.dropCq (s : State) (f i : Nat) : State :=
  s.each (List.range 4) fun s q =>
    match s.cur f q with
    | some d => if d.cq = i then s.setCur f q (some { d with cqGone := true }) else s
    | none => s

/-- A descriptor that writes records to ring `r` of function `f` stops as the ring goes off (R320). -/
def State.stopRingUsers (s : State) (f r : Nat) : State :=
  s.each (List.range 4) fun s q =>
    match s.runningOp f q with
    | some op => if op.target = some r then s.complete f q (.bad 0x08) else s
    | none => s

/-- Everything staged for ring `r` of function `f` is discarded and counted (R320). -/
def State.discardStaged (s : State) (f r : Nat) : State :=
  let l := (s.str f r).staged
  ((s.each l fun s x => s.releaseRecord f x.id).add (R.fnRingOffCntOff f) l.length).setStaged f r []

/-- A submission ring CFG write that R295 lets through. -/
def State.setSqCfg (s : State) (f i v : Nat) : State :=
  let on := !s.flag (R.fnSqCfgEn f i) && bit v 31
  let s1 := ((s.set (R.fnSqCfgSizeLog2 f i) (bits v 0 5)).set (R.fnSqCfgCq f i) (bits v 8 2)).set (R.fnSqCfgEn f i) (bits v 31 1)
  s1.when on fun s => (s.set (R.fnSqHeadHead f i) 0).setSq f i { s.sq f i with tail := 0 }

/-- A completion ring CFG write that R295 lets through. -/
def State.setCqCfg (s : State) (f i v : Nat) : State :=
  let on := !s.flag (R.fnCqCfgEn f i) && bit v 31
  let s1 := ((s.set (R.fnCqCfgSizeLog2 f i) (bits v 0 5)).set (R.fnCqCfgVec f i) (bits v 8 5)).set (R.fnCqCfgEn f i) (bits v 31 1)
  if on then ((s1.set (R.fnCqTailTail f i) 0).setCq f i {}).dropCq f i
  else s1.dropCq f i

/-- A stream ring CFG write that R295 lets through: an enable resets the ring and writes the GEN 0 placeholder at offset 0 (R317); a disable discards what is staged (R320). -/
def State.setStrCfg (s : State) (f r v : Nat) : State :=
  let was := s.flag (R.fnStrCfgEn f r)
  let s1 := ((s.set (R.fnStrCfgSizeLog2 f r) (bits v 0 5)).set (R.fnStrCfgVec f r) (bits v 8 5)).set (R.fnStrCfgEn f r) (bits v 31 1)
  if !was && bit v 31 then
    ((((s1.set (R.fnStrWrWr f r) 0).set (R.fnStrSeqSeq f r) 0).setStr f r {}).post f (s.get (R.fnStrBaseBase f r)) true
      (recHeader 0 false false false 0 0)).closeTaps
  else if was && !bit v 31 then
    (((s1.discardStaged f r).stopRingUsers f r).setStr f r { (s1.discardStaged f r).str f r with irqCount := 0, irqFirst := none }).closeTaps
  else s1

/-- The EN field of a ring. -/
def ringEn (k : RingKind) (f i : Nat) : Fld :=
  match k with
  | .sq => R.fnSqCfgEn f i
  | .cq => R.fnCqCfgEn f i
  | .str => R.fnStrCfgEn f i

/-- Whether SIZE_LOG2 lies in the range of R294. -/
def ringSizeOk (k : RingKind) (v : Nat) : Bool :=
  match k with
  | .sq | .cq => decide (4 ≤ bits v 0 5 ∧ bits v 0 5 ≤ 16)
  | .str => decide (18 ≤ bits v 0 5 ∧ bits v 0 5 ≤ 30)

/-- A write of a ring's CFG (R295): ignored with RING_ERR while EN = 1 unless it clears EN, and where SIZE_LOG2 is out of range. -/
def State.ringCfg (s : State) (k : RingKind) (f i v : Nat) : State :=
  if !ringSizeOk k v || (s.flag (ringEn k f i) && bit v 31) then s.ringErr f
  else match k with
    | .sq => s.setSqCfg f i v
    | .cq => s.setCqCfg f i v
    | .str => s.setStrCfg f i v

/-- The offset of a ring's CFG in its function page (R331). -/
def ringCfgOff (k : RingKind) (i : Nat) : Nat :=
  match k with
  | .sq => 0x1108 + 0x20 * i
  | .cq => 0x1208 + 0x20 * i
  | .str => 0x1308 + 0x20 * i

/-- RING_ENABLE: a CFG write of value `v` (SQ and CQ have four rings; a higher number names no register, R512). -/
def execRingEnable (k : RingKind) (f : Fin 8) (i : Fin 8) (v : Word) (s : State) : Host.Outcome State Fault Refusal :=
  .next (if k ≠ .str ∧ 4 ≤ i.val then s else s.bus (.write f true (ringCfgOff k i) 4 v.toNat) fun s => s.ringCfg k f i v.toNat)

/-- RING_DISABLE: a CFG write to a stream ring. -/
def execRingDisable (f : Fin 8) (r : Fin 8) (v : Word) (s : State) : Host.Outcome State Fault Refusal :=
  .next (s.bus (.write f true (ringCfgOff .str r) 4 v.toNat) fun s => s.ringCfg .str f r v.toNat)

/-- LOSS_ACK (R328). -/
def execLossAck (f : Fin 8) (v : Word) (s : State) : Host.Outcome State Fault Refusal :=
  .next (s.bus (.write f true 0x100C 4 v.toNat) fun s => s.set (R.fnLossAckAck f) v.toNat)

/-! ### The IDLE1 conditions (R412) -/

/-- No descriptor is in progress, no tail differs from its head, nothing is staged. -/
def State.ringsIdle (s : State) : Bool :=
  s.host.handed.isEmpty && (List.range 8).all fun f =>
    ((List.range 4).all fun q => (s.cur f q).isNone && (!s.flag (R.fnSqCfgEn f q) || s.get (R.fnSqHeadHead f q) == (s.sq f q).tail))
      && (List.range 8).all fun r => (s.str f r).staged.isEmpty

/-- No LOAD_SET, FW_UPDATE or DUMP_FETCH runs and no trace capture is armed. -/
def State.loadsIdle (s : State) : Bool :=
  s.ctl.load.isNone && s.ctl.newFirmware.isNone && !s.capturing && (List.range 8).all fun f => (List.range 8).all fun q =>
    match s.runningOp f q with
    | some (.loadSet ..) | some (.fwUpdate ..) | some (.dumpFetch ..) => false
    | _ => true

/-- No filter channel, IMU master, encoder, CAN controller, GNSS UART or MAC is enabled. -/
def State.auxIdle (s : State) : Bool :=
  s.get R.fltChEnEn == 0 && s.get R.fltEncCfgEn == 0 && !s.flag R.fltGnssCfgEn
    && ((List.range 2).all fun i => !s.flag (R.fltImuCfgEn i) && !s.flag (R.timMacCfgEn i))
    && (List.range 4).all fun c => !s.flag (R.fltCanCfgEn c)

/-- No reflex output is active or latched, and THR_OUT is inactive. -/
def State.warnIdle (s : State) : Bool :=
  ((List.range 2).all fun r => !s.flag (R.fabReflexStatAsserted r)) && !s.flag R.fltThrOutLevel

/-- The conditions of R412 that do not hold, in list order; those on something having arrived fail for an instant only. [DEDUCED, log entry 120] -/
def State.block (s : State) : Nat :=
  b2n (!s.stopped) + 2 * b2n (!s.ringsIdle) + 4 * b2n (!s.loadsIdle) + 16 * b2n (!s.auxIdle) + 32 * b2n (!s.warnIdle)

/-- Time has passed from `s` to `t`: where a condition of R412 fails, the IDLE1 timer stands at 0. -/
def State.idleFrom (s t : State) : State := if s.awake && s.block == 0 then t else t.touch

end Sys2Proof.Machine
end

