-- ==== Sys2Proof/Machine/Canvas.lean ====
section
/-! DEFINITION. The Canvas and the surface engines (R76–R106, R441, R522). -/

namespace Sys2Proof.Machine

/-! ### Entries (R76, R77) -/

/-- A pixel entry, field by field (R76). Polarity true is positive. -/
structure Pixel where
  pos : Nat
  neg : Nat
  act : Nat
  stalePos : Bool
  staleNeg : Bool
  hot : Bool
  corner : Bool
  deriving DecidableEq, Repr

/-- The value of an entry that nothing has written, or that was initialised (R522). [DESIGN CHOICE, log entry 23] -/
def entryInit : Nat := 0x0300000000000000

/-- The fields of an entry. -/
def pixelOf (v : Nat) : Pixel :=
  ⟨bits v 0 24, bits v 24 24, bits v 48 8, bit v 56, bit v 57, bit v 58, bit v 59⟩

/-- The entry of its fields. -/
def Pixel.entry (p : Pixel) : Nat :=
  p.pos % 2 ^ 24 + 2 ^ 24 * (p.neg % 2 ^ 24) + 2 ^ 48 * (p.act % 2 ^ 8) + 2 ^ 56 * b2n p.stalePos
    + 2 ^ 57 * b2n p.staleNeg + 2 ^ 58 * b2n p.hot + 2 ^ 59 * b2n p.corner

/-- The stamp of a polarity. -/
def Pixel.stamp (p : Pixel) (pol : Bool) : Nat := if pol then p.pos else p.neg

/-- Whether a polarity is STALE. -/
def Pixel.stale (p : Pixel) (pol : Bool) : Bool := if pol then p.stalePos else p.staleNeg

/-- A raise (R80). -/
def Pixel.raise (p : Pixel) (pol : Bool) (ts : Nat) : Pixel :=
  if pol then { p with pos := ts, stalePos := false } else { p with neg := ts, staleNeg := false }

/-- Sensor width of port `p`. -/
def State.width (s : State) (p : Nat) : Nat := s.get (R.ingPortGeomWidthM1 p) + 1

/-- Sensor height of port `p` (R73: at most 1,536). -/
def State.height (s : State) (p : Nat) : Nat := s.getIn (R.ingPortGeomHeightM1 p) 0 1535 + 1

/-- Tiles across a region. -/
def State.tilesX (s : State) (p : Nat) : Nat := ceilDiv (s.width p) 8

/-- Tile rows of a region. -/
def State.tilesY (s : State) (p : Nat) : Nat := ceilDiv (s.height p) 8

/-- The key of the entry of pixel (x, y) of port `p` (R77). -/
def State.pixelKey (s : State) (p x y : Nat) : Nat :=
  let tx := x / 8
  let ty := y / 8
  let base := if ty % 2 = 0 then s.get (R.srfRegionB0Base p) else s.get (R.srfRegionB1Base p)
  ty % 2 * 2 ^ 24 + (base + ty / 2 * s.tilesX p + tx) * 64 + (y % 8 * 8 + x % 8)

/-- The stored entry with key `k`. -/
def State.entryAt (s : State) (k : Nat) : Nat := SMap.get s.cv.entries entryInit k

/-- The stored pixel (x, y) of port `p`. -/
def State.pixel (s : State) (p x y : Nat) : Pixel := pixelOf (s.entryAt (s.pixelKey p x y))

/-- A commit of engine `e` writes an entry; commits of the last 80 ns are kept for R83. -/
def State.writeEntry (s : State) (e k v : Nat) : State :=
  let keep := s.cv.recent.filter fun w => decide (s.now < w.time + 80)
  s.setCv { s.cv with entries := SMap.set s.cv.entries entryInit k v, recent := ⟨k, e, s.now, s.entryAt k⟩ :: keep }

/-- The device microsecond. -/
def State.nowUs (s : State) : Nat := s.now / 1000

/-! ### Dirty marks and the aging wheel (R94–R100) -/

/-- The seven bin edges E1–E7 (R94). -/
def State.edges (s : State) : List Nat :=
  [s.get R.srfBinEdge1Edge, s.get R.srfBinEdge2Edge, s.get R.srfBinEdge3Edge, s.get R.srfBinEdge4Edge,
    s.get R.srfBinEdge5Edge, s.get R.srfBinEdge6Edge, s.get R.srfBinEdge7Edge]

/-- Whether 1 ≤ E1 < … < E7 ≤ 12,775 (R94). -/
def edgesOk (l : List Nat) : Bool :=
  SMap.above 0 (l.map fun e => (e, ())) && l.all (fun e => decide (e ≤ 12775))

/-- The bin of an age (R95): the number of edges at or below it. -/
def binOfAge (edges : List Nat) (age : Int) : Nat := (edges.filter fun (e : Nat) => decide ((e : Int) ≤ age)).length

/-- Whether a pixel is forced into bin 7 (R91). -/
def State.masked (s : State) (p : Pixel) : Bool := p.hot && s.flag R.srfCtlMaskInput

/-- The bin of a polarity at device microsecond `u` (R95, R137): a negative age counts as 0. -/
def State.binAt (s : State) (p : Pixel) (pol : Bool) (u : Nat) : Nat :=
  if p.stale pol || s.masked p then 7 else binOfAge s.edges (max 0 (wrapDiff 24 u (p.stamp pol)))

/-- The absolute microsecond count congruent to a stamp and nearest to microsecond `u` (R96). -/
def absoluteUs (u ts : Nat) : Int := (u : Int) - wrapDiff 24 u ts

/-- The tick in which the crossing of an edge by absolute stamp `a` falls (R96): 25n < a + E ≤ 25(n + 1). -/
def crossingTick (a : Int) (edge : Nat) : Int := -floorDiv (-(a + (edge : Int))) 25 - 1

/-- The earliest crossing tick at or after tick `n` of a stamp, if there is one. -/
def firstCrossing (edges : List Nat) (a : Int) (n : Nat) : Option Nat :=
  ((edges.map (crossingTick a)).filter fun m => decide ((n : Int) ≤ m)).foldl
    (fun acc m => match acc with | none => some m.toNat | some k => some (min k m.toNat)) none

/-- The dirty tile of a list for a tick and tile changed by `f`, added where it is missing. -/
def updDirty (n g p tx ty : Nat) (f : DirtyTile → DirtyTile) : List DirtyTile → List DirtyTile
  | [] => [f ⟨n, g, p, tx, ty, 0, false⟩]
  | d :: l => if d.tick = n ∧ d.port = p ∧ d.tx = tx ∧ d.ty = ty then f d :: l else d :: updDirty n g p tx ty f l

/-- The bit of element (x, y, pol) in its tile's mask. -/
def elementBit (x y : Nat) (pol : Bool) : Nat := 64 * b2n pol + (y % 8 * 8 + x % 8)

/-- Element (x, y, pol) marked dirty in tick `n` (R97). -/
def State.markDirty (s : State) (n p x y : Nat) (pol : Bool) : State :=
  let mark := fun (d : DirtyTile) => { d with mask := setBit d.mask (elementBit x y pol) true }
  s.setCv { s.cv with dirty := updDirty n (engineOf x y) p (x / 8) (y / 8) mark s.cv.dirty }

/-- The WHOLE mark of the tile of (x, y) set for tick `n` (R100). -/
def State.markWhole (s : State) (n p x y : Nat) : State :=
  s.setCv { s.cv with dirty := updDirty n (engineOf x y) p (x / 8) (y / 8) (fun d => { d with whole := true }) s.cv.dirty }

/-- The key of a wheel bit (R98). -/
def wheelKey (e slot p tx ty : Nat) : Nat := ((e * 512 + slot) * 8 + p) * 2 ^ 16 + ty * 256 + tx

/-- A tile's bit set in the slot of tick `m` (R98). -/
def State.schedule (s : State) (e p tx ty m : Nat) : State :=
  s.setCv { s.cv with wheel := SMap.set s.cv.wheel false (wheelKey e (m % 512) p tx ty) true }

/-! ### Activity and HOT (R89, R90) -/

/-- The age of the newest stamp that is not STALE, at stamp `ts` (R89). -/
def newestAge (p : Pixel) (ts : Nat) : Option Int :=
  match p.stalePos, p.staleNeg with
  | true, true => none
  | false, true => some (wrapDiff 24 ts p.pos)
  | true, false => some (wrapDiff 24 ts p.neg)
  | false, false => some (min (wrapDiff 24 ts p.pos) (wrapDiff 24 ts p.neg))

/-- ACT after an event (R89). -/
def nextAct (p : Pixel) (ts half : Nat) : Nat :=
  let k := match newestAge p ts with
    | none => 8
    | some a => min 8 (a.toNat / half)
  min 255 (p.act / 2 ^ k + 1)

/-- HOT_ON (R106: 1–255). -/
def State.hotOn (s : State) : Nat := s.getIn R.srfHotHotOn 1 255

/-- HOT_OFF: a value of HOT_ON or more acts as HOT_ON − 1 (R90). -/
def State.hotOff (s : State) : Nat := min (s.get R.srfHotHotOff) (s.hotOn - 1)

/-- HOT after an event (R90). -/
def State.nextHot (s : State) (was : Bool) (act : Nat) : Bool :=
  if s.hotOn ≤ act then true else if act ≤ s.hotOff then false else was

/-! ### Corner test (R83, R85–R88) -/

/-- Inner circle of R86. -/
def innerCircle : List (Int × Int) :=
  [(0, -3), (1, -3), (2, -2), (3, -1), (3, 0), (3, 1), (2, 2), (1, 3), (0, 3), (-1, 3), (-2, 2), (-3, 1), (-3, 0), (-3, -1),
    (-2, -2), (-1, -3)]

/-- Outer circle of R86. -/
def outerCircle : List (Int × Int) :=
  [(0, -4), (1, -4), (2, -3), (3, -2), (4, -1), (4, 0), (4, 1), (3, 2), (2, 3), (1, 4), (0, 4), (-1, 4), (-2, 3), (-3, 2),
    (-4, 1), (-4, 0), (-4, -1), (-3, -2), (-2, -3), (-1, -4)]

/-- The entries that engine `e` may see for key `k` (R83): the stored one, and what it held before each write of another engine that is younger than 4 ns on the same MSD or 80 ns on the other. -/
def State.visible (s : State) (e k : Nat) : List Nat :=
  s.entryAt k :: (s.cv.recent.filter fun w => w.key == k && w.engine != e
    && decide (s.now < w.time + (if dieOfEngine w.engine = dieOfEngine e then 4 else 80))).map (·.old)

/-- What engine `e` sees for key `k`; among several possible entries free value `i` chooses (log entry 19). [DESIGN CHOICE, log entry 19] -/
def State.seen (s : State) (e k i : Nat) : Pixel :=
  match s.visible e k with
  | [v] => pixelOf v
  | l => pixelOf (l.getD (Config.free (s.free + i) % l.length) entryInit)

/-- Infinite age (R87): above every finite one. -/
def infAge : Nat := 2 ^ 24

/-- The age of a neighbour under R87, seen by engine `e` with free value `i`. -/
def State.circleAge (s : State) (e p : Nat) (pol : Bool) (ts : Nat) (x y : Int) (i : Nat) : Nat :=
  if x < 0 ∨ y < 0 ∨ (s.width p : Int) ≤ x ∨ (s.height p : Int) ≤ y then infAge else
  let v := s.seen e (s.pixelKey p x.toNat y.toNat) i
  if v.stale pol || v.hot then infAge else (wrapDiff 24 ts (v.stamp pol)).toNat

/-- Whether the arc of length `len` from `start` holds only pixels strictly younger than every pixel outside it (R87). -/
def arcPasses (ages : List Nat) (start len : Nat) : Bool :=
  let n := ages.length
  let turned := ages.drop (start % n) ++ ages.take (start % n)
  (turned.take len).all fun a => (turned.drop len).all fun b => decide (a < b)

/-- Whether some arc with a length of `lens` passes. -/
def circlePasses (ages : List Nat) (lens : List Nat) : Bool :=
  (List.range ages.length).any fun st => lens.any fun len => arcPasses ages st len

/-- The corner test on the ages of both circles (R87). -/
def cornerTest (inner outer : List Nat) : Bool :=
  circlePasses inner [3, 4, 5, 6, 10, 11, 12, 13] && circlePasses outer [4, 5, 6, 7, 8, 12, 13, 14, 15, 16]

/-- The ages of a circle about (x, y), the first with free value `i0`. -/
def State.circleAges (s : State) (e p : Nat) (pol : Bool) (ts x y i0 : Nat) (offsets : List (Int × Int)) : List Nat :=
  offsets.zipIdx.map fun o => s.circleAge e p pol ts ((x : Int) + o.1.1) ((y : Int) + o.1.2) (i0 + o.2)

/-! ### Taps (R102–R104) -/

/-- One event counted by a decimator; true for one of each group of 2^d (R102). [DESIGN CHOICE, log entry 21] -/
def State.decimate (s : State) (k d : Nat) : State × Bool :=
  let n := SMap.get s.cv.decim 0 k
  (s.setCv { s.cv with decim := SMap.set s.cv.decim 0 k ((n + 1) % 2 ^ d) }, n == Config.tapPhase k % 2 ^ d)

/-- A committed event reaches the event tap (R102). -/
def State.tapEvent (s : State) (e p w : Nat) (poison : Bool) : State :=
  if s.flag R.srfTapEvtEn then
    let r := s.decimate (e * 16 + p) (s.get R.srfTapEvtDecim)
    if r.2 then r.1.tapEntry e false (leBytes w 8) poison else r.1
  else s

/-- An event that is a corner or has flow reaches the corner tap (R102, R104). -/
def State.tapCorner (s : State) (e w : Nat) (corner : Bool) (flow : Option (Nat × Nat)) (poison : Bool) : State :=
  if s.flag R.srfTapCrnEn && (corner || flow.isSome) then
    let r := s.decimate (e * 16 + 8) (s.get R.srfTapCrnDecim)
    let v := flow.getD (0, 0)
    if r.2 then
      r.1.tapEntry e true (leBytes w 8 ++ leBytes (b2n corner + 2 * b2n flow.isSome) 2 ++ leBytes v.1 2 ++ leBytes v.2 2 ++ [0, 0]) poison
    else r.1
  else s

/-! ### Surface update (R80, R84, R85, R88, R91, R97, R98, R100) -/

/-- An entry found with an uncorrectable error is rewritten STALE, both elements marked dirty (R441). [DEDUCED, log entry 58] -/
def State.reinit (s : State) (e p x y k : Nat) : State :=
  let n := s.tick
  let s1 := s.setCv { s.cv with bad := SMap.del k s.cv.bad }
  (((s1.writeEntry e k entryInit).markDirty n p x y true).markDirty n p x y false |>.inc R.cntCanvasReinit).fault .contained 0x03 (dieOfEngine e) e k

/-- The check of the Canvas entry with key `k` as it is read (R439); a word stored as poisoned counts no new error (R440). -/
def State.checkEntry (s : State) (k : Nat) (ecc : Ecc) : State :=
  if SMap.get s.cv.bad false k then s else s.eccRead ecc (dieMsd0 + k / 2 ^ 24) (4 + k / 2 ^ 24) k

/-- Whether the read of a Canvas entry delivers poison. -/
def State.entryBad (s : State) (k : Nat) (ecc : Ecc) : Bool := SMap.get s.cv.bad false k || ecc == .uncorrectable

/-- Engine `e` reads the entry of pixel `q` of port `p` (R439, R441). -/
def State.readPixel (s : State) (e p : Nat) (hits : List MemHit) (q : Nat × Nat) : State :=
  let k := s.pixelKey p q.1 q.2
  let ecc := hitOn hits (.canvas k)
  (s.checkEntry k ecc).when (s.entryBad k ecc) fun s => s.reinit e p q.1 q.2 k

/-- Engine `e` reads the entries of several pixels of port `p`. -/
def State.readPixels (s : State) (e p : Nat) (hits : List MemHit) (l : List (Nat × Nat)) : State :=
  s.each l fun s q => s.readPixel e p hits q

/-- The pixels at offsets from (x, y) that lie inside the sensor. -/
def State.near (s : State) (p x y : Nat) (offsets : List (Int × Int)) : List (Nat × Nat) :=
  (offsets.map fun o => ((x : Int) + o.1, (y : Int) + o.2)).filterMap fun q =>
    if 0 ≤ q.1 ∧ 0 ≤ q.2 ∧ q.1 < (s.width p : Int) ∧ q.2 < (s.height p : Int) then some (q.1.toNat, q.2.toNat) else none

/-- The marks that an event's commit makes (R97, R98, R100): `p0` the pixel before, `p1` after. [DESIGN CHOICE, log entry 59] -/
def State.markCommit (s : State) (p x y : Nat) (pol coal : Bool) (p0 p1 : Pixel) (raised : Bool) : State :=
  let n := s.tick
  let e := engineOf x y
  let e1 := s.get R.srfBinEdge1Edge
  let fresh := p0.stale pol || decide ((e1 : Int) ≤ wrapDiff 24 s.nowUs (p0.stamp pol))
  let s1 :=
    if raised && coal then s.markWhole n p x y
    else if raised && fresh && !s.masked p1 then s.markDirty n p x y pol
    else s
  let pre : Pixel := { p1 with hot := p0.hot }
  let moved := p0.hot != p1.hot && (s.binAt pre true s.nowUs != s.binAt p1 true s.nowUs || s.binAt pre false s.nowUs != s.binAt p1 false s.nowUs)
  let s2 := s1.when moved fun s => (s.markDirty n p x y true).markDirty n p x y false
  match raised, firstCrossing s.edges (absoluteUs s.nowUs (p1.stamp pol)) n with
  | true, some m => s2.schedule e p (x / 8) (y / 8) m
  | _, _ => s2

/-- The events an engine keeps for a later step: added at the end. -/
def pushEvent (m : SMap (List EngineEvent)) (e : Nat) (v : EngineEvent) : SMap (List EngineEvent) :=
  SMap.set m [] e (SMap.get m [] e ++ [v])

/-- A received event word is applied to the Canvas (R80–R100); `hits` names the entries whose checks fail as they are read. An event of an enabled port whose region is not enabled, which the spec does not speak of, is applied to the entry at BASE too. [DEDUCED, log entry 58; DESIGN CHOICE, log entry 157] -/
def State.apply (s : State) (e w : Nat) (hits : List MemHit) : State :=
  let ts := bits w 0 24
  let x := bits w 24 11
  let y := bits w 35 11
  let pol := bit w 46
  let p := bits w 47 3
  let k := s.pixelKey p x y
  let p0 := s.pixel p x y
  let raised := p0.stale pol || decide (0 < wrapDiff 24 ts (p0.stamp pol))
  let act := nextAct p0 ts (s.getIn R.srfHotHalfUs 1 65535)
  let hot := s.nextHot p0.hot act
  let tested := raised && !hot
  let s0 := s.when tested fun s => s.readPixels e p hits (s.near p x y (innerCircle ++ outerCircle))
  let corner := tested && cornerTest (s0.circleAges e p pol ts x y 0 innerCircle) (s0.circleAges e p pol ts x y 16 outerCircle)
  let p1 : Pixel := { (if raised then p0.raise pol ts else p0) with act := act, hot := hot, corner := if tested then corner else p0.corner }
  let s1 := (s0.took 36).writeEntry e k p1.entry
  let s2 := s1.markCommit p x y pol (bit w 50) p0 p1 raised
  let s3 := ((((s2.inc (R.srfCntUpdate e)).when raised fun s => s.inc (R.srfCntRaise e)).when corner fun s =>
    (s.inc (R.srfCntCorner e)).count (dieOfEngine e) 17 1).when hot fun s => s.inc (R.srfCntHotmask e)).count (dieOfEngine e) 16 1
  let poison := bit w 64
  let s4 := s3.tapEvent e p w poison
  let v : EngineEvent := ⟨w % 2 ^ 64, corner, s.now, poison⟩
  let s5 := if tested && s.flag R.srfCtlFlowEn then s4.setCv { s4.cv with fits := pushEvent s4.cv.fits e v }
    else s4.tapCorner e w corner none poison
  let s6 := s5.when (raised && !s.masked p1 && !s.dieOff dieMsd0 && !s.dieOff dieMsd1) fun s => s.setCv { s.cv with spikes := pushEvent s.cv.spikes e v }
  let n := SMap.get s6.obs.trace.evt 0 e
  let s7 := s6.when (s6.capturing && n == 0) fun s => s.trace (dieOfEngine e) 6 e 0 (w % 2 ^ 64)
  s7.when s7.capturing fun s => s.setTrace { s.obs.trace with evt := SMap.set s.obs.trace.evt 0 e ((n + 1) % 2 ^ s.get R.dbgTraceCfgEvtDecim) }

/-- The idle item of a 64-bit queue (R435). -/
def idleItem64 : Nat := 0x1D1E1D1E1D1E1D1E

/-- What surface engine `e` gets as it reads its input queue (R435): VALID and the word; an empty queue gives the idle item. -/
def State.pollWord (s : State) (e : Nat) : Bool × Nat :=
  match s.words e with
  | [] => (false, idleItem64)
  | w :: _ => (true, w)

/-- A surface engine takes its oldest event word (R29, R84, R435), once its route carries traffic (R12, R446). A word that fails its parity check is poisoned (R436). -/
def State.surfaceUpdate (s : State) (e : Nat) (hits : List MemHit) (parity : Bool) : State :=
  let q := s.pollWord e
  if !q.1 || !s.routeOpen (dieOfEngine e) then s else
  let w := if parity then q.2 % 2 ^ 64 + 2 ^ 64 else q.2
  let s1 := ({ s with ing := { s.ing with words := SMap.set s.ing.words [] e (s.words e).tail } }).parityCheck parity (dieOfEngine e) e
  (s1.readPixel e (bits w 47 3) hits (bits w 24 11, bits w 35 11)).apply e w hits

/-- SURFACE_UPDATE; the commit lies at the present device time (R30). [DEDUCED, log entry 148] -/
def execSurfaceUpdate (e : Fin 8) (hits : List MemHit) (parity : Bool) (s : State) : Host.Outcome State Fault Refusal :=
  .next (s.clocked (s.surfaceUpdate e hits parity))

/-! ### Normal flow (R92, R93) -/

/-- The 5 × 5 offsets. -/
def flowOffsets : List (Int × Int) :=
  [-2, -1, 0, 1, 2].flatMap fun dy => [-2, -1, 0, 1, 2].map fun dx => (dx, dy)

/-- The points of a fit: offsets and t = −age of the same-polarity neighbours younger than WIN_US; the event's own pixel is always one, with t = 0. -/
def State.flowPoints (s : State) (e p : Nat) (pol : Bool) (ts x y : Nat) : List (Int × Int × Int) :=
  (flowOffsets.zipIdx.filterMap fun o =>
    let a := s.circleAge e p pol ts ((x : Int) + o.1.1) ((y : Int) + o.1.2) o.2
    if o.1 = (0, 0) then some (0, 0, 0)
    else if a < s.get R.srfFlowWinUs then some (o.1.1, o.1.2, -(a : Int))
    else none)

/-- The sums of a fit over its points: of dx, dy, t, dx², dx·dy, dy², dx·t, dy·t. -/
structure FlowSums where
  n : Int
  x : Int
  y : Int
  t : Int
  xx : Int
  xy : Int
  yy : Int
  xt : Int
  yt : Int
  deriving DecidableEq, Repr

/-- The sums of points. -/
def flowSums (pts : List (Int × Int × Int)) : FlowSums :=
  let sum := fun (f : Int → Int → Int → Int) => (pts.map fun q => f q.1 q.2.1 q.2.2).sum
  ⟨pts.length, sum fun x _ _ => x, sum fun _ y _ => y, sum fun _ _ t => t, sum fun x _ _ => x * x, sum fun x y _ => x * y,
    sum fun _ y _ => y * y, sum fun x _ t => x * t, sum fun _ y t => y * t⟩

/-- The determinant of three rows of three. -/
def det3 (a b c d e f g h i : Int) : Int := a * (e * i - f * h) - b * (d * i - f * g) + c * (d * h - e * g)

/-- The least-squares solution of t = a·dx + b·dy + c over points (R92): a and b over a common denominator, which is 0 where the points allow no single solution. -/
def flowSolve (pts : List (Int × Int × Int)) : Int × Int × Int :=
  let s := flowSums pts
  (det3 s.xt s.xy s.x s.yt s.yy s.y s.t s.y s.n, det3 s.xx s.xt s.x s.xy s.yt s.y s.x s.t s.n, det3 s.xx s.xy s.x s.xy s.yy s.y s.x s.y s.n)

/-- A quotient of integers rounded to FP32, moved by `ulps` codes. -/
def ratio32 (num den ulps : Int) : FV :=
  let v := quot32 (decide (num < 0) != decide (den < 0)) num.natAbs 0 den.natAbs 0
  f32 ((code32 v : Int) + ulps).toNat

/-- The coefficients a and b of points in FP32 (R92): the exact solution but for the rounding of an FP32 evaluation. [DESIGN CHOICE, log entry 20] -/
def flowCoefs (pts : List (Int × Int × Int)) : FV × FV :=
  let d := flowSolve pts
  if d.2.2 = 0 then (f32 (Config.flowFlat pts).1, f32 (Config.flowFlat pts).2)
  else (ratio32 d.1 d.2.2 (Config.flowUlps pts).1, ratio32 d.2.1 d.2.2 (Config.flowUlps pts).2)

/-- The flow of points (R92): none below MIN_PTS points or where a² + b² < 2^−20. [DESIGN CHOICE, log entry 20] -/
def flowOf (minPts : Nat) (pts : List (Int × Int × Int)) : Option (Nat × Nat) :=
  if pts.length < minPts then none else
  let c := flowCoefs pts
  let q := (c.1.mul c.1).add (c.2.mul c.2)
  match q with
  | .fin .. =>
    if q.lt (.fin false 1 (-20)) then none
    else some (quotient16 ((ofInteger 1000).mul c.1) q, quotient16 ((ofInteger 1000).mul c.2) q)
  | _ => none

/-- The oldest fit of engine `e` completes (R92, R93); `hits` names the entries whose checks fail as they are read (R441). -/
def State.flowFit (s : State) (e : Nat) (hits : List MemHit) : State :=
  match SMap.get s.cv.fits [] e with
  | [] => s
  | v :: l =>
    let x := bits v.word 24 11
    let y := bits v.word 35 11
    let p := bits v.word 47 3
    let s0 := s.readPixels e p hits (s.near p x y flowOffsets)
    let flow := flowOf (s.getIn R.srfFlowMinPts 4 25) (s0.flowPoints e p (bit v.word 46) (bits v.word 0 24) x y)
    let s1 := ((s0.took 25).setCv { s0.cv with fits := SMap.set s0.cv.fits [] e l }).tapCorner e v.word v.corner flow v.poison
    match flow with
    | none => s1
    | some f => (s1.inc (R.srfCntFlow e)).setCv { s1.cv with flows := s1.cv.flows ++ [⟨p, x, y, f.1, f.2, v.time, v.poison⟩] }

/-- FLOW_FIT. -/
def execFlowFit (e : Fin 8) (hits : List MemHit) (s : State) : Host.Outcome State Fault Refusal := .next (s.clocked (s.flowFit e hits))

/-! ### Sweep, initialisation, STALE marking (R81, R430, R522) -/

/-- Whether the region of port `p` is enabled. -/
def State.regionOn (s : State) (p : Nat) : Bool := s.flag (R.srfRegionB0En p)

/-- A sweep visit at microsecond `u` (R81): the new pixel and how many polarities it marks. -/
def sweepPixel (p : Pixel) (u : Nat) : Pixel × Nat :=
  let old := fun pol => !p.stale pol && decide (4000000 ≤ ofInt 24 ((u : Int) - p.stamp pol))
  let q : Pixel := { p with stalePos := p.stalePos || old true, staleNeg := p.staleNeg || old false }
  (if q.stalePos && q.staleNeg then { q with act := 0, hot := false, corner := false } else q, b2n (old true) + b2n (old false))

/-- STALE_SWEEP_VISIT (R81, R82, R441). -/
def execStaleSweepVisit (p : Fin 8) (x : Nat) (y : Nat) (hits : List MemHit) (s : State) : Host.Outcome State Fault Refusal :=
  .next (s.clocked (if s.regionOn p && decide (x < s.width p) && decide (y < s.height p) then
      let s := s.readPixel (engineOf x y) p hits (x, y)
      let r := sweepPixel (s.pixel p x y) s.nowUs
      let e := engineOf x y
      (s.writeEntry e (s.pixelKey p x y) r.1.entry).add (R.srfCntStaleMark e) r.2
    else s))

/-- The first key and the number of entries of the part of port `p`'s region on MSD `m` (R77). -/
def State.regionPart (s : State) (p m : Nat) : Nat × Nat :=
  let base := if m = 0 then s.get (R.srfRegionB0Base p) else s.get (R.srfRegionB1Base p)
  let rows := if m = 0 then ceilDiv (s.tilesY p) 2 else s.tilesY p / 2
  (m * 2 ^ 24 + base * 64, rows * s.tilesX p * 64)

/-- Whether a key lies in port `p`'s region. -/
def State.inRegion (s : State) (p k : Nat) : Bool :=
  let a := s.regionPart p 0
  let b := s.regionPart p 1
  (decide (a.1 ≤ k) && decide (k < a.1 + a.2)) || (decide (b.1 ≤ k) && decide (k < b.1 + b.2))

/-- REGION_INIT (R522): every entry of the region takes its initial value. -/
def execRegionInit (p : Fin 8) (s : State) : Host.Outcome State Fault Refusal :=
  .next (s.clocked (if bit s.cv.inits p then
      s.setCv { s.cv with entries := s.cv.entries.filter (fun c => !s.inRegion p c.1), bad := s.cv.bad.filter (fun c => !s.inRegion p c.1), inits := setBit s.cv.inits p false, recent := s.cv.recent.filter (fun w => !s.inRegion p w.key) }
    else s))

/-- A region becomes new (R522). -/
def State.newRegion (s : State) (p : Nat) : State :=
  s.when (s.regionOn p) fun s => s.setCv { s.cv with inits := setBit s.cv.inits p true }

/-- Every polarity of an entry STALE. -/
def staleEntry (v : Nat) : Nat := setBit (setBit v 56 true) 57 true

/-- CANVAS_STALE_MARK (R362, R430). -/
def execCanvasStaleMark (s : State) : Host.Outcome State Fault Refusal :=
  .next (s.clocked (if s.ctl.staleMark then
      { s.setCv { s.cv with entries := (s.cv.entries.map fun c => (c.1, staleEntry c.2)).filter (fun c => c.2 != entryInit), recent := [] } with
        ctl := { s.ctl with staleMark := false } }
    else s))

/-- A write of SRF_REGIONp_B0 or B1 while stopped (R105, R522). -/
def State.writeRegion (s : State) (p half v : Nat) : State :=
  if half = 0 then
    let isNew := (!s.regionOn p && bit v 31) || bits v 0 17 != s.get (R.srfRegionB0Base p)
    ((s.set (R.srfRegionB0Base p) (bits v 0 17)).set (R.srfRegionB0En p) (bits v 31 1)).when isNew (·.newRegion p)
  else
    let isNew := bits v 0 17 != s.get (R.srfRegionB1Base p)
    (s.set (R.srfRegionB1Base p) (bits v 0 17)).when isNew (·.newRegion p)

/-! ### The aging wheel scan (R99, R101) -/

/-- The pixels of a tile inside the sensor. -/
def State.tilePixels (s : State) (p tx ty : Nat) : List (Nat × Nat) :=
  ((List.range 64).map fun i => (tx * 8 + i % 8, ty * 8 + i / 8)).filter fun q => decide (q.1 < s.width p) && decide (q.2 < s.height p)

/-- One tile of the scanned slot (R99, R441): elements whose crossing falls in tick `n` are marked, the tile goes to the slot of its earliest later crossing. -/
def State.scanTile (s : State) (e n p tx ty : Nat) (hits : List MemHit) : State :=
  let s := s.readPixels e p hits (s.tilePixels p tx ty)
  let u := s.nowUs
  let els := (s.tilePixels p tx ty).flatMap fun q => [(q, true), (q, false)]
  let live := els.filterMap fun a =>
    let px := s.pixel p a.1.1 a.1.2
    if px.stale a.2 then none else some (a, absoluteUs u (px.stamp a.2))
  let cross := live.filter fun a => s.edges.any fun ed => crossingTick a.2 ed == (n : Int)
  let s1 := (s.each cross fun s a => s.markDirty n p a.1.1.1 a.1.1.2 a.1.2).add (R.srfCntAgeMark e) cross.length
  let next := (live.filterMap fun a => firstCrossing s.edges a.2 (n + 1)).foldl
    (fun acc m => match acc with | none => some m | some k => some (min k m)) (none : Option Nat)
  match next with
  | some m => s1.schedule e p tx ty m
  | none => s1

/-- The tick that engine `e` scans next. -/
def State.scanTick (s : State) (e : Nat) : Nat := SMap.get s.cv.scan 0 e

/-- The tiles whose bit is set in slot `slot` of engine `e`. -/
def State.slotTiles (s : State) (e slot : Nat) : List (Nat × Nat × Nat) :=
  s.cv.wheel.filterMap fun c =>
    if c.1 / 2 ^ 19 = e * 512 + slot then some (c.1 / 2 ^ 16 % 8, c.1 % 256, c.1 / 256 % 256) else none

/-- A slot cleared. -/
def State.clearSlot (s : State) (e slot : Nat) : State :=
  s.setCv { s.cv with wheel := s.cv.wheel.filter fun c => !(c.1 / 2 ^ 19 == e * 512 + slot) }

/-- The scan of a closed tick by engine `e` (R99): marks and reschedules; the dirty set is then due for delivery (R101). -/
def State.scanSlot (s : State) (e n : Nat) (hits : List MemHit) : State :=
  let tiles := s.slotTiles e (n % 512)
  ((s.clearSlot e (n % 512)).each tiles fun s t => s.scanTile e n t.1 t.2.1 t.2.2 hits)

end Sys2Proof.Machine
end

