-- ==== Sys2Proof/Machine/Layer.lean ====
section
/-! DEFINITION. Layers: the descriptor of R159, geometry and taps (R160–R172, R521), number formats (R110–R116), evaluation (R119–R124). -/

namespace Sys2Proof.Machine

/-! ### Formats (R110, R114, R159) -/

/-- Operand formats by their codes. -/
inductive Fmt where
  | int4 | int8 | int16 | e4m3 | e5m2 | fp16 | bf16
  deriving DecidableEq, Repr

/-- The format of a code; none where the code is invalid. -/
def fmtOfCode : Nat → Option Fmt
  | 0 => some .int4 | 1 => some .int8 | 2 => some .int16 | 3 => some .e4m3 | 4 => some .e5m2 | 5 => some .fp16 | 6 => some .bf16
  | _ => none

/-- Whether a format is an integer format. -/
def Fmt.isInt : Fmt → Bool
  | .int4 | .int8 | .int16 => true
  | _ => false

/-- Width of a value in bits. -/
def Fmt.width : Fmt → Nat
  | .int4 => 4 | .int8 | .e4m3 | .e5m2 => 8 | .int16 | .fp16 | .bf16 => 16

/-- The floating-point format. -/
def Fmt.ff : Fmt → FFmt
  | .e4m3 => Sys2Proof.Machine.e4m3 | .e5m2 => Sys2Proof.Machine.e5m2 | .fp16 => Sys2Proof.Machine.fp16
  | .bf16 => Sys2Proof.Machine.bf16 | _ => fp32

/-- The value of a code in a floating-point format. -/
def Fmt.value (f : Fmt) (c : Nat) : FV := decodeF f.ff c

/-- The value of a code in an integer format. -/
def Fmt.int (f : Fmt) (c : Nat) : Int := toSigned f.width c

/-- Width W of an integer accumulator (R114). -/
def Fmt.accWidth : Fmt → Nat
  | .int16 => 64
  | _ => 32

/-- K_max of an integer format (R117). -/
def Fmt.depthMax : Fmt → Nat
  | .int4 => 2 ^ 24 | .int8 => 2 ^ 16 | _ => 2 ^ 32

/-- The bias range is −2^b to 2^b − 1 (R117). -/
def Fmt.biasBits : Fmt → Nat
  | .int16 => 62
  | _ => 30

/-- The counter of a tensor engine's products (R466). -/
def Fmt.macCounter : Fmt → Nat
  | .int4 => 0 | .int8 => 1 | .e4m3 | .e5m2 => 2 | .int16 => 3 | .fp16 => 4 | .bf16 => 5

/-- The counter of a Hem engine's products (R466). -/
def Fmt.hemCounter : Fmt → Nat
  | .int16 => 7 | .fp16 => 8 | _ => 6

/-! ### The layer descriptor (R159) -/

/-- An unsigned number in the descriptor. -/
def LayerSt.field (l : LayerSt) (ofs n lo w : Nat) : Nat := bits (leAt l.desc ofs n) lo w

/-- INDEX. -/
def LayerSt.index (l : LayerSt) : Nat := l.field 0 2 0 9
/-- KIND. -/
def LayerSt.kind (l : LayerSt) : Nat := l.field 2 1 0 8
/-- MAP. -/
def LayerSt.map (l : LayerSt) : Nat := l.field 3 1 0 2
/-- GAUZE_EL. -/
def LayerSt.gauzeEl (l : LayerSt) : Bool := bit (leAt l.desc 3 1) 2
/-- INCLUDE_PAD. -/
def LayerSt.includePad (l : LayerSt) : Bool := bit (leAt l.desc 3 1) 3
/-- PAD_MODE. -/
def LayerSt.padMode (l : LayerSt) : Nat := l.field 3 1 4 2
/-- FMT_W. -/
def LayerSt.fmtW (l : LayerSt) : Fmt := (fmtOfCode (l.field 4 1 0 4)).getD .int8
/-- FMT_IN. -/
def LayerSt.fmtIn (l : LayerSt) : Fmt := (fmtOfCode (l.field 4 1 4 4)).getD .int8
/-- FMT_OUT. -/
def LayerSt.fmtOut (l : LayerSt) : Fmt := (fmtOfCode (l.field 5 1 0 4)).getD .int8
/-- UNIT. -/
def LayerSt.unit (l : LayerSt) : Nat := l.field 6 1 0 7
/-- WMEM. -/
def LayerSt.wmem (l : LayerSt) : Nat := l.field 7 1 0 2
/-- PORT. -/
def LayerSt.port (l : LayerSt) : Nat := l.field 7 1 2 3
/-- IN_W. -/
def LayerSt.inW (l : LayerSt) : Nat := leAt l.desc 8 2
/-- IN_H. -/
def LayerSt.inH (l : LayerSt) : Nat := leAt l.desc 10 2
/-- IN_C. -/
def LayerSt.inC (l : LayerSt) : Nat := leAt l.desc 12 2
/-- OUT_C. -/
def LayerSt.outC (l : LayerSt) : Nat := leAt l.desc 14 2
/-- GROUPS. -/
def LayerSt.groups (l : LayerSt) : Nat := leAt l.desc 16 2
/-- KH. -/
def LayerSt.kh (l : LayerSt) : Nat := l.field 18 1 0 4
/-- KW. -/
def LayerSt.kw (l : LayerSt) : Nat := l.field 18 1 4 4
/-- Vertical stride. -/
def LayerSt.sh (l : LayerSt) : Nat := l.field 19 1 0 4 + 1
/-- Horizontal stride. -/
def LayerSt.sw (l : LayerSt) : Nat := l.field 19 1 4 4 + 1
/-- Vertical dilation. -/
def LayerSt.dh (l : LayerSt) : Nat := l.field 20 1 0 3 + 1
/-- Horizontal dilation. -/
def LayerSt.dw (l : LayerSt) : Nat := l.field 20 1 4 3 + 1
/-- PAD_T. -/
def LayerSt.padT (l : LayerSt) : Nat := l.field 21 1 0 4
/-- PAD_B. -/
def LayerSt.padB (l : LayerSt) : Nat := l.field 21 1 4 4
/-- PAD_L. -/
def LayerSt.padL (l : LayerSt) : Nat := l.field 22 1 0 4
/-- PAD_R. -/
def LayerSt.padR (l : LayerSt) : Nat := l.field 22 1 4 4
/-- Vertical upsampling. -/
def LayerSt.uh (l : LayerSt) : Nat := l.field 23 1 0 4 + 1
/-- Horizontal upsampling. -/
def LayerSt.uw (l : LayerSt) : Nat := l.field 23 1 4 4 + 1
/-- PAD_CONST as a code of FMT_IN. -/
def LayerSt.padConst (l : LayerSt) : Nat := leAt l.desc 24 2 % 2 ^ l.fmtIn.width
/-- TAU_C. -/
def LayerSt.tauC (l : LayerSt) : Nat := leAt l.desc 26 2
/-- The producer INDEX of each VALID edge, in edge order. -/
def LayerSt.edgeIndexes (l : LayerSt) : List Nat :=
  (List.range 4).filterMap fun i => let v := leAt l.desc (28 + 2 * i) 2; if bit v 15 then some (bits v 0 9) else none
/-- WEIGHT_OFS. -/
def LayerSt.weightOfs (l : LayerSt) : Nat := leAt l.desc 36 4
/-- PARAM_OFS. -/
def LayerSt.paramOfs (l : LayerSt) : Nat := leAt l.desc 40 4
/-- TABLE_OFS. -/
def LayerSt.tableOfs (l : LayerSt) : Nat := leAt l.desc 44 4
/-- The POL of each enabled CANVAS_SEL byte with its number, in byte order. -/
def LayerSt.canvasSel (l : LayerSt) : List (Nat × Bool) :=
  (List.range 8).filterMap fun c => let v := leAt l.desc (48 + c) 1; if bit v 7 then some (c, bit v 0) else none

/-- CONV. -/
def kConv : Nat := 1
/-- FC. -/
def kFc : Nat := 2
/-- ADD. -/
def kAdd : Nat := 3
/-- CONCAT. -/
def kConcat : Nat := 4
/-- UPSAMPLE. -/
def kUpsample : Nat := 5
/-- ACT. -/
def kAct : Nat := 6
/-- REQUANT. -/
def kRequant : Nat := 7
/-- MAXPOOL. -/
def kMaxpool : Nat := 8
/-- AVGPOOL. -/
def kAvgpool : Nat := 9
/-- CANVAS_IN. -/
def kCanvas : Nat := 10

/-- Whether a kind keeps an accumulator (R141). -/
def LayerSt.linear (l : LayerSt) : Bool := l.kind == kConv || l.kind == kFc || l.kind == kAdd || l.kind == kAvgpool

/-- Whether a kind has windows (R167). -/
def LayerSt.windowed (l : LayerSt) : Bool := l.kind == kConv || l.kind == kMaxpool || l.kind == kAvgpool

/-- Whether the layer is on a Hem engine. -/
def LayerSt.hem (l : LayerSt) : Bool := l.map == 2

/-- The compute die of the layer's unit (R520). -/
def LayerSt.die (l : LayerSt) : Nat := if l.unit < 64 then l.unit / 32 else (l.unit - 64) / 4

/-- The memory that holds the layer's weights and planes (R159): 0–63 core memories, 64–71 cluster memories, 72 and 73 the bolt stores. -/
def LayerSt.memory (l : LayerSt) : Nat :=
  if l.wmem = 0 then (if l.unit < 64 then l.unit else (l.unit - 64) * 8)
  else if l.wmem = 1 then 64 + (if l.unit < 64 then l.unit / 8 else l.unit - 64)
  else 70 + l.wmem

/-- Elements of the output plane. -/
def LayerSt.outElems (l : LayerSt) : Nat := l.outW * l.outH * l.outC

/-- The output length along one axis, none where it is empty (R164). -/
def axisLen (i plo phi k d st : Nat) : Option Nat :=
  let e := d * (k - 1) + 1
  if e ≤ i + plo + phi then some ((i + plo + phi - e) / st + 1) else none

/-- Output width and height from the input and the geometry (R160, R164). -/
def LayerSt.outShape (l : LayerSt) : Option (Nat × Nat) :=
  if l.kind = kConv ∨ l.kind = kMaxpool ∨ l.kind = kAvgpool then
    let dw := if l.kind = kConv then l.dw else 1
    let dh := if l.kind = kConv then l.dh else 1
    match axisLen l.inW l.padL l.padR l.kw dw l.sw, axisLen l.inH l.padT l.padB l.kh dh l.sh with
    | some w, some h => some (w, h)
    | _, _ => none
  else if l.kind = kFc then some (1, 1)
  else if l.kind = kUpsample then some (l.inW * l.uw, l.inH * l.uh)
  else some (l.inW, l.inH)

/-- The reduction depth (R117): products of one output element, pad taps counted. -/
def LayerSt.depth (l : LayerSt) : Nat :=
  if l.kind = kConv then l.inC / l.groups * l.kh * l.kw
  else if l.kind = kFc then l.inW * l.inH * l.inC
  else if l.kind = kAdd then 2
  else if l.kind = kAvgpool then l.kh * l.kw
  else 1

/-- Weights that a layer has. -/
def LayerSt.weightCount (l : LayerSt) : Nat :=
  if l.kind = kConv ∨ l.kind = kFc then l.outC * l.depth else if l.kind = kAdd then 2 else 0

/-! ### Taps (R165, R166, R521) -/

/-- What a tap reads: an input element of an edge, or a pad value. -/
inductive Src where
  | elem (edge i : Nat)
  | pad (code : Nat)
  deriving DecidableEq, Repr

/-- One tap of an output element: what it reads, its weight (none for the unit weight of AVGPOOL), its kernel position. -/
structure Tap1 where
  src : Src
  weight : Option Nat
  pos : Nat
  deriving DecidableEq, Repr

/-- The coordinate that tap `k` reads (R165), with whether it is in the image. -/
def tapCoord (o st plo k d len : Nat) : Nat × Bool :=
  let c : Int := (o * st : Nat) - (plo : Int) + (k * d : Nat)
  if c < 0 then (0, false) else if (len : Int) ≤ c then (len - 1, false) else (c.toNat, true)

/-- The source of the tap at kernel position (ky, kx), input channel `c`, of output (ox, oy). -/
def LayerSt.tapSrc (l : LayerSt) (ox oy ky kx c : Nat) : Src :=
  let dw := if l.kind = kConv then l.dw else 1
  let dh := if l.kind = kConv then l.dh else 1
  let x := tapCoord ox l.sw l.padL kx dw l.inW
  let y := tapCoord oy l.sh l.padT ky dh l.inH
  if (x.2 && y.2) || l.padMode == 2 then .elem 0 ((y.1 * l.inW + x.1) * l.inC + c)
  else .pad (if l.padMode = 1 then l.padConst else 0)

/-- Whether the tap at (ky, kx) of output (ox, oy) lies in the image. -/
def LayerSt.inImage (l : LayerSt) (ox oy ky kx : Nat) : Bool :=
  let dw := if l.kind = kConv then l.dw else 1
  let dh := if l.kind = kConv then l.dh else 1
  (tapCoord ox l.sw l.padL kx dw l.inW).2 && (tapCoord oy l.sh l.padT ky dh l.inH).2

/-- In-image taps of a window (R169, R170). -/
def LayerSt.liveTaps (l : LayerSt) (ox oy : Nat) : Nat :=
  ((List.range (l.kh * l.kw)).filter fun k => l.inImage ox oy (k / l.kw) (k % l.kw)).length

/-- Whether the window of an output position is void (R170). -/
def LayerSt.void (l : LayerSt) (ox oy : Nat) : Bool :=
  (l.kind == kMaxpool || l.kind == kAvgpool) && l.liveTaps ox oy == 0

/-- Kernel positions with input channels in the layer's reduction order (R521): (ky, kx, ic). -/
def LayerSt.order (l : LayerSt) (icg : Nat) : List (Nat × Nat × Nat) :=
  if l.map = 0 then
    (List.range l.kh).flatMap fun ky => (List.range l.kw).flatMap fun kx => (List.range icg).map fun c => (ky, kx, c)
  else
    (List.range icg).flatMap fun c => (List.range l.kh).flatMap fun ky => (List.range l.kw).map fun kx => (ky, kx, c)

/-- The taps of output element `o` in reduction order (R521). -/
def LayerSt.taps (l : LayerSt) (o : Nat) : List Tap1 :=
  let oc := o % l.outC
  let ox := o / l.outC % l.outW
  let oy := o / l.outC / l.outW
  if l.kind = kConv then
    let icg := l.inC / l.groups
    let g := oc / (l.outC / l.groups)
    (l.order icg).map fun t =>
      ⟨l.tapSrc ox oy t.1 t.2.1 (g * icg + t.2.2), some (((oc * icg + t.2.2) * l.kh + t.1) * l.kw + t.2.1), t.1 * l.kw + t.2.1⟩
  else if l.kind = kFc then
    let n := l.inW * l.inH * l.inC
    (List.range n).map fun i => ⟨.elem 0 i, some (oc * n + i), 0⟩
  else if l.kind = kAdd then [⟨.elem 0 o, some 0, 0⟩, ⟨.elem 1 o, some 1, 0⟩]
  else if l.kind = kMaxpool ∨ l.kind = kAvgpool then
    if l.void ox oy then [] else
    (l.order 1).filterMap fun t =>
      if l.kind = kAvgpool ∧ !l.includePad ∧ !l.inImage ox oy t.1 t.2.1 then none
      else some ⟨l.tapSrc ox oy t.1 t.2.1 oc, none, t.1 * l.kw + t.2.1⟩
  else if l.kind = kAct ∨ l.kind = kRequant then [⟨.elem 0 o, none, 0⟩]
  else if l.kind = kUpsample then [⟨.elem 0 ((oy / l.uh * l.inW + ox / l.uw) * l.inC + oc), none, 0⟩]
  else []

/-- Effective rows N_r of a column (R108). -/
def LayerSt.rows (l : LayerSt) : Nat :=
  match l.fmtIn with
  | .int4 => 32
  | .int16 | .fp16 | .bf16 => 4
  | _ => 16

/-! ### Column sums (R112, R113, R521) -/

/-- One product slot: its exact value, and the kernel position it belongs to. -/
structure Slot where
  v : FV
  pos : Nat
  deriving DecidableEq, Repr

/-- Groups of terms cut into column sums of at most `n` slots; a term's slots stay together, and where `split` a sum never spans two kernel positions. [DESIGN CHOICE, log entry 69] -/
def cutSums (n : Nat) (split : Bool) : List (List Slot) → List Slot → List (List Slot)
  | [], cur => if cur.isEmpty then [] else [cur]
  | t :: ts, cur =>
    let pos := (t.head?.map (·.pos)).getD 0
    let full := n < cur.length + t.length || (split && (cur.head?.map (·.pos)).getD pos != pos)
    if full && !cur.isEmpty then cur :: cutSums n split ts t else cutSums n split ts (cur ++ t)

/-- A column sum: exact, then rounded once to FP32 (R112, R113). -/
def columnSum (l : List Slot) : FV := round32 ((l.map (·.v)).foldl FV.add (.fin true 0 0))

/-- Column sums added to an accumulator in order (R112). -/
def addSums (acc : Nat) (sums : List (List Slot)) : Nat :=
  sums.foldl (fun a t => code32 (add32 (f32 a) (columnSum t))) acc

/-- A slot whose product Gauze mode skips: it adds nothing and keeps its place (R130). -/
def idleSlot (pos : Nat) : Slot := ⟨.fin true 0 0, pos⟩

/-! ### Evaluation (R119–R124) -/

/-- BIAS of parameter entry `c`: an integer of 64 bits, or an FP32 code. -/
def LayerSt.bias (l : LayerSt) (c : Nat) : Nat := leAt l.params (16 * c) 8
/-- RQ_MULT or SCALE of parameter entry `c`. -/
def LayerSt.scale (l : LayerSt) (c : Nat) : Nat := leAt l.params (16 * c + 8) 4
/-- RQ_SHIFT of parameter entry `c`. -/
def LayerSt.shift (l : LayerSt) (c : Nat) : Nat := bits (leAt l.params (16 * c + 12) 1) 0 6

/-- The requantized value r of R119 from the W-bit sum S. -/
def requant (sum : Int) (mult shift : Nat) : Int :=
  let p := sum * toSigned 32 mult
  if shift = 0 then p else floorDiv (p + 2 ^ (shift - 1)) (2 ^ shift)

/-- The table output of R120 or R121. -/
def LayerSt.lookup (l : LayerSt) (r : Int) : Nat :=
  if l.fmtOut = .int16 then
    let i := (clampInt (-32768) 32767 r + 32768).toNat
    let base := toSigned 16 (leAt l.table (4 * (i / 256)) 2)
    let slope := toSigned 16 (leAt l.table (4 * (i / 256) + 2) 2)
    ofInt 16 (clampInt (-32768) 32767 (base + floorDiv (slope * (i % 256 : Nat) + 128) 256))
  else
    let i := (clampInt (-128) 127 r + 128).toNat
    ofInt l.fmtOut.width (toSigned 8 (leAt l.table i 1))

/-- A clamp to the range of an integer format (R160, REQUANT). -/
def clampFmt (f : Fmt) (r : Int) : Nat := ofInt f.width (clampInt (-(2 ^ (f.width - 1))) (2 ^ (f.width - 1) - 1) r)

/-- What an evaluation gives: the output code, whether a conversion saturated, whether it is NaN. -/
structure Eval where
  code : Nat
  sat : Bool := false
  nan : Bool := false
  deriving DecidableEq, Repr

/-- An output value converted to FMT_OUT (R124). -/
def LayerSt.convert (l : LayerSt) (y : FV) : Eval :=
  let o := toOut l.fmtOut.ff y
  ⟨o.1, o.2, y == .nan⟩

/-- The sign of a value: true for negative. -/
def FV.sign : FV → Bool
  | .nan => false
  | .inf n => n
  | .fin n _ _ => n

/-- Whether a value is zero. -/
def FV.isZero : FV → Bool
  | .fin _ m _ => m == 0
  | _ => false

/-- Whether a value is infinite. -/
def FV.isInf : FV → Bool
  | .inf _ => true
  | _ => false

/-- The piecewise-linear table of R122 at v. -/
def LayerSt.segment (l : LayerSt) (v : FV) : FV :=
  let u := mul32 (sub32 v (f32 (leAt l.table 0 4))) (f32 (leAt l.table 4 4))
  let seg := fun g => (f32 (leAt l.table (8 + 8 * g) 4), f32 (leAt l.table (12 + 8 * g) 4))
  match v, u with
  | .nan, _ => .nan
  | _, .nan => .nan
  | .inf n, _ =>
    let g := match u with | .inf m => if m then 0 else 255 | x => (clampInt 0 255 x.floor).toNat
    let p := seg g
    if p.2.isZero then p.1 else .inf (p.2.sign != n)
  | _, .inf m =>
    let p := seg (if m then 0 else 255)
    if p.2.isZero then p.1 else .inf (p.2.sign != m)
  | _, x =>
    let g := (clampInt 0 255 x.floor).toNat
    let p := seg g
    add32 p.1 (mul32 p.2 (sub32 x (ofInteger g)))

/-- The segment of the table that R122 reads for v: 256 where it reads none, u being NaN. -/
def LayerSt.segmentOf (l : LayerSt) (v : FV) : Nat :=
  match mul32 (sub32 v (f32 (leAt l.table 0 4))) (f32 (leAt l.table 4 4)) with
  | .nan => 256
  | .inf m => if m then 0 else 255
  | x => (clampInt 0 255 x.floor).toNat

/-- The parameter entry of an output element (R161): its channel, or for AVGPOOL its divisor − 1. -/
def LayerSt.entry (l : LayerSt) (o : Nat) : Nat :=
  if l.kind = kAvgpool then
    (if l.includePad then l.kh * l.kw else l.liveTaps (o / l.outC % l.outW) (o / l.outC / l.outW)) - 1
  else o % l.outC

/-- y′ of an output element from its accumulator code, or from its input code for ACT and REQUANT (R119–R124, R160). -/
def LayerSt.evaluate (l : LayerSt) (o a : Nat) : Eval :=
  let c := l.entry o
  if l.fmtIn.isInt then
    let w := l.fmtIn.accWidth
    let x : Int := if l.kind = kAct ∨ l.kind = kRequant then l.fmtIn.int a else toSigned w a
    let sum := toSigned w (ofInt w (x + toSigned 64 (l.bias c)))
    let r := requant sum (l.scale c) (l.shift c)
    if l.kind = kRequant then ⟨clampFmt l.fmtOut r, false, false⟩ else ⟨l.lookup r, false, false⟩
  else
    let x := if l.kind = kAct ∨ l.kind = kRequant then l.fmtIn.value a else f32 a
    let v := mul32 (add32 x (f32 (l.bias c % 2 ^ 32))) (f32 (l.scale c))
    l.convert (if l.kind = kRequant then v else l.segment v)

/-- The table entries that an evaluation reads (R120–R122): an index, a segment, or 256 for LO and INV_STEP. -/
def LayerSt.tableKeys (l : LayerSt) (o a : Nat) : List Nat :=
  let c := l.entry o
  if l.kind = kRequant then []
  else if l.fmtIn.isInt then
    let w := l.fmtIn.accWidth
    let x : Int := if l.kind = kAct then l.fmtIn.int a else toSigned w a
    let r := requant (toSigned w (ofInt w (x + toSigned 64 (l.bias c)))) (l.scale c) (l.shift c)
    if l.fmtOut = .int16 then [(clampInt (-32768) 32767 r + 32768).toNat / 256] else [(clampInt (-128) 127 r + 128).toNat]
  else
    let x := if l.kind = kAct then l.fmtIn.value a else f32 a
    [256, l.segmentOf (mul32 (add32 x (f32 (l.bias c % 2 ^ 32))) (f32 (l.scale c)))]

/-- Whether an evaluation draws on a poisoned parameter or table entry (R442). -/
def LayerSt.evalPoison (l : LayerSt) (o a : Nat) : Bool :=
  SMap.get l.poisonParam false (l.entry o) || (!l.poisonTable.isEmpty && (l.tableKeys o a).any fun k => SMap.get l.poisonTable false k)

/-! ### Input values, products, recomputation -/

/-- The present code that a source reads from the input copies. -/
def LayerSt.readCopy (l : LayerSt) : Src → Nat
  | .elem e i => ((l.edges.getD e ⟨0, [], [], []⟩).copy).getD i 0
  | .pad c => c

/-- The applied code that a source reads (R134): the stored applied value where the pending bit is set, else the input copy. -/
def LayerSt.readApplied (l : LayerSt) : Src → Nat
  | .elem e i =>
    let ed := l.edges.getD e ⟨0, [], [], []⟩
    match SMap.find? i ed.pend with
    | some a => a.value
    | none => ed.copy.getD i 0
  | .pad c => c

/-- Whether the input copy of a source is poisoned. -/
def LayerSt.poisoned (l : LayerSt) : Src → Bool
  | .elem e i => SMap.get (l.edges.getD e ⟨0, [], [], []⟩).poison false i
  | .pad _ => false

/-- Whether the applied value of a source is poisoned (R134, R442). -/
def LayerSt.poisonedApplied (l : LayerSt) : Src → Bool
  | .elem e i =>
    match SMap.find? i (l.edges.getD e ⟨0, [], [], []⟩).pend with
    | some a => a.poison
    | none => SMap.get (l.edges.getD e ⟨0, [], [], []⟩).poison false i
  | .pad _ => false

/-- Whether the weight of a tap is poisoned (R442). -/
def LayerSt.weightPoison (l : LayerSt) (t : Tap1) : Bool :=
  match t.weight with
  | some i => SMap.get l.poisonW false i
  | none => false

/-- The weight of a tap as an integer. [DESIGN CHOICE, log entry 31] -/
def LayerSt.intWeight (l : LayerSt) (t : Tap1) : Int :=
  match t.weight with
  | some i => l.fmtW.int (l.weights.getD i 0)
  | none => 1

/-- The weight of a tap as a value. [DESIGN CHOICE, log entry 31] -/
def LayerSt.fpWeight (l : LayerSt) (t : Tap1) : FV :=
  match t.weight with
  | some i => l.fmtW.value (l.weights.getD i 0)
  | none => ofInteger 1

/-- The slots of a recomputation under a reading of the sources: one product a tap (R521). -/
def LayerSt.fullSlots (l : LayerSt) (rd : Src → Nat) (o : Nat) : List (List Slot) :=
  (l.taps o).map fun t => [⟨(l.fpWeight t).mul (l.fmtIn.value (rd t.src)), t.pos⟩]

/-- A recomputed accumulator (R112, R115, R521). -/
def LayerSt.recompute (l : LayerSt) (rd : Src → Nat) (o : Nat) : Nat :=
  if l.fmtIn.isInt then
    ofInt l.fmtIn.accWidth ((l.taps o).map fun t => l.intWeight t * l.fmtIn.int (rd t.src)).sum
  else addSums 0 (cutSums l.rows (l.map == 0) (l.fullSlots rd o) [])

/-- Whether code `a` of an integer format exceeds code `b`. -/
def greaterInt (f : Fmt) (a b : Nat) : Bool := decide (f.int b < f.int a)

/-- Whether `a` replaces `b` as the maximum in a floating-point window (R168): larger, or +0 against −0. -/
def greaterFp (a b : FV) : Bool := b.lt a || (a.isZero && b.isZero && !a.sign && b.sign)

/-- The output of a max pooling window (R168, R170). -/
def LayerSt.maxWindow (l : LayerSt) (rd : Src → Nat) (o : Nat) : Nat :=
  match (l.taps o).map fun t => rd t.src with
  | [] => 0
  | c :: cs =>
    if l.fmtIn.isInt then cs.foldl (fun m x => if greaterInt l.fmtIn x m then x else m) c
    else if (c :: cs).any fun x => l.fmtIn.value x == .nan then nanCode l.fmtIn.ff
    else cs.foldl (fun m x => if greaterFp (l.fmtIn.value x) (l.fmtIn.value m) then x else m) c

/-- Whether an output element is part of a void window. -/
def LayerSt.isVoid (l : LayerSt) (o : Nat) : Bool := l.void (o / l.outC % l.outW) (o / l.outC / l.outW)

/-- The source of an output element of CONCAT, given the channels of each edge (R160). -/
def concatSrc (chans : List Nat) (x : Nat) (c : Nat) : Option (Nat × Nat) :=
  (chans.foldl (fun (a : Option (Nat × Nat) × Nat × Nat) k =>
    match a.1 with
    | some r => (some r, a.2)
    | none => if c < a.2.2 + k then (some (a.2.1, x * k + (c - a.2.2)), a.2) else (none, a.2.1 + 1, a.2.2 + k)) (none, 0, 0)).1

/-- The channels of each edge of a CONCAT, from the sizes of its input copies. -/
def LayerSt.edgeChans (l : LayerSt) : List Nat := l.edges.map fun e => e.copy.length / (l.inW * l.inH)

/-- The sources of an output element, CONCAT included. -/
def LayerSt.sources (l : LayerSt) (o : Nat) : List Src :=
  if l.kind = kConcat then
    match concatSrc l.edgeChans (o / l.outC) (o % l.outC) with
    | some r => [.elem r.1 r.2]
    | none => []
  else (l.taps o).map (·.src)

/-- Whether a recomputation of an output element draws on poison: `src` tells it of the sources (R442). -/
def LayerSt.drawsPoison (l : LayerSt) (src : Src → Bool) (o : Nat) : Bool :=
  (l.sources o).any src || (l.linear && (l.taps o).any l.weightPoison)

/-- Whether a recomputation meets an infinite operand of a floating-point array (R133). -/
def LayerSt.drawsInf (l : LayerSt) (rd : Src → Nat) (o : Nat) : Bool :=
  l.linear && !l.fmtIn.isInt && (l.taps o).any fun t => (l.fpWeight t).isInf || (l.fmtIn.value (rd t.src)).isInf

/-- The value that a layer's output has for given inputs, with no accumulator kept (R141, R153). A max pooling or a copy that passes a NaN on produces none of its own. [DESIGN CHOICE, log entry 158] -/
def LayerSt.fresh (l : LayerSt) (rd : Src → Nat) (o : Nat) : Eval :=
  if l.isVoid o then ⟨0, false, false⟩
  else if l.linear then l.evaluate o (l.recompute rd o)
  else if l.kind = kAct ∨ l.kind = kRequant then l.evaluate o (rd (.elem 0 o))
  else if l.kind = kMaxpool then ⟨l.maxWindow rd o, false, false⟩
  else match l.sources o with
    | t :: _ => ⟨rd t, false, false⟩
    | [] => ⟨0, false, false⟩

end Sys2Proof.Machine
end

