-- ==== Sys2Proof/Machine/Dense.lean ====
section
/-! DEFINITION. Frameless delta inference (R134–R158): conversion, delta packets, passes, evaluation, completion, cuts, drain, sweeps. -/

namespace Sys2Proof.Machine

/-- The dense path replaced. -/
def State.setTns (s : State) (d : Dense) : State := { s with tns := d }

/-- Whether the set that the dense path works stands in the active place (R350). -/
def State.workActive (s : State) : Bool :=
  match s.tns.next with
  | some n => inActivePlace s.tns.swaps n
  | none => true

/-- The set that the dense path works. -/
def State.workSet (s : State) : Option ConfigSet := if s.workActive then s.active else s.shadow

/-- The worked set changed. -/
def State.modifyWork (s : State) (f : ConfigSet → ConfigSet) : State :=
  if s.workActive then { s with active := s.active.map f } else { s with shadow := s.shadow.map f }

/-- The layers of the worked set. -/
def State.layers (s : State) : List LayerSt :=
  match s.workSet with
  | some c => c.layers
  | none => []

/-- A layer that stands for a missing one. -/
def noLayer : LayerSt := { desc := [] }

/-- The layer at position `i` of the worked set. -/
def State.layer (s : State) (i : Nat) : LayerSt := s.layers.getD i noLayer

/-- The layer at position `i` replaced. -/
def State.setLayer (s : State) (i : Nat) (l : LayerSt) : State :=
  s.modifyWork fun c => { c with layers := c.layers.set i l }

/-- Positions of the layers. -/
def State.layerIdx (s : State) : List Nat := List.range s.layers.length

/-! ### Dies and dependence (R454) -/

/-- Whether a layer can run: its die is online, and so are those of every layer it depends on. Producers lie at lower positions. -/
def liveFlags (off : Nat → Bool) : List LayerSt → List Bool → List Bool
  | [], acc => acc
  | l :: ls, acc => liveFlags off ls (acc ++ [!off l.die && l.edges.all fun e => acc.getD e.producer true])

/-- Whether layer `i` of the worked set runs. -/
def State.live (s : State) (i : Nat) : Bool := (liveFlags (fun d => s.offline d) s.layers []).getD i false

/-! ### Delta packets and their groups (R156, R437) -/

/-- The delta packets on their way among the layers of the worked set. -/
def State.packets (s : State) : List DeltaPacket := match s.workSet with | some c => c.packets | none => []

/-- Groups that are filled and taken whole end (R437). -/
def ConfigSet.endGroups (c : ConfigSet) : ConfigSet :=
  { c with groups := c.groups.filter fun g => g.2.len.isNone || c.packets.any fun k => k.group == g.1 }

/-- The packets left after some are taken or discarded. -/
def ConfigSet.leave (c : ConfigSet) (l : List DeltaPacket) : ConfigSet := { c with packets := l }.endGroups

/-- Producer `p` sends packets as words of its open group; the first word of a group follows its reserved length slot (R437). -/
def ConfigSet.send (c : ConfigSet) (p : Nat) (ps : List DeltaPacket) : ConfigSet :=
  if ps.isEmpty then c else
  let g := (SMap.find? p c.opened).getD c.nextGroup
  let n := if g = c.nextGroup then g + 1 else c.nextGroup
  { c with packets := c.packets ++ ps.map (fun k => { k with group := g }), opened := SMap.put p g c.opened, nextGroup := n,
           groups := SMap.upd c.groups {} g fun x => { x with words := x.words + ps.length } }

/-- The length slots of the open groups of the producers that `f` names are filled; `error` where a lost die cannot go on with them (R437, R438). -/
def ConfigSet.fill (c : ConfigSet) (f : Nat → Bool) (error : Bool) : ConfigSet :=
  let due := (c.opened.filter fun o => f o.1).map (·.2)
  { c with opened := c.opened.filter fun o => !f o.1,
           groups := c.groups.map fun (g : Nat × Group) => if due.contains g.1 then (g.1, { g.2 with len := some g.2.words, error := error }) else g }.endGroups

/-! ### Protected words of layers (R439, R440, R442) -/

/-- The layer that a word belongs to. -/
def wordLayer : MemWord → Option Nat
  | .weight l _ | .param l _ | .table l _ | .acc l _ | .act l _ | .copy l _ _ => some l
  | _ => none

/-- The element number of a word of a layer (R465). -/
def wordElem : MemWord → Nat
  | .weight _ i | .param _ i | .table _ i | .acc _ i | .act _ i | .copy _ _ i => i
  | _ => 0

/-- First byte and length of a table entry (R161). -/
def LayerSt.tableSpan (l : LayerSt) (k : Nat) : Nat × Nat :=
  if l.kind = kCanvas then (2 * k, 2)
  else match l.fmtOut with
    | .int4 | .int8 => (k, 1)
    | .int16 => (4 * k, 4)
    | _ => if k = 256 then (0, 8) else (8 + 8 * k, 8)

/-- Whether the layer holds a word. -/
def LayerSt.holds (l : LayerSt) : MemWord → Bool
  | .weight _ i => decide (i < l.weights.length)
  | .param _ i => decide (16 * i < l.params.length)
  | .table _ k => decide ((l.tableSpan k).1 < l.table.length)
  | .acc _ i => decide (i < l.acc.length)
  | .act _ i => decide (i < l.act.length)
  | .copy _ e i => decide (i < (l.edges.getD e ⟨0, [], [], []⟩).copy.length)
  | _ => false

/-- Whether a word of the layer is stored as poisoned. -/
def LayerSt.isBad (l : LayerSt) : MemWord → Bool
  | .weight _ i => SMap.get l.poisonW false i
  | .param _ i => SMap.get l.poisonParam false i
  | .table _ k => SMap.get l.poisonTable false k
  | .acc _ i => SMap.get l.poisonAcc false i
  | .act _ i => SMap.get l.poisonAct false i
  | .copy _ e i => SMap.get (l.edges.getD e ⟨0, [], [], []⟩).poison false i
  | _ => false

/-- A word of the layer stored as poisoned; what it reads as is the free value `v`. [DESIGN CHOICE, log entry 70] -/
def LayerSt.spoil (l : LayerSt) (v : Nat) : MemWord → LayerSt
  | .weight _ i => { l with weights := l.weights.set i (v % 2 ^ l.fmtW.width), poisonW := SMap.set l.poisonW false i true }
  | .param _ i => { l with params := patch l.params (16 * i) (leBytes v 16), poisonParam := SMap.set l.poisonParam false i true }
  | .table _ k => { l with table := patch l.table (l.tableSpan k).1 (leBytes v (l.tableSpan k).2), poisonTable := SMap.set l.poisonTable false k true }
  | .acc _ i =>
    { l with acc := l.acc.set i (v % 2 ^ (if l.fmtIn.isInt then l.fmtIn.accWidth else 32)), poisonAcc := SMap.set l.poisonAcc false i true }
  | .act _ i => { l with act := l.act.set i (v % 2 ^ l.fmtOut.width), poisonAct := SMap.set l.poisonAct false i true }
  | .copy _ e i =>
    { l with edges := l.edges.modify e fun x => { x with copy := x.copy.set i (v % 2 ^ l.fmtIn.width), poison := SMap.set x.poison false i true } }
  | _ => l

/-- A read of a word of a layer finds what `h` says (R439, R440): a poisoned word counts no new error. -/
def State.checkWord (s : State) (l : LayerSt) (h : MemHit) : State × LayerSt :=
  let t := s.eccRead h.ecc (dieOfMemory l.memory) (placeOfMemory l.memory) (l.index + 512 * wordElem h.word)
  if !l.holds h.word || l.isBad h.word then (s, l)
  else match h.ecc with
    | .ok | .single => (t, l)
    | .uncorrectable => (t.took 1, l.spoil t.freeValue h.word)

/-- Reads of layer `i` of the worked set find what `hits` says of its words. -/
def State.readLayer (s : State) (hits : List MemHit) (i : Nat) : State :=
  s.each (hits.filter fun h => wordLayer h.word == some i) fun s h =>
    let r := s.checkWord (s.layer i) h
    r.1.setLayer i r.2

/-! ### Arithmetic status (R113, R124, R133) -/

/-- Layer `i` produced NaN in the present unit of work. [DESIGN CHOICE, log entry 71] -/
def State.sawNan (s : State) (i : Nat) : State :=
  if s.flag R.tnsArithStatusNan && s.tns.nanUnit.isNone then s
  else
    let k := (s.layer i).index
    (s.setFlag R.tnsArithStatusNan true).setTns { s.tns with nanUnit := some (match s.tns.nanUnit with | some x => min x k | none => k) }

/-- A unit of work ends: TNS_ARITH_NAN_LAYER takes the lowest layer that produced NaN in it (R113). [DESIGN CHOICE, log entry 38; DESIGN CHOICE, log entry 71] -/
def State.endUnit (s : State) : State :=
  match s.tns.nanUnit with
  | some k => ((s.set R.tnsArithNanLayerLayer k).setFlag R.tnsArithNanLayerValid true).setTns { s.tns with nanUnit := none }
  | none => s

/-- The status of an evaluation of layer `i`, counted in LUT_EVAL or POOL_WIN (R466). -/
def State.evalStatus (s : State) (i : Nat) (e : Eval) : State :=
  let l := s.layer i
  let s1 := (s.when e.sat fun s => s.setFlag R.tnsArithStatusSat true).when e.nan fun s => s.sawNan i
  let s2 := s1.when (l.kind == kMaxpool || l.kind == kAvgpool) fun s => s.count l.die 11 1
  s2.when (l.linear || l.kind == kAct || l.kind == kRequant) fun s => s.count l.die 10 1

/-- Product slots issued by layer `i`, and slots skipped (R466). -/
def State.countSlots (s : State) (i n skipped : Nat) : State :=
  let l := s.layer i
  (s.count l.die (if l.hem then 6 + (l.fmtIn.hemCounter - 6) else l.fmtIn.macCounter) n).count l.die 9 skipped

/-! ### Gauze (R126–R131) -/

/-- The Gauze level of die `d` for the work of tick `n` (R128). -/
def State.gauzeLevel (s : State) (n d : Nat) : Nat := bits (SMap.get s.tns.levels 0 n) (5 * d) 5

/-- The active threshold of a layer at level `lv`: an integer, or an FP32 value (R126, R128). A ceiling below 0, infinite or NaN, which R126 excludes, goes through the same product. [DESIGN CHOICE, log entry 158] -/
def LayerSt.threshold (l : LayerSt) (lv : Nat) : FV :=
  if !l.gauzeEl || l.hem then ofInteger 0
  else if l.fmtIn.isInt then ofInteger (l.tauC * lv / 16 : Nat)
  else mul32 (mul32 (decodeF fp16 l.tauC) (ofInteger lv)) (.fin false 1 (-4))

/-- Whether a delta is skipped (R127). -/
def LayerSt.skips (l : LayerSt) (th : FV) (new old : Nat) : Bool :=
  if l.fmtIn.isInt then (ofInteger ((l.fmtIn.int new - l.fmtIn.int old).natAbs : Nat)).lt th
  else (sub32 (l.fmtIn.value new) (l.fmtIn.value old)).abs.lt th

/-- TNS_GAUZE_TAINT.ANY in step with the active set (R131, R133). -/
def State.showTaint (s : State) : State :=
  s.setFlag R.tnsGauzeTaintAny (match s.active with | some c => c.layers.any (·.tainted) | none => false)

/-- Every layer that runs a tick with a threshold above 0 becomes tainted (R131). -/
def State.taintAll (s : State) (n : Nat) : State :=
  let s1 := s.each (s.layerIdx.filter s.live) fun s i =>
    let l := s.layer i
    if (ofInteger 0).lt (l.threshold (s.gauzeLevel n l.die)) then s.setLayer i { l with tainted := true, passBegun := false } else s
  s1.showTaint.setTns { s1.tns with gauzeSeen := s1.layers.any (·.tainted) }

/-! ### Changes and delta packets (R138, R156) -/

/-- Edges that layer `p` feeds: consumer position and edge number. -/
def State.consumers (s : State) (p : Nat) : List (Nat × Nat) :=
  s.layers.zipIdx.flatMap fun l => (l.1.edges.zipIdx.filter fun e => e.1.producer == p).map fun e => (l.2, e.2)

/-- Layer `p` changes element `i` of its plane to `new` (R138, R156): a packet to each consumer edge, then its own plane. -/
def State.change (s : State) (p i new : Nat) (poison : Bool) : State :=
  let l := s.layer p
  let old := l.act.getD i 0
  let ps := (s.consumers p).map fun c => (⟨p, c.1, c.2, i, old, new, poison, 0⟩ : DeltaPacket)
  (s.modifyWork fun c => c.send p ps).setLayer p { l with act := l.act.set i new, poisonAct := SMap.set l.poisonAct false i poison }

/-- An evaluation's value reaches the plane: R138 where it differs, poison as the operands had it (R442). -/
def State.produce (s : State) (p i new : Nat) (poison : Bool) : State :=
  let l := s.layer p
  if new = l.act.getD i 0 then s.setLayer p { l with poisonAct := SMap.set l.poisonAct false i poison }
  else s.change p i new poison

/-- An edge takes a change (R138). -/
def EdgeSt.take (e : EdgeSt) (i old new : Nat) (poison : Bool) : EdgeSt :=
  let pend := match SMap.find? i e.pend with
    | some _ => e.pend
    | none => SMap.put i ⟨old, SMap.get e.poison false i⟩ e.pend
  { e with pend := pend, copy := e.copy.set i new, poison := SMap.set e.poison false i poison }

/-- A delta packet reaches its consumer (R138, R156); one addressed to an offline die is discarded (R454). -/
def State.receive (s : State) (k : DeltaPacket) : State :=
  let l := s.layer k.consumer
  if s.offline l.die then s.inc R.cntDieDiscard
  else s.setLayer k.consumer { l with edges := l.edges.modify k.edge fun e => e.take k.elem k.old k.new k.poison }

/-- The core that a packet is addressed from or to. -/
def State.unitOf (s : State) (i : Nat) : Nat := (s.layer i).unit

/-- Whether packet `i` may arrive: a tick is being worked (R147, R154), no earlier packet between the same two units waits (R156), and the link between their dies carries traffic (R446). -/
def State.mayArrive (s : State) (i : Nat) (k : DeltaPacket) : Bool :=
  s.tns.working
    && ((s.packets.take i).all fun x => !(s.unitOf x.producer == s.unitOf k.producer && s.unitOf x.consumer == s.unitOf k.consumer))
    && ((s.layer k.producer).die == (s.layer k.consumer).die || s.linkOpen 4)

/-! ### Passes (R139, R167, R521) -/

/-- What a delta pass does to one accumulator element. -/
structure PassOut where
  acc : Nat
  poison : Bool
  slots : Nat
  skipped : Nat
  inf : Bool
  /-- A column sum or the sum with it came out NaN (R113). -/
  nan : Bool := false
  deriving DecidableEq, Repr

/-- The pending entry that a tap draws on, with the new code. -/
def LayerSt.pending (l : LayerSt) (t : Tap1) : Option (Applied × Nat × Bool) :=
  match t.src with
  | .elem e i =>
    let ed := l.edges.getD e ⟨0, [], [], []⟩
    (SMap.find? i ed.pend).map fun a => (a, ed.copy.getD i 0, SMap.get ed.poison false i)
  | .pad _ => none

/-- The delta terms of output element `o`: taps whose element is pending with a changed value. -/
def LayerSt.terms (l : LayerSt) (o : Nat) : List (Tap1 × Applied × Nat × Bool) :=
  (l.taps o).filterMap fun t => (l.pending t).bind fun p => if p.1.value = p.2.1 then none else some (t, p)

/-- One accumulator element under a delta pass with threshold `th` (R112, R115, R116, R127, R521); a skipped product keeps its slot (R130). [DESIGN CHOICE, log entry 69] -/
def LayerSt.passElem (l : LayerSt) (th : FV) (o : Nat) : PassOut :=
  let ts := l.terms o
  let run := ts.filter fun t => !l.skips th t.2.2.1 t.2.1.value
  let a := l.acc.getD o 0
  let p := SMap.get l.poisonAcc false o || run.any fun t => t.2.1.poison || t.2.2.2 || l.weightPoison t.1
  if l.fmtIn.isInt then
    let d := (run.map fun t => l.intWeight t.1 * (l.fmtIn.int t.2.2.1 - l.fmtIn.int t.2.1.value)).sum
    ⟨ofInt l.fmtIn.accWidth (a + d), p, run.length, ts.length - run.length, false, false⟩
  else
    let slots := ts.map fun t =>
      let w := l.fpWeight t.1
      if l.skips th t.2.2.1 t.2.1.value then [idleSlot t.1.pos, idleSlot t.1.pos]
      else [(⟨w.mul (l.fmtIn.value t.2.2.1), t.1.pos⟩ : Slot), ⟨(w.mul (l.fmtIn.value t.2.1.value)).neg, t.1.pos⟩]
    let sums := cutSums l.rows (l.map == 0) slots []
    let acc := addSums a sums
    let inf := run.any fun t => (l.fpWeight t.1).isInf || (l.fmtIn.value t.2.2.1).isInf || (l.fmtIn.value t.2.1.value).isInf
    ⟨acc, p, 2 * run.length, 2 * (ts.length - run.length), inf, f32 acc == .nan && (f32 a != .nan || sums.any fun t => columnSum t == .nan)⟩

/-- Input elements of an edge that no tap reads (R167). -/
def LayerSt.unread (l : LayerSt) (i : Nat) : Bool :=
  l.windowed && (List.range l.outElems).all fun o => (l.taps o).all fun t => t.src != .elem 0 i

/-- Pending elements that are absorbed (R167): read by no tap, and changed. -/
def LayerSt.absorbed (l : LayerSt) : Nat :=
  ((l.edges.getD 0 ⟨0, [], [], []⟩).pend.filter fun p => l.unread p.1 && (l.edges.getD 0 ⟨0, [], [], []⟩).copy.getD p.1 0 != p.2.value).length

/-- Every pending store of a layer emptied. -/
def LayerSt.clearPend (l : LayerSt) : LayerSt := { l with edges := l.edges.map fun e => { e with pend := [] } }

/-- Whether a layer has a pending element. -/
def LayerSt.hasPend (l : LayerSt) : Bool := l.edges.any fun e => !e.pend.isEmpty

/-- Absorbed elements counted. -/
def State.countAbsorbed (s : State) (i : Nat) : State :=
  let n := (s.layer i).absorbed
  (s.add R.cntAbsorbed n).count (s.layer i).die 12 n

/-- One accumulator element after a pass: value, mark, poison, status. -/
def State.storePass (s : State) (i o : Nat) (r : PassOut) : State :=
  let l := s.layer i
  let moved := r.acc != l.acc.getD o 0
  let s1 := s.setLayer i { l with acc := l.acc.set o r.acc, poisonAcc := SMap.set l.poisonAcc false o r.poison, marks := if moved then SMap.put o true l.marks else l.marks }
  ((s1.countSlots i r.slots r.skipped).when r.inf fun s => s.setFlag R.tnsArithStatusInfIn true).when r.nan fun s => s.sawNan i

/-- A delta pass of a linear layer over all its pending elements (R139) at Gauze level `lv`. -/
def State.deltaPass (s : State) (i lv : Nat) : State :=
  let l := s.layer i
  if !l.linear || !l.hasPend then s else
  let th := l.threshold lv
  let touched := (List.range l.outElems).filter fun o => !(l.terms o).isEmpty
  let s1 := (s.countAbsorbed i).each touched fun s o => s.storePass i o (l.passElem th o)
  s1.setLayer i (s1.layer i).clearPend

/-- The Gauze level of the work in progress on layer `i`: 0 in a drain (R150). -/
def State.workLevel (s : State) (i : Nat) : Nat :=
  match s.tns.next with
  | some n => if s.tns.working then s.gauzeLevel n (s.layer i).die else 0
  | none => 0

/-- DELTA_PACKET (R156): packet `i` arrives in the work of a tick; `pass` lets the consumer run a pass at once (R140). -/
def execDeltaPacket (i : Nat) (pass parity : Bool) (hits : List MemHit) (s : State) : Host.Outcome State Fault Refusal :=
  .next (s.clocked (match s.packets[i]? with
    | none => s
    | some k =>
      if !s.mayArrive i k then s else
      let s1 := (s.modifyWork fun c => c.leave (c.packets.eraseIdx i)).readLayer hits k.consumer
      let s2 := s1.parityCheck parity (s.layer k.consumer).die (s.unitOf k.consumer)
      (s2.receive { k with poison := k.poison || parity }).when pass fun s => s.deltaPass k.consumer (s.workLevel k.consumer)))

/-! ### Evaluation (R140, R141) -/

/-- Whether layer `i` has finished its work: no packet to it, nothing pending, no mark, no tile to convert. -/
def State.layerDone (s : State) (i : Nat) : Bool :=
  let l := s.layer i
  !l.hasPend && l.marks.isEmpty && s.packets.all (fun k => k.consumer != i) && s.tns.todo.all (fun t => t.layer != i)

/-- Whether layer `i` and every layer it depends on have finished (R140, R178); `n` bounds the depth. -/
def State.depsDone (s : State) : Nat → Nat → Bool
  | 0, _ => true
  | n + 1, i => (s.layer i).edges.all fun e => !s.live e.producer || (s.layerDone e.producer && s.depsDone n e.producer)

/-- Whether every producer of layer `i` has finished its work of the tick. -/
def State.producersDone (s : State) (i : Nat) : Bool := s.depsDone s.layers.length i

/-- Whether no change is still on its way to layer `i`. -/
def State.heardAll (s : State) (i : Nat) : Bool := s.packets.all fun k => k.consumer != i

/-- Producers that have finished fill the length slots of their groups (R437). -/
def State.fillDone (s : State) : State := s.modifyWork fun c => c.fill (fun p => s.layerDone p && s.producersDone p) false

/-- Every open group is filled: its producer sends no more in this tick or slice (R437). -/
def State.fillAll (s : State) : State := s.modifyWork fun c => c.fill (fun _ => true) false

/-- One marked element evaluated (R119–R124, R140). -/
def State.evalMark (s : State) (i o : Nat) : State :=
  let l := s.layer i
  let e := l.evaluate o (l.acc.getD o 0)
  let poison := SMap.get l.poisonAcc false o || l.evalPoison o (l.acc.getD o 0)
  ((s.setLayer i { l with marks := SMap.del o l.marks }).evalStatus i e).produce i o e.code poison

/-- The output elements that draw on a pending element of a layer without accumulator (R141). -/
def LayerSt.touched (l : LayerSt) : List Nat :=
  (List.range l.outElems).filter fun o => (l.sources o).any fun t =>
    match t with
    | .elem e i => (SMap.find? i (l.edges.getD e ⟨0, [], [], []⟩).pend).isSome
    | .pad _ => false

/-- A layer without accumulator recomputes the outputs of its pending elements (R141). -/
def State.recomputePend (s : State) (i : Nat) : State :=
  let l := s.layer i
  let s1 := (s.countAbsorbed i).setLayer i l.clearPend
  s1.each l.touched fun s o =>
    let e := l.fresh l.readCopy o
    (s.evalStatus i e).produce i o e.code (l.drawsPoison l.poisoned o || ((l.kind == kAct || l.kind == kRequant) && l.evalPoison o (l.readCopy (.elem 0 o))))

/-- Layer `i` works its pending elements, then evaluates up to `n` marked elements, the lowest first (R139–R141). -/
def State.evaluateLayer (s : State) (i n : Nat) : State :=
  let l := s.layer i
  if !s.producersDone i || !s.heardAll i || !s.live i then s
  else if l.linear then
    let s1 := s.deltaPass i (s.workLevel i)
    s1.each (((s1.layer i).marks.map (·.1)).take n) fun s o => s.evalMark i o
  else s.recomputePend i

/-- LAYER_EVALUATION (R140). -/
def execLayerEvaluation (l n : Nat) (hits : List MemHit) (s : State) : Host.Outcome State Fault Refusal :=
  .next (s.clocked (if s.tns.working && decide (l < s.layers.length) then ((s.readLayer hits l).evaluateLayer l n).fillDone else s))

/-! ### Conversion (R101, R136, R137, R144–R146) -/

/-- The layer's table value of a bin for a Canvas channel (R161, R175). -/
def LayerSt.binValue (l : LayerSt) (c bin : Nat) : Nat := leAt l.table (2 * (8 * c + bin)) 2 % 2 ^ l.fmtOut.width

/-- The bin of a polarity that a Hem engine reads (R137): of an entry that delivers poison, a free one (R439). [DESIGN CHOICE, log entry 70] -/
def State.hemBin (s : State) (k : Nat) (pol : Bool) (u : Nat) (bad : Bool) : Nat :=
  if bad then s.freeValue % 8 else s.binAt (pixelOf (s.entryAt k)) pol u

/-- One pixel polarity converted for a CANVAS_IN layer at device microsecond `u` (R137, R175); `hits` names the entries whose checks fail. -/
def State.convertElem (s : State) (i x y : Nat) (pol : Bool) (u : Nat) (hits : List MemHit) : State :=
  let l := s.layer i
  let k := s.pixelKey l.port x y
  let ecc := hitOn hits (.canvas k)
  let bad := s.entryBad k ecc
  let bin := s.hemBin k pol u bad
  (((s.checkEntry k ecc).took (b2n bad)).inc R.cntHemConv).each (l.canvasSel.zipIdx.filter fun c => c.1.2 == pol) fun s c =>
    s.produce i ((y * l.outW + x) * l.outC + c.2) (l.binValue c.1.1 bin) (bad || SMap.get l.poisonTable false (8 * c.1.1 + bin))

/-- One dirty tile converted for a layer (R137). -/
def State.convertTile (s : State) (t : ConvTile) (u : Nat) (hits : List MemHit) : State :=
  (s.readLayer hits t.layer).each ((s.tilePixels t.port t.tx t.ty).flatMap fun q => [(q, true), (q, false)]) fun s a =>
    if t.whole || bit t.mask (elementBit a.1.1 a.1.2 a.2) then s.convertElem t.layer a.1.1 a.1.2 a.2 u hits else s

/-- The closing instant of tick `n` in device microseconds. -/
def closingUs (n : Nat) : Nat := (n + 1) * 25

/-- Up to `k` tiles converted for tick `n`. -/
def State.convertTiles (s : State) (n : Nat) (hits : List MemHit) : Nat → State
  | 0 => s
  | k + 1 =>
    match s.tns.todo with
    | [] => s
    | t :: ts => ((s.setTns { s.tns with todo := ts }).convertTile t (closingUs n) hits).convertTiles n hits k

/-- The CANVAS_IN layers that read port `p`. -/
def State.canvasLayers (s : State) (p : Nat) : List Nat :=
  s.layerIdx.filter fun i => (s.layer i).kind == kCanvas && (s.layer i).port == p && s.live i

/-- The tiles of tick `n` for every CANVAS_IN layer: the carried ones, the delivered ones, or every tile of every enabled region where the tick is WHOLE (R136, R147). -/
def State.tickTiles (s : State) (n : Nat) : List ConvTile :=
  let carried := match s.workSet with | some c => c.carried | none => []
  if s.tns.whole.contains n then
    ((List.range 8).filter s.regionOn).flatMap fun p => (s.canvasLayers p).flatMap fun i =>
      (List.range (s.tilesY p)).flatMap fun ty => (List.range (s.tilesX p)).map fun tx => ⟨i, p, tx, ty, 0, true⟩
  else
    carried ++ (s.tns.inbox.filter fun d => d.tick == n).flatMap fun d => (s.canvasLayers d.port).map fun i => ⟨i, d.port, d.tx, d.ty, d.mask, d.whole⟩

/-- The engines whose dirty set a tick waits for: every one of an online MSD. -/
def State.allDelivered (s : State) (n : Nat) : Bool :=
  !s.offline dieMsd0 && !s.offline dieMsd1 && SMap.get s.tns.delivered 0 n == 255

/-- Whether the work of tick `n` is ready (R146) but for the end of the tick before. -/
def State.tickReady (s : State) (n : Nat) : Bool := s.reached ((n + 1) * tickNs) && s.allDelivered n && !s.late n

/-- Carried tiles of the worked set replaced. -/
def State.setCarried (s : State) (l : List ConvTile) : State :=
  s.modifyWork fun c => { c with carried := l }

/-- A slice that still runs as a tick becomes ready is abandoned (R152). -/
def State.abandonSlices (s : State) : State :=
  let k := b2n s.tns.check.running + b2n s.tns.refresh.running
  (s.add R.cntSliceAbandon k).setTns
    { s.tns with check := { s.tns.check with running := false }, refresh := { s.tns.refresh with running := false }, busy := s.tns.busy || k != 0 }

/-- Issue starts from idle on both compute dies: the permitted activity rises from 0 (R398). [DEDUCED, log entry 160] -/
def State.startIssue (s : State) : State :=
  { s with pwr := { s.pwr with permit := [(0, 0, s.now), (1, 0, s.now)] } }

/-- The work of tick `n` becomes ready (R146). -/
def State.beginTick (s : State) (n : Nat) : State :=
  let s0 := s.abandonSlices
  let s1 := s0.when (!s0.tns.busy) (·.startIssue)
  let todo := s1.tickTiles n
  let s2 := (s1.setCarried []).setTns
    { s1.tns with working := true, busy := false, todo := todo, inbox := s1.tns.inbox.filter (fun d => d.tick != n), delivered := SMap.del n s1.tns.delivered, dppDone := [], dets := [] }
  s2.taintAll n

/-- The Hem engines convert up to `k` tiles of tick `n`; none while a region still waits for its initialisation (R522). -/
def State.convertSome (s : State) (n : Nat) (hits : List MemHit) (k : Nat) : State :=
  if s.cv.inits = 0 then (s.convertTiles n hits k).fillDone else s

/-- TICK_WORK_READY (R146): the next tick's work begins once its dirty sets are delivered, and Hem engines convert up to `tiles` tiles; a link that retrains holds both (R446). -/
def execTickWorkReady (tiles : Nat) (hits : List MemHit) (s : State) : Host.Outcome State Fault Refusal :=
  .next (s.clocked (match s.tns.next with
    | none => s
    | some n =>
      if !s.memOpen then s
      else if s.tns.working then s.convertSome n hits tiles
      else if s.tickReady n then (s.beginTick n).convertSome n hits tiles
      else s))

/-! ### The aging wheel scan and delivery (R99, R101) -/

/-- Whether tick `n` belongs to the run: surface engines deliver its dirty set (R353). -/
def State.inRun (s : State) (n : Nat) : Bool :=
  match s.tns.next with
  | some k => decide (k ≤ n) && (s.run == runRunning || (s.run == runStopping && decide (n < s.get R.hifStopTickTick)))
  | none => false

/-- Engine `e` hands over its dirty set of tick `n` (R101), or drops it outside a run. Its bit in `delivered` is the filled length slot that ends its tick packet (R437); a slice that runs as the tick becomes ready is abandoned (R152). -/
def State.deliverDirty (s : State) (e n : Nat) : State :=
  let mine := s.cv.dirty.filter fun d => d.engine == e && d.tick == n
  let rest := s.cv.dirty.filter fun d => !(d.engine == e && decide (d.tick ≤ n))
  let s1 := s.setCv { s.cv with dirty := rest, scan := SMap.set s.cv.scan 0 e (n + 1) }
  if s.inRun n then
    let s2 := s1.setTns { s1.tns with inbox := s1.tns.inbox ++ mine, delivered := SMap.upd s1.tns.delivered 0 n fun m => setBit m e true }
    s2.when (!s.tns.working && s.tns.next == some n && s2.tickReady n) (·.abandonSlices)
  else s1

/-- AGING_WHEEL_SCAN (R99, R101): the engine's oldest closed tick is scanned and its dirty set delivered. -/
def execAgingWheelScan (e : Fin 8) (hits : List MemHit) (s : State) : Host.Outcome State Fault Refusal :=
  .next (
    let n := s.scanTick e
    if s.awake && s.reached ((n + 1) * tickNs) && !s.offline (dieOfEngine e) then (s.scanSlot e n hits).deliverDirty e n else s)

/-! ### Completion and cut (R142, R147–R149) -/

/-- DET_LAG as it acts (R158). -/
def State.detLag (s : State) : Nat := s.getIn R.tnsDeltaCtlDetLag 1 8

/-- The publish deadline of tick `n` in ns (R33). -/
def State.deadline (s : State) (n : Nat) : Nat := (n + 1 + s.detLag) * tickNs

/-- Whether descriptor `d` can run: its head layers are live (R454). -/
def State.layerPos (s : State) (index : Nat) : Nat := (s.layers.findIdx? fun l => l.index == index).getD s.layers.length

/-- SCORE_LAYER and BOX_LAYER as positions. -/
def State.heads (s : State) (d : DppDesc) : Nat × Nat := (s.layerPos (leAt d.desc 6 2 % 512), s.layerPos (leAt d.desc 8 2 % 512))

/-- The DPP descriptors of the worked set. -/
def State.dpps (s : State) : List DppDesc :=
  match s.workSet with
  | some c => c.dpps
  | none => []

/-- Whether a DPP descriptor's head layers run. -/
def State.dppLive (s : State) (d : DppDesc) : Bool := s.live (s.heads d).1 && s.live (s.heads d).2

/-- Whether the dense work is complete (R142, R454). -/
def State.workDone (s : State) : Bool :=
  s.tns.todo.isEmpty && (s.layerIdx.all fun i => !s.live i || s.layerDone i)
    && (s.dpps.zipIdx.all fun d => !s.dppLive d.1 || s.tns.dppDone.contains d.2)

/-- The ego head layer. -/
def State.headLayer (s : State) : LayerSt := s.layer (s.layerPos (s.get R.ftuVisHeadLayer))

/-- Elements of the ego head's six channels. -/
def State.headElems (s : State) : List Nat := (List.range 6).map fun k => s.get R.ftuVisChCh0 + k

/-- An ego head code as FP32: (q − ZP) × SCALE (R264). -/
def State.headValue (s : State) (f : Fmt) (w : Nat) : Nat :=
  let zp := s.getInt R.ftuVisChZp
  let q := if f.isInt then ofInteger (f.int w - zp) else sub32 (f.value w) (ofInteger zp)
  code32 (mul32 q (f32 (s.get R.ftuVisScaleScale)))

/-- The values of the ego head layer (R264). -/
def State.headValues (s : State) : List Nat :=
  if s.flag R.ftuVisHeadEn then s.headElems.map fun i => s.headValue s.headLayer.fmtOut (s.headLayer.act.getD i 0) else []

/-- Whether an ego head element is poisoned. -/
def State.headPoisoned (s : State) : Bool := s.headElems.any fun i => SMap.get s.headLayer.poisonAct false i

/-- The result of tick `n` kept for the FTU, and the next tick's turn; the sweeps begin anew where it is worked with the other set. [DESIGN CHOICE, log entry 158] -/
def State.endTick (s : State) (n : Nat) (r : TickResult) : State :=
  let s1 := s.fillAll.endUnit
  let moves := inActivePlace s.tns.swaps n != inActivePlace s.tns.swaps (n + 1)
  s1.setTns
    { s1.tns with
      next := some (n + 1), working := false, carry := false
      swaps := s.tns.swaps.filter (fun x => !x.2 || decide (n + 1 < x.1))
      results := SMap.put n r s.tns.results, whole := s.tns.whole.filter (fun k => decide (n < k)), levels := SMap.del n s.tns.levels
      dppDone := [], dets := []
      check := if moves then {} else s1.tns.check
      refresh := if moves then {} else s1.tns.refresh }

/-- Whether the check sweep visits layer `i` (R151): an integer layer, not Gauze-eligible, that runs. -/
def State.checks (s : State) (i : Nat) : Bool :=
  let l := s.layer i
  l.kind != kCanvas && l.fmtIn.isInt && !l.gauzeEl && s.live i

/-- Whether the refresh sweep visits layer `i` (R151). -/
def State.refreshes (s : State) (i : Nat) : Bool :=
  let l := s.layer i
  l.kind != kCanvas && (!l.fmtIn.isInt || l.gauzeEl) && s.live i

/-- The gap after a completed tick: enabled sweeps start a slice unless the next tick is ready at once or the run has stopped (R152, R353). -/
def State.startSlices (s : State) (n : Nat) : State :=
  let gap := !s.tickReady (n + 1) && s.run == runRunning
  let c := gap && s.flag R.tnsSweepCtlCheckEn && s.layerIdx.any s.checks
  let r := gap && s.flag R.tnsSweepCtlRefreshEn && s.layerIdx.any s.refreshes
  s.setTns { s.tns with check := { s.tns.check with running := c }, refresh := { s.tns.refresh with running := r } }

/-- The TICK trace entry (R473): slack in ns, whether the tick was cut. -/
def State.traceTick (s : State) (n : Nat) (cut : Bool) : State :=
  s.trace dieIod 0 0 (n % 2 ^ 32) (n % 2 ^ 64 + 2 ^ 64 * ofInt 32 ((s.deadline n : Int) - s.now) + 2 ^ 96 * b2n cut)

/-- TICK_COMPLETE (R142, R149, R158): the work of the tick is complete by its deadline. [DEDUCED, log entry 72] -/
def execTickComplete (s : State) : Host.Outcome State Fault Refusal :=
  .next (s.clocked (match s.tns.next with
    | none => s
    | some n =>
      if s.tns.working && s.workDone && decide (s.now ≤ s.deadline n) then
        let r : TickResult := { done := true, gauze := s.tns.gauzeSeen, dets := s.tns.dets, head := s.headValues, headPoison := s.headPoisoned }
        let s1 := (((s.endTick n r).inc R.cntTickDone).set R.tnsSlackLastNs (s.deadline n - s.now)).set R.tnsDeltaStatusCutStreak 0
        (s1.startSlices n).traceTick n false
      else s))

/-- TICK_CUT (R147, R158): at the deadline the unfinished work passes to the next tick. A tick whose dirty sets never came is cut too. [DEDUCED, log entry 72] -/
def execTickCut (s : State) : Host.Outcome State Fault Refusal :=
  .next (s.clocked (match s.tns.next with
    | none => s
    | some n =>
      if s.reached (s.deadline n) && !(s.tns.working && s.workDone) && decide (s.run = runRunning ∨ n < s.get R.hifStopTickTick) then
        let s0 := if s.tns.working then s else s.beginTick n
        let left := s0.tns.todo
        let s1 := (s0.setCarried left).endTick n { gauze := s0.tns.gauzeSeen }
        let s2 := (s1.setTns { s1.tns with todo := [], carry := true }).inc R.cntTickCut
        (((s2.setFlag R.tnsDeltaStatusCut true).set R.tnsDeltaStatusCutStreak (min 255 (s.get R.tnsDeltaStatusCutStreak + 1))).set
          R.tnsLastCutTickTick n |>.condition 2).traceTick n true
      else s))

/-! ### Drain (R150) -/

/-- Every packet addressed to layer `i` arrives, in order. -/
def State.receiveAll (s : State) (i : Nat) : State :=
  let mine := s.packets.filter fun k => k.consumer == i
  (s.modifyWork fun c => c.leave (c.packets.filter fun k => k.consumer != i)).each mine fun s k => s.receive k

/-- Layer `i` finishes: packets, pending elements, marks. [DESIGN CHOICE, log entry 68] -/
def State.finishLayer (s : State) (i : Nat) : State :=
  let s1 := s.receiveAll i
  if s1.live i then s1.evaluateLayer i (s1.layer i).outElems else s1

/-- Whether the dense path has work that a drain must finish. -/
def State.mustDrain (s : State) : Bool :=
  match s.tns.next with
  | some n => s.run == runStopping && s.get R.hifStopTickTick == n && s.tns.carry && !s.tns.working
  | none => false

/-- DENSE_DRAIN (R150): the carried work of tick T − 1 runs to completion, layer by layer, at Gauze level 0. [DESIGN CHOICE, log entry 68] -/
def execDenseDrain (s : State) : Host.Outcome State Fault Refusal :=
  .next (s.clocked (if s.mustDrain then
      let n := (s.tns.next.getD 1) - 1
      let tiles := match s.workSet with | some c => c.carried | none => []
      let s1 := (s.setCarried []).setTns { s.tns with todo := tiles }
      let s2 := ((s1.convertTiles n [] tiles.length).each s.layerIdx fun s i => s.finishLayer i).fillAll.endUnit
      (s2.setTns { s2.tns with carry := false }).inc R.cntDrain
    else s))

/-! ### Sweeps (R151–R154) -/

/-- Slice size (R158). -/
def State.sliceLen (s : State) : Nat := 2 ^ s.getIn R.tnsSweepCtlSliceLog2 8 16

/-- The first of `n` positions at or after `i` that `f` selects, else the first one of all. -/
def nextLayer (f : Nat → Bool) (n i : Nat) : Nat :=
  match (List.range n).find? fun k => decide (i ≤ k) && f k with
  | some k => k
  | none => ((List.range n).find? f).getD 0

/-- The layer and the first element of the slice that a sweep over the layers of `f` runs now (R151). -/
def State.sweepAt (s : State) (w : Sweep) (f : Nat → Bool) : Nat × Nat :=
  let n := s.layers.length
  let k := nextLayer f n w.layer
  if k = w.layer then (if w.pos < (s.layer k).outElems then (k, w.pos) else (nextLayer f n (k + 1), 0)) else (k, 0)

/-- The elements of the slice of `len` elements from `pos` on. -/
def LayerSt.slice (l : LayerSt) (pos len : Nat) : List Nat := (List.range (min len (l.outElems - pos))).map (pos + ·)

/-- A sweep after the slice of `len` elements from `pos` on of layer `i`. -/
def Sweep.after (i pos len : Nat) (l : LayerSt) : Sweep :=
  if pos + len < l.outElems then { layer := i, pos := pos + len } else { layer := i + 1 }

/-- One element rewritten with every product computed (R154). -/
def State.refreshElem (s : State) (i o : Nat) : State :=
  let l := s.layer i
  let rd := l.readApplied
  let void := l.isVoid o
  let acc := if l.linear && !void then l.recompute rd o else l.acc.getD o 0
  let sum := !void && l.drawsPoison l.poisonedApplied o
  let e := if void then ⟨0, false, false⟩ else if l.linear then l.evaluate o acc else l.fresh rd o
  let poison := sum || (!void && (l.linear || l.kind == kAct || l.kind == kRequant) && l.evalPoison o (if l.linear then acc else rd (.elem 0 o)))
  let l1 := { l with acc := if l.linear then l.acc.set o acc else l.acc, poisonAcc := SMap.set l.poisonAcc false o sum, marks := SMap.del o l.marks }
  let s1 := (s.setLayer i l1).countSlots i (if l.linear then l.depth else 0) 0
  let s2 := (s1.when (!l.fmtIn.isInt && l.linear && f32 acc == .nan) fun s => s.sawNan i).when (!void && l.drawsInf rd o) fun s =>
    s.setFlag R.tnsArithStatusInfIn true
  (s2.evalStatus i e).produce i o e.code poison

/-- A refresh pass begins where a slice starts with the layer's first element, and clears the taint where it ends with the last (R131). -/
def State.refreshSlice (s : State) (i pos len : Nat) : State :=
  let l := s.layer i
  let s1 := if pos = 0 then s.setLayer i { l with passBegun := true } else s
  let s2 := s1.each (l.slice pos len) fun s o => s.refreshElem i o
  let l2 := s2.layer i
  (if l.outElems ≤ pos + len ∧ l2.passBegun then s2.setLayer i { l2 with tainted := false, passBegun := false } else s2).showTaint

/-- REFRESH_SLICE (R131, R152, R154). -/
def execRefreshSlice (hits : List MemHit) (s : State) : Host.Outcome State Fault Refusal :=
  .next (s.clocked (if !s.tns.refresh.running then s else
    let p := s.sweepAt s.tns.refresh s.refreshes
    let s1 := ((s.readLayer hits p.1).refreshSlice p.1 p.2 s.sliceLen).fillAll
    ((s1.setTns { s1.tns with refresh := Sweep.after p.1 p.2 s.sliceLen (s.layer p.1) }).inc R.cntRefreshSlice).endUnit))

/-- One element compared (R153): whether it mismatches. -/
def State.mismatch (s : State) (i o : Nat) : Bool :=
  let l := s.layer i
  let acc := if l.linear && !l.isVoid o then l.recompute l.readApplied o else l.acc.getD o 0
  (l.linear && !l.isVoid o && acc != l.acc.getD o 0) || (l.fresh l.readApplied o).code != l.act.getD o 0

/-- A mismatch counted, recorded and reported (R153). -/
def State.reportMismatch (s : State) (i o : Nat) : State :=
  let l := s.layer i
  let s1 := (s.inc R.cntMismatch).when (!s.flag R.tnsDeltaStatusMismatch) fun s =>
    (((s.setFlag R.tnsDeltaStatusMismatch true).set R.tnsMismatchLayerLayer l.index).setFlag R.tnsMismatchLayerValid true).set R.tnsMismatchElemElem o
  s1.fault .contained 0x0A l.die l.unit (l.index + 512 * o)

/-- CHECK_SLICE (R152, R153). -/
def execCheckSlice (hits : List MemHit) (s : State) : Host.Outcome State Fault Refusal :=
  .next (s.clocked (if !s.tns.check.running then s else
    let p := s.sweepAt s.tns.check s.checks
    let i := p.1
    let l := s.layer i
    let s0 := s.readLayer hits i
    let bad := if l.tainted then [] else (l.slice p.2 s.sliceLen).filter fun o => s0.mismatch i o
    let s1 := s0.each bad fun s o => s.reportMismatch i o
    let s2 := if !bad.isEmpty && s.flag R.tnsSweepCtlCheckRepair then (s1.each (l.slice p.2 s.sliceLen) fun s o => s.refreshElem i o).fillAll else s1
    ((s2.setTns { s2.tns with check := Sweep.after i p.2 s.sliceLen l }).inc R.cntCheckSlice).endUnit))

end Sys2Proof.Machine
end

