-- ==== Sys2Proof/Machine/Fabric.lean ====
section
/-! DEFINITION. The spike fabric: input spikes, delivery, integration, steps, windows, looming and reflex outputs (R189–R229, R303). -/

namespace Sys2Proof.Machine

/-- The fabric replaced. -/
def State.setFab (s : State) (v : Fabric) : State := { s with fab := v }

/-- The step period in µs (R6, R229). -/
def State.stepUs (s : State) : Nat := s.getIn R.fabStepPeriodUs 1 1000

/-- The close lag in ns (R205, R229). -/
def State.lagNs (s : State) : Nat := s.getIn R.fabCloseLagNs 500 20000

/-- Steps in a window (R216, R229). -/
def State.windowSteps (s : State) : Nat := max 1 (s.get R.fabWinCfgSteps)

/-- The step that contains an instant (an absolute microsecond). -/
def State.stepOf (s : State) (us : Nat) : Nat := us / s.stepUs

/-- The wrap-aware test "a is after b" of two instants (R202). -/
def after (a b : Nat) : Bool := decide (0 < wrapDiff 16 a b)

/-! ### Sets (R193, R226) -/

/-- Whether the set of step `k` stands in the active place: the two exchange roles at a swap's tick, the fabric follows at its step. -/
def State.inActive (s : State) (k : Nat) : Bool := inActivePlace s.fab.swaps k

/-- The set that step `k` runs on. -/
def State.stepSet (s : State) (k : Nat) : Option ConfigSet := if s.inActive k then s.active else s.shadow

/-- The fabric section of the set of step `k`. -/
def State.fabSet (s : State) (k : Nat) : FabSet :=
  match s.stepSet k with
  | some c => c.fab
  | none => {}

/-- The fabric section of the set of step `k` replaced. -/
def State.setFabSet (s : State) (k : Nat) (v : FabSet) : State :=
  if s.inActive k then { s with active := s.active.map fun c => { c with fab := v } }
  else { s with shadow := s.shadow.map fun c => { c with fab := v } }

/-- Whether die `d`'s event engines work for step `k`: the set uses the die (R13, R355), and it is online (R454). [DEDUCED, log entry 73] -/
def State.dieRuns (s : State) (k d : Nat) : Bool :=
  !s.offline d && (match s.stepSet k with
    | some c => if d = 0 then c.useCd0 else c.useCd1
    | none => false)

/-- The cores that take part in step `k`. [DEDUCED, log entry 73] -/
def State.cores (s : State) (k : Nat) : List Nat := (List.range 64).filter fun c => s.dieRuns k (dieOfCore c)

/-! ### Protected words (R439, R440, R442) -/

/-- The core whose engine holds a word of the fabric part. -/
def wordCore : MemWord → Option Nat
  | .synapse c _ | .first c _ | .second c _ | .cls c _ | .context c _ => some c
  | .route src => some (src / 2 ^ 17)
  | _ => none

/-- Whether the fabric part holds a word. -/
def FabSet.holds (f : FabSet) : MemWord → Bool
  | .synapse c i => (SMap.find? (c * 2 ^ 20 + i) f.syn).isSome
  | .first c i => (SMap.find? (c * 64 + i) f.first).isSome
  | .second c i => (SMap.find? (c * 2 ^ 20 + i) f.second).isSome
  | .route src => (SMap.find? src f.routes).isSome
  | .cls c k => (SMap.find? (c * 16 + k) f.classes).isSome
  | .context c i => (SMap.find? (c * 2 ^ 17 + i) f.ctx).isSome
  | _ => false

/-- Whether a word of the fabric part is stored as poisoned. -/
def FabSet.isBad (f : FabSet) : MemWord → Bool
  | .synapse c i => SMap.get f.badSyn false (c * 2 ^ 20 + i)
  | .first c i => SMap.get f.badFirst false (c * 64 + i)
  | .second c i => SMap.get f.badSecond false (c * 2 ^ 20 + i)
  | .route src => SMap.get f.badRoute false src
  | .cls c k => SMap.get f.badClass false (c * 16 + k)
  | .context c i => (SMap.get f.ctx {} (c * 2 ^ 17 + i)).poison
  | _ => false

/-- The route entry that a number spells. -/
def routeOfWord (v : Nat) : Route :=
  { mask := bits v 0 64, outIndex := bits v 64 13, outEn := bit v 79, group := bits v 80 6, groupEn := bit v 87, sector := bits v 88 5, loomEn := bit v 95 }

/-- The class entry that a number spells, with its leak table. -/
def classOfWord (v : Nat) (leak : List Nat) : ClassEntry :=
  { theta := toSigned 24 (bits v 0 24), reset := bits v 32 2, graded := bit v 34, fix := toSigned 8 (bits v 40 8), shift := bits v 48 4,
    leak := leak, vInit := toSigned 24 (bits v 96 24) }

/-- A context becomes poisoned, its potential treated as 0 (R225). [DEDUCED, log entry 75] -/
def Context.spoil (x : Context) : Context := { x with acc := 0, poison := true }

/-- A word of the fabric part stored as poisoned; what it reads as is the free value `v`. [DESIGN CHOICE, log entry 70] -/
def FabSet.spoil (f : FabSet) (v : Nat) : MemWord → FabSet
  | .synapse c i =>
    { f with syn := SMap.put (c * 2 ^ 20 + i) (v % 2 ^ 32) f.syn, badSyn := SMap.set f.badSyn false (c * 2 ^ 20 + i) true }
  | .first c i => { f with first := SMap.put (c * 64 + i) (v % 2 ^ 64) f.first, badFirst := SMap.set f.badFirst false (c * 64 + i) true }
  | .second c i =>
    { f with second := SMap.put (c * 2 ^ 20 + i) (v % 2 ^ 32) f.second, badSecond := SMap.set f.badSecond false (c * 2 ^ 20 + i) true }
  | .route src => { f with routes := SMap.put src (routeOfWord v) f.routes, badRoute := SMap.set f.badRoute false src true }
  | .cls c k =>
    let e := SMap.get f.classes {} (c * 16 + k)
    { f with classes := SMap.put (c * 16 + k) (classOfWord v e.leak) f.classes, badClass := SMap.set f.badClass false (c * 16 + k) true }
  | .context c i =>
    match SMap.find? (c * 2 ^ 17 + i) f.ctx with
    | some x => { f with ctx := SMap.put (c * 2 ^ 17 + i) x.spoil f.ctx }
    | none => f
  | _ => f

/-- A read of a word of a fabric part in memory `mem` finds what `h` says (R225, R439, R440): a poisoned word counts no new error. Where such a word lies, the spec leaves to the image, so the address reported is free. [DESIGN CHOICE, log entry 70] -/
def State.checkFabWord (s : State) (f : FabSet) (mem : Nat) (h : MemHit) : State × FabSet :=
  let t := (s.eccRead h.ecc (dieOfMemory mem) (placeOfMemory mem) (s.freeValue % 2 ^ 64)).took 1
  if !f.holds h.word || f.isBad h.word then (s, f)
  else match h.ecc with
    | .ok | .single => (t, f)
    | .uncorrectable =>
      ((t.took 1).when (match h.word with | .context _ _ => true | _ => false) fun s => s.setFlag R.fabStatusPoison true, f.spoil t.freeValue h.word)

/-- Reads of core `c` for step `k` find what `hits` says. -/
def State.readCore (s : State) (k c : Nat) (hits : List MemHit) : State :=
  s.each (hits.filter fun h => wordCore h.word == some c) fun s h =>
    let r := s.checkFabWord (s.fabSet k) c h
    r.1.setFabSet k r.2

/-! ### Cores -/

/-- Core `c`'s barrier state. -/
def State.core (s : State) (c : Nat) : CoreFab := SMap.get s.fab.core {} c

/-- Core `c`'s barrier state replaced. -/
def State.setCore (s : State) (c : Nat) (v : CoreFab) : State :=
  s.setFab { s.fab with core := SMap.set s.fab.core {} c v }

/-- The window that step `k` belongs to. -/
def State.window (s : State) (k : Nat) : Window := SMap.get s.fab.windows {} (k / s.windowSteps)

/-- The window of step `k` replaced. -/
def State.setWindow (s : State) (k : Nat) (w : Window) : State :=
  s.setFab { s.fab with windows := SMap.set s.fab.windows {} (k / s.windowSteps) w }

/-- Steps that core `c` has marked: all whose last instant it has closed (R210). -/
def State.coreMarks (s : State) (c : Nat) : Nat := ((s.core c).closed + 1) / s.stepUs

/-- The route entries of the neurons of core `c` in a set (R197). -/
def FabSet.coreRoutes (f : FabSet) (c : Nat) : List Route :=
  (f.routes.filter fun r => r.1 / 2 ^ 17 == c && decide (r.1 % 2 ^ 17 < SMap.get f.count 0 c)).map (·.2)

/-- The input route entries of a set: those of slots that hold no neuron (R195, R196). -/
def FabSet.inputRoutes (f : FabSet) : List Route :=
  (f.routes.filter fun r => !decide (r.1 % 2 ^ 17 < SMap.get f.count 0 (r.1 / 2 ^ 17))).map (·.2)

/-- Whether core `x` routes to core `c` in step `k` (R211). -/
def State.coreFeeds (s : State) (k x c : Nat) : Bool := ((s.fabSet k).coreRoutes x).any fun r => bit r.mask c

/-- Whether the surface engines route to core `c` in step `k`. -/
def State.inputFeeds (s : State) (k c : Nat) : Bool := (s.fabSet k).inputRoutes.any fun r => bit r.mask c

/-- Whether the mark of step `k` from core `x` has arrived at core `c`: sent, with nothing ahead of it on the path (R198, R210). -/
def State.coreMarked (s : State) (k x c : Nat) : Bool :=
  decide (k < s.coreMarks x) && s.fab.flight.all fun f => !(f.engine.isNone && f.source / 2 ^ 17 == x && f.core == c && decide (f.marks ≤ k))

/-- The same for surface engine `e`. -/
def State.engineMarked (s : State) (k e c : Nat) : Bool :=
  decide (k < SMap.get s.fab.marks 0 e) && s.fab.flight.all fun f => !(f.engine == some e && f.core == c && decide (f.marks ≤ k))

/-- Step `k` has drained at core `c` (R211). -/
def State.drained (s : State) (k c : Nat) : Bool :=
  decide (k < s.coreMarks c)
    && ((s.cores k).all fun x => !s.coreFeeds k x c || s.coreMarked k x c)
    && (!s.inputFeeds k c || (List.range 8).all fun e => s.offline (dieOfEngine e) || s.engineMarked k e c)

/-- Step `k` has drained at every core that takes part in it. -/
def State.allDrained (s : State) (k : Nat) : Bool := (s.cores k).all fun c => s.drained k c

/-- Whether step `k` runs at all: not before the run's first step, not from the step B of a stop on (R226). -/
def State.stepRuns (s : State) (k : Nat) : Bool :=
  s.fab.running && decide (s.fab.first ≤ k) && (match s.fab.halt with | some b => decide (k < b) | none => true)

/-! ### Surface engines (R194, R195, R210) -/

/-- Engine `e` marks every step that has ended nominally and of which it has no event left to inject (R210). [DEDUCED, log entry 74] -/
def State.sendMarks (s : State) (e : Nat) : State :=
  let k := match SMap.get s.cv.spikes [] e with
    | [] => s.now / s.stepNs
    | v :: _ => min (s.now / s.stepNs) (v.time / s.stepNs)
  s.setFab { s.fab with marks := SMap.set s.fab.marks 0 e k }

/-- The source address of an event under a map (R195). -/
def InputMap.address (m : InputMap) (width x y : Nat) (pol : Bool) : Nat :=
  m.base + (y / 2 ^ m.shiftY * ceilDiv width (2 ^ m.shiftX) + x / 2 ^ m.shiftX) * (1 + b2n m.split) + b2n m.split * b2n pol

/-- Whether a map is enabled for a polarity. -/
def InputMap.takes (m : InputMap) (pol : Bool) : Bool := m.en && (if pol then m.posEn else m.negEn)

/-- An input spike shed (R213, R214), counted in `cnt`. -/
def State.shed (s : State) (c k : Nat) (cnt : Fld) : State :=
  let w := s.window k
  ((((s.inc cnt).setWindow k { w with shed := w.shed + 1 }).count (dieOfCore c) 15 1).condition 3)

/-- A copy of an input spike reaches its core (R211–R214): integrated, held in the injection buffer, or shed. -/
def State.inputAt (s : State) (f : Spike) : State :=
  let c := f.core
  let k := s.stepOf f.stamp
  let q := s.core c
  if s.offline (dieOfCore c) then s.inc R.cntDieDiscard
  else if 32768 ≤ q.buffer.length then s.shed c k R.cntShedFull
  else if (match q.step with | some j => decide (k ≤ j) | none => false) then
    if q.shed then s.shed c k R.cntShedSlip else s.setFab { s.fab with flight := s.fab.flight ++ [f] }
  else s.setCore c { q with buffer := q.buffer ++ [f] }

/-- The step and the source address of the spike of an event (R195). -/
def State.inputSource (s : State) (v : EngineEvent) : Nat × Nat :=
  let p := bits v.word 47 3
  let k := s.stepOf (v.time / 1000)
  (k, (SMap.get (s.fabSet k).maps {} p).address (s.width p) (bits v.word 24 11) (bits v.word 35 11) (bit v.word 46))

/-- The oldest event of engine `e` that may inject: its spike leaves where R194 allows, with the event's poison or that of its route entry (R442). -/
def State.injectSpike (s : State) (e : Nat) (v : EngineEvent) : State :=
  let p := bits v.word 47 3
  let pol := bit v.word 46
  let us := v.time / 1000
  let k := s.stepOf us
  let fs := s.fabSet k
  let m := SMap.get fs.maps {} p
  let src := (s.inputSource v).2
  let r := SMap.get fs.routes {} src
  let bad := v.poison || SMap.get fs.badRoute false src
  if s.stepRuns k && m.takes pol && r.mask != 0 && !s.offline (dieOfEngine e) then
    let pay := if pol then m.payPos else m.payNeg
    (s.inc R.cntInject).each ((List.range 64).filter fun c => bit r.mask c) fun s c =>
      s.inputAt { core := c, source := src, engine := some e, stamp := us, payload := pay, poison := bad, marks := SMap.get s.fab.marks 0 e }
  else s

/-- The input route entry of source `src` read by engine `e` from its MSD's bolt store finds what `hits` says (R197, R439). -/
def State.readRoute (s : State) (e k src : Nat) (hits : List MemHit) : State :=
  s.each (hits.filter fun h => h.word == .route src) fun s h =>
    let r := s.checkFabWord (s.fabSet k) (70 + dieOfEngine e) h
    r.1.setFabSet k r.2

/-- Whether the links from engine `e`'s MSD to the compute dies carry its spikes (R446). -/
def State.inputOpen (s : State) (e : Nat) : Bool := (List.range 2).all fun d => s.dieOff d || s.linkOpen (memLink d (dieOfEngine e))

/-- INPUT_SPIKE_INJECTION (R194, R195): the oldest event that engine `e` has applied; its queue word may fail its parity check (R436). -/
def execInputSpikeInjection (e : Fin 8) (parity : Bool) (hits : List MemHit) (s : State) : Host.Outcome State Fault Refusal :=
  .next (s.clocked (match SMap.get s.cv.spikes [] e with
    | [] => s
    | v :: l =>
      if !s.inputOpen e then s else
      let a := s.inputSource v
      let s1 := (({ s with cv := { s.cv with spikes := SMap.set s.cv.spikes [] e l } }).parityCheck parity (dieOfEngine e) e).readRoute e a.1 a.2 hits
      (s1.injectSpike e { v with poison := v.poison || parity }).sendMarks e))

/-! ### Fires (R189, R204, R216–R222, R226) -/

/-- One fire in the step `k` of its stamp counts in that step's window (R216, R217). -/
def State.countFire (s : State) (k : Nat) (r : Route) (payload : Int) (poison : Bool) : State :=
  if r.outEn && decide (r.outIndex ≤ s.get R.fabWinCfgNOutM1) then
    let w := s.window k
    let i := r.outIndex
    let pz := if poison then SMap.set w.poison false i true else w.poison
    s.setWindow k { w with counts := SMap.upd w.counts 0 i (fun n => min 65535 (n + 1)), sums := SMap.upd w.sums 0 i (· + payload), poison := pz }
  else s

/-- Whether fire `a` is preferred to `b` for a looming sample: later, or of larger payload at the same stamp (R220). -/
def LoomFire.beats (a b : LoomFire) : Bool := decide (b.stamp < a.stamp) || (a.stamp == b.stamp && decide (b.payload < a.payload))

/-- A fire of a looming sector is kept while a coming sample may draw on it (R220). -/
def State.loomFire (s : State) (r : Route) (f : LoomFire) : State :=
  if r.loomEn then
    let l := f :: SMap.get s.fab.loom [] r.sector
    let floor := 25 * (s.fab.loomNext + 1)
    let keep := l.filter fun x => decide (floor ≤ x.stamp) || l.all fun y => decide (floor ≤ y.stamp) || !y.beats x
    s.setFab { s.fab with loom := SMap.set s.fab.loom [] r.sector keep }
  else s

/-- A spike leaves the event engine of core `c`; 1 in 2^SPIKE_DECIM makes a trace entry (R473). -/
def State.traceSpike (s : State) (c src stamp : Nat) (payload : Int) : State :=
  if s.capturing then
    let n := SMap.get s.obs.trace.spike 0 c
    let s1 := s.when (n == 0) fun s => s.trace (dieOfCore c) 5 c src (stamp % 65536 + 65536 * ofInt 8 payload)
    s1.setTrace { s1.obs.trace with spike := SMap.set s1.obs.trace.spike 0 c ((n + 1) % 2 ^ s.get R.dbgTraceCfgSpikeDecim) }
  else s

/-- A neuron of core `c` fires in step `k0`, its spike stamped `us`, an absolute microsecond (R189, R204); one stamped in a step that never runs on its set is dropped (R226). -/
def State.fire (s : State) (k0 c ix us : Nat) (payload : Int) (poison : Bool) : State :=
  let src := c * 2 ^ 17 + ix
  let k := s.stepOf us
  let r := SMap.get (s.fabSet k0).routes {} src
  let poison := poison || SMap.get (s.fabSet k0).badRoute false src
  let s1 := (s.inc R.cntFire).count (dieOfCore c) 14 1
  if !s.stepRuns k || s.inActive k != s.inActive k0 then s1.inc R.cntEdgeDrop
  else
    let s2 := (((s1.traceSpike c src us payload).countFire k r payload poison).loomFire r ⟨us, payload, poison, dieOfCore c⟩)
    let s3 := s2.when r.groupEn fun s => s.setFab { s.fab with reflexQ := s.fab.reflexQ ++ [⟨r.group, k⟩] }
    s3.each ((List.range 64).filter fun t => bit r.mask t) fun s t =>
      if s.offline (dieOfCore t) then s.inc R.cntDieDiscard
      else s.setFab { s.fab with flight := s.fab.flight ++ [{ core := t, source := src, stamp := us, payload := payload, poison := poison, marks := s.coreMarks c }] }

/-! ### Integration, leak, test (R190, R191, R202–R204, R225) -/

/-- The class of a context at core `c`. -/
def FabSet.cls (f : FabSet) (c k : Nat) : ClassEntry := SMap.get f.classes {} (c * 16 + k)

/-- v × L[dt] / 32,768 toward zero (R203). -/
def leak (e : ClassEntry) (v : Int) (dt : Nat) : Int := (v * (e.leak.getD dt 0x8000 : Nat)).tdiv 32768

/-- ACC holds 42 bits (R191). -/
def wrap42 (v : Int) : Int := toSigned 42 (ofInt 42 v)

/-- The result of test(ctx): the context after, and the payload of a fire (R204). -/
def Context.test (x : Context) (e : ClassEntry) : Context × Option Int :=
  let v := clampInt (-(2 ^ 23)) (2 ^ 23 - 1) x.acc
  if e.theta ≤ v then
    let payload := if e.graded then clampInt 1 127 (floorDiv (v - e.theta) (2 ^ e.shift)) else e.fix
    let v' := if e.reset = 0 then 0 else if e.reset = 1 then v - e.theta else v
    ({ x with acc := v', pf := false, poison := x.poison && e.reset != 0 }, some payload)
  else ({ x with acc := v, pf := false }, none)

/-- The context word of R190. -/
def Context.word (x : Context) : Nat :=
  ofInt 42 x.acc + 2 ^ 42 * x.last + 2 ^ 58 * x.cls + 2 ^ 62 * b2n x.pf + 2 ^ 63 * b2n x.old

/-- A context of the set of step `k` replaced. -/
def State.setContext (s : State) (k c ix : Nat) (x : Context) : State :=
  let f := s.fabSet k
  s.setFabSet k { f with ctx := SMap.put (c * 2 ^ 17 + ix) x f.ctx }

/-- The context `ix` of core `c` in the set of step `k`. -/
def State.context (s : State) (k c ix : Nat) : Option Context := SMap.find? (c * 2 ^ 17 + ix) (s.fabSet k).ctx

/-- test(ctx) of a context whose instant LAST is the absolute microsecond `us` (R204): a fire is stamped us + 1. A poisoned class entry poisons the context (R442). -/
def State.testContext (s : State) (k c ix us : Nat) (x0 : Context) : State × Context :=
  let bad := (s.fabSet k).isBad (.cls c x0.cls)
  let x := if bad then x0.spoil else x0
  let t := x.test ((s.fabSet k).cls c x.cls)
  let y := { t.1 with poison := t.1.poison || bad }
  let s1 := s.setContext k c ix y
  match t.2 with
  | some p => (s1.fire k c ix (us + 1) p x.poison, y)
  | none => (s1, y)

/-- One synapse of an arriving spike (R202), with effective instant `a` and its fold by closing; `drawn` where the spike, its index entries or its synapse word are poisoned. -/
def State.integrate (s : State) (k c ix a : Nat) (late : Bool) (v : Int) (drawn : Bool) : State :=
  match s.context k c ix with
  | none => s
  | some x =>
    let poison := drawn || (s.fabSet k).isBad (.cls c x.cls)
    let merges := x.pf && !after a x.last
    let fold := late || (merges && a % 65536 != x.last)
    let age := (ofInt 16 ((a : Int) - x.last))
    let r := if x.pf && !merges then s.testContext k c ix (a - age) x else (s, x)
    let y := r.2
    let dt := if y.old then 255 else min 255 age
    let e := (s.fabSet k).cls c y.cls
    let z : Context := if merges then { y with acc := wrap42 (y.acc + v) }
      else { y with acc := wrap42 (leak e y.acc dt + v), last := a % 65536, old := false, pf := true, poison := y.poison && e.leak.getD dt 0x8000 != 0 }
    let z' := if poison then z.spoil else z
    let s1 := (((r.1.setContext k c ix z').inc R.cntSynUpd).count (dieOfCore c) 13 1).when (z'.poison && !x.poison) fun s => s.setFlag R.fabStatusPoison true
    s1.when fold fun s =>
      let w := s.window (s.stepOf a)
      ((s.inc R.cntFold).setFlag R.fabStatusFold true).setWindow (s.stepOf a) { w with fold := w.fold + 1 }

/-- The number of the second-level entry that core `c` finds for a source (R199). [DESIGN CHOICE, log entry 32] -/
def FabSet.lookup (f : FabSet) (c src : Nat) : Option Nat :=
  let e := SMap.get f.first 0 (c * 64 + src / 2 ^ 17)
  let lo := bits e 20 17
  let i := src % 2 ^ 17
  if lo ≤ i ∧ i < lo + bits e 37 17 then some (bits e 0 20 + i - lo) else none

/-- The synapse words of a second-level entry, each with whether it is poisoned (R199). [DESIGN CHOICE, log entry 32] -/
def FabSet.synapses (f : FabSet) (c n : Nat) : List (Nat × Bool) :=
  let entry := SMap.get f.second 0 (c * 2 ^ 20 + n)
  (List.range (bits entry 20 12)).map fun i =>
    (SMap.get f.syn 0 (c * 2 ^ 20 + (bits entry 0 20 + i)), f.isBad (.synapse c (bits entry 0 20 + i)))

/-- An arriving spike at its core (R199–R202); poison of the spike, of an index entry and of a synapse word reaches the contexts (R442). -/
def State.arrive (s : State) (f : Spike) : State :=
  let c := f.core
  let k := s.stepOf f.stamp
  let fs := s.fabSet k
  let n := fs.lookup c f.source
  let syn := match n with
    | some n => fs.synapses c n
    | none => []
  let bad := f.poison || fs.isBad (.first c (f.source / 2 ^ 17)) || (match n with | some n => fs.isBad (.second c n) | none => false)
  let closed := (s.core c).closed
  let a := if after f.stamp closed then f.stamp else closed + 1
  if syn = [] then s.inc R.cntNosyn
  else s.each syn fun s w =>
    s.integrate k c (bits w.1 0 17) a (a != f.stamp) (toSigned 8 (bits w.1 17 8) * f.payload) (bad || w.2)

/-- Two spikes run on one path (R198). -/
def Spike.sharesPath (f g : Spike) : Bool := f.core == g.core && f.engine == g.engine && (f.engine.isSome || f.source == g.source)

/-- The position of the next spike from the same source behind place `i`. [DESIGN CHOICE, log entry 76] -/
def State.partner (s : State) (i : Nat) (f : Spike) : Option Nat :=
  ((s.fab.flight.drop (i + 1)).findIdx? fun g => f.sharesPath g).map (· + (i + 1))

/-- Whether the spike at place `i` may arrive: nothing ahead of it on its path (R198), and no retrain of the link between two compute dies holds it (R446). -/
def State.spikeMayArrive (s : State) (i : Nat) (f : Spike) : Bool :=
  ((s.fab.flight.take i).all fun g => !f.sharesPath g) && (f.engine.isSome || dieOfCore (f.source / 2 ^ 17) == dieOfCore f.core || s.linkOpen 4)

/-- Whether an armed injection acts on this spike (R461, R463), counting it. -/
def State.injects (s : State) (c : Nat) : State × Bool :=
  if s.get R.hifSvcMode == 2 && s.get R.errFiFabMode != 0 && s.get R.errFiFabCore == c then
    if !s.flag R.errFiFabRepeat then (s, true)
    else
      let n := s.err.fiFab + 1
      let hit := decide (max 1 (s.get R.errFiFabInterval) ≤ n)
      ({ s with err := { s.err with fiFab := if hit then 0 else n } }, hit)
  else (s, false)

/-- The spike at place `i` leaves the routers. -/
def State.dropFlight (s : State) (i : Nat) : State := s.setFab { s.fab with flight := s.fab.flight.eraseIdx i }

/-- The spike at place `i`, read from its queue, is delivered, with an injection of R463 where one acts. [DESIGN CHOICE, log entry 76] -/
def State.deliverSpike (s : State) (i : Nat) (f : Spike) : State :=
  let c := f.core
  let j := s.partner i f
  let mode := s.get R.errFiFabMode
  let q := s.injects c
  let s1 := s.dropFlight i
  if !q.2 || (mode == 3 && j.isNone) then ({ s1 with err := q.1.err }).arrive f
  else
    let s2 := (({ s1 with err := q.1.err }).inc R.cntFiFab).when (!s.flag R.errFiFabRepeat) fun s => s.set R.errFiFabMode 0
    if mode = 1 then s2
    else if mode = 2 then (s2.arrive f).arrive f
    else match j.bind fun n => s.fab.flight[n]? with
      | some g => (s2.setFab { s2.fab with flight := s2.fab.flight.set (j.getD 0 - 1) f }).arrive g
      | none => s2

/-- SPIKE_ARRIVAL: spike `i` of those on their way reaches its core (R198–R202, R436, R439). -/
def execSpikeArrival (i : Nat) (parity : Bool) (hits : List MemHit) (s : State) : Host.Outcome State Fault Refusal :=
  .next (match s.fab.flight[i]? with
    | none => s
    | some f =>
      if !s.awake || !s.spikeMayArrive i f then s
      else if s.offline (dieOfCore f.core) then (s.dropFlight i).inc R.cntDieDiscard
      else
        let s1 := (s.parityCheck parity (dieOfCore f.core) f.core).readCore (s.stepOf f.stamp) f.core hits
        s1.deliverSpike i { f with poison := f.poison || parity })

/-- Contexts of core `c` that wait for the test of instant `us` in the set of step `k` (R205). -/
def State.pendingAt (s : State) (k c us : Nat) : List (Nat × Context) :=
  (s.fabSet k).ctx.filter fun x => x.1 / 2 ^ 17 == c && x.2.pf && x.2.last == us % 65536

/-- Whether core `c` may close the instant after its closed-through one (R205). -/
def State.mayClose (s : State) (c : Nat) : Bool :=
  let q := (s.core c).closed + 1
  s.awake && s.fab.running && s.dieRuns (s.stepOf q) (dieOfCore c) && decide ((q + 1) * 1000 + s.lagNs ≤ s.now)
    && (match (s.core c).step with | some k => decide (s.stepOf q ≤ k) | none => false)

/-- INSTANT_CLOSE (R205). -/
def execInstantClose (c : Fin 64) (hits : List MemHit) (s : State) : Host.Outcome State Fault Refusal :=
  .next (s.clocked (
    let q := (s.core c).closed + 1
    let k := s.stepOf q
    if s.mayClose c then
      let s0 := s.readCore k c hits
      let s1 := s0.each (s0.pendingAt k c q) fun s x => (s.testContext k c (x.1 % 2 ^ 17) q x.2).1
      s1.setCore c { s1.core c with closed := q }
    else s))

/-- CONTEXT_AGE_SWEEP (R208): the context in each loaded set. -/
def ageContext (u : Nat) (x : Context) : Context :=
  if !x.pf && decide (255 ≤ ofInt 16 ((u : Int) - x.last)) then { x with old := true } else x

/-- One context of a set replaced by `f` of it; whether it exists. -/
def visitContext (key : Nat) (f : Context → Context) (c : ConfigSet) : ConfigSet :=
  { c with fab := { c.fab with ctx := c.fab.ctx.map fun x => if x.1 = key then (x.1, f x.2) else x } }

/-- The number of loaded sets that hold a neuron at a source address. -/
def State.contextCount (s : State) (key : Nat) : Nat :=
  ([s.active, s.shadow].filter fun o => match o with | some c => (SMap.find? key c.fab.ctx).isSome | none => false).length

/-- The reads of a sweep's visit find what `hits` says: each in the first loaded set, active before shadow, that holds the word unpoisoned. -/
def State.readContext (s : State) (c ix : Nat) (hits : List MemHit) : State :=
  s.each (hits.filter fun h => h.word == .context c ix) fun s h =>
    let reads := fun (o : Option ConfigSet) => match o with | some x => x.fab.holds h.word && !x.fab.isBad h.word | none => false
    let put := fun (o : Option ConfigSet) (f : FabSet) => o.map fun x => { x with fab := f }
    let fab := fun (o : Option ConfigSet) => match o with | some x => x.fab | none => ({} : FabSet)
    if reads s.active then (let r := s.checkFabWord (fab s.active) c h; { r.1 with active := put s.active r.2 })
    else if reads s.shadow then (let r := s.checkFabWord (fab s.shadow) c h; { r.1 with shadow := put s.shadow r.2 })
    else s

/-- CONTEXT_AGE_SWEEP (R208): while the core is powered, in SAIL and in REEF1, whose clocks the event engines do not need (R227, R410). [DEDUCED, log entry 80] -/
def execContextAgeSweep (c : Fin 64) (ix : Nat) (hits : List MemHit) (s : State) : Host.Outcome State Fault Refusal :=
  .next (
    let key := c * 2 ^ 17 + ix
    let g := visitContext key (ageContext (s.now / 1000))
    if s.timeRuns && !s.halted && s.powered (dieOfCore c) then
      let t := s.readContext c ix hits
      ({ t with active := t.active.map g, shadow := t.shadow.map g }).add R.cntSweep (s.contextCount key)
    else s)

/-- OLD set in every context with PF = 0, of both sets (R209, R362). -/
def State.ageAll (s : State) : State :=
  let g := fun (c : ConfigSet) => { c with fab := { c.fab with ctx := c.fab.ctx.map fun x => (x.1, if x.2.pf then x.2 else { x.2 with old := true }) } }
  { s with active := s.active.map g, shadow := s.shadow.map g }

/-! ### Steps (R211–R214) -/

/-- The step that core `c` starts next. -/
def State.nextCoreStep (s : State) (c : Nat) : Nat :=
  let k := match (s.core c).step with | some k => k + 1 | none => s.fab.first
  match s.fab.swaps.find? fun x => decide (k < x.1) with
  | some x => if s.dieRuns k (dieOfCore c) then k else x.1
  | none => k

/-- The slip of step `k` starting now (R212). -/
def State.slip (s : State) (k : Nat) : Nat := (s.now - k * s.stepNs - s.lagNs) / s.stepNs

/-- Whether core `c` may start step `k` (R211): not before its nominal start plus LAG_NS. -/
def State.mayStart (s : State) (c k : Nat) : Bool :=
  s.awake && s.stepRuns k && s.dieRuns k (dieOfCore c) && decide (k * s.stepNs + s.lagNs ≤ s.now)
    && (!(s.core c).ran || s.drained (k - 1) c)

/-- FAB_SHED_MASK and FAB_STATUS.SHEDDING follow the cores. -/
def State.showShed (s : State) (c : Nat) (b : Bool) : State :=
  let m := setBit (s.get R.fabShedMaskCores) c b
  (s.set R.fabShedMaskCores m).setFlag R.fabStatusShedding (m != 0)

/-- STEP_START (R211–R213). -/
def execStepStart (c : Fin 64) (s : State) : Host.Outcome State Fault Refusal :=
  .next (s.clocked (
    let k := s.nextCoreStep c
    if s.mayStart c k && !s.late (tickOf (k * s.stepNs)) then
      let q := s.core c
      let slip := s.slip k
      let shed := if q.shed then decide (0 < slip) else decide (max 1 (s.get R.fabSlipLimit) < slip)
      let mine := q.buffer.filter fun f => decide (s.stepOf f.stamp ≤ k)
      let rest := q.buffer.filter fun f => !decide (s.stepOf f.stamp ≤ k)
      let w := s.window k
      let s1 := (s.when q.ran fun s => s.inc R.fabCntStep).setCore c
        { q with step := some k, ran := true, shed := shed, buffer := rest, closed := max q.closed (k * s.stepUs - 1) }
      let s2 := (((s1.showShed c shed).set R.fabStatusSlipMax (max (s.get R.fabStatusSlipMax) (min 255 slip))).setWindow k
        { w with slip := max w.slip slip }).when (decide (0 < slip)) fun s => s.trace (dieOfCore c) 8 c (k % 2 ^ 32) (min 255 slip)
      if shed then s2.each mine fun s _ => s.shed c k R.cntShedSlip
      else s2.setFab { s2.fab with flight := s2.fab.flight ++ mine }
    else s))

/-! ### Count windows (R216–R219, R303) -/

/-- The steps of window `j` that run: its first, and the one after its last. -/
def State.windowSpan (s : State) (j : Nat) : Nat × Nat :=
  let hi := (j + 1) * s.windowSteps
  (max (j * s.windowSteps) s.fab.first, match s.fab.halt with | some b => min hi b | none => hi)

/-- The index of the window that holds the present step (R303). -/
def State.currentWindow (s : State) : Nat := s.now / s.stepNs / s.windowSteps

/-- Whether the entry of index `i` belongs to a neuron on an offline die (R454). -/
def State.lostOutput (s : State) (i : Nat) : Bool :=
  match s.active with
  | none => false
  | some c => (List.range 64).any fun x => s.offline (dieOfCore x) && (c.fab.coreRoutes x).any fun r => r.outEn && r.outIndex == i

/-- One entry of a window record (R218). -/
def Window.entry (w : Window) (i : Nat) : List Byte :=
  leBytes (SMap.get w.counts 0 i) 2 ++ leBytes (ofInt 24 (clampInt (-(2 ^ 23)) (2 ^ 23 - 1) (SMap.get w.sums 0 i))) 3
    ++ leBytes (b2n (SMap.get w.poison false i)) 1 ++ [0, 0]

/-- The WINDOW_COUNTS record of window `j` (R218, R219, R454). -/
def State.windowRecord (s : State) (j : Nat) : Rec :=
  let w := SMap.get s.fab.windows {} j
  let span := s.windowSpan j
  let steps := span.2 - span.1
  let n := s.get R.fabWinCfgNOutM1 + 1
  let poison := (List.range n).any fun i => SMap.get w.poison false i
  let entry := fun i => if w.loss && s.lostOutput i then List.replicate 8 (0 : Byte) else w.entry i
  let head := leBytes j 8 ++ leBytes (j * s.windowSteps * s.stepNs) 8 ++ leBytes (min w.shed (2 ^ 32 - 1)) 4 ++ leBytes (min w.fold (2 ^ 32 - 1)) 4
  let mid := leBytes (min 255 w.slip) 1 ++ leBytes (b2n (steps != s.windowSteps) + 2 * b2n poison) 1 ++ leBytes n 2 ++ leBytes steps 4
  { type := 0x02, index := j, poison := poison, error := w.loss, payload := head ++ mid ++ (List.range n).flatMap entry }

/-- The bytes of a record with GEN and SEQ 0 (R303). -/
def Rec.copyBytes (r : Rec) : List Byte := recHeader r.type false r.poison r.error r.units 0 ++ r.body

/-- A waiting READ_WINDOW meets the kept records (R303). -/
def State.serveWindow (s : State) (f q j addr len : Nat) : State :=
  match s.fab.kept.find? fun k => k.index == j with
  | none => s
  | some k =>
    let b := k.record.copyBytes
    if len < b.length then s.complete f q (.bad 0x06)
    else (s.post f addr true b).complete f q
      (if k.record.poison then { status := .poisoned, result := b.length } else .okay b.length)

/-- Every ring, with the READ_WINDOW it waits on: function, ring, window, address, length. -/
def State.waitingReads (s : State) : List (Nat × Nat × Nat × Nat × Nat) :=
  (List.range 8).flatMap fun f => (List.range 4).filterMap fun q =>
    match s.runningOp f q with
    | some (.readWindow j a n) => some (f, q, j, a, n)
    | _ => none

/-- The READ_WINDOW descriptors waiting for window `j`, or for an earlier one that never ran, are served. [DESIGN CHOICE, log entry 79] -/
def State.serveReads (s : State) (j : Nat) : State :=
  s.each s.waitingReads fun s w =>
    if w.2.2.1 = j then s.serveWindow w.1 w.2.1 j w.2.2.2.1 w.2.2.2.2
    else if w.2.2.1 < j then s.complete w.1 w.2.1 { status := .noResource, reason := 0x07 }
    else s

/-- Waiting READ_WINDOW descriptors whose window no step before `b` belongs to end with ABORTED_BY_STOP (R303, R353). -/
def State.abortReads (s : State) (b : Nat) : State :=
  s.each s.waitingReads fun s w =>
    if b ≤ w.2.2.1 * s.windowSteps then s.complete w.1 w.2.1 { status := .abortedByStop } else s

/-- Window `j` ends: its record is kept, written where FAB_WIN_DEST says so, and waiting reads are served (R216, R303). -/
def State.endWindow (s : State) (j : Nat) : State :=
  let r := s.windowRecord j
  let kept := (s.fab.kept ++ [⟨j, r⟩])
  let s1 := s.setFab { s.fab with kept := kept.drop (kept.length - 8), windows := SMap.del j s.fab.windows, winNext := j + 1 }
  let s2 := s1.when (s.flag R.fabWinDestEn) fun s => s.hand (s.get R.fabWinDestFunc) (s.get R.fabWinDestRing) r
  s2.serveReads j

/-- Whether the next window has ended: some of its steps ran, and all that run have drained everywhere. -/
def State.windowEnded (s : State) : Bool :=
  let span := s.windowSpan s.fab.winNext
  decide (span.1 < span.2) && (!s.fab.running || s.allDrained (span.2 - 1))
    && (s.fab.running || s.fab.halt.isSome)

/-- WINDOW_END (R216). -/
def execWindowEnd (s : State) : Host.Outcome State Fault Refusal :=
  .next (if s.awake && s.windowEnded then s.endWindow s.fab.winNext else s)

/-- READ_WINDOW (R303). -/
def execReadWindow (f : Fin 8) (q : Fin 4) (s : State) : Host.Outcome State Fault Refusal :=
  .next (s.clocked (match s.fetchedOp f q with
    | some (.readWindow j addr len) =>
      if (s.fab.kept.find? fun k => k.index == j).isSome then s.serveWindow f q j addr len
      else if j < s.currentWindow then s.complete f q { status := .noResource, reason := 0x07 }
      else if s.stopped then s.complete f q { status := .abortedByStop }
      else s.begin f q
    | _ => s))

/-! ### Looming (R220, R221) -/

/-- The sample of one sector for tick `n`; what the spec does not state of a sample without a fire, or with a payload outside the table, is free value `i` or `i + 1`. [DESIGN CHOICE, log entry 78] -/
def State.loomSample (s : State) (n sector i : Nat) (incomplete : Bool) : LoomSample :=
  let close := 25 * (n + 1)
  let l := (SMap.get s.fab.loom [] sector).filter fun f => decide (f.stamp < close)
  match l.find? fun f => l.all fun g => !g.beats f with
  | none => ⟨Config.free i % 65536, Config.free (i + 1) % 4096, false, incomplete, false⟩
  | some f =>
    let age := close - f.stamp
    let known := decide (1 ≤ f.payload) && decide (f.payload ≤ 127)
    let table := match s.stepSet (s.stepOf (close - 1)) with | some c => c.ttc | none => []
    let ttc := if known then (table[f.payload.toNat - 1]?).getD (Config.free i % 65536) else Config.free i % 65536
    ⟨ttc, age, known && decide (age ≤ s.get R.fabLoomHoldUs) && !s.offline f.die, incomplete, f.poison⟩

/-- LOOMING_HANDOVER (R220, R221). -/
def execLoomingHandover (s : State) : Host.Outcome State Fault Refusal :=
  .next (
    let n := s.fab.loomNext
    let full := s.allDrained (s.stepOf (25 * (n + 1) - 1))
    let m := s.getIn R.fabLoomSectors 0 32
    if s.awake && s.inRun n && (full || decide (s.deadline n ≤ s.now)) then
      let l := (List.range m).map fun k => s.loomSample n k (s.free + 2 * k) (!full)
      ((s.took (2 * m)).setFab { s.fab with loomNext := n + 1, loomOut := SMap.put n l s.fab.loomOut }).when (!full) fun s => s.add R.cntLoomLate m
    else s)

/-! ### Reflex outputs (R222–R224) -/

/-- Reflex output `r`. -/
def State.reflex (s : State) (r : Nat) : Reflex := SMap.get s.fab.reflex {} r

/-- Reflex output replaced. -/
def State.setReflex (s : State) (r : Nat) (v : Reflex) : State :=
  s.setFab { s.fab with reflex := SMap.set s.fab.reflex {} r v }

/-- The activations counter of output `r`. -/
def cntReflex (r : Nat) : Fld := if r = 0 then R.cntReflex0 else R.cntReflex1

/-- Output `r` is driven active and its hold restarts (R222, R223). -/
def State.activate (s : State) (r : Nat) : State :=
  let s1 := s.when (!s.flag (R.fabReflexStatAsserted r)) fun s => (s.inc (cntReflex r)).condition 4
  (s1.setFlag (R.fabReflexStatAsserted r) true).setReflex r
    { s1.reflex r with holdEnd := s.now + max 1 (s.get (R.fabReflexHoldHoldUs r)) * 1000 }

/-- A fire of group `g` in step `k` meets output `r` (R222). [DESIGN CHOICE, log entry 77] [DESIGN CHOICE, log entry 150] -/
def State.reflexAt (s : State) (r : Nat) (f : ReflexFire) : State :=
  let v := s.reflex r
  let k := f.step
  if !s.flag (R.fabReflexCfgEn r) || s.get (R.fabReflexCfgGroup r) != f.group || decide (k + 63 < v.newest) then s
  else
    let newest := max v.newest k
    let counts := (SMap.upd v.counts 0 k (· + 1)).filter fun x => decide (newest < x.1 + 64)
    let sum := ((List.range (s.get (R.fabReflexCfgWinM1 r) + 1)).map fun d => if d ≤ k then SMap.get counts 0 (k - d) else 0).sum
    let s1 := (s.setReflex r { v with counts := counts, newest := newest }).set (R.fabReflexStatCountNow r) (min 65535 sum)
    s1.when (decide (max 1 (s.get (R.fabReflexThrThr r)) ≤ sum)) fun s => s.activate r

/-- REFLEX_FIRE (R222): the oldest fire that the reflex unit has not taken; a poisoned one counts too (R225). -/
def execReflexFire (parity : Bool) (s : State) : Host.Outcome State Fault Refusal :=
  .next (s.clocked (match s.fab.reflexQ with
    | [] => s
    | f :: l => (((({ s with fab := { s.fab with reflexQ := l } }).parityCheck parity dieIod 0).reflexAt 0 f).reflexAt 1 f)))

/-- Output `r` starts anew: it keeps no count. [DESIGN CHOICE, log entry 77] -/
def State.clearReflex (s : State) (r : Nat) : State := s.setReflex r { s.reflex r with counts := [], newest := 0 }

/-- REFLEX_HOLD_EXPIRY (R223). -/
def execReflexHoldExpiry (r : Fin 2) (s : State) : Host.Outcome State Fault Refusal :=
  .next (s.clocked (if s.flag (R.fabReflexStatAsserted r) && !s.flag (R.fabReflexCfgLatch r) && s.reached (s.reflex r).holdEnd then
      s.setFlag (R.fabReflexStatAsserted r) false
    else s))

/-- A write to FAB_REFLEXr_STAT: CLEAR returns a latched output to its inactive level (R223, R228). -/
def State.writeReflexStat (s : State) (r v : Nat) : State :=
  s.when (bit v 1 && s.flag (R.fabReflexCfgLatch r)) fun s => s.setFlag (R.fabReflexStatAsserted r) false

/-- CLEAR. -/
def execClear (r : Fin 2) (s : State) : Host.Outcome State Fault Refusal :=
  .next (s.bus (.write 0 false (R.fabReflexStatAsserted r).addr 4 2) fun s => s.writeReflexStat r 2)

/-! ### Start, stop and swap (R226) -/

/-- The first step boundary at or after the boundary of tick `n`, as a step (R226, R348). -/
def State.stepAtTick (s : State) (n : Nat) : Nat := ceilDiv (n * tickNs) s.stepNs

/-- A window that a stop left unwritten ends before a new run begins. [DESIGN CHOICE, log entry 79] -/
def State.flushWindow (s : State) : State := s.when s.windowEnded fun s => s.endWindow s.fab.winNext

/-- The fabric starts for the run from tick `n` on (R348). [DESIGN CHOICE, log entry 77] -/
def State.startFabric (s : State) (n : Nat) : State :=
  let s0 := s.flushWindow
  let k := s0.stepAtTick n
  let v : CoreFab := { closed := k * s0.stepUs - 1 }
  s0.setFab { s0.fab with
    running := true, first := k, halt := none, swaps := s0.fab.swaps.filter fun x => !x.2
    core := (List.range 64).map fun c => (c, { v with shed := (s0.core c).shed })
    flight := [], marks := [], windows := [], winNext := k / s0.windowSteps, loomNext := n, loomOut := [] }

/-- FABRIC_HALT (R226): every step before B has drained. -/
def execFabricHalt (s : State) : Host.Outcome State Fault Refusal :=
  .next (match s.fab.halt with
    | some b =>
      if s.awake && s.fab.running && decide (b * s.stepNs ≤ s.now) && (decide (b ≤ s.fab.first) || s.allDrained (b - 1)) then
        let n := (s.fab.core.filter fun x => x.2.ran && s.dieRuns (b - 1) (dieOfCore x.1)).length
        let cores := s.fab.core.map fun x => (x.1, { x.2 with ran := false, buffer := [] })
        ((s.add R.fabCntStep n).setFab { s.fab with running := false, flight := [], core := cores }).abortReads b
      else s
    | none => s)

/-- The cores of a die that only the new set uses take up the new set's first step `b` (R355). -/
def State.joinCores (s : State) (b : Nat) : State :=
  s.each (List.range 64) fun s c =>
    let q := s.core c
    if (match q.step with | some k => decide (k + 1 < b) | none => true) then
      s.setCore c { q with step := some (b - 1), ran := false, closed := b * s.stepUs - 1 }
    else s

/-- The cores of a die that only the outgoing set uses have drained their last step, b − 1; each counts it (R229). -/
def State.leaveCores (s : State) (b : Nat) : State :=
  s.each ((s.cores (b - 1)).filter fun c => (s.core c).ran && !s.dieRuns b (dieOfCore c)) fun s c =>
    (s.inc R.fabCntStep).setCore c { s.core c with ran := false }

/-- FABRIC_SET_CHANGE (R226): every step of the outgoing set has drained. -/
def execFabricSetChange (s : State) : Host.Outcome State Fault Refusal :=
  .next (match s.fab.swaps with
    | (b, true) :: l =>
      if s.awake && decide (b * s.stepNs ≤ s.now) && (!s.fab.running || decide (b ≤ s.fab.first) || s.allDrained (b - 1)) then
        let s1 := (s.when (s.fab.running && decide (s.fab.first < b)) fun s => s.leaveCores b).setFab { s.fab with swaps := l }
        s1.when (s.fab.running && decide (s.fab.first < b)) fun s => s.joinCores b
      else s
    | _ => s)

end Sys2Proof.Machine
end

