-- ==== Sys2Proof/Machine/Filter.lean ====
section
/-! DEFINITION. Inertial, wheel and auxiliary inputs and the filter chain (R230–R261). -/

namespace Sys2Proof.Machine

/-- The filter chain replaced. -/
def State.setFlt (s : State) (v : Filter) : State := { s with flt := v }

/-- Channel `n`. -/
def State.chan (s : State) (n : Nat) : Channel := SMap.get s.flt.chan {} n

/-- Channel `n` replaced. -/
def State.setChan (s : State) (n : Nat) (c : Channel) : State :=
  s.setFlt { s.flt with chan := SMap.set s.flt.chan {} n c }

/-- Whether channel `n` is enabled. -/
def State.chanOn (s : State) (n : Nat) : Bool := bit (s.get R.fltChEnEn) n

/-- FLT_STATUS.RUN_WRITE set (R260). -/
def State.fltRunWrite (s : State) : State := s.setFlag R.fltStatusRunWrite true

/-- FLT_STATUS.CFG_ERR set (R232, R253). -/
def State.cfgErr (s : State) : State := s.setFlag R.fltStatusCfgErr true

/-- A sample reaches the FTU. -/
def State.deliver (s : State) (x : Sample) : State :=
  { s with ftu := { s.ftu with inbox := s.ftu.inbox ++ [{ x with arrived := s.now }] } }

/-! ### Channel set-up (R246–R255) -/

/-- FIR length T (R247): TAPS = 0 counts as 1. -/
def State.firLen (s : State) (n : Nat) : Nat := max 1 (s.get (R.fltChFirTaps n))

/-- The decimated period NOM_NS × Q. -/
def State.decimated (s : State) (n : Nat) : Nat := s.get (R.fltChNomNomNs n) * s.get (R.fltChCicRate n)

/-- Ticks between two instants of channel `n` (R249). -/
def State.outDiv (s : State) (n : Nat) : Nat := s.get (R.fltChRsOutDivM1 n) + 1

/-- 256 × t_eval of instant `m` (in ticks) of channel `n` (R249). -/
def State.evalAt (s : State) (n m : Nat) : Int :=
  (256 * (m * tickNs) : Nat) - (s.get (R.fltChPdlyPdly n) * s.get (R.fltChNomNomNs n) : Nat)

/-- Raw samples until channel `n` is settled (R255). -/
def State.settleLen (s : State) (n : Nat) : Nat :=
  let q := s.get (R.fltChCicRate n)
  q * (ceilDiv (s.firLen n + s.get (R.fltChCicOrder n) * (q - 1)) q + 15) + ceilDiv (s.get (R.fltChPdlyPdly n)) 256

/-- The first instant at or after the present whose t_eval lies after it. -/
def State.firstInstant (s : State) (n : Nat) : Nat :=
  let d := s.outDiv n
  ceilDiv (s.now + s.get (R.fltChPdlyPdly n) * s.get (R.fltChNomNomNs n) / 256 + 1) (d * tickNs) * d

/-- The value of a 24-bit saturation and whether it saturated. -/
def sat24 (z : Int) : Int × Bool :=
  let v := clampInt (-(2 ^ 23)) (2 ^ 23 - 1) z
  (v, v != z)

/-- rnd(z, s): z / 2^s rounded, halves up; z where s is 0. -/
def rndShift (z : Int) (s : Nat) : Int := if s = 0 then z else floorDiv (z + 2 ^ (s - 1)) (2 ^ s)

/-- A saturation is counted and marks the channel's next output SAT. [DEDUCED, log entry 85] -/
def State.countSat (s : State) (n : Nat) (b : Bool) : State :=
  s.when b fun s => (s.inc R.cntSat).setChan n { s.chan n with sat := true }

/-- A coefficient as a signed number. -/
def State.coef (s : State) (a : Nat) : Int := toSigned 16 (SMap.get s.flt.coef 0 a)

/-! ### Thresholds (R256–R258) -/

/-- The registers of a threshold: EN, BELOW, OUT_EN, IRQ_EN, MIN_N_M1, LVL, HYST, ACTIVE. -/
structure ThrRegs where
  en : Fld
  below : Fld
  outEn : Fld
  irqEn : Fld
  minN : Fld
  lvl : Fld
  hyst : Fld
  active : Fld
  deriving DecidableEq, Repr

/-- Threshold A (false) or B (true) of channel `n`. -/
def thrRegs (n : Nat) (w : Bool) : ThrRegs :=
  if w then
    ⟨R.fltChThrbCfgEn n, R.fltChThrbCfgBelow n, R.fltChThrbCfgOutEn n, R.fltChThrbCfgIrqEn n, R.fltChThrbCfgMinNM1 n,
      R.fltChThrbLvlLvl n, R.fltChThrbHystHyst n, R.fltChStatThrbActive n⟩
  else
    ⟨R.fltChThraCfgEn n, R.fltChThraCfgBelow n, R.fltChThraCfgOutEn n, R.fltChThraCfgIrqEn n, R.fltChThraCfgMinNM1 n,
      R.fltChThraLvlLvl n, R.fltChThraHystHyst n, R.fltChStatThraActive n⟩

/-- The threshold's own state. -/
def Channel.thr (c : Channel) (w : Bool) : Threshold := if w then c.thrB else c.thrA

/-- The channel with a threshold replaced. -/
def Channel.setThr (c : Channel) (w : Bool) (t : Threshold) : Channel := if w then { c with thrB := t } else { c with thrA := t }

/-- Whether an output is beyond its level (R256). -/
def beyond (below : Bool) (v lvl : FV) : Bool := if below then v.le lvl else lvl.le v

/-- Whether an output is back. -/
def isBack (below : Bool) (v lvl hyst : FV) : Bool := if below then (add32 lvl hyst).lt v else v.lt (sub32 lvl hyst)

/-- A threshold record (R257); FLT_THR_DEST.EN = 0 writes none. -/
def State.thrRecord (s : State) (n : Nat) (w release unsettled poison : Bool) (instant value minN lvl : Nat) : State :=
  let pl := leBytes instant 8 ++ [BitVec.ofNat 8 n] ++ leBytes (b2n w + 2 * b2n release + 4 * b2n unsettled + 8 * b2n poison) 1
    ++ leBytes (minN + 1) 2 ++ leBytes value 4 ++ leBytes lvl 4 ++ [0, 0, 0, 0]
  let r : Rec := { type := 0x08, poison := poison, payload := pl }
  (s.inc R.cntThrEvent).when (s.flag R.fltThrDestEn) fun s => s.hand (s.get R.fltThrDestFunc) (s.get R.fltThrDestRing) r

/-- FLT_THR_OUT.LEVEL (R258): some threshold with OUT_EN is ACTIVE; OUT_EN acts from the channel's output on (R260). -/
def State.thrOut (s : State) : State :=
  s.setFlag R.fltThrOutLevel ((List.range 32).any fun n =>
    (s.flag (R.fltChStatThraActive n) && (s.chan n).thrA.outEn) || (s.flag (R.fltChStatThrbActive n) && (s.chan n).thrB.outEn))

/-- A threshold with its registers as they stand at an output (R260). -/
def State.latchThr (s : State) (n : Nat) (w : Bool) (h : Threshold) : Threshold :=
  let t := thrRegs n w
  { h with en := s.flag t.en, outEn := s.flag t.outEn, minN := s.get t.minN, lvl := s.get t.lvl }

/-- One threshold meets an output (R256). [DESIGN CHOICE, log entry 84] -/
def State.moveThr (s : State) (n : Nat) (w : Bool) (instant value : Nat) (poison : Bool) : State :=
  let t := thrRegs n w
  let h := s.latchThr n w ((s.chan n).thr w)
  let s1 := s.setChan n ((s.chan n).setThr w h)
  if !s.flag t.en then s1 else
  let below := s.flag t.below
  let active := s.flag t.active
  let meets := if active then isBack below (f32 value) (f32 (s.get t.lvl)) (f32 (s.get t.hyst)) else beyond below (f32 value) (f32 (s.get t.lvl))
  let p := (h.run != 0 && h.poison) || poison
  if !meets then s1.setChan n ((s.chan n).setThr w { h with run := 0, poison := false })
  else if h.run + 1 < s.get t.minN + 1 then s1.setChan n ((s.chan n).setThr w { h with run := h.run + 1, poison := p })
  else
    let s2 := (s1.setChan n ((s.chan n).setThr w { h with run := 0, poison := false })).setFlag t.active (!active)
    ((s2.thrRecord n w active false p instant value h.minN h.lvl).when (!active && s.flag t.irqEn) fun s =>
      s.raise (s.get R.fltThrDestFunc) (s.get (R.fnVecThr (s.get R.fltThrDestFunc))))

/-- A threshold as its channel restarts (R256), by its registers as of the last output (R260); no output completed a run, so VALUE is free. [DESIGN CHOICE, log entry 84] -/
def State.releaseThr (s : State) (n : Nat) (w : Bool) : State :=
  let t := thrRegs n w
  let h := (s.chan n).thr w
  if !h.en then s else
  let s1 := s.setChan n ((s.chan n).setThr w { h with run := 0, poison := false })
  if s.flag t.active then
    ((s1.setFlag t.active false).thrRecord n w true true (h.run != 0 && h.poison) (s.chan n).lastInstant
      (s.freeValue % 2 ^ 32) h.minN h.lvl).took 1
  else s1

/-! ### Restart and outputs (R249–R255) -/

/-- Bit n of FLT_SETTLED and CHn_STAT.SETTLED. -/
def State.setSettled (s : State) (n : Nat) (b : Bool) : State :=
  (s.set R.fltSettledSettled (setBit (s.get R.fltSettledSettled) n b)).setFlag (R.fltChStatSettled n) b

/-- A channel restarts (R254). -/
def State.restart (s : State) (n : Nat) : State :=
  let s1 := ((s.releaseThr n false).releaseThr n true)
  let c := s1.chan n
  (((s1.setChan n { c with fir := [], ints := [], combs := [], phase := 0, hist := [], spNum := s.decimated n, spPow := 0, raw := 0, lastRaw := none }).inc
    R.cntRestart).setSettled n false).set (R.fltChStatCount n) 0 |>.thrOut

/-- A channel restarts and takes up the instants that lie ahead: at its enable and at a STEP of device time. -/
def State.startChan (s : State) (n : Nat) : State :=
  let s1 := s.restart n
  s1.setChan n { s1.chan n with next := s.firstInstant n }

/-- Every enabled channel restarts (R362). -/
def State.restartAll (s : State) : State :=
  s.each ((List.range 32).filter s.chanOn) fun s n => s.startChan n

/-- The sum of a bank phase over the kept CIC outputs (R250). -/
def State.resample (s : State) (n p : Nat) : Int :=
  (((s.chan n).hist.zipIdx).map fun x =>
    s.coef (2048 + s.get (R.fltChRsBank n) * 512 + p * 16 + x.2) * x.1.value).sum

/-- The phase of t_eval and whether μ is 1 or more (R250), from 256 × t_eval; T̂ is kept exactly. [DEDUCED, log entry 82] -/
def State.phaseOf (s : State) (n : Nat) (te : Int) : Nat × Bool :=
  let c := s.chan n
  match c.hist with
  | [] => (0, false)
  | x :: _ =>
    let num := (te - 256 * x.stamp) * 64 ^ c.spPow
    let den : Int := 256 * c.spNum
    if den = 0 then (31, true)
    else ((min 31 (floorDiv (64 * num + den) (2 * den))).toNat, decide (den ≤ num))

/-- A coefficient of channel `n` is read; `bad` where it has a parity error, which the channel's next output carries (R252). -/
def State.readCoef (s : State) (n : Nat) (bad : Bool) : State :=
  s.when bad fun s => (s.setChan n { s.chan n with perr := true }).setFlag R.fltStatusCoefPerr true

/-- The output for the channel's next instant is computed (R250, R252): handed to the FTU unless a stop holds it (R259), and met by both thresholds; `bad` where a coefficient of its bank has a parity error. -/
def State.compute (s : State) (n : Nat) (bad : Bool) : State :=
  let m := (s.chan n).next
  let s00 := s.readCoef n bad
  let c := s00.chan n
  let perr := c.perr
  let s0 := s00.setChan n { c with next := m + s.outDiv n }
  if c.raw < s.settleLen n then s0 else
  let ph := s.phaseOf n (s.evalAt n m)
  let o := sat24 (rndShift (s.resample n ph.1) 15)
  let s1 := (s0.when ph.2 fun s => s.inc R.cntStretch).countSat n o.2
  let v := code32 (add32 (mul32 (ofInteger o.1) (f32 (s.get (R.fltChScaleOutScale n)))) (f32 (s.get (R.fltChOfsOutOfs n))))
  let t := m * tickNs
  let held := match s.flt.stopAt with | some T => decide (T ≤ m) | none => false
  let flag := (s1.chan n).sat
  let s2 := s1.setChan n { s1.chan n with sat := false, perr := false, lastInstant := t }
  let s3 := s2.when (!held) fun s => ((s.inc R.cntOut).count dieIod 19 1).deliver { origin := .chan n, stamp := t, vals := [v], sat := flag, poison := perr }
  ((s3.moveThr n false t v perr).moveThr n true t v perr).thrOut

/-- The outputs of the instants whose t_eval lies before a raw sample's stamp (R251), at most `fuel` of them; `bad` where a coefficient of the first has a parity error. [DEDUCED, log entry 83] -/
def State.computeBefore (s : State) (n stamp : Nat) (bad : Bool) : Nat → State
  | 0 => s
  | fuel + 1 => if s.evalAt n (s.chan n).next < (256 * stamp : Nat) then (s.compute n bad).computeBefore n stamp false fuel else s

/-- The number of instants up to a stamp, an upper bound for `computeBefore`. -/
def State.dueInstants (s : State) (n stamp : Nat) : Nat := (stamp + s.get (R.fltChPdlyPdly n) * s.get (R.fltChNomNomNs n)) / tickNs + 1 - (s.chan n).next

/-- RESAMPLER_TIMEOUT (R251). -/
def execResamplerTimeout (n : Fin 32) (perr : Bool) (s : State) : Host.Outcome State Fault Refusal :=
  .next (s.clocked (if s.chanOn n && decide (s.evalAt n (s.chan n).next + (256 * s.get (R.fltChRsWaitNs n) : Nat) ≤ (256 * s.now : Nat)) then
      s.compute n perr
    else s))

/-! ### Raw samples (R247, R248, R250) -/

/-- A number modulo 2^48, read as signed (R248). -/
def wrap48 (z : Int) : Int := toSigned 48 (ofInt 48 z)

/-- The integrators take one input: new registers and the last stage's sum. -/
def integrators (x : Int) : List Int → List Int × Int
  | [] => ([], x)
  | r :: rs =>
    let v := wrap48 (r + x)
    let t := integrators v rs
    (v :: t.1, t.2)

/-- The combs take one sum: new registers and the output. -/
def comb (x : Int) : List Int → List Int × Int
  | [] => ([], x)
  | r :: rs =>
    let t := comb (wrap48 (x - r)) rs
    (x :: t.1, t.2)

/-- Registers of `k` stages, 0 where none were kept. -/
def stages (l : List Int) (k : Nat) : List Int := (l ++ List.replicate k 0).take k

/-- A CIC output reaches the resampler (R250): T̂ moves by a 64th of the difference. [DEDUCED, log entry 82] -/
def Channel.pushPoint (c : Channel) (x : Point) : Channel :=
  match c.hist with
  | [] => { c with hist := [x] }
  | y :: _ => { c with hist := (x :: c.hist).take 16, spNum := 63 * c.spNum + (x.stamp - y.stamp) * 64 ^ c.spPow, spPow := c.spPow + 1 }

/-- One raw sample passes FIR and CIC (R247, R248). -/
def State.pass (s : State) (n stamp : Nat) (x : Int) : State :=
  let c := s.chan n
  let taps := s.get (R.fltChFirTaps n)
  let fir := (x :: c.fir).take (s.firLen n)
  let y := if taps = 0 then (x, false)
    else sat24 (rndShift ((fir.zipIdx).map fun v => s.coef (n * 64 + v.2) * v.1).sum (s.get (R.fltChFirShift n)))
  let k := s.get (R.fltChCicOrder n)
  let i := integrators y.1 (stages c.ints k)
  let s1 := (s.setChan n { c with fir := fir, ints := i.1, phase := c.phase + 1 }).countSat n y.2
  if c.phase + 1 = s.get (R.fltChCicRate n) then
    let o := comb i.2 (stages c.combs k)
    let z := sat24 (rndShift o.2 (s.get (R.fltChCicShift n)))
    let c1 := s1.chan n
    (s1.setChan n { c1.pushPoint ⟨stamp, z.1⟩ with combs := o.1, phase := 0 }).countSat n z.2
  else s1

/-- A raw sample reaches a channel (R251, R254, R255). Bit n of `perr` says that a bank coefficient of the first output it makes the channel compute has a parity error, bit 32 + n that a FIR coefficient has (R252). -/
def State.rawSample (s : State) (n stamp : Nat) (x : Int) (perr : Nat) : State :=
  let gap := match (s.chan n).lastRaw with
    | some p => decide (p + 2 * s.get (R.fltChNomNomNs n) < stamp)
    | none => false
  let s1 := (s.computeBefore n stamp (bit perr n) (s.dueInstants n stamp)).when gap fun s => s.restart n
  let s2 := (s1.readCoef n (bit perr (32 + n) && s.get (R.fltChFirTaps n) != 0)).pass n stamp x
  let c := s2.chan n
  let s3 := (s2.setChan n { c with raw := c.raw + 1, lastRaw := some stamp }).set (R.fltChStatCount n) (min 65535 (c.raw + 1))
  s3.when (decide (s3.settleLen n ≤ c.raw + 1)) fun s => s.setSettled n true

/-- A sample of source `src` reaches every enabled channel that selects it (R246). -/
def State.source (s : State) (src stamp : Nat) (x : Int) (perr : Nat) : State :=
  s.each ((List.range 32).filter fun n => s.chanOn n && s.get (R.fltChSrcSrc n) == src) fun s n => s.rawSample n stamp x perr

/-! ### Enabling channels (R253) -/

/-- Whether SRC names a source that a channel may take (R246, R253). -/
def State.srcOk (s : State) (src : Nat) : Bool :=
  (decide (0x10 ≤ src) && decide (src ≤ 0x16)) || (decide (0x18 ≤ src) && decide (src ≤ 0x1E)) || (decide (0x20 ≤ src) && decide (src ≤ 0x27))
    || (decide (0x40 ≤ src) && decide (src ≤ 0x5F) && !s.flag (R.fltSigDestDirect (src - 0x40)))

/-- The multiply-accumulates per second of channel `n` as a fraction (R253). -/
def State.macRate (s : State) (n : Nat) : Nat × Nat :=
  let nom := s.get (R.fltChNomNomNs n)
  let d := s.outDiv n
  (s.firLen n * 10 ^ 9 * d + 640000 * nom, nom * d)

/-- Whether the given channels together stay within 3.2 × 10^9 multiply-accumulates per second (R253). -/
def State.macsOk (s : State) (l : List Nat) : Bool :=
  let q := l.foldl (fun (a : Nat × Nat) n => let r := s.macRate n; (a.1 * r.2 + r.1 * a.2, a.2 * r.2)) (0, 1)
  decide (q.1 ≤ 3200000000 * q.2)

/-- Bit n of FLT_CH_EN goes from 0 to 1 (R253, R254). -/
def State.enableChan (s : State) (n : Nat) : State :=
  let on := (List.range 32).filter fun i => i == n || s.chanOn i
  if s.srcOk (s.get (R.fltChSrcSrc n)) && decide (s.decimated n ≤ 250000) && s.macsOk on then
    (s.set R.fltChEnEn (setBit (s.get R.fltChEnEn) n true)).startChan n
  else s.cfgErr

/-- Bit n of FLT_CH_EN written as `on`: only a change acts. -/
def State.writeChanBit (s : State) (n : Nat) (on : Bool) : State :=
  if s.chanOn n = on then s
  else if on then s.enableChan n
  else s.set R.fltChEnEn (setBit (s.get R.fltChEnEn) n false)

/-- CHANNEL_ENABLE. -/
def execChannelEnable (n : Fin 32) (s : State) : Host.Outcome State Fault Refusal :=
  .next (s.bus (.write 0 false 0x800000 4 (setBit (s.get R.fltChEnEn) n true)) fun s => s.writeChanBit n true)

/-- CHANNEL_GAP_RESTART (R254): device time has passed the last raw stamp plus 2 × NOM_NS + WAIT_NS. -/
def execChannelGapRestart (n : Fin 32) (s : State) : Host.Outcome State Fault Refusal :=
  .next (s.clocked (match (s.chan n).lastRaw with
    | some p =>
      if s.chanOn n && decide (p + 2 * s.get (R.fltChNomNomNs n) + s.get (R.fltChRsWaitNs n) < s.now) then s.restart n else s
    | none => s))

/-- A write of CHn_SRC takes effect (R254, R260): an enabled channel restarts. -/
def State.setSrc (s : State) (n v : Nat) : State :=
  (s.set (R.fltChSrcSrc n) v).when (s.chanOn n) fun s => s.restart n

/-! ### IMU masters (R231–R234) -/

/-- IMU master `i`. -/
def State.imu (s : State) (i : Nat) : Imu := SMap.get s.flt.imu {} i

/-- IMU master replaced. -/
def State.setImu (s : State) (i : Nat) (v : Imu) : State :=
  s.setFlt { s.flt with imu := SMap.set s.flt.imu {} i v }

/-- Byte offset of element `e` of IMU `i` (R232). -/
def State.imuOfs (s : State) (i e : Nat) : Nat :=
  if e = 6 then s.get (R.fltImuOfs6Ofs6 i) else bits (s.get (R.fltImuOfsOfs i)) (5 * e) 5

/-- Whether every element ends within the bytes read (R232), under a CFG value. -/
def State.imuFits (s : State) (i v : Nat) : Bool :=
  (List.range 7).all fun e => decide (s.imuOfs i e + (if bit v 2 then 3 else 2) ≤ bits v 16 5)

/-- A write of FLT_IMUi_CFG (R232, R260): ignored while EN = 1; EN stays 0 where an element would end beyond the bytes read. [DESIGN CHOICE, log entry 81] -/
def State.writeImuCfg (s : State) (i v : Nat) : State :=
  if s.flag (R.fltImuCfgEn i) then s.fltRunWrite else
  let s1 := ((((((s.set (R.fltImuCfgMode3 i) (bits v 1 1)).set (R.fltImuCfgW24 i) (bits v 2 1)).set (R.fltImuCfgBe i) (bits v 3 1)).set
    (R.fltImuCfgSclkDiv i) (bits v 4 8)).set (R.fltImuCfgCmdLenM1 i) (bits v 12 2)).set (R.fltImuCfgRdLen i) (bits v 16 5))
  if !bit v 0 then s1
  else if s.imuFits i v then s1.setFlag (R.fltImuCfgEn i) true
  else s1.cfgErr

/-- IMU_ENABLE. -/
def execImuEnable (i : Fin 2) (v : Word) (s : State) : Host.Outcome State Fault Refusal :=
  .next (s.bus (.write 0 false (R.fltImuCfgEn i).addr 4 v.toNat) fun s => s.writeImuCfg i v.toNat)

/-- A read of IMU `i` starts for the edge stamped `t` (R232): chip select asserted, CMD_LEN_M1 + 1 bytes of FLT_IMUi_CMD sent, byte 0 first. -/
def State.startRead (s : State) (i t : Nat) (latched : Option Nat) : State :=
  s.setImu i { reading := some t, latched := latched, sent := leBytes (s.get (R.fltImuCmdCmd i)) (s.get (R.fltImuCfgCmdLenM1 i) + 1) }

/-- The glitch filter of IMU `i`'s data-ready input (R503, R510). -/
def drdyFilter (i : Nat) : Fld := if i = 0 then R.mgtPad3Filt else R.mgtPad4Filt

/-- DRDY_EDGE (R232, R233): a rising edge, where the level behind it, held for `held` ns, passes the glitch filter (R503). -/
def execDrdyEdge (i : Fin 2) (held : Nat) (s : State) : Host.Outcome State Fault Refusal :=
  .next (if !s.awake || !s.flag (R.fltImuCfgEn i) || !s.filterPasses (drdyFilter i) held then s else
    let m := s.imu i
    match m.reading, m.latched with
    | none, _ => s.startRead i s.now m.latched
    | some _, none => s.setImu i { m with latched := some s.now }
    | some _, some _ => (s.setImu i { m with latched := some s.now }).inc (if i.val = 0 then R.cntDrdyOvr0 else R.cntDrdyOvr1))

/-- The signed value of element `e` in the bytes read (R232). -/
def State.imuElement (s : State) (i e : Nat) (data : List Byte) : Int :=
  let n := if s.flag (R.fltImuCfgW24 i) then 3 else 2
  let b := slice data (s.imuOfs i e) n
  toSigned (8 * n) (leNat (if s.flag (R.fltImuCfgBe i) then b.reverse else b))

/-- The RD_LEN bytes of a read (R232). -/
def State.bytesRead (s : State) (i : Nat) (data : List Byte) : List Byte :=
  let n := s.get (R.fltImuCfgRdLen i)
  (data ++ List.replicate n 0).take n

/-- IMU_READ_COMPLETE (R232, R233): RD_LEN bytes are read, the seven elements enter the filter channels, and a latched edge starts the next read. -/
def execImuReadComplete (i : Fin 2) (data : List Byte) (perr : Nat) (s : State) : Host.Outcome State Fault Refusal :=
  .next (s.clocked (match (s.imu i).reading with
    | none => s
    | some t =>
      let s1 := match (s.imu i).latched with
        | some u => s.startRead i u none
        | none => s.setImu i {}
      s1.each (List.range 7) fun s e => s.source (0x10 + 8 * i + e) t (s.imuElement i e (s.bytesRead i data)) perr))

/-- A write of FLT_IMUi_XFER_CTL (R234): GO acts while EN = 0; LEN bytes of XFER_DATA are sent. -/
def State.writeXferCtl (s : State) (i v : Nat) : State :=
  (s.set (R.fltImuXferCtlLen i) (bits v 0 4)).when (bit v 30 && !s.flag (R.fltImuCfgEn i)) fun s =>
    (s.setFlag (R.fltImuXferCtlBusy i) true).setImu i
      { s.imu i with sent := leBytes (s.get (R.fltImuXferDataData i)) (min 8 (s.get (R.fltImuXferCtlLen i))) }

/-- IMU_XFER. -/
def execImuXfer (i : Fin 2) (v : Word) (s : State) : Host.Outcome State Fault Refusal :=
  .next (s.bus (.write 0 false (R.fltImuXferCtlLen i).addr 4 v.toNat) fun s => s.writeXferCtl i v.toNat)

/-- IMU_XFER_DONE (R234): the bytes received replace the bytes sent. -/
def execImuXferDone (i : Fin 2) (data : List Byte) (s : State) : Host.Outcome State Fault Refusal :=
  .next (s.clocked (if s.flag (R.fltImuXferCtlBusy i) then
      let n := min 8 (s.get (R.fltImuXferCtlLen i))
      let old := leBytes (s.get (R.fltImuXferDataData i)) 8
      (s.set (R.fltImuXferDataData i) (leNat ((data ++ List.replicate n 0).take n ++ old.drop n))).setFlag (R.fltImuXferCtlBusy i) false |>.setImu i { s.imu i with sent := [] }
    else s))

/-! ### Encoders (R235, R236) -/

/-- Encoder `e`. [DESIGN CHOICE, log entry 86] -/
def State.enc (s : State) (e : Nat) : Encoder := SMap.get s.flt.enc {} e

/-- Encoder replaced. -/
def State.setEnc (s : State) (e : Nat) (v : Encoder) : State :=
  s.setFlt { s.flt with enc := SMap.set s.flt.enc {} e v }

/-- Whether encoder `e` is enabled. -/
def State.encOn (s : State) (e : Nat) : Bool := bit (s.get R.fltEncCfgEn) e

/-- The place of two input levels in the sequence 00, 10, 11, 01 of A leading B. -/
def quadrant (a b : Bool) : Nat :=
  match a, b with
  | false, false => 0 | true, false => 1 | true, true => 2 | false, true => 3

/-- The steps of one transition: 1 forward, 3 backward, 2 illegal (R235); the inputs are exchanged where INVERT says so. [DESIGN CHOICE, log entry 22] -/
def encSteps (invert a0 b0 a1 b1 : Bool) : Nat :=
  let q0 := if invert then quadrant b0 a0 else quadrant a0 b0
  let q1 := if invert then quadrant b1 a1 else quadrant a1 b1
  (q1 + 4 - q0) % 4

/-- ENCODER_TRANSITION (R235): to levels that, held for `held` ns, pass the glitch filter (R503). -/
def execEncoderTransition (e : Fin 8) (a b : Bool) (held : Nat) (s : State) : Host.Outcome State Fault Refusal :=
  .next (s.clocked (
    if !s.filterPasses R.mgtPad5Filt held then s else
    let v := s.enc e
    let s1 := s.setEnc e { v with a := a, b := b }
    let k := encSteps (bit (s.get R.fltEncCfgInvert) e) v.a v.b a b
    if !s.encOn e then s1
    else if k = 2 then s1.inc R.cntEncIllegal
    else if k = 0 then s1
    else if (k = 1) = Config.encoderUp then s1.add (R.fltEncPosPos e) 1
    else s1.add (R.fltEncPosPos e) (2 ^ 32 - 1)))

/-- ENCODER_SAMPLE (R236): at a microsecond boundary not sampled yet. -/
def execEncoderSample (e : Fin 8) (perr : Nat) (s : State) : Host.Outcome State Fault Refusal :=
  .next (
    let v := s.enc e
    let us := s.now / 1000
    if s.awake && s.encOn e && decide (v.us < us) then
      let pos := s.get (R.fltEncPosPos e)
      (s.setEnc e { v with prev := pos, us := us }).source (0x20 + e) (us * 1000) (sat24 (wrapDiff 32 pos v.prev)).1 perr
    else s)

/-- A write of FLT_ENC_CFG: an encoder that becomes enabled starts from its present count. -/
def State.writeEncCfg (s : State) (v : Nat) : State :=
  let new := (List.range 8).filter fun e => bit v e && !s.encOn e
  let s1 := (s.set R.fltEncCfgEn (bits v 0 8)).set R.fltEncCfgInvert (bits v 8 8)
  s1.each new fun s e => s.setEnc e { s.enc e with prev := s.get (R.fltEncPosPos e), us := s.now / 1000 }

/-! ### CAN FD (R237–R241) -/

/-- STATE of FLT_CANc_STAT after the counters have moved (ISO 11898-1 fault confinement): passive from 128. [PRESUMED, log entry 26] -/
def canState (receive transmit : Nat) : Nat :=
  if 256 ≤ transmit then 2 else if 128 ≤ receive ∨ 128 ≤ transmit then 1 else 0

/-- REC and TEC set, and the state they give; REC stops at 255. -/
def State.setCan (s : State) (c receive transmit : Nat) : State :=
  ((s.set (R.fltCanStatRec c) (min 255 receive)).set (R.fltCanStatTec c) transmit).set (R.fltCanStatState c) (canState receive transmit)

/-- Controller `c` beside its registers. -/
def State.can (s : State) (c : Nat) : CanPort := SMap.get s.flt.can {} c

/-- Controller replaced. -/
def State.setCanPort (s : State) (c : Nat) (v : CanPort) : State := s.setFlt { s.flt with can := SMap.set s.flt.can {} c v }

/-- Controller `c` sends an acknowledge or an error frame, unless it only listens (R237). -/
def State.canSends (s : State) (c : Nat) (x : CanSent) : State :=
  s.when (!s.flag (R.fltCanCfgListen c)) fun s => s.setCanPort c { s.can c with sent := some x }

/-- The error frame of a controller: active while its state is. -/
def State.canErrorFrame (s : State) (c : Nat) : CanSent := if s.get (R.fltCanStatState c) = 0 then .activeError else .passiveError

/-- Whether controller `c` takes part on its bus. -/
def State.canOn (s : State) (c : Nat) : Bool := s.awake && s.flag (R.fltCanCfgEn c) && s.get (R.fltCanStatState c) != 2

/-- REC after a frame received without error: one less, or back to 119–127 where it stood above 127 (the standard leaves which, a free value). [PRESUMED, log entry 26] -/
def State.canRxOk (s : State) (c : Nat) : State :=
  let r := s.get (R.fltCanStatRec c)
  if r = 0 then s
  else if r ≤ 127 then s.setCan c (r - 1) (s.get (R.fltCanStatTec c))
  else (s.setCan c (119 + s.freeValue % 9) (s.get (R.fltCanStatTec c))).took 1

/-- CAN_BUS_ERROR (R237): an error frame is sent unless LISTEN = 1, which also rules out an error of its own transmission. -/
def execCanBusError (c : Fin 4) (err : CanError) (s : State) : Host.Outcome State Fault Refusal :=
  .next (s.clocked (if s.canOn c then
      let r := s.get (R.fltCanStatRec c)
      let t := s.get (R.fltCanStatTec c)
      match err with
      | .rx k => (s.canSends c (s.canErrorFrame c)).setCan c (r + k) t
      | .tx k => if s.flag (R.fltCanCfgListen c) then s else (s.canSends c (s.canErrorFrame c)).setCan c r (t + k)
      | .rxOk => s.canRxOk c
      | .txOk => if s.flag (R.fltCanCfgListen c) then s else s.setCan c r (t - 1)
    else s))

/-- BUS_OFF_RECOVERY (R237). -/
def execBusOffRecovery (c : Fin 4) (s : State) : Host.Outcome State Fault Refusal :=
  .next (s.clocked (if s.get (R.fltCanStatState c) = 2 then
      ((s.set (R.fltCanStatRec c) 0).set (R.fltCanStatTec c) 0).set (R.fltCanStatState c) 0
    else s))

/-- Whether filter `f` takes a frame of controller `c` (R239). -/
def State.canMatch (s : State) (f c : Nat) (fr : CanFrame) : Bool :=
  s.flag (R.fltCanfMaskEn f) && s.get (R.fltCanfIdCtrl f) == c && s.flag (R.fltCanfIdIde f) == fr.ext
    && ((fr.id ^^^ s.get (R.fltCanfIdId f)) &&& s.get (R.fltCanfMaskMask f)) == 0

/-- Bit `b` of the frame's data in the numbering of a map (R240). -/
def canBit (data : List Byte) (be : Bool) (b : Nat) : Bool :=
  bit (data.getD (b / 8) 0).toNat (if be then 7 - b % 8 else b % 8)

/-- The value that bits `start` to `start + len − 1` spell (R240). -/
def canField (data : List Byte) (be : Bool) (start len : Nat) : Nat :=
  let l := (List.range len).map fun i => b2n (canBit data be (start + i))
  if be then l.foldl (fun a x => 2 * a + x) 0 else l.foldr (fun x a => 2 * a + x) 0

/-- What one signal map takes from a frame (R240, R241); none where the frame is too short. -/
def State.canMap (s : State) (m : Nat) (data : List Byte) : Option CanValue :=
  let len := s.get (R.fltSigCfgLenM1 m) + 1
  let start := s.get (R.fltSigCfgStart m)
  if 8 * data.length < start + len then none else
  let raw := canField data (s.flag (R.fltSigCfgBe m)) start len
  some ⟨m, s.flag (R.fltSigDestDirect m), if s.flag (R.fltSigCfgSigned m) then toSigned len raw else raw⟩

/-- A value reaches the FTU, or the channels whose source it is (R241). -/
def State.canValue (s : State) (stamp perr : Nat) (v : CanValue) : State :=
  if v.direct then s.deliver { origin := .can v.map, stamp := stamp, vals := [code32 (ofInteger v.value)] }
  else s.source (0x40 + v.map) stamp v.value perr

/-- The oldest frame leaves the receive FIFO of controller `c`, and its values go on. -/
def State.takeCan (s : State) (c perr : Nat) : State :=
  match (s.can c).fifo with
  | [] => s
  | k :: l => (s.setCanPort c { s.can c with fifo := l }).each k.vals fun s v => s.canValue k.stamp perr v

/-- Up to `n` frames leave the receive FIFO of controller `c`. -/
def State.takeCans (s : State) (c perr : Nat) : Nat → State
  | 0 => s
  | n + 1 => (s.takeCan c perr).takeCans c perr n

/-- A frame enters the receive FIFO of controller `c` with what the filters and maps take from it as they stand (R238–R240, R260); one that finds 32 frames is lost (R237). [DESIGN CHOICE, log entry 87] -/
def State.keepFrame (s : State) (c sof : Nat) (fr : CanFrame) : State :=
  if 32 ≤ (s.can c).fifo.length then s.inc R.cntCanOvf else
  let s1 := s.inc R.cntCanFrame
  match (List.range 64).find? fun f => s.canMatch f c fr with
  | none => s1.inc R.cntCanNomatch
  | some f =>
    let maps := (List.range 32).filter fun m => s.flag (R.fltSigCfgEn m) && s.get (R.fltSigCfgFilter m) == f
    let vals := maps.filterMap fun m => s.canMap m fr.data
    (s1.add R.cntCanShort (maps.length - vals.length)).setCanPort c { s.can c with fifo := (s.can c).fifo ++ [⟨sof, vals⟩] }

/-- CAN_FRAME (R237–R241): a frame whose start-of-frame edge fell at device time `sof` is received without error and acknowledged; a remote frame is then ignored. The device takes up to `taken` frames from the receive FIFO. [DESIGN CHOICE, log entry 87] -/
def execCanFrame (c : Fin 4) (sof : Nat) (fr : CanFrame) (taken perr : Nat) (s : State) : Host.Outcome State Fault Refusal :=
  .next (s.clocked (if !s.canOn c || (fr.fd && !s.flag (R.fltCanCfgFdEn c)) then s else
    let s1 := (s.canRxOk c).canSends c .ack
    (if fr.remote then s1 else s1.keepFrame c sof fr).takeCans c perr taken))

/-! ### GNSS (R242–R245) -/

/-- A field of a sentence as a decimal number: sign, digits, number of digits after the point; none where it is not one. -/
structure Decimal where
  neg : Bool
  digits : Nat
  places : Nat
  deriving DecidableEq, Repr

/-- The decimal digit of a character. -/
def digit? (b : Byte) : Option Nat := if 48 ≤ b.toNat ∧ b.toNat ≤ 57 then some (b.toNat - 48) else none

/-- The hexadecimal digit of a character. -/
def hex? (b : Byte) : Option Nat :=
  let c := b.toNat
  if 48 ≤ c ∧ c ≤ 57 then some (c - 48) else if 65 ≤ c ∧ c ≤ 70 then some (c - 55) else if 97 ≤ c ∧ c ≤ 102 then some (c - 87) else none

/-- Digits with at most one point, from what is read so far. -/
def decimalDigits : List Byte → Nat → Option Nat → Option (Nat × Nat)
  | [], v, p => some (v, p.getD 0)
  | b :: bs, v, p =>
    if b = 46 then (match p with | none => decimalDigits bs v (some 0) | some _ => none)
    else match digit? b with
      | some d => decimalDigits bs (10 * v + d) (p.map (· + 1))
      | none => none

/-- A field as a number. -/
def decimal? : List Byte → Option Decimal
  | [] => none
  | b :: bs => if b = 45 then (if bs.isEmpty then none else (decimalDigits bs 0 none).map fun x => ⟨true, x.1, x.2⟩)
    else (decimalDigits (b :: bs) 0 none).map fun x => ⟨false, x.1, x.2⟩

/-- num / den in whole units; where it is not whole, free value `i` chooses between the two nearest (R243 names no rounding). [DESIGN CHOICE, log entry 88] -/
def looseDiv (num den i : Nat) : Nat := num / den + (if num % den = 0 then 0 else Config.free i % 2)

/-- A number in units of 1 / scale. -/
def Decimal.scaled (d : Decimal) (scale i : Nat) : Int :=
  let v := looseDiv (d.digits * scale) (10 ^ d.places) i
  if d.neg then -(v : Int) else v

/-- A coordinate ddmm.mmmm in 10^−9 degree. -/
def Decimal.angle (d : Decimal) (i : Nat) : Nat :=
  let whole := d.digits / (100 * 10 ^ d.places)
  let mins := d.digits % (100 * 10 ^ d.places)
  whole * 10 ^ 9 + looseDiv (mins * 10 ^ 9) (60 * 10 ^ d.places) i

/-- A list cut at every byte `c`. -/
def splitAtByte (c : Byte) : List Byte → List (List Byte)
  | [] => [[]]
  | b :: bs =>
    let r := splitAtByte c bs
    if b = c then [] :: r
    else match r with
      | f :: fs => (b :: f) :: fs
      | [] => [[b]]

/-- The exclusive or of bytes (the checksum of a sentence). -/
def xorBytes (l : List Byte) : Nat := l.foldl (fun a b => a ^^^ b.toNat) 0

/-- The body of a sentence, between $ and *, where framing, length and checksum hold (R243). -/
def sentenceBody (t : List Byte) : Option (List Byte) :=
  if 82 < t.length ∨ t.length < 6 then none else
  let n := t.length
  let body := (t.drop 1).take (n - 6)
  let tail := t.drop (n - 5)
  match t.head?, tail with
  | some 36, [42, h, l, 13, 10] =>
    match hex? h, hex? l with
    | some a, some b => if xorBytes body = 16 * a + b then some body else none
    | _, _ => none
  | _, _ => none

/-- A number field: a null field is free (no value is stated for it), a malformed one breaks the field rule. [DESIGN CHOICE, log entry 88] -/
def numField (f : List Byte) (val : Decimal → Int) (i : Nat) : Option Int :=
  if f.isEmpty then some (Config.free i) else (decimal? f).map val

/-- A sign by a letter field: `pos`, `neg`, or null. -/
def letterSign (f : List Byte) (pos neg : Byte) : Option Int :=
  if f = [pos] ∨ f = [] then some 1 else if f = [neg] then some (-1) else none

/-- The fraction of the UTC field in ns; the field has six digits before the point. -/
def utcFraction (f : List Byte) (i : Nat) : Option Nat :=
  match decimal? f with
  | some d => if d.neg ∨ f.length < 6 then none else some (looseDiv (d.digits % 10 ^ d.places * 10 ^ 9) (10 ^ d.places) i)
  | none => none

/-- What a GGA sentence passes on (R243): latitude, longitude, altitude, fix quality, satellites, HDOP × 100. -/
def ggaValues (f : Nat → List Byte) (i : Nat) : Option (List Nat) :=
  match numField (f 2) (fun d => d.angle i) i, letterSign (f 3) 78 83, numField (f 4) (fun d => d.angle (i + 1)) (i + 1), letterSign (f 5) 69 87,
      numField (f 9) (fun d => d.scaled 1000 (i + 2)) (i + 2), numField (f 6) (fun d => d.scaled 1 (i + 3)) (i + 3),
      numField (f 7) (fun d => d.scaled 1 (i + 4)) (i + 4), numField (f 8) (fun d => d.scaled 100 (i + 5)) (i + 5) with
  | some lat, some ns, some lon, some ew, some alt, some q, some sats, some hdop =>
    some [ofInt 64 (lat * ns), ofInt 64 (lon * ew), ofInt 32 alt, q.toNat, sats.toNat, hdop.toNat]
  | _, _, _, _, _, _, _, _ => none

/-- What an RMC sentence passes on (R243): status (1 for A), speed in mm/s from knots, course in 0.01 degree. -/
def rmcValues (f : Nat → List Byte) (i : Nat) : Option (List Nat) :=
  let status := if f 2 = [65] then some 1 else if f 2 = [86] then some 0 else none
  match status, numField (f 7) (fun d => (looseDiv (d.digits * 1852000) (3600 * 10 ^ d.places) i : Nat)) i,
      numField (f 8) (fun d => d.scaled 100 (i + 1)) (i + 1) with
  | some st, some v, some c => some [st, ofInt 32 v, c.toNat]
  | _, _, _ => none

/-- The stamp of a sentence whose $ arrived at `arrived` (R244), with NO_PPS. -/
def State.gnssStamp (s : State) (arrived frac : Nat) : Nat × Bool :=
  match (SMap.get s.time.edges [] (s.get R.fltGnssCfgPpsTci)).find? fun p => decide (p ≤ arrived) && decide (arrived ≤ p + 10 ^ 9) with
  | some p => (p + frac, false)
  | none => (arrived, true)

/-- An accepted sentence gives one direct sample (R243, R244). -/
def State.gnssSample (s : State) (o : Origin) (arrived frac : Nat) (vals : List Nat) : State :=
  let t := s.gnssStamp arrived frac
  ((s.inc R.cntGnssSent).when t.2 fun s => s.inc R.cntGnssNopps).deliver { origin := o, stamp := t.1, vals := vals, noPps := t.2 }

/-- A complete sentence (R243). -/
def State.sentence (s : State) (arrived : Nat) (text : List Byte) : State :=
  match sentenceBody text with
  | none => s.inc R.cntGnssBad
  | some body =>
    let fs := splitAtByte 44 body
    let f := fun n => fs.getD n []
    let kind := (f 0).drop 2
    let i := s.free
    let s1 := s.took 7
    if (f 0).length ≠ 5 then s
    else if kind = [71, 71, 65] then
      match utcFraction (f 1) (i + 6), ggaValues f i with
      | some fr, some v => s1.gnssSample .gga arrived fr v
      | _, _ => s.inc R.cntGnssBad
    else if kind = [82, 77, 67] then
      match utcFraction (f 1) (i + 6), rmcValues f i with
      | some fr, some v => s1.gnssSample .rmc arrived fr v
      | _, _ => s.inc R.cntGnssBad
    else s

/-- GNSS_SENTENCE (R243, R244). -/
def execGnssSentence (arrived : Nat) (text : List Byte) (s : State) : Host.Outcome State Fault Refusal :=
  .next (if s.awake && s.flag R.fltGnssCfgEn && !s.flag R.fltGnssCfgRaw then s.sentence arrived text else s)

/-- GNSS_BYTE (R245). -/
def execGnssByte (b : Byte) (s : State) : Host.Outcome State Fault Refusal :=
  .next (if s.awake && s.flag R.fltGnssCfgEn && s.flag R.fltGnssCfgRaw then
      if s.flt.gnss.length < 1024 then s.setFlt { s.flt with gnss := s.flt.gnss ++ [b] } else s.inc R.cntGnssRxovf
    else s)

/-- FLT_GNSS_RX as it reads: the oldest byte with VALID. -/
def State.gnssRx (s : State) : Nat :=
  match s.flt.gnss with
  | [] => 0
  | b :: _ => b.toNat + 256

/-- The oldest byte leaves the FIFO (R245). -/
def State.popGnss (s : State) : State := s.setFlt { s.flt with gnss := s.flt.gnss.tail }

/-! ### Coefficients (R260, R261) -/

/-- Whether an enabled channel uses the coefficient at address `a` (R260). -/
def State.coefUsed (s : State) (a : Nat) : Bool :=
  (List.range 32).any fun n => s.chanOn n &&
    (if a < 2048 then a / 64 == n && decide (a % 64 < s.get (R.fltChFirTaps n))
      else (a - 2048) / 512 == s.get (R.fltChRsBank n))

/-- FLT_COEF_ADDR moves on after an access. -/
def State.nextCoef (s : State) : State := s.add R.fltCoefAddrAddr 1

/-- A write to FLT_COEF_DATA (R260, R261). [DESIGN CHOICE, log entry 40] -/
def State.writeCoef (s : State) (v : Nat) : State :=
  let a := s.get R.fltCoefAddrAddr
  (if s.coefUsed a then s.fltRunWrite
    else s.setFlt { s.flt with coef := SMap.set s.flt.coef 0 a (v % 65536) }).nextCoef

end Sys2Proof.Machine
end

