-- ==== Sys2Proof/Machine/Time.lean ====
section
/-! DEFINITION. Device time, domains, slews and steps, PTP on the Ethernet MACs, time pulse outputs and capture inputs (R358–R384). -/

namespace Sys2Proof.Machine

/-- The time side replaced. -/
def State.setTime (s : State) (v : TimeState) : State := { s with time := v }

/-! ### Advancing (R21, R358, R361, R363) -/

/-- The increment of one cycle, in 2^−32 ns, held to the limits of R358. -/
def State.incr (s : State) (f : Fld) : Nat := s.getIn f 0x00000003FEF9DB23 0x00000004010624DD

/-- What a slew engine adds over the next `n` cycles, and the engine after them (R361): the last cycle absorbs the residue. -/
def Slew.run (w : Slew) (n : Nat) : Int × Slew :=
  if n < w.left then (w.per * n, { w with rem := w.rem - w.per * n, left := w.left - n }) else (w.rem, {})

/-- The cycles of the time clock pass: every counter moves on (R358, R363). [DEDUCED, log entry 96] -/
def State.advance (s : State) (n : Nat) : State :=
  let t := s.time
  if s.timeRuns then
    let d := t.slew.run n
    let a := t.slewA.run n
    let b := t.slewB.run n
    let dev := wrapTime (t.dev + (n * s.incr R.timIncrIncr : Nat) + d.1)
    let domA := wrapTime (t.domA + (n * s.incr (R.timDomIncrIncr 0) : Nat) + a.1)
    let domB := wrapTime (t.domB + (n * s.incr (R.timDomIncrIncr 1) : Nat) + b.1)
    s.setTime { t with dev := dev, followers := List.replicate 4 dev, domA := domA, domB := domB, slew := d.2, slewA := a.2, slewB := b.2, clk := t.clk + n }
  else s.setTime { t with clk := t.clk + n }

/-- A slew engine with a new remaining amount and interval, lengthened to |REM| µs where REM asks for it (R361); 250 cycles a µs. -/
def slewOver (rem : Int) (us : Nat) : Slew :=
  let left := max (us * 250) (ceilDiv (rem.natAbs * 250) (2 ^ 32))
  if rem = 0 then {} else { rem := rem, per := rem.tdiv left, left := left }

/-- A slew request added to an engine (R361). -/
def Slew.request (w : Slew) (amount : Int) (us : Nat) : Slew := slewOver (w.rem + amount) us

/-- The slew engine of device time (0), domain A (1) or domain B (2). -/
def State.slewOf (s : State) (k : Nat) : Slew :=
  if k = 0 then s.time.slew else if k = 1 then s.time.slewA else s.time.slewB

/-- A slew engine replaced. -/
def State.setSlew (s : State) (k : Nat) (w : Slew) : State :=
  if k = 0 then s.setTime { s.time with slew := w }
  else if k = 1 then s.setTime { s.time with slewA := w }
  else s.setTime { s.time with slewB := w }

/-- SLEW_INTERVAL_END (R361): the remaining cycles of engine `k` pass. -/
def execSlewIntervalEnd (k : Fin 3) (s : State) : Host.Outcome State Fault Refusal :=
  .next (if s.timeRuns then s.idleFrom (s.advance (s.slewOf k).left) else s)

/-! ### Time pulse outputs (R373–R375) -/

/-- Time pulse output `p`. -/
def State.tpo (s : State) (p : Nat) : Tpo := SMap.get s.time.tpo {} p

/-- Time pulse output replaced. -/
def State.setTpo (s : State) (p : Nat) (v : Tpo) : State :=
  s.setTime { s.time with tpo := SMap.set s.time.tpo {} p v }

/-- The output's pulses are placed against the present instant (R374). -/
def State.placeTpo (s : State) (p : Nat) : State :=
  let start := s.get (R.timTpoStartStart p) * 2 ^ 32
  let per := s.get (R.timTpoPeriodPeriod p) * 2 ^ 32
  let t := s.tpo p
  if per = 0 then
    if start < s.time.dev then (s.setTpo p { t with k := 0, armed := false }).setFlag (R.timTpoStatMissed p) true
    else s.setTpo p { t with k := 0, armed := true }
  else s.setTpo p { t with k := ceilDiv (s.time.dev - start) per, armed := true }

/-- A write to TIM_TPOp_CFG (R374, R375). [DEDUCED, log entry 94] -/
def State.writeTpoCfg (s : State) (p v : Nat) : State :=
  let was := s.flag (R.timTpoCfgEn p)
  let s1 := ((s.setFlag (R.timTpoCfgEn p) (bit v 0)).setFlag (R.timTpoCfgActiveHigh p) (bit v 1)).setFlag (R.timTpoCfgIrqEn p) (bit v 2)
  if !bit v 0 then s1.setTpo p {}
  else if was then s1
  else s1.placeTpo p

/-- TPO_ENABLE: a write to TIM_TPOp_CFG. -/
def execTpoEnable (p : Fin 4) (v : Word) (s : State) : Host.Outcome State Fault Refusal :=
  .next (s.bus (.write 0 false (R.timTpoCfgEn p).addr 4 v.toNat) fun s => s.writeTpoCfg p v.toNat)

/-- TPO_DISABLE: a write to TIM_TPOp_CFG. -/
def execTpoDisable (p : Fin 4) (v : Word) (s : State) : Host.Outcome State Fault Refusal :=
  .next (s.bus (.write 0 false (R.timTpoCfgEn p).addr 4 v.toNat) fun s => s.writeTpoCfg p v.toNat)

/-- The instant (ns) at which the next pulse begins. -/
def State.nextPulse (s : State) (p : Nat) : Nat := s.get (R.timTpoStartStart p) + (s.tpo p).k * s.get (R.timTpoPeriodPeriod p)

/-- TPO_EDGE (R373): the edge of output `p` whose instant device time has reached; the end of a pulse comes first. [DEDUCED, log entry 94] -/
def execTpoEdge (p : Fin 4) (s : State) : Host.Outcome State Fault Refusal :=
  .next (
    let t := s.tpo p
    let per := s.get (R.timTpoPeriodPeriod p)
    if !s.timeRuns || s.halted || !s.flag (R.timTpoCfgEn p) then s
    else if (match t.fall with | some e => s.reached e | none => false) then s.setTpo p { t with fall := none }
    else if t.armed && s.reached (s.nextPulse p) then
      (s.setTpo p { k := t.k + 1, armed := per != 0, fall := some (s.nextPulse p + s.get (R.timTpoWidthWidth p)) }).when
        (s.flag (R.timTpoCfgIrqEn p)) fun s => s.raise 0 (s.get R.timIrqVec)
    else s)

/-! ### Steps (R360, R362) -/

/-- Deferred writes and snapshots wait for the next boundary of the new time (R467, R519). -/
def State.redue (s : State) : State :=
  let l := s.deferred.map fun d => { d with due := match d.due with | .tick _ => Boundary.tick (nextTick s.time.dev) | .step _ => Boundary.step s.nextStep }
  { s with deferred := l, obs := { s.obs with snaps := s.obs.snaps.map fun x => (x.1, nextTick s.time.dev) } }

/-- What is timed outside the registers takes up the new time: the scans of the aging wheels and the encoders' microsecond. -/
def State.retime (s : State) : State :=
  let scan := (List.range 8).map fun e => (e, s.tick)
  let enc := s.flt.enc.map fun x => (x.1, { x.2 with us := s.now / 1000 })
  { s with cv := { s.cv with scan := scan.filter fun x => x.2 != 0 }, flt := { s.flt with enc := enc } }

/-- A kept pair moved by `d` ns. -/
def StampPair.shift (x : StampPair) (d : Int) : StampPair := { x with t := ((x.t : Int) + d).toNat }

/-- An estimator's pairs and its last fit keep their true time over a step of `d` ns, as the line does (R362, R379). [DESIGN CHOICE, log entry 57] -/
def Rebaser.shift (r : Rebaser) (d : Int) : Rebaser :=
  { bins := r.bins.filterMap fun b =>
      let k := (b.1 : Int) + floorDiv d 10000000
      if k < 0 then none else some (k.toNat, b.2.shift d)
    lastFit := ((r.lastFit : Int) + d).toNat }

/-- The pair that a first triple waits to commit, moved by `d` ns. -/
def FirstTriple.shift (f : FirstTriple) (d : Int) : FirstTriple := match f with | .pair x => .pair (x.shift d) | f => f

/-- Every port's estimation keeps its true time over a step of `d` ns. -/
def State.shiftPairs (s : State) (d : Int) : State :=
  s.each (List.range 8) fun s p =>
    let t := s.setPort p { s.port p with first := (s.port p).first.shift d }
    t.setRb p ((t.rb p).shift d)

/-- An instant of device time in ns moved by `d` ns. -/
def shiftNs (d : Int) (t : Nat) : Nat := ((t : Int) + d).toNat

/-- The waits and ramps of power control keep their true time over a step of `d` ns; millisecond `ms` is the present one. -/
def Power.shift (p : Power) (d : Int) (ms : Nat) : Power :=
  { p with opReady := shiftNs d p.opReady, hotSince := p.hotSince.map (shiftNs d), coolSince := p.coolSince.map (shiftNs d),
           phaseAt := p.phaseAt.map (shiftNs d), permit := p.permit.map (fun x => (x.1, x.2.1, shiftNs d x.2.2)),
           ms := ms, evalMs := none, actMs := p.actMs.map fun m => ((m : Int) + ms - p.ms).toNat }

/-- The retries and the retrain of a link keep their true time over a step of `d` ns. -/
def Link.shift (l : Link) (d : Int) : Link := { retries := l.retries.map (shiftNs d), retrain := l.retrain.map (shiftNs d) }

/-- Device time is stepped by `d` units of 2^−32 ns (R362). [DEDUCED, log entry 96] -/
def State.stepTime (s : State) (d : Int) : State :=
  let dev := wrapTime (s.time.dev + d)
  let s1 := s.setTime { s.time with dev := dev, followers := s.time.followers.map fun (f : Nat) => wrapTime ((f : Int) + d) }
  let s2 := s1.each (List.range 8) fun s p => s.set (R.ingPortRbOfsOfs p) (ofInt 64 (s.get (R.ingPortRbOfsOfs p) + floorDiv d (2 ^ 32)))
  let s3 := ((((s2.shiftPairs (floorDiv d (2 ^ 32))).retime.restartAll.redue).clearReflex 0).clearReflex 1)
  let s4 := s3.each ((List.range 4).filter fun p => s.flag (R.timTpoCfgEn p) && (s.tpo p).armed) fun s p => s.placeTpo p
  let s5 := (((s4.inc R.timCntStep).setFlag R.timStatusStepped true).ageAll)
  { s5 with
    ctl := { s5.ctl with staleMark := true, marked := s5.tick }
    fab := { s5.fab with kept := [] }
    err := { s5.err with link := s5.err.link.map fun x => (x.1, x.2.shift (floorDiv d (2 ^ 32))) }
    pwr := s5.pwr.shift (floorDiv d (2 ^ 32)) (s5.now / 1000000)
    reef := { s5.reef with idleAt := wrapTime (s.reef.idleAt + d), since := ((s.reef.since : Int) + floorDiv d (2 ^ 32)).toNat } }

/-- A number of ns in counter units. -/
def inUnits (ns : Int) : Int := ns * 2 ^ 32

/-- The domain that device time follows: 0 none, 1 A, 2 B (R364). -/
def State.following (s : State) : Nat := s.get R.timStatusFollowing

/-- A request of TIM_ADJ (R359, R360, R364). [DESIGN CHOICE, log entry 25] -/
def State.adjust (s : State) (amount : Int) : State :=
  if s.following != 0 then s.setFlag R.timStatusFollowWrite true
  else if s.flag R.timAdjCtlMode then s.setSlew 0 (s.time.slew.request (inUnits amount) (s.get R.timAdjCtlIntervalUs))
  else if s.stopped then s.stepTime (inUnits amount)
  else s.setFlag R.timStatusAdjRefused true

/-- A write of TIM_ADJ_HI by requester `rq`. [DESIGN CHOICE, log entry 34] -/
def State.writeAdj (s : State) (rq hi : Nat) : State :=
  let q := s.joinPair rq R.timAdjAmount.addr 0 hi
  q.1.adjust (toSigned 64 q.2)

/-- STEP: a write of TIM_ADJ_HI, in the mode that TIM_ADJ_CTL gives. -/
def execStep (hi : Word) (s : State) : Host.Outcome State Fault Refusal :=
  .next (s.bus (.write 0 false (R.timAdjAmount.addr + 4) 4 hi.toNat) fun s => s.writeAdj 0 hi.toNat)

/-- SLEW: a write of TIM_ADJ_HI, in the mode that TIM_ADJ_CTL gives. -/
def execSlew (hi : Word) (s : State) : Host.Outcome State Fault Refusal :=
  .next (s.bus (.write 0 false (R.timAdjAmount.addr + 4) 4 hi.toNat) fun s => s.writeAdj 0 hi.toNat)

/-- A write of TIM_INCR_HI (R358, R364). -/
def State.writeIncr (s : State) (rq hi : Nat) : State :=
  let q := s.joinPair rq R.timIncrIncr.addr (s.get R.timIncrIncr) hi
  if s.following != 0 then q.1.setFlag R.timStatusFollowWrite true else q.1.set R.timIncrIncr q.2

/-- TIM_INCR_WRITE. -/
def execTimIncrWrite (hi : Word) (s : State) : Host.Outcome State Fault Refusal :=
  .next (s.bus (.write 0 false (R.timIncrIncr.addr + 4) 4 hi.toNat) fun s => s.writeIncr 0 hi.toNat)

/-! ### Domains (R363–R366) -/

/-- The counter of domain `x`: A (0) or B (1). -/
def State.dom (s : State) (x : Nat) : Nat := if x = 0 then s.time.domA else s.time.domB

/-- The counter of domain `x` replaced. -/
def State.setDom (s : State) (x v : Nat) : State :=
  if x = 0 then s.setTime { s.time with domA := v } else s.setTime { s.time with domB := v }

/-- A write of TIM_DOMx_INCR_HI (R363, R364). -/
def State.writeDomIncr (s : State) (rq x hi : Nat) : State :=
  let q := s.joinPair rq (R.timDomIncrIncr x).addr (s.get (R.timDomIncrIncr x)) hi
  (q.1.set (R.timDomIncrIncr x) q.2).when (s.following == x + 1) fun s => s.set R.timIncrIncr q.2

/-- A request of TIM_DOMx_ADJ (R363), passed on to device time that follows the domain (R364). [DEDUCED, log entry 95] -/
def State.adjustDom (s : State) (x : Nat) (amount : Int) : State :=
  let d := inUnits amount
  let follows := s.following == x + 1
  if s.flag (R.timDomAdjCtlMode x) then
    let us := s.get (R.timDomAdjCtlIntervalUs x)
    (s.setSlew (x + 1) ((s.slewOf (x + 1)).request d us)).when follows fun s => s.setSlew 0 (s.time.slew.request d us)
  else
    (s.setDom x (wrapTime (s.dom x + d))).when follows fun s =>
      if s.stopped then s.stepTime d else s.setSlew 0 (s.time.slew.request d amount.natAbs)

/-- A write of TIM_DOMx_ADJ_HI. [DESIGN CHOICE, log entry 34] -/
def State.writeDomAdj (s : State) (rq x hi : Nat) : State :=
  let q := s.joinPair rq (R.timDomAdjAmount x).addr 0 hi
  q.1.adjustDom x (toSigned 64 q.2)

/-- DOMAIN_STEP: a write of TIM_DOMx_ADJ_HI, in the mode that TIM_DOMx_ADJ_CTL gives. -/
def execDomainStep (x : Fin 2) (hi : Word) (s : State) : Host.Outcome State Fault Refusal :=
  .next (s.bus (.write 0 false ((R.timDomAdjAmount x).addr + 4) 4 hi.toNat) fun s => s.writeDomAdj 0 x hi.toNat)

/-- DOMAIN_SLEW: a write of TIM_DOMx_ADJ_HI, in the mode that TIM_DOMx_ADJ_CTL gives. -/
def execDomainSlew (x : Fin 2) (hi : Word) (s : State) : Host.Outcome State Fault Refusal :=
  .next (s.bus (.write 0 false ((R.timDomAdjAmount x).addr + 4) 4 hi.toNat) fun s => s.writeDomAdj 0 x hi.toNat)

/-- A write to TIM_SEL (R365); DOM = 3 is reserved, and selects one of the three by a free value. [DESIGN CHOICE, log entry 89] -/
def State.writeSel (s : State) (v : Nat) : State :=
  if s.flag R.timStatusSwitchPending then s.setFlag R.timStatusSwitchRefused true
  else
    let dom := if bits v 0 2 = 3 then s.freeValue % 3 else bits v 0 2
    let s1 := (s.took (b2n (bits v 0 2 == 3))).setTime { s.time with switch := some (dom, bit v 4) }
    (s1.set R.timSwitchTickTick (effectiveTick s.time.dev)).setFlag R.timStatusSwitchPending true

/-- SWITCH_REQUEST. -/
def execSwitchRequest (v : Word) (s : State) : Host.Outcome State Fault Refusal :=
  .next (s.bus (.write 0 false R.timSelDom.addr 4 v.toNat) fun s => s.writeSel v.toNat)

/-- The switch takes effect (R366): the selection, the increment it brings, Δ and the counts. [DEDUCED, log entry 95] -/
def State.switchTo (s : State) (dom : Nat) (force : Bool) (d : Int) : State :=
  let s1 := ((s.set R.timStatusFollowing dom).set R.timSelDom dom).setFlag R.timSelForce force
  let s2 := s1.when (dom != 0) fun s => s.set R.timIncrIncr (s.get (R.timDomIncrIncr (dom - 1)))
  ((s2.setInt R.timSwitchDeltaDelta (floorDiv d (2 ^ 32))).setFlag R.timStatusSwitchDone true).inc R.cntSwitch

/-- DOMAIN_SWITCH (R366). -/
def execDomainSwitch (s : State) : Host.Outcome State Fault Refusal :=
  .next (match s.time.switch with
    | none => s
    | some (dom, force) =>
      if !s.timeRuns || !s.reached (s.get R.timSwitchTickTick * tickNs) then s
      else
        let d : Int := if dom = 0 then 0 else (s.dom (dom - 1) : Int) - s.time.dev
        let us := s.get R.timSwitchSlewSlewUs
        let s1 := (s.setTime { s.time with switch := none }).setFlag R.timStatusSwitchPending false
        if d.natAbs ≤ us * 2 ^ 32 then (s1.switchTo dom force d).setSlew 0 (slewOver d us)
        else if !force then s1.setFlag R.timStatusSwitchRefused true
        else if s.stopped then (s1.switchTo dom force d).stepTime d
        else (s1.switchTo dom force d).setSlew 0 (slewOver d 0))

/-! ### Capture inputs (R376–R378) -/

/-- The captures of input `c`, oldest first. -/
def State.captures (s : State) (c : Nat) : List Nat := SMap.get s.time.tci [] c

/-- The captures of input `c` replaced; STAT.COUNT follows. -/
def State.setCaptures (s : State) (c : Nat) (l : List Nat) : State :=
  (s.setTime { s.time with tci := SMap.set s.time.tci [] c l }).set (R.timTciStatCount c) l.length

/-- An edge stamped `t` (ns) on an enabled input: FIFO, the edges of the last 2 s, the PPS edge of an epoch clone (R244, R284, R376). [DESIGN CHOICE, log entry 93] -/
def State.capture (s : State) (c t : Nat) : State :=
  let l := s.captures c
  let s1 := if l.length < 16 then s.setCaptures c (l ++ [t])
    else ((s.setCaptures c (l.tail ++ [t])).inc R.cntTciOvf).setFlag (R.timTciStatOvf c) true
  let recent := t :: (SMap.get s.time.edges [] c).filter fun e => decide (s.now ≤ e + 2 * 10 ^ 9)
  let s2 := s1.setTime { s1.time with edges := SMap.set s1.time.edges [] c recent }
  let s3 := if s.get R.fltGnssCfgPpsTci = c then { s2 with ftu := { s2.ftu with pps := s2.ftu.pps ++ [t] } } else s2
  s3.when (s.flag (R.timTciCfgIrqEn c)) fun s => s.raise 0 (s.get R.timIrqVec)

/-- Whether input `c` takes an edge of this direction. -/
def State.takesEdge (s : State) (c : Nat) (rising : Bool) : Bool :=
  s.flag (R.timTciCfgEn c) && rising != s.flag (R.timTciCfgFalling c)

/-- Counter units that whole periods of the 32.768 kHz AON clock in `n` reference cycles stand for (R378, R382). [DEDUCED, log entry 124] -/
def aonUnits (n : Nat) : Nat := n * 4 * 32768 / 10 ^ 9 * (10 ^ 9 * 2 ^ 17)

/-- Device time in ns as the AON clock carries it on in REEF2 (R378). -/
def State.aonNow (s : State) : Nat := (s.time.dev + aonUnits (s.time.clk - s.reef.sinceClk)) / 2 ^ 32

/-- TCI_EDGE (R376, R378): the stamp lies within 4 ns of the edge, where exactly is a free value; in REEF2 it comes from the AON clock and shows at ready; the level behind the edge, held for `held` ns, must pass the glitch filter of R503. [DESIGN CHOICE, log entry 93] -/
def execTciEdge (c : Fin 4) (rising : Bool) (held : Nat) (s : State) : Host.Outcome State Fault Refusal :=
  .next (
    if !s.takesEdge c rising || !s.filterPasses R.mgtPad2Filt held then s
    else if s.timeRuns then ((s.took 1).capture c (s.now + s.freeValue % 9 - 4)).wake (.tci c)
    else if s.phase.reefOf = 2 then ({ s with reef := { s.reef with coarse := s.reef.coarse ++ [(c.val, s.aonNow)] } }).wake (.tci c)
    else s)

/-- A read of TIM_TCIc_CAP_LO by requester `rq` (R377): the oldest stamp leaves, its high half is latched. -/
def State.readCapLo (s : State) (rq c : Nat) : State × Nat :=
  let key := latchKey rq (R.timTciCapStamp c).addr
  match s.captures c with
  | [] => ({ s with latch := { s.latch with rd := SMap.put key 0 s.latch.rd } }, 0)
  | t :: l =>
    let s1 := s.setCaptures c l
    ({ s1 with latch := { s1.latch with rd := SMap.put key (BitVec.ofNat 32 (t / 2 ^ 32)) s1.latch.rd } }, t % 2 ^ 32)

/-! ### Ethernet frames (R367–R372) -/

/-- A big-endian number in `n` bytes of `b` from offset `ofs`. -/
def beAt (b : List Byte) (ofs n : Nat) : Nat := leNat (slice b ofs n).reverse

/-- `n` bytes of `v`, most significant first. -/
def beBytes (v n : Nat) : List Byte := (leBytes v n).reverse

/-- Offset of the EtherType after any VLAN tag. -/
def typeAt (b : List Byte) : Nat := if beAt b 12 2 = 0x8100 then 16 else 12

/-- Where a frame's UDP header stands: IPv4 or IPv6 without further headers. -/
def udpAt (b : List Byte) : Option Nat :=
  let t := typeAt b
  let ip := t + 2
  if beAt b t 2 = 0x0800 then
    if bits (beAt b ip 1) 4 4 = 4 ∧ beAt b (ip + 9) 1 = 17 ∧ bits (beAt b (ip + 6) 2) 0 13 = 0 then some (ip + 4 * bits (beAt b ip 1) 0 4) else none
  else if beAt b t 2 = 0x86DD then
    if beAt b (ip + 6) 1 = 17 then some (ip + 40) else none
  else none

/-- Where a frame's PTP message stands: under EtherType 0x88F7, or UDP to one of `ports` (R367). -/
def ptpAt (ports : List Nat) (b : List Byte) : Option Nat :=
  if beAt b (typeAt b) 2 = 0x88F7 then some (typeAt b + 2)
  else match udpAt b with
    | some u => if ports.contains (beAt b (u + 2) 2) then some (u + 8) else none
    | none => none

/-- Bit-serial step of a reflected CRC with polynomial `poly`. -/
def crcBits (poly : Nat) : Nat → Nat → Nat
  | 0, c => c
  | n + 1, c => crcBits poly n (if c % 2 = 1 then (c / 2) ^^^ poly else c / 2)

/-- A reflected 32-bit CRC of bytes, initial value and final inversion all ones. [PRESUMED, log entry 27] -/
def crc32 (poly : Nat) (b : List Byte) : Nat :=
  (b.foldl (fun c x => crcBits poly 8 (c ^^^ x.toNat)) (2 ^ 32 - 1)) ^^^ (2 ^ 32 - 1)

/-- The Ethernet frame check sequence polynomial, reflected. -/
def polyEthernet : Nat := 0xEDB88320

/-- The polynomial of CRC-32C, reflected. -/
def polyCastagnoli : Nat := 0x82F63B78

/-- The frame with its FCS. [PRESUMED, log entry 27] -/
def withFcs (b : List Byte) : List Byte := b ++ leBytes (crc32 polyEthernet b) 4

/-- A one's-complement 16-bit sum with its carries folded in. -/
def foldOnes (v : Nat) : Nat :=
  let a := v % 65536 + v / 65536
  let b := a % 65536 + a / 65536
  b % 65536 + b / 65536

/-- The 16-bit words of bytes, an odd last byte filled with 0. -/
def wordsSum : List Byte → Nat
  | [] => 0
  | [a] => a.toNat * 256
  | a :: b :: l => a.toNat * 256 + b.toNat + wordsSum l

/-- MAC `m`. -/
def State.mac (s : State) (m : Nat) : Mac := SMap.get s.time.mac {} m

/-- MAC replaced. -/
def State.setMac (s : State) (m : Nat) (v : Mac) : State := s.setTime { s.time with mac := SMap.set s.time.mac {} m v }

/-- A counter by DOM of R369: 0 device time, 1 domain A, 2 domain B. -/
def State.counter (s : State) (dom : Nat) : Nat := if dom = 1 then s.time.domA else if dom = 2 then s.time.domB else s.time.dev

/-- DOM of a frame by its domainNumber (R368). -/
def State.domOf (s : State) (m number : Nat) : Nat :=
  if number = s.get (R.timMacCfgDomnumA m) then 1 else if number = s.get (R.timMacCfgDomnumB m) then 2 else 0

/-- A PTP_FRAME record (R369), to the ring that RX_DEST names. -/
def State.ptpRecord (s : State) (m : Nat) (tx : Bool) (dom stamp slot : Nat) (frame : List Byte) : State :=
  let flags := m % 2 + 2 * b2n tx + 4 * dom
  let pl := leBytes (stamp / 2 ^ 32 % 2 ^ 64) 8 ++ leBytes (stamp % 2 ^ 32 / 65536) 2 ++ leBytes flags 1 ++ [0]
    ++ leBytes frame.length 2 ++ leBytes slot 2 ++ frame
  s.when (s.flag (R.timMacRxDestEn m)) fun s => s.hand (s.get (R.timMacRxDestFunc m)) (s.get (R.timMacRxDestRing m)) { type := 0x09, payload := pl }

/-- The longest frame a MAC receives, FCS excluded (R367): 1,518 bytes with FCS, and one VLAN tag. -/
def maxFrame (b : List Byte) : Nat := if beAt b 12 2 = 0x8100 then 1518 else 1514

/-- PTP_FRAME: MAC `m` receives a frame, given without its FCS (R367–R369). -/
def execPtpFrame (m : Fin 2) (frame : List Byte) (s : State) : Host.Outcome State Fault Refusal :=
  .next (if !s.awake || !s.flag (R.timMacCfgEn m) then s else
    match ptpAt [319, 320] frame with
    | some o =>
      if frame.length ≤ maxFrame frame then
        let dom := s.domOf m (beAt frame (o + 4) 1)
        let stamp := wrapTime ((s.counter dom : Int) - inUnits (s.get (R.timMacLatRxNs m)))
        (s.inc R.cntPtpRx).ptpRecord m false dom stamp 0 frame
      else s.inc R.cntEthOther
    | none => s.inc R.cntEthOther)

/-- Slots of MAC `m`'s transmit ring (R370). -/
def State.txSize (s : State) (m : Nat) : Nat := 2 ^ s.get (R.timMacTxrCfgSizeLog2 m)

/-- A write to TIM_MACm_TX_DB (R370): a tail outside the ring is ignored. [DESIGN CHOICE, log entry 90] -/
def State.writeTxDb (s : State) (m v : Nat) : State :=
  let tail := bits v 0 12
  if s.flag (R.timMacTxrCfgEn m) && decide (tail < s.txSize m) then s.setMac m { s.mac m with tail := tail } else s

/-- MAC_TX_DOORBELL. -/
def execMacTxDoorbell (m : Fin 2) (v : Word) (s : State) : Host.Outcome State Fault Refusal :=
  .next (s.bus (.write 0 false (R.timMacTxDbTail m).addr 4 v.toNat) fun s => s.writeTxDb m v.toNat)

/-- A write to TIM_MACm_TXR_CFG: the size is fixed while the ring is enabled (R295), and enabling starts it empty. [DESIGN CHOICE, log entry 37] -/
def State.writeTxrCfg (s : State) (m v : Nat) : State :=
  let size := bits v 0 4
  let on := bit v 31
  if decide (size < 4) || decide (12 < size) || (s.flag (R.timMacTxrCfgEn m) && on) then s.setFlag (R.fnStatusRingErr 0) true
  else
    let s1 := (s.set (R.timMacTxrCfgSizeLog2 m) size).setFlag (R.timMacTxrCfgEn m) on
    s1.when on fun s => (s.set (R.timMacTxHeadHead m) 0).setMac m { s.mac m with tail := 0 }

/-- messageType of the PTP message at `o`. -/
def ptpType (b : List Byte) (o : Nat) : Nat := bits (beAt b o 1) 0 4

/-- A signed amount in 2^−16 ns added to the correctionField of the message at `o`. -/
def addCorrection (b : List Byte) (o : Nat) (d : Int) : List Byte :=
  patch b (o + 8) (beBytes (ofInt 64 (beAt b (o + 8) 8 + d)) 8)

/-- The message at `o` changed for departure at counter value `t3` (R371); none where it is neither Sync nor Pdelay_Resp. -/
def oneStep (b : List Byte) (o t3 tIn tSub : Nat) : Option (List Byte) :=
  let ns : Nat := t3 / 2 ^ 32
  let sub : Nat := t3 % 2 ^ 32 / 65536
  if ptpType b o = 0 then
    some (addCorrection (patch b (o + 34) (beBytes (ns / 10 ^ 9) 6 ++ beBytes (ns % 10 ^ 9) 4)) o sub)
  else if ptpType b o = 3 then some (addCorrection b o (((ns : Int) - tIn) * 65536 + sub - tSub))
  else none

/-- The UDP checksum of a changed frame corrected for the change (R371): zero over IPv4 stays 0. -/
def fixChecksum (old new : List Byte) : List Byte :=
  match udpAt old with
  | none => new
  | some u =>
    let c := beAt old (u + 6) 2
    if c = 0 ∧ beAt old (typeAt old) 2 = 0x0800 then new
    else
      let changed := 65535 * ((old.length + 1) / 2) - wordsSum (old.drop (u + 8))
      let r := 65535 - foldOnes (65535 - c + changed + wordsSum (new.drop (u + 8)))
      patch new (u + 6) (beBytes (if r = 0 then 65535 else r) 2)

/-- A slot is sent (R370, R371). [DESIGN CHOICE, log entry 89; DEDUCED, log entry 91] -/
def State.sendSlot (s : State) (m : Nat) (slot : List Byte) : State :=
  let head := s.get (R.timMacTxHeadHead m)
  let frame := slice slot 64 (bits (leAt slot 0 2) 0 11)
  let ctl := leAt slot 2 1
  let dom := if bits ctl 2 2 = 3 then s.freeValue % 3 else bits ctl 2 2
  let s0 := s.took (b2n (bits ctl 2 2 == 3))
  let t3 := wrapTime (s.counter dom + inUnits (s.get (R.timMacLatTxNs m)))
  let changed := if bit ctl 0 then (ptpAt [319] frame).bind fun o => (oneStep frame o t3 (leAt slot 8 8) (leAt slot 16 2)) else none
  let out := match changed with | some b => fixChecksum frame b | none => frame
  let s1 := s0.when (bit ctl 0 && changed.isNone) fun s => s.inc R.cntPtpTxbad
  let s2 := (s1.setMac m { s1.mac m with sent := (s1.mac m).sent ++ [withFcs out] }).set (R.timMacTxHeadHead m) ((head + 1) % s.txSize m)
  let s3 := s2.when (ptpAt [319, 320] frame).isSome fun s => s.inc R.cntPtpTx
  s3.when (bit ctl 1) fun s => s.ptpRecord m true dom t3 head []

/-- TRANSMIT_SLOT: MAC `m` sends the slot at its head, read as `slot`. -/
def execTransmitSlot (m : Fin 2) (slot : List Byte) (s : State) : Host.Outcome State Fault Refusal :=
  .next (if s.awake && s.flag (R.timMacCfgEn m) && s.flag (R.timMacTxrCfgEn m) && s.get (R.timMacTxHeadHead m) != (s.mac m).tail then
      s.sendSlot m slot
    else s)

/-- The header template of MAC `m`. -/
def State.template (s : State) (m : Nat) : List Byte :=
  ((List.range 16).flatMap fun i => leBytes (s.get (R.timMacTmplBytes m i)) 4).take (s.getIn (R.timMacExpHdrLen m) 42 62)

/-- The header filled in for a payload (R372): lengths, the IPv4 header checksum, the UDP checksum over its pseudo-header. -/
def fillHeader (h payload : List Byte) : List Byte :=
  let ip := typeAt h + 2
  let v4 := beAt h (typeAt h) 2 == 0x0800
  let u := h.length - 8
  let udpLen := 8 + payload.length
  let h1 := patch (patch h (u + 4) (beBytes udpLen 2)) (u + 6) [0, 0]
  let h2 := if v4 then patch (patch h1 (ip + 2) (beBytes (u - ip + udpLen) 2)) (ip + 10) [0, 0] else patch h1 (ip + 4) (beBytes (u - ip - 40 + udpLen) 2)
  let h3 := if v4 then patch h2 (ip + 10) (beBytes (65535 - foldOnes (wordsSum (slice h2 ip (u - ip)))) 2) else h2
  let pseudo := (if v4 then slice h3 (ip + 12) 8 else slice h3 (ip + 8) 32)
  let c := 65535 - foldOnes (wordsSum pseudo + 17 + udpLen + wordsSum (h3.drop u) + wordsSum payload)
  patch h3 (u + 6) (beBytes (if c = 0 then 65535 else c) 2)

/-- The payload of a datagram (R372): the record's header and fixed part with N_DET 0, and the tracks that fit; GEN and SEQ are not yet known there, so they are free. The second part says whether tracks are left out. [DESIGN CHOICE, log entry 92] -/
def exportPayload (r : Rec) (room gen seq : Nat) : List Byte × Bool :=
  let nTrack := leAt r.payload 20 2
  let nDet := leAt r.payload 22 2
  let fit := min nTrack ((room - 320) / 64)
  let head := leBytes (r.type + 256 * (gen % 2) + 512 * b2n r.poison + 1024 * b2n r.error + 2 ^ 16 * (1 + r.payload.length / 8) + 2 ^ 32 * (seq % 2 ^ 32)) 8
  let fixed := patch (r.payload.take 312) 20 (leBytes fit 2 ++ [0, 0])
  (head ++ fixed ++ slice r.payload (312 + 32 * nDet) (64 * fit), decide (fit < nTrack))

/-- EXPORT_DATAGRAM (R372): the oldest record waiting for MAC `m` is sent; whether it finds the transmit queue full is free. [DESIGN CHOICE, log entry 92] -/
def execExportDatagram (m : Fin 2) (s : State) : Host.Outcome State Fault Refusal :=
  .next (match (s.mac m).exports with
    | [] => s
    | r :: l =>
      if !s.awake then s else
      let s1 := (s.took 3).setMac m { s.mac m with exports := l }
      if !s.flag (R.timMacCfgEn m) || s.freeValue % 2 == 1 then s1.inc R.cntExpDrop
      else
        let h := s.template m
        let p := exportPayload r (s.getIn (R.timMacExpMtu m) 576 9000 - (h.length - (typeAt h + 2))) (Config.free (s.free + 1)) (Config.free (s.free + 2))
        let s2 := (s1.setMac m { s1.mac m with sent := (s1.mac m).sent ++ [withFcs (fillHeader h p.1 ++ p.1)] }).inc R.cntExpTx
        s2.when p.2 fun s => s.inc R.cntExpTrunc)

end Sys2Proof.Machine
end

