-- ==== Sys2Proof/Machine/Image.lean ====
section
/-! DEFINITION. Configuration images: the checks of LOAD_SET and what a loaded set holds (R135, R155, R159–R176, R187, R192–R201, R340–R345). -/

namespace Sys2Proof.Machine

/-- The code of the first fault that holds. -/
def firstFault : List (Bool × Nat) → Option Nat
  | [] => none
  | (b, c) :: l => if b then some c else firstFault l

/-- BAD_DESC with a reason and the index it names (R307). -/
def badAt (reason index : Nat) : Done := { status := .badDesc, reason := reason, result := index }

/-! ### The header (R340) -/

/-- An offset of the header: a multiple of 64 inside the image. -/
def offsetOk (total o : Nat) : Bool := o % 64 == 0 && decide (o < total)

/-- The CRC of an image, its CRC field taken as 0. -/
def imageCrc (img : List Byte) : Nat := crc32 polyCastagnoli (patch img 60 [0, 0, 0, 0])

/-- Whether an image of `len` bytes keeps the header rules and its CRC (R340). [DEDUCED, log entry 61] -/
def headerOk (img : List Byte) (len : Nat) : Bool :=
  let nLayer := bits (leAt img 16 2) 0 10
  let nDpp := bits (leAt img 18 1) 0 4
  leAt img 0 4 == 0x4D485345 && leAt img 4 2 == 1 && leAt img 6 2 == 64 && leAt img 12 4 == len && img.length == len
    && decide (1 ≤ nLayer) && decide (nLayer ≤ 512) && decide (nDpp ≤ 8) && bits (leAt img 19 1) 0 2 != 0
    && ([20, 24, 28, 32, 36].all fun o => offsetOk len (leAt img o 4)) && leAt img 40 20 == 0 && imageCrc img == leAt img 60 4

/-- The layer descriptors, in image order. -/
def imageLayers (img : List Byte) : List LayerSt :=
  (List.range (bits (leAt img 16 2) 0 10)).map fun i => { desc := slice img (leAt img 20 4 + 64 * i) 64 }

/-- The DPP descriptors, in image order (R187). -/
def imageDpps (img : List Byte) : List DppDesc :=
  (List.range (bits (leAt img 18 1) 0 4)).map fun i =>
    let d := slice img (leAt img 24 4 + 64 * i) 64
    let at' := leAt d 48 4
    { desc := d, anchors := (List.range (bits (leAt d 2 1) 0 4 + 1)).map fun a => (leAt img (at' + 8 * a) 4, leAt img (at' + 8 * a + 4) 4) }

/-! ### Layer checks (R162) -/

/-- The earlier layer with an INDEX. -/
def byIndex (prev : List LayerSt) (i : Nat) : Option LayerSt := prev.find? fun p => p.index == i

/-- The producers of a layer, in edge order. -/
def LayerSt.producers (l : LayerSt) (prev : List LayerSt) : List LayerSt := l.edgeIndexes.filterMap (byIndex prev)

/-- Channels of an output plane. -/
def LayerSt.shape (l : LayerSt) : Nat × Nat × Nat := (l.outW, l.outH, l.outC)

/-- The number of edges of R160. -/
def LayerSt.edgesOk (l : LayerSt) : Bool :=
  let n := l.edgeIndexes.length
  if l.kind = kCanvas then n == 0 else if l.kind = kAdd then n == 2
  else if l.kind = kConcat then decide (2 ≤ n) && decide (n ≤ 4) else n == 1

/-- The output channel count that R160 gives. -/
def LayerSt.wantC (l : LayerSt) (ps : List LayerSt) : Nat :=
  if l.kind = kConv ∨ l.kind = kFc then l.outC
  else if l.kind = kConcat then (ps.map (·.outC)).sum
  else if l.kind = kCanvas then l.canvasSel.length
  else l.inC

/-- Whether every reserved bit of a descriptor is 0 (R159). [DEDUCED, log entry 61] -/
def LayerSt.reservedOk (l : LayerSt) : Bool :=
  l.field 0 2 9 7 == 0 && l.field 3 1 6 2 == 0 && l.field 5 1 7 1 == 0 && l.field 6 1 7 1 == 0 && l.field 7 1 5 3 == 0
    && l.field 20 1 3 1 == 0 && l.field 20 1 7 1 == 0 && leAt l.desc 56 8 == 0
    && ((List.range 4).all fun i => l.field (28 + 2 * i) 2 9 6 == 0)
    && (l.kind != kCanvas || (List.range 8).all fun c => l.field (48 + c) 1 1 6 == 0)

/-- STRUCTURE (R162). -/
def LayerSt.structureBad (l : LayerSt) (prev ps : List LayerSt) : Bool :=
  let before := match prev.getLast? with | some p => decide (l.index ≤ p.index) | none => false
  let shapes := match ps with
    | [] => true
    | p :: rest =>
      (l.kind != kAdd || rest.all fun r => r.shape == p.shape)
        && (l.kind != kConcat || rest.all fun r => r.outW == p.outW && r.outH == p.outH)
        && l.inW == p.outW && l.inH == p.outH && (l.kind == kConcat || l.inC == p.outC)
  let groups := l.kind == kConv && (l.groups == 0 || l.inC % l.groups != 0 || l.outC % l.groups != 0)
  let units := l.map == 3 || decide (71 < l.unit) || (l.map == 2) != decide (64 ≤ l.unit)
  let fmts := [l.field 4 1 0 4, l.field 4 1 4 4, l.field 5 1 0 4].any fun c => (fmtOfCode c).isNone
  l.kind == 0 || decide (10 < l.kind) || before || !l.edgesOk || (l.edgeIndexes.any fun i => decide (l.index ≤ i) || (byIndex prev i).isNone)
    || !shapes || l.outC != l.wantC ps || groups || units || fmts || !l.reservedOk

/-- Whether a number lies in 1 to `hi`. -/
def oneTo (hi v : Nat) : Bool := decide (1 ≤ v) && decide (v ≤ hi)

/-- GEOM_RANGE (R163). -/
def LayerSt.rangeBad (l : LayerSt) : Bool :=
  let dims := [l.inW, l.inH, l.outC] ++ (if l.kind = kConcat then [] else [l.inC])
  let km := if l.kind = kConv then 15 else 8
  let sm := if l.kind = kConv then 16 else 8
  let dm := if l.kind = kConv then 8 else 1
  !(dims.all (oneTo 4096)) || (l.kind == kConv && !oneTo 4096 l.groups) || (l.map == 1 && decide (4 < l.field 5 1 4 3))
    || (l.windowed && !(([l.kh, l.kw].all (oneTo km)) && ([l.sh, l.sw].all (oneTo sm)) && ([l.dh, l.dw].all (oneTo dm)) && decide (l.padMode ≤ 2)))

/-- Whether a format pair or output format breaks FORMAT_MIX (R110, R118, R123, R160). The pair of weight and input formats is checked for the kinds that have weights, and a CANVAS_IN layer, which has no input value, is free in FMT_IN. [DESIGN CHOICE, log entry 158] -/
def LayerSt.mixBad (l : LayerSt) (ps : List LayerSt) : Bool :=
  let fp8 := fun (f : Fmt) => f == .e4m3 || f == .e5m2
  let weighted := l.kind == kConv || l.kind == kFc || l.kind == kAdd
  let copies := l.kind == kMaxpool || l.kind == kConcat || l.kind == kUpsample
  (weighted && l.fmtW != l.fmtIn && !(fp8 l.fmtW && fp8 l.fmtIn)) || (l.kind != kCanvas && l.fmtIn.isInt != l.fmtOut.isInt)
    || (copies && l.fmtOut != l.fmtIn) || ps.any fun p => p.fmtOut != l.fmtIn

/-- The entries of the parameter block (R161). -/
def LayerSt.paramCount (l : LayerSt) : Nat :=
  if l.kind = kAvgpool then 64 else if l.linear || l.kind == kAct || l.kind == kRequant then l.outC else 0

/-- Bytes of the table block (R161). -/
def LayerSt.tableLen (l : LayerSt) : Nat :=
  if l.kind = kCanvas then 128
  else if l.kind = kRequant ∨ !(l.linear || l.kind == kAct) then 0
  else match l.fmtOut with
    | .int4 | .int8 => 256
    | .int16 => 1024
    | _ => 2056

/-- BIAS_RANGE (R117, R118, R161); the BIAS of an AVGPOOL entry is its 8 bytes. [DESIGN CHOICE, log entry 158] -/
def LayerSt.biasBad (l : LayerSt) : Bool :=
  if l.kind = kAvgpool then (List.range 64).any fun c => l.bias c != 0
  else l.fmtIn.isInt && (List.range l.paramCount).any fun c =>
    let b := toSigned 64 (l.bias c)
    decide (b < -(2 ^ l.fmtIn.biasBits : Nat)) || decide ((2 ^ l.fmtIn.biasBits : Nat) ≤ b)

/-- LUT_RANGE (R118, R120). -/
def LayerSt.lutBad (l : LayerSt) : Bool :=
  l.fmtOut == .int4 && l.tableLen == 256 && (List.range 256).any fun i =>
    let v := toSigned 8 (leAt l.table i 1)
    decide (v < -8) || decide (7 < v)

/-- Whether a format is one of a Hem engine (R108). -/
def hemFmt (f : Fmt) : Bool := f == .int8 || f == .int16 || f == .fp16

/-- HEM_FORMAT (R118, R175). -/
def LayerSt.hemBad (l : LayerSt) : Bool :=
  if l.kind = kCanvas then !hemFmt l.fmtOut
  else l.hem && (!hemFmt l.fmtIn || ((l.kind == kConv || l.kind == kFc || l.kind == kAdd) && !hemFmt l.fmtW))

/-- CANVAS_SHAPE against the present geometry (R162, R176). -/
def State.canvasBad (s : State) (l : LayerSt) : Bool :=
  l.kind == kCanvas && (l.inW != s.width l.port || l.inH != s.height l.port || l.canvasSel.isEmpty)

/-- The reason of the first check that a layer fails (R162); 0 stands for GEOM_EMPTY. [DESIGN CHOICE, log entry 62] -/
def State.layerFault (s : State) (prev : List LayerSt) (l : LayerSt) : Option Nat :=
  let ps := l.producers prev
  firstFault
    [(l.structureBad prev ps, 0x16), (l.rangeBad, 0x17), (s.canvasBad l, 0x1B), (l.outShape.isNone, 0), (l.mixBad ps, 0x13),
     (l.fmtIn.isInt && decide (l.fmtIn.depthMax < l.depth), 0x10), (l.biasBad, 0x11), (l.lutBad, 0x12), (l.hemBad, 0x14),
     ((l.hem && !((l.kind != kConcat && decide (l.inC ≤ 8)) || decide (l.outC ≤ 8) || l.kind == kCanvas)) || (l.kind == kCanvas && !l.hem), 0x18),
     (l.hem && l.gauzeEl, 0x15), (l.map == 1 && !(l.kind == kConv && decide (1 < l.groups) && decide (l.inC / l.groups ≤ 16)), 0x19)]

/-- A layer with its blocks read from the image, its shape and its edges. -/
def LayerSt.resolve (l : LayerSt) (img : List Byte) (prev : List LayerSt) : LayerSt :=
  let sh := l.outShape.getD (0, 0)
  let l1 := { l with params := Machine.slice img l.paramOfs (16 * l.paramCount), table := Machine.slice img l.tableOfs l.tableLen, outW := sh.1, outH := sh.2 }
  let edges := l.edgeIndexes.map fun i => ({ producer := (prev.findIdx? fun p => p.index == i).getD 0 } : EdgeSt)
  { l1 with weights := (List.range l.weightCount).map fun i => Config.weightCode img l.weightOfs l.fmtW.width i, edges := edges }

/-- The layers checked one after another: the first fault, or the resolved layers (R162). [DESIGN CHOICE, log entry 62] -/
def State.checkLayers (s : State) (img : List Byte) : List LayerSt → List LayerSt → Except Done (List LayerSt)
  | prev, [] => .ok prev
  | prev, l :: ls =>
    let l1 := l.resolve img prev
    match s.layerFault prev l1 with
    | some 0 => .error { status := .geomEmpty, result := l.index }
    | some r => .error (badAt r l.index)
    | none => s.checkLayers img (prev ++ [l1]) ls

/-! ### DPP checks (R187) -/

/-- Whether a DPP descriptor breaks R187; `ports` are those of earlier descriptors. -/
def dppBad (ls : List LayerSt) (ports : List Nat) (d : DppDesc) : Bool :=
  let b := d.desc
  let center := bit (leAt b 0 1) 3
  let nc := bits (leAt b 1 1) 0 6 + 1
  let na := bits (leAt b 2 1) 0 4 + 1
  let gw := leAt b 14 1 + 1
  let gh := leAt b 15 1 + 1
  match byIndex ls (bits (leAt b 6 2) 0 9), byIndex ls (bits (leAt b 8 2) 0 9) with
  | some sl, some bl =>
    (center && na != 1) || ports.contains (bits (leAt b 0 1) 0 3) || sl.die != bl.die
      || sl.outW != gw || sl.outH != gh || bl.outW != gw || bl.outH != gh
      || decide (sl.outC < leAt b 10 2 + (if center then nc else na * nc)) || decide (bl.outC < leAt b 12 2 + (if center then 4 else 4 * na))
  | _, _ => true

/-- The position of the first DPP descriptor that breaks R187. -/
def dppFault (ls : List LayerSt) : List Nat → Nat → List DppDesc → Option Nat
  | _, _, [] => none
  | ports, i, d :: ds => if dppBad ls ports d then some i else dppFault ls (ports ++ [bits (leAt d.desc 0 1) 0 3]) (i + 1) ds

/-! ### The fabric section (R192–R201) -/

/-- A class entry at an offset of the image (R192). -/
def classAt (img : List Byte) (o : Nat) : ClassEntry :=
  let lo := leAt img (o + 8) 4
  { theta := toSigned 24 (leAt img o 3), reset := bits (leAt img (o + 4) 1) 0 2, graded := bit (leAt img (o + 4) 1) 2,
    fix := toSigned 8 (leAt img (o + 5) 1), shift := bits (leAt img (o + 6) 1) 0 4,
    leak := (List.range 256).map fun i => leAt img (lo + 2 * i) 2, vInit := toSigned 24 (leAt img (o + 12) 3) }

/-- Whether a class entry breaks a range of R192. -/
def ClassEntry.bad (e : ClassEntry) : Bool :=
  decide (e.theta < 1) || e.reset == 3 || e.fix == -128 || e.leak.any fun v => decide (0x8000 < v)

/-- A route entry at an offset of the image (R197). -/
def routeAt (img : List Byte) (o : Nat) : Route :=
  { mask := leAt img o 8, outIndex := bits (leAt img (o + 8) 2) 0 13, outEn := bit (leAt img (o + 8) 2) 15,
    group := bits (leAt img (o + 10) 1) 0 6, groupEn := bit (leAt img (o + 10) 1) 7,
    sector := bits (leAt img (o + 11) 1) 0 5, loomEn := bit (leAt img (o + 11) 1) 7 }

/-- An input map at an offset of the image (R195). -/
def mapAt (img : List Byte) (o : Nat) : InputMap :=
  let c := leAt img (o + 4) 1
  { base := bits (leAt img o 4) 0 23, en := bit (leAt img o 4) 31, shiftX := bits c 0 2, shiftY := bits c 2 2, split := bit c 4,
    posEn := bit c 5, negEn := bit c 6, payPos := toSigned 8 (leAt img (o + 5) 1), payNeg := toSigned 8 (leAt img (o + 6) 1) }

/-- The source addresses of an enabled map for a sensor of the given size: first, and one after the last (R195). -/
def InputMap.span (m : InputMap) (w h : Nat) : Nat × Nat :=
  (m.base, m.base + ceilDiv h (2 ^ m.shiftY) * ceilDiv w (2 ^ m.shiftX) * (1 + b2n m.split))

/-- N_c of a core in an image (R193). -/
def neuronsOf (img : List Byte) (c : Nat) : Nat := min 131072 (Config.fabCount img c)

/-- The first-level entries of a core in an image. -/
def firstOf (img : List Byte) (c : Nat) : List Nat := (List.range 64).map fun i => leAt img (Config.fabFirstAt img c + 8 * i) 8

/-- Second-level entries that the first level of a core reaches. -/
def secondLen (first : List Nat) : Nat := (first.map fun e => if bits e 37 17 = 0 then 0 else bits e 0 20 + bits e 37 17).foldl max 0

/-- The second-level entries of a core in an image. -/
def secondOf (img : List Byte) (c : Nat) : List Nat :=
  (List.range (secondLen (firstOf img c))).map fun i => leAt img (Config.fabSecondAt img c + 4 * i) 4

/-- The synapse words of a core that an index entry names (R199). -/
def namedSyn (img : List Byte) (c : Nat) : List Nat :=
  (firstOf img c).flatMap fun e => (List.range (bits e 37 17)).flatMap fun i =>
    let s := leAt img (Config.fabSecondAt img c + 4 * (bits e 0 20 + i)) 4
    (List.range (bits s 20 12)).map fun k => leAt img (Config.fabSynAt img c + 4 * (bits s 0 20 + k)) 4

/-- Synapse words that the second level of a core reaches. -/
def synLen (second : List Nat) : Nat := (second.map fun e => if bits e 20 12 = 0 then 0 else bits e 0 20 + bits e 20 12).foldl max 0

/-- The synapse words of a core in an image. -/
def synOf (img : List Byte) (c : Nat) : List Nat :=
  (List.range (synLen (secondOf img c))).map fun i => leAt img (Config.fabSynAt img c + 4 * i) 4

/-- The input maps of an image with the sensor sizes in force: port, map, route offset, span. -/
def State.imageMaps (s : State) (img : List Byte) : List (Nat × InputMap × Nat × Nat × Nat) :=
  (List.range 8).filterMap fun p =>
    let o := Config.fabMapAt img + 16 * p
    let m := mapAt img o
    if m.en then some (p, m, leAt img (o + 8) 4, m.span (s.width p) (s.height p)) else none

/-- The first core with a class entry out of range (R192). -/
def classFault (img : List Byte) : Option Nat :=
  (List.range 64).find? fun c => (List.range 16).any fun k =>
    let o := Config.fabClassAt img c + 16 * k
    (classAt img o).bad || leAt img (o + 3) 1 != 0

/-- The first core one of whose neurons an input map's addresses name (R196). -/
def State.inputOnNeuron (s : State) (img : List Byte) : Option Nat :=
  (List.range 64).find? fun c => (s.imageMaps img).any fun m =>
    decide (m.2.2.2.1 < c * 2 ^ 17 + neuronsOf img c) && decide (c * 2 ^ 17 < m.2.2.2.2) && decide (0 < neuronsOf img c)

/-- The first map that reaches beyond 2^23 or overlaps an earlier one (R196). -/
def State.mapFault (s : State) (img : List Byte) : Option Nat :=
  let ms := s.imageMaps img
  ((ms.zipIdx.find? fun m => decide (2 ^ 23 < m.1.2.2.2.2) || (ms.take m.2).any fun e =>
    decide (e.2.2.2.1 < m.1.2.2.2.2) && decide (m.1.2.2.2.1 < e.2.2.2.2)).map fun m => m.1.1)

/-- The first core with a synapse on a context that holds no neuron (R196). -/
def synapseFault (img : List Byte) : Option Nat :=
  (List.range 64).find? fun c => (namedSyn img c).any fun w => decide (neuronsOf img c ≤ bits w 0 17)

/-- What the fabric section is refused for (R192, R196). [DESIGN CHOICE, log entry 63] -/
def State.fabricFault (s : State) (img : List Byte) : Option Done :=
  match classFault img, s.mapFault img, s.inputOnNeuron img, synapseFault img with
  | some c, _, _, _ => some (badAt 0x1D c)
  | _, some p, _, _ => some (badAt 0x1C (64 + p))
  | _, _, some c, _ => some (badAt 0x1C c)
  | _, _, _, some c => some (badAt 0x1C c)
  | _, _, _, _ => none

/-- Keyed values of a list, from key `k` up. -/
def keyed {α : Type} (k : Nat) (l : List α) : SMap α := l.zipIdx.map fun x => (k + x.2, x.1)

/-- The fabric tables of an image (R192–R199), contexts not yet initialised. -/
def State.imageFabric (s : State) (img : List Byte) : FabSet :=
  let cores := List.range 64
  let own := cores.flatMap fun c => (List.range (neuronsOf img c)).map fun i => (c * 2 ^ 17 + i, routeAt img (Config.fabNeuron img c i).2)
  let inputs := (s.imageMaps img).flatMap fun m => (List.range (m.2.2.2.2 - m.2.2.2.1)).map fun k => (m.2.2.2.1 + k, routeAt img (m.2.2.1 + 16 * k))
  { classes := cores.flatMap fun c => keyed (c * 16) ((List.range 16).map fun k => classAt img (Config.fabClassAt img c + 16 * k)),
    count := cores.map fun c => (c, neuronsOf img c),
    maps := (s.imageMaps img).map fun m => (m.1, m.2.1),
    routes := (own ++ inputs).foldl (fun m r => SMap.put r.1 r.2 m) [],
    first := cores.flatMap fun c => keyed (c * 64) (firstOf img c),
    second := cores.flatMap fun c => keyed (c * 2 ^ 20) (secondOf img c),
    syn := cores.flatMap fun c => keyed (c * 2 ^ 20) (synOf img c) }

/-- Bytes of core memory that a set's fabric part takes on a core (R201). -/
def FabSet.bytes (f : FabSet) (c : Nat) : Nat :=
  let n := SMap.get f.count 0 c
  let l2 := (f.second.filter fun x => x.1 / 2 ^ 20 == c).length
  let syn := (f.syn.filter fun x => x.1 / 2 ^ 20 == c).length
  8 * n + 16 * 16 + 16 * 512 + 64 * 8 + 4 * l2 + 4 * syn + 16 * n + (if n = 0 then 0 else 2 ^ 18)

/-- Whether a set holds any fabric part on a core. -/
def FabSet.uses (f : FabSet) (c : Nat) : Bool :=
  SMap.get f.count 0 c != 0 || (f.second.any fun x => x.1 / 2 ^ 20 == c) || f.syn.any fun x => x.1 / 2 ^ 20 == c

/-- Bytes of placements in a memory. -/
def placed (l : List Range) (m : Nat) : Nat := ((l.filter fun r => r.mem == m).map (·.len)).sum

/-- Whether a core holds any part of a set (R201). -/
def ConfigSet.holds (x : ConfigSet) (c : Nat) : Bool := x.fab.uses c || placed x.places c != 0

/-- What a set takes of core memory `c`: its fabric part, class entries and first-level table on every core that holds any of it, and its placements there (R201). -/
def ConfigSet.coreBytes (x : ConfigSet) (c : Nat) : Nat := if x.holds c then x.fab.bytes c + placed x.places c else 0

/-- Whether two sets fit together in every core that the new one uses (R201). -/
def coresFit (new : ConfigSet) (other : Option ConfigSet) : Bool :=
  (List.range 64).all fun c =>
    !new.holds c
      || decide (new.coreBytes c + (match other with | some o => o.coreBytes c | none => 0) ≤ 2 ^ 21)

/-! ### Placement (R155, R343) -/

/-- Bytes of memory `m`: cores 2 MiB, clusters 8 MiB, bolt stores 128 MiB. -/
def memBytes (m : Nat) : Nat := if m < 64 then 2 ^ 21 else if m < 72 then 2 ^ 23 else if m < 74 then 2 ^ 27 else 0

/-- Whether two stretches overlap; an empty one overlaps nothing. -/
def Range.overlaps (a b : Range) : Bool :=
  a.mem == b.mem && decide (0 < a.len) && decide (0 < b.len) && decide (a.start < b.start + b.len) && decide (b.start < a.start + a.len)

/-- Whether two lists of stretches overlap. -/
def overlap (a b : List Range) : Bool := a.any fun x => b.any fun y => x.overlaps y

/-- A triple as a stretch. -/
def rangeOf (t : Nat × Nat × Nat) : Range := ⟨t.1, t.2.1, t.2.2⟩

/-- The tile stretches of the enabled regions: memory, first byte, length. -/
def State.regionSpace (s : State) : List (Nat × Nat × Nat) :=
  ((List.range 8).filter s.regionOn).flatMap fun p => (List.range 2).map fun m =>
    let r := s.regionPart p m
    (72 + m, 8 * (r.1 - m * 2 ^ 24), 8 * r.2)

/-- The neighbour mirrors (R79): on each MSD 400 bytes for every tile of the other MSD's part of the enabled regions. [DESIGN CHOICE, log entry 30] -/
def State.mirrorSpace (s : State) : List (Nat × Nat × Nat) :=
  (List.range 2).map fun m =>
    (72 + m, Config.mirrorAt s.regionSpace m, 400 * (((s.regionSpace.filter fun r => r.1 == 73 - m).map fun r => r.2.2).sum / 512))

/-- Bolt-store space that the Canvas and its engines use (R78, R343). [DESIGN CHOICE, log entry 30] -/
def State.canvasSpace (s : State) : List Range := (s.regionSpace ++ s.mirrorSpace ++ Config.auxSpace s.regionSpace).map rangeOf

/-- Bolt-store space of the configured trace ring (R471). -/
def State.traceRingSpace (s : State) : List Range :=
  if s.flag R.dbgTraceStateInLpddr || s.obs.trace.sizeMib = 0 then [] else (Config.traceSpace s.obs.trace.sizeMib).map rangeOf

/-- The least number of bytes that a layer's weights, accumulators, outputs and input copies of `copies` elements take (R134, R155). -/
def LayerSt.content (l : LayerSt) (copies : Nat) : Nat :=
  let acc := if l.linear then (if l.fmtIn.isInt then l.fmtIn.accWidth else 32) else 0
  ceilDiv (l.weightCount * l.fmtW.width + l.outElems * (acc + l.fmtOut.width) + copies * l.fmtIn.width) 8

/-- Elements of the input copies of a layer among the layers of its set. -/
def LayerSt.copyElems (l : LayerSt) (ls : List LayerSt) : Nat := (l.edges.map fun e => (ls.getD e.producer { desc := [] }).outElems).sum

/-- The stretches that the layers of an image take, each in the memory that its WMEM and UNIT name (R155, R159). [DESIGN CHOICE, log entry 30] -/
def imagePlaces (img : List Byte) (ls : List LayerSt) : List Range :=
  ls.zipIdx.flatMap fun l => (Config.placement img l.2).map fun r => ⟨l.1.memory, r.1, r.2⟩

/-- Whether what the layers put into memory `m` exceeds it. -/
def overfull (ls : List LayerSt) (m : Nat) : Bool :=
  decide (memBytes m < ((ls.filter fun l => l.memory == m).map fun l => l.content (l.copyElems ls)).sum)

/-- Whether placements exceed their memories, or a layer is mapped to a die that the set parks (R155). -/
def placementBad (useCd0 useCd1 : Bool) (ls : List LayerSt) (places : List Range) : Bool :=
  (places.any fun r => decide (memBytes r.mem < r.start + r.len)) || ((List.range 74).any fun m => overfull ls m)
    || ls.any fun l => if l.die = 0 then !useCd0 else !useCd1

/-- The placements of a set's other loaded set. -/
def placesOf : Option ConfigSet → List Range
  | some c => c.places
  | none => []

/-! ### Work phases (R389) -/

/-- Whether entry `k` of a work-phase table is in use. -/
def phaseValid (t : List Byte) (k : Nat) : Bool := bit (leAt t (16 * k) 1) 7

/-- The first entry that breaks R389: entry 0 not valid, or a valid entry with a Gauze field above 16. [DESIGN CHOICE, log entry 64] -/
def phaseFault (t : List Byte) : Option Nat :=
  (List.range 8).find? fun k =>
    (k == 0 && !phaseValid t 0) || (phaseValid t k && (decide (16 < bits (leAt t (16 * k + 1) 1) 0 5) || decide (16 < bits (leAt t (16 * k + 2) 1) 0 5)))

/-! ### The checks in order (R341) -/

/-- Steps 1 to 5 of R341 on an image of `len` bytes: the failure, or the set to load. [DESIGN CHOICE, log entry 30; DESIGN CHOICE, log entry 64] -/
def State.checkImage (s : State) (img : List Byte) (len : Nat) : Except Done ConfigSet :=
  if !headerOk img len then .error (.bad 0x04) else
  match s.checkLayers img [] (imageLayers img) with
  | .error d => .error d
  | .ok ls =>
    let use0 := bit (leAt img 19 1) 0
    let use1 := bit (leAt img 19 1) 1
    let places := imagePlaces img ls
    match dppFault ls [] 0 (imageDpps img) with
    | some i => .error (badAt 0x1A i)
    | none =>
      if let some k := phaseFault (Machine.slice img (leAt img 36 4) 128) then .error (badAt 0x22 k) else
      if placementBad use0 use1 ls places then .error { status := .noResource } else
      match s.fabricFault img with
      | some d => .error d
      | none =>
        let ttc := (List.range 127).map fun i => leAt img (Config.ttcAt img + 2 * i) 2
        let new : ConfigSet := { id := leAt img 8 4, useCd0 := use0, useCd1 := use1, layers := ls, dpps := imageDpps img, fab := s.imageFabric img, ftuSection := img.drop (leAt img 32 4), ttc := ttc, phases := Machine.slice img (leAt img 36 4) 128, places := places }
        if !coresFit new s.active || overlap places (placesOf s.active) || overlap places s.canvasSpace || overlap places s.traceRingSpace then
          .error { status := .noResource }
        else .ok new

/-! ### Contexts and rest planes (R135, R170, R193) -/

/-- The contexts of a loaded set (R193). -/
def ConfigSet.initContexts (x : ConfigSet) (cls : Nat → Nat → Nat) : ConfigSet :=
  let ctx := x.fab.count.flatMap fun n => (List.range n.2).map fun i =>
    let k := cls n.1 i % 16
    (n.1 * 2 ^ 17 + i, ({ acc := (x.fab.cls n.1 k).vInit, cls := k } : Context))
  { x with fab := { x.fab with ctx := ctx } }

/-- What the rest planes of layers meet: a saturated conversion, NaN by the least INDEX, an infinite operand (R133). -/
structure RestFlags where
  sat : Bool := false
  nan : Option Nat := none
  inf : Bool := false
  deriving DecidableEq, Repr

/-- The elements of `n` that `f` finds poisoned. -/
def poisonMap (n : Nat) (f : Nat → Bool) : SMap Bool := ((List.range n).filter f).map fun i => (i, true)

/-- A layer's planes from the planes of the layers before it (R135), with the poison they draw on (R442). -/
def LayerSt.rest (l : LayerSt) (prev : List LayerSt) : LayerSt × RestFlags :=
  let edges := l.edges.map fun e =>
    { e with copy := ((prev[e.producer]?).map (·.act)).getD [], pend := [], poison := ((prev[e.producer]?).map (·.poisonAct)).getD [] }
  let l1 := { l with edges := edges, marks := [], poisonAct := [], poisonAcc := [] }
  let n := l1.outElems
  if l.kind = kCanvas then
    let codes := l.canvasSel.map fun c => leAt l.table (2 * (8 * c.1 + 7)) 2 % 2 ^ l.fmtOut.width
    let bad := l.canvasSel.map fun c => SMap.get l.poisonTable false (8 * c.1 + 7)
    ({ l1 with act := (List.range n).map fun i => codes.getD (i % max 1 codes.length) 0, poisonAct := poisonMap n fun i => bad.getD (i % max 1 bad.length) false }, {})
  else
    let acc := if l.linear then (List.range n).map fun o => l1.recompute l1.readCopy o else []
    let out := (List.range n).map fun o => l1.fresh l1.readCopy o
    let drawn := poisonMap n fun o => !l1.isVoid o && l1.drawsPoison l1.poisoned o
    let eval := poisonMap n fun o => SMap.get drawn false o || (!l1.isVoid o && (l.linear || l.kind == kAct || l.kind == kRequant)
      && l1.evalPoison o (if l.linear then acc.getD o 0 else l1.readCopy (.elem 0 o)))
    let nan := out.any (·.nan) || (l.linear && !l.fmtIn.isInt && (acc.zipIdx.any fun a => f32 a.1 == .nan && !l1.isVoid a.2))
    ({ l1 with acc := acc, act := out.map (·.code), poisonAcc := if l.linear then drawn else [], poisonAct := eval },
     { sat := out.any (·.sat), nan := if nan then some l.index else none, inf := (List.range n).any fun o => !l1.isVoid o && l1.drawsInf l1.readCopy o })

/-- What two stretches of layers meet together. -/
def RestFlags.join (a b : RestFlags) : RestFlags := { sat := a.sat || b.sat, nan := a.nan <|> b.nan, inf := a.inf || b.inf }

/-- The rest planes of layers in order. -/
def restPlanes : List LayerSt → List LayerSt → RestFlags → List LayerSt × RestFlags
  | prev, [], x => (prev, x)
  | prev, l :: ls, x =>
    let r := l.rest prev
    restPlanes (prev ++ [r.1]) ls (x.join r.2)

/-- Void windows of a layer, counted once per window and channel (R170). -/
def LayerSt.voids (l : LayerSt) : Nat := ((List.range l.outElems).filter l.isVoid).length

/-! ### LOAD_SET (R341, R345, R455) -/

/-- The code of EMPTY in HIF_SETS. -/
def setEmpty : Nat := 0
/-- LOADING. -/
def setLoading : Nat := 1
/-- READY. -/
def setReady : Nat := 2

/-- The shadow set is EMPTY. -/
def State.emptyShadow (s : State) : State :=
  let s1 := ((s.set R.hifSetsShadow setEmpty).set R.hifSetsShadowDies 0).set R.hifSetShadowIdImageId 0
  { s1 with shadow := none, ctl := { s1.ctl with load := none } }

/-- Whether another LOAD_SET runs or a swap is pending (R345). -/
def State.loadBusy (s : State) : Bool := s.get R.hifSetsShadow == setLoading || s.flag R.hifSetsSwapPending

/-- The image bytes that a LOAD_SET reads. -/
def State.imageBytes (s : State) (addr len : Nat) (inLpddr : Bool) (img : List Byte) : List Byte :=
  if inLpddr then readBytes s.lpddr lpddrFill addr len else img

/-- A LOAD_SET starts: the shadow set's content is discarded and the image checked; a poisoned word of an image in LPDDR5X ends it (R342, R443). [DESIGN CHOICE, log entry 118] -/
def State.startLoad (s : State) (f q addr len : Nat) (inLpddr : Bool) (img : List Byte) (ecc : Ecc) : State :=
  let s1 := s.emptyShadow.when (inLpddr && decide (addr + len ≤ s.get R.dbgLpddrRsvAddr)) fun s => s.lpddrRead ecc addr
  if inLpddr && decide (s.get R.dbgLpddrRsvAddr < addr + len) then s1.complete f q (.bad 0x03)
  else if inLpddr && s.lpddrPoison ecc then s1.complete f q { status := .poisoned }
  else match s.checkImage (s.imageBytes addr len inLpddr img) len with
    | .error d => s1.complete f q d
    | .ok new =>
      let b := s.imageBytes addr len inLpddr img
      let new' := new.initContexts fun c i => (Config.fabNeuron b c i).1
      let s2 := (s1.set R.hifSetsShadow setLoading).begin f q
      { s2 with ctl := { s2.ctl with load := some ⟨some (f, q), new'⟩ } }

/-- The rings whose LOAD_SET waits (R345). -/
def State.waitingLoads (s : State) : Bool :=
  (List.range 8).any fun f => (List.range 8).any fun q => (s.cur f q).any fun d => d.stage == .loadWait

/-- HIF_SETS.LOAD_WAIT in step. -/
def State.showLoadWait (s : State) : State := s.setFlag R.hifSetsLoadWait s.waitingLoads

/-- LOAD_SET: accepted at the head of the device-wide queue; offered again once it has waited (R341, R345). [DESIGN CHOICE, log entry 8] -/
def execLoadSet (f : Fin 8) (q : Fin 4) (img : List Byte) (ecc : Ecc) (s : State) : Host.Outcome State Fault Refusal :=
  .next (let q := s.ownRing f q
    match s.cur f q with
    | some d =>
      match d.op with
      | .loadSet addr len inLpddr =>
        let atHead := d.stage == .fetched && s.host.wide.head? == some (f.val, q)
        if !s.awake || !(atHead || d.stage == .loadWait) then s
        else
          let s1 := s.when atHead State.accept
          if s.offline dieMsd0 || s.offline dieMsd1 then (s1.complete f q { status := .noResource }).showLoadWait
          else if s.loadBusy then (s1.setCur f q (some { d with stage := .loadWait })).showLoadWait
          else (s1.startLoad f q addr len inLpddr img ecc).showLoadWait
      | _ => s
    | none => s)

/-- Reads of the layers of a set find what `hits` says (R439). -/
def State.readSet (s : State) (c : ConfigSet) : List MemHit → State × ConfigSet
  | [] => (s, c)
  | h :: hs =>
    match wordLayer h.word with
    | some i =>
      let r := s.checkWord (c.layers.getD i noLayer) h
      r.1.readSet { c with layers := c.layers.set i r.2 } hs
    | none => s.readSet c hs

/-- LOAD_SET_COMPLETE: contexts and rest planes are done (R135, R170, R345); `hits` names the words of the set whose checks fail as its planes are computed. -/
def execLoadSetComplete (hits : List MemHit) (s : State) : Host.Outcome State Fault Refusal :=
  .next (match s.ctl.load with
    | none => s
    | some l =>
      if !s.awake then s else
      let c := s.readSet l.set hits
      let r := restPlanes [] c.2.layers {}
      let new := { c.2 with layers := r.1 }
      let s1 := { c.1 with shadow := some new, ctl := { c.1.ctl with load := none } }
      let dies := b2n new.useCd0 + 2 * b2n new.useCd1
      let s2 := ((s1.set R.hifSetsShadow setReady).set R.hifSetsShadowDies dies).set R.hifSetShadowIdImageId new.id
      let s3 := (s2.add R.cntVoidwin (new.layers.map (·.voids)).sum).when r.2.sat fun s => s.setFlag R.tnsArithStatusSat true
      let s4 := match r.2.nan with
        | some k => if s.flag R.tnsArithStatusNan then s3
          else ((s3.setFlag R.tnsArithStatusNan true).set R.tnsArithNanLayerLayer k).setFlag R.tnsArithNanLayerValid true
        | none => s3
      (s4.when r.2.inf fun s => s.setFlag R.tnsArithStatusInfIn true).completeOwner l.owner (.okay new.id))

end Sys2Proof.Machine
end

