-- ==== Sys2Proof/Machine/Power.lean ====
section
/-! DEFINITION. Operating points, the Shroud limiter, the software cap, Gauze levels and thermal control (R385–R409). -/

namespace Sys2Proof.Machine

/-- Power and thermal control replaced. -/
def State.setPwr (s : State) (p : Power) : State := { s with pwr := p }

/-! ### Work phases and the operating point (R385–R392) -/

/-- The entry of the phase in force: PREF_OP, GAUZE_PREF, GAUZE_STEP (R389, R392). -/
def State.phaseEntry (s : State) : Nat × Nat × Nat :=
  match s.active with
  | none => (5, 0, 0)
  | some c =>
    let o := 16 * s.get R.pwrPhasePhase
    (bits (leAt c.phases o 1) 0 3, bits (leAt c.phases (o + 1) 1) 0 5, bits (leAt c.phases (o + 2) 1) 0 5)

/-- The operating point of R386. -/
def State.wantOp (s : State) : Nat := min s.phaseEntry.1 (min (s.get R.pwrOpCapBound) (s.get R.pwrOpThermBound))

/-- PWR_OP.TARGET in step. -/
def State.showTarget (s : State) : State := s.set R.pwrOpTarget s.wantOp

/-- The compute-die voltages of R385 in mV. -/
def opVolts : List Nat := [550, 580, 620, 660, 710, 750, 800, 850]

/-- The commanded voltage of a die in mV: R385 with the margin mode of R399, or the nominal voltage of R491. -/
def State.volts (s : State) (die : Nat) : Nat :=
  if die < 2 then opVolts.getD s.pwr.voltOp 750 + (if s.flag R.pwrCtlMarginMode then 50 else 0)
  else if die < 4 then 750 else 800

/-- A POWER trace entry of kind `k` (R473). [DESIGN CHOICE, log entry 113] -/
def State.tracePower (s : State) (unit k data : Nat) : State := s.trace dieIod 3 unit k data

/-- The write that commands the voltage of compute rail `d` (R388): VOUT_COMMAND over PMBus, or an AVSBus Voltage write. -/
def State.vrWrite (s : State) (d : Nat) : VrWrite :=
  let pmbus := s.flag (if d = 0 then R.pwrVr0CfgIf else R.pwrVr1CfgIf)
  let addr := s.get (if d = 0 then R.pwrVr0CfgAddr else R.pwrVr1CfgAddr)
  let rail := s.get (if d = 0 then R.pwrVr0CfgAvsRail else R.pwrVr1CfgAvsRail)
  { die := d, pmbus := pmbus, addr := if pmbus then addr else rail, mv := s.volts d }

/-- Both compute rails are commanded to the voltage in force, and the 10 µs wait begins (R387, R388). -/
def State.commandVolts (s : State) : State :=
  s.setPwr { s.pwr with vrWrites := s.pwr.vrWrites ++ [s.vrWrite 0, s.vrWrite 1], opReady := s.now + 10000, vrWait := [0, 1] }

/-- The compute dies' clock switches to operating point `op` (R387). -/
def State.switchClock (s : State) (op : Nat) : State := (((s.showTarget).set R.pwrOpCurrent op).inc R.cntOpStep).tracePower 0 1 op

/-- OP_STEP (R387): a step up commands the higher voltage, and 10 µs later the next OP_STEP switches the clock; a step down switches the clock, commands the lower voltage and waits. A step begun is ended. [DEDUCED, log entry 107] -/
def execOpStep (s : State) : Host.Outcome State Fault Refusal :=
  .next (
    let cur := s.get R.pwrOpCurrent
    let want := s.wantOp
    if !s.awake || s.halted || decide (s.now < s.pwr.opReady) then s
    else if cur < s.pwr.voltOp then s.switchClock s.pwr.voltOp
    else if cur < want then ((s.showTarget).setPwr { s.pwr with voltOp := cur + 1 }).commandVolts
    else if want < cur then
      let s1 := s.switchClock (cur - 1)
      (s1.setPwr { s1.pwr with voltOp := cur - 1 }).commandVolts
    else s)

/-- VR_CHECK (R388): the rail monitor reads compute rail `d` at `mv` at the end of the 10 µs wait. -/
def execVrCheck (d : Fin 2) (mv : Nat) (s : State) : Host.Outcome State Fault Refusal :=
  .next (
    let v := s.volts d
    if !s.awake || !s.pwr.vrWait.contains d || decide (s.now < s.pwr.opReady) then s
    else
      let s1 := s.setPwr { s.pwr with vrWait := s.pwr.vrWait.filter (· != d.val) }
      if decide (v + 25 < mv) || decide (mv + 25 < v) then ((s1.setFlag R.pwrStatusVrErr true).inc R.cntVrErr).fault .corrected 0x0B d d 0
      else s1)

/-! ### Duty and the Sheet control (R397, R398) -/

/-- Limiter `r`. -/
def State.limiter (s : State) (r : Nat) : Limiter := SMap.get s.pwr.limiter {} r

/-- Limiter `r` replaced. -/
def State.setLimiter (s : State) (r : Nat) (l : Limiter) : State := s.setPwr { s.pwr with limiter := SMap.set s.pwr.limiter {} r l }

/-- The cap duty of a floor step, in sixteenths (R402). -/
def capDuty (step : Nat) : Nat := if step < 2 then 16 else if step = 2 then 12 else if step = 3 then 8 else 4

/-- The duty in force on compute die `d`: the least of Shroud, cap and thermal duty (R394, R397). -/
def State.duty (s : State) (d : Nat) : Nat :=
  let shroud := [d, 2, 3, 4].foldl (fun m r => min m ((s.limiter r).duty / 4)) 16
  min shroud (min (capDuty (s.get R.pwrCapStatusFloorStep)) (s.get R.pwrThermStatusThermDuty))

/-- The duty of LOAD_SET, trace and dump traffic in sixteenths, which the limiters of rails 2–4 throttle (R394). -/
def State.bulkDuty (s : State) : Nat := [2, 3, 4].foldl (fun m r => min m ((s.limiter r).duty / 4)) 16

/-- PWR_DUTY of compute die `d`. -/
def dutyShown (d : Nat) : Fld := if d = 0 then R.pwrDutyCd0 else R.pwrDutyCd1

/-- SHEET_SLOPE: 0 acts as 1 (R409). -/
def State.sheetSlope (s : State) : Nat := max 1 (s.get R.pwrCtlSheetSlope)

/-- The permitted issue activity of compute die `d` in 64ths of full rate (R397, R398): the duty in force, reached at SHEET_SLOPE each 100 ns from the level of the last fall or start; in margin mode in one step (R399). -/
def State.permitted (s : State) (d : Nat) : Nat :=
  let p := SMap.get s.pwr.permit (64, 0) d
  let full := 4 * s.get (dutyShown d)
  if s.flag R.pwrCtlMarginMode then full else min full (p.1 + s.sheetSlope * ((s.now - p.2) / 100))

/-- The duty in force on compute die `d` shown; where it changes, a rise starts from the activity permitted now, and a fall acts at once (R398). -/
def State.stepDuty (s : State) (d : Nat) : State :=
  if s.get (dutyShown d) = s.duty d then s
  else (s.setPwr { s.pwr with permit := SMap.put d (min (s.permitted d) (4 * s.duty d), s.now) s.pwr.permit }).set (dutyShown d) (s.duty d)

/-- PWR_DUTY in step. -/
def State.showDuty (s : State) : State := (s.stepDuty 0).stepDuty 1

/-! ### The Shroud limiter (R393–R396) -/

/-- LIMIT_A of rail `r`, held in its range (R394). -/
def State.limitA (s : State) (r : Nat) : Nat :=
  match r with
  | 0 => s.getIn R.pwrShroud0LimitA 10 130
  | 1 => s.getIn R.pwrShroud1LimitA 10 130
  | 2 => s.getIn R.pwrShroud2LimitA 1 40
  | 3 => s.getIn R.pwrShroud3LimitA 1 40
  | _ => s.getIn R.pwrShroud4LimitA 1 30

/-- CNT_SHROUD_TRIPr. -/
def cntTrip (r : Nat) : Fld :=
  match r with
  | 0 => R.cntShroudTrip0 | 1 => R.cntShroudTrip1 | 2 => R.cntShroudTrip2 | 3 => R.cntShroudTrip3 | _ => R.cntShroudTrip4

/-- The Tj of a die in °C (R405). -/
def State.tj (s : State) (d : Nat) : Int := if d < 4 then toSigned 8 (bits (s.get R.pwrTj0Tj) (8 * d) 8) else toSigned 8 (s.get R.pwrTj1Iod)

/-- A die's energy in fJ over 0.5 µs (R393). [DESIGN CHOICE, log entry 143] -/
def State.energyOf (s : State) (d : Nat) (acts : List Nat) : Nat :=
  let v := s.volts d
  let ref := if d < 2 then 850 else v
  (acts.zipIdx.map fun a => a.1 * Config.energyCoef d a.2 * v * v / (ref * ref)).sum + Config.leakage d v (s.tj d) * 500000

/-- Power in fJ a millisecond as units of 0.1 W, to nearest. -/
def tenthWatts (e : Nat) : Nat := min 65535 (roundDiv e (10 ^ 11))

/-- The means of a rail's currents over the millisecond that is over (R396, R408). -/
def Limiter.roll (l : Limiter) : Limiter :=
  { l with estSum := 0, measSum := 0, count := 0, estMean := l.estSum / max 1 l.count, measMean := l.measSum / max 1 l.count }

/-- A millisecond is over: its energies join the past ten, the estimates are shown, and each rail's means are formed (R396, R401, R408, R409). -/
def State.rollEnergy (s : State) : State :=
  let m := s.now / 1000000
  if m ≤ s.pwr.ms then s else
  let past := (List.range 5).map fun d => (d, (SMap.get s.pwr.energy 0 d :: SMap.get s.pwr.past [] d).take 10)
  let s1 := s.setPwr { s.pwr with ms := m, energy := [], past := past, limiter := s.pwr.limiter.map fun x => (x.1, x.2.roll) }
  let total := fun k => (past.map fun x => x.2.getD k 0).sum
  let n := max 1 (past.map fun x => x.2.length).sum / 5
  let m10 := ((List.range 10).map total).sum / max 1 n
  ((s1.set R.pwrEstTotalM1 (tenthWatts (total 0))).set R.pwrEstTotalM10 (tenthWatts m10)).each past fun s x => s.set (R.pwrEstDieM1 x.1) (tenthWatts (x.2.getD 0 0))

/-- Energy added to die `d`'s present millisecond. -/
def State.addEnergy (s : State) (d e : Nat) : State := s.setPwr { s.pwr with energy := SMap.upd s.pwr.energy 0 d (· + e) }

/-- The units that rail `r` throttles: compute dies (R394). -/
def throttledDies (r : Nat) : List Nat := if r < 2 then [r] else [0, 1]

/-- The compute dies that limiter `r` throttles are marked for the present tick (R404 looks at the die's own rail). [DEDUCED, log entry 112] -/
def State.markThrottled (s : State) (r : Nat) : State :=
  if r < 2 && decide ((s.limiter r).duty < 64) then s.setPwr { s.pwr with throttled := SMap.set s.pwr.throttled false r true } else s

/-- A trip enters the lifetime records (R486). -/
def State.lifeTrip (s : State) (r : Nat) : State :=
  { s with obs := { s.obs with life := { s.obs.life with trips := SMap.upd s.obs.life.trips 0 r (· + 1) } } }

/-- What limiter `r` does with the mean of its last four samples, `sum` in µA × 4 (R394, R395). [DEDUCED, log entry 108] -/
def State.limit (s : State) (r sum : Nat) : State :=
  let l := s.limiter r
  let lim := 4 * s.limitA r * 1000000
  if lim < sum then
    let sat := ((throttledDies r).all fun d => s.duty d == 1) && (decide (r < 2) || s.bulkDuty == 1)
    let duty := max 4 (l.duty - 16)
    (((((s.setLimiter r { l with duty := duty, low := 0, releasing := false }).inc (cntTrip r)).lifeTrip r).setFlag (R.pwrShroudStatTrip r) true).when sat
      fun s => s.setFlag (R.pwrShroudStatSat r) true).tracePower r 2 (duty / 4)
  else
    let low := if 10 * sum ≤ 9 * lim then l.low + 1 else 0
    let rel := l.releasing || (decide (4 ≤ low) && decide (l.duty < 64))
    let rise := if s.flag R.pwrCtlMarginMode then 64 else 5 * s.sheetSlope
    let duty := if rel then min 64 (l.duty + rise) else l.duty
    (s.setLimiter r { l with duty := duty, low := low, releasing := rel && decide (duty < 64) }).when (duty != l.duty) fun s => s.tracePower r 2 (duty / 4)

/-- A sample of rail `r` joins the sums of its millisecond: estimate and sense in µA. -/
def State.addMeans (s : State) (r est meas : Nat) : State :=
  let l := s.limiter r
  s.setLimiter r { l with estSum := l.estSum + est, measSum := l.measSum + meas, count := l.count + 1 }

/-- A current sample of a limited rail, its die's energy over the interval `e` (R394). [DEDUCED, log entry 108] -/
def State.shroudSample (s : State) (r e meas : Nat) : State :=
  let est := 2 * e / s.volts r
  let s1 := (s.addEnergy r e).addMeans r est meas
  let l := (max est meas :: (s1.limiter r).samples).take 4
  let sum := (List.range 4).map (fun k => l.getD k 0) |>.sum
  let s2 := (s1.setLimiter r { s1.limiter r with samples := l }).set (R.pwrShroudStatMean r) (min 65535 (roundDiv sum 40000))
  (((s2.limit r sum).markThrottled r).showDuty).showTarget

/-- SHROUD_SAMPLE (R394): activity counts of the interval, and the board sense mean in converter steps; the board input, rail 5, is measured only. -/
def execShroudSample (r : Fin 6) (acts : List Nat) (sense : Nat) (s : State) : Host.Outcome State Fault Refusal :=
  .next (
    let meas := sense * s.get (R.pwrIsnsScaleScale r) * 1000
    if !s.awake then s
    else if r.val = 5 then s.rollEnergy.addMeans 5 0 meas
    else s.rollEnergy.shroudSample r (s.energyOf r acts) meas)

/-- EST_MISMATCH (R396): the means of the estimated and the measured current of rail `r` over the last whole millisecond compared. -/
def execEstMismatch (r : Fin 5) (s : State) : Host.Outcome State Fault Refusal :=
  .next (
    let s1 := s.rollEnergy
    let l := s1.limiter r
    if s.awake && decide (s.getIn R.pwrShroudCfgTolPct 1 100 * l.measMean < 100 * ((l.estMean : Int) - l.measMean).natAbs) then
      s1.setFlag (R.pwrShroudStatEstMismatch r) true
    else s)

/-! ### The software cap (R401–R403) -/

/-- CAP_W as it acts: 1–19 act as 20 (R409). -/
def State.capW (s : State) : Nat := if s.get R.pwrCapCapW = 0 then 0 else max 20 (s.get R.pwrCapCapW)

/-- The device's energy in fJ in the k-th millisecond back. -/
def State.msEnergy (s : State) (k : Nat) : Nat := (s.pwr.past.map fun x => x.2.getD k 0).sum

/-- Milliseconds of energy held, up to ten. [DEDUCED, log entry 110] -/
def State.msHeld (s : State) : Nat := (s.pwr.past.map fun x => x.2.length).foldl max 0

/-- An action of the cap is taken or released (R401, R403). -/
def State.capAction (s : State) : State :=
  let s1 := (s.inc R.cntCapAction).setPwr { s.pwr with actMs := some (s.now / 1000000) }
  (s1.showDuty.showTarget).tracePower 0 3 (s1.get R.pwrCapStatusFloorStep + 256 * s1.get R.pwrOpCapBound)

/-- A down action (R401–R403); `m10` in fJ a millisecond. [DESIGN CHOICE, log entry 111] -/
def State.capDown (s : State) (m10 : Nat) : State :=
  let op := s.get R.pwrOpCurrent
  let step := s.get R.pwrCapStatusFloorStep
  if 0 < op then (s.set R.pwrOpCapBound (op - 1)).capAction
  else if step < 6 then
    (s.set R.pwrCapStatusFloorStep (if step = 0 ∧ s.flag R.tnsGauzeCtlDisable then 2 else step + 1)).capAction
  else ((s.setFlag R.pwrCapStatusCapUnreachable true).set R.pwrCapFloorFloor (tenthWatts m10)).condition 5

/-- An up action (R401): the latest floor action is released, or the bound rises; step 1, where it was skipped, goes with step 2. [DESIGN CHOICE, log entry 111] -/
def State.capUp (s : State) : State :=
  let step := s.get R.pwrCapStatusFloorStep
  let bound := s.get R.pwrOpCapBound
  if 0 < step then (s.set R.pwrCapStatusFloorStep (if step = 2 ∧ s.flag R.tnsGauzeCtlDisable then 0 else step - 1)).capAction
  else if bound < 7 then (s.set R.pwrOpCapBound (bound + 1)).capAction
  else s

/-- One evaluation (R401). [DEDUCED, log entry 109] -/
def State.evaluateCap (s : State) : State :=
  let cap := s.capW * 10 ^ 12
  let low := (s.capW - s.getIn R.pwrCapHystW 1 15) * 10 ^ 12
  let n := max 1 s.msHeld
  let m1 := s.msEnergy 0
  let m10 := ((List.range 10).map s.msEnergy).sum
  let s1 := if m1 ≤ cap then s.setFlag R.pwrCapStatusCapUnreachable false else s
  let rested := match s.pwr.actMs with | some t => decide (t + 10 ≤ s.now / 1000000) | none => true
  if cap < m1 then s1.capDown (m10 / n)
  else if decide (m1 ≤ low) && decide (m10 ≤ low * n) && rested then s1.capUp
  else s1

/-- CAP_EVALUATION (R401): once in each whole millisecond while CAP_W is not 0. -/
def execCapEvaluation (s : State) : Host.Outcome State Fault Refusal :=
  .next (
    let m := s.now / 1000000
    if !s.awake || s.halted || s.capW == 0 || s.pwr.evalMs == some m then s
    else
      let s1 := s.rollEnergy
      (s1.setPwr { s1.pwr with evalMs := some m }).evaluateCap)

/-! ### Thermal control (R405–R407) -/

/-- THROT_C, held in its range. -/
def State.throt (s : State) : Nat := s.getIn R.pwrThermCfgThrotC 85 115

/-- The sensors of each die: first, one after the last (R409). -/
def sensorSpan : List (Nat × Nat) := [(0, 16), (16, 32), (32, 36), (36, 40), (40, 44)]

/-- Sensor `k` as a signed number of °C. -/
def State.sensor (s : State) (k : Nat) : Int := toSigned 8 (s.get (R.pwrTsensTemp k))

/-- The hottest sensor of a die (R405). -/
def State.hottest (s : State) (d : Nat) : Int :=
  let p := sensorSpan.getD d (0, 0)
  ((List.range (p.2 - p.1)).map fun k => s.sensor (p.1 + k)).foldl max (s.sensor p.1)

/-- Sensor readings taken, and the Tj of each die shown (R405, R409). -/
def State.takeTemps (s : State) (temps : List Int) : State :=
  let s1 := s.each temps.zipIdx fun s t => if t.2 < 44 then s.set (R.pwrTsensTemp t.2) (ofInt 8 (clampInt (-128) 127 t.1)) else s
  let tj := fun d => ofInt 8 (s1.hottest d)
  (s1.set R.pwrTj0Tj (tj 0 + 2 ^ 8 * tj 1 + 2 ^ 16 * tj 2 + 2 ^ 24 * tj 3)).set R.pwrTj1Iod (tj 4)

/-- A thermal change shown and traced. -/
def State.thermalChange (s : State) : State :=
  (s.showDuty.showTarget).tracePower 0 4
    (s.get R.pwrThermStatusThrottling + 2 ^ 8 * s.get R.pwrOpThermBound + 2 ^ 16 * s.get R.pwrThermStatusThermDuty)

/-- Thermal duty one sixteenth lower, to no less than 4/16. -/
def State.lessDuty (s : State) : State := s.set R.pwrThermStatusThermDuty (max 4 (s.get R.pwrThermStatusThermDuty - 1))

/-- NORMAL to THROTTLING (R406). -/
def State.beginThrottle (s : State) : State :=
  let op := s.get R.pwrOpCurrent
  let s1 := (s.setFlag R.pwrThermStatusThrottling true).inc R.cntThrot
  (if 0 < op then s1.set R.pwrOpThermBound (op - 1) else (s1.set R.pwrOpThermBound 0).lessDuty).thermalChange

/-- A further millisecond at the throttle point (R406). -/
def State.throttleMore (s : State) : State :=
  (if 0 < s.get R.pwrOpThermBound then s.set R.pwrOpThermBound (s.get R.pwrOpThermBound - 1) else s.lessDuty).thermalChange

/-- Ten cool milliseconds (R406); at bound 7 and duty 16 the state is NORMAL again. -/
def State.throttleLess (s : State) : State :=
  let d := s.get R.pwrThermStatusThermDuty
  let s1 := if d < 16 then s.set R.pwrThermStatusThermDuty (d + 1) else s.set R.pwrOpThermBound (min 7 (s.get R.pwrOpThermBound + 1))
  (s1.when (s1.get R.pwrOpThermBound == 7 && s1.get R.pwrThermStatusThermDuty == 16) fun s => s.setFlag R.pwrThermStatusThrottling false).thermalChange

/-- Whether the time since `t` has reached `n` ns. -/
def State.since (s : State) (t : Option Nat) (n : Nat) : Bool := match t with | some t => decide (t + n ≤ s.now) | none => false

/-- The thermal state machine of R406 for the temperatures as they stand. -/
def State.controlThermal (s : State) : State :=
  let tjs := (List.range 5).map s.tj
  let hot := tjs.any fun t => decide ((s.throt : Int) ≤ t)
  let cool := tjs.all fun t => decide (t < (s.throt : Int) - s.getIn R.pwrThermCfgHystC 1 15)
  let hotDue := s.since s.pwr.hotSince 1000000
  let coolDue := s.since s.pwr.coolSince 10000000
  let on := s.flag R.pwrThermStatusThrottling
  let next := fun (c due : Bool) (t : Option Nat) => if !c then none else if due then some s.now else some (t.getD s.now)
  let s1 := s.setPwr { s.pwr with hotSince := next hot hotDue s.pwr.hotSince, coolSince := next cool coolDue s.pwr.coolSince }
  if hot && !on then (s1.setPwr { s1.pwr with hotSince := some s.now }).beginThrottle
  else if hot && hotDue then s1.throttleMore
  else if on && cool && coolDue then s1.throttleLess
  else s1

/-- THERMAL_CONTROL (R405, R406): the sensors' temperatures, sensor 0 first. -/
def execThermalControl (temps : List Int) (s : State) : Host.Outcome State Fault Refusal :=
  .next (if s.awake then (s.takeTemps temps).controlThermal else s)

/-- RAIL_MEASURE (R408): rail voltages in mV, and the currents of rails 0–5 as means over the last whole millisecond. -/
def execRailMeasure (mv : List Nat) (s : State) : Host.Outcome State Fault Refusal :=
  .next (if !s.awake then s else
    (s.rollEnergy.each (List.range 8) fun s v => match mv[v]? with | some x => s.set (R.pwrRailMv v) (min 4095 x) | none => s).each (List.range 6)
      fun s v => s.set (R.pwrRailI10ma v) (min 65535 (roundDiv (s.limiter v).measMean 10000)))

/-! ### Gauze levels (R404) -/

/-- L_temp of compute die `d`. -/
def State.gauzeTemp (s : State) (d : Nat) : Int :=
  let span : Int := s.getIn R.pwrGauzePolTempSpanC 1 15
  clampInt 0 16 (floorDiv (16 * (s.tj d - s.throt + span)) span)

/-- The Gauze level of compute die `d` (R404). -/
def State.gauzeRule (s : State) (d : Nat) : Nat :=
  let e := s.phaseEntry
  let op : Int := (e.2.1 : Int) + e.2.2 * ((e.1 : Int) - s.get R.pwrOpCurrent)
  if s.flag R.tnsGauzeCtlDisable then 0
  else if s.flag R.pwrCapStatusFloorStep then 16
  else (clampInt 0 16 (max op (max (s.gauzeTemp d) ((SMap.get s.pwr.margin 0 d : Nat) : Int)))).toNat

/-- L_margin after a tick (R404). -/
def State.stepMargin (s : State) (d : Nat) : State :=
  let m := SMap.get s.pwr.margin 0 d
  let v := if SMap.get s.pwr.throttled false d then min 16 (m + s.getIn R.pwrGauzePolMarginUp 0 16) else m - 1
  (s.setPwr { s.pwr with margin := SMap.set s.pwr.margin 0 d v, throttled := SMap.set s.pwr.throttled false d false }).markThrottled d

/-- The Gauze levels set at the boundary of tick `n` (R128, R404). -/
def State.setGauze (s : State) (n : Nat) : State :=
  let s1 := (s.stepMargin 0).stepMargin 1
  let a := s1.gauzeRule 0
  let b := s1.gauzeRule 1
  let moved := a != s.get R.tnsGauzeLevelLevelCd0 || b != s.get R.tnsGauzeLevelLevelCd1
  let s2 := ((s1.set R.tnsGauzeLevelLevelCd0 a).set R.tnsGauzeLevelLevelCd1 b).when moved fun s => s.tracePower 0 5 (a + 256 * b)
  s2.setTns { s2.tns with levels := SMap.set (s2.tns.levels.filter fun x => decide (n < x.1 + 16)) 0 n (a + 32 * b) }

/-- The phase in force becomes `k` now (R390, R391). -/
def State.enterPhase (s : State) (k : Nat) : State :=
  ((s.set R.pwrPhasePhase k).setPwr { s.pwr with phaseAt := some s.now }).showTarget

end Sys2Proof.Machine
end

