-- ==== Sys2Proof/Machine/Dpp.lean ====
section
/-! DEFINITION. The detection post-processors (R178–R187): candidates, suppression, survivors. -/

namespace Sys2Proof.Machine

/-! ### The exponential (R180) -/

/-- FP32 codes of the nodes N[i] = exp(−8 + i / 16), rounded to nearest (R180). [DESIGN CHOICE, log entry 67] -/
def expNodes : List Nat :=
  [0x39AFE108, 0x39BB38E6, 0x39C74C0C, 0x39D4268E, 0x39E1D549, 0x39F065EC, 0x39FFE709, 0x3A083411, 0x3A10FCDD, 0x3A1A56B2, 0x3A244AEB, 0x3A2EE37C, 0x3A3A2AFF, 0x3A462CBD, 0x3A52F4B8, 0x3A608FB9, 0x3A6F0B5D, 0x3A7E7620, 0x3A876FB7, 0x3A902BD9, 0x3A997833, 0x3AA35E12, 0x3AADE75D, 0x3AB91E9E, 0x3AC50F0C, 0x3AD1C49A, 0x3ADF4BFF, 0x3AEDB2C1, 0x3AFD074B, 0x3B06AC78, 0x3B0F5C03, 0x3B189AF5] ++
  [0x3B227290, 0x3B2CECAA, 0x3B3813BF, 0x3B43F2F8, 0x3B509633, 0x3B5E0A17, 0x3B6C5C17, 0x3B7B9A86, 0x3B85EA53, 0x3B8E8D58, 0x3B97BEF6, 0x3BA18860, 0x3BABF360, 0x3BB70A61, 0x3BC2D87D, 0x3BCF6980, 0x3BDCC9FF, 0x3BEB075A, 0x3BFA2FD0, 0x3C052945, 0x3C0DBFD7, 0x3C16E434, 0x3C209F82, 0x3C2AFB7D, 0x3C360282, 0x3C41BF99, 0x3C4E3E7F, 0x3C5B8BB5, 0x3C69B489, 0x3C78C724, 0x3C84694E, 0x3C8CF37E] ++
  [0x3C960AAE, 0x3C9FB7F4, 0x3CAA0500, 0x3CB4FC1F, 0x3CC0A84A, 0x3CCD152C, 0x3CDA4F35, 0x3CE8639F, 0x3CF76081, 0x3D03AA6C, 0x3D0C284C, 0x3D153261, 0x3D1ED1B4, 0x3D290FE6, 0x3D33F737, 0x3D3F928D, 0x3D4BED86, 0x3D59147E, 0x3D67149C, 0x3D75FBE2, 0x3D82EC9C, 0x3D8B5E3F, 0x3D945B4C, 0x3D9DECC0, 0x3DA81C2E, 0x3DB2F3C6, 0x3DBE7E61, 0x3DCAC78B, 0x3DD7DB8C, 0x3DE5C77C, 0x3DF49946, 0x3E022FDF] ++
  [0x3E0A9555, 0x3E13856D, 0x3E1D0916, 0x3E2729D5, 0x3E31F1CC, 0x3E3D6BC4, 0x3E49A337, 0x3E56A45E, 0x3E647C3C, 0x3E7338A8, 0x3E817431, 0x3E89CD8D, 0x3E92B0C2, 0x3E9C26B4, 0x3EA638D9, 0x3EB0F145, 0x3EBC5AB2, 0x3EC88088, 0x3ED56EF0, 0x3EE332D9, 0x3EF1DA07, 0x3F00B992, 0x3F0906E5, 0x3F11DD4A, 0x3F1B4598, 0x3F254939, 0x3F2FF231, 0x3F3B4B29, 0x3F475F7D, 0x3F543B41, 0x3F61EB51, 0x3F707D60] ++
  [0x3F800000, 0x3F88415B, 0x3F910B02, 0x3F9A65C1, 0x3FA45AF2, 0x3FAEF48C, 0x3FBA3D29, 0x3FC64012, 0x3FD3094C, 0x3FE0A5A2, 0x3FEF22AF, 0x3FFE8EF3, 0x40077CEE, 0x401039EA, 0x4019872C, 0x40236E02, 0x402DF854, 0x403930AD, 0x40452246, 0x4051D911, 0x405F61C7, 0x406DC9F2, 0x407D1FFA, 0x4086B99C, 0x408F69FF, 0x4098A9D9, 0x40A28269, 0x40ACFD89, 0x40B825B5, 0x40C40615, 0x40D0AA8D, 0x40DE1FC0] ++
  [0x40EC7326, 0x40FBB312, 0x4105F763, 0x410E9B40, 0x4117CDC4, 0x41219822, 0x412C0426, 0x41371C3D, 0x4142EB7F, 0x414F7DBC, 0x415CDF89, 0x416B1E48, 0x417A4838, 0x41853643, 0x418DCDAB, 0x4196F2ED, 0x41A0AF2E, 0x41AB0C2C, 0x41B61444, 0x41C1D27F, 0x41CE529E, 0x41DBA120, 0x41E9CB55, 0x41F8DF6A, 0x42047639, 0x420D013F, 0x42161951, 0x421FC789, 0x422A1597, 0x42350DC7, 0x4240BB15, 0x424D292E] ++
  [0x425A6481, 0x42687A4B, 0x427778A3, 0x4283B744, 0x428C35F9, 0x429540EF, 0x429EE133, 0x42A92065, 0x42B408C5, 0x42BFA53E, 0x42CC016B, 0x42D929AC, 0x42E72B27, 0x42F613E2, 0x4302F962, 0x430B6BD8, 0x431469C5, 0x431DFC28, 0x43282C95, 0x4333053C, 0x433E90F7, 0x434ADB53, 0x4357F09B, 0x4365DDE6, 0x4374B122, 0x43823C92, 0x438AA2DA, 0x439393D1, 0x439D1868, 0x43A73A24, 0x43B20328, 0x43BD7E3E] ++
  [0x43C9B6E3, 0x43D6B94F, 0x43E49286, 0x43F35063, 0x440180D2, 0x4409DAFE, 0x4412BF11, 0x441C35EF, 0x44264911, 0x44310289, 0x443C6D12, 0x44489418, 0x445583C3, 0x44634903, 0x4471F1A0, 0x4480C621, 0x44891443, 0x4491EB84, 0x449B54BE, 0x44A55959, 0x44B0035B, 0x44BB5D6F, 0x44C772F0, 0x44D44FF5, 0x44E2015B, 0x44F094D6, 0x45000C7D, 0x45084EA6, 0x45111929, 0x451A74D1, 0x45246AFB, 0x452F059D] ++
  [0x453A4F54]

/-- Node `i`. -/
def expNode (i : Nat) : FV := f32 (expNodes.getD i 0)

/-- A value held between two others; NaN stays NaN. -/
def clamp32 (lo hi v : FV) : FV := if v.lt lo then lo else if hi.lt v then hi else v

/-- One half. -/
def half32 : FV := .fin false 1 (-1)

/-- exp(t) as the DPP computes it (R180). -/
def dppExp (t : FV) : FV :=
  match t with
  | .nan => .nan
  | .inf true => expNode 0
  | .inf false => expNode 256
  | t =>
    let u := mul32 (add32 t (ofInteger 8)) (ofInteger 16)
    let g := match u with | .inf n => if n then 0 else 255 | u => clampInt 0 255 u.floor
    let f := clamp32 (ofInteger 0) (ofInteger 1) (sub32 u (ofInteger g))
    let lo := expNode g.toNat
    add32 lo (mul32 (sub32 (expNode (g.toNat + 1)) lo) f)

/-! ### Descriptor fields (R187) -/

/-- PORT. -/
def DppDesc.port (d : DppDesc) : Nat := bits (leAt d.desc 0 1) 0 3
/-- FORMAT: CENTER. -/
def DppDesc.center (d : DppDesc) : Bool := bit (leAt d.desc 0 1) 3
/-- CLASS_WISE. -/
def DppDesc.classWise (d : DppDesc) : Bool := bit (leAt d.desc 0 1) 4
/-- SIZE_EXP. -/
def DppDesc.sizeExp (d : DppDesc) : Bool := bit (leAt d.desc 0 1) 5
/-- Classes. -/
def DppDesc.classes (d : DppDesc) : Nat := bits (leAt d.desc 1 1) 0 6 + 1
/-- Anchors. -/
def DppDesc.numAnchors (d : DppDesc) : Nat := bits (leAt d.desc 2 1) 0 4 + 1
/-- The survivor limit. -/
def DppDesc.limit (d : DppDesc) : Nat := bits (leAt d.desc 3 1) 0 7 + 1
/-- IOU_THR. -/
def DppDesc.iouThr (d : DppDesc) : Nat := leAt d.desc 4 1
/-- SCORE_CH0. -/
def DppDesc.scoreCh (d : DppDesc) : Nat := leAt d.desc 10 2
/-- BOX_CH0. -/
def DppDesc.boxCh (d : DppDesc) : Nat := leAt d.desc 12 2
/-- Cells across. -/
def DppDesc.gw (d : DppDesc) : Nat := leAt d.desc 14 1 + 1
/-- Cells down. -/
def DppDesc.gh (d : DppDesc) : Nat := leAt d.desc 15 1 + 1
/-- An FP32 field. -/
def DppDesc.fp (d : DppDesc) (o : Nat) : FV := f32 (leAt d.desc o 4)

/-! ### Head elements (R179) -/

/-- Element (gx, gy, ch) of a head plane. -/
def headIndex (l : LayerSt) (gx gy ch : Nat) : Nat := (gy * l.outW + gx) * l.outC + ch

/-- A head element as FP32 with zero point and scale (R179). -/
def headValue (l : LayerSt) (zp : Int) (scale : FV) (gx gy ch : Nat) : FV :=
  let w := l.act.getD (headIndex l gx gy ch) 0
  if l.fmtOut.isInt then mul32 (ofInteger (l.fmtOut.int w - zp)) scale else l.fmtOut.value w

/-- Whether a head element is poisoned. -/
def headPoison (l : LayerSt) (gx gy ch : Nat) : Bool := SMap.get l.poisonAct false (headIndex l gx gy ch)

/-- The two heads of a descriptor as functions. -/
structure Heads where
  scoreLayer : LayerSt
  boxLayer : LayerSt
  scoreZp : Int
  boxZp : Int
  scoreScale : FV
  boxScale : FV

/-- The heads of descriptor `d`. -/
def State.dppHeads (s : State) (d : DppDesc) : Heads :=
  let p := s.heads d
  { scoreLayer := s.layer p.1, boxLayer := s.layer p.2, scoreZp := toSigned 16 (leAt d.desc 40 2), boxZp := toSigned 16 (leAt d.desc 42 2),
    scoreScale := d.fp 36, boxScale := d.fp 44 }

/-- A score element. -/
def Heads.score (h : Heads) (gx gy ch : Nat) : FV := headValue h.scoreLayer h.scoreZp h.scoreScale gx gy ch

/-- A box element. -/
def Heads.box (h : Heads) (gx gy ch : Nat) : FV := headValue h.boxLayer h.boxZp h.boxScale gx gy ch

/-- Whether one of four box elements is poisoned. -/
def Heads.boxPoison (h : Heads) (gx gy ch : Nat) : Bool := (List.range 4).any fun k => headPoison h.boxLayer gx gy (ch + k)

/-! ### Candidates (R181–R183) -/

/-- A candidate: class, score, corners, candidate index, poison. -/
structure Cand where
  cls : Nat
  score : FV
  x0 : FV
  y0 : FV
  x1 : FV
  y1 : FV
  index : Nat
  poison : Bool
  deriving DecidableEq, Repr

/-- The corners of a box from its centre and size (R183), not yet clipped. -/
def Cand.ofBox (cls : Nat) (score cx cy w h : FV) (index : Nat) (poison : Bool) : Cand :=
  let hw := mul32 w half32
  let hh := mul32 h half32
  { cls := cls, score := score, x0 := sub32 cx hw, y0 := sub32 cy hh, x1 := add32 cx hw, y1 := add32 cy hh, index := index, poison := poison }

/-- The class of the largest score; NaN counts as larger than every other value, the lower class wins (R181). -/
def bestClass (best : Nat × FV) : List (Nat × FV) → Nat × FV
  | [] => best
  | x :: l => bestClass (if best.2 == .nan then best else if x.2 == .nan || best.2.lt x.2 then x else best) l

/-- The candidate of cell (gx, gy) and anchor `a` (R181). [DEDUCED, log entry 65] -/
def anchorCand (d : DppDesc) (h : Heads) (gx gy a : Nat) : Cand :=
  let n := d.classes
  let ch := d.scoreCh + a * n
  let best := bestClass (0, h.score gx gy ch) ((List.range (n - 1)).map fun k => (k + 1, h.score gx gy (ch + k + 1)))
  let bc := d.boxCh + 4 * a
  let size := d.anchors.getD a (0, 0)
  let cx := add32 (mul32 (add32 (add32 (ofInteger gx) half32) (h.box gx gy bc)) (d.fp 20)) (d.fp 28)
  let cy := add32 (mul32 (add32 (add32 (ofInteger gy) half32) (h.box gx gy (bc + 1))) (d.fp 24)) (d.fp 32)
  let w := mul32 (f32 size.1) (dppExp (h.box gx gy (bc + 2)))
  let hh := mul32 (f32 size.2) (dppExp (h.box gx gy (bc + 3)))
  let poison := ((List.range n).any fun k => headPoison h.scoreLayer gx gy (ch + k)) || h.boxPoison gx gy bc
  Cand.ofBox best.1 best.2 cx cy w hh ((gy * d.gw + gx) * d.numAnchors + a) poison

/-- The neighbours of a cell inside the plane: coordinates, and whether earlier in raster order. -/
def neighbours (gw gh gx gy : Nat) : List (Nat × Nat × Bool) :=
  ([(-1, -1), (0, -1), (1, -1), (-1, 0), (1, 0), (-1, 1), (0, 1), (1, 1)] : List (Int × Int)).filterMap fun o =>
    let x := (gx : Int) + o.1
    let y := (gy : Int) + o.2
    if 0 ≤ x ∧ x < gw ∧ 0 ≤ y ∧ y < gh then some (x.toNat, y.toNat, decide (o.2 < 0 ∨ (o.2 = 0 ∧ o.1 < 0))) else none

/-- Whether an earlier neighbour, or a later one, of a cell lies outside the plane. -/
def outside (gw gh gx gy : Nat) (earlier : Bool) : Bool :=
  decide (((neighbours gw gh gx gy).filter fun n => n.2.2 == earlier).length < 4)

/-- Whether cell (gx, gy) is a peak of class `k`; a neighbour outside the plane counts as −∞ (R182). -/
def isPeak (d : DppDesc) (h : Heads) (gx gy k : Nat) : Bool :=
  let v := h.score gx gy (d.scoreCh + k)
  let tests := fun (earlier : Bool) (u : FV) => if earlier then u.lt v else u.le v
  v != .nan && ((neighbours d.gw d.gh gx gy).all fun n => tests n.2.2 (h.score n.1 n.2.1 (d.scoreCh + k)))
    && (!outside d.gw d.gh gx gy true || tests true (.inf true)) && (!outside d.gw d.gh gx gy false || tests false (.inf true))

/-- The candidate of cell (gx, gy) of class `k` (R182). [DEDUCED, log entry 65] -/
def centerCand (d : DppDesc) (h : Heads) (gx gy k : Nat) : Option Cand :=
  if !isPeak d h gx gy k then none else
  let sz := fun v => if d.sizeExp then dppExp v else v
  let cx := add32 (mul32 (add32 (ofInteger gx) (h.box gx gy d.boxCh)) (d.fp 20)) (d.fp 28)
  let cy := add32 (mul32 (add32 (ofInteger gy) (h.box gx gy (d.boxCh + 1))) (d.fp 24)) (d.fp 32)
  let w := mul32 (sz (h.box gx gy (d.boxCh + 2))) (d.fp 20)
  let hh := mul32 (sz (h.box gx gy (d.boxCh + 3))) (d.fp 24)
  let poison := headPoison h.scoreLayer gx gy (d.scoreCh + k) || h.boxPoison gx gy d.boxCh
    || (neighbours d.gw d.gh gx gy).any fun n => headPoison h.scoreLayer n.1 n.2.1 (d.scoreCh + k)
  some (Cand.ofBox k (h.score gx gy (d.scoreCh + k)) cx cy w hh ((gy * d.gw + gx) * d.classes + k) poison)

/-- Every candidate of a descriptor, by candidate index. -/
def candidates (d : DppDesc) (h : Heads) : List Cand :=
  (List.range d.gh).flatMap fun gy => (List.range d.gw).flatMap fun gx =>
    if d.center then (List.range d.classes).filterMap fun k => centerCand d h gx gy k
    else (List.range d.numAnchors).map fun a => anchorCand d h gx gy a

/-- A candidate clipped to the sensor (R183). -/
def Cand.clip (c : Cand) (w h : Nat) : Cand :=
  let cx := clamp32 (ofInteger 0) (ofInteger w)
  let cy := clamp32 (ofInteger 0) (ofInteger h)
  { c with x0 := cx c.x0, x1 := cx c.x1, y0 := cy c.y0, y1 := cy c.y1 }

/-- Whether a candidate is below the floor: dropped and not counted (R183). -/
def Cand.low (c : Cand) (floor : FV) : Bool := c.score.lt floor

/-- Whether a clipped candidate is discarded (R183). -/
def Cand.discarded (c : Cand) : Bool :=
  c.score == .nan || c.x0 == .nan || c.x1 == .nan || c.y0 == .nan || c.y1 == .nan || c.x1.le c.x0 || c.y1.le c.y0

/-- Whether candidate `a` stands before `b` in candidate order (R184). -/
def Cand.before (a b : Cand) : Bool := b.score.lt a.score || (!(a.score.lt b.score) && decide (a.index < b.index))

/-- A candidate put into a list in candidate order. -/
def insertCand (c : Cand) : List Cand → List Cand
  | [] => [c]
  | b :: l => if b.before c then b :: insertCand c l else c :: b :: l

/-- Candidate order (R184). -/
def sortCands (l : List Cand) : List Cand := l.foldr insertCand []

/-! ### Suppression (R185) -/

/-- The smaller of two values. -/
def min32 (a b : FV) : FV := if b.lt a then b else a

/-- The larger of two values. -/
def max32 (a b : FV) : FV := if a.lt b then b else a

/-- The area of a box. -/
def Cand.area (c : Cand) : FV := mul32 (sub32 c.x1 c.x0) (sub32 c.y1 c.y0)

/-- The intersection area of two boxes. [DESIGN CHOICE, log entry 66] -/
def meetArea (a b : Cand) : FV :=
  let w := sub32 (min32 a.x1 b.x1) (max32 a.x0 b.x0)
  let h := sub32 (min32 a.y1 b.y1) (max32 a.y0 b.y0)
  if (ofInteger 0).lt w && (ofInteger 0).lt h then mul32 w h else ofInteger 0

/-- Whether the overlap of `a` and `b` is tested once `a` is selected (R185). -/
def tested (d : DppDesc) (a b : Cand) : Bool := !d.classWise || a.cls == b.cls

/-- Whether selecting `a` suppresses `b` (R185). [DESIGN CHOICE, log entry 66] -/
def suppresses (d : DppDesc) (a b : Cand) : Bool :=
  let i := meetArea a b
  let u := sub32 (add32 a.area b.area) i
  tested d a b && (mul32 (ofInteger d.iouThr) u).lt (mul32 (ofInteger 256) i)

/-- A candidate that has passed the test against the selected `a`: poison of `a` entered its selection (R186). -/
def Cand.passed (d : DppDesc) (a b : Cand) : Cand := { b with poison := b.poison || (a.poison && tested d a b) }

/-- Up to `n` selections over candidates in order: the survivors, and the candidates left neither selected nor suppressed. -/
def suppress (d : DppDesc) : Nat → List Cand → List Cand × List Cand
  | 0, l => ([], l)
  | _, [] => ([], [])
  | n + 1, c :: l =>
    let r := suppress d n ((l.filter fun b => !suppresses d c b).map fun b => b.passed d c)
    (c :: r.1, r.2)

/-- A survivor handed to the FTU (R186); corners as FP32 codes. -/
def Cand.detection (c : Cand) (port die : Nat) : Detection :=
  { port := port, cls := c.cls, score := code32 c.score, x0 := code32 c.x0, y0 := code32 c.y0, x1 := code32 c.x1, y1 := code32 c.y1,
    cand := c.index, die := die, poison := c.poison }

/-- Descriptor `i` of the set runs (R178–R186); a failing word of a queue of the DPP poisons its survivors (R436). -/
def State.runDpp (s : State) (die i : Nat) (d : DppDesc) (parity : Bool) : State :=
  let all := candidates d (s.dppHeads d)
  let above := (all.filter fun c => !c.low (d.fp 16)).map fun c => c.clip (s.width d.port) (s.height d.port)
  let good := above.filter fun c => !c.discarded
  let kept := (sortCands good).take 4096
  let r := suppress d d.limit kept
  let s1 := ((((s.add R.cntDppCand good.length).add R.cntDppDiscard (above.length - good.length)).add R.cntDppOverflow (good.length - kept.length)).add
    R.cntDppTrunc r.2.length).add R.cntDppSurv r.1.length
  let s2 := ((s1.when (decide (kept.length < good.length)) fun s => s.setFlag R.tnsPostStatusCandOvf true).when (!r.2.isEmpty) fun s =>
    s.setFlag R.tnsPostStatusSurvTrunc true).count die 21 good.length
  s2.setTns { s2.tns with dppDone := s2.tns.dppDone ++ [i], dets := s2.tns.dets ++ r.1.map fun c => { c.detection d.port die with poison := c.poison || parity } }

/-- Whether descriptor `d` is ready on die `die`: its heads are live there and complete (R178, R454). -/
def State.dppReady (s : State) (die : Nat) (d : DppDesc) : Bool :=
  let p := s.heads d
  (s.layer p.1).die == die && s.dppLive d
    && s.layerDone p.1 && s.producersDone p.1 && s.layerDone p.2 && s.producersDone p.2

/-- The next descriptor that die `die` runs in this tick. -/
def State.nextDpp (s : State) (die : Nat) : Option (DppDesc × Nat) :=
  s.dpps.zipIdx.find? fun d => !s.tns.dppDone.contains d.2 && s.dppReady die d.1

/-- Reads of the head planes of descriptor `d` find what `hits` says (R439). -/
def State.readHeads (s : State) (d : DppDesc) (hits : List MemHit) : State :=
  let p := s.heads d
  (s.readLayer hits p.1).when (p.2 != p.1) fun s => s.readLayer hits p.2

/-- DPP_RUN (R178): the die's DPP runs its first ready descriptor. -/
def execDppRun (die : Fin 2) (parity : Bool) (hits : List MemHit) (s : State) : Host.Outcome State Fault Refusal :=
  .next (s.clocked (if !s.tns.working then s else match s.nextDpp die with
    | some d => ((s.readHeads d.1 hits).parityCheck parity die 0).runDpp die d.2 d.1 parity
    | none => s))

end Sys2Proof.Machine
end

