-- ==== Sys2Proof/Machine/Fusion.lean ====
section
/-! DEFINITION. Fusion: source slots, alignment, monitors and the contradiction test (R262–R267, R272–R275). -/

namespace Sys2Proof.Machine

/-- The fusion and tracking unit replaced. -/
def State.setFtu (s : State) (f : Ftu) : State := { s with ftu := f }

/-- Slot `k`. -/
def State.slot (s : State) (k : Nat) : SourceSlot := SMap.get s.ftu.slots {} k

/-- Slot `k` replaced. -/
def State.setSlot (s : State) (k : Nat) (v : SourceSlot) : State := s.setFtu { s.ftu with slots := SMap.set s.ftu.slots {} k v }

/-- Quantity `q`. -/
def State.quant (s : State) (q : Nat) : Quantity := SMap.get s.ftu.quant {} q

/-- Quantity `q` replaced. -/
def State.setQuant (s : State) (q : Nat) (v : Quantity) : State := s.setFtu { s.ftu with quant := SMap.set s.ftu.quant {} q v }

/-- The instant of tick `n` in ns (R265). -/
def instantOf (n : Nat) : Nat := (n + 1) * tickNs

/-- `n` free codes of `w` bits, from free value `i` on. -/
def freeCodes (i n w : Nat) : List Nat := (List.range n).map fun k => Config.free (i + k) % 2 ^ w

/-! ### Source slots (R262, R263) -/

/-- KIND of slot `k`, held in its range (R289). -/
def State.kind (s : State) (k : Nat) : Nat := s.getIn (R.ftuSrcCfgKind k) 0 7

/-- GROUP of slot `k`. -/
def State.group (s : State) (k : Nat) : Nat := s.get (R.ftuSrcCfgGroup k)

/-- The slots in use. -/
def State.usedSlots (s : State) : List Nat := (List.range 64).filter fun k => s.kind k != 0

/-- Whether slot `k` reads samples of `o` (R262). -/
def State.reads (s : State) (k : Nat) (o : Origin) : Bool :=
  let i := s.get (R.ftuSrcCfgIndex k)
  match s.kind k with
  | 1 => o == .chan i
  | 2 | 3 => if s.flag (R.ftuSrcCfgFromCan k) then o == .can i else o == .chan i
  | 4 => o == .gga
  | 5 => o == .rmc
  | _ => false

/-- A slot's value: the product rounded before the sum (R262). -/
def State.scaleRaw (s : State) (k raw : Nat) : Nat :=
  code32 (add32 (mul32 (f32 raw) (f32 (s.get (R.ftuSrcScaleScale k)))) (f32 (s.get (R.ftuSrcOfsOfs k))))

/-- The values slot `k` draws from a sample (R262): a channel or CAN value, the speed of an RMC, the three coordinates of a GGA in the run frame. How a sentence's numbers become raw is a function of them that the spec does not give. [DESIGN CHOICE, log entry 98] -/
def State.slotVals (s : State) (k : Nat) (x : Sample) : List Nat :=
  match x.origin with
  | .chan _ | .can _ => [s.scaleRaw k (x.vals.getD 0 0)]
  | .rmc => [s.scaleRaw k (Config.gnssRaw none x.vals 0 % 2 ^ 32)]
  | .gga => (List.range 3).map fun i => s.scaleRaw k (Config.gnssRaw s.ftu.frame x.vals i % 2 ^ 32)

/-- The slot number that breaks R263, if any. -/
def State.srcFault (s : State) : Option Nat :=
  s.usedSlots.find? fun k => if s.kind k = 1 then s.group k != 0 else s.group k == 0

/-! ### Taking samples in (R266, R272, R282, R284, R285) -/

/-- A sample put in stamp order. -/
def insertSample (x : SlotSample) : List SlotSample → List SlotSample
  | [] => [x]
  | y :: l => if y.stamp ≤ x.stamp then y :: insertSample x l else x :: y :: l

/-- The last 64 of a list. -/
def last64 (l : List SlotSample) : List SlotSample := l.drop (l.length - 64)

/-- A sample enters a slot's 64 most recent. -/
def SourceSlot.take (v : SourceSlot) (x : SlotSample) : SourceSlot := { v with samples := last64 (insertSample x v.samples) }

/-- A slot notes the arrival of a sample at `t` (R272). -/
def SourceSlot.arrive (v : SourceSlot) (vals : List Nat) (t : Nat) : SourceSlot :=
  { v with arrivals := t :: v.arrivals, lastArrival := some t, same := if v.lastVals = vals then v.same + 1 else 1, lastVals := vals }

/-- What became of the samples of a pass: the earliest late stamp inside the history, and whether a clone was met. -/
structure Intake where
  late : Option Nat := none
  clone : Bool := false
  poison : Bool := false
  deriving DecidableEq, Repr

/-- The lesser of two stamps, where there are any. -/
def earliest (a : Option Nat) (b : Nat) : Option Nat := some (match a with | some x => min x b | none => b)

/-- Whether slot `k` updates nothing for a reason that outlasts a pass: masked by a test or CONTRA, or withheld. -/
def State.barred (s : State) (k : Nat) : Bool :=
  !(s.slot k).tests.isEmpty || (s.slot k).contra != 0 || s.flag (R.ftuSrcStatWithheld k)

/-- Slots `ks` take a sample in. -/
def State.takeIn (s : State) (ks : List Nat) (x : Sample) : State :=
  s.each ks fun s k => s.setSlot k ((s.slot k).take ⟨x.stamp, s.slotVals k x, x.poison⟩)

/-- One sample that reached the FTU since the last pass. A sample that no slot reads has no effect. [DESIGN CHOICE, log entry 97] -/
def State.intake (r : State × Intake) (x : Sample) : State × Intake :=
  let s := r.1
  let ks := (List.range 64).filter fun k => s.reads k x.origin
  if ks.isEmpty then r else
  let s1 := s.each ks fun s k => s.setSlot k ((s.slot k).arrive (if x.origin = .gga ∨ x.origin = .rmc then x.vals else s.slotVals k x) x.arrived)
  let gnss := x.origin == .gga || x.origin == .rmc
  let done := s1.takeIn ks x
  if x.stamp < instantOf s.ftu.first then (s1, r.2)
  else match s.ftu.passed.head? with
    | none => (done, r.2)
    | some p =>
      let ip := instantOf p.tick
      if ip < x.stamp then (done, r.2)
      else if ip < x.stamp + 400000 then (done, { r.2 with late := earliest r.2.late x.stamp })
      else if gnss && s.ftu.cur.clones.any (fun c => c.p == x.stamp) then
        let live := ks.any fun k => !s.barred k
        (done, { r.2 with clone := r.2.clone || live, poison := r.2.poison || (live && x.poison) })
      else ((s1.inc R.cntLateDrop).setFlag R.ftuStatusLateDrop true, r.2)

/-- The flow values of tick `n` on the enabled ports (R264). -/
def State.tickFlows (s : State) (n : Nat) : List FlowSample :=
  s.cv.flows.filter fun f => tickOf f.time == n && bit (s.get R.ftuVisFlowPortEn) f.port

/-- A pixel point through a port's homography, row-major: ground x and y in metres; none at or above the horizon (R276). [DESIGN CHOICE, log entry 102] -/
def State.mapPoint (s : State) (p : Nat) (u v : FV) : Option (FV × FV) :=
  let h := fun i => f32 (s.get (R.ftuHomH p i))
  let comp := fun r => add32 (add32 (mul32 (h (3 * r)) u) (mul32 (h (3 * r + 1)) v)) (h (3 * r + 2))
  let w := comp 2
  if (ofInteger 0).lt w then some (div32 (comp 0) w, div32 (comp 1) w) else none

/-- A flow value projected at its pixel (R264): its ground point and the velocity of the image point over the ground in m/s; none above the horizon. [DESIGN CHOICE, log entry 102] -/
def State.groundFlow (s : State) (f : FlowSample) : Option ((FV × FV) × (FV × FV)) :=
  let h := fun i => f32 (s.get (R.ftuHomH f.port i))
  let u := ofInteger f.x
  let v := ofInteger f.y
  let du := mul32 (ofInteger 1000) (decodeF fp16 f.vx)
  let dv := mul32 (ofInteger 1000) (decodeF fp16 f.vy)
  let rate := fun r => add32 (mul32 (h (3 * r)) du) (mul32 (h (3 * r + 1)) dv)
  let w := add32 (add32 (mul32 (h 6) u) (mul32 (h 7) v)) (h 8)
  (s.mapPoint f.port u v).map fun g =>
    (g, (div32 (sub32 (rate 0) (mul32 g.1 (rate 2))) w, div32 (sub32 (rate 1) (mul32 g.2 (rate 2))) w))

/-- The FP32 sum of a function over points, in their order. -/
def sumOf (l : List ((FV × FV) × (FV × FV))) (f : (FV × FV) × (FV × FV) → FV) : FV := (l.map f).foldl add32 (ofInteger 0)

/-- Forward speed and yaw rate fitted by least squares (R264): the ground stands still, so a point at (x, y) moves at (y × rate − speed, −x × rate) as the vehicle sees it. Where the points allow no single fit the values are free. [DEDUCED, log entry 98; DESIGN CHOICE, log entry 102] -/
def fitMotion (l : List ((FV × FV) × (FV × FV))) : List Nat :=
  let n := ofInteger l.length
  let sy := sumOf l fun p => p.1.2
  let sq := sumOf l fun p => add32 (mul32 p.1.1 p.1.1) (mul32 p.1.2 p.1.2)
  let bs := (sumOf l fun p => p.2.1).neg
  let bw := sumOf l fun p => sub32 (mul32 p.1.2 p.2.1) (mul32 p.1.1 p.2.2)
  let det := sub32 (mul32 n sq) (mul32 sy sy)
  let flat := Config.visFlat (l.map fun p => (code32 p.1.1, code32 p.1.2, code32 p.2.1, code32 p.2.2))
  if det.isZero || det == .nan then [flat.1 % 2 ^ 32, flat.2 % 2 ^ 32]
  else [code32 (div32 (add32 (mul32 bs sq) (mul32 sy bw)) det), code32 (div32 (add32 (mul32 n bw) (mul32 sy bs)) det)]

/-- The samples of the visual sources for tick `n`, stamped at its closing instant (R264): the fit over the flow values that can be projected, where there are FLOW_MIN of them, and the head's values as they were at completion. -/
def State.takeVisual (s : State) (n : Nat) : State :=
  let flows := (s.tickFlows n).filter fun f => (s.groundFlow f).isSome
  let flow := decide (s.getIn R.ftuVisFlowFlowMin 3 255 ≤ flows.length)
  let r := SMap.get s.tns.results {} n
  let lost := s.offline dieMsd0 || s.offline dieMsd1
  let s1 := s.each s.usedSlots fun s k =>
    let x : SlotSample := if s.kind k = 6 then ⟨instantOf n, fitMotion (flows.filterMap s.groundFlow), flows.any (·.poison)⟩ else ⟨instantOf n, r.head, r.headPoison⟩
    if !lost && ((s.kind k == 6 && flow) || (s.kind k == 7 && r.done && r.head != [])) then
      s.setSlot k (((s.slot k).arrive x.vals s.now).take x)
    else s
  { s1 with cv := { s1.cv with flows := s1.cv.flows.filter fun f => decide (n < tickOf f.time) } }

/-! ### Alignment (R266, R267) -/

/-- An aligned value: FP32 codes, whether by extrapolation, whether poisoned. -/
structure Aligned where
  vals : List Nat
  extrap : Bool := false
  poison : Bool := false
  deriving DecidableEq, Repr

/-- An integer number of ns as FP32. -/
def ns32 (a : Int) : FV := round32 (ofInteger a)

/-- v_a + (v_b − v_a) × u / d (R266). [DESIGN CHOICE, log entry 102] -/
def lerp (va vb : FV) (u d : Int) (base : FV) : FV := add32 base (div32 (mul32 (sub32 vb va) (ns32 u)) (ns32 d))

/-- The cubic Hermite value at u of d with end tangents ma and mb per ns (R266). [DESIGN CHOICE, log entry 102] -/
def hermite (va vb ma mb : FV) (u d : Int) : FV :=
  let t := div32 (ns32 u) (ns32 d)
  let t2 := mul32 t t
  let t3 := mul32 t2 t
  let h01 := sub32 (mul32 (ofInteger 3) t2) (mul32 (ofInteger 2) t3)
  let h10 := add32 (sub32 t3 (mul32 (ofInteger 2) t2)) t
  let h11 := sub32 t3 t2
  let tang := mul32 (ns32 d) (add32 (mul32 h10 ma) (mul32 h11 mb))
  add32 (add32 (mul32 (sub32 (ofInteger 1) h01) va) (mul32 h01 vb)) tang

/-- The tangent between two samples. -/
def tangent (va vb : FV) (d : Int) : FV := div32 (sub32 vb va) (ns32 d)

/-- Component `i` of a sample. -/
def SlotSample.val (x : SlotSample) (i : Nat) : FV := f32 (x.vals.getD i 0)

/-- The aligned value between two samples. -/
def between (cubic : Bool) (before : Option SlotSample) (a b : SlotSample) (after : Option SlotSample) (t : Nat) : Aligned :=
  let u : Int := (t : Int) - a.stamp
  let d : Int := (b.stamp : Int) - a.stamp
  match cubic, before, after with
  | true, some p, some n =>
    { vals := (List.range b.vals.length).map fun i =>
        let ma := tangent (p.val i) (b.val i) ((b.stamp : Int) - p.stamp)
        let mb := tangent (a.val i) (n.val i) ((n.stamp : Int) - a.stamp)
        code32 (hermite (a.val i) (b.val i) ma mb u d),
      poison := a.poison || b.poison || p.poison || n.poison }
  | _, _, _ =>
    { vals := (List.range b.vals.length).map fun i => code32 (lerp (a.val i) (b.val i) u d (a.val i)), poison := a.poison || b.poison }

/-- The value by extrapolation from the latest sample `b`, and the one before it. -/
def extrapolate (a : Option SlotSample) (b : SlotSample) (t : Nat) : Aligned :=
  match a with
  | none => { vals := b.vals, extrap := true, poison := b.poison }
  | some a =>
    let u : Int := (t : Int) - b.stamp
    let d : Int := (b.stamp : Int) - a.stamp
    { vals := (List.range b.vals.length).map fun i => code32 (lerp (a.val i) (b.val i) u d (b.val i)), extrap := true, poison := a.poison || b.poison }

/-- The aligned value of samples in stamp order at instant `t` (R266). -/
def align (cubic : Bool) (extrapMax : Nat) (l : List SlotSample) (t : Nat) : Option Aligned :=
  let before := l.filter fun x => decide (x.stamp < t)
  let after := l.filter fun x => decide (t < x.stamp)
  match l.find? fun x => x.stamp == t with
  | some x => some { vals := x.vals, poison := x.poison }
  | none =>
    match before.reverse, after with
    | a :: p, b :: n => some (between cubic p.head? a b n.head? t)
    | b :: p, [] => if t - b.stamp ≤ extrapMax * tickNs then some (extrapolate p.head? b t) else none
    | [], _ => none

/-- The aligned value of slot `k` at the instant of tick `n`. -/
def State.aligned (s : State) (k n : Nat) : Option Aligned :=
  align (s.flag (R.ftuSrcCfgCubic k)) (s.get (R.ftuSrcCfgExtrapMax k)) (s.slot k).samples (instantOf n)

/-- Whether slot `k` is fresh at the instant of tick `n` (R267). -/
def State.fresh (s : State) (k n : Nat) : Bool :=
  if s.flag (R.ftuSrcCfgEvery k) then (s.aligned k n).isSome
  else (s.slot k).samples.any fun x => decide (instantOf n < x.stamp + tickNs) && decide (x.stamp ≤ instantOf n)

/-- Slots aligned by extrapolation counted (R266). -/
def State.countExtrap (s : State) (n : Nat) : State :=
  s.add R.cntExtrap (s.usedSlots.filter fun k => match s.aligned k n with | some a => a.extrap | none => false).length

/-! ### Monitors (R272) -/

/-- The number of passes a masked slot's test must pass. -/
def State.unmaskN (s : State) : Nat := s.getIn R.ftuContraUnmaskN 1 65535

/-- The mean of FP32 codes. -/
def mean32 (l : List Nat) : FV := div32 (l.foldl (fun a w => add32 a (f32 w)) (ofInteger 0)) (ofInteger l.length)

/-- Whether slot `k` reads a filter channel that is settling (R255). -/
def State.settling (s : State) (k : Nat) : Bool :=
  let i := s.get (R.ftuSrcCfgIndex k)
  s.reads k (.chan i) && s.chanOn i && !s.flag (R.fltChStatSettled i)

/-- Whether test `t` (ABSENT 1, STUCK 3, RATE 4, CHI 5) fails for slot `k` (R272). [DEDUCED, log entry 101] -/
def State.testFails (s : State) (k t : Nat) : Bool :=
  let v := s.slot k
  match t with
  | 1 => s.settling k || decide ((v.lastArrival.getD s.ftu.startAt) + s.getIn (R.ftuSrcMonAbsentT k) 1 65535 * tickNs ≤ s.now)
  | 3 => s.flag (R.ftuSrcMonStuckN k) && decide (s.get (R.ftuSrcMonStuckN k) ≤ v.same)
  | 4 =>
    let n := (v.arrivals.filter fun a => decide (s.now < a + 1024 * tickNs)).length
    let lo := s.get (R.ftuSrcRateRateMin k)
    let hi := s.get (R.ftuSrcRateRateMax k)
    !(lo == 0 && hi == 0) && (decide (n < lo) || decide (hi < n))
  | _ =>
    let gate := f32 (s.get (R.ftuSrcChiGateChiGate k))
    !(gate.le (ofInteger 0) && (ofInteger 0).le gate) && !v.chi.isEmpty
      && gate.lt (mean32 (v.chi.take (s.getIn (R.ftuSrcChiChiWin k) 1 255)))

/-- A masking test after one more pass: it masks from its failure until it has passed UNMASK_N times running. -/
def stepTest (fails : Bool) (n t : Nat) (m : SMap Nat) : SMap Nat :=
  if fails then SMap.put t 0 m
  else match SMap.find? t m with
    | some c => if n ≤ c + 1 then SMap.del t m else SMap.put t (c + 1) m
    | none => m

/-- The monitor tests of every slot for one pass. -/
def State.runTests (s : State) : State :=
  s.each s.usedSlots fun s k =>
    let v := s.slot k
    let m := [1, 3, 4, 5].foldl (fun m t => stepTest (s.testFails k t) s.unmaskN t m) v.tests
    s.setSlot k { v with tests := m, arrivals := v.arrivals.filter fun a => decide (s.now < a + 1024 * tickNs) }

/-- The reason a slot is masked for at tick `n`: the lowest code that applies; 0 for none. [DEDUCED, log entry 101] -/
def State.maskReason (s : State) (k n : Nat) : Nat :=
  let v := s.slot k
  let codes := v.tests.map (·.1) ++ (if (s.aligned k n).isNone then [2] else []) ++ (if v.contra != 0 then [6] else [])
  codes.foldl min 7 % 7

/-! ### Mode (R269, R270) -/

/-- The slot that gives axis `a` of IMU `m`. -/
def State.axisSlot (s : State) (m a : Nat) : Option Nat :=
  s.usedSlots.find? fun k => s.kind k == 1 && s.get (R.ftuSrcCfgImuSel k) == m && s.getIn (R.ftuSrcCfgAxis k) 0 5 == a

/-- Whether IMU `m` is healthy: six axis slots, none masked. -/
def State.imuHealthy (s : State) (m : Nat) : Bool :=
  (List.range 6).all fun a => match s.axisSlot m a with
    | some k => !s.flag (R.ftuSrcStatMasked k)
    | none => false

/-- The IMU that drives prediction. -/
def State.driver (s : State) : Option Nat := (List.range 2).find? fun m => s.imuHealthy m

/-- Whether the filter runs in VISUAL mode (R269). -/
def State.visual (s : State) : Bool := s.flag R.ftuEgoVisOnly || s.driver.isNone

/-- The mode decided at the start of a pass (R270): a change begins the ramp. -/
def State.decideMode (s : State) : State :=
  let changed := s.visual != s.flag R.ftuStatusMode && !s.ftu.passed.isEmpty
  let j := if changed then some 1 else match s.ftu.ramp with
    | some j => if s.getIn R.ftuEgoRampTicks 1 65535 ≤ j then none else some (j + 1)
    | none => none
  (s.setFlag R.ftuStatusMode s.visual).setFtu { s.ftu with ramp := j }

/-! ### Opinions and contradictions (R274, R275) -/

/-- The component of slot `k`'s value that speaks on quantity `q` (FWD_SPEED 0, YAW_RATE 1), if any (R262). -/
def State.speaks (s : State) (q k : Nat) : Option Nat :=
  match s.kind k, q with
  | 2, 0 => some 0
  | 3, 1 => some 0
  | 5, 0 => some 0
  | 6, 0 => some 0
  | 6, 1 => some 1
  | 7, 0 => some 0
  | 7, 1 => some 5
  | _, _ => none

/-- The value that slot `k` gives to the opinion on `q` at tick `n`. -/
def State.voice (s : State) (q k n : Nat) : Option FV :=
  match s.speaks q k, s.aligned k n with
  | some i, some a => if (s.slot k).tests.isEmpty then some (f32 (a.vals.getD i 0)) else none
  | _, _ => none

/-- The mean of values in slot order. -/
def meanOf (l : List FV) : FV := div32 (l.foldl add32 (ofInteger 0)) (ofInteger l.length)

/-- The aligned value of a gyro z slot that no monitor test masks (R262, R272). -/
def State.gyroVoice (s : State) (k n : Nat) : Option FV :=
  match s.aligned k n with
  | some a => if (s.slot k).tests.isEmpty then some (f32 (a.vals.getD 0 0)) else none
  | none => none

/-- The IMU slots of the gyro z axis. -/
def State.gyroSlots (s : State) : List Nat := s.usedSlots.filter fun k => s.kind k == 1 && s.getIn (R.ftuSrcCfgAxis k) 0 5 == 2

/-- Group 0's opinion (R262, R274): in INERTIAL mode the predicted forward speed, which is free, or the driving IMU's bias-corrected gyro z; in VISUAL mode, as for any group, the mean of its slots on the quantity, which are the gyro z slots. [DEDUCED, log entry 101] -/
def State.inertialVoice (s : State) (q n : Nat) : Option FV :=
  let mean := if q = 0 then none else
    let vs := s.gyroSlots.filterMap fun k => s.gyroVoice k n
    if vs.isEmpty then none else some (meanOf vs)
  if s.flag R.ftuStatusMode then mean else
  match s.driver with
  | none => mean
  | some m =>
    if q = 0 then some (f32 (Config.free (s.free + 1) % 2 ^ 32)) else
    match s.axisSlot m 2 with
    | some k => (s.gyroVoice k n).map fun v => sub32 v (f32 (s.ftu.cur.ego.gyroBias.getD 2 0))
    | none => none

/-- The opinions on quantity `q` at tick `n`, by group. -/
def State.opinions (s : State) (q n : Nat) : List (Nat × FV) :=
  (List.range 16).filterMap fun g =>
    if g = 0 then (s.inertialVoice q n).map fun v => (0, v)
    else
      let vs := (s.usedSlots.filter fun k => s.group k == g).filterMap fun k => s.voice q k n
      if vs.isEmpty then none else some (g, meanOf vs)

/-- Whether two opinions agree. -/
def agree (tol : FV) (a b : FV) : Bool := (sub32 a b).abs.le tol

/-- Whether a group agrees with every other. -/
def agreesAll (tol : FV) (ops : List (Nat × FV)) (o : Nat × FV) : Bool := ops.all fun x => x.1 == o.1 || agree tol x.2 o.2

/-- Whether a group is odd (R274). -/
def isOdd (tol : FV) (ops : List (Nat × FV)) (o : Nat × FV) : Bool :=
  let others := ops.filter fun x => x.1 != o.1
  (others.all fun x => !agree tol x.2 o.2)
    && others.any fun x => others.any fun y => x.1 != y.1 && agree tol x.2 y.2

/-- The one odd group, if exactly one is. -/
def oddGroup (tol : FV) (ops : List (Nat × FV)) : Option Nat :=
  match ops.filter fun o => isOdd tol ops o with
  | [o] => some o.1
  | _ => none

/-- The runs of a quantity's conditions after one more pass. -/
def Quantity.stepRuns (v : Quantity) (tol : FV) (ops : List (Nat × FV)) : Quantity :=
  let odd := oddGroup tol ops
  let whole := ops.all fun o => agreesAll tol ops o
  { v with
    odd := odd, oddRun := if odd.isNone then 0 else if odd = v.odd then v.oddRun + 1 else 1,
    splitRun := if !whole && odd.isNone then v.splitRun + 1 else 0,
    agreeRun := if whole then v.agreeRun + 1 else 0,
    groups := (List.range 16).foldl (fun m g => SMap.set m 0 g
      (match ops.find? fun o => o.1 == g with
        | some o => if agreesAll tol ops o then SMap.get v.groups 0 g + 1 else 0
        | none => 0)) v.groups }

/-- CONTRA_N. -/
def State.contraN (s : State) : Nat := s.getIn R.ftuContraContraN 1 65535

/-- The slots of group `g` are masked CONTRA for quantity `q`. -/
def State.maskGroup (s : State) (q g : Nat) : State :=
  s.each (s.usedSlots.filter fun k => s.group k == g) fun s k => s.setSlot k { s.slot k with contra := setBit (s.slot k).contra q true }

/-- Slots masked CONTRA whose group has agreed UNMASK_N times running are readmitted (R275). -/
def State.readmit (s : State) (q : Nat) : State :=
  s.each s.usedSlots fun s k =>
    if bit (s.slot k).contra q && decide (s.unmaskN ≤ SMap.get (s.quant q).groups 0 (s.group k)) then
      s.setSlot k { s.slot k with contra := setBit (s.slot k).contra q false }
    else s

/-- A contradiction of quantity `q` goes on for one more pass, ends or begins (R274). -/
def State.stepContradiction (s : State) (q : Nat) : State :=
  let v := s.quant q
  match v.since with
  | some c => if s.unmaskN ≤ v.agreeRun then s.setQuant q { v with since := none } else s.setQuant q { v with since := some (c + 1) }
  | none =>
    if v.splitRun = s.contraN then
      (((s.setQuant q { v with since := some 1 }).inc R.cntContra).setFlag R.ftuStatusContra true).condition 7
    else s

/-- The contradiction test of quantity `q` at tick `n` (R274, R275). -/
def State.testQuantity (s : State) (n q : Nat) : State :=
  if !s.flag (R.ftuQCfgEn q) then s else
  let ops := s.opinions q n
  let s1 := s.setQuant q ((s.quant q).stepRuns (f32 (s.get (R.ftuQTolTol q))) ops)
  let v := s1.quant q
  let s2 := match v.odd with
    | some g => if v.oddRun = s.contraN then (s1.maskGroup q g).inc R.cntContra else s1
    | none => s1
  (s2.readmit q).stepContradiction q

/-- Whether group `g` is withheld on quantity `q`: all are, but the tie-breaker after HOLD_TICKS passes. -/
def State.groupWithheld (s : State) (q g : Nat) : Bool :=
  match (s.quant q).since with
  | some c => !(decide (s.getIn R.ftuHoldHoldTicks 1 65535 ≤ c) && s.get (R.ftuQCfgTie q) == g)
  | none => false

/-- Whether slot `k` belongs to quantity `q`: it speaks on it, or is a gyro z slot (R262). -/
def State.ofQuantity (s : State) (q k : Nat) : Bool :=
  (s.speaks q k).isSome || (s.kind k == 1 && q == 1 && s.get (R.ftuSrcCfgAxis k) == 2)

/-- Whether slot `k` is withheld. -/
def State.slotWithheld (s : State) (k : Nat) : Bool :=
  (List.range 2).any fun q => s.ofQuantity q k && s.groupWithheld q (s.group k)

/-- The quantities in contradiction, one bit each (CONTRA_Q). -/
def State.contraQ (s : State) : Nat := b2n (s.quant 0).since.isSome + 2 * b2n (s.quant 1).since.isSome

/-- The bits of the slots that satisfy `p`. -/
def slotBits (l : List Nat) (p : Nat → Bool) : Nat := ((l.filter p).map fun k => 2 ^ k).sum

/-- Masks and withholds shown in the registers, for every slot, those out of use showing none; new maskings counted (R272, R289). -/
def State.showSlots (s : State) (n : Nat) : State :=
  let us := s.usedSlots
  let s1 := ((s.set R.ftuMaskedSlots (slotBits us fun k => s.maskReason k n != 0)).set R.ftuWithheldSlots (slotBits us s.slotWithheld))
  s1.each (List.range 64) fun s k =>
    let used := s.kind k != 0
    let r := if used then s.maskReason k n else 0
    let lasting := !(s.slot k).tests.isEmpty || (s.slot k).contra != 0
    let s2 := (((s.setFlag (R.ftuSrcStatMasked k) (r != 0)).set (R.ftuSrcStatReason k) r).setFlag (R.ftuSrcStatWithheld k) (used && s.slotWithheld k))
    (s2.setSlot k { s.slot k with counted := lasting }).when (lasting && !(s.slot k).counted) fun s => s.inc R.cntMask

/-- Step 3 of a pass (R265): monitors and the contradiction test. -/
def State.monitors (s : State) (n : Nat) : State :=
  ((((s.runTests).testQuantity n 0).testQuantity n 1).showSlots n).took 2

end Sys2Proof.Machine
end

