-- ==== Sys2Proof/Machine/Track.lean ====
section
/-! DEFINITION. Ego-motion, projection, tracks, replays and the fused result record (R265, R268–R287). -/

namespace Sys2Proof.Machine

/-- The live estimate replaced. -/
def State.setMoment (s : State) (m : Moment) : State := s.setFtu { s.ftu with cur := m }

/-- The vectors of FP32 codes added, component by component. -/
def addVec (a b : List Nat) : List Nat := a.zipWith (fun x y => code32 (add32 (f32 x) (f32 y))) b

/-- A vector of FP32 codes times a value. -/
def scaleVec (a : List Nat) (c : FV) : List Nat := a.map fun x => code32 (mul32 (f32 x) c)

/-- One vector of FP32 codes less another. -/
def subVec (a b : List Nat) : List Nat := a.zipWith (fun x y => code32 (sub32 (f32 x) (f32 y))) b

/-- ns as seconds in FP32. -/
def seconds (ns : Int) : FV := div32 (ns32 ns) (ofInteger (10 ^ 9))

/-! ### The ego filter (R268–R271) -/

/-- The slots that update the ego filter at tick `n`: fresh, unmasked and not withheld; the visual sources in VISUAL mode only (R267, R269, R272, R275). -/
def State.updaters (s : State) (n : Nat) : List Nat :=
  s.usedSlots.filter fun k => decide (2 ≤ s.kind k) && (decide (s.kind k ≤ 5) || s.flag R.ftuStatusMode)
    && s.fresh k n && (s.aligned k n).isSome && s.maskReason k n == 0 && !s.slotWithheld k

/-- Whether a slot's aligned value is poisoned. -/
def State.alignedPoison (s : State) (n k : Nat) : Bool := match s.aligned k n with | some a => a.poison | none => false

/-- The slots of the driving IMU. -/
def State.driverSlots (s : State) : List Nat :=
  match s.driver with
  | some m => (List.range 6).filterMap fun a => s.axisSlot m a
  | none => []

/-- The driving IMU's angular rate less the gyro bias (R287); free where an axis has no aligned value. -/
def State.gyroRate (s : State) (n : Nat) (bias : List Nat) (i : Nat) : List Nat :=
  (List.range 3).map fun a =>
    match s.driver.bind fun m => (s.axisSlot m a).bind fun k => s.aligned k n with
    | some v => code32 (sub32 (f32 (v.vals.getD 0 0)) (f32 (bias.getD a 0)))
    | none => Config.free (i + a) % 2 ^ 32

/-- A free covariance of `n` components, from free value `i` on: symmetric, no entry of its diagonal below 0. -/
def freeCov (i n : Nat) : List Nat :=
  (List.range (n * n)).map fun k =>
    let r := k / n
    let c := k % n
    Config.free (i + n * min r c + max r c) % (if r = c then 2 ^ 31 else 2 ^ 32)

/-- The standard deviation of component `k` of a covariance of `n` components. -/
def deviation (cov : List Nat) (n k : Nat) : FV := sqrt32 (f32 (cov.getD ((n + 1) * k) 0))

/-- σ in mm: the square root of the larger horizontal position variance (R273), the positions being components 0 and 1. -/
def sigmaMm (cov : List Nat) (n : Nat) : FV :=
  mul32 (ofInteger 1000) (sqrt32 (max32 (f32 (cov.getD 0 0)) (f32 (cov.getD (n + 1) 0))))

/-- The three aligned accelerometer values of the first IMU that has them. -/
def State.accel (s : State) (n : Nat) : Option (FV × FV × FV) :=
  (List.range 2).findSome? fun m =>
    match (s.axisSlot m 3).bind fun k => s.aligned k n, (s.axisSlot m 4).bind fun k => s.aligned k n, (s.axisSlot m 5).bind fun k => s.aligned k n with
    | some x, some y, some z => some (f32 (x.vals.getD 0 0), f32 (y.vals.getD 0 0), f32 (z.vals.getD 0 0))
    | _, _, _ => none

/-- The cosine and the sine of half the angle whose cosine and sine are `c` and `v`. -/
def halfAngle (c v : FV) : FV × FV :=
  let h := fun x => sqrt32 (mul32 half32 (max32 (ofInteger 0) x))
  (h (add32 (ofInteger 1) c), if v.sign then (h (sub32 (ofInteger 1) c)).neg else h (sub32 (ofInteger 1) c))

/-- The attitude with heading 0 under which the acceleration points up (R271), as w, x, y, z. [DESIGN CHOICE, log entry 102] -/
def levelQuat (x y z : FV) : List Nat :=
  let yz := sqrt32 (add32 (mul32 y y) (mul32 z z))
  let all := sqrt32 (add32 (mul32 x x) (mul32 yz yz))
  let r := if yz.isZero then (ofInteger 1, ofInteger 0) else halfAngle (div32 z yz) (div32 y yz)
  let p := if all.isZero then (ofInteger 1, ofInteger 0) else halfAngle (div32 yz all) (div32 x all).neg
  [mul32 p.1 r.1, mul32 p.1 r.2, mul32 p.2 r.1, (mul32 p.2 r.2).neg].map code32

/-- The attitude levelled from the first aligned accelerometer values (R271). -/
def State.levelled (s : State) (n : Nat) (e : Ego) : Ego :=
  if e.levelled then e else
  match s.accel n with
  | some a => { e with quat := levelQuat a.1 a.2.1 a.2.2, levelled := true }
  | none => e

/-- The quaternion product in FP32, each component summed in the order of the first factor. [DESIGN CHOICE, log entry 102] -/
def quatMul (a b : List Nat) : List Nat :=
  let p := fun i j => mul32 (f32 (a.getD i 0)) (f32 (b.getD j 0))
  [sub32 (sub32 (sub32 (p 0 0) (p 1 1)) (p 2 2)) (p 3 3),
   sub32 (add32 (add32 (p 0 1) (p 1 0)) (p 2 3)) (p 3 2),
   add32 (add32 (sub32 (p 0 2) (p 1 3)) (p 2 0)) (p 3 1),
   add32 (sub32 (add32 (p 0 3) (p 1 2)) (p 2 1)) (p 3 0)].map code32

/-- An attitude turned by a constant angular rate of the vehicle for `dt` (R269). [DESIGN CHOICE, log entry 102] -/
def turnQuat (q rate : List Nat) (dt : FV) : List Nat :=
  let v := fun i => mul32 half32 (mul32 (f32 (rate.getD i 0)) dt)
  let norm := sqrt32 (add32 (add32 (mul32 (v 0) (v 0)) (mul32 (v 1) (v 1))) (mul32 (v 2) (v 2)))
  if norm.isZero then q else
  let cs := cosSin norm
  quatMul q (code32 cs.1 :: (List.range 3).map fun i => code32 (mul32 (div32 cs.2 norm) (v i)))

/-- Entry (r, c) of the rotation of an attitude, vehicle to run frame. [DESIGN CHOICE, log entry 102] -/
def rotEntry (q : List Nat) (r c : Nat) : FV :=
  let w := f32 (q.getD 0 0)
  let v := fun i => f32 (q.getD (1 + i % 3) 0)
  if r = c then sub32 (ofInteger 1) (mul32 (ofInteger 2) (add32 (mul32 (v (r + 1)) (v (r + 1))) (mul32 (v (r + 2)) (v (r + 2)))))
  else
    let m := mul32 (v r) (v c)
    let k := mul32 w (v (3 - r - c))
    mul32 (ofInteger 2) (if c = (r + 1) % 3 then sub32 m k else add32 m k)

/-- A vehicle frame point at (x, y, 0) in the run frame, component `r`. -/
def Ego.toRun (e : Ego) (x y : FV) (r : Nat) : FV :=
  add32 (f32 (e.pos.getD r 0)) (add32 (mul32 (rotEntry e.quat r 0) x) (mul32 (rotEntry e.quat r 1) y))

/-- The forward speed: the velocity's component along the vehicle's x axis. -/
def Ego.forward (e : Ego) : FV :=
  (List.range 3).foldl (fun a r => add32 a (mul32 (rotEntry e.quat r 0) (f32 (e.vel.getD r 0)))) (ofInteger 0)

/-- The ego estimate at the instant of tick `n` (R268–R271). The filter's numbers are free; a VISUAL prediction without update keeps velocity, angular rate and biases and moves position and attitude on with them, and VISUAL mode keeps the biases. [DESIGN CHOICE, log entry 99; DEDUCED, log entry 100] -/
def State.nextEgo (s : State) (n : Nat) : Ego :=
  let e := s.levelled n s.ftu.cur.ego
  let i := s.free
  let ups := s.updaters n
  let vis := s.flag R.ftuStatusMode
  let still := ups.isEmpty
  let poison := e.poison || ups.any (s.alignedPoison n) || (!vis && s.driverSlots.any (s.alignedPoison n))
  let dt := seconds ((instantOf n : Int) - s.ftu.cur.last)
  let gb := if vis || still then e.gyroBias else freeCodes (i + 3) 3 32
  let ab := if vis || still then e.accelBias else freeCodes (i + 6) 3 32
  let pos := if vis && still then addVec e.pos (scaleVec e.vel dt) else freeCodes i 3 32
  let vel := if vis && still then e.vel else freeCodes (i + 9) 3 32
  let rate := if vis then (if still then e.rate else freeCodes (i + 12) 3 32) else s.gyroRate n gb (i + 12)
  let quat := if vis && still then turnQuat e.quat e.rate dt else freeCodes (i + 15) 4 32
  { e with pos := pos, vel := vel, quat := quat, rate := rate, gyroBias := gb, accelBias := ab, cov := freeCov (i + 19) 15, poison := poison }

/-- Innovations of the fresh updates enter the CHI tests (R272): each is free. [DESIGN CHOICE, log entry 99] -/
def State.innovations (s : State) (n : Nat) : State :=
  s.each (s.usedSlots.filter fun k => decide (2 ≤ s.kind k) && s.fresh k n && (s.aligned k n).isSome) fun s k =>
    (s.setSlot k { s.slot k with chi := (Config.free s.free % 2 ^ 31 :: (s.slot k).chi).take 255 }).took 1

/-- The cross-covariance of each clone carried along with the live state (R284): its numbers are free. [DESIGN CHOICE, log entry 99] -/
def State.carryClones (s : State) : State :=
  (s.setMoment { s.ftu.cur with clones := s.ftu.cur.clones.zipIdx.map fun c => { c.1 with cross := freeCodes (s.free + 90 * c.2) 90 32 } }).took 180

/-- Step 4 of a pass: the ego state predicted to the instant and updated. [DEDUCED, log entry 106] -/
def State.egoStep (s : State) (n : Nat) : State :=
  ((s.setMoment { s.ftu.cur with ego := s.nextEgo n }).took 244).carryClones

/-- The live state corrected through its clone (R284), the biases held in VISUAL mode: the numbers of the correction are free. [DESIGN CHOICE, log entry 99] -/
def State.cloneUpdate (s : State) (poison : Bool) : State :=
  let e := s.ftu.cur.ego
  let i := s.free
  let vis := s.flag R.ftuStatusMode
  let e' : Ego := { e with pos := freeCodes i 3 32, vel := freeCodes (i + 3) 3 32, quat := freeCodes (i + 6) 4 32,
                           gyroBias := if vis then e.gyroBias else freeCodes (i + 10) 3 32,
                           accelBias := if vis then e.accelBias else freeCodes (i + 13) 3 32,
                           cov := freeCov (i + 16) 15, poison := e.poison || poison }
  ((s.setMoment { s.ftu.cur with ego := e' }).took 241).carryClones

/-! ### Detections (R276) -/

/-- A detection with what projection and association make of it. -/
structure Projected where
  det : Detection
  /-- Ground point x, y, z in the run frame and width, as FP32 codes; none above the horizon. -/
  ground : Option (List Nat) := none
  track : Option Nat := none
  deriving DecidableEq, Repr

/-- The projection of a detection (R276): the ground point in the run frame through the ego pose, and the width. [DESIGN CHOICE, log entry 102] -/
def State.project (s : State) (d : Detection) : Projected :=
  let x0 := f32 d.x0
  let x1 := f32 d.x1
  let y1 := f32 d.y1
  match s.mapPoint d.port (mul32 (add32 x0 x1) half32) y1, s.mapPoint d.port x0 y1, s.mapPoint d.port x1 y1 with
  | some g, some a, some b =>
    let dx := sub32 b.1 a.1
    let dy := sub32 b.2 a.2
    let at' := fun r => code32 (s.ftu.cur.ego.toRun g.1 g.2 r)
    { det := d, ground := some [at' 0, at' 1, at' 2, code32 (sqrt32 (add32 (mul32 dx dx) (mul32 dy dy)))] }
  | _, _, _ => { det := d }

/-! ### Tracks (R277–R281) -/

/-- Component `i` of a track's state. -/
def Track.comp (t : Track) (i : Nat) : FV := f32 (t.vec.getD i 0)

/-- x, y, vx and vy after a turn at constant rate and speed (R277). [DESIGN CHOICE, log entry 102] -/
def Track.turn (t : Track) (dt : FV) : List Nat :=
  let w := t.comp 7
  let vx := t.comp 3
  let vy := t.comp 4
  let cs := cosSin (mul32 w dt)
  let rest := sub32 (ofInteger 1) cs.1
  [add32 (t.comp 0) (div32 (sub32 (mul32 vx cs.2) (mul32 vy rest)) w), add32 (t.comp 1) (div32 (add32 (mul32 vx rest) (mul32 vy cs.2)) w),
   sub32 (mul32 vx cs.1) (mul32 vy cs.2), add32 (mul32 vx cs.2) (mul32 vy cs.1)].map code32

/-- A track predicted by `dt` with constant turn rate and velocity (R277); its covariance's numbers are free. [DESIGN CHOICE, log entry 99] -/
def Track.predict (t : Track) (dt : FV) (i : Nat) : Track :=
  let ahead := fun a v => code32 (add32 (t.comp a) (mul32 (t.comp v) dt))
  let old := fun k => t.vec.getD k 0
  let m := if (t.comp 7).isZero then [ahead 0 3, ahead 1 4, old 3, old 4] else t.turn dt
  { t with vec := m.take 2 ++ [ahead 2 5] ++ m.drop 2 ++ [old 5, ahead 6 7, old 7, old 8, old 9], cov := freeCov i 10,
           age := t.age + 1, predicted := true, resid := false, residMiss := false }

/-- Whether tracks of class `c` take the learned residual (R277). -/
def State.residOn (s : State) (c : Nat) : Bool := s.flag R.ftuCtlResidEn && bit (s.get R.ftuResidClassClasses) c

/-- The FTU section of the active set. -/
def State.ftuSection (s : State) : List Byte := match s.active with | some c => c.ftuSection | none => []

/-- The residual of a track applied, or missed (R278). -/
def State.applyResidual (s : State) (t : Track) : Track :=
  if t.sent.isNone then t else
  match SMap.find? t.id s.ftu.cur.resid with
  | none => { t with residMiss := true }
  | some vals =>
    let add := fun (x : Nat × Nat) =>
      code32 (add32 (f32 x.1) (mul32 (ofInteger (toSigned 8 (vals.getD x.2 0).toNat)) (f32 (Config.residScale s.ftuSection x.2))))
    { t with vec := t.vec.zipIdx.map add, resid := true }

/-- Every track predicted to the instant of tick `n`. -/
def State.predictAll (s : State) (n : Nat) : List Track :=
  let dt := seconds ((instantOf n : Int) - s.ftu.cur.last)
  s.ftu.cur.tracks.zipIdx.map fun t => s.applyResidual (t.1.predict dt (s.free + 100 * t.2))

/-- A pair that may be assigned (R279): score p, track ID, detection number. -/
structure Pair where
  p : FV
  id : Nat
  det : Nat

/-- Whether pair `a` is taken before `b`. -/
def Pair.before (a b : Pair) : Bool :=
  b.p.lt a.p || (!a.p.lt b.p && (decide (a.id < b.id) || (a.id == b.id && decide (a.det < b.det))))

/-- A pair put in its place. -/
def insertPair (c : Pair) : List Pair → List Pair
  | [] => [c]
  | b :: l => if b.before c then b :: insertPair c l else c :: b :: l

/-- The pairs of a pass in the order they are taken (R279); each distance d² is free. -/
def State.pairs (s : State) (ts : List Track) (ds : List Projected) : List Pair :=
  let all := ts.zipIdx.flatMap fun t => ds.zipIdx.filterMap fun d =>
    let d2 := f32 (Config.free (s.free + t.2 * ds.length + d.2) % 2 ^ 31)
    if t.1.cls = d.1.det.cls ∧ d.1.ground.isSome ∧ d2.le (f32 (s.get R.ftuGateGate)) then
      some ⟨div32 (f32 d.1.det.score) (add32 (ofInteger 1) d2), t.1.id, d.2⟩
    else none
  all.foldr insertPair []

/-- Pairs assigned greedily: track ID with detection number. -/
def assignPairs : List Pair → List (Nat × Nat) → List (Nat × Nat)
  | [], r => r
  | p :: l, r => assignPairs l (if r.any fun x => x.1 == p.id || x.2 == p.det then r else r ++ [(p.id, p.det)])

/-- A detection that stands for a missing one. -/
def noDetection : Detection := ⟨0, 0, 0, 0, 0, 0, 0, 0, 0, false⟩

/-- A track updated with its detection (R279, R281): its numbers are free. -/
def Track.update (t : Track) (d : Detection) (i : Nat) : Track :=
  { t with vec := freeCodes i 10 32, cov := freeCov (i + 10) 10, port := d.port, predicted := false, poison := t.poison || d.poison }

/-- A track's state after a valid pass (R281); none where it is deleted. [DESIGN CHOICE, log entry 103] -/
def Track.manage (t : Track) (hit : Bool) (m n coast : Nat) : Option Track :=
  match t.st with
  | .tentative =>
    let h := (hit :: t.hits).take n
    if m ≤ (h.filter (·)).length then some { t with st := .confirmed, hits := h }
    else if n - m < ((hit :: t.hits).filter (!·)).length then none
    else some { t with hits := hit :: t.hits }
  | .confirmed => if hit then some { t with misses := 0 } else if coast ≤ 1 then none else some { t with st := .coasting, misses := 1 }
  | .coasting =>
    if hit then some { t with st := .confirmed, misses := 0 }
    else if coast ≤ t.misses + 1 then none else some { t with misses := t.misses + 1 }

/-- A track put in ID order. -/
def insertTrack (t : Track) : List Track → List Track
  | [] => [t]
  | u :: l => if u.id < t.id then u :: insertTrack t l else t :: u :: l

/-- A new track (R280): position and width of the detection, the length its width, all else 0, the covariance of the image. [DESIGN CHOICE, log entry 103] -/
def newTrack (ftu : List Byte) (id : Nat) (d : Detection) (g : List Nat) : Track :=
  let w := g.getD 3 0
  { id := id, port := d.port, cls := d.cls, vec := [g.getD 0 0, g.getD 1 0, g.getD 2 0, 0, 0, 0, 0, 0, w, w],
    cov := (List.range 100).map fun k => Config.trackCov ftu (k / 10) (k % 10) % 2 ^ 32, poison := d.poison }

/-- One unassigned detection starts a track, where its score is at least FTU_BIRTH and an ID is free (R280); `taken` are the IDs in use before this pass. -/
def State.birth (taken : List Nat) (s : State) (d : Projected) : State :=
  match d.ground with
  | none => s
  | some g =>
    if d.track.isSome || !(f32 (s.get R.ftuBirthBirth)).le (f32 d.det.score) then s else
    let ts := s.ftu.cur.tracks
    match (List.range 1024).find? fun k => !taken.contains k && !ts.any fun t => t.id == k with
    | none => s.inc R.cntTrkFull
    | some id => (s.setMoment { s.ftu.cur with tracks := insertTrack (newTrack s.ftuSection id d.det g) ts }).inc R.cntTrkBirth

/-- Step 6 of a pass: tracks predicted, associated, updated, managed, born (R277–R281). -/
def State.trackStep (s : State) (n : Nat) (valid own : Bool) (ds : List Projected) : State × List Projected :=
  let ts := s.predictAll n
  let missed := (ts.filter (·.residMiss)).length
  let s1 := ((s.took (100 * ts.length)).when own fun s => s.add R.cntResidMiss missed).when (own && decide (0 < missed)) fun s =>
    s.setFlag R.ftuStatusResidMiss true
  if !valid then (s1.setMoment { s1.ftu.cur with tracks := ts }, ds) else
  let as := assignPairs (s1.pairs ts ds) []
  let s2 := ((s1.took (ts.length * ds.length)).add R.cntAssoc as.length).count dieIod 20 as.length
  let ds' := ds.zipIdx.map fun d => { d.1 with track := (as.find? fun a => a.2 == d.2).map (·.1) }
  let up := ts.zipIdx.map fun t =>
    match as.find? fun a => a.1 == t.1.id with
    | some a => (t.1.update (match ds[a.2]? with | some d => d.det | none => noDetection) (s2.free + 110 * t.2), true)
    | none => (t.1, false)
  let m := s.getIn R.ftuTrkM 1 15
  let kept := up.filterMap fun t => t.1.manage t.2 m (s.getIn R.ftuTrkN m 15) (s.getIn R.ftuTrkCoastMax 1 65535)
  let s3 := ((s2.took (110 * ts.length)).add R.cntTrkDel (ts.length - kept.length)).setMoment { s2.ftu.cur with tracks := kept }
  (s3.each ds' (State.birth (ts.map (·.id))), ds')

/-! ### Epoch clones (R284) -/

/-- Rows and columns 0–5 of a covariance of the error state: position and velocity. -/
def motionCov (cov : List Nat) (cols : Nat) : List Nat :=
  (List.range 6).flatMap fun r => (List.range cols).map fun c => cov.getD (15 * r + c) 0

/-- A clone taken for the edge at `p` at instant `t`. -/
def Ego.clone (e : Ego) (p t : Nat) : Clone :=
  { p := p, pos := subVec e.pos (scaleVec e.vel (seconds ((t : Int) - p))), vel := e.vel, cov := motionCov e.cov 6, cross := motionCov e.cov 15 }

/-- The clones at the instant of tick `n`: edges since the instant before, the two newest kept, each for 2 s. -/
def State.cloneStep (s : State) (n : Nat) : State :=
  let t := instantOf n
  let m := s.ftu.cur
  let new := if s.flag R.ftuCtlCloneEn then (s.ftu.pps.filter fun p => decide (m.last < p) && decide (p ≤ t)).map fun p => m.ego.clone p t else []
  let l := ((new.reverse ++ m.clones).filter fun c => decide (t ≤ c.p + 2 * 10 ^ 9)).take 2
  s.setMoment { m with clones := l, last := t }

/-! ### The learned residual (R278) -/

/-- The value of source field `k` of the feature table for a track. -/
def State.featureValue (s : State) (t : Track) (k : Nat) : FV :=
  if k < 10 then t.comp k
  else if k = 10 then s.ftu.cur.ego.forward
  else if k = 11 then f32 (s.ftu.cur.ego.rate.getD 2 0)
  else ofInteger t.age

/-- A value as INT8: to nearest with ties to even, saturating. -/
def toInt8 : FV → Byte
  | .nan => BitVec.ofNat 8 Config.featNan
  | .inf neg => if neg then 0x80 else 0x7F
  | .fin neg m e => let d := dyadic m e; BitVec.ofInt 8 (clampInt (-128) 127 (signed neg (roundDiv d.1 d.2)))

/-- The 16 INT8 features of a track (R278): each the source field times its scale. [DESIGN CHOICE, log entry 159] -/
def State.features (s : State) (t : Track) : List Byte :=
  (List.range 16).map fun i => toInt8 (mul32 (s.featureValue t (Config.featSource s.ftuSection i)) (f32 (Config.featScale s.ftuSection i)))

/-- Layer `k` of the residual network with `outs` outputs: the weighted sums and the bias, formed into INT8 with saturation. [DESIGN CHOICE, log entry 159] -/
def residLayer (ftu : List Byte) (k outs : Nat) (x : List Byte) : List Byte :=
  (List.range outs).map fun o =>
    let sum := (x.zipIdx.map fun p => p.1.toInt * (Config.residWeight ftu k o p.2).toInt).sum + Config.residBias ftu k o
    BitVec.ofInt 8 (clampInt (-128) 127 (Config.residForm ftu k o sum))

/-- The INT8 network 16 → 32 → 32 → 10 (R278). -/
def residNet (ftu : List Byte) (x : List Byte) : List Byte := residLayer ftu 2 10 (residLayer ftu 1 32 (residLayer ftu 0 32 x))

/-- The features of the residual-enabled tracks go to the model core (R278), and no residual is held. -/
def State.sendFeatures (s : State) : State :=
  s.setMoment { s.ftu.cur with tracks := s.ftu.cur.tracks.map (fun t => { t with sent := if s.residOn t.cls then some (s.features t) else none }), resid := [] }

/-! ### Confidence (R270, R273) -/

/-- floor(255 × max(0, 1 − σ / limit)). -/
def confOf (sigma : FV) (limit : Nat) : Nat :=
  let v := max32 (ofInteger 0) (sub32 (ofInteger 1) (div32 sigma (ofInteger limit)))
  (mul32 (ofInteger 255) v).floor.toNat

/-- The deduction D of a pass (R273). -/
def State.deduction (s : State) : Nat :=
  ((s.usedSlots.filter fun k => s.flag (R.ftuSrcStatMasked k)).map fun k => s.get (R.ftuSrcChiConfStep k)).sum
    + (if s.contraQ = 0 then 0 else s.get R.ftuHoldContraStep)

/-- The ego confidence (R270, R273). -/
def State.egoConf (s : State) : Nat :=
  let c := confOf (sigmaMm s.ftu.cur.ego.cov 15) (s.getIn R.ftuConfEgoSigmaMm 1 65535) - s.deduction
  match s.ftu.ramp with
  | some j => min c (255 * j / s.getIn R.ftuEgoRampTicks 1 65535)
  | none => c

/-- Step 7 for the tracks, with deduction `d`: confidences formed, a track at 0 deleted (R273, R281). -/
def State.trackConf (s : State) (d : Nat) : State :=
  let ts := s.ftu.cur.tracks.map fun t => { t with conf := confOf (sigmaMm t.cov 10) (s.getIn R.ftuConfTrkSigmaMm 1 65535) - d }
  let kept := ts.filter fun t => t.conf != 0
  (s.setMoment { s.ftu.cur with tracks := kept }).add R.cntTrkDel (ts.length - kept.length)

/-! ### One instant, and replays (R265, R282) -/

/-- One instant to run: its tick and detections, and whether its pass updates the state through a clone, and with poison. -/
structure Instant where
  tick : Nat
  valid : Bool
  dets : List Detection
  clone : Option Bool := none

/-- The aligned values of the slots in use at the instant of tick `n`. -/
def State.inputs (s : State) (n : Nat) : SMap (List Nat) := s.usedSlots.filterMap fun k => (s.aligned k n).map fun a => (k, a.vals)

/-- The updates of one instant, kept among the 16 most recently passed. The instant's own pass (`own` none) runs the monitors and counts; a replay takes the deduction that pass had. -/
def State.runInstant (s : State) (x : Instant) (own : Option Nat) : State × List Projected :=
  let first := own.isNone
  let before := s.ftu.cur
  let s0 := match x.clone with | some p => s.cloneUpdate p | none => s
  let s1 := (s0.countExtrap x.tick).when first fun s => (s.monitors x.tick).innovations x.tick
  let d := own.getD s1.deduction
  let s2 := s1.egoStep x.tick
  let ps := x.dets.map s2.project
  let s3 := s2.when first fun s => s.add R.cntDetNoground (ps.filter fun p => p.ground.isNone).length
  let r := s3.trackStep x.tick x.valid first ps
  let s4 := ((r.1.cloneStep x.tick).trackConf d).sendFeatures
  (s4.setFtu { s4.ftu with passed := (⟨x.tick, before, x.valid, x.dets, s1.inputs x.tick, d, x.clone⟩ :: s4.ftu.passed).take 16 }, r.2)

/-- A replay from the first instant at or after `stamp` to the latest passed one (R282), on the residuals stored. [DEDUCED, log entry 105] -/
def State.replay (s : State) (stamp : Nat) : State :=
  let again := (s.ftu.passed.filter fun p => decide (stamp ≤ instantOf p.tick)).reverse
  let older := s.ftu.passed.filter fun p => decide (instantOf p.tick < stamp)
  let resid := s.ftu.cur.resid
  match again.head? with
  | none => s
  | some p0 =>
    let s1 := ((s.setFtu { s.ftu with cur := p0.before, passed := older }).inc R.cntReplay).add R.cntReplayTicks again.length
    let s2 := s1.each again fun s p =>
      ((s.setMoment { s.ftu.cur with resid := p.before.resid }).runInstant ⟨p.tick, p.valid, p.dets, p.clone⟩ (some p.deduction)).1
    s2.setMoment { s2.ftu.cur with resid := resid }

/-! ### The record (R287) -/

/-- FP32 codes as bytes. -/
def codes32 (l : List Nat) : List Byte := l.flatMap fun w => leBytes w 4

/-- FP16 codes as bytes. -/
def codes16 (l : List Nat) : List Byte := l.flatMap fun w => leBytes w 2

/-- A corner as unsigned Q12.4, to nearest, ties to even. [DEDUCED, log entry 104] -/
def q12p4 (w : Nat) : Nat :=
  match f32 w with
  | .fin false m e => min 65535 (roundAt m 1 (-(e + 4)))
  | _ => 0

/-- A detection entry. -/
def Projected.entry (p : Projected) : List Byte :=
  let d := p.det
  let nan := nanCode fp32
  leBytes (d.port + 8 * b2n d.poison + 16 * b2n p.track.isSome) 1 ++ leBytes d.cls 1 ++ leBytes (p.track.getD 0xFFFF) 2 ++ leBytes d.score 4
    ++ codes16 [q12p4 d.x0, q12p4 d.y0, q12p4 d.x1, q12p4 d.y1] ++ codes32 (match p.ground with | some g => [g.getD 0 0, g.getD 1 0, g.getD 3 0] | none => [nan, nan, nan]) ++ leBytes d.cand 4

/-- The code of a track's state. -/
def TrackState.code : TrackState → Nat
  | .tentative => 0 | .confirmed => 1 | .coasting => 2

/-- A track entry. -/
def Track.entry (t : Track) : List Byte :=
  leBytes t.id 2 ++ leBytes (t.st.code + 4 * t.port) 1 ++ leBytes t.conf 1 ++ leBytes t.cls 1
    ++ leBytes (b2n t.predicted + 2 * b2n t.resid + 4 * b2n t.residMiss + 8 * b2n t.poison) 1 ++ leBytes (min 65535 t.age) 2
    ++ codes32 t.vec ++ codes16 ([0, 1, 3, 4, 6, 7, 8, 9].map fun k => toIeee fp16 (deviation t.cov 10 k))

/-- A LOOM word. -/
def LoomSample.word (x : LoomSample) : Nat :=
  x.ttc % 2 ^ 16 + 2 ^ 16 * min 4095 x.age + 2 ^ 28 * b2n x.valid + 2 ^ 29 * b2n x.incomplete + 2 ^ 30 * b2n x.poison

/-- Whether an MSD is offline (R455). -/
def State.msdLost (s : State) : Bool := s.offline dieMsd0 || s.offline dieMsd1

/-- Whether a record has a compute die's DEGRADED bit (R454, R455): the active set maps work to the die and it is offline, or an MSD is offline. -/
def State.degraded (s : State) (d : Nat) : Bool :=
  s.msdLost || (s.offline d && (match s.active with
    | some c => if d = dieCd0 then c.useCd0 else c.useCd1
    | none => false))

/-- What a pass puts into its record beside the state. -/
structure PassFacts where
  valid : Bool
  gauze : Bool
  replay : Bool
  clone : Bool
  loom : List LoomSample
  dets : List Projected

/-- The FUSED_RESULT record of tick `n` (R287). -/
def State.fusedRecord (s : State) (n : Nat) (x : PassFacts) : Rec :=
  let e := s.ftu.cur.ego
  let ts := s.ftu.cur.tracks
  let ds := if x.valid && s.flag R.ftuCtlDetOut then x.dets else []
  let poison := e.poison || (ds.any fun d => d.det.poison) || (ts.any fun t => t.poison) || x.loom.any fun l => l.poison
  let flags := b2n x.valid + 2 * b2n x.gauze + 4 * b2n (s.contraQ != 0) + 8 * s.get R.ftuStatusMode + 16 * b2n s.ftu.ramp.isSome
    + 32 * b2n poison + 64 * b2n (s.degraded dieCd0) + 128 * b2n (s.degraded dieCd1) + 256 * b2n x.replay + 512 * b2n x.clone
    + 1024 * b2n (x.loom.any fun l => l.incomplete) + 2048 * s.ftu.decim
  let head := leBytes n 8 ++ leBytes (instantOf n) 8 ++ leBytes flags 2 ++ leBytes s.egoConf 1 ++ leBytes s.contraQ 1
    ++ leBytes ts.length 2 ++ leBytes ds.length 2 ++ leBytes (s.get R.ftuMaskedSlots) 8 ++ leBytes (s.get R.ftuWithheldSlots) 8
  let ego := codes32 (e.pos ++ e.vel ++ e.quat ++ e.rate ++ e.gyroBias ++ e.accelBias) ++ codes16 ((List.range 15).map fun k => toIeee fp16 (deviation e.cov 15 k)) ++ List.replicate 38 0
  let loom := codes32 ((List.range 32).map fun i => match x.loom[i]? with | some l => l.word | none => 0)
  { type := 0x01, index := n, poison := poison, error := s.degraded dieCd0 || s.degraded dieCd1,
    payload := head ++ ego ++ loom ++ ds.flatMap Projected.entry ++ ts.flatMap Track.entry }

/-- The record goes to its stream ring, and to every MAC that exports (R287, R372). [DEDUCED, log entry 106] -/
def State.sendRecord (s : State) (r : Rec) : State :=
  if !s.flag R.ftuDestEn then s else
  (s.hand (s.getIn R.ftuDestFunc 0 7) (s.get R.ftuDestRing) r).each (List.range 2) fun s m =>
    if s.flag (R.timMacExpEn m) then s.setMac m { s.mac m with exports := (s.mac m).exports ++ [r] } else s

/-- The FTU trace entry (R473): bytes 24–27 and 32–47 of the record; DATA holds the first 16 of them. [DEDUCED, log entry 104] -/
def State.tracePass (s : State) (n : Nat) (r : Rec) : State :=
  s.trace dieIod 9 0 (n % 2 ^ 32) (leNat (slice r.payload 16 4 ++ slice r.payload 24 16) % 2 ^ 128)

/-! ### The pass (R265) -/

/-- The decimation the cap's floor sequence asks for (R265, R395): step 5 halves, step 6 quarters. -/
def State.wantDecim (s : State) : Nat :=
  let k := s.get R.pwrCapStatusFloorStep
  if k < 5 then 0 else if k = 5 then 1 else 2

/-- D in force from tick `n` on: a change begins at a tick that both rates pass. [DEDUCED, log entry 105] -/
def State.stepDecim (s : State) (n : Nat) : State :=
  if n % 2 ^ max s.ftu.decim s.wantDecim = 0 then s.setFtu { s.ftu with decim := s.wantDecim } else s

/-- Detections in the order of R186: by port, then selection order. -/
def byPort (l : List Detection) : List Detection := (List.range 8).flatMap fun p => l.filter fun d => d.port == p

/-- The tick done with: results and looming samples dropped, the next pass's turn. -/
def State.passOver (s : State) (n : Nat) : State :=
  let s1 := s.setFtu { s.ftu with next := some (n + 1), pps := s.ftu.pps.filter fun p => decide (s.now ≤ p + 2 * 10 ^ 9) }
  let s2 := s1.setTns { s1.tns with results := SMap.del n s1.tns.results }
  s2.setFab { s2.fab with loomOut := SMap.del n s2.fab.loomOut }

/-- The pass of tick `n`. -/
def State.fusionPass (s : State) (n : Nat) : State :=
  let r := SMap.get s.tns.results {} n
  let loom := SMap.get s.fab.loomOut [] n
  let valid := r.done && !s.msdLost
  let dets := if valid then byPort (r.dets.filter fun d => !s.offline d.die) else []
  let a := s.takeVisual n
  let i := a.ftu.inbox.foldl State.intake (a, {})
  let s1 := (i.1.setFtu { i.1.ftu with inbox := [] }).decideMode
  let s2 := match i.2.late with | some t => s1.replay t | none => s1
  let s3 := s2.when i.2.clone fun s => s.inc R.cntCloneUpd
  let p := s3.runInstant ⟨n, valid, dets, if i.2.clone then some i.2.poison else none⟩ none
  let s4 := p.1
  let x : PassFacts := { valid := valid, gauze := r.gauze, replay := i.2.late.isSome, clone := i.2.clone, loom := loom, dets := p.2 }
  let rr := s4.fusedRecord n x
  ((((s4.inc R.cntPass).sendRecord rr).tracePass n rr).passOver n)

/-- Whether the FTU passes tick `n`: in a run, before the STOP boundary (R286). -/
def State.passDue (s : State) (n : Nat) : Bool :=
  (s.run == runRunning || (s.run == runStopping && decide (n < s.get R.hifStopTickTick))) && s.reached (s.deadline n)

/-- FUSION_PASS (R265): the pass of the next tick, from its publish deadline; a tick that decimation skips has none. -/
def execFusionPass (s : State) : Host.Outcome State Fault Refusal :=
  .next (match s.ftu.next with
    | none => s
    | some n =>
      if !s.awake || s.halted || !s.passDue n then s else
      let s1 := s.stepDecim n
      if n % 2 ^ s1.ftu.decim = 0 then s1.fusionPass n else (s1.takeVisual n).passOver n)

/-- RESIDUAL_RETURN (R278): the model core, on a compute die that is powered (R13), returns what its network makes of the features of track `id`. -/
def execResidualReturn (id : Nat) (s : State) : Host.Outcome State Fault Refusal :=
  .next (
    if s.awake && s.powered (dieOfCore (s.get R.ftuModelCore)) then
      match (s.ftu.cur.tracks.find? fun t => t.id == id).bind (·.sent) with
      | some x => s.setMoment { s.ftu.cur with resid := SMap.put id (residNet s.ftuSection x) s.ftu.cur.resid }
      | none => s
    else s)

/-- START re-initialises the FTU for a run from tick `n` (R268, R271): no slot masked or withheld, the run frame, position and velocity 0, heading 0, the deviations of the image, no tracks, history or clones, slots and monitors as new. -/
def State.startFtu (s : State) (n : Nat) : State :=
  let dev := fun i => f32 (Config.egoDev s.ftuSection i)
  let e : Ego := { cov := (List.range 225).map fun k => if k / 15 = k % 15 then code32 (mul32 (dev (k / 15)) (dev (k / 15))) else 0 }
  let frame := if s.flag R.ftuGeoCtlValid then some (s.get R.ftuGeoLatLat, s.get R.ftuGeoLonLon, s.get R.ftuGeoAltAlt) else none
  let f : Ftu := { pps := s.ftu.pps, cur := { ego := e, last := n * tickNs }, next := some n, first := n, startAt := s.now, frame := frame }
  let s1 := (((s.setFtu f).set R.ftuMaskedSlots 0).set R.ftuWithheldSlots 0).each (List.range 64) fun s k =>
    ((s.setFlag (R.ftuSrcStatMasked k) false).set (R.ftuSrcStatReason k) 0).setFlag (R.ftuSrcStatWithheld k) false
  s1.setFlag R.ftuStatusMode s1.visual

end Sys2Proof.Machine
end

