-- ==== Sys2Proof/Machine/Control.lean ====
section
/-! DEFINITION. Device-wide commands, the run state, START, SWAP_SET, STOP, SET_PHASE, FW_UPDATE, failing operand reads (R323–R325, R332–R357, R390). -/

namespace Sys2Proof.Machine

/-- Run control replaced. -/
def State.setCtl (s : State) (c : Control) : State := { s with ctl := c }

/-! ### Command messages (R334, R337) -/

/-- The Halyard root sends a command message: counted, traced, on its way to every die (R334, R473). -/
def State.sendCommand (s : State) (opcode f tick : Nat) : State :=
  let s1 := (s.inc R.cntHalCmd).trace dieIod 1 opcode f tick
  s1.setCtl { s1.ctl with messages := (List.range 5).foldl (fun m d => SMap.upd m 0 d (· + 1)) s1.ctl.messages }

/-- The message in progress has passed its hop (R448). -/
def State.hopPassed (s : State) : State := { s with err := { s.err with hopFails := 0 } }

/-- COMMAND_MESSAGE: the oldest message on its way to die `die` arrives; `parity` where its word in the Halyard queue fails the check (R436). -/
def execCommandMessage (die : Fin 5) (parity : Bool) (s : State) : Host.Outcome State Fault Refusal :=
  .next (s.clocked ((s.setCtl { s.ctl with messages := SMap.upd s.ctl.messages 0 die (· - 1) }).hopPassed.parityCheck parity die die))

/-! ### START (R78, R94, R176, R263, R347, R348) -/

/-- The seven bin edges (R94). -/
def State.binEdges (s : State) : List Nat :=
  [s.get R.srfBinEdge1Edge, s.get R.srfBinEdge2Edge, s.get R.srfBinEdge3Edge, s.get R.srfBinEdge4Edge, s.get R.srfBinEdge5Edge,
   s.get R.srfBinEdge6Edge, s.get R.srfBinEdge7Edge]

/-- Whether numbers rise strictly from above `lo`. -/
def rising (lo : Nat) : List Nat → Bool
  | [] => true
  | x :: l => decide (lo < x) && rising x l

/-- Whether the bin edges break R94. -/
def State.edgesBad (s : State) : Bool := !rising 0 s.binEdges || decide (12775 < s.get R.srfBinEdge7Edge)

/-- The tiles of port `p`'s region on MSD `m`: first, one after the last. -/
def State.regionTiles (s : State) (p m : Nat) : Nat × Nat :=
  let r := s.regionPart p m
  ((r.1 - m * 2 ^ 24) / 64, (r.1 - m * 2 ^ 24 + r.2) / 64)

/-- Whether two enabled regions overlap on an MSD; a region of one tile row has no tile on MSD1. -/
def State.regionsOverlap (s : State) : Bool :=
  (List.range 2).any fun m => (List.range 8).any fun p => (List.range p).any fun q =>
    let a := s.regionTiles p m
    let b := s.regionTiles q m
    s.regionOn p && s.regionOn q && decide (a.1 < a.2) && decide (b.1 < b.2) && decide (a.1 < b.2) && decide (b.1 < a.2)

/-- Whether the regions break R78. -/
def State.regionsBad (s : State) : Bool :=
  s.regionsOverlap
    || ((List.range 8).any fun p => s.regionOn p && (List.range 2).any fun m => decide ((s.regionTiles p m).1 < (s.regionTiles p m).2) && decide (98304 < (s.regionTiles p m).2))
    || ((List.range 8).any fun p => bit (s.get R.ingCtlPortEn) p && !s.regionOn p)
    || overlap s.canvasSpace (placesOf s.active ++ placesOf s.shadow ++ s.traceRingSpace)

/-- The INDEX of the first layer of a set whose CANVAS_SHAPE check fails (R176). -/
def State.shapeFault (s : State) (c : ConfigSet) : Option Nat := (c.layers.find? s.canvasBad).map (·.index)

/-- What R176 and R263 refuse a set for. -/
def State.setFault (s : State) (c : ConfigSet) : Option (Done × Bool) :=
  match s.shapeFault c, s.srcFault with
  | some i, _ => some (badAt 0x1B i, true)
  | none, some k => some (badAt 0x1E k, false)
  | none, none =>
    if s.flag R.ftuCtlResidEn && !Config.residualOn c.ftuSection (s.get R.ftuModelCore) then some (.bad 0x1F, false) else none

/-- A refusal by R176 or R263. -/
def State.refuseSet (s : State) (f q : Nat) (d : Done × Bool) : State :=
  (s.when d.2 fun s => s.setFlag R.tnsPostStatusShapeErr true).complete f q d.1

/-- START's checks (R346, R347, R455); the reason code of R94's refusal is free. [DESIGN CHOICE, log entry 114] -/
def State.startCheck (s : State) (f q : Nat) : Option State :=
  if s.msdLost then some (s.complete f q { status := .noResource })
  else if !s.stopped then some (s.complete f q (.bad 0x21))
  else match s.active with
    | none => some (s.complete f q (.bad 0x20))
    | some c =>
      if s.flag R.hifSetsSwapPending then some (s.complete f q (.bad 0x21))
      else if s.regionsBad then some ((s.setFlag R.srfStatusRegionErr true).complete f q { status := .noResource })
      else if s.edgesBad then some (((s.setFlag R.srfStatusEdgeErr true).took 1).complete f q (.bad (s.freeValue % 256)))
      else (s.setFault c).map (s.refuseSet f q)

/-- START. -/
def execStart (f : Fin 8) (q : Fin 4) (s : State) : Host.Outcome State Fault Refusal :=
  .next (match s.wideOp f q with
    | some .start =>
      if !s.awake then s else
      let s1 := s.accept
      match s1.startCheck f q with
      | some t => t
      | none =>
        let n := effectiveTick s.time.dev
        let s2 := (((s1.set R.hifRunState runStarting).set R.hifRunTickTick n).sendCommand 0x03 f n).begin f q
        s2.setCtl { s2.ctl with start := some (f.val, q.val), cancelled := false, atBoundary := false }
    | _ => s)

/-- The ingest hold is released (R348). -/
def State.releaseHold (s : State) : State :=
  (s.setFlag R.hifRunHold false).setCtl { s.ctl with hold := none, holdAt := none }

/-- The dense path is ready for the run from tick `n` on (R136, R348). -/
def State.startDense (s : State) (n : Nat) : State :=
  s.setTns { s.tns with next := some n, working := false, carry := false, swaps := s.tns.swaps.filter (fun x => !x.2), whole := [n],
                        delivered := [], inbox := [], todo := [], dppDone := [], dets := [], results := [] }

/-- RUN_BEGINS (R348): the boundary of n0. -/
def execRunBegins (s : State) : Host.Outcome State Fault Refusal :=
  .next (
    let n := s.get R.hifRunTickTick
    if s.awake && s.run == runStarting && !s.ctl.cancelled && s.markHeld n then
      let s1 := (((s.releaseHold.startDense n).startFabric n).setFlt { s.flt with stopAt := none }).startFtu n
      let s2 := s1.set R.hifRunState runRunning
      (s2.setCtl { s2.ctl with start := none }).completeOwner s.ctl.start (.okay n)
    else s)

/-! ### SWAP_SET (R349–R351, R355, R391) -/

/-- Whether a set maps work to an offline compute die. -/
def State.setOffline (s : State) (c : ConfigSet) : Bool := (c.useCd0 && s.dieOff dieCd0) || (c.useCd1 && s.dieOff dieCd1)

/-- SWAP_SET's checks (R339, R349, R455). [DESIGN CHOICE, log entry 114] -/
def State.swapCheck (s : State) (f q : Nat) : Option State :=
  if s.msdLost then some (s.complete f q { status := .noResource })
  else match s.shadow with
    | none =>
      if s.active.isNone && s.get R.hifSetsShadow == setEmpty then some (s.complete f q (.bad 0x20))
      else some (s.complete f q { status := .setNotReady })
    | some c =>
      if s.flag R.hifSetsSwapPending then some (s.complete f q (.bad 0x21))
      else if s.setOffline c then some (s.complete f q { status := .noResource })
      else (s.setFault c).map (s.refuseSet f q)

/-- SWAP_SET: pending until its effective tick. -/
def execSwapSet (f : Fin 8) (q : Fin 4) (s : State) : Host.Outcome State Fault Refusal :=
  .next (match s.wideOp f q with
    | some .swapSet =>
      if !s.awake then s else
      let s1 := s.accept
      match s1.swapCheck f q with
      | some t => t
      | none =>
        let n := effectiveTick s.time.dev
        let s2 := (((s1.set R.hifSwapTickTick n).setFlag R.hifSetsSwapPending true).sendCommand 0x02 f n).begin f q
        let s3 := s2.setCtl { s2.ctl with swap := some { owner := some (f.val, q.val), tick := n } }
        (s3.setFab { s3.fab with swaps := s3.fab.swaps ++ [(s.stepAtTick n, false)] }).setTns { s3.tns with swaps := s3.tns.swaps ++ [(n, false)] }
    | _ => s)

/-- The pending swap is over: its marks in the fabric and the dense path become taken ones, or go. -/
def State.settleSwap (s : State) (taken : Bool) : State :=
  let mark := fun (l : List (Nat × Bool)) => if taken then l.map (fun x => (x.1, true)) else l.filter (·.2)
  let keep := taken && s.tns.next.isSome
  let s1 := ((s.setFab { s.fab with swaps := mark s.fab.swaps }).setTns
    { s.tns with swaps := if keep then mark s.tns.swaps else s.tns.swaps.filter (·.2) }).setFlag R.hifSetsSwapPending false
  s1.setCtl { s1.ctl with swap := none }

/-- The two sets exchange roles in the registers, and no die stays parked (R345, R350, R356, R460). -/
def State.exchangeSets (s : State) : State :=
  let st := fun (o : Option ConfigSet) => if o.isSome then setReady else setEmpty
  let dies := fun (o : Option ConfigSet) => match o with | some c => b2n c.useCd0 + 2 * b2n c.useCd1 | none => 0
  let name := fun (o : Option ConfigSet) => match o with | some c => c.id | none => 0
  let s1 := { s with active := s.shadow, shadow := s.active, err := { s.err with parked := 0 } }
  ((((((s1.set R.hifSetsActive (st s.shadow)).set R.hifSetsShadow (st s.active)).set R.hifSetsActiveDies (dies s.shadow)).set R.hifSetsShadowDies
    (dies s.active)).set R.hifSetActiveIdImageId (name s.shadow)).set R.hifSetShadowIdImageId (name s.active)).showTaint

/-- The phase after a swap: 0 where the present index is not valid in the new set (R391, R392). -/
def State.swapPhase (s : State) : State :=
  match s.active with
  | some c => if phaseValid c.phases (s.get R.pwrPhasePhase) then s.showTarget else s.enterPhase 0
  | none => (s.set R.pwrPhasePhase 0).showTarget

/-- SWAP_TAKES_EFFECT (R350): the boundary of the swap's tick. -/
def execSwapTakesEffect (s : State) : Host.Outcome State Fault Refusal :=
  .next (match s.ctl.swap with
    | none => s
    | some w =>
      if s.awake && !w.aborted && s.markHeld w.tick then
        let s1 := (((s.exchangeSets.settleSwap true).swapPhase).inc R.cntSwap)
        (s1.setTns { s1.tns with whole := s1.tns.whole ++ (if s1.tns.next.isSome then [w.tick] else []) }).completeOwner w.owner (.okay w.tick)
      else s)

/-! ### STOP (R323–R325, R346, R351–R353) -/

/-- FN_URGENT_TICK, URGENT_DONE and FN_VEC.URGENT once the stop is in force (R324). -/
def State.urgentDone (s : State) (f : Nat) : State := (s.setFlag (R.fnStatusUrgentDone f) true).raise f (s.get (R.fnVecUrgent f))

/-- A stopper learns that the stop with boundary `t` is in force. -/
def State.tellStopper (s : State) (t : Nat) : Stopper → State
  | .ring f q => s.complete f q (.okay t)
  | .urgent f => s.urgentDone f

/-- Who asked for a stop: a ring, an urgent doorbell or the I²C target. -/
inductive Asker where
  | ring (f q : Nat) | urgent (f : Nat) | i2c
  deriving DecidableEq, Repr

/-- The function a command message names. -/
def Asker.fn : Asker → Nat
  | .ring f _ => f
  | .urgent f => f
  | .i2c => 0

/-- Those who wait for the stop. -/
def Asker.stoppers : Asker → List Stopper
  | .ring f q => [.ring f q]
  | .urgent f => [.urgent f]
  | .i2c => []

/-- An urgent request reports T (R324). -/
def State.reportTick (s : State) (a : Asker) (t : Nat) : State :=
  match a with
  | .urgent f => s.set (R.fnUrgentTickTick f) t
  | _ => s

/-- A FULL request adds the ingest hold from boundary `t`, where the last stop's scope was not FULL yet (R325). -/
def State.addHold (s : State) (full : Bool) (t : Nat) : State :=
  if full then (s.setFlag R.hifRunLastFull true).setCtl { s.ctl with holdAt := some t } else s

/-- A swap accepted before, whose tick is at or after T, loses to the stop (R351). [DEDUCED, log entry 116] -/
def State.doomSwap (s : State) (t : Nat) : State :=
  match s.ctl.swap with
  | some w => if t ≤ w.tick then s.setCtl { s.ctl with swap := some { w with aborted := true } } else s
  | none => s

/-- A stop with boundary `t` is accepted first. -/
def State.newStop (s : State) (a : Asker) (full : Bool) (t : Nat) : State :=
  let s1 := ((((s.set R.hifStopTickTick t).setFlag R.hifRunLastFull full).addHold full t).doomSwap t).sendCommand 0x04 a.fn t
  (s1.setCtl { s1.ctl with stops := s1.ctl.stops ++ a.stoppers }).reportTick a t

/-- A further request while a stop is pending (R325). [DEDUCED, log entry 115] -/
def State.joinStop (s : State) (a : Asker) (full : Bool) : State :=
  let t := s.get R.hifStopTickTick
  let n := effectiveTick s.time.dev
  let add := full && !s.flag R.hifRunLastFull
  let s1 := (s.when add fun s => (s.addHold true n).sendCommand 0x04 a.fn n)
  (s1.setCtl { s1.ctl with stops := s1.ctl.stops ++ a.stoppers }).reportTick a t

/-- A request while the device is stopped (R325, R346): it reports the T of the last stop at once. [DEDUCED, log entry 115] -/
def State.restop (s : State) (a : Asker) (full : Bool) : State :=
  let t := s.get R.hifStopTickTick
  let n := effectiveTick s.time.dev
  let add := full && !s.flag R.hifRunLastFull
  let s1 := (s.when add fun s => (s.addHold true n).sendCommand 0x04 a.fn n).reportTick a t
  s1.each a.stoppers fun s w => s.tellStopper t w

/-- A STOP request is accepted (R346). -/
def State.acceptStop (s : State) (a : Asker) (full : Bool) : State :=
  if s.run = runStopped then s.restop a full
  else if s.run = runStarting then
    if s.ctl.cancelled then s.joinStop a full
    else
      let s1 := s.newStop a full (s.get R.hifRunTickTick)
      s1.setCtl { s1.ctl with cancelled := true }
  else if s.run = runRunning then
    let t := effectiveTick s.time.dev
    let s1 := (s.newStop a full t).set R.hifRunState runStopping
    (s1.setFab { s1.fab with halt := some (s1.stepAtTick t) }).setCtl { s1.ctl with atBoundary := false }
  else s.joinStop a full

/-- STOP. -/
def execStop (f : Fin 8) (q : Fin 4) (s : State) : Host.Outcome State Fault Refusal :=
  .next (match s.wideOp f q with
    | some (.stop full) => if !s.awake then s else ((s.accept).begin f q).acceptStop (.ring f q) full
    | _ => s)

/-- An urgent doorbell acts (R323). -/
def State.urgentWrite (s : State) (f v : Nat) : State :=
  if s.halted then s
  else if !s.privilege f 1 then s.setFlag (R.fnStatusPrivErr f) true
  else if !bit v 0 then s
  else s.acceptStop (.urgent f) (bit v 1)

/-- URGENT_STOP. -/
def execUrgentStop (f : Fin 8) (size : Nat) (v : Word) (s : State) : Host.Outcome State Fault Refusal :=
  .next (s.doorbell f size (.urgent f v.toNat) fun s => s.urgentWrite f v.toNat)

/-- A FULL hold whose boundary has come is in force (R53, R353). [DEDUCED, log entry 55] -/
def State.takeHold (s : State) : State :=
  match s.ctl.holdAt with
  | some t => if s.reached (t * tickNs) then (s.setFlag R.hifRunHold true).setCtl { s.ctl with hold := some t, holdAt := none } else s
  | none => s

/-- The pending swap of R351 ends with ABORTED_BY_STOP. -/
def State.abortSwap (s : State) : State :=
  match s.ctl.swap with
  | some w => if w.aborted then (s.settleSwap false).completeOwner w.owner { status := .abortedByStop } else s
  | none => s

/-- A cancelled run ends at the boundary of n0 without having begun (R346). -/
def State.endCancelled (s : State) : State :=
  let t := s.get R.hifStopTickTick
  let s1 := (s.set R.hifRunState runStopped).setCtl { s.ctl with start := none, cancelled := false, stops := [] }
  ((s1.completeOwner s.ctl.start { status := .abortedByStop }).abortReads 0).each s.ctl.stops fun s w => s.tellStopper t w

/-- STOP_BOUNDARY (R351, R353): boundary T is reached. -/
def execStopBoundary (s : State) : Host.Outcome State Fault Refusal :=
  .next (
    let t := s.get R.hifStopTickTick
    if !s.awake || !s.markHeld t then s
    else if s.run == runStarting && s.ctl.cancelled then (s.takeHold.abortSwap).endCancelled
    else if s.run == runStopping && !s.ctl.atBoundary then
      let s1 := s.takeHold.abortSwap
      (s1.setFlt { s1.flt with stopAt := some t }).setCtl { s1.ctl with atBoundary := true }
    else s)

/-- Whether the cut with boundary `t` is complete (R352, R459). -/
def State.cutDone (s : State) (t : Nat) : Bool :=
  (match s.tns.next with | some n => decide (t ≤ n) && !s.tns.working && !s.mustDrain | none => true)
    && (match s.ftu.next with | some n => decide (t ≤ n) | none => true) && !s.fab.running

/-- CUT_COMPLETE (R352, R353): the device is stopped and every STOP of this cut completes. -/
def execCutComplete (s : State) : Host.Outcome State Fault Refusal :=
  .next (
    let t := s.get R.hifStopTickTick
    if s.awake && s.run == runStopping && s.ctl.atBoundary && s.cutDone t then
      let d := { s.tns with next := none, check := { s.tns.check with running := false }, refresh := { s.tns.refresh with running := false },
                            swaps := s.tns.swaps.filter fun x => !x.2 }
      let s1 := (((s.set R.hifRunState runStopped).inc R.cntStop).setTns d).setFtu { s.ftu with next := none }
      ((s1.setCtl { s1.ctl with stops := [], atBoundary := false }).abortReads (s1.fab.halt.getD 0)).each s.ctl.stops fun s w => s.tellStopper t w
    else s)

/-! ### SET_PHASE (R390) -/

/-- When the phase last changed or will have changed, in ns. [DESIGN CHOICE, log entry 117] -/
def State.lastPhase (s : State) : Option Nat :=
  match s.ctl.phases.getLast? with
  | some p => some (p.tick * tickNs)
  | none => s.pwr.phaseAt

/-- The boundary at which a SET_PHASE accepted now takes effect. [DESIGN CHOICE, log entry 117] -/
def State.phaseTick (s : State) : Nat :=
  match s.lastPhase with
  | some t => max (effectiveTick s.time.dev) (ceilDiv (t + 1000000) tickNs)
  | none => effectiveTick s.time.dev

/-- SET_PHASE. -/
def execSetPhase (f : Fin 8) (q : Fin 4) (s : State) : Host.Outcome State Fault Refusal :=
  .next (match s.wideOp f q with
    | some (.setPhase k) =>
      if !s.awake then s else
      let s1 := s.accept
      if (match s.active with | some c => phaseValid c.phases k | none => false) then
        let n := s.phaseTick
        let s2 := (s1.begin f q).sendCommand 0x05 f n
        s2.setCtl { s2.ctl with phases := s2.ctl.phases ++ [⟨some (f.val, q.val), n, k⟩] }
      else s1.complete f q (.bad 0x22)
    | _ => s)

/-- PHASE_TAKES_EFFECT (R390). -/
def execPhaseTakesEffect (s : State) : Host.Outcome State Fault Refusal :=
  .next (match s.ctl.phases with
    | [] => s
    | p :: l =>
      if s.awake && s.markHeld p.tick then
        ((s.setCtl { s.ctl with phases := l }).enterPhase p.phase).completeOwner p.owner (.okay (p.tick * tickNs))
      else s)

/-! ### FW_UPDATE (R302, R310, R312) -/

/-- FW_UPDATE: the image is read and checked. [DESIGN CHOICE, log entry 144] -/
def execFwUpdate (f : Fin 8) (q : Fin 4) (img : List Byte) (s : State) : Host.Outcome State Fault Refusal :=
  .next (match s.wideOp f q with
    | some (.fwUpdate _ _) =>
      if !s.awake then s
      else if Config.firmwareOk img then
        let s1 := s.accept.begin f q
        s1.setCtl { s1.ctl with newFirmware := some img }
      else s.accept.complete f q (.bad 0x04)
    | _ => s)

/-- FW_UPDATE_DONE (R310): the image stands in flash. [DESIGN CHOICE, log entry 144] -/
def execFwUpdateDone (f : Fin 8) (q : Fin 4) (s : State) : Host.Outcome State Fault Refusal :=
  .next (match s.runningOp f (s.ownRing f q), s.ctl.newFirmware with
    | some (.fwUpdate _ _), some img =>
      if !s.awake then s
      else (s.setCtl { s.ctl with firmware := img, newFirmware := none }).complete f (s.ownRing f q) (.okay (Config.firmwareVersion img % 2 ^ 32))
    | _, _ => s)

/-! ### Failing operand reads (R342) -/

/-- The outcome of a failing operand read. -/
def State.failOperand (s : State) (f q : Nat) (poisoned : Bool) : State :=
  if poisoned then s.complete f q { status := .poisoned }
  else (s.setFlag (R.fnStatusFetchErr f) true).complete f q (.bad 0x05)

/-- Whether a LOAD_SET of ring `q` reads its image: it runs, or may start now. -/
def State.loadReads (s : State) (f q : Nat) : Bool :=
  match s.cur f q with
  | some d => d.stage == .running || (!s.loadBusy && (d.stage == .loadWait || (d.stage == .fetched && s.host.wide.head? == some (f, q))))
  | none => false

/-- A LOAD_SET's operand read fails: the shadow set is EMPTY. -/
def State.failLoad (s : State) (f q : Nat) (poisoned : Bool) : State :=
  let s1 := s.when (s.wideOp f q).isSome State.accept
  ((s1.emptyShadow).failOperand f q poisoned).showLoadWait

/-- A FW_UPDATE's operand read fails: the flash is unchanged. -/
def State.failFirmware (s : State) (f q : Nat) (poisoned : Bool) : State :=
  let s1 := s.when (s.wideOp f q).isSome State.accept
  (s1.setCtl { s1.ctl with newFirmware := none }).failOperand f q poisoned

/-- OPERAND_READ_FAIL (R342): a read ends poisoned, or with an error status; an image in LPDDR5X can only be poisoned. [DESIGN CHOICE, log entry 119] -/
def execOperandReadFail (f : Fin 8) (q : Fin 4) (poisoned : Bool) (s : State) : Host.Outcome State Fault Refusal :=
  .next (let q := s.ownRing f q
    if !s.awake then s else match (s.cur f q).map Desc.op with
    | some (.loadSet _ _ inLpddr) => if s.loadReads f q && (poisoned || !inLpddr) then s.failLoad f q poisoned else s
    | some (.fwUpdate _ _) => if (s.wideOp f q).isSome || (s.runningOp f q).isSome then s.failFirmware f q poisoned else s
    | some (.lpddrWrite _ dst len) =>
      if (s.runningOp f q).isSome then
        (({ s with lpddr := writeBytes s.lpddr lpddrFill dst (freeBytes s.free len) }).took len).failOperand f q poisoned
      else s
    | _ => s)

end Sys2Proof.Machine
end

