-- ==== Sys2Proof/Machine/Reef.lean ====
section
/-! DEFINITION. Reef states: idle conditions and timers, entry, wake; what each reset and deep reef state loses; FLR (R410–R431). -/

namespace Sys2Proof.Machine

/-- The reef side replaced. -/
def State.setReef (s : State) (r : Reef) : State := { s with reef := r }

/-- FN_STATUS.READY of every function. -/
def State.setReady (s : State) (b : Bool) : State := s.each (List.range 8) fun s f => s.setFlag (R.fnStatusReady f) b

/-- Every CAN receive FIFO is emptied into the maps (R237, R240). -/
def State.drainCans (s : State) : State := if s.awake then s.each (List.range 4) fun s c => s.takeCans c 0 (s.can c).fifo.length else s

/-- One cycle of the reference clock passes with no command: frames leave the receive FIFOs; while a condition of R412 fails the IDLE1 timer stands at 0. [DESIGN CHOICE, log entry 3; DEDUCED, log entry 120] -/
def State.idleCycle (s : State) : State :=
  s.idleFrom ((s.drainCans).advance 1)

/-! ### Entry (R411, R413–R415) -/

/-- The entry sequence toward REEF `n`, of `cycles` cycles. -/
def State.enterReef (s : State) (n cycles : Nat) : State :=
  ({ s with phase := .entering n (s.time.clk + cycles) none }.setReady false).setReef
    { s.reef with since := s.now, sinceClk := s.time.clk }

/-- IDLE1 in µs: 1–9 act as 10 (R433). -/
def State.idle1Us (s : State) : Nat := max 10 (s.get R.mgtIdle1Us)

/-- IDLE1_EXPIRY. -/
def execIdle1Expiry (s : State) : Host.Outcome State Fault Refusal :=
  .next (if s.awake && !s.halted && s.flag R.mgtIdle1Us && s.block == 0 && decide (s.reef.idleAt + s.idle1Us * 1000 * 2 ^ 32 ≤ s.time.dev) then s.enterReef 1 50 else s)

/-- IDLE2_EXPIRY; `l12` says whether the host has enabled ASPM L1.2 (R414). [DEDUCED, log entry 122] -/
def execIdle2Expiry (l12 : Bool) (s : State) : Host.Outcome State Fault Refusal :=
  .next (if s.phase == .reef 1 && !s.halted && l12 && s.flag R.mgtIdle1Us && s.flag R.mgtIdle2Ms
      && s.reached (s.reef.since + 1000000 * s.get R.mgtIdle2Ms) then s.enterReef 2 75000 else s)

/-- IDLE3 in s: values above 3,600 act as 3,600 (R433). -/
def State.idle3S (s : State) : Nat := min 3600 (s.get R.mgtIdle3S)

/-- The longest entry toward REEF3, in cycles: 60 ms (R415). -/
def reef3EntryMax : Nat := 15000000

/-- The release of PEN5 to PEN0, 1 ms apart, in cycles (R415, R420). -/
def penRelease : Nat := 1250000

/-- Lifetime slots in flash (R487). -/
def lifeSlots : Nat := 128

/-- The newest valid lifetime copy in flash (R487). [DESIGN CHOICE, log entry 129] -/
def newestCopy (m : SMap Lifetime) : Option (Nat × Lifetime) :=
  m.foldl (fun b x => match b with | some y => if y.2.seq < x.2.seq then some x else some y | none => some x) none

/-- A slot about to be written: a sector's first slot erases the sector. -/
def eraseFor (m : SMap Lifetime) (slot : Nat) : SMap Lifetime :=
  if slot % 8 = 0 then m.filter fun x => x.1 / 8 != slot / 8 else SMap.del slot m

/-- Mainstay writes a lifetime copy (R487): `ok` when the read-back agrees; a failed write leaves its slot invalid and the next one uses the slot behind. -/
def State.copyLifetime (s : State) (ok : Bool) : State :=
  let slot := s.obs.flashNext
  let m := eraseFor s.obs.flash slot
  let seq := match newestCopy s.obs.flash with | some x => x.2.seq + 1 | none => 0
  let l := { s.obs.life with seq := seq }
  if ok then
    { s with obs := { s.obs with life := l, flash := SMap.put slot l m, flashNext := (slot + 1) % lifeSlots, lifeAt := l.powerOn, lifeDue := false } }.set R.lifSeqSeq seq
  else { s with obs := { s.obs with flash := m, flashNext := (slot + 1) % lifeSlots } }.setFlag R.lifStatusWriteErr true

/-- IDLE3_EXPIRY: Mainstay writes a lifetime copy, then the outputs are released 1 ms apart (R415, R487); the entry lasts at most 60 ms, how long is a free value. [DEDUCED, log entry 122; DESIGN CHOICE, log entry 123] -/
def execIdle3Expiry (s : State) : Host.Outcome State Fault Refusal :=
  .next (if s.phase == .reef 2 && !s.halted && s.flag R.mgtIdle1Us && s.flag R.mgtIdle2Ms && s.flag R.mgtIdle3S && s.flag R.mgtIdle3LinkOk
      && decide (s.reef.sinceClk + 250000000 * s.idle3S ≤ s.time.clk) then
      let t := { s with obs := { s.obs with lifeDue := true } }.took 1
      let release := s.time.clk + s.freeValue % (reef3EntryMax - penRelease + 1)
      { t with phase := .entering 3 (release + penRelease) none, reef := { t.reef with rails := .falling release none } }
    else s)

/-- The outputs are all released (R415, R420): the lifetime copy of the entry has been written, or the failed check is recorded. -/
def State.railsDown (s : State) : State :=
  let t := match s.reef.rails with
    | .falling _ (some k) => (s.setFlag R.mgtPwrseqSeqFail true).set R.mgtPwrseqFailPen k
    | _ => s.when s.obs.lifeDue fun s => s.copyLifetime true
  t.setReef { t.reef with rails := .off }

/-- REEF_ENTRY_DONE (R415): the state is entered; a latched wake begins the exit. -/
def execReefEntryDone (s : State) : Host.Outcome State Fault Refusal :=
  .next (match s.phase with
    | .entering n e w =>
      if e ≤ s.time.clk then
        let t := if n = 3 then s.railsDown else s.setReef { s.reef with since := s.now, sinceClk := s.time.clk }
        match w with
        | some m => t.beginExit n m
        | none => { t with phase := .reef n }
      else s
    | _ => s)

/-- WAKE (R416, R417). [DESIGN CHOICE, log entry 121] -/
def execWake (w : WakeSource) (s : State) : Host.Outcome State Fault Refusal := .next (s.wake w)

/-! ### Losing state (R10, R428–R430) -/

/-- Whether a class is among the lost ones: [0] A, [1] W, [2] F, [3] S. -/
def Cls.lost (mask : Nat) : Cls → Bool
  | .a => bit mask 0
  | .w => bit mask 1
  | .f => bit mask 2
  | .s => bit mask 3
  | .none | .l => false

/-- The fields of the lost classes take their reset values (R10). -/
def State.loseFields (s : State) (mask : Nat) : State := { s with regs := s.regs.filter fun x => !(classOfKey x.1).lost mask }

/-- A port whose link resumes after REEF2: still trained, its capability read and its first triple to come again. -/
def Port.resume (v : Port) : Port :=
  let first := if v.trained then FirstTriple.packet else if v.training then FirstTriple.training else FirstTriple.idle
  { trained := v.trained, training := v.training, capWait := v.trained, first := first }

/-- Class S beside the registers (R429): Canvas, burst buffers, filter chain, FTU, run state, trace and counts. Where the SRAM stays powered (`sram`) the entries stand until they are marked STALE (R430), else they are as after POR. Links stay trained where `resumed`, and Mainstay then commits a first triple again. [DESIGN CHOICE, log entry 29] -/
def State.loseSampled (s : State) (resumed sram : Bool) : State :=
  let ports := if resumed then s.ing.port.map fun x => (x.1, x.2.resume) else []
  let tr := s.obs.trace
  { s with
    time := { s.time with slew := {}, slewA := {}, slewB := {}, switch := none, tci := [], edges := [], mac := [] }
    host := { s.host with handed := [] }
    ing := { port := ports.filter fun x => x.2 != {} }
    cv := if sram then { entries := s.cv.entries, bad := s.cv.bad } else {}
    tns := {}
    fab := {}
    flt := { coef := s.flt.coef }
    ftu := {}
    pwr := {}
    ctl := { firmware := s.ctl.firmware, staleMark := sram }
    obs := { s.obs with opc := [], snaps := [], trace := { sources := tr.sources, quota := tr.quota, sizeMib := tr.sizeMib, inLpddr := tr.inLpddr } }
    err := { parked := s.err.parked, ringSince := s.now } }

/-- Class W beside the registers (R429): both sets, which dies they leave parked, device time and domain counters, rebase lines, coefficients, the trace's configuration. [DESIGN CHOICE, log entry 29] -/
def State.loseSetup (s : State) : State :=
  { s with
    active := none
    shadow := none
    deferred := []
    time := { s.time with dev := 0, followers := [0, 0, 0, 0], domA := 0, domB := 0, tpo := [], rb := [] }
    flt := { s.flt with coef := [] }
    err := { s.err with parked := 0 }
    obs := { s.obs with trace := {} } }

/-- Class F beside the registers (R429): the rings of every function, its latches, what waits for ready. -/
def State.loseRings (s : State) : State :=
  { s with
    latch := { wr := s.latch.wr.filter (fun x => decide (requesterI2c ≤ x.1 / 2 ^ 32)), rd := [] }
    host := { s.host with sq := [], cq := [], str := [], wide := [], held := [] } }

/-- LPDDR5X loses its content, and with it the dump (R429, R483). -/
def State.loseLpddr (s : State) : State := { s with lpddr := [], obs := { s.obs with dump := none } }

/-- An event that loses W, F and S begins, the SRAM staying powered or not: its state goes, and ready is to come at cycle `readyAt`. A halt lasts until a reset (R456). [DESIGN CHOICE, log entry 126] -/
def State.loseAll (s : State) (sram : Bool) (mask : Nat) (causes : List Nat) (readyAt : Nat) : State :=
  let t := (((((s.loseFields mask).loseSampled false sram).loseSetup).loseRings).loseLpddr)
  { t with
    phase := .boot readyAt
    reef := { t.reef with causes := t.reef.causes ++ causes, classes := t.reef.classes ||| mask, flr := [], coarse := [], served := [], idleAt := 0, since := 0 } }

/-! ### Resets (R426) -/

/-- The cause code of the exit from REEF `n` (R327). -/
def exitCause (n : Nat) : List Nat := if n = 2 then [1] else if n = 3 then [2] else []

/-- What a reset overtakes: when ready was due, the loss events in progress, and the wake to be shown. -/
def State.overtaken (s : State) : Nat × List Nat × Option (Nat × WakeMark) :=
  match s.phase with
  | .boot r => (r, [], s.reef.woken)
  | .exiting n r m => (r, exitCause n, some (n, m))
  | _ => (0, [], none)

/-- Warm, watchdog and soft resets: ready after 60 ms, and not before an earlier event's (R416, R431); the AON domain goes on with its sequence (R426, R498); a halt ends. -/
def State.reset60 (s : State) (cause place : Nat) : State :=
  let o := s.overtaken
  let t := { s with halted := false }.loseAll (s.reef.rails == Rails.up) 0xE (o.2.1 ++ [cause]) (max o.1 (s.time.clk + 15000000))
  t.setReef { t.reef with counted := t.reef.counted ++ [place], woken := o.2.2 }

/-- Whether the AON domain is supplied. -/
def State.supplied (s : State) : Bool := s.phase != .off

/-- Whether nothing but the AON domain is powered, or is to be once the outputs are released: REEF3 and the entry into it. -/
def State.aonOnly (s : State) : Bool :=
  match s.phase with
  | .off => true
  | .reef n => n == 3
  | .entering n _ _ => n == 3
  | _ => false

/-- Whether a reset pin held low for `held` ns takes effect (R498): RESET_N for longer than its filter, PERST_N with its fixed one of 1 µs. -/
def State.resetPasses (s : State) (resetN : Bool) (held : Nat) : Bool :=
  if resetN then decide (s.filterNs R.mgtPad11Filt < held) else decide (1000 ≤ held)

/-- WARM_RESET: PERST_N or RESET_N asserted for `held` ns and released; in REEF3 there is nothing outside the AON domain to be reset, and an entry into it runs to its end (R415, R417, R421, R426). [DEDUCED, log entry 127] -/
def execWarmReset (resetN : Bool) (held : Nat) (s : State) : Host.Outcome State Fault Refusal :=
  .next (if s.aonOnly || !s.resetPasses resetN held then s else s.reset60 5 1)

/-- From a sequence's start to its rail check, in cycles: 12 ms (R419, R420). -/
def railCheckAt : Nat := 3000000

/-- Whether power-enable output `k` is asserted (R415, R419, R420). -/
def Rails.pen (r : Rails) (now k : Nat) : Bool :=
  match r with
  | .off => false
  | .rising t => decide (t + 500000 * k ≤ now)
  | .up => true
  | .falling t _ => decide (now < t + 250000 * (5 - k))

/-- Whether the rails behind power-enable output `k` are on. -/
def State.railOn (s : State) (k : Nat) : Bool := s.supplied && s.reef.rails.pen s.time.clk k

/-- Whether Mainstay runs with its records loaded: SAIL, REEF1, the sequences about them, and the entry into REEF3 until the outputs are released. -/
def State.mainstay (s : State) : Bool :=
  match s.phase with
  | .sail => true
  | .entering n _ _ => decide (n ≤ 2) || (match s.reef.rails with | .falling t none => decide (s.time.clk < t) | _ => false)
  | .reef n => n == 1
  | .exiting n _ _ => n == 1
  | _ => false

/-- Whether Mainstay boots (R419): after a reset, and from 12 ms of a power sequence on. -/
def State.mainstayBoots (s : State) : Bool :=
  let up := match s.reef.rails with | .rising t => decide (t + railCheckAt ≤ s.time.clk) | .up => true | _ => false
  match s.phase with
  | .boot _ => up
  | .exiting n _ _ => n == 3 && up
  | _ => false

/-- WATCHDOG_RESET, running or booting (R426); a halted device waits for a warm reset or a POR (R456). [DEDUCED, log entry 128] -/
def execWatchdogReset (s : State) : Host.Outcome State Fault Refusal :=
  .next (if (s.mainstay || s.mainstayBoots) && !s.halted then s.reset60 6 2 else s)

/-- A write to MGT_SOFT_RESET (R433); the PCIe link is kept; a halted device waits for a warm reset or a POR (R456). [DEDUCED, log entry 128] -/
def State.writeSoftReset (s : State) (v : Nat) : State :=
  if v % 2 ^ 16 = 0x5A5A ∧ !s.halted then
    ((s.reset60 4 3).set R.hifLinkSpeed (s.get R.hifLinkSpeed)).set R.hifLinkWidth (s.get R.hifLinkWidth)
  else s

/-- SOFT_RESET. -/
def execSoftReset (key : Word) (s : State) : Host.Outcome State Fault Refusal :=
  .next (s.bus (.write 0 false R.mgtSoftResetKey.addr 4 key.toNat) fun s => s.writeSoftReset key.toNat)

/-- What no reset touches: the flash, the host's memory and messages, the queue and the count of free values. -/
def State.powerUp (s : State) : State :=
  { State.reset with
    pending := s.pending
    free := s.free
    regs := s.regs.filter fun x => classOfKey x.1 == .l
    time := { clk := s.time.clk }
    host := { mem := s.host.mem, msix := s.host.msix }
    ctl := { firmware := s.ctl.firmware }
    obs := { flash := s.obs.flash, flashNext := s.obs.flashNext } }

/-- The longest start of the 32.768 kHz oscillator, in cycles: 500 ms (R426). -/
def oscillatorMax : Nat := 125000000

/-- POR: straps sampled, the oscillator starts within 500 ms (a free value), ready 75 ms later. [DESIGN CHOICE, log entry 28] -/
def execPor (straps : BitVec 3) (testEn : Bool) (gib : Nat) (s : State) : Host.Outcome State Fault Refusal :=
  .next (
    let t := (s.powerUp.took 1).set R.mgtI2cAddr (0x58 + straps.toNat)
    let start := s.time.clk + s.freeValue % (oscillatorMax + 1)
    { t with
      phase := .boot (start + 18750000)
      reef := { straps := straps.toNat, testEn := testEn, gib := gib, rails := .rising start } })

/-- AON_POWER_LOSS (R493): the device is off; lifetime counts since the last copy are lost. -/
def execAonPowerLoss (s : State) : Host.Outcome State Fault Refusal := .next { s.powerUp with phase := .off, reef := { rails := .off } }

/-! ### Function level reset (R329, R426) -/

/-- The place of an accepted command of function `f` that still runs, once the function is reset: without a completion (R329). [DESIGN CHOICE, log entry 52] -/
def State.orphan (s : State) (f q : Nat) : State :=
  match s.cur f q with
  | some d =>
    let runs := match d.op, d.stage with
      | .loadSet .., .loadWait => true
      | .fwUpdate .., .running => true
      | _, _ => false
    (s.setCur f q none).when runs fun s => s.setCur f (q + 4) (some { d with cqGone := true })
  | none => s

/-- No running operation completes to function `f` any more. -/
def Control.disown (c : Control) (f : Nat) : Control :=
  let own := fun (o : Option (Nat × Nat)) => match o with | some x => if x.1 = f then none else some x | none => none
  { c with
    start := own c.start
    swap := c.swap.map fun w => { w with owner := own w.owner }
    phases := c.phases.map fun p => { p with owner := own p.owner }
    load := c.load.map fun l => { l with owner := own l.owner }
    stops := c.stops.filter fun w => match w with | .ring g _ => g != f | .urgent _ => true }

/-- Whether a held access is function `f`'s. -/
def Held.isOf (f : Nat) : Held → Bool
  | .sq g _ _ | .cq g _ _ | .str g _ _ | .urgent g _ => g == f
  | _ => false

/-- The fields of function `f`'s page that are of class F or S take their reset values. -/
def State.losePage (s : State) (f : Nat) : State :=
  let lo := (0x1000000 + 0x10000 * f) * 64
  { s with regs := s.regs.filter fun x => !(decide (lo ≤ x.1) && decide (x.1 < lo + 0x10000 * 64) && (classOfKey x.1).lost 0xC) }

/-- Map entries of the eight ring keys of function `f` go. -/
def dropRings {α : Type} (f : Nat) (m : SMap α) : SMap α := m.filter fun x => x.1 / 8 != f

/-- FLR of function `f`. -/
def State.flrNow (s : State) (f : Nat) : State :=
  let s1 := s.each (List.range 4) fun s q => s.orphan f q
  let s2 := s1.setCtl (s1.ctl.disown f)
  let kept := s2.host.sq.filter fun x => decide (x.1 / 8 ≠ f ∨ 4 ≤ x.1 % 8)
  let s3 := { s2.losePage f with
    latch := { wr := s2.latch.wr.filter (fun x => x.1 / 2 ^ 32 != f), rd := s2.latch.rd.filter (fun x => x.1 / 2 ^ 32 != f) }
    host := { s2.host with
      sq := kept.map fun (x : Nat × Sq) => (x.1, if x.1 / 8 = f then { x.2 with tail := 0 } else x.2)
      cq := dropRings f s2.host.cq
      str := dropRings f s2.host.str
      wide := s2.host.wide.filter (fun x => x.1 != f)
      held := s2.host.held.filter (fun h => !h.isOf f) }
    obs := { s2.obs with life := { s2.obs.life with resets := SMap.upd s2.obs.life.resets 0 4 (· + 1) } } }
  s3.setReef { s3.reef with flr := SMap.put f (s.time.clk + 250000) s3.reef.flr }

/-- FLR: a configuration write; in a reef state it waits for ready as every PCIe request does (R418). [DESIGN CHOICE, log entry 130] -/
def execFlr (f : Fin 8) (s : State) : Host.Outcome State Fault Refusal :=
  .next (s.bus (.flr f) fun s => s.flrNow f)

/-! ### The loss record at ready (R327, R431) -/

/-- Causes in the order in which R431 names the first that took part. -/
def causeOrder : List Nat := [7, 5, 6, 4, 2, 1, 3]

/-- A function page's record of a loss event. -/
def State.recordPage (s : State) (mask f : Nat) : State :=
  (s.set (R.fnStateLostClasses f) (s.get (R.fnStateLostClasses f) ||| mask)).inc (R.fnLossEpochEpoch f)

/-- The loss event of `causes` is recorded: device-wide, once for events that overlap, and for the functions it touched. After a POR the reset values of class A are that record. [DESIGN CHOICE, log entry 126] -/
def State.recordLoss (s : State) (causes : List Nat) (mask : Nat) (fns : List Nat) : State :=
  if causes.isEmpty then s else
  let cause := (causeOrder.find? fun c => causes.contains c).getD 0
  if cause = 7 then s else
  let s1 := ((s.set R.hifStateLostClasses (s.get R.hifStateLostClasses ||| mask)).set R.hifStateLostCause cause).when (!s.reef.merged) fun s =>
    s.inc R.hifLossEpochEpoch
  s1.each fns fun s f => s.recordPage mask f

/-- LPDDR5X is trained (R16, R17, R489, R518). [DESIGN CHOICE, log entry 28] -/
def State.trainLpddr (s : State) : State :=
  let ecc := s.flag R.mgtDdrInlineEcc
  let mib := if ecc then s.reef.gib * 1024 * 7 / 8 else s.reef.gib * 1024
  ((s.setFlag R.mgtDdrEccOn ecc).set R.mgtDdrUsableMib mib).set R.dbgLpddrRsvAddr ((mib - 1280) * 2 ^ 20)

/-- Mainstay boots: its lifetime values come from the newest copy, resets are counted, and a copy is due (R487). [DESIGN CHOICE, log entry 129] -/
def State.bootMainstay (s : State) : State :=
  let c := newestCopy s.obs.flash
  let l := match c with | some x => x.2 | none => {}
  let l' := { l with resets := s.reef.counted.foldl (fun m k => SMap.upd m 0 k (· + 1)) l.resets }
  let next := match c with | some x => (x.1 + 1) % 128 | none => 0
  let t := { s with obs := { s.obs with life := l', lifeAt := l.powerOn, sampleAt := s.time.clk, flashNext := next, lifeDue := s.obs.lifeDue || !s.reef.counted.isEmpty } }
  (t.setFlag R.lifStatusValid c.isSome).setReef { t.reef with counted := [] }

/-- The PCIe link has trained: HIF_LINK shows a speed and a width, which are free values, and the configuration space holds its reset values (R421). [DESIGN CHOICE, log entry 125] -/
def State.trainLink (s : State) : State :=
  if s.flag R.hifLinkSpeed then s else (({ s with host := { s.host with roOff := [] } }.took 2).set R.hifLinkSpeed (1 + s.freeValue % 5)).set R.hifLinkWidth (2 ^ (Config.free (s.free + 1) % 4))

/-- The counters of R382 advanced by `d` units. -/
def State.forward (s : State) (d : Nat) : State :=
  let dev := wrapTime (s.time.dev + d)
  s.setTime { s.time with dev := dev, followers := List.replicate 4 dev, domA := wrapTime (s.time.domA + d), domB := wrapTime (s.time.domB + d) }

/-- What REEF2's exit restores and marks (R209, R378, R382, R419): time from the AON clock, OLD contexts, held captures. [DEDUCED, log entry 124] -/
def State.leaveReef2 (s : State) : State :=
  let link := (s.get R.hifLinkSpeed, s.get R.hifLinkWidth)
  let s1 := (((s.loseFields 8).loseSampled true true).forward (aonUnits (s.time.clk - s.reef.sinceClk))).setFlag R.timStatusCoarse true
  let s2 := ((s1.set R.hifLinkSpeed link.1).set R.hifLinkWidth link.2).ageAll.retime
  let s3 := s2.each ((List.range 4).filter fun p => s2.flag (R.timTpoCfgEn p) && (s2.tpo p).armed) fun s p => s.placeTpo p
  let s4 := s3.each s.reef.coarse fun s x => (s.capture x.1 x.2).setFlag (R.timTciStatCoarse x.1) true
  { s4 with reef := { s4.reef with coarse := [], causes := s4.reef.causes ++ [1], classes := s4.reef.classes ||| 8 }, ctl := { s4.ctl with marked := s4.tick } }

/-- What REEF3's exit loses and boots (R419, R428). -/
def State.leaveReef3 (s : State) : State :=
  let t := s.loseAll false 0xE [2] 0
  ((t.trainLpddr).bootMainstay).trainLink

/-- Ready in SAIL: the losses since the last ready are recorded as one event, every function is READY (R416, R431). -/
def State.becomeReady (s : State) : State :=
  let r := s.reef
  if r.causes.isEmpty then
    ({ s with phase := .sail }.each ((List.range 8).filter fun f => (SMap.find? f r.flr).isNone) fun s f => s.setFlag (R.fnStatusReady f) true).touch
  else
    let flr := !r.flr.isEmpty
    let s1 := s.recordLoss (if flr then r.causes ++ [3] else r.causes) (if flr then r.classes ||| 0xC else r.classes) (List.range 8)
    ({ s1 with phase := .sail, reef := { s1.reef with causes := [], classes := 0, flr := [], merged := false } }.setReady true).touch

/-- MGT_REEF_STATUS after leaving REEF `n`. -/
def State.showWake (s : State) (n : Nat) (m : WakeMark) : State :=
  ((s.set R.mgtReefStatusLastState n).set R.mgtReefStatusWakeSrc m.src).set R.mgtReefStatusWakePort m.port

/-- What becomes ready at this cycle, held accesses aside: none where nothing does. [DESIGN CHOICE, log entry 130] -/
def State.comeReady (s : State) : Option State :=
  match s.phase with
  | .boot r =>
    if r ≤ s.time.clk ∧ !s.reef.testEn then
      let s1 := (((s.trainLpddr).bootMainstay).trainLink).becomeReady
      some (match s.reef.woken with
        | some x => (s1.setReef { s1.reef with woken := none }).showWake x.1 x.2
        | none => s1)
    else none
  | .exiting n r m =>
    if r ≤ s.time.clk then
      let s1 := if n = 2 then s.leaveReef2 else if n = 3 then s.leaveReef3 else s
      some ((s1.becomeReady).showWake n m)
    else none
  | .sail =>
    match s.reef.flr.filter fun x => decide (x.2 ≤ s.time.clk) with
    | [] => none
    | l =>
      let s1 := s.recordLoss [3] 0xC (l.map (·.1))
      let left := s.reef.flr.filter fun x => !decide (x.2 ≤ s.time.clk)
      some ((s1.setReef { s1.reef with flr := left, merged := !left.isEmpty }).each l fun s x => s.setFlag (R.fnStatusReady x.1) true)
  | _ => none

/-! ### The rail check (R419, R420) -/

/-- The rails of R491 that power-enable outputs switch: nominal voltage in mV and the output; the compute dies at the boot voltage. -/
def railTable : List (Nat × Nat) :=
  [(1800, 0), (3300, 0), (800, 1), (800, 1), (1200, 1), (500, 2), (750, 2), (750, 3), (750, 3), (750, 4), (750, 4), (1200, 5)]

/-- Whether a reading lies within ±5 % of a nominal value. -/
def within5 (nominal mv : Nat) : Bool := decide (95 * nominal ≤ 100 * mv) && decide (100 * mv ≤ 105 * nominal)

/-- The first output whose rails fail the check, by the readings in the order of R491; `ddr` says whether the supplies of the LPDDR5X devices pass, whose nominal values the spec does not give. [DEDUCED, log entry 145] -/
def failedPen (mv : List Nat) (ddr : Bool) : Option Nat :=
  (List.range 6).find? fun k => (railTable.zipIdx.any fun x => x.1.2 == k && !within5 x.1.1 (mv.getD x.2 0)) || (k == 2 && !ddr)

/-- The rail check at 12 ms of a sequence (R420): passed, or the outputs are released 1 ms apart on the way back to REEF3. -/
def State.checkRails (s : State) (mv : List Nat) (ddr : Bool) : State :=
  match s.reef.rails with
  | .rising t =>
    if s.time.clk < t + railCheckAt then s
    else match failedPen mv ddr with
      | none => s.setReef { s.reef with rails := .up }
      | some k =>
        { s with phase := .entering 3 (t + railCheckAt + penRelease) none, reef := { s.reef with rails := .falling (t + railCheckAt) (some k), woken := none } }
  | _ => s

end Sys2Proof.Machine
end

