-- ==== Sys2Proof/Machine/Errors.lean ====
section
/-! DEFINITION. Error classes: dies going offline, the Device-fatal halt, Vejan and Halyard retries, die resets, scrubbing, thermal trip, progress watchdogs, service modes (R439–R463, R477–R480). -/

namespace Sys2Proof.Machine

/-- Error handling replaced. -/
def State.setErr (s : State) (e : Errors) : State := { s with err := e }

/-! ### The Device-fatal halt (R456) -/

/-- The staged records of a ring are written while its room allows. -/
def State.flushRing (s : State) (f r : Nat) : State := s.each (List.range (s.str f r).staged.length) fun s _ => s.streamWrite f r .ok

/-- Every stream record already staged is written, in ring order. -/
def State.flushStaged (s : State) : State := s.each (List.range 8) fun s f => s.each (List.range 8) fun s r => s.flushRing f r

/-- REFLEX0, REFLEX1 and THR_OUT go inactive, and the time pulse outputs stop. -/
def State.dropOutputs (s : State) : State :=
  let s1 := s.each (List.range 2) fun s r => s.setFlag (R.fabReflexStatAsserted r) false
  (s1.setFlag R.fltThrOutLevel false).setTime { s1.time with tpo := [] }

/-- The ERROR_REPORT of step 3: staged and written at once. -/
def State.reportFatal (s : State) (source die unit detail : Nat) : State :=
  let ring := s.get R.errDestRing
  (((s.inc R.cntReport).stage 0 ring (errorReport .deviceFatal source die unit 1 s.now detail)).flushRing 0 ring)

/-- Every descriptor fetched and not completed completes with DEVICE_FATAL, and FN_VEC.ERR of each function is raised. -/
def State.failDescriptors (s : State) : State :=
  let s1 := s.each (List.range 8) fun s f => s.each (List.range 4) fun s q => s.complete f q { status := .deviceFatal }
  s1.each (List.range 8) fun s f => s.raise f (s.get (R.fnVecErr f))

/-- Steps 2 to 4 of R456; what a producer has handed over counts as staged (R458). -/
def State.settleHost (s : State) (source die unit detail : Nat) : State :=
  (s.stageAll.flushStaged.reportFatal source die unit detail).failDescriptors

/-- The steps of R456; the writes of steps 2 to 4 are skipped while the link takes none, outside SAIL. [DESIGN CHOICE, log entry 134] -/
def State.haltDevice (s : State) (source die unit detail : Nat) : State :=
  if s.halted then s
  else { s with halted := true }.dropOutputs.when s.served fun s => s.settleHost source die unit detail

/-! ### A die goes offline (R454, R455) -/

/-- Every record in progress takes note: the current window contains the loss. -/
def State.markWindow (s : State) : State :=
  let j := s.currentWindow
  if s.fab.running then
    let w := SMap.get s.fab.windows {} j
    s.setFab { s.fab with windows := SMap.put j { w with loss := true } s.fab.windows }
  else s

/-- Whether a layer of a set lies on die `d`. -/
def ConfigSet.onDie (c : ConfigSet) (d i : Nat) : Bool := (c.layers.getD i noLayer).die == d

/-- A set's packets addressed to die `d`. -/
def ConfigSet.packetsTo (c : ConfigSet) (d : Nat) : List DeltaPacket := c.packets.filter fun k => c.onDie d k.consumer

/-- Die `d` is lost to a set: packets to it are discarded, and the packet groups that its producers had open are closed with the words already written and marked as errors (R438, R454). -/
def ConfigSet.loseDie (c : ConfigSet) (d : Nat) : ConfigSet :=
  (c.leave (c.packets.filter fun k => !c.onDie d k.consumer)).fill (c.onDie d) true

/-- How many packets of a set, where there is one, die `d` loses. -/
def lostPackets (c : Option ConfigSet) (d : Nat) : Nat := match c with | some c => (c.packetsTo d).length | none => 0

/-- Delta packets and spikes addressed to die `d` are discarded and counted. -/
def State.discardTo (s : State) (d : Nat) : State :=
  let sp := fun (f : Spike) => dieOfCore f.core == d
  let s1 := s.add R.cntDieDiscard (lostPackets s.active d + lostPackets s.shadow d + (s.fab.flight.filter sp).length)
  { s1 with
    active := s1.active.map fun c => c.loseDie d
    shadow := s1.shadow.map fun c => c.loseDie d
    fab := { s1.fab with flight := s1.fab.flight.filter fun f => !sp f } }

/-- A LOAD_SET that places data on the die completes with DIE_LOST, its shadow set EMPTY. [DEDUCED, log entry 132] -/
def State.loseLoad (s : State) (d : Nat) : State :=
  match s.ctl.load with
  | some l => if l.set.usesDie d then (s.emptyShadow.completeOwner l.owner { status := .dieLost }).showLoadWait else s
  | none => s

/-- A pending swap whose new set maps work to the die is cancelled with DIE_LOST. [DEDUCED, log entry 132] -/
def State.loseSwap (s : State) (d : Nat) : State :=
  match s.ctl.swap, s.shadow with
  | some w, some c => if c.usesDie d then (s.settleSwap false).completeOwner w.owner { status := .dieLost } else s
  | _, _ => s

/-- Every ring that runs a DUMP_FETCH completes with `o`. -/
def State.endFetches (s : State) (o : Done) : State :=
  s.each (List.range 8) fun s f => s.each (List.range 4) fun s q =>
    match s.runningOp f q with
    | some (.dumpFetch ..) => s.complete f q o
    | _ => s

/-- A DUMP_FETCH that waits for the die's part completes with DIE_LOST, and the part is left out (R482). -/
def State.loseDumpPart (s : State) (d : Nat) : State :=
  match s.obs.dump with
  | some x =>
    if x.waiting.contains d then
      { s with obs := { s.obs with dump := some { x with waiting := x.waiting.filter (· != d) } } }.endFetches { status := .dieLost }
    else s
  | none => s

/-- A compute die's part of R454. -/
def State.loseCompute (s : State) (d : Nat) : State := ((s.discardTo d).markWindow.loseLoad d).loseSwap d

/-- Events already decoded are discarded on port `p` (R455). [DEDUCED, log entry 133] -/
def State.dropQueue (s : State) (p : Nat) : State :=
  let n := (s.port p).path.length + (s.port p).queue.length
  (((s.add (R.ingCntDieDrop p) n).add R.cntDieDiscard n).setPort p { s.port p with path := [], queue := [] }).waterMarks p

/-- A tap of a lost engine: its closed record and the open one, cut short and marked as an error, pass on (R438). -/
def State.loseTap (s : State) (e : Nat) (c : Bool) : State :=
  let t := s.tap e c
  let l := t.closed.toList ++ (if t.filling.entries.isEmpty then [] else [{ t.filling with error := true }])
  (s.setTap e c {}).each l fun s x => s.stage (s.get R.srfTapFunc) (s.get R.srfTapRing) (x.rcd e c)

/-- The trace ring has lost what lay in an MSD: IDLE, with no content, as R470 has it for a loss of class S. [DEDUCED, log entry 133] -/
def State.loseTrace (s : State) : State :=
  if s.obs.trace.sizeMib = 0 then s else (s.set R.dbgTraceStateState traceIdle).setTrace s.obs.trace.cleared

/-- An MSD's part of R455: its engines, its half of the Canvas, every decoded event, and every input spike not yet injected. [DEDUCED, log entry 133] -/
def State.loseMemory (s : State) (d : Nat) : State :=
  let mine := fun (e : Nat) => dieOfEngine e == d
  let s0 := s.each ((List.range 16).filter fun i => mine (i / 2)) fun s i => s.loseTap (i / 2) (i % 2 == 1)
  let c := s0.cv
  let s1 := s0.loseTrace.setCv { c with
    bad := c.bad.filter fun x => x.1 / 2 ^ 24 != d - 2
    entries := c.entries.filter fun x => x.1 / 2 ^ 24 != d - 2
    recent := c.recent.filter fun w => !mine w.engine
    dirty := c.dirty.filter fun t => !mine t.engine
    fits := c.fits.filter fun x => !mine x.1
    spikes := []
    wheel := c.wheel.filter fun x => !mine (x.1 / 2 ^ 19 / 512) }
  let s2 := { s1 with ing := { s1.ing with words := s1.ing.words.filter fun x => !mine x.1 } }
  s2.each (List.range 8) fun s p => s.dropQueue p

/-- A service mode is entered: its event rings start empty (R480). -/
def State.enterMode (s : State) (m : Nat) : State :=
  if s.get R.hifSvcMode = m then s else (s.set R.hifSvcMode m).setErr { s.err with ringSince := s.now }

/-- Die `d` goes offline, and the device enters RECOVERY. -/
def State.takeOffline (s : State) (d : Nat) : State :=
  let s1 := (s.set R.errOfflineDies (setBit (s.get R.errOfflineDies) d true)).enterMode 3
  let s2 := s1.setErr { s1.err with dieResets := SMap.del d s1.err.dieResets }
  (if d < 2 then s2.loseCompute d else s2.loseMemory d).loseDumpPart d

/-! ### Fatal faults (R449, R450) -/

/-- The class of a fatal fault of die `d`: Device-fatal on the IOD, and where no die of the kind would stay online. -/
def State.fatalClass (s : State) (d : Nat) : FaultClass :=
  if d < 4 && (s.dieOff d || !s.dieOff (if d < 2 then 1 - d else 5 - d)) then .dieFatal else .deviceFatal

/-- What a fatal fault does beyond being counted and reported; for a die that is offline already, nothing. -/
def State.applyFatal (s : State) (cls : FaultClass) (source die unit detail : Nat) : State :=
  match cls with
  | .deviceFatal => s.haltDevice source die unit detail
  | .dieFatal => if s.dieOff die then s else s.takeOffline die
  | _ => s

/-! ### The hang snapshot (R478–R481) -/

/-- The source of an expiry on a die. -/
def hangSource (die : Nat) : Nat := if die = dieIod then 0x0E else 0x0D

/-- The fault of an expiry acts. -/
def State.hangActs (s : State) (die unit : Nat) : State :=
  s.applyFatal (s.fatalClass die) (hangSource die) die unit 0

/-- Bytes 0–3 of a unit section: INDEX, KIND, DIE (R481). -/
def unitCode (u : UnitSnap) (die : Nat) : Nat := u.index + 2 ^ 16 * u.kind + 2 ^ 24 * die

/-- The 32 bytes of a queue in a unit section (R481). -/
def queueBytes (x : QueueSnap) : List Byte :=
  leBytes x.queue 2 ++ leBytes x.occupancy 2 ++ leBytes x.held 2 ++ leBytes x.owed 2 ++ leBytes x.head0 8 ++ leBytes x.head1 8
    ++ leBytes (b2n x.valid0 + 2 * b2n x.poison0 + 4 * b2n x.valid1 + 8 * b2n x.poison1) 8

/-- Whether the service mode keeps event rings (R479): every mode but RUN. -/
def Dump.events (d : Dump) : Bool := d.mode != 0

/-- The 64 words of a unit's event ring, oldest first (R479, R480): events of the present mode, then slots in which none has come. [DESIGN CHOICE, log entry 135] -/
def Dump.ring (d : Dump) (die : Nat) (u : UnitSnap) : List Nat :=
  let cap := SMap.get d.captured 0 die
  let l := u.events.filter fun w => decide ((cap + 2 ^ 32 - w % 2 ^ 32) % 2 ^ 32 ≤ cap - d.ringSince)
  l ++ (List.range (64 - l.length)).map fun k => (Config.emptyEvent cap (unitCode u die) (l.length + k)).toNat

/-- The section of a unit of die `die` (R481): HUNG where its watchdog expired. -/
def Dump.sectionOf (d : Dump) (die : Nat) (u : UnitSnap) : List Byte :=
  leBytes (unitCode u die) 4 ++ leBytes u.wait 1 ++ leBytes (b2n (d.hung.contains (die, unitCode u die)) + 2 * b2n d.events) 1
    ++ leBytes u.queues.length 2 ++ leBytes u.waitOn 4 ++ leBytes u.idleUs 4 ++ u.queues.flatMap queueBytes
    ++ (if d.events then (d.ring die u).flatMap fun w => leBytes w 8 else [])

/-- The unit sections of a dump, in die order, a die's units as it captured them. -/
def Dump.body (d : Dump) : List Byte := (List.range 5).flatMap fun k => (SMap.get d.sections [] k).flatMap (d.sectionOf k)

/-- N_UNIT. -/
def Dump.count (d : Dump) : Nat := ((List.range 5).map fun k => (SMap.get d.sections [] k).length).sum

/-- TOTAL_LEN. -/
def Dump.total (d : Dump) : Nat := 128 + d.body.length

/-- The latest minus the earliest capture time. -/
def Dump.smear (d : Dump) : Nat :=
  match d.captured.map (·.2) with
  | [] => 0
  | t :: l => l.foldl max t - l.foldl min t

/-- DIE_MASK. -/
def Dump.mask (d : Dump) : Nat := ((List.range 5).map fun k => if (SMap.find? k d.captured).isSome then 2 ^ k else 0).sum

/-- The header of R481. -/
def Dump.header (d : Dump) : List Byte :=
  leBytes 0x44554D50 4 ++ leBytes 1 2 ++ leBytes (d.mode + 4 * b2n d.events) 1 ++ [0] ++ leBytes d.total 4
    ++ leBytes d.count 4 ++ leBytes d.source 1 ++ leBytes d.die 1 ++ [0, 0] ++ leBytes d.unit 4
    ++ leBytes d.time 8 ++ (List.range 5).flatMap (fun k => leBytes (SMap.get d.captured 0 k) 8) ++ leBytes d.smear 4
    ++ leBytes d.mask 1 ++ [0, 0, 0] ++ leBytes (tickOf d.time) 8 ++ List.replicate 40 0

/-- The dump's bytes. -/
def Dump.bytes (d : Dump) : List Byte := d.header ++ d.body

/-- DUMP_CHUNK records of up to 65,536 bytes of `b`, which begins at dump offset `ofs` (R482); `fuel` bounds the walk. -/
def dumpChunks : Nat → Nat → List Byte → List Rec
  | 0, _, _ => []
  | n + 1, ofs, b =>
    if b.isEmpty then []
    else
      let part := b.take 65536
      { type := 0x05, payload := leBytes ofs 8 ++ leBytes part.length 4 ++ [0, 0, 0, 0] ++ part } :: dumpChunks n (ofs + part.length) (b.drop 65536)

/-- A DUMP_FETCH copies its part of the dump `d` (R482); `eccs` is what its reads find, one for each record. A poisoned part never leaves as a poisoned TLP: what it holds is free, and the descriptor completes POISONED (R290, R453). -/
def State.serveDump (s : State) (f q : Nat) (d : Dump) (eccs : List Ecc) : Op → State
  | .dumpFetch addr len ofs toRing ring =>
    let part := slice d.bytes ofs len
    let result := part.length + 2 ^ 32 * d.total
    if toRing then
      let t := s.readChunks State.copyRead State.lpddrPoison 16 (dumpChunks (part.length / 65536 + 1) ofs part) eccs
      t.1.beginWriter f q ring t.2 result
    else
      let e := eccs.headD .ok
      let bad := s.lpddrPoison e
      let t := (s.copyRead e).took part.length
      (t.post f addr true (if bad then freeBytes s.free part.length else part)).complete f q
        (if bad then { status := .poisoned, result := result } else .okay result)
  | _ => s

/-- Every DUMP_FETCH that waited for the dump is served. -/
def State.serveFetches (s : State) (d : Dump) (eccs : List Ecc) : State :=
  s.each (List.range 8) fun s f => s.each (List.range 4) fun s q =>
    match s.runningOp f q with
    | some op => s.serveDump f q d eccs op
    | none => s

/-- DUMP_FETCH (R482). -/
def execDumpFetch (f : Fin 8) (q : Fin 4) (eccs : List Ecc) (s : State) : Host.Outcome State Fault Refusal :=
  .next (s.clocked (match s.fetchedOp f q with
    | some (.dumpFetch addr len ofs toRing ring) =>
      if toRing && !s.flag (R.fnStrCfgEn f ring) then s.complete f q (.bad 0x08)
      else match s.obs.dump with
        | none => s.complete f q { status := .noResource, reason := 0x25 }
        | some d => if d.waiting.isEmpty then s.serveDump f q d eccs (.dumpFetch addr len ofs toRing ring) else s.begin f q
    | _ => s))

/-- Every part awaited has been written: the dump is complete, waiting fetches are served, and the faults that ordered it act. [DESIGN CHOICE, log entry 135] -/
def State.finishDump (s : State) (eccs : List Ecc) : State :=
  match s.obs.dump with
  | some d =>
    if d.waiting.isEmpty && s.flag R.dbgDumpStatusBusy then
      let s1 := ((s.setFlag R.dbgDumpStatusBusy false).setFlag R.dbgDumpStatusValid true).set R.dbgDumpLenLen d.total
      (s1.serveFetches d eccs).each d.hung fun s x => s.hangActs x.1 x.2
    else s
  | none => s

/-- A fatal fault: reported, then handled; a snapshot that awaited no other part is then complete. -/
def State.fatal (s : State) (source die unit detail : Nat) : State :=
  let c := s.fatalClass die
  ((s.fault c source die unit detail).applyFatal c source die unit detail).finishDump []

/-- A Device-fatal error that no die's loss explains (R407, R448). -/
def State.deviceFatal (s : State) (source die unit : Nat) : State :=
  (s.fault .deviceFatal source die unit 0).haltDevice source die unit 0

/-! ### Vejan links and Halyard (R445–R448, R461, R462) -/

/-- Link `l` replaced. -/
def State.setLink (s : State) (l : Nat) (v : Link) : State := s.setErr { s.err with link := SMap.set s.err.link {} l v }

/-- The die that a failed link takes offline (R446); reports about the link name it. -/
def dieOfLink (l : Nat) : Nat := if l = 0 ∨ l = 1 ∨ l = 5 then dieCd0 else dieCd1

/-- The LINK trace entry (R473). -/
def State.traceLink (s : State) (l kind : Nat) : State := s.trace (dieOfLink l) 10 l kind (s.get (R.errLinkCntRetry l))

/-- An armed injection with REPEAT = 0 has acted on this link (R461). -/
def State.injectedFlit (s : State) (l : Nat) : State :=
  s.when (s.testMode && s.get R.errFiVejanLink == l && !s.flag R.errFiVejanRepeat) fun s => s.set R.errFiVejanMode 0

/-- A retry on link `l`: counted, reported, and the eighth within 1 ms begins a retrain. [DESIGN CHOICE, log entry 131] -/
def State.linkRetry (s : State) (l : Nat) : State :=
  let times := s.now :: (s.link l).retries.filter fun t => decide (s.now < t + 1000000)
  let s1 := ((((s.inc (R.errLinkCntRetry l)).traceLink l 1).fault .corrected 0x07 (dieOfLink l) l 0).injectedFlit l)
  if 8 ≤ times.length then s1.setLink l { retrain := some s.now } else s1.setLink l { retries := times }

/-- VEJAN_RETRY. -/
def execVejanRetry (l : Fin 7) (s : State) : Host.Outcome State Fault Refusal :=
  .next (s.clocked (if (s.link l).retrain.isSome then s else s.linkRetry l))

/-- A retrain that took `n` retrains into the lifetime records (R486). -/
def State.lifeRetrain (s : State) (l : Nat) : State :=
  { s with obs := { s.obs with life := { s.obs.life with retrains := SMap.upd s.obs.life.retrains 0 l (· + 1) } } }

/-- A retrain fails once 10 µs have passed without its end (R446). -/
def retrainMax : Nat := 10000

/-- RETRAIN_COMPLETE. -/
def execRetrainComplete (l : Fin 7) (s : State) : Host.Outcome State Fault Refusal :=
  .next (s.clocked (match (s.link l).retrain with
    | some t =>
      if s.now < t + retrainMax then
        ((((s.setLink l {}).inc (R.errLinkCntRetrain l)).lifeRetrain l).traceLink l 2).fault .corrected 0x08 (dieOfLink l) l 0
      else s
    | none => s))

/-- RETRAIN_TIMEOUT. -/
def execRetrainTimeout (l : Fin 7) (s : State) : Host.Outcome State Fault Refusal :=
  .next (s.clocked (match (s.link l).retrain with
    | some t => if s.reached (t + retrainMax) then (s.setLink l {}).fatal 0x09 (dieOfLink l) l 0 else s
    | none => s))

/-- HALYARD_HOP_RETRY (R448): three failures are retried, the fourth is Device-fatal. [DESIGN CHOICE, log entry 131] -/
def execHalyardHopRetry (s : State) : Host.Outcome State Fault Refusal :=
  .next (s.clocked (
    if s.err.hopFails < 3 then (s.inc R.cntHalRetry).setErr { s.err with hopFails := s.err.hopFails + 1 }
    else (s.setErr { s.err with hopFails := 0 }).deviceFatal 0x0F dieIod 0))

/-! ### Die reset (R426, R427, R460) -/

/-- The dies that a mask names. -/
def namedDies (v : Nat) : List Nat := (List.range 4).filter fun d => bit v d

/-- A write to MGT_DIE_RESET: in RECOVERY, and for offline dies only. -/
def State.writeDieReset (s : State) (v : Nat) : State :=
  let l := namedDies v
  if s.get R.hifSvcMode == 3 && l.all s.dieOff then
    s.each l fun s d =>
      { s.setErr { s.err with dieResets := SMap.put d (s.time.clk + 5000000) s.err.dieResets } with
        obs := { s.obs with life := { s.obs.life with resets := SMap.upd s.obs.life.resets 0 5 (· + 1) } } }
  else s

/-- DIE_RESET. -/
def execDieReset (v : Word) (s : State) : Host.Outcome State Fault Refusal :=
  .next (s.bus (.write 0 false R.mgtDieResetDie.addr 4 v.toNat) fun s => s.writeDieReset v.toNat)

/-- The die is back, parked until a swap brings in a set that maps work to it. -/
def State.dieBack (s : State) (d : Nat) : State :=
  let park := d < 2 && setUses s.active d
  let s1 := s.set R.errOfflineDies (setBit (s.get R.errOfflineDies) d false)
  s1.when park fun s => s.setErr { s.err with parked := setBit s.err.parked d true }

/-- DIE_RESET_DONE (R460), 20 ms after the reset: `pass` when self-test and links both passed. -/
def execDieResetDone (d : Fin 4) (pass : Bool) (s : State) : Host.Outcome State Fault Refusal :=
  .next (s.clocked (match SMap.find? d.val s.err.dieResets with
    | some t =>
      if t ≤ s.time.clk then
        let s1 := s.setErr { s.err with dieResets := SMap.del d.val s.err.dieResets }
        if pass then s1.dieBack d else s1.fatal 0x11 d 0 0
      else s
    | none => s))

/-! ### Memory and temperature -/

/-- The die of an address of a kind of SRAM, units counted through the dies (R11, R14). [DESIGN CHOICE, log entry 70] -/
def dieOfMem (m : MemKind) (addr : Nat) : Nat :=
  match m with
  | .core => dieOfCore (addr / 2 ^ 21)
  | .cluster => if addr / 2 ^ 23 < 4 then dieCd0 else dieCd1
  | .bolt => if addr / 2 ^ 27 = 0 then dieMsd0 else dieMsd1

/-- The place in ECC_CORR of the lifetime records (R486). -/
def placeOfMem (m : MemKind) (addr : Nat) : Nat :=
  match m with
  | .core => 2 * dieOfMem m addr
  | .cluster => 2 * dieOfMem m addr + 1
  | .bolt => dieOfMem m addr + 2

/-- Whether a word of a set is stored as poisoned. -/
def ConfigSet.wordBad (c : ConfigSet) (w : MemWord) : Bool :=
  match wordLayer w with
  | some i => (c.layers.getD i noLayer).isBad w
  | none => c.fab.isBad w

/-- A word of a set stored as poisoned, where the set holds it. -/
def ConfigSet.spoil (c : ConfigSet) (v : Nat) (w : MemWord) : ConfigSet :=
  match wordLayer w with
  | some i => if (c.layers.getD i noLayer).holds w then { c with layers := c.layers.set i ((c.layers.getD i noLayer).spoil v w) } else c
  | none => if c.fab.holds w then { c with fab := c.fab.spoil v w } else c

/-- Whether a scrubbed word is stored as poisoned: a Canvas entry, or a word of a loaded set. -/
def State.wordBad (s : State) (shadow : Bool) : MemWord → Bool
  | .canvas k => SMap.get s.cv.bad false k
  | w => match (if shadow then s.shadow else s.active) with | some c => c.wordBad w | none => false

/-- A scrubbed word stored as poisoned (R440); what it then reads as is free. [DESIGN CHOICE, log entry 70] -/
def State.storePoison (s : State) (shadow : Bool) : MemWord → State
  | .canvas k => s.setCv { s.cv with bad := SMap.set s.cv.bad false k true }
  | w =>
    let t := s.took 1
    if shadow then { t with shadow := t.shadow.map fun c => c.spoil s.freeValue w }
    else { t with active := t.active.map fun c => c.spoil s.freeValue w }

/-- SCRUB_VISIT (R440): the word at `addr` is read, and its error handled under R439; `hit` names what the word holds, in the shadow set where `shadow`. A word that holds nothing of the model reads without error once it is stored as poisoned. [DESIGN CHOICE, log entry 70] -/
def execScrubVisit (m : MemKind) (addr : Nat) (shadow : Bool) (hit : MemHit) (s : State) : Host.Outcome State Fault Refusal :=
  .next (s.clocked (
    if s.dieOff (dieOfMem m addr) || s.wordBad shadow hit.word then s
    else (s.eccRead hit.ecc (dieOfMem m addr) (placeOfMem m addr) addr).when (hit.ecc == .uncorrectable) fun s => s.storePoison shadow hit.word))

/-- The die of a temperature sensor (R409). -/
def dieOfSensor (k : Nat) : Nat := (sensorSpan.findIdx? fun x => decide (x.1 ≤ k) && decide (k < x.2)).getD dieIod

/-- The power-enable output behind which die `d`'s rail stands (R491). -/
def penOfDie (d : Nat) : Nat := if d < 2 then 4 else if d < 4 then 3 else 1

/-- THERMTRIP (R407): a hardware comparator, at work wherever the sensor's die is powered. [DEDUCED, log entry 146] -/
def execThermtrip (sensor : Nat) (temp : Int) (s : State) : Host.Outcome State Fault Refusal :=
  .next (
    if s.railOn (penOfDie (dieOfSensor sensor)) && decide (125 ≤ temp) && decide (sensor < 44) then
      let s1 := (s.set (R.pwrTsensTemp sensor) (ofInt 8 (clampInt (-128) 127 temp))).setFlag R.pwrThermStatusTrip true
      if s.halted then s1 else s1.deviceFatal 0x10 (dieOfSensor sensor) sensor
    else s)

/-! ### Progress watchdogs (R477, R478) -/

/-- HANG_TIMEOUT in ns (R489). -/
def State.hangNs (s : State) : Nat := 1000 * s.getIn R.dbgHangTimeoutUs 100 65535

/-- The wait reasons that count towards an expiry (R477). -/
def reasonCounts (r : Nat) : Bool := decide (1 ≤ r) && decide (r ≤ 7)

/-- PROGRESS_WATCHDOG_EXPIRY: a unit with pending work has made no progress for `idleNs` and shown `reasons` meanwhile; an expiry is counted and raised; a snapshot begins where none is held, and is joined while it is taken. -/
def execProgressWatchdogExpiry (die : Fin 5) (unit : Nat) (reasons : List Nat) (idleNs : Nat) (s : State) : Host.Outcome State Fault Refusal :=
  .next (s.clocked (
    if !s.flag R.dbgHangEn || s.dieOff die || !reasons.all reasonCounts || decide (idleNs < s.hangNs) then s else
    let s1 := ((s.inc R.cntHang).condition 6).fault (s.fatalClass die) (hangSource die) die unit 0
    match s.obs.dump with
    | none =>
      let d : Dump := { mode := s.get R.hifSvcMode, source := hangSource die, die := die, unit := unit, time := s.now, ringSince := s.err.ringSince,
                        waiting := (List.range 5).filter fun d => !s.dieOff d, hung := [(die.val, unit)] }
      ({ s1 with obs := { s1.obs with dump := some d } }).setFlag R.dbgDumpStatusBusy true
    | some d =>
      if d.waiting.isEmpty then (s1.inc R.cntDumpSkip).hangActs die unit
      else { s1 with obs := { s1.obs with dump := some { d with hung := d.hung ++ [(die.val, unit)] } } }))

/-- SNAPSHOT_CAPTURE: die `die` captures and writes its part; `eccs` is what the reads of a waiting DUMP_FETCH find. -/
def execSnapshotCapture (die : Fin 5) (units : List UnitSnap) (eccs : List Ecc) (s : State) : Host.Outcome State Fault Refusal :=
  .next (s.clocked (match s.obs.dump with
    | some d =>
      if d.waiting.contains die.val then
        let d' := { d with captured := SMap.put die.val s.now d.captured, sections := SMap.put die.val units d.sections,
                           waiting := d.waiting.filter (· != die.val) }
        { s with obs := { s.obs with dump := some d' } }.finishDump eccs
      else s
    | none => s))

/-! ### Service modes (R330, R480) -/

/-- A write to HIF_SVC: not while a die is offline, and not RECOVERY. -/
def State.writeSvc (s : State) (v : Nat) : State :=
  if s.get R.errOfflineDies = 0 ∧ bits v 0 2 ≠ 3 then s.enterMode (bits v 0 2) else s

/-- SERVICE_MODE_WRITE. -/
def execServiceModeWrite (v : Word) (s : State) : Host.Outcome State Fault Refusal :=
  .next (s.bus (.write 0 false R.hifSvcMode.addr 4 v.toNat) fun s => s.writeSvc v.toNat)

end Sys2Proof.Machine
end

