-- ==== Sys2Proof/Machine/Debug.lean ====
section
/-! DEFINITION. Trace control and capture, counter snapshots and export, surroundings, lifetime records (R466–R476, R485–R488). -/

namespace Sys2Proof.Machine

/-! ### TRACE_CTL (R470, R471, R476) -/

/-- DBG_TRACE_STATE.STATE. -/
def State.traceState (s : State) : Nat := s.get R.dbgTraceStateState

/-- Whether the trace is IDLE or FROZEN. -/
def State.traceRests (s : State) : Bool := s.traceState == traceIdle || s.traceState == traceFrozen

/-- The operands of a fetched TRACE_CTL with action `a`: IN_LPDDR, ring, sources, quota, size. -/
def State.traceOp (s : State) (f q a : Nat) : Option (Bool × Nat × Nat × Nat × Nat) :=
  match s.fetchedOp f q with
  | some (.trace act l r m p z) => if act = a then some (l, r, m, p, z) else none
  | _ => none

/-- What CONFIGURE is refused for (R471). -/
def State.configureFault (s : State) (inLpddr : Bool) (quota size : Nat) : Option Done :=
  if size = 0 || decide ((if inLpddr then 1024 else 16) < size) || decide (size * 32768 ≤ quota) then some (.bad 0x24)
  else if !inLpddr && overlap ((Config.traceSpace size).map rangeOf) (placesOf s.active ++ placesOf s.shadow ++ s.canvasSpace) then
    some { status := .noResource }
  else none

/-- CONFIGURE. -/
def execConfigure (f : Fin 8) (q : Fin 4) (s : State) : Host.Outcome State Fault Refusal :=
  .next (s.clocked (match s.traceOp f q 0 with
    | some (inLpddr, _, sources, quota, size) =>
      if !s.traceRests then s.complete f q (.bad 0x23)
      else match s.configureFault inLpddr quota size with
        | some o => s.complete f q o
        | none =>
          let s1 := (s.set R.dbgTraceStateState traceIdle).setFlag R.dbgTraceStateInLpddr inLpddr
          (s1.setTrace { s.obs.trace.cleared with sources := sources, quota := quota, sizeMib := size, inLpddr := inLpddr }).complete f q (.okay 0)
    | none => s))

/-- The counters that an INGEST entry reports the increases of: commits, sheds, overflows, stale discards (R473). -/
def State.ingestCounts (s : State) (p : Nat) : List Nat :=
  [s.get (R.ingCntCommit p), s.get (R.ingCntShed p), s.get (R.ingCntOvf p), s.get (R.ingCntStale p)]

/-- The counters of all ports, keyed port × 4 + counter. -/
def State.ingestBase (s : State) : SMap Nat :=
  ((List.range 8).flatMap fun p => (s.ingestCounts p).zipIdx.map fun x => (p * 4 + x.2, x.1)).filter fun x => x.2 != 0

/-- ARM. -/
def execArm (f : Fin 8) (q : Fin 4) (s : State) : Host.Outcome State Fault Refusal :=
  .next (s.clocked (match s.traceOp f q 1 with
    | some _ =>
      if s.traceRests then
        (((s.set R.dbgTraceStateState traceArmed).set R.dbgTraceWrCount 0).setTrace
          { s.obs.trace.cleared with ingest := s.ingestBase, exportAt := s.tick }).complete f q (.okay 0)
      else s.complete f q (.bad 0x23)
    | none => s))

/-- A trigger that comes while the trace is not ARMED. -/
def State.ignoreTrigger (s : State) : State := s.inc R.cntTrigIgnored

/-- TRIGGER. -/
def execTrigger (f : Fin 8) (q : Fin 4) (s : State) : Host.Outcome State Fault Refusal :=
  .next (s.clocked (match s.traceOp f q 2 with
    | some _ =>
      if s.traceState = traceArmed then (s.trigger).complete f q (.okay (s.get R.dbgTraceWrCount))
      else s.ignoreTrigger.complete f q (.okay 0)
    | none => s))

/-- Capture stops; what stands in the FIFOs does not reach the ring. [DEDUCED, log entry 136] -/
def State.freezeTrace (s : State) : State := (s.set R.dbgTraceStateState traceFrozen).setTrace { s.obs.trace with fifo := [], post := 0 }

/-- DISARM; a FROZEN trace stays as it is. [DEDUCED, log entry 136] -/
def execDisarm (f : Fin 8) (q : Fin 4) (s : State) : Host.Outcome State Fault Refusal :=
  .next (s.clocked (match s.traceOp f q 3 with
    | some _ => (if s.capturing then s.freezeTrace else s).complete f q (.okay 0)
    | none => s))

/-- The 32 bytes of a trace entry (R472). -/
def TraceEntry.bytes (e : TraceEntry) : List Byte :=
  leBytes e.time 8 ++ leBytes e.source 1 ++ leBytes (e.die % 8) 1 ++ leBytes e.unit 2 ++ leBytes e.arg 4 ++ leBytes e.data 16

/-- TRACE_CHUNK records of up to 4,095 entries (R476); `fuel` bounds the walk. -/
def traceChunks : Nat → Nat → List TraceEntry → List Rec
  | 0, _, _ => []
  | n + 1, first, l =>
    if l.isEmpty then []
    else
      let part := l.take 4095
      let rest := l.drop 4095
      let flags := b2n rest.isEmpty + 2 * b2n (part.any fun e => e.source == 30)
      { type := 0x04, payload := leBytes first 8 ++ leBytes part.length 4 ++ leBytes flags 1 ++ List.replicate 11 0 ++ part.flatMap TraceEntry.bytes }
        :: traceChunks n (first + part.length) rest

/-- DRAIN: the ring's content, oldest first, goes to a stream ring of the function; `eccs` is what the reads of each record's entries find. -/
def execDrain (f : Fin 8) (q : Fin 4) (eccs : List Ecc) (s : State) : Host.Outcome State Fault Refusal :=
  .next (s.clocked (match s.traceOp f q 4 with
    | some (_, r, _, _, _) =>
      if s.traceRests then
        let l := s.obs.trace.ring
        if !s.flag (R.fnStrCfgEn f r) then s.complete f q (.bad 0x08)
        else
          let t := s.readChunks State.traceRead State.tracePoison 24 (traceChunks (l.length / 4095 + 1) (s.get R.dbgTraceWrCount - l.length) l) eccs
          t.1.beginWriter f q r t.2 l.length
      else s.complete f q (.bad 0x23)
    | none => s))

/-! ### Capture (R473–R475) -/

/-- HARDWARE_TRIGGER (R474): condition `k` has come to hold. -/
def execHardwareTrigger (k : Fin 9) (s : State) : Host.Outcome State Fault Refusal :=
  .next (
    let c := s.obs.trace.conditions
    if bit c k then
      let s1 := s.setTrace { s.obs.trace with conditions := setBit c k false }
      if s.traceState = traceArmed then s1.trigger else s1.ignoreTrigger
    else s)

/-- A die's trace FIFO. -/
def State.fifo (s : State) (d : Nat) : TraceFifo := SMap.get s.obs.trace.fifo {} d

/-- A die's trace FIFO replaced. -/
def State.setFifo (s : State) (d : Nat) (v : TraceFifo) : State := s.setTrace { s.obs.trace with fifo := SMap.set s.obs.trace.fifo {} d v }

/-- The GAP entry that a FIFO takes as soon as it has room after a loss (R475). -/
def State.gapEntry (s : State) (d : Nat) : State :=
  let q := s.fifo d
  if q.lost = 0 then s
  else (s.inc R.cntTraceGap).setFifo d { entries := q.entries ++ [⟨q.lostTime, 31, d, 0, q.lost % 2 ^ 32, q.lostMask⟩] }

/-- An entry written after the trigger uses one of the quota (R470). -/
def State.useQuota (s : State) : State :=
  if s.traceState = traceTriggered then
    if s.obs.trace.post ≤ 1 then s.freezeTrace else s.setTrace { s.obs.trace with post := s.obs.trace.post - 1 }
  else s

/-- TRACE_FIFO_DRAIN: the oldest entry of die `die` goes into the ring. -/
def execTraceFifoDrain (die : Fin 5) (s : State) : Host.Outcome State Fault Refusal :=
  .next (s.clocked (match (s.fifo die).entries with
    | [] => s
    | e :: l =>
      if s.capturing then (((s.setFifo die { s.fifo die with entries := l }).gapEntry die).traceWrite e).useQuota else s))

/-- One live counter as a trace entry. -/
def State.exportOne (s : State) (d k : Nat) : State := s.trace d 7 (d * 256 + k) 0 (s.opc d k)

/-- COUNTER_EXPORT: every EXPORT_TICKS ticks, while EXPORT_EN = 1. [DESIGN CHOICE, log entry 137] -/
def execCounterExport (s : State) : Host.Outcome State Fault Refusal :=
  .next (s.clocked (
    if s.flag R.dbgOpcCtlExportEn && decide (s.obs.trace.exportAt + s.getIn R.dbgOpcCtlExportTicks 1 65535 ≤ s.tick) then
      let s1 := s.each (List.range 5) fun s d => s.each (List.range 22) fun s k => s.exportOne d k
      s1.setTrace { s1.obs.trace with exportAt := s.tick }
    else s))

/-- The INGEST entry of port `p`: increases since the last one (R473). -/
def State.ingestEntry (s : State) (p : Nat) : State :=
  let inc := (s.ingestCounts p).zipIdx.map fun x => (x.1 + 2 ^ 32 - SMap.get s.obs.trace.ingest 0 (p * 4 + x.2)) % 2 ^ 32
  s.trace dieIod 2 p (inc.getD 0 0) (inc.getD 1 0 + 2 ^ 32 * inc.getD 2 0 + 2 ^ 64 * inc.getD 3 0)

/-- Every 40 ticks each port makes an INGEST entry (R473). -/
def State.ingestTrace (s : State) (n : Nat) : State :=
  if s.capturing && n % 40 == 0 then
    let s1 := s.each (List.range 8) fun s p => s.ingestEntry p
    s1.setTrace { s1.obs.trace with ingest := s.ingestBase }
  else s

/-! ### Counter snapshots (R467, R468) -/

/-- A snapshot is requested: by DBG_OPC_CTL (0) or by function f (f + 1); a pending one is joined. -/
def State.requestSnap (s : State) (who : Nat) : State :=
  if s.obs.snaps.any fun x => x.1 == who then s
  else { s with obs := { s.obs with snaps := s.obs.snaps ++ [(who, nextTick s.time.dev)] } }

/-- Every DBG_OPC_d_k is latched at the boundary of tick `n`. -/
def State.latchAll (s : State) (n : Nat) : State :=
  (s.each (List.range 6) fun s d => s.each (List.range 22) fun s k => s.set (R.dbgOpcCount d k) (s.opc d k)).set R.dbgOpcSnapTickTick n

/-- The device totals are latched for function `f`. -/
def State.latchPage (s : State) (f n : Nat) : State :=
  (s.each (List.range 22) fun s k => s.set (R.fnOpcCount f k) (s.opc 5 k)).set (R.fnOpcSnapTickTick f) n

/-- Snapshots due by the boundary of tick `n` are taken. -/
def State.takeSnaps (s : State) (n : Nat) : State :=
  let s1 := s.each (s.obs.snaps.filter fun x => decide (x.2 ≤ n)) fun s x => if x.1 = 0 then s.latchAll n else s.latchPage (x.1 - 1) n
  { s1 with obs := { s1.obs with snaps := s1.obs.snaps.filter fun x => !decide (x.2 ≤ n) } }

/-- What function `f` sees of counter `k` (R468): nothing unless the register of R468 names it. -/
def State.opcView (s : State) (f k v : Nat) : Nat :=
  let owner := if 13 ≤ k ∧ k ≤ 15 then s.get R.fabWinDestFunc else s.get R.ftuDestFunc
  if owner = f then v else 0

/-- SNAP: a write of 1 to DBG_OPC_CTL.SNAP, or to FN_OPC_CTL.SNAP of a function. -/
def execSnap (page : Option (Fin 8)) (s : State) : Host.Outcome State Fault Refusal :=
  .next (match page with
    | none =>
      let v := 1 + 2 * s.get R.dbgOpcCtlExportEn + 2 ^ 8 * s.get R.dbgOpcCtlExportTicks
      s.bus (.write 0 false R.dbgOpcCtlSnap.addr 4 v) fun s => s.requestSnap 0
    | some f => s.bus (.write f true 0x1020 4 1) fun s => s.requestSnap (f + 1))

/-! ### The held dump (R483) -/

/-- A write of 1 to DBG_DUMP_CTL.RELEASE; a capture still being written is not held yet. [DESIGN CHOICE, log entry 135] -/
def State.releaseDump (s : State) : State :=
  match s.obs.dump with
  | some d =>
    if d.waiting.isEmpty then
      ({ s with obs := { s.obs with dump := none } }.setFlag R.dbgDumpStatusValid false).set R.dbgDumpLenLen 0
    else s
  | none => s

/-- RELEASE. -/
def execRelease (s : State) : Host.Outcome State Fault Refusal :=
  .next (s.bus (.write 0 false R.dbgDumpCtlRelease.addr 4 1) fun s => s.releaseDump)

/-! ### Surroundings (R485) -/

/-- One port's 32 bytes; what R485 does not name of them is free from value `i` on. [DESIGN CHOICE, log entry 51] -/
def State.portItems (s : State) (i p : Nat) : List Byte :=
  let link := s.get (R.ingPortLinkUp p) + 2 * s.get (R.ingPortLinkGear p) + 2 ^ 4 * s.get (R.ingPortLinkLoss p)
    + 2 ^ 14 * s.get (R.ingPortLinkLenCm p) + 2 ^ 28 * s.get (R.ingPortLinkCapValid p)
  leBytes link 4 ++ leBytes (s.get (R.ingPortIsnsCurMa p)) 2 ++ freeBytes (i + 10 * p) 2
    ++ ((List.range 4).flatMap fun k => leBytes (s.get (R.ingPortCapCap p k)) 4) ++ freeBytes (i + 10 * p + 2) 8

/-- One rail's 4 bytes, laid out as PWR_RAILv (R409). -/
def railItem (m : Measurement) (v : Nat) : List Byte := leBytes (min 4095 (m.railMv.getD v 0) + 2 ^ 16 * min 65535 (m.rail10mA.getD v 0)) 4

/-- The SURROUNDINGS record: what Mainstay measures afresh, and the last measurement of the rest; the LPDDR5X mode registers are free values. [DESIGN CHOICE, log entry 51; DESIGN CHOICE, log entry 138] -/
def State.surroundings (s : State) (m : Measurement) : Rec :=
  let flags := s.get (R.fltImuCfgEn 0) + 2 * s.get (R.fltImuCfgEn 1) + 4 * s.get R.mgtDdrEccOn
  let imu := fun i => leBytes (s.get (R.fltImuXferDataData i)) 4
  let head := leBytes s.now 8 ++ leBytes flags 1 ++ List.replicate 7 0
  let ports := (List.range 8).flatMap (s.portItems (s.free + 8))
  let rails := (List.range 8).flatMap (railItem m)
  let link := leBytes m.pcie 2 ++ [0, 0] ++ leBytes (m.phys.getD 0 0) 8 ++ leBytes (m.phys.getD 1 0) 8
  let tail := imu 0 ++ imu 1 ++ freeBytes s.free 8 ++ leBytes s.reef.gib 2 ++ (List.range 5).flatMap (fun d => leBytes (ofInt 8 (m.tj.getD d 0)) 1) ++ List.replicate 5 0
  { type := 0x03, payload := head ++ ports ++ rails ++ link ++ tail }

/-- SURROUNDINGS. -/
def execSurroundings (f : Fin 8) (q : Fin 4) (m : Measurement) (s : State) : Host.Outcome State Fault Refusal :=
  .next (s.clocked (match s.fetchedOp f q with
    | some (.surroundings ring) => (s.took 88).beginWriter f q ring [s.surroundings m] 0
    | _ => s))

/-! ### Lifetime records (R486–R488) -/

/-- The bin of a temperature. -/
def tjBin (t : Int) : Nat := (clampInt 0 33 (floorDiv (t + 40) 5)).toNat

/-- The bin of a voltage deviation in mV. -/
def voltBin (d : Int) : Nat := (clampInt 0 31 (floorDiv (d + 80) 5)).toNat

/-- The rails of VOLT_HIST, in order. -/
def lifeRails : List Nat := [0, 1, 2, 3, 4, 6, 7]

/-- The commanded or nominal voltage of rail `v` in mV (R408, R491). -/
def State.railNominal (s : State) (v : Nat) : Nat := if v < 2 then s.volts v else if v < 4 then 750 else if v = 4 then 800 else if v = 6 then 750 else 1800

/-- A histogram bin one second higher. -/
def tally (m : SMap Nat) (k : Nat) : SMap Nat := SMap.upd m 0 k fun v => (v + 1) % 2 ^ 32

/-- LIFETIME_SAMPLE: one second of Mainstay's running. -/
def execLifetimeSample (s : State) : Host.Outcome State Fault Refusal :=
  .next (
    if s.mainstay && decide (s.obs.sampleAt + 250000000 ≤ s.time.clk) then
      let l := s.obs.life
      let tj := ((List.range 5).filter fun d => !s.dieOff d).foldl (fun m d => tally m (d * 34 + tjBin (s.tj d))) l.tj
      let volt := lifeRails.zipIdx.foldl (fun m x => tally m (x.2 * 32 + voltBin ((s.get (R.pwrRailMv x.1) : Int) - s.railNominal x.1))) l.volt
      { s with obs := { s.obs with sampleAt := s.time.clk, life := { l with powerOn := l.powerOn + 1, tj := tj, volt := volt } } }
    else s)

/-- LIFETIME_COPY_WRITE: a copy where one is due; `ok` when the read-back agrees. -/
def execLifetimeCopyWrite (ok : Bool) (s : State) : Host.Outcome State Fault Refusal :=
  .next (
    if s.mainstay && (s.obs.lifeDue || decide (s.obs.lifeAt + 600 ≤ s.obs.life.powerOn)) then s.copyLifetime ok else s)

/-- One error of UNCORR. -/
def LifeError.bytes (e : LifeError) : List Byte :=
  leBytes e.powerOn 8 ++ leBytes e.cls 1 ++ leBytes e.source 1 ++ leBytes e.die 1 ++ [0] ++ leBytes e.unit 4 ++ leBytes e.detail 8 ++ leBytes e.time 8

/-- One cable entry. -/
def LifeCable.bytes (c : LifeCable) : List Byte := leBytes c.loss 2 ++ leBytes (c.len % 2 ^ 14 + 2 ^ 14 * c.coax) 2 ++ leBytes c.hours 4

/-- `n` values of a map, `w` bytes each. -/
def mapBytes (m : SMap Nat) (n w : Nat) : List Byte := (List.range n).flatMap fun k => leBytes (SMap.get m 0 k) w

/-- Bytes filled with 0 up to `n`. -/
def padTo (n : Nat) (b : List Byte) : List Byte := b ++ List.replicate (n - b.length) 0

/-- The 8,192 bytes of a lifetime copy (R486). -/
def Lifetime.bytes (l : Lifetime) : List Byte :=
  let head := leBytes 0x4C494645 4 ++ leBytes 1 2 ++ leBytes 8192 2 ++ leBytes l.seq 8 ++ leBytes l.powerOn 8
    ++ mapBytes l.resets 6 4 ++ mapBytes l.trips 5 8 ++ mapBytes l.retrains 7 4
  let mid := padTo 120 head ++ mapBytes l.ecc 8 8 ++ leBytes l.uncorrTotal 4 ++ leBytes (l.uncorrTotal % 64) 1
  let hist := padTo 872 (padTo 192 mid ++ mapBytes l.tj 170 4) ++ mapBytes l.volt 224 4
  let errs := (List.range 64).flatMap fun k => match SMap.find? k l.uncorr with | some e => e.bytes | none => List.replicate 32 0
  let cables := (List.range 128).flatMap fun k => match SMap.find? k l.cable with | some c => c.bytes | none => List.replicate 8 0
  let all := padTo 8188 (padTo 2048 hist ++ errs ++ cables ++ mapBytes l.cableNext 8 1)
  all ++ leBytes (crc32 polyCastagnoli all) 4

/-- LIF_DATA (R489): 4 bytes of Mainstay's current values at LIF_ADDR, which then rises by 4. -/
def State.readLif (s : State) : State × Nat :=
  let a := s.get R.lifAddrAddr / 4 * 4
  (s.set R.lifAddrAddr (a + 4), leAt s.obs.life.bytes a 4)

end Sys2Proof.Machine
end

