-- ==== Sys2Proof/Machine/Flags.lean ====
section
/-! DEFINITION. Register fields by access code, and the flag of a write that a block refuses while it runs (R7, R75, R516). -/

namespace Sys2Proof.Machine

/-! ### Fields and access codes (R7) -/

/-- A field of the register whose (LO) word stands at `lo`. -/
def FieldSpec.at (f : FieldSpec) (lo : Nat) : Fld := ⟨lo, f.lo, f.width, f.reset⟩

/-- Whether software can change or trigger something through the field. -/
def FieldSpec.writable (f : FieldSpec) : Bool :=
  match f.acc with
  | .rw | .wo | .w1c | .w1s => true
  | .ro | .rc => false

/-- Whether some field of the register is writable. -/
def RegSpec.writable (r : RegSpec) : Bool := r.fields.any FieldSpec.writable

/-- One field takes its part of the value written to its register (R7, R8). [DEDUCED, log entry 147] -/
def State.writeField (s : State) (lo v : Nat) (f : FieldSpec) : State :=
  let x := bits v f.lo f.width
  let fld := f.at lo
  match f.acc with
  | .rw => s.set fld x
  | .w1c => s.set fld (s.get fld &&& (2 ^ f.width - 1 - x))
  | .w1s => s.set fld (s.get fld ||| x)
  | .ro | .wo | .rc => s

/-- A register takes a written value by its fields' access codes; reserved bits are ignored (R516). -/
def State.writeFields (s : State) (lo : Nat) (fs : List FieldSpec) (v : Nat) : State := s.each fs fun s f => s.writeField lo v f

/-- The fields of the register whose (LO) word stands at `lo`. -/
def fieldsAt (lo : Nat) : List FieldSpec :=
  match regAt lo with
  | some h => h.spec.fields
  | none => []

/-- A write that a block takes only while the device is stopped; otherwise `flag` is set (R75, R105, R157, R228, R288, R399, R508). -/
def State.writeStopped (s : State) (flag : Fld) (act : State → State) : State := if s.stopped then act s else s.setFlag flag true

/-- The stored value of a field; a write-only field reads 0. -/
def State.readField (s : State) (lo : Nat) (f : FieldSpec) : Nat :=
  match f.acc with
  | .wo => 0
  | _ => s.get (f.at lo) * 2 ^ f.lo

/-- The stored value of a register. -/
def State.stored (s : State) (lo : Nat) (fs : List FieldSpec) : Nat := (fs.map fun f => s.readField lo f).sum

end Sys2Proof.Machine
end

