-- ==== Sys2Proof/Machine/Operands.lean ====
section
/-! DEFINITION. The operands of a register access: window, address, width (R291–R293, R513, R517). -/

namespace Sys2Proof.Machine

/-- Whether a command's window is the function page. -/
def inPage : Space → Bool
  | .bar0 => false
  | .page => true

/-- The device address of offset `off` in the window that function `f` names; none where it reaches no window there (R291, R517). [DESIGN CHOICE, log entry 42] -/
def windowAt (f : Nat) (page : Bool) (off : Nat) : Option Nat :=
  if page then (if off < 0x10000 then some (0x1000000 + 0x10000 * f + off) else none)
  else if f = 0 ∧ off < 0x1000000 then some off
  else none

/-- Whether an access of `size` bytes at `a` is served, and as how many words (R513). -/
def servedWords (a size : Nat) : Nat :=
  if size = 4 ∧ a % 4 = 0 then 1
  else if size = 8 && a % 8 == 0 && (match regAt a with | some h => h.spec.pair && !h.hi | none => false) then 2
  else 0

/-- A doorbell of a function page (R292): what an access at `off` concerns. [DESIGN CHOICE, log entry 43] -/
def doorbellAt (f off v : Nat) : Option Held :=
  let o := off / 4 * 4
  if o < 0x10 then some (.sq f (o / 4) v)
  else if 0x40 ≤ o ∧ o < 0x50 then some (.cq f ((o - 0x40) / 4) v)
  else if 0x80 ≤ o ∧ o < 0xA0 then some (.str f ((o - 0x80) / 4) v)
  else if o = 0xC0 then some (.urgent f v)
  else none

end Sys2Proof.Machine
end

