-- ==== Sys2Proof/Machine/RegAccess.lean ====
section
/-! DEFINITION. Register accesses by address: access codes (R7), widths (R513), LO/HI pairs (R514, R515), and what a write or a read of each register does beside. -/

namespace Sys2Proof.Machine

/-! ### Deferred writes (R519) -/

/-- A write that waits for its boundary (R519). [DEDUCED, log entry 6] -/
def State.defer (s : State) (due : Boundary) (lo v : Nat) : State := { s with deferred := s.deferred ++ [⟨due, lo, v⟩] }

/-- A write waits for the next tick boundary. -/
def State.deferTick (s : State) (lo v : Nat) : State := s.defer (.tick (nextTick s.time.dev)) lo v

/-- A write waits for the next step boundary. -/
def State.deferStep (s : State) (lo v : Nat) : State := s.defer (.step s.nextStep) lo v

/-- FAB_REFLEXr_CFG takes a value: with another group, or newly enabled, the unit's counts begin anew (R222). [DESIGN CHOICE, log entry 77] -/
def State.takeReflexCfg (s : State) (r lo v : Nat) : State :=
  let s1 := s.writeFields lo (fieldsAt lo) v
  s1.when (s1.get (R.fabReflexCfgGroup r) != s.get (R.fabReflexCfgGroup r) || s1.flag (R.fabReflexCfgEn r) != s.flag (R.fabReflexCfgEn r))
    fun s => s.clearReflex r

/-- A deferred write takes effect (R519); one to CHn_SRC restarts an enabled channel (R254). -/
def State.takeDeferred (s : State) (d : Deferred) : State :=
  if d.addr = 0x700020 ∨ d.addr = 0x700030 then s.takeReflexCfg ((d.addr - 0x700020) / 0x10) d.addr d.value
  else if 0x800800 ≤ d.addr ∧ d.addr < 0x801000 then s.setSrc ((d.addr - 0x800800) / 0x40) (bits d.value 0 8)
  else s.writeFields d.addr (fieldsAt d.addr) d.value

/-- Every deferred write that `due` names takes effect, oldest first. -/
def State.takeDue (s : State) (due : Boundary → Bool) : State :=
  ({ s with deferred := s.deferred.filter fun (d : Deferred) => !due d.due }).each (s.deferred.filter fun (d : Deferred) => due d.due) State.takeDeferred

/-! ### Writes, block by block -/

/-- HIF (R330): FN0 of HIF_PRIV reads 0xF. -/
def State.writeHif (s : State) (lo : Nat) (fs : List FieldSpec) (v : Nat) : State :=
  if lo = 0x8 then s.writeSvc v
  else if lo = 0xC then s.set R.hifPrivFn (v / 16 * 16 + 0xF)
  else s.writeFields lo fs v

/-- MGT (R433, R508). -/
def State.writeMgt (s : State) (lo : Nat) (fs : List FieldSpec) (v : Nat) : State :=
  if lo = 0x100024 then s.writeSoftReset v
  else if lo = 0x100028 then s.writeDieReset v
  else if lo = 0x100140 then s.writeStopped R.mgtPadStatusRunWrite fun s => s.writeFields lo fs v
  else s.writeFields lo fs v

/-- A write of PWR_CTL (R399): a change of MARGIN_MODE commands the voltages of the other column. -/
def State.writePwrCtl (s : State) (lo : Nat) (fs : List FieldSpec) (v : Nat) : State :=
  (s.writeFields lo fs v).when (bit v 0 != s.flag R.pwrCtlMarginMode) fun s => s.commandVolts

/-- PWR (R399, R409). [DESIGN CHOICE, log entry 113] -/
def State.writePwr (s : State) (lo : Nat) (fs : List FieldSpec) (v : Nat) : State :=
  if lo = 0x200000 then s.writeStopped R.pwrStatusRunWrite fun s => s.writePwrCtl lo fs v
  else s.writeFields lo fs v

/-- A MAC's registers: R295 governs its transmit ring (R370). [DESIGN CHOICE, log entry 37] -/
def State.writeMac (s : State) (m o lo : Nat) (fs : List FieldSpec) (v : Nat) : State :=
  if o = 0xC then (if s.flag (R.timMacTxrCfgEn m) then s.ringErr 0 else s.writeFields lo fs v)
  else if o = 0x14 then s.writeTxrCfg m v
  else if o = 0x18 then s.writeTxDb m v
  else s.writeFields lo fs v

/-- A time pulse output's registers: START, PERIOD and WIDTH hold still while EN = 1 (R375). -/
def State.writeTpo (s : State) (p o lo : Nat) (fs : List FieldSpec) (v : Nat) : State :=
  if o = 0x14 then s.writeTpoCfg p v
  else if o = 0x18 then s.writeFields lo fs v
  else if s.flag (R.timTpoCfgEn p) then s
  else s.writeFields lo fs v

/-- TIM (R384). -/
def State.writeTim (s : State) (lo : Nat) (fs : List FieldSpec) (v : Nat) : State :=
  if lo = 0x300024 then s.writeSel v
  else if 0x300100 ≤ lo ∧ lo < 0x300180 then s.writeMac ((lo - 0x300100) / 0x40) ((lo - 0x300100) % 0x40) lo fs v
  else if 0x300300 ≤ lo ∧ lo < 0x300380 then s.writeTpo ((lo - 0x300300) / 0x20) ((lo - 0x300300) % 0x20) lo fs v
  else s.writeFields lo fs v

/-- ING_CTL (R75): every port whose bit changes is enabled or disabled. -/
def State.writeIngCtl (s : State) (v : Nat) : State := s.each (List.range 8) fun s p => s.writePortBit p (bit v p)

/-- ING_PORTn_GEOM (R522): a new geometry makes the port's region new. -/
def State.writeGeom (s : State) (p lo : Nat) (fs : List FieldSpec) (v : Nat) : State :=
  let same := bits v 0 11 == s.get (R.ingPortGeomWidthM1 p) && bits v 16 11 == s.get (R.ingPortGeomHeightM1 p)
  (s.writeFields lo fs v).when (!same) fun s => s.newRegion p

/-- A port's registers (R71, R73, R75). -/
def State.writePort (s : State) (p o lo : Nat) (fs : List FieldSpec) (v : Nat) : State :=
  if o = 0 then s.writePortCfg p v
  else if o = 4 then s.writeStopped R.ingStatusRunWrite fun s => s.writeFields lo fs v
  else if o = 8 then s.writeStopped R.ingStatusRunWrite fun s => s.writeGeom p lo fs v
  else if o = 0x24 then s.writeCci p v
  else if o = 0x60 then s.writeFi p v
  else s.writeFields lo fs v

/-- ING (R73, R75). -/
def State.writeIng (s : State) (lo : Nat) (fs : List FieldSpec) (v : Nat) : State :=
  if lo = 0x400000 then s.writeStopped R.ingStatusRunWrite fun s => s.writeIngCtl v
  else if 0x400010 ≤ lo ∧ lo < 0x400020 then s.writeStopped R.ingStatusRunWrite fun s => s.writeFields lo fs v
  else if 0x401000 ≤ lo then s.writePort ((lo - 0x401000) / 0x100) ((lo - 0x401000) % 0x100) lo fs v
  else s.writeFields lo fs v

/-- SRF (R105, R106): SRF_TAP acts at the next tick boundary. -/
def State.writeSrf (s : State) (lo : Nat) (fs : List FieldSpec) (v : Nat) : State :=
  if lo = 0x500040 then s.deferTick lo v
  else if lo < 0x500040 then s.writeStopped R.srfStatusRunWrite fun s => s.writeFields lo fs v
  else if 0x500100 ≤ lo ∧ lo < 0x500180 then
    s.writeStopped R.srfStatusRunWrite fun s => s.writeRegion ((lo - 0x500100) / 0x10) ((lo - 0x500100) % 0x10 / 4) v
  else s.writeFields lo fs v

/-- TNS (R132, R133, R157, R158). [DESIGN CHOICE, log entry 38] -/
def State.writeTns (s : State) (lo : Nat) (fs : List FieldSpec) (v : Nat) : State :=
  if lo = 0x600000 then s.writeStopped R.tnsDeltaStatusRunWrite fun s => s.writeFields lo fs v
  else if lo = 0x600004 ∨ lo = 0x600100 then s.deferTick lo v
  else if lo = 0x600008 then (s.writeFields lo fs v).when (bit v 1) fun s => s.setFlag R.tnsMismatchLayerValid false
  else if lo = 0x60010C then
    (s.writeFields lo fs v).when (bit v 0) fun s => (s.setFlag R.tnsArithNanLayerValid false).setTns { s.tns with nanUnit := none }
  else s.writeFields lo fs v

/-- FAB_STEP takes a value: writes that wait for a step boundary still to come meet the next one of the new period, and the reflex units' steps are numbered anew (R228, R519). [DESIGN CHOICE, log entry 77] -/
def State.writeStep (s : State) (fs : List FieldSpec) (v : Nat) : State :=
  let s1 := s.writeFields 0x700000 fs v
  if s1.stepNs = s.stepNs then s1 else
  let l := s.deferred.map fun (d : Deferred) => { d with due := match d.due with
    | .step k => Boundary.step (if s.nextStep ≤ k then s1.nextStep else 0)
    | b => b }
  (({ s1 with deferred := l }).clearReflex 0).clearReflex 1

/-- FAB (R228). -/
def State.writeFab (s : State) (lo : Nat) (fs : List FieldSpec) (v : Nat) : State :=
  if lo = 0x700000 then s.writeStopped R.fabStatusRunWrite fun s => s.writeStep fs v
  else if lo < 0x700010 ∨ lo = 0x700014 then s.writeStopped R.fabStatusRunWrite fun s => s.writeFields lo fs v
  else if lo = 0x700010 then s.deferStep lo v
  else if lo < 0x700040 then
    if lo % 0x10 = 0xC then s.writeReflexStat ((lo - 0x700020) / 0x10) v else s.deferStep lo v
  else s.writeFields lo fs v

/-- FLT_CH_EN (R253): channels whose bit changes are checked and enabled, or disabled, in order. -/
def State.writeChEn (s : State) (v : Nat) : State := s.each (List.range 32) fun s n => s.writeChanBit n (bit v n)

/-- A write that a unit of the filter chain takes only while it is off (R260). -/
def State.writeOff (s : State) (on : Bool) (act : State → State) : State := if on then s.fltRunWrite else act s

/-- An IMU master's registers (R232, R234, R260). [DESIGN CHOICE, log entry 81] -/
def State.writeImu (s : State) (i o lo : Nat) (fs : List FieldSpec) (v : Nat) : State :=
  if o = 0 then s.writeImuCfg i v
  else if o = 0xC then s.writeXferCtl i v
  else if o = 4 ∨ o = 8 ∨ o = 0x18 then s.writeOff (s.flag (R.fltImuCfgEn i)) fun s => s.writeFields lo fs v
  else s.writeFields lo fs v

/-- A channel's registers (R260). -/
def State.writeChannel (s : State) (n o lo : Nat) (fs : List FieldSpec) (v : Nat) : State :=
  if o = 0 then (if s.chanOn n then s.deferTick lo v else s.setSrc n (bits v 0 8))
  else if o < 0x20 ∨ o = 0x38 then s.writeOff (s.chanOn n) fun s => s.writeFields lo fs v
  else s.writeFields lo fs v

/-- FLT (R260, R261). -/
def State.writeFlt (s : State) (lo : Nat) (fs : List FieldSpec) (v : Nat) : State :=
  if lo = 0x800000 then s.writeChEn v
  else if lo = 0x800018 then s.writeCoef v
  else if lo = 0x800080 then s.writeEncCfg v
  else if 0x800040 ≤ lo ∧ lo < 0x800080 then s.writeImu ((lo - 0x800040) / 0x20) ((lo - 0x800040) % 0x20) lo fs v
  else if 0x800100 ≤ lo ∧ lo < 0x800140 ∧ (lo % 0x10 = 4 ∨ lo % 0x10 = 8) then
    s.writeOff (s.flag (R.fltCanCfgEn ((lo - 0x800100) / 0x10))) fun s => s.writeFields lo fs v
  else if 0x800800 ≤ lo ∧ lo < 0x801000 then s.writeChannel ((lo - 0x800800) / 0x40) ((lo - 0x800800) % 0x40) lo fs v
  else s.writeFields lo fs v

/-- FTU (R288): every register but the status bits. [DEDUCED, log entry 36] -/
def State.writeFtu (s : State) (lo : Nat) (fs : List FieldSpec) (v : Nat) : State :=
  if lo = 0x900100 ∨ !fs.any FieldSpec.writable then s.writeFields lo fs v
  else s.writeStopped R.ftuStatusRunWrite fun s => s.writeFields lo fs v

/-- DBG (R467, R483, R489). -/
def State.writeDbg (s : State) (lo : Nat) (fs : List FieldSpec) (v : Nat) : State :=
  if lo = 0xA00000 then (s.writeFields lo fs v).when (bit v 0) fun s => s.requestSnap 0
  else if lo = 0xA0003C then s.when (bit v 0) (·.releaseDump)
  else s.writeFields lo fs v

/-- ERR (R461, R464): the injection registers take writes in TEST mode only. [DESIGN CHOICE, log entry 39] -/
def State.writeErr (s : State) (lo : Nat) (fs : List FieldSpec) (v : Nat) : State :=
  if lo = 0xC00008 then (s.writeFields lo fs v).when (bit v 3) fun s => s.setFlag R.errFirstFatalValid false
  else if lo = 0xC00020 then s.when s.testMode fun s => s.writeFields lo fs v
  else if lo = 0xC00024 then s.when s.testMode fun s => (s.writeFields lo fs v).setErr { s.err with fiFab := 0 }
  else s.writeFields lo fs v

/-- A vector of function `f` unmasked with its pending bit set is sent. -/
def State.unmask (s : State) (f v : Nat) : State :=
  let p := s.get (R.fnMsixPbaPending f)
  if bit p v && !s.flag (R.fnMsixCtlMask f v) then (s.set (R.fnMsixPbaPending f) (setBit p v false)).raise f v else s

/-- A ring's registers in a function page (R295). -/
def State.writeRing (s : State) (k : RingKind) (f i o lo : Nat) (fs : List FieldSpec) (v : Nat) : State :=
  if o = 8 then s.ringCfg k f i v
  else if o = 0 then (if s.flag (ringEn k f i) then s.ringErr f else s.writeFields lo fs v)
  else s.writeFields lo fs v

/-- A function page (R292, R295, R331, R468). -/
def State.writeFn (s : State) (f o lo : Nat) (fs : List FieldSpec) (v : Nat) : State :=
  if o = 0x1020 then s.when (bit v 0) fun s => s.requestSnap (f + 1)
  else if 0x1100 ≤ o ∧ o < 0x1180 then s.writeRing .sq f ((o - 0x1100) / 0x20) (o % 0x20) lo fs v
  else if 0x1200 ≤ o ∧ o < 0x1280 then s.writeRing .cq f ((o - 0x1200) / 0x20) (o % 0x20) lo fs v
  else if 0x1300 ≤ o ∧ o < 0x1400 then s.writeRing .str f ((o - 0x1300) / 0x20) (o % 0x20) lo fs v
  else if 0xE000 ≤ o ∧ o < 0xE200 then (s.writeFields lo fs v).unmask f ((o - 0xE000) / 0x10)
  else s.writeFields lo fs v

/-- A write of a whole register, a pair as its 64 bits, whose (LO) word stands at `lo`. -/
def State.writeReg (s : State) (lo : Nat) (fs : List FieldSpec) (v : Nat) : State :=
  match lo / 0x100000 with
  | 0 => s.writeHif lo fs v
  | 1 => s.writeMgt lo fs v
  | 2 => s.writePwr lo fs v
  | 3 => s.writeTim lo fs v
  | 4 => s.writeIng lo fs v
  | 5 => s.writeSrf lo fs v
  | 6 => s.writeTns lo fs v
  | 7 => s.writeFab lo fs v
  | 8 => s.writeFlt lo fs v
  | 9 => s.writeFtu lo fs v
  | 10 => s.writeDbg lo fs v
  | 12 => s.writeErr lo fs v
  | 16 => s.writeFn ((lo - 0x1000000) / 0x10000) (lo % 0x10000) lo fs v
  | _ => s.writeFields lo fs v

/-! ### Reads -/

/-- Whole ns of a counter, and its fraction. -/
def wholeNs (t : Nat) : Nat := t / 2 ^ 32

/-- The value of a register as it stands (R71, R383, R412, R461, R468), both halves of a pair. [DEDUCED, log entry 35] -/
def State.view (s : State) (lo : Nat) (fs : List FieldSpec) : Nat :=
  if lo = 0x10000C then s.stored lo fs + 2 ^ 8 * s.block
  else if lo = 0x300000 then wholeNs s.time.dev
  else if lo = 0x300008 then s.time.dev % 2 ^ 32
  else if lo = 0x30002C then s.stored lo fs + b2n (s.time.slew.rem != 0)
  else if lo = 0x300030 then ofInt 64 (floorDiv s.time.slew.rem (2 ^ 32))
  else if lo = 0x300080 then wholeNs s.time.domA
  else if lo = 0x300088 then s.time.domA % 2 ^ 32
  else if lo = 0x3000A0 then wholeNs s.time.domB
  else if lo = 0x3000A8 then s.time.domB % 2 ^ 32
  else if 0x300380 ≤ lo ∧ lo < 0x3003C0 ∧ lo % 0x10 = 4 then (s.captures ((lo - 0x300380) / 0x10)).headD 0
  else if 0x401000 ≤ lo ∧ lo < 0x401800 ∧ lo % 0x100 = 0x18 then s.stored lo fs + 2 ^ 17 * b2n (s.heldHead ((lo - 0x401000) / 0x100))
  else if 0x401000 ≤ lo ∧ lo < 0x401800 ∧ lo % 0x100 = 0x60 then (if s.testMode then s.stored lo fs else 0)
  else if lo = 0x800018 then SMap.get s.flt.coef 0 (s.get R.fltCoefAddrAddr)
  else if lo = 0x800024 then (match s.flt.gnss with | b :: _ => b.toNat + 2 ^ 8 | [] => 0)
  else if lo = 0xC00020 ∨ lo = 0xC00024 then (if s.testMode then s.stored lo fs else 0)
  else if 0x1000000 ≤ lo ∧ 0x1030 ≤ lo % 0x10000 ∧ lo % 0x10000 < 0x10E0 then
    s.opcView ((lo - 0x1000000) / 0x10000) ((lo % 0x10000 - 0x1030) / 8) (s.stored lo fs)
  else s.stored lo fs

/-- What a read takes away (R7, R245): fields with access RC are cleared. -/
def State.consume (s : State) (lo : Nat) (fs : List FieldSpec) : State :=
  if lo = 0x800024 then s.setFlt { s.flt with gnss := s.flt.gnss.tail }
  else s.each (fs.filter fun f => f.acc == .rc) fun s f => s.set (f.at lo) 0

/-- A value latched for a requester, and given out once (R515). [DESIGN CHOICE, log entry 45] -/
def State.takeLatch (s : State) (key now : Nat) : State × Nat :=
  match SMap.find? key s.latch.rd with
  | some w => ({ s with latch := { s.latch with rd := SMap.del key s.latch.rd } }, w.toNat)
  | none => (s, now)

/-- A value latched for a requester. -/
def State.putLatch (s : State) (key v : Nat) : State :=
  { s with latch := { s.latch with rd := SMap.put key (BitVec.ofNat 32 v) s.latch.rd } }

/-- Where a time counter's LO read latches the fraction (R383); 0 for other pairs. -/
def fracOf (lo : Nat) : Nat :=
  if lo = 0x300000 then 0x300008 else if lo = 0x300080 then 0x300088 else if lo = 0x3000A0 then 0x3000A8 else 0

/-- A read of a LO half latches the high half, and a time counter's fraction. [DESIGN CHOICE, log entry 45] -/
def State.latchHigh (s : State) (rq lo v : Nat) (fs : List FieldSpec) : State :=
  (s.putLatch (latchKey rq lo) (v / 2 ^ 32)).when (fracOf lo != 0) fun s => s.putLatch (latchKey rq (fracOf lo)) (s.view (fracOf lo) fs)

/-- A read of the 4 bytes at `a` by requester `rq`; `keep` leaves RC fields as they are (R424). [DESIGN CHOICE, log entry 41] -/
def State.readWord (s : State) (rq a : Nat) (keep : Bool) : State × Nat :=
  match regAt a with
  | none => (s, 0)
  | some h =>
    let fs := h.spec.fields
    let v := s.view h.lo fs
    if h.hi then s.takeLatch (latchKey rq h.lo) (v / 2 ^ 32 % 2 ^ 32)
    else if fracOf (a - 8) = a ∧ 8 ≤ a then s.takeLatch (latchKey rq a) v
    else if 0x300380 ≤ a ∧ a < 0x3003C0 ∧ a % 0x10 = 4 ∧ !keep then s.readCapLo rq ((a - 0x300380) / 0x10)
    else if a = 0xB00004 then s.readLif
    else
      let s1 := s.when h.spec.pair fun s => s.latchHigh rq a v fs
      let s2 := s1.when (!keep) fun s => s.consume a fs
      (s2.when (a == 0x800018) (·.nextCoef), v % 2 ^ 32)

/-! ### Accesses -/

/-- A write of the 4 bytes at `a` by requester `rq` (R7, R512, R514). [DESIGN CHOICE, log entry 33] -/
def State.writeWord (s : State) (rq a v : Nat) : State :=
  match regAt a with
  | none => s
  | some h =>
    let fs := h.spec.fields
    if h.spec.pair && h.spec.writable then
      if !h.hi then { s with latch := { s.latch with wr := SMap.put (latchKey rq a) (BitVec.ofNat 32 v) s.latch.wr } }
      else if h.lo = 0x300010 then s.writeIncr rq v
      else if h.lo = 0x300018 then s.writeAdj rq v
      else if h.lo = 0x30008C ∨ h.lo = 0x3000AC then s.writeDomIncr rq ((h.lo - 0x30008C) / 0x20) v
      else if h.lo = 0x300094 ∨ h.lo = 0x3000B4 then s.writeDomAdj rq ((h.lo - 0x300094) / 0x20) v
      else
        let q := s.joinPair rq h.lo (s.view h.lo fs) v
        q.1.writeReg h.lo fs q.2
    else if h.hi then s
    else s.writeReg a fs v

/-- A write of `size` bytes acts. -/
def State.writeAct (s : State) (f : Nat) (page : Bool) (off size v : Nat) : State :=
  match windowAt f page off with
  | none => s
  | some a =>
    match servedWords a size with
    | 1 => s.writeWord f a (v % 2 ^ 32)
    | 2 => (s.writeWord f a (v % 2 ^ 32)).writeWord f (a + 4) (v / 2 ^ 32 % 2 ^ 32)
    | _ => s

/-- What a read returns to the host. -/
def State.answer (s : State) (l : List Nat) : State := { s with host := { s.host with rdata := l.map (BitVec.ofNat 32) } }

/-- A read of `size` bytes acts; an access that is not served returns 0. -/
def State.readAct (s : State) (f : Nat) (page : Bool) (off size : Nat) : State :=
  match windowAt f page off with
  | none => s
  | some a =>
    match servedWords a size with
    | 1 => let q := s.readWord f a false; q.1.answer [q.2]
    | 2 =>
      let q := s.readWord f a false
      let r := q.1.readWord f (a + 4) false
      r.1.answer [q.2, r.2]
    | _ => s.answer [0]

/-- A held access takes effect. -/
def State.replayHeld (s : State) : Held → State
  | .sq f i v => s.sqDoorbell f i v
  | .cq f i v => s.cqDoorbell f i v
  | .str f r v => s.strDoorbell f r v
  | .urgent f v => s.urgentWrite f v
  | .write f page off size v => s.writeAct f page off size v
  | .read f page off size => s.readAct f page off size
  | .packet p k last => s.longPacket p k last
  | .flr f => s.flrNow f

/-- A PCIe write (R293, R418, R513). -/
def State.pcieWrite (s : State) (f : Nat) (page : Bool) (off size v : Nat) : State :=
  match if page then doorbellAt f off v else none with
  | some h => if size = 4 ∧ off % 4 ≠ 0 then s else s.doorbell f size h fun s => s.replayHeld h
  | none => s.bus (.write f page off size v) fun s => s.writeAct f page off size v

/-- A PCIe read. -/
def State.pcieRead (s : State) (f : Nat) (page : Bool) (off size : Nat) : State :=
  s.bus (.read f page off size) fun s => s.readAct f page off size

/-- REGISTER_WRITE: a write of `size` bytes by function `f`. -/
def execRegisterWrite (f : Fin 8) (sp : Space) (off : Nat) (size : Nat) (v : BitVec 64) (s : State) : Host.Outcome State Fault Refusal :=
  .next (s.pcieWrite f (inPage sp) off size v.toNat)

/-- LO_WRITE: a 4-byte write, as of the LO half of a pair. -/
def execLoWrite (f : Fin 8) (sp : Space) (off : Nat) (v : Word) (s : State) : Host.Outcome State Fault Refusal :=
  .next (s.pcieWrite f (inPage sp) off 4 v.toNat)

/-- HI_WRITE: a 4-byte write, as of the HI half of a pair. -/
def execHiWrite (f : Fin 8) (sp : Space) (off : Nat) (v : Word) (s : State) : Host.Outcome State Fault Refusal :=
  .next (s.pcieWrite f (inPage sp) off 4 v.toNat)

/-- LO_READ: a read of `size` bytes, of the LO half of a pair or of any other register. -/
def execLoRead (f : Fin 8) (sp : Space) (off : Nat) (size : Nat) (s : State) : Host.Outcome State Fault Refusal :=
  .next (s.pcieRead f (inPage sp) off size)

/-- RC_READ: a 4-byte read. -/
def execRcRead (f : Fin 8) (sp : Space) (off : Nat) (s : State) : Host.Outcome State Fault Refusal :=
  .next (s.pcieRead f (inPage sp) off 4)

/-- CAP_LO_READ (R377). -/
def execCapLoRead (c : Fin 4) (s : State) : Host.Outcome State Fault Refusal :=
  .next (s.pcieRead 0 false (R.timTciCapStamp c).addr 4)

/-- GNSS_RX_READ (R245). -/
def execGnssRxRead (s : State) : Host.Outcome State Fault Refusal := .next (s.pcieRead 0 false 0x800024 4)

/-- COEF_DATA_ACCESS (R261): a write of a value, or a read. -/
def execCoefDataAccess (wr : Option Word) (s : State) : Host.Outcome State Fault Refusal :=
  .next (match wr with
    | some v => s.pcieWrite 0 false 0x800018 4 v.toNat
    | none => s.pcieRead 0 false 0x800018 4)

/-- LIF_DATA_READ (R489). -/
def execLifDataRead (s : State) : Host.Outcome State Fault Refusal := .next (s.pcieRead 0 false 0xB00004 4)

end Sys2Proof.Machine
end

