-- ==== Sys2Proof/Machine/I2c.lean ====
section
/-! DEFINITION. The I²C management target: address match, wake, its commands (R422–R424, R484). -/

namespace Sys2Proof.Machine

/-! ### Commands (R423, R424, R484) -/

/-- Command codes. -/
def i2cStatus : Nat := 0x01
/-- STOP. -/
def i2cStop : Nat := 0x02
/-- REG_READ. -/
def i2cRegRead : Nat := 0x03
/-- REG_WRITE. -/
def i2cRegWrite : Nat := 0x04
/-- DUMP_INFO. -/
def i2cDumpInfo : Nat := 0x10
/-- DUMP_READ. -/
def i2cDumpRead : Nat := 0x11
/-- LIFE_READ. -/
def i2cLifeRead : Nat := 0x12

/-- The command is acknowledged, and a read transaction returns `b`. -/
def State.i2cReply (s : State) (b : List Byte) : State := s.setReef { s.reef with result := b, ack := true }

/-- The target does not acknowledge. -/
def State.i2cNack (s : State) : State := s.setReef { s.reef with ack := false }

/-- The low byte of a register of PF BAR0 as it stands. -/
def State.lowByte (s : State) (lo : Nat) : Nat := s.view lo (fieldsAt lo) % 256

/-- STATUS. -/
def State.i2cStatusNow (s : State) : State :=
  s.i2cReply (leBytes (s.lowByte 0x10000C) 1 ++ leBytes (s.lowByte 0x40) 1 ++ leBytes (s.lowByte 0x10) 1 ++ leBytes (s.lowByte 0x200184) 1
    ++ leBytes (s.get R.hifLossEpochEpoch) 4)

/-- STOP: refused where STOP_EN = 0; it returns T. A halted device stops nothing more. -/
def State.i2cStopNow (s : State) (full : Bool) : State :=
  if !s.flag R.mgtI2cStopEn then s.i2cNack
  else
    let t := if s.halted then s else s.acceptStop .i2c full
    t.i2cReply (leBytes (t.get R.hifStopTickTick) 8)

/-- REG_READ: RC fields stay as they are. -/
def State.i2cRegReadNow (s : State) (off : Nat) : State :=
  if off % 4 = 0 ∧ off < 0x1000000 then
    let q := s.readWord requesterI2c off true
    q.1.i2cReply (leBytes q.2 4)
  else s.i2cNack

/-- REG_WRITE: registers of the MGT block. [DESIGN CHOICE, log entry 142] -/
def State.i2cRegWriteNow (s : State) (off v : Nat) : State :=
  if 0x100000 ≤ off then s.i2cNack
  else (s.when (off % 4 == 0) fun s => s.writeWord requesterI2c (0x100000 + off) v).i2cReply []

/-- The complete dump that is held. -/
def State.heldDump (s : State) : Option Dump :=
  match s.obs.dump with
  | some d => if d.waiting.isEmpty then some d else none
  | none => none

/-- DUMP_INFO; what bytes 4–6 hold without a dump is free. -/
def State.i2cDumpInfoNow (s : State) : State :=
  match s.heldDump with
  | some d => s.i2cReply (leBytes d.total 4 ++ leBytes d.source 1 ++ leBytes d.die 1 ++ leBytes d.mask 1 ++ [0])
  | none => (s.took 3).i2cReply (leBytes 0 4 ++ freeBytes s.free 3 ++ [0])

/-- Bytes filled to 32; what stands behind the end is free. -/
def fill32 (i : Nat) (b : List Byte) : List Byte := b ++ freeBytes i (32 - b.length)

/-- DUMP_READ; what its read of the dump region delivers poisoned is free (R443). -/
def State.i2cDumpReadNow (s : State) (off : Nat) (ecc : Ecc) : State :=
  match s.heldDump with
  | some d =>
    if off % 32 = 0 ∧ off < d.total then
      ((s.copyRead ecc).took 32).i2cReply (fill32 s.free (if s.lpddrPoison ecc then [] else slice d.bytes off 32))
    else s.i2cNack
  | none => s.i2cNack

/-- LIFE_READ; without a valid copy the bytes are free. -/
def State.i2cLifeReadNow (s : State) (off : Nat) : State :=
  if off % 32 = 0 ∧ off < 8192 then
    match newestCopy s.obs.flash with
    | some x => s.i2cReply (slice x.2.bytes off 32)
    | none => (s.took 32).i2cReply (freeBytes s.free 32)
  else s.i2cNack

/-- A command is served. -/
def State.serveI2c (s : State) (c : I2cCommand) : State :=
  match c.code with
  | 0x01 => s.i2cStatusNow
  | 0x02 => s.i2cStopNow (bit (leAt c.operand 0 1) 0)
  | 0x03 => s.i2cRegReadNow (leAt c.operand 0 4)
  | 0x04 => s.i2cRegWriteNow (leAt c.operand 0 4) (leAt c.operand 4 4)
  | 0x10 => s.i2cDumpInfoNow
  | 0x11 => s.i2cDumpReadNow (leAt c.operand 0 4) c.ecc
  | 0x12 => s.i2cLifeReadNow (leAt c.operand 0 2)
  | _ => s.i2cNack

/-! ### Transactions (R422) -/

/-- The rest of a transaction in REEF `n`, its entry or its exit: it waits with SCL held low, or is not acknowledged. [DESIGN CHOICE, log entry 142] -/
def State.i2cWaits (s : State) (n : Nat) (c : I2cCommand) : State :=
  if n ≤ 2 ∧ s.flag R.mgtI2cStretchEn then s.setReef { s.reef with served := s.reef.served ++ [c], ack := true } else s.i2cNack

/-- A transaction that carries a command; while the device boots the target does not answer. -/
def State.i2c (s : State) (c : I2cCommand) : State :=
  match s.phase with
  | .sail => s.touch.serveI2c c
  | .off => s
  | .boot _ => s.i2cNack
  | p => (s.touch.wake .i2c).i2cWaits p.reefOf c

/-- I2C_ADDRESS_MATCH: acknowledged, and a wake. -/
def execI2cAddressMatch (s : State) : Host.Outcome State Fault Refusal :=
  .next (match s.phase with
    | .off => s
    | .boot _ => s.i2cNack
    | _ => let t := s.touch.wake .i2c; t.setReef { t.reef with ack := true })

/-- STATUS. -/
def execStatus (s : State) : Host.Outcome State Fault Refusal := .next (s.i2c ⟨i2cStatus, [], .ok⟩)

/-- I2C_STOP. -/
def execI2cStop (operand : Byte) (s : State) : Host.Outcome State Fault Refusal := .next (s.i2c ⟨i2cStop, [operand], .ok⟩)

/-- REG_READ. -/
def execRegRead (off : Word) (s : State) : Host.Outcome State Fault Refusal := .next (s.i2c ⟨i2cRegRead, leBytes off.toNat 4, .ok⟩)

/-- REG_WRITE. -/
def execRegWrite (off : Word) (v : Word) (s : State) : Host.Outcome State Fault Refusal :=
  .next (s.i2c ⟨i2cRegWrite, leBytes off.toNat 4 ++ leBytes v.toNat 4, .ok⟩)

/-- DUMP_INFO. -/
def execDumpInfo (s : State) : Host.Outcome State Fault Refusal := .next (s.i2c ⟨i2cDumpInfo, [], .ok⟩)

/-- DUMP_READ. -/
def execDumpRead (off : Word) (ecc : Ecc) (s : State) : Host.Outcome State Fault Refusal := .next (s.i2c ⟨i2cDumpRead, leBytes off.toNat 4, ecc⟩)

/-- LIFE_READ. -/
def execLifeRead (off : Nat) (s : State) : Host.Outcome State Fault Refusal := .next (s.i2c ⟨i2cLifeRead, leBytes off 2, .ok⟩)

end Sys2Proof.Machine
end

