-- ==== Sys2Proof/Machine/Boundary.lean ====
section
/-! DEFINITION. Tick and step boundaries (R228, R447, R519), and ready (R300, R416, R418). -/

namespace Sys2Proof.Machine

/-! ### Tick boundaries (R447, R519) -/

/-- Whether a retrain holds a boundary mark (R446, R447). -/
def State.retraining (s : State) : Bool := (List.range 7).any fun l => (s.link l).retrain.isSome

/-- Whether a write waits for the boundary of tick `n` or an earlier one. -/
def dueAtTick (n : Nat) : Boundary → Bool
  | .tick m => decide (m ≤ n)
  | .step _ => false

/-- Whether a write waits for step boundary `k` or an earlier one. -/
def dueAtStep (k : Nat) : Boundary → Bool
  | .tick _ => false
  | .step m => decide (m ≤ k)

/-- What the mark of tick `n` brings: deferred writes, a FULL hold, Gauze levels, counter snapshots, INGEST entries. -/
def State.markTick (s : State) (n : Nat) : State :=
  let t := ((((s.takeDue (dueAtTick n)).takeHold).setGauze n).takeSnaps n).ingestTrace n
  t.setCtl { t.ctl with marked := n, lateMark := none }

/-- The mark of tick `n` is late: the units that wait are counted, how many is free. [DESIGN CHOICE, log entry 139] -/
def State.waitMark (s : State) (n : Nat) : State :=
  if s.ctl.lateMark = some n then s
  else ((s.took 1).add R.cntMarkWait (1 + s.freeValue % 256)).setCtl { s.ctl with lateMark := some n }

/-- TICK_BOUNDARY_MARK: the boundary after the last one marked, once device time has reached it. [DEDUCED, log entry 140] -/
def execTickBoundaryMark (s : State) : Host.Outcome State Fault Refusal :=
  .next (
    let n := s.ctl.marked + 1
    if s.awake && s.reached (n * tickNs) then (if s.retraining then s.waitMark n else s.markTick n) else s)

/-! ### Step boundaries (R210, R228, R519) -/

/-- STEP_BOUNDARY: the newest nominal step boundary. -/
def execStepBoundary (s : State) : Host.Outcome State Fault Refusal :=
  .next (
    if s.awake then
      let t := s.takeDue (dueAtStep (s.now / s.stepNs))
      t.each ((List.range 8).filter fun e => !t.offline (dieOfEngine e)) fun s e => s.sendMarks e
    else s)

/-! ### Ready (R300, R416, R418, R422) -/

/-- An access that has waited takes effect, or waits on where its function is not READY yet. -/
def State.release (s : State) (h : Held) : State :=
  let waits := match h with
    | .sq f _ _ | .cq f _ _ | .str f _ _ | .urgent f _ => !s.ready f
    | _ => !s.served
  if waits then s.hold h else s.replayHeld h

/-- Everything that has waited for ready, in the order in which it came; then the I²C transactions. [DESIGN CHOICE, log entry 44] -/
def State.releaseAll (s : State) : State :=
  let t := ({ s with host := { s.host with held := [] } }).each s.host.held State.release
  if t.served then (t.setReef { t.reef with served := [] }).each t.reef.served State.serveI2c else t

/-- Tick boundaries that passed while no unit worked are behind. [DEDUCED, log entry 140] -/
def State.catchUp (s : State) (was : Phase) : State := if was = .sail then s else s.setCtl { s.ctl with marked := max s.ctl.marked s.tick }

/-- READY; before it, where a power sequence has come to it, the rail check on the readings `mv` (R420). [DEDUCED, log entry 145] -/
def execReady (mv : List Nat) (ddr : Bool) (s : State) : Host.Outcome State Fault Refusal :=
  .next (
    let s := s.checkRails mv ddr
    match s.comeReady with
    | some t => (t.catchUp s.phase).releaseAll
    | none => s)

end Sys2Proof.Machine
end

