-- ==== Sys2Proof/Machine/Dispatch.lean ====
section
/-! DEFINITION. One arm per command: exec names the meaning of each. -/

namespace Sys2Proof.Machine

/-- The effect of a command on everything but the queue. [DESIGN CHOICE, log entry 4] -/
def exec (i : Instr) (s : State) : Host.Outcome State Fault Refusal :=
  match i with
  | .nop f q => Sys2Proof.Machine.execNop f q s
  | .loadSet f q img ecc => Sys2Proof.Machine.execLoadSet f q img ecc s
  | .loadSetComplete hits => Sys2Proof.Machine.execLoadSetComplete hits s
  | .swapSet f q => Sys2Proof.Machine.execSwapSet f q s
  | .swapTakesEffect => Sys2Proof.Machine.execSwapTakesEffect s
  | .start f q => Sys2Proof.Machine.execStart f q s
  | .runBegins => Sys2Proof.Machine.execRunBegins s
  | .stop f q => Sys2Proof.Machine.execStop f q s
  | .stopBoundary => Sys2Proof.Machine.execStopBoundary s
  | .cutComplete => Sys2Proof.Machine.execCutComplete s
  | .setPhase f q => Sys2Proof.Machine.execSetPhase f q s
  | .phaseTakesEffect => Sys2Proof.Machine.execPhaseTakesEffect s
  | .readWindow f q => Sys2Proof.Machine.execReadWindow f q s
  | .configure f q => Sys2Proof.Machine.execConfigure f q s
  | .arm f q => Sys2Proof.Machine.execArm f q s
  | .trigger f q => Sys2Proof.Machine.execTrigger f q s
  | .disarm f q => Sys2Proof.Machine.execDisarm f q s
  | .drain f q eccs => Sys2Proof.Machine.execDrain f q eccs s
  | .dumpFetch f q eccs => Sys2Proof.Machine.execDumpFetch f q eccs s
  | .fence f q => Sys2Proof.Machine.execFence f q s
  | .fenceRelease f q => Sys2Proof.Machine.execFenceRelease f q s
  | .surroundings f q m => Sys2Proof.Machine.execSurroundings f q m s
  | .fwUpdate f q img => Sys2Proof.Machine.execFwUpdate f q img s
  | .lpddrWrite f q => Sys2Proof.Machine.execLpddrWrite f q s
  | .operandReadFail f q poisoned => Sys2Proof.Machine.execOperandReadFail f q poisoned s
  | .sqDoorbell f j size v => Sys2Proof.Machine.execSqDoorbell f j size v s
  | .cqDoorbell f j size v => Sys2Proof.Machine.execCqDoorbell f j size v s
  | .streamDoorbell f r size v => Sys2Proof.Machine.execStreamDoorbell f r size v s
  | .urgentStop f size v => Sys2Proof.Machine.execUrgentStop f size v s
  | .descriptorFetch f q res => Sys2Proof.Machine.execDescriptorFetch f q res s
  | .recordStaging parity => Sys2Proof.Machine.execRecordStaging parity s
  | .streamRecordWrite f r ecc => Sys2Proof.Machine.execStreamRecordWrite f r ecc s
  | .streamIrqTimeout f r => Sys2Proof.Machine.execStreamIrqTimeout f r s
  | .ringEnable k f j v => Sys2Proof.Machine.execRingEnable k f j v s
  | .ringDisable f r v => Sys2Proof.Machine.execRingDisable f r v s
  | .lossAck f v => Sys2Proof.Machine.execLossAck f v s
  | .flr f => Sys2Proof.Machine.execFlr f s
  | .i2cAddressMatch => Sys2Proof.Machine.execI2cAddressMatch s
  | .status => Sys2Proof.Machine.execStatus s
  | .i2cStop operand => Sys2Proof.Machine.execI2cStop operand s
  | .regRead off => Sys2Proof.Machine.execRegRead off s
  | .regWrite off v => Sys2Proof.Machine.execRegWrite off v s
  | .dumpInfo => Sys2Proof.Machine.execDumpInfo s
  | .dumpRead off ecc => Sys2Proof.Machine.execDumpRead off ecc s
  | .lifeRead off => Sys2Proof.Machine.execLifeRead off s
  | .registerWrite f sp off size v => Sys2Proof.Machine.execRegisterWrite f sp off size v s
  | .loWrite f sp off v => Sys2Proof.Machine.execLoWrite f sp off v s
  | .hiWrite f sp off v => Sys2Proof.Machine.execHiWrite f sp off v s
  | .loRead f sp off size => Sys2Proof.Machine.execLoRead f sp off size s
  | .rcRead f sp off => Sys2Proof.Machine.execRcRead f sp off s
  | .capLoRead c => Sys2Proof.Machine.execCapLoRead c s
  | .gnssRxRead => Sys2Proof.Machine.execGnssRxRead s
  | .coefDataAccess wr => Sys2Proof.Machine.execCoefDataAccess wr s
  | .lifDataRead => Sys2Proof.Machine.execLifDataRead s
  | .portEnable p => Sys2Proof.Machine.execPortEnable p s
  | .portDisable p => Sys2Proof.Machine.execPortDisable p s
  | .retrain p v => Sys2Proof.Machine.execRetrain p v s
  | .cciGo p v => Sys2Proof.Machine.execCciGo p v s
  | .cciTransactionEnd p nack data => Sys2Proof.Machine.execCciTransactionEnd p nack data s
  | .imuEnable j v => Sys2Proof.Machine.execImuEnable j v s
  | .imuXfer j v => Sys2Proof.Machine.execImuXfer j v s
  | .channelEnable n => Sys2Proof.Machine.execChannelEnable n s
  | .clear r => Sys2Proof.Machine.execClear r s
  | .snap page => Sys2Proof.Machine.execSnap page s
  | .release => Sys2Proof.Machine.execRelease s
  | .softReset key => Sys2Proof.Machine.execSoftReset key s
  | .dieReset v => Sys2Proof.Machine.execDieReset v s
  | .dieResetDone d pass => Sys2Proof.Machine.execDieResetDone d pass s
  | .serviceModeWrite v => Sys2Proof.Machine.execServiceModeWrite v s
  | .step hi => Sys2Proof.Machine.execStep hi s
  | .slew hi => Sys2Proof.Machine.execSlew hi s
  | .timIncrWrite hi => Sys2Proof.Machine.execTimIncrWrite hi s
  | .domainStep x hi => Sys2Proof.Machine.execDomainStep x hi s
  | .domainSlew x hi => Sys2Proof.Machine.execDomainSlew x hi s
  | .switchRequest v => Sys2Proof.Machine.execSwitchRequest v s
  | .domainSwitch => Sys2Proof.Machine.execDomainSwitch s
  | .tpoEnable p v => Sys2Proof.Machine.execTpoEnable p v s
  | .tpoDisable p v => Sys2Proof.Machine.execTpoDisable p v s
  | .tpoEdge p => Sys2Proof.Machine.execTpoEdge p s
  | .macTxDoorbell m v => Sys2Proof.Machine.execMacTxDoorbell m v s
  | .transmitSlot m slot => Sys2Proof.Machine.execTransmitSlot m slot s
  | .ptpFrame m frame => Sys2Proof.Machine.execPtpFrame m frame s
  | .exportDatagram m => Sys2Proof.Machine.execExportDatagram m s
  | .tciEdge c rising held => Sys2Proof.Machine.execTciEdge c rising held s
  | .rebaseEstimate p => Sys2Proof.Machine.execRebaseEstimate p s
  | .firstTripleCommit p => Sys2Proof.Machine.execFirstTripleCommit p s
  | .linkTraining p ok gear loss => Sys2Proof.Machine.execLinkTraining p ok gear loss s
  | .capabilityRead p ack data => Sys2Proof.Machine.execCapabilityRead p ack data s
  | .linkLoss p => Sys2Proof.Machine.execLinkLoss p s
  | .cameraCurrentSample p code => Sys2Proof.Machine.execCameraCurrentSample p code s
  | .longPacket p pkt => Sys2Proof.Machine.execLongPacket p pkt s
  | .rebaseCycle bad => Sys2Proof.Machine.execRebaseCycle bad s
  | .surfaceUpdate e hits parity => Sys2Proof.Machine.execSurfaceUpdate e hits parity s
  | .flowFit e hits => Sys2Proof.Machine.execFlowFit e hits s
  | .staleSweepVisit p x y hits => Sys2Proof.Machine.execStaleSweepVisit p x y hits s
  | .agingWheelScan e hits => Sys2Proof.Machine.execAgingWheelScan e hits s
  | .tapRecordClose e corner => Sys2Proof.Machine.execTapRecordClose e corner s
  | .regionInit p => Sys2Proof.Machine.execRegionInit p s
  | .canvasStaleMark => Sys2Proof.Machine.execCanvasStaleMark s
  | .tickBoundaryMark => Sys2Proof.Machine.execTickBoundaryMark s
  | .commandMessage die parity => Sys2Proof.Machine.execCommandMessage die parity s
  | .tickWorkReady tiles hits => Sys2Proof.Machine.execTickWorkReady tiles hits s
  | .deltaPacket j pass parity hits => Sys2Proof.Machine.execDeltaPacket j pass parity hits s
  | .layerEvaluation l n hits => Sys2Proof.Machine.execLayerEvaluation l n hits s
  | .tickComplete => Sys2Proof.Machine.execTickComplete s
  | .tickCut => Sys2Proof.Machine.execTickCut s
  | .denseDrain => Sys2Proof.Machine.execDenseDrain s
  | .checkSlice hits => Sys2Proof.Machine.execCheckSlice hits s
  | .refreshSlice hits => Sys2Proof.Machine.execRefreshSlice hits s
  | .dppRun die parity hits => Sys2Proof.Machine.execDppRun die parity hits s
  | .inputSpikeInjection e parity hits => Sys2Proof.Machine.execInputSpikeInjection e parity hits s
  | .spikeArrival j parity hits => Sys2Proof.Machine.execSpikeArrival j parity hits s
  | .instantClose c hits => Sys2Proof.Machine.execInstantClose c hits s
  | .stepStart c => Sys2Proof.Machine.execStepStart c s
  | .contextAgeSweep c ix hits => Sys2Proof.Machine.execContextAgeSweep c ix hits s
  | .windowEnd => Sys2Proof.Machine.execWindowEnd s
  | .loomingHandover => Sys2Proof.Machine.execLoomingHandover s
  | .reflexFire parity => Sys2Proof.Machine.execReflexFire parity s
  | .reflexHoldExpiry r => Sys2Proof.Machine.execReflexHoldExpiry r s
  | .fabricHalt => Sys2Proof.Machine.execFabricHalt s
  | .fabricSetChange => Sys2Proof.Machine.execFabricSetChange s
  | .drdyEdge j held => Sys2Proof.Machine.execDrdyEdge j held s
  | .imuReadComplete j data perr => Sys2Proof.Machine.execImuReadComplete j data perr s
  | .encoderTransition e a b held => Sys2Proof.Machine.execEncoderTransition e a b held s
  | .encoderSample e perr => Sys2Proof.Machine.execEncoderSample e perr s
  | .canFrame c sof fr taken perr => Sys2Proof.Machine.execCanFrame c sof fr taken perr s
  | .busOffRecovery c => Sys2Proof.Machine.execBusOffRecovery c s
  | .gnssSentence arrived text => Sys2Proof.Machine.execGnssSentence arrived text s
  | .gnssByte b => Sys2Proof.Machine.execGnssByte b s
  | .resamplerTimeout n perr => Sys2Proof.Machine.execResamplerTimeout n perr s
  | .channelGapRestart n => Sys2Proof.Machine.execChannelGapRestart n s
  | .fusionPass => Sys2Proof.Machine.execFusionPass s
  | .residualReturn id => Sys2Proof.Machine.execResidualReturn id s
  | .shroudSample r acts sense => Sys2Proof.Machine.execShroudSample r acts sense s
  | .estMismatch r => Sys2Proof.Machine.execEstMismatch r s
  | .opStep => Sys2Proof.Machine.execOpStep s
  | .vrCheck d mv => Sys2Proof.Machine.execVrCheck d mv s
  | .capEvaluation => Sys2Proof.Machine.execCapEvaluation s
  | .thermalControl temps => Sys2Proof.Machine.execThermalControl temps s
  | .thermtrip sensor temp => Sys2Proof.Machine.execThermtrip sensor temp s
  | .railMeasure mv => Sys2Proof.Machine.execRailMeasure mv s
  | .idle1Expiry => Sys2Proof.Machine.execIdle1Expiry s
  | .idle2Expiry l12 => Sys2Proof.Machine.execIdle2Expiry l12 s
  | .idle3Expiry => Sys2Proof.Machine.execIdle3Expiry s
  | .reefEntryDone => Sys2Proof.Machine.execReefEntryDone s
  | .wake w => Sys2Proof.Machine.execWake w s
  | .ready mv ddr => Sys2Proof.Machine.execReady mv ddr s
  | .por straps testEn gib => Sys2Proof.Machine.execPor straps testEn gib s
  | .warmReset resetN held => Sys2Proof.Machine.execWarmReset resetN held s
  | .watchdogReset => Sys2Proof.Machine.execWatchdogReset s
  | .scrubVisit m addr shadow hit => Sys2Proof.Machine.execScrubVisit m addr shadow hit s
  | .vejanRetry l => Sys2Proof.Machine.execVejanRetry l s
  | .retrainComplete l => Sys2Proof.Machine.execRetrainComplete l s
  | .retrainTimeout l => Sys2Proof.Machine.execRetrainTimeout l s
  | .halyardHopRetry => Sys2Proof.Machine.execHalyardHopRetry s
  | .progressWatchdogExpiry die unit reasons idleNs => Sys2Proof.Machine.execProgressWatchdogExpiry die unit reasons idleNs s
  | .snapshotCapture die units eccs => Sys2Proof.Machine.execSnapshotCapture die units eccs s
  | .hardwareTrigger k => Sys2Proof.Machine.execHardwareTrigger k s
  | .traceFifoDrain die => Sys2Proof.Machine.execTraceFifoDrain die s
  | .counterExport => Sys2Proof.Machine.execCounterExport s
  | .lifetimeSample => Sys2Proof.Machine.execLifetimeSample s
  | .lifetimeCopyWrite ok => Sys2Proof.Machine.execLifetimeCopyWrite ok s
  | .stepBoundary => Sys2Proof.Machine.execStepBoundary s
  | .canBusError c err => Sys2Proof.Machine.execCanBusError c err s
  | .aonPowerLoss => Sys2Proof.Machine.execAonPowerLoss s
  | .slewIntervalEnd k => Sys2Proof.Machine.execSlewIntervalEnd k s
  | .lpddrWriteDone f q data => Sys2Proof.Machine.execLpddrWriteDone f q data s
  | .fwUpdateDone f q => Sys2Proof.Machine.execFwUpdateDone f q s
  | .imuXferDone j data => Sys2Proof.Machine.execImuXferDone j data s

end Sys2Proof.Machine
end

