-- ==== Sys2Proof/Machine/Step.lean ====
section
/-! DEFINITION. One step: the command at the front of the queue, or one idle cycle of the reference clock. -/

namespace Sys2Proof.Machine

/-- The state with `l` in the queue. -/
def State.withPending (s : State) (l : List Instr) : State := { s with pending := l }

/-- The command at the front acts on the state with the queue's rest; on an empty queue one cycle of the reference clock passes (log entry 3). [DESIGN CHOICE, log entry 3] -/
def step (s : State) : Host.Outcome State Fault Refusal :=
  match s.pending with
  | [] => .next s.idleCycle
  | c :: l => exec c (s.withPending l)

/-- The command that a table word spells put at the front of the queue; nothing where it spells none. -/
def State.withFetchWord (s : State) (nbits w : Nat) : State :=
  match decodeTableWord nbits w with
  | some c => s.withPending (c :: s.pending)
  | none => s

end Sys2Proof.Machine
end

