-- ==== Sys2Proof/Safety.lean ====
section
/-! DEFINITION. What a safe run is: every step answers a next state, and the state stays well formed. -/

namespace Sys2Proof.Machine

/-- The state that an outcome gives, where it gives one. -/
def nextOf (o : Host.Outcome State Fault Refusal) : Option State :=
  match o with
  | .next t => some t
  | .fault _ => none
  | .refused _ => none

/-- A well-formed state: the LPDDR5X memory in canonical form, the register map and the written host memory in key order — so each field and byte has one value —, and the four followers at the master's count (R21, R22). -/
structure State.Inv (s : State) : Prop where
  lpddr : Memory.wf lpddrFill s.lpddr = true
  regs : SMap.sorted s.regs = true
  mem : SMap.sorted s.host.mem = true
  followers : s.time.followers = List.replicate 4 s.time.dev

/-- The byte that the device has written last to address `a` of function `f`'s host memory, if any. -/
def State.hostByte (s : State) (f a : Nat) : Option Byte := SMap.find? (f * 2 ^ 64 + a % 2 ^ 64) s.host.mem

/-- Whether host memory of function `f` holds the bytes `bs` from address `a` on. -/
def State.hostHas (s : State) (f a : Nat) (bs : List Byte) : Prop := ∀ k (h : k < bs.length), s.hostByte f (a + k) = some bs[k]

/-- Every register field but those whose keys are listed reads after as before. -/
def State.keepsRegs (s t : State) (keys : List Nat) : Prop := ∀ x : Fld, x.key ∉ keys → t.get x = s.get x

/-- The register fields that a trace entry or a fault may change: the dropped-entry and report counters, and the error status. -/
def faultKeys : List Nat :=
  [R.cntTraceDrop.key, R.cntReport.key, R.errStatusCorrected.key, R.errStatusContained.key, R.errStatusDieFatal.key,
   R.errStatusDeviceFatal.key, R.errFirstFatalSource.key, R.errFirstFatalDie.key, R.errFirstFatalValid.key]

/-- From `s` to `t` nothing has changed but observation, error folding, records handed over and the fields of `faultKeys`. -/
structure Quiet (s t : State) : Prop where
  regs : ∀ x : Fld, x.key ∉ faultKeys → t.get x = s.get x
  time : t.time = s.time
  ctl : t.ctl = s.ctl
  phase : t.phase = s.phase
  halted : t.halted = s.halted
  lpddr : t.lpddr = s.lpddr
  ing : t.ing = s.ing
  cv : t.cv = s.cv
  active : t.active = s.active
  shadow : t.shadow = s.shadow
  tns : t.tns = s.tns
  fab : t.fab = s.fab
  flt : t.flt = s.flt
  ftu : t.ftu = s.ftu
  pwr : t.pwr = s.pwr
  reef : t.reef = s.reef
  free : t.free = s.free
  sq : t.host.sq = s.host.sq
  cq : t.host.cq = s.host.cq
  str : t.host.str = s.host.str
  wide : t.host.wide = s.host.wide
  mem : t.host.mem = s.host.mem
  msix : t.host.msix = s.host.msix


end Sys2Proof.Machine
end

