-- ==== Sys2Proof/Certificates/Slice0/Obligations.lean ====
section
/-! DEFINITION. The statements for the provers. -/

open Sys2Proof Sys2Proof.Machine

/-- A step runs the front command. On a state whose queue is c followed by l, a step answers what exec of c answers on the state with queue l. -/
def Obligations.StepRunsFrontCommand : Prop :=
  ∀ (s : State) (c : Instr) (l : List Instr), s.pending = c :: l → step s = exec c (s.withPending l)

/-- Every command completes. On every state every command answers a next state, which has the same queue and has taken no free value back (no command
stops the machine; a happening outside its condition is log entry 5). -/
def Obligations.EveryCommandAnswersAState : Prop :=
  ∀ (c : Instr) (s : State), ∃ t, exec c s = .next t ∧ t.pending = s.pending ∧ s.free ≤ t.free

/-- Every step keeps the invariant. From every state that satisfies Inv (LPDDR5X memory in canonical form, registers and written host memory in key
order, followers at the master count, log entry 96) every step answers a state that satisfies it. (R21, R22, R361, R363, R511.) -/
def Obligations.StepKeepsInv : Prop :=
  ∀ s t : State, s.Inv → step s = .next t → t.Inv

/-- Reset satisfies the invariant. State.reset satisfies Inv. (R426, R511.) -/
def Obligations.ResetInv : Prop := State.reset.Inv

/-- A halt ends by a reset only. A command that acts on a halted device leaves it halted, unless it is a warm reset, a power-on reset or a loss of the
always-on supply (soft and watchdog resets: log entry 128). (R426, R456, R493.) -/
def Obligations.HaltLastsUntilReset : Prop :=
  ∀ (c : Instr) (s t : State), s.halted = true → exec c s = .next t → t.halted = true
    ∨ (∃ b n, c = .warmReset b n) ∨ (∃ a b g, c = .por a b g) ∨ c = .aonPowerLoss

/-- LPDDR5X content changes by LPDDR_WRITE only. Every command other than the end of an LPDDR_WRITE and the failure of an operand read leaves the
LPDDR5X content as it is or loses all of it. (R305, R428, R429.) -/
def Obligations.LpddrChangesOnlyByLpddrWrite : Prop :=
  ∀ (c : Instr) (s t : State), exec c s = .next t → (∀ f q d, c ≠ .lpddrWriteDone f q d) → (∀ f q b, c ≠ .operandReadFail f q b) →
    t.lpddr = s.lpddr ∨ t.lpddr = []

/-- Register values at reset. What State.reset holds in the run state, the privileges, the loss record, the idle timers, the increment, the step
period, the port enables and the function pages; the device boots, its device time is 0, nothing is queued, and it is not halted (LPDDR5X content: log
entry 7; fields that are no register: log entry 24). (R229, R330, R331, R384, R426, R433.) -/
def Obligations.ResetRegisterValues : Prop :=
  let s := State.reset
  s.get R.hifRunState = 0 ∧ s.get R.hifPrivFn = 0xF ∧ s.get R.hifStateLostClasses = 0xF ∧ s.get R.hifStateLostCause = 7
    ∧ s.get R.hifLossEpochEpoch = 1 ∧ (∀ f : Fin 8, s.get (R.fnLossEpochEpoch f) = 1 ∧ s.get (R.fnLossAckAck f) = 0 ∧ s.get (R.fnStatusReady f) = 0)
    ∧ s.get R.mgtIdle1Us = 200 ∧ s.get R.mgtIdle2Ms = 50 ∧ s.get R.timIncrIncr = 0x400000000 ∧ s.get R.fabStepPeriodUs = 25
    ∧ s.get R.ingCtlPortEn = 0 ∧ s.phase = .boot 18750000 ∧ s.time.dev = 0 ∧ s.lpddr = [] ∧ s.pending = [] ∧ s.halted = false

/-- Time passes, and a slew spends its remainder. A step on an empty queue lets one reference cycle pass (log entry 3): no register (while no CAN
frame waits) and no LPDDR5X byte changes, and device time stands still or, without a slew, grows by TIM_INCR held in its range; SLEW_INTERVAL_END lets
the rest of the interval of one of the three slew engines pass, after which the counter has gained exactly its increments and the remainder, and the
engine is at rest; inside an interval what is added and what remains give the request. (R21, R22, R358, R361, R363.) -/
def Obligations.TimePassesAndSlewIsSpent : Prop :=
  (∀ s : State, s.pending = [] → (s.awake = true → ∀ c : Fin 4, (s.can c).fifo = []) → ∃ t, step s = .next t ∧ t.time.clk = s.time.clk + 1 ∧ t.pending = []
    ∧ (∀ g : Fld, t.get g = s.get g) ∧ t.lpddr = s.lpddr
    ∧ (s.timeRuns = false → t.time.dev = s.time.dev)
    ∧ (s.timeRuns = true → s.time.slew.left = 0 → s.time.slew.rem = 0 →
        t.time.dev = (s.time.dev + s.getIn R.timIncrIncr 0x00000003FEF9DB23 0x00000004010624DD) % 2 ^ 96
        ∧ t.time.followers = List.replicate 4 t.time.dev))
  ∧ (∀ s : State, s.timeRuns = true →
    (∃ t : State, exec (.slewIntervalEnd 0) s = .next t ∧ t.time.slew = {} ∧ t.time.clk = s.time.clk + s.time.slew.left
      ∧ (t.time.dev : Int) = (s.time.dev + s.time.slew.left * s.incr R.timIncrIncr + s.time.slew.rem) % 2 ^ 96
      ∧ t.time.followers = List.replicate 4 t.time.dev ∧ s.keepsRegs t [])
    ∧ (∃ t : State, exec (.slewIntervalEnd 1) s = .next t ∧ t.time.slewA = {}
      ∧ (t.time.domA : Int) = (s.time.domA + s.time.slewA.left * s.incr (R.timDomIncrIncr 0) + s.time.slewA.rem) % 2 ^ 96 ∧ s.keepsRegs t [])
    ∧ (∃ t : State, exec (.slewIntervalEnd 2) s = .next t ∧ t.time.slewB = {}
      ∧ (t.time.domB : Int) = (s.time.domB + s.time.slewB.left * s.incr (R.timDomIncrIncr 1) + s.time.slewB.rem) % 2 ^ 96 ∧ s.keepsRegs t [])
    ∧ (∀ (n : Nat) (w : Slew), n < w.left → (w.run n).2.rem + (w.run n).1 = w.rem ∧ (w.run n).2.left + n = w.left))

/-- Doorbells move ring indices. A 4-byte doorbell of a READY function with a value inside the ring moves the submission tail, the completion head or
the stream read index and nothing else; a completion doorbell that would free unwritten entries, lies outside the ring or meets a disabled ring sets
DB_ERR only. (R293, R297, R299, R315.) -/
def Obligations.DoorbellsMoveIndices : Prop :=
  (∀ (f : Fin 8) (i : Fin 4) (v : Word) (s : State), s.linkUp = true → s.ready f = true → s.flag (R.fnSqCfgEn f i) = true →
    v.toNat < s.sqSize f i →
    ∃ t, exec (.sqDoorbell f i 4 v) s = .next t ∧ (t.sq f i).tail = v.toNat ∧ t.cur f i = s.cur f i
      ∧ (∀ g r : Fin 8, ¬(g = f ∧ r.val = i.val) → t.sq g r = s.sq g r) ∧ t.host.cq = s.host.cq ∧ t.host.str = s.host.str
      ∧ (∀ x : Fld, t.get x = s.get x) ∧ t.host.mem = s.host.mem ∧ t.lpddr = s.lpddr)
  ∧ (∀ (f : Fin 8) (i : Fin 4) (v : Word) (s : State), s.linkUp = true → s.ready f = true → s.flag (R.fnCqCfgEn f i) = true →
    v.toNat < s.cqSize f i →
    (v.toNat + s.cqSize f i - (s.cq f i).head) % s.cqSize f i
      ≤ (s.get (R.fnCqTailTail f i) + s.cqSize f i - (s.cq f i).head) % s.cqSize f i →
    ∃ t, exec (.cqDoorbell f i 4 v) s = .next t ∧ (t.cq f i).head = v.toNat ∧ (t.cq f i).resv = (s.cq f i).resv
      ∧ t.host.sq = s.host.sq ∧ t.host.str = s.host.str ∧ (∀ x : Fld, t.get x = s.get x) ∧ t.host.mem = s.host.mem)
  ∧ (∀ (f r : Fin 8) (v : Word) (s : State), s.linkUp = true → s.ready f = true → s.flag (R.fnStrCfgEn f r) = true →
    v.toNat < s.strSize f r → v.toNat % 64 = 0 →
    (v.toNat + s.strSize f r - (s.str f r).rd) % s.strSize f r
      ≤ (s.get (R.fnStrWrWr f r) + s.strSize f r - (s.str f r).rd) % s.strSize f r →
    ∃ t, exec (.streamDoorbell f r 4 v) s = .next t ∧ (t.str f r).rd = v.toNat ∧ (t.str f r).staged = (s.str f r).staged
      ∧ t.host.sq = s.host.sq ∧ t.host.cq = s.host.cq ∧ (∀ x : Fld, t.get x = s.get x) ∧ t.host.mem = s.host.mem)
  ∧ (∀ (f : Fin 8) (i : Fin 4) (v : Word) (s : State), s.linkUp = true → s.ready f = true →
    (s.flag (R.fnCqCfgEn f i) = false ∨ s.cqSize f i ≤ v.toNat
      ∨ (s.get (R.fnCqTailTail f i) + s.cqSize f i - (s.cq f i).head) % s.cqSize f i
          < (v.toNat + s.cqSize f i - (s.cq f i).head) % s.cqSize f i) →
    ∃ t, exec (.cqDoorbell f i 4 v) s = .next t ∧ t.flag (R.fnStatusDbErr f) = true ∧ t.host = s.host
      ∧ ∀ x : Fld, x.key ≠ (R.fnStatusDbErr f).key → t.get x = s.get x)

/-- Doorbells wait for READY. While the link is up and a function is not READY, each kind of its 4-byte doorbells is held, last in order, and acts on
nothing (order: log entry 44). (R300, R418.) -/
def Obligations.DoorbellsWaitForReady : Prop :=
  ∀ (f : Fin 8) (v : Word) (s : State), s.linkUp = true → s.ready f = false →
    (∀ i : Fin 4, ∃ t, exec (.sqDoorbell f i 4 v) s = .next t ∧ t.host.held = s.host.held ++ [.sq f i v.toNat] ∧ t.host.sq = s.host.sq)
    ∧ (∀ i : Fin 4, ∃ t, exec (.cqDoorbell f i 4 v) s = .next t ∧ t.host.held = s.host.held ++ [.cq f i v.toNat] ∧ t.host.cq = s.host.cq)
    ∧ (∀ r : Fin 8, ∃ t, exec (.streamDoorbell f r 4 v) s = .next t ∧ t.host.held = s.host.held ++ [.str f r v.toNat] ∧ t.host.str = s.host.str)
    ∧ ∃ t, exec (.urgentStop f 4 v) s = .next t ∧ t.host.held = s.host.held ++ [.urgent f v.toNat] ∧ t.get R.hifRunState = s.get R.hifRunState

/-- A completion writes one entry; NOP completes OK. A descriptor that completes to an enabled completion ring leaves its ring free, writes the 16
bytes of R307 with the ring phase at the tail, moves tail and phase on, and changes no other byte of host memory, no LPDDR5X byte, and no register but
the tail and the pending bits; a fetched NOP completes so with OK and RESULT 0. (R302, R307, R309, R322.) -/
def Obligations.CompletionWritesEntry : Prop :=
  (∀ (f : Fin 8) (q : Fin 4) (o : Done) (d : Desc) (s : State), s.cur f q = some d → d.cq < 4 → d.cqGone = false →
    s.flag (R.fnCqCfgEn f d.cq) = true →
    (s.complete f q o).cur f q = none
    ∧ (s.complete f q o).hostHas f (s.get (R.fnCqBaseBase f d.cq) + 16 * s.get (R.fnCqTailTail f d.cq))
        (leBytes d.cid 2 ++ [BitVec.ofNat 8 (o.status.code + 128 * b2n (s.cq f d.cq).phase), BitVec.ofNat 8 q]
          ++ leBytes d.head 2 ++ [BitVec.ofNat 8 o.reason, 0] ++ leBytes o.result 8)
    ∧ (s.complete f q o).get (R.fnCqTailTail f d.cq) = (s.get (R.fnCqTailTail f d.cq) + 1) % s.cqSize f d.cq % 2 ^ 16
    ∧ ((s.complete f q o).cq f d.cq).phase =
        (if (s.get (R.fnCqTailTail f d.cq) + 1) % s.cqSize f d.cq = 0 then !(s.cq f d.cq).phase else (s.cq f d.cq).phase)
    ∧ (∀ x : Fld, x.key ≠ (R.fnCqTailTail f d.cq).key → x.key ≠ (R.fnMsixPbaPending f).key → (s.complete f q o).get x = s.get x)
    ∧ (∀ g a : Nat, (∀ k, k < 16 → g * 2 ^ 64 + a % 2 ^ 64 ≠ f * 2 ^ 64 + (s.get (R.fnCqBaseBase f d.cq) + 16 * s.get (R.fnCqTailTail f d.cq) + k) % 2 ^ 64) →
        (s.complete f q o).hostByte g a = s.hostByte g a)
    ∧ (s.complete f q o).lpddr = s.lpddr ∧ (s.complete f q o).ctl = s.ctl ∧ (s.complete f q o).time = s.time ∧ (s.complete f q o).host.str = s.host.str)
  ∧ (∀ (f : Fin 8) (q : Fin 4) (s : State), s.awake = true → s.fetchedOp f q = some .nop →
    exec (.nop f q) s = .next (s.complete f q { status := .ok, reason := 0, result := 0 }))

/-- What a descriptor fetch does. Where a ring can fetch (log entries 11, 13): a good descriptor becomes the ring descriptor, its completion entry
reserved and the head moved; a screened one completes with the outcome of the screen (order of checks: log entry 12); a failed read completes BAD_DESC
with reason 5, disables the ring and sets FETCH_ERR; a poisoned one completes POISONED and is reported as contained. (R297, R298, R301, R311.) -/
def Obligations.DescriptorFetchOutcomes : Prop :=
  ∀ (f : Fin 8) (q : Fin 4) (s : State), s.awake = true → s.canFetch f q = true →
    let nxt := (s.get (R.fnSqHeadHead f q) + 1) % s.sqSize f q
    (∀ b : List Byte, s.screen f b = none → (∀ a il r so qu si, parseOp b = .trace a il r so qu si → a < 5) →
      ∃ (t : State) (d : Desc), exec (.descriptorFetch f q (.ok b)) s = .next t ∧ t.cur f q = some d ∧ d.cid = leAt b 2 2 ∧ d.op = parseOp b
        ∧ d.stage = .fetched ∧ d.head = nxt ∧ d.cq = s.get (R.fnSqCfgCq f q) ∧ t.get (R.fnSqHeadHead f q) = nxt % 2 ^ 16
        ∧ (t.cq f d.cq).resv = (s.cq f d.cq).resv + 1
        ∧ t.host.wide = (if (parseOp b).wide then s.host.wide ++ [(f.val, q.val)] else s.host.wide)
        ∧ (∀ x : Fld, x.key ≠ (R.fnSqHeadHead f q).key → t.get x = s.get x) ∧ t.host.mem = s.host.mem)
    ∧ (∀ b o, s.screen f b = some o → ∃ (u : State) (d : Desc), exec (.descriptorFetch f q (.ok b)) s = .next (u.complete f q o)
        ∧ u.cur f q = some d ∧ d.cid = leAt b 2 2 ∧ d.head = nxt ∧ u.host.wide = s.host.wide ∧ u.ctl = s.ctl
        ∧ (∀ x : Fld, x.key ≠ (R.fnSqHeadHead f q).key → u.get x = s.get x))
    ∧ (∃ (u : State) (d : Desc), exec (.descriptorFetch f q .failed) s = .next (u.complete f q { status := .badDesc, reason := 0x05 })
        ∧ u.cur f q = some d ∧ d.cid = 0xFFFF ∧ d.head = nxt ∧ u.get (R.fnSqCfgEn f q) = 0 ∧ u.flag (R.fnStatusFetchErr f) = true)
    ∧ (∃ (u : State) (d : Desc), exec (.descriptorFetch f q .poisoned) s = .next (u.complete f q { status := .poisoned })
        ∧ u.cur f q = some d ∧ d.cid = 0xFFFF ∧ d.head = nxt ∧ u.flag R.errStatusContained = true)

/-- A loss not acknowledged turns descriptors away. While FN_LOSS_ACK differs from FN_LOSS_EPOCH, every fetched descriptor of the function completes
STATE_LOST with epoch and classes in RESULT, before any other check (log entry 12), and starts nothing. (R327, R328.) -/
def Obligations.StateLostHandshake : Prop :=
  ∀ (f : Fin 8) (q : Fin 4) (b : List Byte) (s : State), s.awake = true → s.canFetch f q = true →
    s.get (R.fnLossAckAck f) ≠ s.get (R.fnLossEpochEpoch f) →
    ∃ (u : State) (d : Desc), exec (.descriptorFetch f q (.ok b)) s = .next (u.complete f q
        { status := .stateLost, reason := 0, result := s.get (R.fnLossEpochEpoch f) + 2 ^ 32 * s.get (R.fnStateLostClasses f) })
      ∧ u.cur f q = some d ∧ d.cid = leAt b 2 2 ∧ u.host.wide = s.host.wide ∧ u.ctl = s.ctl ∧ u.lpddr = s.lpddr

/-- FENCE waits for earlier work. A fetched FENCE notes the other rings of its function that run a descriptor and, with STREAMS, the staged records;
it completes OK where nothing is left, and waits otherwise; the completion of another ring takes that ring off what it waits for. (R304.) -/
def Obligations.FenceWaitsForEarlierWork : Prop :=
  ∀ (f : Fin 8) (q : Fin 4) (s : State), s.awake = true →
    (∀ b, s.canFetch f q = true → s.screen f b = none → leAt b 0 1 = 9 →
      ∃ (t : State) (d : Desc), exec (.descriptorFetch f q (.ok b)) s = .next t ∧ t.cur f q = some d ∧ d.op = .fence (bit (leAt b 8 1) 0)
        ∧ (∀ r, r ∈ d.waitRings ↔ r < 4 ∧ r ≠ q.val ∧ (s.cur f r).isSome = true)
        ∧ (∀ n, n ∈ d.waitRecords ↔ bit (leAt b 8 1) 0 = true ∧ ∃ (r : Fin 8) (x : Staged), x ∈ (s.str f r).staged ∧ x.id = n))
    ∧ (∀ (d : Desc) (st : Bool), s.cur f q = some d → d.op = .fence st → d.stage = .fetched →
        (d.waitRings = [] → d.waitRecords = [] → exec (.fence f q) s = .next (s.complete f q { status := .ok, result := 0 }))
        ∧ ((d.waitRings ≠ [] ∨ d.waitRecords ≠ []) →
          ∃ t, exec (.fence f q) s = .next t ∧ t.cur f q = some { d with stage := .running } ∧ s.keepsRegs t [] ∧ t.host.mem = s.host.mem))
    ∧ (∀ (d : Desc) (st : Bool), s.cur f q = some d → d.op = .fence st → d.stage = .running →
        (d.waitRings = [] → d.waitRecords = [] → exec (.fenceRelease f q) s = .next (s.complete f q { status := .ok, result := 0 }))
        ∧ ((d.waitRings ≠ [] ∨ d.waitRecords ≠ []) → exec (.fenceRelease f q) s = .next s))
    ∧ (∀ (i : Fin 4) (d e : Desc) (o : Done), i ≠ q → s.cur f q = some d → s.cur f i = some e →
        (s.complete f q o).cur f i = some { e with waitRings := e.waitRings.filter (· != q.val) })

/-- LPDDR_WRITE copies exactly its range. LPDDR_WRITE of a range below DBG_LPDDR_RSV.ADDR starts, and one above it completes BAD_DESC with ALIGN; at
its end every byte of the range reads as the data and every other byte as before, and it completes OK with its length; a poisoned or failed read
completes POISONED or BAD_DESC with FETCH_ERR and changes no byte outside the range (inside it: log entry 119). (R305, R342.) -/
def Obligations.LpddrWriteCopiesRange : Prop :=
  ∀ (f : Fin 8) (q : Fin 4) (src dst len : Nat) (s : State), s.awake = true →
    (s.fetchedOp f q = some (.lpddrWrite src dst len) →
      (dst + len ≤ s.get R.dbgLpddrRsvAddr → ∃ t, exec (.lpddrWrite f q) s = .next t ∧ t.runningOp f q = some (.lpddrWrite src dst len)
        ∧ t.lpddr = s.lpddr ∧ s.keepsRegs t [])
      ∧ (s.get R.dbgLpddrRsvAddr < dst + len → exec (.lpddrWrite f q) s = .next (s.complete f q { status := .badDesc, reason := 0x03 })))
    ∧ (s.runningOp f q = some (.lpddrWrite src dst len) → s.cur f (q + 4) = none →
      (∀ data : List Byte, data.length = len →
        ∃ u, exec (.lpddrWriteDone f q data) s = .next (u.complete f q { status := .ok, result := len })
          ∧ (∀ k (h : k < data.length), readByte u.lpddr lpddrFill (dst + k) = data[k])
          ∧ (∀ a, a < dst ∨ dst + len ≤ a → readByte u.lpddr lpddrFill a = readByte s.lpddr lpddrFill a)
          ∧ s.keepsRegs u [] ∧ u.host = s.host)
      ∧ (∃ u, exec (.operandReadFail f q true) s = .next (u.complete f q { status := .poisoned })
          ∧ (∀ a, a < dst ∨ dst + len ≤ a → readByte u.lpddr lpddrFill a = readByte s.lpddr lpddrFill a)
          ∧ s.keepsRegs u [] ∧ u.host = s.host)
      ∧ (∃ u, exec (.operandReadFail f q false) s = .next (u.complete f q { status := .badDesc, reason := 0x05 })
          ∧ (∀ a, a < dst ∨ dst + len ≤ a → readByte u.lpddr lpddrFill a = readByte s.lpddr lpddrFill a)
          ∧ u.flag (R.fnStatusFetchErr f) = true ∧ s.keepsRegs u [(R.fnStatusFetchErr f).key] ∧ u.host = s.host))

/-- FW_UPDATE replaces the flash image. FW_UPDATE of an image that passes its check (a free predicate, log entry 144) runs, and one that fails it
completes BAD_DESC with reason 4; at its end the image stands in flash and its version is RESULT; a poisoned read leaves the flash as it was. (R310,
R312, R342.) -/
def Obligations.FirmwareUpdateReplacesFlash : Prop :=
  ∀ (f : Fin 8) (q : Fin 4) (a n : Nat) (img : List Byte) (s : State), s.awake = true →
    (s.wideOp f q = some (.fwUpdate a n) →
      (Config.firmwareOk img = true → ∃ t, exec (.fwUpdate f q img) s = .next t ∧ t.runningOp f q = some (.fwUpdate a n)
        ∧ t.ctl = { s.ctl with newFirmware := some img } ∧ t.host.wide = s.host.wide.tail ∧ s.keepsRegs t [])
      ∧ (Config.firmwareOk img = false → ∃ u, exec (.fwUpdate f q img) s = .next (u.complete f q { status := .badDesc, reason := 0x04 })
        ∧ u.ctl = s.ctl ∧ u.host.wide = s.host.wide.tail ∧ s.keepsRegs u []))
    ∧ (s.runningOp f q = some (.fwUpdate a n) → s.cur f (q + 4) = none → s.ctl.newFirmware = some img →
      (∃ u, exec (.fwUpdateDone f q) s = .next (u.complete f q { status := .ok, result := Config.firmwareVersion img % 2 ^ 32 })
        ∧ u.ctl = { s.ctl with firmware := img, newFirmware := none } ∧ s.keepsRegs u [])
      ∧ (∃ u, exec (.operandReadFail f q true) s = .next (u.complete f q { status := .poisoned })
        ∧ u.ctl.firmware = s.ctl.firmware ∧ u.ctl.newFirmware = none ∧ s.keepsRegs u []))

/-- START enters STARTING or is refused. START of a STOPPED device with a set that passes the checks of R176 and R263 sets STARTING and n0, the first
boundary at least 5 µs ahead; without the run state, without a set, with a swap pending or with bad regions it completes with the refusal that R347
gives, and changes no register but REGION_ERR (order of the checks: log entry 114). (R5, R78, R94, R346, R347.) -/
def Obligations.StartEntersStarting : Prop :=
  ∀ (f : Fin 8) (q : Fin 4) (s : State), s.awake = true → s.wideOp f q = some .start → s.msdLost = false →
    (∀ c : ConfigSet, s.stopped = true → s.active = some c → s.flag R.hifSetsSwapPending = false → s.regionsBad = false →
      s.edgesBad = false → s.setFault c = none →
      ∃ (t : State) (n : Nat), exec (.start f q) s = .next t
        ∧ s.time.dev + 5000 * 2 ^ 32 ≤ n * 25000 * 2 ^ 32 ∧ n * 25000 * 2 ^ 32 < s.time.dev + 30000 * 2 ^ 32
        ∧ t.get R.hifRunState = 1 ∧ t.get R.hifRunTickTick = n % 2 ^ 64 ∧ t.get R.cntHalCmd = (s.get R.cntHalCmd + 1) % 2 ^ 32
        ∧ t.runningOp f q = some .start ∧ t.ctl.start = some (f.val, q.val) ∧ t.ctl.cancelled = false
        ∧ t.host.wide = s.host.wide.tail ∧ t.host.mem = s.host.mem ∧ t.lpddr = s.lpddr
        ∧ s.keepsRegs t [R.hifRunState.key, R.hifRunTickTick.key, R.cntHalCmd.key, R.cntTraceDrop.key])
    ∧ (s.stopped = false → ∃ u, exec (.start f q) s = .next (u.complete f q { status := .badDesc, reason := 0x21 })
        ∧ u.host.wide = s.host.wide.tail ∧ u.ctl = s.ctl ∧ s.keepsRegs u [])
    ∧ (s.stopped = true → s.active = none → ∃ u, exec (.start f q) s = .next (u.complete f q { status := .badDesc, reason := 0x20 })
        ∧ u.host.wide = s.host.wide.tail ∧ u.ctl = s.ctl ∧ s.keepsRegs u [])
    ∧ (∀ c : ConfigSet, s.stopped = true → s.active = some c → s.flag R.hifSetsSwapPending = true →
        ∃ u, exec (.start f q) s = .next (u.complete f q { status := .badDesc, reason := 0x21 })
        ∧ u.host.wide = s.host.wide.tail ∧ u.ctl = s.ctl ∧ s.keepsRegs u [])
    ∧ (∀ c : ConfigSet, s.stopped = true → s.active = some c → s.flag R.hifSetsSwapPending = false → s.regionsBad = true →
        ∃ u, exec (.start f q) s = .next (u.complete f q { status := .noResource })
        ∧ u.host.wide = s.host.wide.tail ∧ u.ctl = s.ctl ∧ u.flag R.srfStatusRegionErr = true ∧ s.keepsRegs u [R.srfStatusRegionErr.key])

/-- The run begins at n0. At the boundary of n0 the device is RUNNING, no hold is left, the dense path and the FTU begin at n0, the fabric at the
first step boundary at or after it, and START completes OK with n0. (R226, R348.) -/
def Obligations.RunBeginsAtFirstTick : Prop :=
  ∀ (s : State) (o : Option (Nat × Nat)), s.awake = true → s.get R.hifRunState = 1 → s.ctl.cancelled = false →
    s.markHeld (s.get R.hifRunTickTick) = true → s.ctl.start = o →
    ∃ u : State, exec .runBegins s = .next (u.completeOwner o { status := .ok, result := s.get R.hifRunTickTick })
      ∧ u.get R.hifRunState = 2 ∧ u.get R.hifRunHold = 0 ∧ u.ctl.hold = none ∧ u.ctl.holdAt = none ∧ u.ctl.start = none
      ∧ u.tns.next = some (s.get R.hifRunTickTick) ∧ u.fab.running = true
      ∧ (s.fab.running = false → s.fab.halt = none →
          s.get R.hifRunTickTick * 25000 ≤ u.fab.first * s.stepNs ∧ u.fab.first * s.stepNs < s.get R.hifRunTickTick * 25000 + s.stepNs)
      ∧ u.flt.stopAt = none ∧ u.ftu.next = some (s.get R.hifRunTickTick)

/-- SWAP_SET exchanges the sets at its tick. SWAP_SET of a READY shadow set becomes pending for the first boundary at least 5 µs ahead; without one,
with a swap pending or with an offline die it is refused; at its boundary the sets exchange places, the identifiers and the phase follow, CNT_SWAP
counts, and sensors, Canvas, fusion, time, LPDDR5X and host stay (order of the checks: log entry 114). (R5, R339, R349, R350, R391, R392.) -/
def Obligations.SwapExchangesSets : Prop :=
  (∀ (f : Fin 8) (q : Fin 4) (c : ConfigSet) (s : State), s.awake = true → s.wideOp f q = some .swapSet → s.msdLost = false →
    s.shadow = some c → s.flag R.hifSetsSwapPending = false → s.setOffline c = false → s.setFault c = none →
    ∃ (t : State) (n : Nat), exec (.swapSet f q) s = .next t
      ∧ s.time.dev + 5000 * 2 ^ 32 ≤ n * 25000 * 2 ^ 32 ∧ n * 25000 * 2 ^ 32 < s.time.dev + 30000 * 2 ^ 32
      ∧ t.get R.hifSwapTickTick = n % 2 ^ 64 ∧ t.flag R.hifSetsSwapPending = true ∧ t.runningOp f q = some .swapSet
      ∧ t.ctl.swap = some { owner := some (f.val, q.val), tick := n } ∧ t.active = s.active ∧ t.shadow = s.shadow
      ∧ t.host.wide = s.host.wide.tail
      ∧ s.keepsRegs t [R.hifSwapTickTick.key, R.hifSetsSwapPending.key, R.cntHalCmd.key, R.cntTraceDrop.key])
  ∧ (∀ (f : Fin 8) (q : Fin 4) (s : State), s.awake = true → s.wideOp f q = some .swapSet → s.msdLost = false →
      (s.shadow = none → s.active.isSome = true → ∃ u, exec (.swapSet f q) s = .next (u.complete f q { status := .setNotReady })
        ∧ u.ctl = s.ctl ∧ u.active = s.active ∧ u.shadow = s.shadow ∧ s.keepsRegs u [])
      ∧ (s.shadow = none → s.active = none → s.get R.hifSetsShadow = 0 →
        ∃ u, exec (.swapSet f q) s = .next (u.complete f q { status := .badDesc, reason := 0x20 })
        ∧ u.ctl = s.ctl ∧ u.active = s.active ∧ u.shadow = s.shadow ∧ s.keepsRegs u [])
      ∧ (∀ c, s.shadow = some c → s.flag R.hifSetsSwapPending = true →
        ∃ u, exec (.swapSet f q) s = .next (u.complete f q { status := .badDesc, reason := 0x21 })
        ∧ u.ctl = s.ctl ∧ u.active = s.active ∧ u.shadow = s.shadow ∧ s.keepsRegs u [])
      ∧ (∀ c, s.shadow = some c → s.flag R.hifSetsSwapPending = false → s.setOffline c = true →
        ∃ u, exec (.swapSet f q) s = .next (u.complete f q { status := .noResource })
        ∧ u.ctl = s.ctl ∧ u.active = s.active ∧ u.shadow = s.shadow ∧ s.keepsRegs u []))
  ∧ (∀ (w : PendingSwap) (s : State), s.awake = true → s.ctl.swap = some w → w.aborted = false → s.markHeld w.tick = true →
      ∃ u : State, exec .swapTakesEffect s = .next (u.completeOwner w.owner { status := .ok, result := w.tick })
        ∧ u.active = s.shadow ∧ u.shadow = s.active ∧ u.flag R.hifSetsSwapPending = false ∧ u.ctl.swap = none
        ∧ u.get R.cntSwap = (s.get R.cntSwap + 1) % 2 ^ 32
        ∧ (∀ c, s.shadow = some c → u.get R.hifSetActiveIdImageId = c.id % 2 ^ 32 ∧ u.get R.hifSetsActive = 2
            ∧ (phaseValid c.phases (s.get R.pwrPhasePhase) = true → u.get R.pwrPhasePhase = s.get R.pwrPhasePhase)
            ∧ (phaseValid c.phases (s.get R.pwrPhasePhase) = false → u.get R.pwrPhasePhase = 0))
        ∧ u.ing = s.ing ∧ u.cv = s.cv ∧ u.ftu = s.ftu ∧ u.time = s.time ∧ u.lpddr = s.lpddr ∧ u.host = s.host
        ∧ s.keepsRegs u [R.hifSetsActive.key, R.hifSetsShadow.key, R.hifSetsActiveDies.key, R.hifSetsShadowDies.key, R.hifSetActiveIdImageId.key,
            R.hifSetShadowIdImageId.key, R.hifSetsSwapPending.key, R.cntSwap.key, R.pwrPhasePhase.key, R.pwrOpTarget.key,
            R.tnsGauzeTaintAny.key])

/-- Three ways to stop a running device agree. While RUNNING, a STOP descriptor, an urgent doorbell with the privilege and an I²C STOP each set
STOPPING with one and the same boundary T, the first at least 5 µs ahead, LAST_FULL, the hold of a FULL scope and the fabric halt step, and tell T to
the one that asked. (R5, R323, R324, R346, R424.) -/
def Obligations.StopWhileRunning : Prop :=
  ∀ (s : State) (full : Bool), s.run = 2 →
    ∃ n : Nat, s.time.dev + 5000 * 2 ^ 32 ≤ n * 25000 * 2 ^ 32 ∧ n * 25000 * 2 ^ 32 < s.time.dev + 30000 * 2 ^ 32
      ∧ (∀ (f : Fin 8) (q : Fin 4), s.awake = true → s.wideOp f q = some (.stop full) →
        ∃ t : State, exec (.stop f q) s = .next t ∧ t.runningOp f q = some (.stop full)
          ∧ t.ctl.stops = s.ctl.stops ++ [.ring f q] ∧ t.host.wide = s.host.wide.tail
          ∧ t.run = 3 ∧ t.get R.hifStopTickTick = n % 2 ^ 64 ∧ t.get R.hifRunLastFull = b2n full
          ∧ t.ctl.holdAt = (if full then some n else s.ctl.holdAt) ∧ t.fab.halt = some (ceilDiv (n * 25000) s.stepNs)
          ∧ t.host.mem = s.host.mem ∧ t.lpddr = s.lpddr
          ∧ s.keepsRegs t [R.hifRunState.key, R.hifStopTickTick.key, R.hifRunLastFull.key, R.cntHalCmd.key, R.cntTraceDrop.key])
      ∧ (∀ (f : Fin 8) (v : Word), s.linkUp = true → s.ready f = true → s.halted = false → s.privilege f 1 = true → bit v.toNat 0 = true →
        bit v.toNat 1 = full →
        ∃ t : State, exec (.urgentStop f 4 v) s = .next t ∧ t.ctl.stops = s.ctl.stops ++ [.urgent f]
          ∧ t.get (R.fnUrgentTickTick f) = n % 2 ^ 64 ∧ t.run = 3 ∧ t.get R.hifStopTickTick = n % 2 ^ 64 ∧ t.get R.hifRunLastFull = b2n full
          ∧ t.ctl.holdAt = (if full then some n else s.ctl.holdAt) ∧ t.fab.halt = some (ceilDiv (n * 25000) s.stepNs)
          ∧ t.host.mem = s.host.mem ∧ t.lpddr = s.lpddr
          ∧ s.keepsRegs t [R.hifRunState.key, R.hifStopTickTick.key, R.hifRunLastFull.key, R.cntHalCmd.key, R.cntTraceDrop.key,
              (R.fnUrgentTickTick f).key])
      ∧ (∀ op : Byte, s.phase = .sail → s.halted = false → s.flag R.mgtI2cStopEn = true → bit op.toNat 0 = full →
        ∃ t : State, exec (.i2cStop op) s = .next t ∧ t.ctl.stops = s.ctl.stops ∧ t.reef.ack = true ∧ t.reef.result = leBytes (n % 2 ^ 64) 8
          ∧ t.run = 3 ∧ t.get R.hifStopTickTick = n % 2 ^ 64 ∧ t.get R.hifRunLastFull = b2n full
          ∧ t.ctl.holdAt = (if full then some n else s.ctl.holdAt) ∧ t.fab.halt = some (ceilDiv (n * 25000) s.stepNs)
          ∧ t.host.mem = s.host.mem ∧ t.lpddr = s.lpddr
          ∧ s.keepsRegs t [R.hifRunState.key, R.hifStopTickTick.key, R.hifRunLastFull.key, R.cntHalCmd.key, R.cntTraceDrop.key])

/-- STOP in the other run states. STOP of a STOPPED device completes with the last T, of a STARTING one cancels the run, of a STOPPING one joins the
stop (log entry 115); an urgent doorbell without its bit, and an I²C STOP without STOP_EN, change no run state, and an urgent doorbell without
privilege sets PRIV_ERR whatever its bits. (R323, R325, R346, R424.) -/
def Obligations.StopElsewhere : Prop :=
  (∀ (f : Fin 8) (q : Fin 4) (full : Bool) (s : State), s.awake = true → s.wideOp f q = some (.stop full) →
    (s.run = 0 → (full = true → s.flag R.hifRunLastFull = true) →
      ∃ u : State, exec (.stop f q) s = .next (u.complete f q { status := .ok, result := s.get R.hifStopTickTick })
        ∧ s.keepsRegs u [] ∧ u.ctl = s.ctl ∧ u.host.wide = s.host.wide.tail)
    ∧ (s.run = 1 → s.ctl.cancelled = false →
      ∃ t : State, exec (.stop f q) s = .next t ∧ t.run = 1 ∧ t.ctl.cancelled = true ∧ t.get R.hifStopTickTick = s.get R.hifRunTickTick % 2 ^ 64
        ∧ t.ctl.stops = s.ctl.stops ++ [.ring f q] ∧ t.runningOp f q = some (.stop full))
    ∧ (s.run = 3 →
      ∃ t : State, exec (.stop f q) s = .next t ∧ t.run = 3 ∧ t.get R.hifStopTickTick = s.get R.hifStopTickTick
        ∧ t.ctl.stops = s.ctl.stops ++ [.ring f q] ∧ t.fab = s.fab ∧ t.runningOp f q = some (.stop full)
        ∧ (full = true → s.flag R.hifRunLastFull = false → t.get R.hifRunLastFull = 1 ∧ ∃ n : Nat, t.ctl.holdAt = some n
            ∧ s.time.dev + 5000 * 2 ^ 32 ≤ n * 25000 * 2 ^ 32 ∧ n * 25000 * 2 ^ 32 < s.time.dev + 30000 * 2 ^ 32)))
  ∧ (∀ (f : Fin 8) (v : Word) (s : State), s.linkUp = true → s.ready f = true →
    (bit v.toNat 0 = false → s.privilege f 1 = true → ∃ t : State, exec (.urgentStop f 4 v) s = .next t ∧ (∀ x : Fld, t.get x = s.get x) ∧ t.ctl = s.ctl ∧ t.fab = s.fab)
    ∧ (s.halted = false → s.privilege f 1 = false →
      ∃ t : State, exec (.urgentStop f 4 v) s = .next t ∧ t.flag (R.fnStatusPrivErr f) = true ∧ t.ctl = s.ctl ∧ t.fab = s.fab
        ∧ s.keepsRegs t [(R.fnStatusPrivErr f).key]))
  ∧ (∀ (op : Byte) (s : State), s.phase = .sail → s.flag R.mgtI2cStopEn = false →
    ∃ t : State, exec (.i2cStop op) s = .next t ∧ t.reef.ack = false ∧ (∀ x : Fld, t.get x = s.get x) ∧ t.ctl = s.ctl ∧ t.fab = s.fab)

/-- What happens at the boundary of a stop and at its cut. At the boundary T of a stop a FULL hold comes into force and outputs are held; a swap that
R351 dooms ends ABORTED_BY_STOP; a cancelled run ends; once the cut is complete the device is STOPPED, CNT_STOP counts, the READ_WINDOWs that still
wait are aborted, and the stopper is told (with STATUS.URGENT_DONE and a vector of an urgent one), while sensors, Canvas, fabric and filters keep
their state. (R303, R324, R351, R352, R353.) -/
def Obligations.StopTakesEffect : Prop :=
  ∀ s : State, s.awake = true → s.markHeld (s.get R.hifStopTickTick) = true →
    (s.run = 3 → s.ctl.atBoundary = false → (∀ w, s.ctl.swap = some w → w.aborted = false) → ∃ t : State, exec .stopBoundary s = .next t ∧ t.ctl.atBoundary = true ∧ t.run = 3
      ∧ t.flt.stopAt = some (s.get R.hifStopTickTick)
      ∧ (∀ h, s.ctl.holdAt = some h → s.reached (h * 25000) = true → t.get R.hifRunHold = 1 ∧ t.ctl.hold = some h ∧ t.ctl.holdAt = none)
      ∧ (s.ctl.holdAt = none → t.get R.hifRunHold = s.get R.hifRunHold ∧ t.ctl.hold = s.ctl.hold)
      ∧ t.active = s.active ∧ t.shadow = s.shadow ∧ s.keepsRegs t [R.hifRunHold.key])
    ∧ (∀ w, s.run = 3 → s.ctl.atBoundary = false → s.ctl.holdAt = none → s.ctl.swap = some w → w.aborted = true →
      ∃ t v : State, exec .stopBoundary s = .next t ∧ t.get R.hifSetsSwapPending = 0 ∧ t.ctl.swap = none ∧ t.active = s.active ∧ t.shadow = s.shadow
        ∧ t.run = 3 ∧ t.ctl.atBoundary = true ∧ t.host = (v.completeOwner w.owner { status := .abortedByStop }).host ∧ v.host = s.host
        ∧ s.keepsRegs v [R.hifSetsSwapPending.key])
    ∧ (∀ (f q g r : Nat), s.run = 1 → s.ctl.cancelled = true → s.ctl.holdAt = none → s.ctl.swap = none → s.ctl.start = some (f, q) →
      s.ctl.stops = [.ring g r] →
      ∃ u : State, exec .stopBoundary s
          = .next (((u.complete f q { status := .abortedByStop }).abortReads 0).complete g r { status := .ok, result := s.get R.hifStopTickTick })
        ∧ u.run = 0 ∧ u.ctl.start = none ∧ u.ctl.stops = [] ∧ s.keepsRegs u [R.hifRunState.key])
    ∧ (∀ (f : Fin 8) (q : Fin 4), s.run = 3 → s.ctl.atBoundary = true → s.cutDone (s.get R.hifStopTickTick) = true → s.ctl.stops = [.ring f q] →
      ∃ u : State, exec .cutComplete s
          = .next ((u.abortReads (s.fab.halt.getD 0)).complete f q { status := .ok, result := s.get R.hifStopTickTick }) ∧ u.run = 0
        ∧ u.get R.cntStop = (s.get R.cntStop + 1) % 2 ^ 32 ∧ u.ctl.stops = [] ∧ u.tns.next = none ∧ u.ftu.next = none
        ∧ u.ing = s.ing ∧ u.cv = s.cv ∧ u.fab = s.fab ∧ u.flt = s.flt ∧ s.keepsRegs u [R.hifRunState.key, R.cntStop.key])
    ∧ (∀ f : Fin 8, s.run = 3 → s.ctl.atBoundary = true → s.cutDone (s.get R.hifStopTickTick) = true → s.ctl.stops = [.urgent f] →
      ∃ u : State, exec .cutComplete s
          = .next (((u.abortReads (s.fab.halt.getD 0)).setFlag (R.fnStatusUrgentDone f) true).raise f (s.get (R.fnVecUrgent f))) ∧ u.run = 0
        ∧ u.get R.cntStop = (s.get R.cntStop + 1) % 2 ^ 32 ∧ u.ctl.stops = []
        ∧ s.keepsRegs u [R.hifRunState.key, R.cntStop.key])

/-- SET_PHASE acts at its boundary. SET_PHASE of a phase that the active set has becomes pending for the first boundary at least 5 µs ahead and 1 ms
after the last change (log entry 117), and any other phase completes BAD_DESC; at its boundary the phase is in force and RESULT is the instant in ns.
(R389, R390, R391.) -/
def Obligations.SetPhaseWaitsForBoundary : Prop :=
  (∀ (f : Fin 8) (q : Fin 4) (k : Nat) (s : State), s.awake = true → s.wideOp f q = some (.setPhase k) →
    (∀ c, s.active = some c → phaseValid c.phases k = true → s.ctl.phases = [] →
      ∃ (t : State) (n : Nat), exec (.setPhase f q) s = .next t ∧ t.ctl.phases = [⟨some (f.val, q.val), n, k⟩] ∧ t.runningOp f q = some (.setPhase k)
        ∧ s.time.dev + 5000 * 2 ^ 32 ≤ n * 25000 * 2 ^ 32 ∧ (∀ p, s.pwr.phaseAt = some p → p + 1000000 ≤ n * 25000)
        ∧ (∀ m, m < n → m * 25000 * 2 ^ 32 < s.time.dev + 5000 * 2 ^ 32 ∨ ∃ p, s.pwr.phaseAt = some p ∧ m * 25000 < p + 1000000)
        ∧ t.host.wide = s.host.wide.tail ∧ s.keepsRegs t [R.cntHalCmd.key, R.cntTraceDrop.key])
    ∧ ((∀ c, s.active = some c → phaseValid c.phases k = false) →
      ∃ u : State, exec (.setPhase f q) s = .next (u.complete f q { status := .badDesc, reason := 0x22 })
        ∧ u.ctl = s.ctl ∧ u.host.wide = s.host.wide.tail ∧ s.keepsRegs u []))
  ∧ (∀ (p : PendingPhase) (l : List PendingPhase) (s : State), s.awake = true → s.ctl.phases = p :: l → s.markHeld p.tick = true →
    ∃ u : State, exec .phaseTakesEffect s = .next (u.completeOwner p.owner { status := .ok, result := p.tick * 25000 })
      ∧ u.get R.pwrPhasePhase = p.phase % 8 ∧ u.ctl.phases = l ∧ u.pwr.phaseAt = some s.now
      ∧ s.keepsRegs u [R.pwrPhasePhase.key, R.pwrOpTarget.key])

/-- LOAD_SET checks an image and loads the shadow set. LOAD_SET of an image, read from the host or from LPDDR5X, that passes the checks empties the
shadow set and is LOADING; a failed check completes with its outcome, a range past DBG_LPDDR_RSV.ADDR BAD_DESC and a poisoned LPDDR5X image POISONED,
and leaves EMPTY; while another load or a swap is under way it waits; at its end, whatever the reads of the new planes find, the shadow set is READY
with the identifier of the image; the active set stays (header bits: log entry 61; order of checks: log entries 62 to 64). (R310, R340, R341, R342,
R345, R443.) -/
def Obligations.LoadSetLoadsShadow : Prop :=
  (∀ (f : Fin 8) (q : Fin 4) (addr len : Nat) (inL : Bool) (img : List Byte) (e : Ecc) (s : State), s.awake = true →
    s.wideOp f q = some (.loadSet addr len inL) → s.cur f (q + 4) = none → s.offline 2 = false → s.offline 3 = false →
    let b := if inL then readBytes s.lpddr lpddrFill addr len else img
    (∀ c : ConfigSet, s.loadBusy = false → (inL = true → e = .ok ∧ addr + len ≤ s.get R.dbgLpddrRsvAddr) → s.checkImage b len = .ok c →
      ∃ (t : State) (n : ConfigSet), exec (.loadSet f q img e) s = .next t ∧ t.get R.hifSetsShadow = 1 ∧ t.get R.hifSetShadowIdImageId = 0
        ∧ t.shadow = none ∧ t.active = s.active ∧ t.ctl.load = some ⟨some (f.val, q.val), n⟩ ∧ n.id = c.id ∧ n.layers = c.layers ∧ n.places = c.places
        ∧ t.runningOp f q = some (.loadSet addr len inL) ∧ t.host.wide = s.host.wide.tail
        ∧ s.keepsRegs t [R.hifSetsShadow.key, R.hifSetsShadowDies.key, R.hifSetShadowIdImageId.key, R.hifSetsLoadWait.key])
    ∧ (∀ d : Done, s.loadBusy = false →
        ((inL = true → e = .ok ∧ addr + len ≤ s.get R.dbgLpddrRsvAddr) ∧ s.checkImage b len = .error d)
          ∨ (inL = true ∧ s.get R.dbgLpddrRsvAddr < addr + len ∧ d = { status := .badDesc, reason := 0x03 }) →
      ∃ u : State, exec (.loadSet f q img e) s = .next (u.complete f q d).showLoadWait ∧ u.get R.hifSetsShadow = 0 ∧ u.shadow = none
        ∧ u.active = s.active ∧ u.ctl.load = none ∧ u.host.wide = s.host.wide.tail
        ∧ s.keepsRegs u [R.hifSetsShadow.key, R.hifSetsShadowDies.key, R.hifSetShadowIdImageId.key])
    ∧ (s.loadBusy = false → inL = true → e = .uncorrectable → s.flag R.mgtDdrEccOn = true → addr + len ≤ s.get R.dbgLpddrRsvAddr →
      ∃ u : State, exec (.loadSet f q img e) s = .next (u.complete f q { status := .poisoned }).showLoadWait ∧ u.get R.hifSetsShadow = 0
        ∧ u.shadow = none ∧ u.active = s.active ∧ u.get R.cntEccUncorr = (s.get R.cntEccUncorr + 1) % 2 ^ 32)
    ∧ (s.loadBusy = true →
      ∃ (t : State) (d : Desc), exec (.loadSet f q img e) s = .next t ∧ t.cur f q = some d ∧ d.stage = .loadWait ∧ d.op = .loadSet addr len inL
        ∧ t.get R.hifSetsLoadWait = 1 ∧ t.shadow = s.shadow ∧ t.ctl = s.ctl ∧ t.host.wide = s.host.wide.tail
        ∧ s.keepsRegs t [R.hifSetsLoadWait.key]))
  ∧ (∀ (img : List Byte) (len : Nat) (s : State), headerOk img len = false → s.checkImage img len = .error { status := .badDesc, reason := 0x04 })
  ∧ (∀ (l : Loading) (s : State), s.awake = true → s.ctl.load = some l →
    ∃ (u : State) (c : ConfigSet), exec (.loadSetComplete []) s = .next (u.completeOwner l.owner { status := .ok, result := l.set.id })
      ∧ u.shadow = some c ∧ c.id = l.set.id ∧ c.places = l.set.places ∧ c.useCd0 = l.set.useCd0 ∧ c.useCd1 = l.set.useCd1
      ∧ u.get R.hifSetsShadow = 2 ∧ u.get R.hifSetShadowIdImageId = l.set.id % 2 ^ 32 ∧ u.get R.hifSetsShadowDies = b2n c.useCd0 + 2 * b2n c.useCd1
      ∧ u.active = s.active ∧ u.ctl.load = none ∧ u.host = s.host ∧ u.lpddr = s.lpddr
      ∧ s.keepsRegs u [R.hifSetsShadow.key, R.hifSetsShadowDies.key, R.hifSetShadowIdImageId.key, R.cntVoidwin.key, R.tnsArithStatusSat.key,
          R.tnsArithStatusNan.key, R.tnsArithNanLayerLayer.key, R.tnsArithNanLayerValid.key, R.tnsArithStatusInfIn.key])
  ∧ (∀ (l : Loading) (hits : List MemHit) (s : State), s.awake = true → s.ctl.load = some l →
    ∃ (u : State) (c : ConfigSet), exec (.loadSetComplete hits) s = .next (u.completeOwner l.owner { status := .ok, result := l.set.id })
      ∧ u.shadow = some c ∧ c.id = l.set.id ∧ c.places = l.set.places ∧ u.get R.hifSetsShadow = 2 ∧ u.ctl.load = none ∧ u.lpddr = s.lpddr)

/-- READ_WINDOW copies a kept window. READ_WINDOW of a kept window writes exactly the bytes of its record to host memory and completes with their
number, or BAD_DESC where the buffer is short; a window gone completes NO_RESOURCE; one to come waits, or is ABORTED_BY_STOP while STOPPED. (R216,
R303.) -/
def Obligations.ReadWindowOutcomes : Prop :=
  ∀ (f : Fin 8) (q : Fin 4) (j a n : Nat) (s : State), s.awake = true → s.fetchedOp f q = some (.readWindow j a n) → n < 2 ^ 32 →
    (∀ k : KeptWindow, (s.fab.kept.find? fun k => k.index == j) = some k →
      (k.record.copyBytes.length ≤ n → k.record.poison = false →
        ∃ u : State, exec (.readWindow f q) s = .next (u.complete f q { status := .ok, result := k.record.copyBytes.length })
          ∧ u.hostHas f a k.record.copyBytes ∧ s.keepsRegs u [] ∧ u.fab = s.fab)
      ∧ (n < k.record.copyBytes.length → exec (.readWindow f q) s = .next (s.complete f q { status := .badDesc, reason := 0x06 })))
    ∧ ((∀ k ∈ s.fab.kept, k.index ≠ j) →
      (j < s.currentWindow → exec (.readWindow f q) s = .next (s.complete f q { status := .noResource, reason := 0x07 }))
      ∧ (s.currentWindow ≤ j → s.stopped = true → exec (.readWindow f q) s = .next (s.complete f q { status := .abortedByStop }))
      ∧ (s.currentWindow ≤ j → s.stopped = false → ∃ t : State, exec (.readWindow f q) s = .next t ∧ t.runningOp f q = some (.readWindow j a n)
          ∧ t.host.mem = s.host.mem ∧ s.keepsRegs t []))

/-- The end of a window keeps its record. WINDOW_END of a window that has ended keeps its record among the 8 newest, moves on by one window, hands the
record to its ring where the destination is enabled (CNT_WIN counts it once it is written there), and serves the reads that wait (flushed windows: log
entry 79). (R216, R218, R303.) -/
def Obligations.WindowEndKeepsRecord : Prop :=
  ∀ s : State, s.awake = true → s.windowEnded = true →
    ∃ u : State, exec .windowEnd s = .next (u.serveReads s.fab.winNext)
      ∧ u.fab.kept.getLast? = some ⟨s.fab.winNext, s.windowRecord s.fab.winNext⟩ ∧ u.fab.kept.length ≤ 8
      ∧ (∀ k ∈ u.fab.kept, k ∈ s.fab.kept ∨ k = ⟨s.fab.winNext, s.windowRecord s.fab.winNext⟩) ∧ u.fab.winNext = s.fab.winNext + 1
      ∧ (s.flag R.fabWinDestEn = true →
          u.host.handed = s.host.handed ++ [⟨s.get R.fabWinDestFunc, s.get R.fabWinDestRing, s.windowRecord s.fab.winNext⟩]
          ∧ s.keepsRegs u [])
      ∧ (s.flag R.fabWinDestEn = false → u.host = s.host ∧ s.keepsRegs u [])

/-- TRACE_CTL moves the trace states. CONFIGURE, ARM, TRIGGER, DISARM and DRAIN move DBG_TRACE_STATE, the ring and the counters as R470 and R471 say
in each state, with the refusals of R471 in the states where they do not apply (DISARM while FROZEN: log entry 136). (R470, R471, R476.) -/
def Obligations.TraceControlMovesStates : Prop :=
  ∀ (f : Fin 8) (q : Fin 4) (inL : Bool) (r m p z : Nat) (s : State), s.awake = true →
    (s.fetchedOp f q = some (.trace 0 inL r m p z) →
      ((s.get R.dbgTraceStateState = 1 ∨ s.get R.dbgTraceStateState = 2) →
        exec (.configure f q) s = .next (s.complete f q { status := .badDesc, reason := 0x23 }))
      ∧ ((s.get R.dbgTraceStateState = 0 ∨ s.get R.dbgTraceStateState = 3) →
        (z = 0 ∨ (if inL then 1024 else 16) < z ∨ z * 32768 ≤ p →
          exec (.configure f q) s = .next (s.complete f q { status := .badDesc, reason := 0x24 }))
        ∧ (inL = true → 1 ≤ z → z ≤ 1024 → p < z * 32768 →
          ∃ u : State, exec (.configure f q) s = .next (u.complete f q { status := .ok, result := 0 }) ∧ u.get R.dbgTraceStateState = 0
            ∧ u.get R.dbgTraceStateInLpddr = 1 ∧ u.obs.trace.sources = m ∧ u.obs.trace.quota = p ∧ u.obs.trace.sizeMib = z
            ∧ u.obs.trace.ring = [] ∧ u.obs.trace.fifo = [] ∧ s.keepsRegs u [R.dbgTraceStateState.key, R.dbgTraceStateInLpddr.key])))
    ∧ (s.fetchedOp f q = some (.trace 1 inL r m p z) →
      ((s.get R.dbgTraceStateState = 0 ∨ s.get R.dbgTraceStateState = 3) →
        ∃ u : State, exec (.arm f q) s = .next (u.complete f q { status := .ok, result := 0 }) ∧ u.get R.dbgTraceStateState = 1
          ∧ u.get R.dbgTraceWrCount = 0 ∧ u.obs.trace.ring = [] ∧ u.obs.trace.fifo = [] ∧ u.obs.trace.sources = s.obs.trace.sources
          ∧ u.obs.trace.quota = s.obs.trace.quota ∧ s.keepsRegs u [R.dbgTraceStateState.key, R.dbgTraceWrCount.key])
      ∧ ((s.get R.dbgTraceStateState = 1 ∨ s.get R.dbgTraceStateState = 2) →
        exec (.arm f q) s = .next (s.complete f q { status := .badDesc, reason := 0x23 })))
    ∧ (s.fetchedOp f q = some (.trace 2 inL r m p z) →
      (s.get R.dbgTraceStateState = 1 → 0 < s.obs.trace.quota → 0 < s.obs.trace.sizeMib →
        ∃ u : State, exec (.trigger f q) s = .next (u.complete f q { status := .ok, result := s.get R.dbgTraceWrCount })
          ∧ u.get R.dbgTraceStateState = 2 ∧ u.get R.dbgTraceTrigIndex = s.get R.dbgTraceWrCount % 2 ^ 64
          ∧ u.get R.dbgTraceWrCount = (s.get R.dbgTraceWrCount + 1) % 2 ^ 64 ∧ u.get R.cntTraceEntry = (s.get R.cntTraceEntry + 1) % 2 ^ 32
          ∧ u.obs.trace.ring.getLast? = some ⟨s.now, 30, 4, 0, 0, 0⟩ ∧ u.obs.trace.post = s.obs.trace.quota
          ∧ s.keepsRegs u [R.dbgTraceStateState.key, R.dbgTraceTrigIndex.key, R.dbgTraceWrCount.key, R.cntTraceEntry.key])
      ∧ (s.get R.dbgTraceStateState ≠ 1 →
        ∃ u : State, exec (.trigger f q) s = .next (u.complete f q { status := .ok, result := 0 })
          ∧ u.get R.cntTrigIgnored = (s.get R.cntTrigIgnored + 1) % 2 ^ 32 ∧ u.obs = s.obs ∧ s.keepsRegs u [R.cntTrigIgnored.key]))
    ∧ (s.fetchedOp f q = some (.trace 3 inL r m p z) →
      ((s.get R.dbgTraceStateState = 1 ∨ s.get R.dbgTraceStateState = 2) →
        ∃ u : State, exec (.disarm f q) s = .next (u.complete f q { status := .ok, result := 0 }) ∧ u.get R.dbgTraceStateState = 3
          ∧ u.obs.trace.ring = s.obs.trace.ring ∧ s.keepsRegs u [R.dbgTraceStateState.key])
      ∧ ((s.get R.dbgTraceStateState = 0 ∨ s.get R.dbgTraceStateState = 3) →
        exec (.disarm f q) s = .next (s.complete f q { status := .ok, result := 0 })))
    ∧ (s.fetchedOp f q = some (.trace 4 inL r m p z) → ∀ es : List Ecc,
      ((s.get R.dbgTraceStateState = 1 ∨ s.get R.dbgTraceStateState = 2) →
        exec (.drain f q es) s = .next (s.complete f q { status := .badDesc, reason := 0x23 }))
      ∧ ((s.get R.dbgTraceStateState = 0 ∨ s.get R.dbgTraceStateState = 3) →
        (s.flag (R.fnStrCfgEn f r) = false → exec (.drain f q es) s = .next (s.complete f q { status := .badDesc, reason := 0x08 }))
        ∧ (s.flag (R.fnStrCfgEn f r) = true → s.obs.trace.ring = [] → exec (.drain f q es) s = .next (s.complete f q { status := .ok, result := 0 }))
        ∧ (s.flag (R.fnStrCfgEn f r) = true → s.obs.trace.ring ≠ [] →
          ∃ (u : State) (d : Desc), exec (.drain f q es) s = .next (u.feed f q r) ∧ u.cur f q = some d ∧ d.stage = .running
            ∧ d.result = s.obs.trace.ring.length ∧ d.chunks.length = (s.obs.trace.ring.length + 4094) / 4095
            ∧ (∀ c ∈ d.chunks, c.type = 0x04) ∧ u.obs.trace.ring = s.obs.trace.ring ∧ u.host.mem = s.host.mem
            ∧ s.keepsRegs u (R.cntEccCorr.key :: R.cntEccUncorr.key :: faultKeys)
            ∧ ((∀ e ∈ es, e = .ok) → u.obs = s.obs ∧ s.keepsRegs u [] ∧ ∀ c ∈ d.chunks, c.poison = false))))

/-- Triggers, FIFOs and counter export. A hardware trigger condition triggers an ARMED trace and is counted in any other state; the oldest entry of a
die FIFO moves into the ring, with a GAP entry after a loss and the freeze after the quota; an export interval writes the live counters into the FIFOs
(range: log entry 137). (R469, R470, R473, R474, R475.) -/
def Obligations.TraceCaptures : Prop :=
  (∀ (k : Fin 9) (s : State), bit s.obs.trace.conditions k = true →
    (s.get R.dbgTraceStateState = 1 → 0 < s.obs.trace.quota → 0 < s.obs.trace.sizeMib →
      ∃ t : State, exec (.hardwareTrigger k) s = .next t ∧ t.get R.dbgTraceStateState = 2 ∧ t.get R.dbgTraceTrigIndex = s.get R.dbgTraceWrCount % 2 ^ 64
        ∧ t.obs.trace.ring.getLast? = some ⟨s.now, 30, 4, 0, 0, 0⟩ ∧ t.obs.trace.post = s.obs.trace.quota
        ∧ s.keepsRegs t [R.dbgTraceStateState.key, R.dbgTraceTrigIndex.key, R.dbgTraceWrCount.key, R.cntTraceEntry.key])
    ∧ (s.get R.dbgTraceStateState ≠ 1 →
      ∃ t : State, exec (.hardwareTrigger k) s = .next t ∧ t.get R.cntTrigIgnored = (s.get R.cntTrigIgnored + 1) % 2 ^ 32
        ∧ t.obs.trace.ring = s.obs.trace.ring ∧ s.keepsRegs t [R.cntTrigIgnored.key]))
  ∧ (∀ (d : Fin 5) (e : TraceEntry) (l : List TraceEntry) (s : State), s.awake = true → (s.fifo d).entries = e :: l → s.obs.trace.ring.length < s.obs.trace.capacity →
    (s.get R.dbgTraceStateState = 1 →
      ∃ t : State, exec (.traceFifoDrain d) s = .next t ∧ t.obs.trace.ring = s.obs.trace.ring ++ [e] ∧ t.get R.dbgTraceStateState = 1
        ∧ t.get R.dbgTraceWrCount = (s.get R.dbgTraceWrCount + 1) % 2 ^ 64 ∧ t.get R.cntTraceEntry = (s.get R.cntTraceEntry + 1) % 2 ^ 32
        ∧ ((s.fifo d).lost = 0 → (t.fifo d).entries = l ∧ t.get R.cntTraceGap = s.get R.cntTraceGap)
        ∧ (0 < (s.fifo d).lost → (t.fifo d).entries = l ++ [⟨(s.fifo d).lostTime, 31, d, 0, (s.fifo d).lost % 2 ^ 32, (s.fifo d).lostMask⟩]
            ∧ (t.fifo d).lost = 0 ∧ t.get R.cntTraceGap = (s.get R.cntTraceGap + 1) % 2 ^ 32)
        ∧ s.keepsRegs t [R.dbgTraceWrCount.key, R.cntTraceEntry.key, R.cntTraceGap.key])
    ∧ (s.get R.dbgTraceStateState = 2 → s.obs.trace.post = 1 →
      ∃ t : State, exec (.traceFifoDrain d) s = .next t ∧ t.obs.trace.ring = s.obs.trace.ring ++ [e] ∧ t.get R.dbgTraceStateState = 3)
    ∧ (s.get R.dbgTraceStateState = 2 → 1 < s.obs.trace.post →
      ∃ t : State, exec (.traceFifoDrain d) s = .next t ∧ t.obs.trace.ring = s.obs.trace.ring ++ [e] ∧ t.get R.dbgTraceStateState = 2
        ∧ t.obs.trace.post = s.obs.trace.post - 1))
  ∧ (∀ s : State, s.awake = true → s.flag R.dbgOpcCtlExportEn = true →
      s.obs.trace.exportAt + max 1 (min 65535 (s.get R.dbgOpcCtlExportTicks)) ≤ s.tick →
    ∃ t : State, exec .counterExport s = .next t ∧ t.obs.trace.exportAt = s.tick ∧ t.obs.trace.ring = s.obs.trace.ring ∧ t.obs.opc = s.obs.opc
      ∧ s.keepsRegs t [R.cntTraceDrop.key]
      ∧ (s.get R.dbgTraceStateState = 1 → bit s.obs.trace.sources 7 = true → ∀ d : Fin 5, s.fifo d = {} →
          (t.fifo d).entries = (List.range 22).map fun k => ⟨s.now, 7, d, d * 256 + k, 0, s.opc d k⟩))

/-- A hang takes a snapshot, part by part. An expiry of a progress watchdog, after at least HANG_TIMEOUT and with wait reasons 1 to 7 only, begins a
snapshot of all online dies, joins one under way, or acts at once and counts where a dump is held, and nothing expires otherwise; a captured part is
kept, and the last one completes the dump and lets the faults act (order: log entry 135). (R477, R478, R479, R482.) -/
def Obligations.HangSnapshotTaken : Prop :=
  (∀ (die : Fin 5) (unit : Nat) (ws : List Nat) (idle : Nat) (s : State), s.awake = true → s.dieOff die = false → s.flag R.dbgHangEn = true →
    (((∃ w ∈ ws, w < 1 ∨ 7 < w) ∨ idle < 1000 * max 100 (min 65535 (s.get R.dbgHangTimeoutUs))) →
      exec (.progressWatchdogExpiry die unit ws idle) s = .next s)
    ∧ ((∀ w ∈ ws, 1 ≤ w ∧ w ≤ 7) → 1000 * max 100 (min 65535 (s.get R.dbgHangTimeoutUs)) ≤ idle →
    (s.obs.dump = none →
      ∃ (t : State) (d : Dump), exec (.progressWatchdogExpiry die unit ws idle) s = .next t ∧ t.obs.dump = some d
        ∧ d.source = (if die.val = 4 then 0x0E else 0x0D) ∧ d.die = die ∧ d.unit = unit ∧ d.time = s.now ∧ d.mode = s.get R.hifSvcMode
        ∧ d.captured = [] ∧ d.sections = [] ∧ (∀ k : Nat, k ∈ d.waiting ↔ k < 5 ∧ s.dieOff k = false) ∧ d.hung = [(die.val, unit)]
        ∧ t.get R.dbgDumpStatusBusy = 1 ∧ t.get R.cntHang = (s.get R.cntHang + 1) % 2 ^ 32 ∧ t.halted = false
        ∧ s.keepsRegs t (R.cntHang.key :: R.dbgDumpStatusBusy.key :: faultKeys))
    ∧ (∀ d : Dump, s.obs.dump = some d → d.waiting ≠ [] →
      ∃ t : State, exec (.progressWatchdogExpiry die unit ws idle) s = .next t ∧ t.obs.dump = some { d with hung := d.hung ++ [(die.val, unit)] }
        ∧ t.get R.cntHang = (s.get R.cntHang + 1) % 2 ^ 32 ∧ s.keepsRegs t (R.cntHang.key :: faultKeys))
    ∧ (∀ d : Dump, s.obs.dump = some d → d.waiting = [] →
      ∃ u : State, exec (.progressWatchdogExpiry die unit ws idle) s = .next (u.hangActs die unit) ∧ u.obs.dump = some d
        ∧ u.get R.cntHang = (s.get R.cntHang + 1) % 2 ^ 32 ∧ u.get R.cntDumpSkip = (s.get R.cntDumpSkip + 1) % 2 ^ 32
        ∧ s.keepsRegs u (R.cntHang.key :: R.cntDumpSkip.key :: faultKeys))))
  ∧ (∀ (die : Fin 5) (b : List UnitSnap) (es : List Ecc) (d : Dump) (s : State), s.awake = true → s.obs.dump = some d → die.val ∈ d.waiting →
    ((∃ k ∈ d.waiting, k ≠ die.val) →
      ∃ (t : State) (e : Dump), exec (.snapshotCapture die b es) s = .next t ∧ t.obs.dump = some e ∧ SMap.find? die.val e.captured = some s.now
        ∧ SMap.find? die.val e.sections = some b ∧ e.waiting = d.waiting.filter (· != die.val) ∧ e.hung = d.hung
        ∧ (∀ k, k ≠ die.val → SMap.find? k e.captured = SMap.find? k d.captured ∧ SMap.find? k e.sections = SMap.find? k d.sections)
        ∧ s.keepsRegs t [])
    ∧ ((∀ k ∈ d.waiting, k = die.val) → s.flag R.dbgDumpStatusBusy = true →
      ∃ (u : State) (e : Dump), exec (.snapshotCapture die b es) s = .next ((u.serveFetches e es).each d.hung fun v x => v.hangActs x.1 x.2)
        ∧ u.obs.dump = some e ∧ SMap.find? die.val e.captured = some s.now ∧ SMap.find? die.val e.sections = some b
        ∧ e.waiting = [] ∧ e.hung = d.hung ∧ u.get R.dbgDumpStatusValid = 1 ∧ u.get R.dbgDumpStatusBusy = 0
        ∧ u.get R.dbgDumpLenLen = e.bytes.length % 2 ^ 32
        ∧ s.keepsRegs u [R.dbgDumpStatusValid.key, R.dbgDumpStatusBusy.key, R.dbgDumpLenLen.key]))

/-- A dump is fetched and released. DUMP_FETCH copies the asked part of a complete dump to host memory or to a ring, waits for one under way, and
completes NO_RESOURCE without one; RELEASE frees a complete dump; a poisoned read is counted and reported, and completes a copy to host memory
POISONED (what it delivers: log entry 155); the I²C target gives its size and its bytes (bytes past the end: log entry 142). (R424, R481, R482, R483.)
-/
def Obligations.DumpFetchAndRelease : Prop :=
  (∀ (f : Fin 8) (q : Fin 4) (addr len ofs ring : Nat) (toRing : Bool) (s : State), s.awake = true →
    s.fetchedOp f q = some (.dumpFetch addr len ofs toRing ring) → ∀ es : List Ecc,
    (toRing = true → s.flag (R.fnStrCfgEn f ring) = false →
      exec (.dumpFetch f q es) s = .next (s.complete f q { status := .badDesc, reason := 0x08 }))
    ∧ ((toRing = true → s.flag (R.fnStrCfgEn f ring) = true) →
      (s.obs.dump = none → exec (.dumpFetch f q es) s = .next (s.complete f q { status := .noResource, reason := 0x25 }))
      ∧ (∀ d : Dump, s.obs.dump = some d → d.waiting ≠ [] →
        ∃ t : State, exec (.dumpFetch f q es) s = .next t ∧ t.runningOp f q = some (.dumpFetch addr len ofs toRing ring)
          ∧ t.host.mem = s.host.mem ∧ t.obs = s.obs ∧ s.keepsRegs t [])
      ∧ (∀ d : Dump, s.obs.dump = some d → d.waiting = [] → toRing = false → len < 2 ^ 32 → es.headD .ok = .ok →
        ∃ u : State, exec (.dumpFetch f q es) s
            = .next (u.complete f q { status := .ok, result := min len (d.bytes.length - ofs) + 2 ^ 32 * d.bytes.length })
          ∧ u.hostHas f addr (slice d.bytes ofs len) ∧ u.obs = s.obs ∧ s.keepsRegs u [])
      ∧ (∀ d : Dump, s.obs.dump = some d → d.waiting = [] → toRing = false → len < 2 ^ 32 → es.headD .ok = .uncorrectable →
          s.flag R.mgtDdrEccOn = true →
        ∃ u : State, exec (.dumpFetch f q es) s
            = .next (u.complete f q { status := .poisoned, result := min len (d.bytes.length - ofs) + 2 ^ 32 * d.bytes.length })
          ∧ u.get R.cntEccUncorr = (s.get R.cntEccUncorr + 1) % 2 ^ 32 ∧ s.keepsRegs u (R.cntEccUncorr.key :: faultKeys))
      ∧ (∀ d : Dump, s.obs.dump = some d → d.waiting = [] → toRing = true → d.bytes.length ≤ ofs →
        exec (.dumpFetch f q es) s = .next (s.complete f q { status := .ok, result := 2 ^ 32 * d.bytes.length }))
      ∧ (∀ d : Dump, s.obs.dump = some d → d.waiting = [] → toRing = true → ofs < d.bytes.length → 0 < len →
        ∃ (u : State) (e : Desc), exec (.dumpFetch f q es) s = .next (u.feed f q ring) ∧ u.cur f q = some e ∧ e.stage = .running
          ∧ e.result = min len (d.bytes.length - ofs) + 2 ^ 32 * d.bytes.length
          ∧ e.chunks.length = (min len (d.bytes.length - ofs) + 65535) / 65536 ∧ (∀ c ∈ e.chunks, c.type = 0x05)
          ∧ u.obs.dump = s.obs.dump ∧ s.keepsRegs u (R.cntEccCorr.key :: R.cntEccUncorr.key :: faultKeys)
          ∧ ((∀ x ∈ es, x = .ok) → u.obs = s.obs ∧ s.keepsRegs u [] ∧ ∀ c ∈ e.chunks, c.poison = false))))
  ∧ (∀ s : State, s.served = true →
    (∀ d : Dump, s.obs.dump = some d → d.waiting = [] →
      ∃ t : State, exec .release s = .next t ∧ t.obs.dump = none ∧ t.get R.dbgDumpStatusValid = 0 ∧ t.get R.dbgDumpLenLen = 0
        ∧ s.keepsRegs t [R.dbgDumpStatusValid.key, R.dbgDumpLenLen.key])
    ∧ ((∀ d : Dump, s.obs.dump = some d → d.waiting ≠ []) → ∃ t : State, exec .release s = .next t ∧ t.obs = s.obs ∧ s.keepsRegs t []))
  ∧ (∀ s : State, s.phase = .sail →
    (∀ d : Dump, s.obs.dump = some d → d.waiting = [] →
      (∃ t : State, exec .dumpInfo s = .next t ∧ t.reef.ack = true
        ∧ t.reef.result = leBytes d.bytes.length 4 ++ leBytes d.source 1 ++ leBytes d.die 1 ++ leBytes d.mask 1 ++ [0]
        ∧ t.obs = s.obs ∧ s.keepsRegs t [])
      ∧ (∀ a : Word, a.toNat % 32 = 0 → a.toNat < d.bytes.length →
        ∃ t : State, exec (.dumpRead a .ok) s = .next t ∧ t.reef.ack = true ∧ t.reef.result.length = 32
          ∧ t.reef.result.take (d.bytes.length - a.toNat) = slice d.bytes a.toNat 32 ∧ t.obs = s.obs ∧ s.keepsRegs t [])
      ∧ (∀ a : Word, a.toNat % 32 = 0 → a.toNat < d.bytes.length → s.flag R.mgtDdrEccOn = true →
        ∃ t : State, exec (.dumpRead a .uncorrectable) s = .next t ∧ t.reef.ack = true ∧ t.reef.result.length = 32
          ∧ t.get R.cntEccUncorr = (s.get R.cntEccUncorr + 1) % 2 ^ 32 ∧ s.keepsRegs t (R.cntEccUncorr.key :: faultKeys))
      ∧ (∀ (a : Word) (x : Ecc), a.toNat % 32 ≠ 0 ∨ d.bytes.length ≤ a.toNat →
        ∃ t : State, exec (.dumpRead a x) s = .next t ∧ t.reef.ack = false ∧ t.obs = s.obs ∧ s.keepsRegs t []))
    ∧ (s.obs.dump = none →
      ∃ t : State, exec .dumpInfo s = .next t ∧ t.reef.ack = true ∧ t.reef.result.length = 8 ∧ t.reef.result.take 4 = [0, 0, 0, 0]
        ∧ t.obs = s.obs ∧ s.keepsRegs t []))

/-- Lifetime records. SURROUNDINGS stages one record with what R485 names (the rest free: log entry 51); a lifetime sample counts one second and one
bin of each histogram; a copy is written to the next flash slot with the next SEQ (first SEQ: log entry 129) and erases a sector only at its first
slot; LIF_DATA and LIFE_READ give the bytes. (R485, R486, R487, R488, R489.) -/
def Obligations.LifetimeRecords : Prop :=
  (∀ (f : Fin 8) (q : Fin 4) (ring : Nat) (m : Measurement) (s : State), s.awake = true → s.fetchedOp f q = some (.surroundings ring) →
    (s.flag (R.fnStrCfgEn f ring) = false →
      ∃ u : State, exec (.surroundings f q m) s = .next (u.complete f q { status := .badDesc, reason := 0x08 }) ∧ u.host = s.host ∧ s.keepsRegs u [])
    ∧ (s.flag (R.fnStrCfgEn f ring) = true →
      ∃ (u : State) (d : Desc) (x : Rec), exec (.surroundings f q m) s = .next (u.feed f q ring) ∧ u.cur f q = some d ∧ d.stage = .running
        ∧ d.chunks = [x] ∧ x.type = 0x03 ∧ x.units = 45 ∧ slice x.payload 0 8 = leBytes s.now 8
        ∧ (∀ p : Fin 8, slice x.payload (16 + 32 * p) 2 = leBytes (s.get (R.ingPortLinkUp p) + 2 * s.get (R.ingPortLinkGear p)
            + 16 * s.get (R.ingPortLinkLoss p) + 2 ^ 14 * s.get (R.ingPortLinkLenCm p) + 2 ^ 28 * s.get (R.ingPortLinkCapValid p)) 2)
        ∧ s.keepsRegs u []))
  ∧ (∀ s : State, s.mainstay = true → s.obs.sampleAt + 250000000 ≤ s.time.clk →
    ∃ t : State, exec .lifetimeSample s = .next t ∧ t.obs.sampleAt = s.time.clk ∧ t.obs.life.powerOn = s.obs.life.powerOn + 1
      ∧ (∀ d b : Nat, d < 5 → b < 34 → SMap.get t.obs.life.tj 0 (d * 34 + b) =
          if s.dieOff d = false ∧ (b = 0 ∨ (-40 : Int) + 5 * b ≤ s.tj d) ∧ (b = 33 ∨ s.tj d < -35 + 5 * (b : Int))
          then (SMap.get s.obs.life.tj 0 (d * 34 + b) + 1) % 2 ^ 32 else SMap.get s.obs.life.tj 0 (d * 34 + b))
      ∧ (∀ (i : Fin 7) (b : Nat), b < 32 →
          let dev : Int := (s.get (R.pwrRailMv (lifeRails.getD i 0)) : Int) - s.railNominal (lifeRails.getD i 0)
          SMap.get t.obs.life.volt 0 (i * 32 + b) =
          if (b = 0 ∨ (-80 : Int) + 5 * b ≤ dev) ∧ (b = 31 ∨ dev < -75 + 5 * (b : Int))
          then (SMap.get s.obs.life.volt 0 (i * 32 + b) + 1) % 2 ^ 32 else SMap.get s.obs.life.volt 0 (i * 32 + b))
      ∧ t.obs.flash = s.obs.flash ∧ s.keepsRegs t [])
  ∧ (∀ s : State, s.mainstay = true → (s.obs.lifeDue = true ∨ s.obs.lifeAt + 600 ≤ s.obs.life.powerOn) →
    let n := match newestCopy s.obs.flash with | some x => x.2.seq + 1 | none => 0
    (∃ t : State, exec (.lifetimeCopyWrite true) s = .next t
      ∧ SMap.find? s.obs.flashNext t.obs.flash = some { s.obs.life with seq := n } ∧ t.obs.flashNext = (s.obs.flashNext + 1) % 128
      ∧ t.get R.lifSeqSeq = n % 2 ^ 64 ∧ t.obs.lifeDue = false ∧ t.obs.lifeAt = s.obs.life.powerOn
      ∧ (∀ k, k / 8 ≠ s.obs.flashNext / 8 → SMap.find? k t.obs.flash = SMap.find? k s.obs.flash)
      ∧ (∀ k, s.obs.flashNext % 8 ≠ 0 → k ≠ s.obs.flashNext → SMap.find? k t.obs.flash = SMap.find? k s.obs.flash)
      ∧ s.keepsRegs t [R.lifSeqSeq.key])
    ∧ (∃ t : State, exec (.lifetimeCopyWrite false) s = .next t ∧ SMap.find? s.obs.flashNext t.obs.flash = none
      ∧ t.obs.flashNext = (s.obs.flashNext + 1) % 128 ∧ t.get R.lifStatusWriteErr = 1 ∧ t.obs.life = s.obs.life
      ∧ s.keepsRegs t [R.lifStatusWriteErr.key]))
  ∧ (∀ s : State, s.served = true → ∃ t : State, exec .lifDataRead s = .next t
      ∧ t.host.rdata = [BitVec.ofNat 32 (leAt s.obs.life.bytes (s.get R.lifAddrAddr / 4 * 4) 4)]
      ∧ t.get R.lifAddrAddr = (s.get R.lifAddrAddr / 4 * 4 + 4) % 2 ^ 13 ∧ s.keepsRegs t [R.lifAddrAddr.key])
  ∧ (∀ (a : Nat) (s : State), s.phase = .sail → a < 2 ^ 16 →
    (∀ x, a % 32 = 0 → a < 8192 → newestCopy s.obs.flash = some x →
      ∃ t : State, exec (.lifeRead a) s = .next t ∧ t.reef.ack = true ∧ t.reef.result = slice x.2.bytes a 32 ∧ s.keepsRegs t [])
    ∧ (a % 32 ≠ 0 ∨ 8192 ≤ a → ∃ t : State, exec (.lifeRead a) s = .next t ∧ t.reef.ack = false ∧ s.keepsRegs t []))

/-- Records reach staging or a GAP. The oldest record handed over, marked poisoned and reported where its queue word fails its parity check, is staged
where its ring is enabled and staging has room (in padded bytes, log entry 47), is counted in a GAP record of its type where not, and is discarded and
counted where the ring is off. (R313, R319, R320, R436, R453.) -/
def Obligations.RecordsReachStaging : Prop :=
  ∀ (h : Handed) (l : List Handed) (bad : Bool) (s : State), s.awake = true → s.host.handed = h :: l →
    let z := h.record.padded
    let st := (s.str h.fn h.ring).staged
    let room := stagedBytes st + z + 64 * (if h.fn = 0 then 10 else 9) ≤ 2 ^ 20
    let keys := if bad then R.cntParity.key :: faultKeys else []
    ∃ (t : State) (m : List Handed), exec (.recordStaging bad) s = .next t ∧ t.host.handed = l ++ m ∧ (bad = false → m = [])
      ∧ t.host.mem = s.host.mem ∧ (bad = true → t.get R.cntParity = (s.get R.cntParity + 1) % 2 ^ 32)
      ∧ (s.flag (R.fnStrCfgEn h.fn h.ring) = false →
        (t.str h.fn h.ring).staged = st ∧ t.get (R.fnRingOffCntOff h.fn) = (s.get (R.fnRingOffCntOff h.fn) + 1) % 2 ^ 32
          ∧ s.keepsRegs t ((R.fnRingOffCntOff h.fn).key :: keys))
      ∧ (s.flag (R.fnStrCfgEn h.fn h.ring) = true → room →
        ∃ x : Staged, x.record = { h.record with poison := h.record.poison || bad } ∧ x.id = s.host.nextId
          ∧ (t.str h.fn h.ring).staged = closeGaps h.record.type st ++ [x] ∧ (closeGaps h.record.type st).map (·.record) = st.map (·.record)
          ∧ t.get (R.fnStrStageOcc h.fn h.ring) = (stagedBytes st + z) % 2 ^ 21 ∧ s.keepsRegs t ((R.fnStrStageOcc h.fn h.ring).key :: keys))
      ∧ (s.flag (R.fnStrCfgEn h.fn h.ring) = true → ¬room →
        t.get (R.fnStrGapCntGap h.fn h.ring) = (s.get (R.fnStrGapCntGap h.fn h.ring) + 1) % 2 ^ 32
          ∧ (addToGap h.record.type st = none → ∃ x : Staged, (t.str h.fn h.ring).staged = st ++ [x] ∧ x.isOpen = true ∧ x.record.type = 0x0B
              ∧ x.record.gap = some ⟨h.record.type, 1, if h.record.type = 1 ∨ h.record.type = 2 then h.record.index else 0⟩)
          ∧ (∀ m, addToGap h.record.type st = some m → (t.str h.fn h.ring).staged = m)
          ∧ s.keepsRegs t ([(R.fnStrStageOcc h.fn h.ring).key, (R.fnStrGapCntGap h.fn h.ring).key, R.cntWinGap.key, R.cntThrGap.key] ++ keys))

/-- A staged record is written to its ring. The oldest staged record is written at WR with header, generation and sequence, marked poisoned where its
read from LPDDR5X is, WR, SEQ and the generation move on, CNT_WIN counts a WINDOW_COUNTS record, the taps that wait for room go on, an IDLE record
fills the end of the ring where the record does not fit (it counts for interrupts, log entry 48), and nothing is written without room; a ring
interrupt comes after COUNT records or TIME_US. (R103, R219, R313, R315, R316, R317, R318, R322, R443.) -/
def Obligations.StagedRecordIsWritten : Prop :=
  (∀ (f r : Fin 8) (x : Staged) (l : List Staged) (s : State), s.awake = true → (s.str f r).staged = x :: l →
    s.flag (R.fnStrCfgEn f r) = true → s.strSize f r ≤ 2 ^ 30 → s.get (R.fnStrWrWr f r) < s.strSize f r →
    let size := s.strSize f r
    let wr := s.get (R.fnStrWrWr f r)
    let base := s.get (R.fnStrBaseBase f r)
    let z := x.record.padded
    let room := if (s.str f r).rd = wr then size else ((s.str f r).rd + size - wr) % size
    let count := s.get (R.fnStrIrqCount f r)
    let seq := s.get (R.fnStrSeqSeq f r)
    (wr + z ≤ size → z + 64 ≤ room → (s.str f r).rd < size →
      ∃ v : State, exec (.streamRecordWrite f r .ok) s = .next (v.writersGoOn f r (v.lastSeq f r)).closeTaps
        ∧ v.hostHas f (base + wr) (leBytes (x.record.type + 256 * b2n (s.str f r).gen + 512 * b2n x.record.poison + 1024 * b2n x.record.error
            + 2 ^ 16 * (if x.record.type = 0x0F then z / 8 else x.record.units) + 2 ^ 32 * seq) 8)
        ∧ v.hostHas f (base + wr + 8) (x.record.body ++ idleWords (z / 8 - x.record.units))
        ∧ v.get (R.fnStrWrWr f r) = (wr + z) % size % 2 ^ 30 ∧ v.get (R.fnStrSeqSeq f r) = (seq + 1) % 2 ^ 32
        ∧ (v.str f r).gen = (if wr + z = size then !(s.str f r).gen else (s.str f r).gen)
        ∧ (v.str f r).staged = l ∧ v.get (R.fnStrStageOcc f r) = stagedBytes l % 2 ^ 21
        ∧ (v.str f r).irqCount = (if count = 0 then (s.str f r).irqCount else if count ≤ (s.str f r).irqCount + 1 then 0 else (s.str f r).irqCount + 1)
        ∧ v.get R.cntWin = (if x.record.type = 2 then (s.get R.cntWin + 1) % 2 ^ 32 else s.get R.cntWin)
        ∧ s.keepsRegs v [(R.fnStrWrWr f r).key, (R.fnStrSeqSeq f r).key, (R.fnStrStageOcc f r).key, (R.fnMsixPbaPending f).key, R.cntWin.key])
    ∧ (wr + z ≤ size → z + 64 ≤ room → (s.str f r).rd < size → s.flag R.mgtDdrEccOn = true →
      ∃ v : State, exec (.streamRecordWrite f r .uncorrectable) s = .next (v.writersGoOn f r (v.lastSeq f r)).closeTaps
        ∧ v.hostHas f (base + wr) (leBytes (x.record.type + 256 * b2n (s.str f r).gen + 512 + 1024 * b2n x.record.error
            + 2 ^ 16 * (if x.record.type = 0x0F then z / 8 else x.record.units) + 2 ^ 32 * seq) 8)
        ∧ (v.str f r).staged = l ∧ v.get R.cntEccUncorr = (s.get R.cntEccUncorr + 1) % 2 ^ 32)
    ∧ (wr + z ≤ size → room < z + 64 → (s.str f r).rd < size → ∀ e, exec (.streamRecordWrite f r e) s = .next s)
    ∧ (size < wr + z → size - wr + z + 64 ≤ room → (s.str f r).rd < size →
      ∃ v : State, exec (.streamRecordWrite f r .ok) s = .next (v.writersGoOn f r (v.lastSeq f r)).closeTaps
        ∧ v.hostHas f (base + wr) (leBytes (0x0F + 256 * b2n (s.str f r).gen + 2 ^ 16 * ((size - wr) / 8) + 2 ^ 32 * seq) 8)
        ∧ v.get (R.fnStrWrWr f r) = z % 2 ^ 30 ∧ v.get (R.fnStrSeqSeq f r) = (seq + 2) % 2 ^ 32
        ∧ (v.str f r).gen = !(s.str f r).gen ∧ (v.str f r).staged = l)
    ∧ (size < wr + z → room < size - wr + z + 64 → (s.str f r).rd < size → ∀ e, exec (.streamRecordWrite f r e) s = .next s))
  ∧ (∀ (f r : Fin 8) (t0 : Nat) (s : State), s.awake = true → (s.str f r).irqFirst = some t0 → s.get (R.fnStrIrqCount f r) ≠ 0 →
    (t0 + 1000 * s.get (R.fnStrIrqTimeUs f r) ≤ s.now →
      ∃ t : State, exec (.streamIrqTimeout f r) s = .next t ∧ (t.str f r).irqCount = 0 ∧ (t.str f r).irqFirst = none
        ∧ (s.flag (R.fnMsixCtlMask f (s.get (R.fnStrCfgVec f r))) = false →
            SMap.get t.host.msix 0 (f * 32 + s.get (R.fnStrCfgVec f r)) = SMap.get s.host.msix 0 (f * 32 + s.get (R.fnStrCfgVec f r)) + 1
            ∧ s.keepsRegs t [])
        ∧ (s.flag (R.fnMsixCtlMask f (s.get (R.fnStrCfgVec f r))) = true → t.host.msix = s.host.msix
            ∧ t.get (R.fnMsixPbaPending f) = setBit (s.get (R.fnMsixPbaPending f)) (s.get (R.fnStrCfgVec f r)) true % 2 ^ 32
            ∧ s.keepsRegs t [(R.fnMsixPbaPending f).key]))
    ∧ (s.now < t0 + 1000 * s.get (R.fnStrIrqTimeUs f r) → exec (.streamIrqTimeout f r) s = .next s))

/-- Rings are enabled and disabled. A CFG write out of range or to an enabled ring sets RING_ERR only; an enable resets the indices of its ring (and
writes the placeholder of a stream ring); disabling a stream ring discards what is staged and ends its writers; after either the taps go on; LOSS_ACK
is written; an FLR resets the rings and the page of its function and nothing of another function. (R294, R295, R317, R320, R328, R329.) -/
def Obligations.RingConfiguration : Prop :=
  (∀ (k : RingKind) (f i : Fin 8) (v : Word) (s : State), s.served = true → (k ≠ .str → i.val < 4) →
    (s.flag (ringEn k f i) = true → bit v.toNat 31 = true →
      ∃ t : State, exec (.ringEnable k f i v) s = .next t ∧ t.get (R.fnStatusRingErr f) = 1 ∧ t.host = s.host
        ∧ s.keepsRegs t [(R.fnStatusRingErr f).key])
    ∧ ((k ≠ .str ∧ (bits v.toNat 0 5 < 4 ∨ 16 < bits v.toNat 0 5)) ∨ (k = .str ∧ (bits v.toNat 0 5 < 18 ∨ 30 < bits v.toNat 0 5)) →
      ∃ t : State, exec (.ringEnable k f i v) s = .next t ∧ t.get (R.fnStatusRingErr f) = 1 ∧ t.host = s.host
        ∧ s.keepsRegs t [(R.fnStatusRingErr f).key])
    ∧ (k = .sq → 4 ≤ bits v.toNat 0 5 → bits v.toNat 0 5 ≤ 16 → s.flag (R.fnSqCfgEn f i) = false → bit v.toNat 31 = true →
      ∃ t : State, exec (.ringEnable k f i v) s = .next t ∧ t.get (R.fnSqCfgEn f i) = 1 ∧ t.get (R.fnSqCfgSizeLog2 f i) = bits v.toNat 0 5
        ∧ t.get (R.fnSqCfgCq f i) = bits v.toNat 8 2 ∧ t.get (R.fnSqHeadHead f i) = 0 ∧ (t.sq f i).tail = 0 ∧ t.host.mem = s.host.mem
        ∧ s.keepsRegs t [(R.fnSqCfgEn f i).key, (R.fnSqCfgSizeLog2 f i).key, (R.fnSqCfgCq f i).key, (R.fnSqHeadHead f i).key])
    ∧ (k = .cq → 4 ≤ bits v.toNat 0 5 → bits v.toNat 0 5 ≤ 16 → s.flag (R.fnCqCfgEn f i) = false → bit v.toNat 31 = true →
      ∃ t : State, exec (.ringEnable k f i v) s = .next t ∧ t.get (R.fnCqCfgEn f i) = 1 ∧ t.get (R.fnCqCfgSizeLog2 f i) = bits v.toNat 0 5
        ∧ t.get (R.fnCqCfgVec f i) = bits v.toNat 8 5 ∧ t.get (R.fnCqTailTail f i) = 0
        ∧ t.cq f i = { head := 0, phase := true, resv := 0 } ∧ t.host.mem = s.host.mem
        ∧ s.keepsRegs t [(R.fnCqCfgEn f i).key, (R.fnCqCfgSizeLog2 f i).key, (R.fnCqCfgVec f i).key, (R.fnCqTailTail f i).key])
    ∧ (k = .str → 18 ≤ bits v.toNat 0 5 → bits v.toNat 0 5 ≤ 30 → s.flag (R.fnStrCfgEn f i) = false → bit v.toNat 31 = true →
      ∃ t : State, exec (.ringEnable k f i v) s = .next t.closeTaps ∧ t.get (R.fnStrCfgEn f i) = 1 ∧ t.get (R.fnStrCfgSizeLog2 f i) = bits v.toNat 0 5
        ∧ t.get (R.fnStrCfgVec f i) = bits v.toNat 8 5 ∧ t.get (R.fnStrWrWr f i) = 0 ∧ t.get (R.fnStrSeqSeq f i) = 0
        ∧ (t.str f i).gen = true ∧ (t.str f i).rd = 0 ∧ t.hostHas f (s.get (R.fnStrBaseBase f i)) (leBytes 0 8)
        ∧ s.keepsRegs t [(R.fnStrCfgEn f i).key, (R.fnStrCfgSizeLog2 f i).key, (R.fnStrCfgVec f i).key, (R.fnStrWrWr f i).key, (R.fnStrSeqSeq f i).key]))
  ∧ (∀ (f r : Fin 8) (v : Word) (s : State), s.served = true → s.flag (R.fnStrCfgEn f r) = true → bit v.toNat 31 = false →
    18 ≤ bits v.toNat 0 5 → bits v.toNat 0 5 ≤ 30 →
    ∃ t : State, exec (.ringDisable f r v) s = .next t.closeTaps ∧ t.get (R.fnStrCfgEn f r) = 0 ∧ (t.str f r).staged = [] ∧ t.get (R.fnStrStageOcc f r) = 0
      ∧ t.get (R.fnRingOffCntOff f) = (s.get (R.fnRingOffCntOff f) + (s.str f r).staged.length) % 2 ^ 32
      ∧ (∀ (q : Fin 4) (op : Op), s.runningOp f q = some op → op.target = some r.val → t.cur f q = none)
      ∧ (∀ g j : Fin 8, (g ≠ f ∨ j ≠ r) → t.str g j = s.str g j))
  ∧ (∀ (f : Fin 8) (v : Word) (s : State), s.served = true →
    ∃ t : State, exec (.lossAck f v) s = .next t ∧ t.get (R.fnLossAckAck f) = v.toNat ∧ t.host = s.host ∧ s.keepsRegs t [(R.fnLossAckAck f).key])
  ∧ (∀ (f : Fin 8) (s : State), s.served = true →
    ∃ t : State, exec (.flr f) s = .next t ∧ t.host.mem = s.host.mem ∧ t.host.msix = s.host.msix
      ∧ (∀ q : Fin 4, t.sq f q = {} ∧ t.cq f q = {}) ∧ (∀ r : Fin 8, t.str f r = {}) ∧ (∀ w ∈ t.host.wide, w.1 ≠ f.val)
      ∧ (∀ g r : Fin 8, g ≠ f → t.sq g r = s.sq g r ∧ t.cq g r = s.cq g r ∧ t.str g r = s.str g r)
      ∧ (∀ x : Fld, (0x1000000 + 0x10000 * f.val) * 64 ≤ x.key → x.key < (0x1010000 + 0x10000 * f.val) * 64 →
          (classOfKey x.key = .f ∨ classOfKey x.key = .s) → t.get x = x.reset)
      ∧ (∀ x : Fld, x.key < (0x1000000 + 0x10000 * f.val) * 64 ∨ (0x1010000 + 0x10000 * f.val) * 64 ≤ x.key ∨ classOfKey x.key = .l
          ∨ classOfKey x.key = .a ∨ classOfKey x.key = .w → t.get x = s.get x)
      ∧ SMap.find? f.val t.reef.flr = some (s.time.clk + 250000) ∧ t.lpddr = s.lpddr ∧ t.active = s.active ∧ t.shadow = s.shadow)

/-- The I²C target. In SAIL the target acknowledges its address, STATUS gives the run and loss summary, REG_READ gives a register and takes nothing
away but moves the two address registers, REG_WRITE acts on the MGT block only; in a reef state a command wakes the device and waits with the clock
held low where stretching is enabled, and is not acknowledged otherwise (unaligned writes: log entry 142). (R415, R416, R417, R422, R423, R424.) -/
def Obligations.I2cTargetServes : Prop :=
  (∀ s : State, s.phase = .sail →
    (∃ t : State, exec .i2cAddressMatch s = .next t ∧ t.reef.ack = true ∧ t.phase = .sail ∧ s.keepsRegs t [])
    ∧ (∃ t : State, exec .status s = .next t ∧ t.reef.ack = true ∧ s.keepsRegs t []
      ∧ t.reef.result = leBytes (s.get R.mgtReefStatusLastState + 16 * s.get R.mgtReefStatusWakeSrc) 1
          ++ leBytes (s.get R.hifRunState + 4 * s.get R.hifRunHold + 8 * s.get R.hifRunLastFull) 1 ++ leBytes (s.get R.hifStateLostClasses) 1
          ++ leBytes (s.get R.pwrThermStatusThrottling + 2 * s.get R.pwrThermStatusTrip) 1 ++ leBytes (s.get R.hifLossEpochEpoch) 4)
    ∧ (∀ a : Word, a.toNat % 4 = 0 → a.toNat < 0x1000000 →
        (∃ t : State, exec (.regRead a) s = .next t ∧ t.reef.ack = true ∧ s.keepsRegs t [R.lifAddrAddr.key, R.fltCoefAddrAddr.key])
        ∧ (regAt a.toNat = none → ∃ t : State, exec (.regRead a) s = .next t ∧ t.reef.result = [0, 0, 0, 0]))
    ∧ (∃ t : State, exec (.regRead 0x14) s = .next t ∧ t.reef.result = leBytes (s.get R.hifLossEpochEpoch) 4)
    ∧ (∃ t : State, exec (.regRead 0x700080) s = .next t ∧ t.get R.fabStatusSlipMax = s.get R.fabStatusSlipMax
        ∧ t.reef.result = leBytes (s.get R.fabStatusSlipMax + 2 ^ 8 * s.get R.fabStatusShedding + 2 ^ 16 * s.get R.fabStatusRunWrite
            + 2 ^ 17 * s.get R.fabStatusPoison + 2 ^ 18 * s.get R.fabStatusFold) 4)
    ∧ (∀ a : Word, a.toNat % 4 ≠ 0 ∨ 0x1000000 ≤ a.toNat → ∃ t : State, exec (.regRead a) s = .next t ∧ t.reef.ack = false ∧ s.keepsRegs t [])
    ∧ (∀ a v : Word, 0x100000 ≤ a.toNat → ∃ t : State, exec (.regWrite a v) s = .next t ∧ t.reef.ack = false ∧ s.keepsRegs t [])
    ∧ (∀ v : Word,
        (∃ t : State, exec (.regWrite 0x018 v) s = .next t ∧ t.reef.ack = true ∧ SMap.find? (latchKey 8 0x100018) t.latch.wr = some v
          ∧ (∀ k, k ≠ latchKey 8 0x100018 → SMap.find? k t.latch.wr = SMap.find? k s.latch.wr) ∧ s.keepsRegs t [])
        ∧ (∃ t : State, exec (.regWrite 0x01C v) s = .next t ∧ t.reef.ack = true ∧ SMap.find? (latchKey 8 0x100018) t.latch.wr = none
          ∧ t.get R.mgtAlarmNs = ((match SMap.find? (latchKey 8 0x100018) s.latch.wr with
              | some w => w.toNat
              | none => s.get R.mgtAlarmNs % 2 ^ 32) + 2 ^ 32 * v.toNat) % 2 ^ 64
          ∧ (∀ k, k ≠ latchKey 8 0x100018 → SMap.find? k t.latch.wr = SMap.find? k s.latch.wr) ∧ s.keepsRegs t [R.mgtAlarmNs.key])))
  ∧ (∀ (n : Nat) (s : State), s.phase = .reef n → 1 ≤ n → n ≤ 3 →
      let exits := Phase.exiting n (s.time.clk + (if n = 1 then 375 else if n = 2 then 60000 else 18750000)) ⟨5, 0⟩
      (∃ t : State, exec .i2cAddressMatch s = .next t ∧ t.reef.ack = true ∧ t.phase = exits ∧ s.keepsRegs t [])
      ∧ (n ≤ 2 → s.flag R.mgtI2cStretchEn = true →
        ∃ t : State, exec .status s = .next t ∧ t.reef.ack = true ∧ t.phase = exits ∧ t.reef.served = s.reef.served ++ [⟨1, [], .ok⟩] ∧ s.keepsRegs t [])
      ∧ (n = 3 ∨ s.flag R.mgtI2cStretchEn = false →
        ∃ t : State, exec .status s = .next t ∧ t.reef.ack = false ∧ t.phase = exits ∧ t.reef.served = s.reef.served ∧ s.keepsRegs t []))

/-- Which register accesses are served. An aligned 4-byte access where no register stands reads 0 and writes nothing; an access of any other size or
alignment that is not an 8-byte one over a LO/HI pair reads 0 and writes nothing; a 4-byte write acts on its word; an 8-byte access over a pair is the
access to LO followed by the one to HI. (R512, R513.) -/
def Obligations.RegisterAccessForms : Prop :=
  ∀ (f : Fin 8) (sp : Space) (off a : Nat) (s : State), s.served = true → windowAt f (inPage sp) off = some a → (inPage sp = true → ∀ v, doorbellAt f off v = none) →
    (a % 4 = 0 → regAt a = none →
      (∀ v : BitVec 64, exec (.registerWrite f sp off 4 v) s = .next s.touch)
      ∧ (∀ v : Word, exec (.loWrite f sp off v) s = .next s.touch ∧ exec (.hiWrite f sp off v) s = .next s.touch)
      ∧ ∃ t : State, exec (.loRead f sp off 4) s = .next t ∧ exec (.rcRead f sp off) s = .next t ∧ t.host.rdata = [0] ∧ s.keepsRegs t [])
    ∧ (∀ size : Nat, ¬(size = 4 ∧ a % 4 = 0) → ¬(size = 8 ∧ a % 8 = 0 ∧ ∃ h, regAt a = some h ∧ h.spec.pair = true ∧ h.hi = false) →
      (∀ v : BitVec 64, exec (.registerWrite f sp off size v) s = .next s.touch)
      ∧ ∃ t : State, exec (.loRead f sp off size) s = .next t ∧ t.host.rdata = [0] ∧ s.keepsRegs t [])
    ∧ (a % 4 = 0 → ∀ v : Word, exec (.loWrite f sp off v) s = .next (s.touch.writeWord f a v.toNat)
      ∧ exec (.hiWrite f sp off v) s = .next (s.touch.writeWord f a v.toNat)
      ∧ exec (.registerWrite f sp off 4 (v.setWidth 64)) s = .next (s.touch.writeWord f a v.toNat))
    ∧ (∀ h : RegHit, a % 8 = 0 → regAt a = some h → h.spec.pair = true → h.hi = false →
      (∀ lo hi : Word, exec (.registerWrite f sp off 8 (hi ++ lo)) s = .next ((s.touch.writeWord f a lo.toNat).writeWord f (a + 4) hi.toNat))
      ∧ ∃ t : State, exec (.loRead f sp off 8) s = .next t
          ∧ t.host.rdata = [BitVec.ofNat 32 (s.touch.readWord f a false).2,
              BitVec.ofNat 32 ((s.touch.readWord f a false).1.readWord f (a + 4) false).2])

/-- What register accesses do. A write to a plain MGT register replaces its writable fields and clears its W1C bits, a read returns the fields and
takes nothing; a LO write is latched and a HI write joins it; a LO read of a pair and of the time counter latches the rest; RC fields, captures, GNSS
bytes and coefficients read as their rules say (ignored coefficient writes: log entry 40; a HI write alone: log entry 33). (R7, R245, R261, R377,
R383, R514, R515, R516.) -/
def Obligations.RegisterAccessEffects : Prop :=
  (∀ (a : Nat) (h : RegHit) (v : Word) (s : State), s.served = true → 0x100000 ≤ a → a < 0x200000 → a % 4 = 0 → regAt a = some h → h.spec.pair = false →
    a ≠ 0x10000C → a ≠ 0x100024 → a ≠ 0x100028 → a ≠ 0x100140 →
    (∃ t : State, exec (.registerWrite 0 .bar0 a 4 (v.setWidth 64)) s = .next t
      ∧ (∀ g ∈ h.spec.fields, t.get (g.at a) = match g.acc with
          | .rw => bits v.toNat g.lo g.width
          | .w1c => s.get (g.at a) &&& (2 ^ g.width - 1 - bits v.toNat g.lo g.width)
          | _ => s.get (g.at a))
      ∧ (∀ x : Fld, (∀ g ∈ h.spec.fields, x.key ≠ (g.at a).key) → t.get x = s.get x))
    ∧ (∃ t : State, exec (.loRead 0 .bar0 a 4) s = .next t ∧ s.keepsRegs t []
      ∧ t.host.rdata = [BitVec.ofNat 32 ((h.spec.fields.map fun g => s.get (g.at a) * 2 ^ g.lo).sum)]))
  ∧ (∀ (v : Word) (s : State), s.served = true →
    (∃ t : State, exec (.loWrite 0 .bar0 0x100018 v) s = .next t ∧ SMap.find? (latchKey 0 0x100018) t.latch.wr = some v ∧ s.keepsRegs t [])
    ∧ (∃ t : State, exec (.hiWrite 0 .bar0 0x10001C v) s = .next t ∧ SMap.find? (latchKey 0 0x100018) t.latch.wr = none
      ∧ t.get R.mgtAlarmNs = ((match SMap.find? (latchKey 0 0x100018) s.latch.wr with
          | some w => w.toNat
          | none => s.get R.mgtAlarmNs % 2 ^ 32) + 2 ^ 32 * v.toNat) % 2 ^ 64
      ∧ (∀ k, k ≠ latchKey 0 0x100018 → SMap.find? k t.latch.wr = SMap.find? k s.latch.wr) ∧ s.keepsRegs t [R.mgtAlarmNs.key]))
  ∧ (∀ s : State, s.served = true →
    (∃ t : State, exec (.loRead 0 .bar0 0x100018 4) s = .next t ∧ t.host.rdata = [BitVec.ofNat 32 (s.get R.mgtAlarmNs)]
      ∧ SMap.find? (latchKey 0 0x100018) t.latch.rd = some (BitVec.ofNat 32 (s.get R.mgtAlarmNs / 2 ^ 32)) ∧ s.keepsRegs t [])
    ∧ (∀ w : Word, SMap.find? (latchKey 0 0x100018) s.latch.rd = some w →
      ∃ t : State, exec (.loRead 0 .bar0 0x10001C 4) s = .next t ∧ t.host.rdata = [w] ∧ SMap.find? (latchKey 0 0x100018) t.latch.rd = none)
    ∧ (SMap.find? (latchKey 0 0x100018) s.latch.rd = none →
      ∃ t : State, exec (.loRead 0 .bar0 0x10001C 4) s = .next t ∧ t.host.rdata = [BitVec.ofNat 32 (s.get R.mgtAlarmNs / 2 ^ 32)])
    ∧ (∃ t : State, exec (.loRead 0 .bar0 0x300000 4) s = .next t ∧ t.host.rdata = [BitVec.ofNat 32 (s.time.dev / 2 ^ 32)]
      ∧ SMap.find? (latchKey 0 0x300000) t.latch.rd = some (BitVec.ofNat 32 (s.time.dev / 2 ^ 64))
      ∧ SMap.find? (latchKey 0 0x300008) t.latch.rd = some (BitVec.ofNat 32 s.time.dev) ∧ s.keepsRegs t [])
    ∧ (∃ t : State, exec (.rcRead 0 .bar0 0x700080) s = .next t ∧ t.get R.fabStatusSlipMax = 0
      ∧ t.host.rdata = [BitVec.ofNat 32 (s.get R.fabStatusSlipMax + 2 ^ 8 * s.get R.fabStatusShedding + 2 ^ 16 * s.get R.fabStatusRunWrite
          + 2 ^ 17 * s.get R.fabStatusPoison + 2 ^ 18 * s.get R.fabStatusFold)]
      ∧ s.keepsRegs t [R.fabStatusSlipMax.key])
    ∧ (∀ (c : Fin 4) (x : Nat) (l : List Nat), s.captures c = x :: l →
      ∃ t : State, exec (.capLoRead c) s = .next t ∧ t.host.rdata = [BitVec.ofNat 32 x] ∧ t.captures c = l
        ∧ t.get (R.timTciStatCount c) = l.length % 2 ^ 5
        ∧ SMap.find? (latchKey 0 (0x300384 + 0x10 * c)) t.latch.rd = some (BitVec.ofNat 32 (x / 2 ^ 32)) ∧ s.keepsRegs t [(R.timTciStatCount c).key])
    ∧ (∀ c : Fin 4, s.captures c = [] → ∃ t : State, exec (.capLoRead c) s = .next t ∧ t.host.rdata = [0] ∧ s.keepsRegs t [])
    ∧ (∀ (b : Byte) (l : List Byte), s.flt.gnss = b :: l →
      ∃ t : State, exec .gnssRxRead s = .next t ∧ t.host.rdata = [BitVec.ofNat 32 (b.toNat + 256)] ∧ t.flt.gnss = l ∧ s.keepsRegs t [])
    ∧ (s.flt.gnss = [] → ∃ t : State, exec .gnssRxRead s = .next t ∧ t.host.rdata = [0] ∧ s.keepsRegs t [])
    ∧ (∃ t : State, exec (.coefDataAccess none) s = .next t ∧ t.host.rdata = [BitVec.ofNat 32 (SMap.get s.flt.coef 0 (s.get R.fltCoefAddrAddr))]
      ∧ t.get R.fltCoefAddrAddr = (s.get R.fltCoefAddrAddr + 1) % 2 ^ 12 ∧ t.flt = s.flt ∧ s.keepsRegs t [R.fltCoefAddrAddr.key])
    ∧ (∀ v : Word, s.coefUsed (s.get R.fltCoefAddrAddr) = false →
      ∃ t : State, exec (.coefDataAccess (some v)) s = .next t ∧ SMap.get t.flt.coef 0 (s.get R.fltCoefAddrAddr) = v.toNat % 2 ^ 16
        ∧ t.get R.fltCoefAddrAddr = (s.get R.fltCoefAddrAddr + 1) % 2 ^ 12 ∧ s.keepsRegs t [R.fltCoefAddrAddr.key])
    ∧ (∀ v : Word, s.coefUsed (s.get R.fltCoefAddrAddr) = true →
      ∃ t : State, exec (.coefDataAccess (some v)) s = .next t ∧ t.flt.coef = s.flt.coef ∧ t.get R.fltStatusRunWrite = 1
        ∧ s.keepsRegs t [R.fltStatusRunWrite.key, R.fltCoefAddrAddr.key]))

/-- Ports are enabled, trained and lost. While STOPPED a port is enabled, and then trains with its triple invalid, or is disabled; otherwise the write
sets RUN_WRITE only; RETRAIN and a loss begin a training, each fall of UP counts; a training that ends reports LOSS, and one that ends well sets
LEN_CM and a gear of 1 to 5; a third failed one ends the attempts (log entry 56). (R65, R66, R74, R75.) -/
def Obligations.PortTrainingAndEnable : Prop :=
  (∀ (p : Fin 8) (s : State), s.served = true →
    (s.stopped = true → s.portOn p = false →
      ∃ t : State, exec (.portEnable p) s = .next t ∧ t.get R.ingCtlPortEn = setBit (s.get R.ingCtlPortEn) p true % 2 ^ 8
        ∧ t.get (R.ingPortLinkUp p) = 0 ∧ t.get (R.ingPortRbCtlValid p) = 0 ∧ (t.port p).training = true ∧ (t.port p).trained = false
        ∧ (t.port p).fails = 0 ∧ (t.port p).tb = none ∧ (t.port p).first = .training ∧ (t.port p).queue = (s.port p).queue
        ∧ t.get (R.ingCntLinkdown p) = (if s.flag (R.ingPortLinkUp p) then (s.get (R.ingCntLinkdown p) + 1) % 2 ^ 32 else s.get (R.ingCntLinkdown p))
        ∧ (∀ r : Fin 8, r ≠ p → t.port r = s.port r)
        ∧ s.keepsRegs t [R.ingCtlPortEn.key, (R.ingPortLinkUp p).key, (R.ingPortRbCtlValid p).key, (R.ingCntLinkdown p).key])
    ∧ (s.stopped = true → s.portOn p = true →
      ∃ t : State, exec (.portDisable p) s = .next t ∧ t.get R.ingCtlPortEn = setBit (s.get R.ingCtlPortEn) p false % 2 ^ 8
        ∧ t.get (R.ingPortLinkUp p) = 0 ∧ (t.port p).training = false ∧ (t.port p).trained = false ∧ (t.port p).queue = (s.port p).queue
        ∧ t.get (R.ingCntLinkdown p) = (if s.flag (R.ingPortLinkUp p) then (s.get (R.ingCntLinkdown p) + 1) % 2 ^ 32 else s.get (R.ingCntLinkdown p))
        ∧ (∀ r : Fin 8, r ≠ p → t.port r = s.port r)
        ∧ s.keepsRegs t [R.ingCtlPortEn.key, (R.ingPortLinkUp p).key, (R.ingCntLinkdown p).key])
    ∧ (s.stopped = false →
      (∃ t : State, exec (.portEnable p) s = .next t ∧ t.get R.ingStatusRunWrite = 1 ∧ t.ing = s.ing ∧ s.keepsRegs t [R.ingStatusRunWrite.key])
      ∧ (∃ t : State, exec (.portDisable p) s = .next t ∧ t.get R.ingStatusRunWrite = 1 ∧ t.ing = s.ing ∧ s.keepsRegs t [R.ingStatusRunWrite.key]))
    ∧ (∀ v : Word, s.portOn p = true → bit v.toNat 10 = true →
      ∃ t : State, exec (.retrain p v) s = .next t ∧ t.get (R.ingPortLinkUp p) = 0 ∧ (t.port p).training = true ∧ (t.port p).trained = false
        ∧ (t.port p).fails = 0 ∧ (t.port p).tb = none ∧ (t.port p).queue = (s.port p).queue
        ∧ t.get (R.ingCntLinkdown p) = (if s.flag (R.ingPortLinkUp p) then (s.get (R.ingCntLinkdown p) + 1) % 2 ^ 32 else s.get (R.ingCntLinkdown p))
        ∧ (s.stopped = false → s.keepsRegs t [(R.ingPortLinkUp p).key, (R.ingCntLinkdown p).key, R.ingStatusRunWrite.key])
        ∧ (s.stopped = false → bits v.toNat 3 4 ≠ s.get (R.ingPortCfgVc p) → t.get R.ingStatusRunWrite = 1)
        ∧ (s.stopped = true → t.get (R.ingPortCfgGearMax p) = bits v.toNat 0 3 ∧ t.get (R.ingPortCfgVc p) = bits v.toNat 3 4
            ∧ t.get (R.ingPortCfgShed p) = bits v.toNat 7 1 ∧ t.get (R.ingPortCfgCoaxClass p) = bits v.toNat 8 2)))
  ∧ (∀ (p : Fin 8) (gear loss : Nat) (s : State), s.awake = true → (s.port p).training = true →
    (∃ t : State, exec (.linkTraining p true gear loss) s = .next t ∧ (t.port p).trained = true ∧ (t.port p).training = false ∧ (t.port p).capWait = true
      ∧ (t.port p).fails = 0 ∧ t.get (R.ingPortLinkLoss p) = min 1023 loss
      ∧ t.get (R.ingPortLinkLenCm p) =
          (let c := coaxCoef (s.get (R.ingPortCfgCoaxClass p))
           if s.get c.1 = 0 then 0 else min 16383 (1000 * (min 1023 loss - s.get c.2) / s.get c.1))
      ∧ 1 ≤ t.get (R.ingPortLinkGear p) ∧ t.get (R.ingPortLinkGear p) ≤ 5 ∧ (∀ r : Fin 8, r ≠ p → t.port r = s.port r)
      ∧ s.keepsRegs t [(R.ingPortLinkLoss p).key, (R.ingPortLinkLenCm p).key, (R.ingPortLinkGear p).key])
    ∧ (∃ t : State, exec (.linkTraining p false gear loss) s = .next t ∧ (t.port p).trained = (s.port p).trained ∧ (t.port p).fails = (s.port p).fails + 1
      ∧ ((t.port p).training = true ↔ (s.port p).fails + 1 < 3) ∧ t.get (R.ingPortLinkLoss p) = min 1023 loss
      ∧ s.keepsRegs t [(R.ingPortLinkLoss p).key, (R.ingPortLinkLenCm p).key]))
  ∧ (∀ (p : Fin 8) (s : State), s.awake = true →
    ((s.port p).trained = true →
      ∃ t : State, exec (.linkLoss p) s = .next t ∧ t.get (R.ingPortLinkUp p) = 0 ∧ (t.port p).training = true ∧ (t.port p).trained = false
        ∧ (t.port p).fails = 0 ∧ (t.port p).tb = none ∧ (t.port p).queue = (s.port p).queue
        ∧ t.get (R.ingCntLinkdown p) = (if s.flag (R.ingPortLinkUp p) then (s.get (R.ingCntLinkdown p) + 1) % 2 ^ 32 else s.get (R.ingCntLinkdown p))
        ∧ s.keepsRegs t [(R.ingPortLinkUp p).key, (R.ingCntLinkdown p).key])
    ∧ ((s.port p).trained = false → exec (.linkLoss p) s = .next s))

/-- Camera control transactions and current limits. GO starts a camera control transaction with the direction and length written with it and has no
effect while BUSY, and a write without GO sets the fields of the next one; at its end BUSY falls, NACK says whether a byte was not acknowledged, and
the data is what was read (CCI_DATA otherwise: log entry 151); a capability read sets UP and the capability registers; a current sample forms the mean
of the last 16 codes (log entry 17) and sets OVER and UNDER of an enabled port by the thresholds that are not 0, and nothing else. (R68, R70.) -/
def Obligations.CameraControlAndCurrent : Prop :=
  (∀ (p : Fin 8) (v : Word) (s : State), s.served = true →
    (bit v.toNat 30 = true → s.flag (R.ingPortCciCtlBusy p) = true → exec (.cciGo p v) s = .next s.touch)
    ∧ (bit v.toNat 30 = true → s.flag (R.ingPortCciCtlBusy p) = false →
      ∃ t : State, exec (.cciGo p v) s = .next t ∧ t.get (R.ingPortCciCtlBusy p) = 1 ∧ t.get (R.ingPortCciCtlDev p) = bits v.toNat 0 7
        ∧ t.get (R.ingPortCciCtlRead p) = bits v.toNat 7 1 ∧ t.get (R.ingPortCciCtlReg p) = bits v.toNat 8 16
        ∧ t.get (R.ingPortCciCtlLenM1 p) = bits v.toNat 24 2 ∧ t.get (R.ingPortCciCtlReg16 p) = bits v.toNat 26 1
        ∧ (t.port p).cciRead = bit v.toNat 7 ∧ (t.port p).cciLen = bits v.toNat 24 2 ∧ (∀ r : Fin 8, r ≠ p → t.port r = s.port r)
        ∧ s.keepsRegs t [(R.ingPortCciCtlBusy p).key, (R.ingPortCciCtlDev p).key, (R.ingPortCciCtlRead p).key, (R.ingPortCciCtlReg p).key,
            (R.ingPortCciCtlLenM1 p).key, (R.ingPortCciCtlReg16 p).key])
    ∧ (bit v.toNat 30 = false →
      ∃ t : State, exec (.cciGo p v) s = .next t ∧ t.get (R.ingPortCciCtlDev p) = bits v.toNat 0 7 ∧ t.get (R.ingPortCciCtlRead p) = bits v.toNat 7 1
        ∧ t.get (R.ingPortCciCtlReg p) = bits v.toNat 8 16 ∧ t.get (R.ingPortCciCtlLenM1 p) = bits v.toNat 24 2
        ∧ t.get (R.ingPortCciCtlReg16 p) = bits v.toNat 26 1 ∧ t.ing = s.ing
        ∧ s.keepsRegs t [(R.ingPortCciCtlDev p).key, (R.ingPortCciCtlRead p).key, (R.ingPortCciCtlReg p).key,
            (R.ingPortCciCtlLenM1 p).key, (R.ingPortCciCtlReg16 p).key]))
  ∧ (∀ (p : Fin 8) (nack : Bool) (data : Word) (s : State), s.awake = true → s.flag (R.ingPortCciCtlBusy p) = true →
    ∃ t : State, exec (.cciTransactionEnd p nack data) s = .next t ∧ t.get (R.ingPortCciCtlBusy p) = 0 ∧ t.get (R.ingPortCciCtlNack p) = b2n nack
      ∧ ((s.port p).cciRead = true → nack = false →
          t.get (R.ingPortCciDataData p) = data.toNat % 2 ^ (8 * ((s.port p).cciLen + 1)) % 2 ^ 32)
      ∧ ((s.port p).cciRead = false ∨ nack = true → t.get (R.ingPortCciDataData p) = s.get (R.ingPortCciDataData p))
      ∧ s.keepsRegs t [(R.ingPortCciCtlBusy p).key, (R.ingPortCciCtlNack p).key, (R.ingPortCciDataData p).key])
  ∧ (∀ (p : Fin 8) (ack : Bool) (data : List Byte) (s : State), s.awake = true → (s.port p).capWait = true →
    ∃ t : State, exec (.capabilityRead p ack data) s = .next t ∧ t.get (R.ingPortLinkUp p) = 1 ∧ (t.port p).capWait = false
      ∧ (t.get (R.ingPortLinkCapValid p) = 1 ↔ s.flag (R.ingPortCapCfgEn p) = true ∧ ack = true ∧ leAt data 11 1 = 1)
      ∧ (s.flag (R.ingPortCapCfgEn p) = true → ack = true → ∀ i : Fin 4, t.get (R.ingPortCapCap p i) = leAt data (4 * i) 4)
      ∧ s.keepsRegs t [(R.ingPortLinkUp p).key, (R.ingPortLinkCapValid p).key, (R.ingPortCapCap p 0).key, (R.ingPortCapCap p 1).key,
          (R.ingPortCapCap p 2).key, (R.ingPortCapCap p 3).key])
  ∧ (∀ (p : Fin 8) (code : BitVec 12) (s : State), s.awake = true →
    let l := ((s.port p).codes ++ [code.toNat]).drop ((s.port p).codes.length + 1 - 16)
    ∃ (t : State) (ma : Nat), exec (.cameraCurrentSample p code) s = .next t ∧ (t.port p).codes = l ∧ t.get (R.ingPortIsnsCurMa p) = ma % 2 ^ 16
      ∧ (l.length ≠ 16 → ma < 2 ^ 16) ∧ (l.length = 16 → ma = l.sum * s.get (R.ingPortIsnsCfgScaleUa p) / (16 * 1000))
      ∧ (s.portOn p = true → s.get (R.ingPortIsnsCfgOver10ma p) ≠ 0 → 10 * s.get (R.ingPortIsnsCfgOver10ma p) < ma → t.get (R.ingPortIsnsOver p) = 1)
      ∧ (s.portOn p = true → s.get (R.ingPortIsnsCfgUnder10ma p) ≠ 0 → ma < 10 * s.get (R.ingPortIsnsCfgUnder10ma p) → t.get (R.ingPortIsnsUnder p) = 1)
      ∧ (s.portOn p = false ∨ s.get (R.ingPortIsnsCfgOver10ma p) = 0 ∨ ma ≤ 10 * s.get (R.ingPortIsnsCfgOver10ma p) →
          t.get (R.ingPortIsnsOver p) = s.get (R.ingPortIsnsOver p))
      ∧ (s.portOn p = false ∨ s.get (R.ingPortIsnsCfgUnder10ma p) = 0 ∨ 10 * s.get (R.ingPortIsnsCfgUnder10ma p) ≤ ma →
          t.get (R.ingPortIsnsUnder p) = s.get (R.ingPortIsnsUnder p))
      ∧ s.keepsRegs t [(R.ingPortIsnsCurMa p).key, (R.ingPortIsnsOver p).key, (R.ingPortIsnsUnder p).key])

/-- Rebase triples. The first pair of a packet commits the first triple, with its quality (log entry 57); every 100 ms an enabled port with a valid
triple commits the line fitted through the kept pairs of the last second (a free function, log entry 18), with spread, lock and its loss, and fewer
than two pairs commit nothing. (R52, R379, R380, R381.) -/
def Obligations.RebaseTriplesCommitted : Prop :=
  (∀ (p : Fin 8) (x : StampPair) (s : State), s.awake = true → (s.port p).first = .pair x →
    ∃ t : State, exec (.firstTripleCommit p) s = .next t ∧ t.get (R.ingPortRbAnchorAnchor p) = x.s % 2 ^ 32 ∧ t.get (R.ingPortRbOfsOfs p) = x.t % 2 ^ 64
      ∧ t.get (R.ingPortRbRateRate p) = 1000 * 2 ^ 32 ∧ t.get (R.ingPortRbCtlValid p) = 1 ∧ (t.port p).first = .idle
      ∧ t.get (R.timRbQualPpm p) = 0 ∧ (t.get (R.timRbQualLocked p) = 1 → 50 ≤ (s.lastBins p).length)
      ∧ ((s.lastBins p).length < 50 → s.flag (R.timRbQualLocked p) = true → t.get (R.timRbQualLocked p) = 0
          ∧ t.get R.cntRbUnlock = (s.get R.cntRbUnlock + 1) % 2 ^ 32)
      ∧ s.keepsRegs t [(R.ingPortRbAnchorAnchor p).key, (R.ingPortRbOfsOfs p).key, (R.ingPortRbRateRate p).key, (R.ingPortRbCtlValid p).key,
          (R.timRbQualSpreadNs p).key, (R.timRbQualPpm p).key, (R.timRbQualLocked p).key, R.cntRbUnlock.key])
  ∧ (∀ (p : Fin 8) (s : State), s.awake = true → s.portOn p = true → s.flag (R.ingPortRbCtlValid p) = true → (s.rb p).lastFit + 100000000 ≤ s.now →
    let bins := (s.rb p).bins.filter fun b => decide (s.now / 10000000 < b.1 + 100)
    (∀ last : Nat × StampPair, bins.getLast? = some last → 2 ≤ bins.length →
      let fit := Config.fitLine (bins.map fun b => (b.2.s, b.2.t))
      let sp := (bins.map fun b => ((b.2.t : Int) - rebase last.2.s (fit.1 % 2 ^ 64) (fit.2 % 2 ^ 64) b.2.s).natAbs).foldl max 0
      ∃ t : State, exec (.rebaseEstimate p) s = .next t ∧ t.get (R.ingPortRbAnchorAnchor p) = last.2.s % 2 ^ 32
        ∧ t.get (R.ingPortRbOfsOfs p) = fit.1 % 2 ^ 64 ∧ t.get (R.ingPortRbRateRate p) = fit.2 % 2 ^ 64 ∧ t.get (R.ingPortRbCtlValid p) = 1
        ∧ t.get (R.timRbQualSpreadNs p) = min 65535 sp ∧ (t.get (R.timRbQualLocked p) = 1 ↔ 50 ≤ bins.length ∧ sp ≤ s.get (R.timRbCfgLockNs p))
        ∧ (s.flag (R.timRbQualLocked p) = true → t.get (R.timRbQualLocked p) = 0 → t.get R.cntRbUnlock = (s.get R.cntRbUnlock + 1) % 2 ^ 32)
        ∧ (t.rb p).lastFit = s.now
        ∧ s.keepsRegs t [(R.ingPortRbAnchorAnchor p).key, (R.ingPortRbOfsOfs p).key, (R.ingPortRbRateRate p).key, (R.ingPortRbCtlValid p).key,
            (R.timRbQualSpreadNs p).key, (R.timRbQualPpm p).key, (R.timRbQualLocked p).key, R.cntRbUnlock.key])
    ∧ (bins.length < 2 → ∃ t : State, exec (.rebaseEstimate p) s = .next t ∧ (t.rb p).lastFit = s.now ∧ s.keepsRegs t []))

/-- Long packets are decoded. A long packet with a bad header counts a CRC error, one without a layout or channel is counted unmapped (and by its CRC,
log entry 153), one with a bad payload CRC is not decoded; a time base word moves the time base; an AE64 word inside the sensor goes straight to the
rebase stage, or is queued (8 bytes, log entry 15), shed or lost to a full buffer (path: log entry 152), and outside it is counted out of range. (R39,
R40, R42, R45, R46, R49, R60, R61, R62, R63.) -/
def Obligations.LongPacketsAreDecoded : Prop :=
  ∀ (p : Fin 8) (k : Packet) (s : State), s.phase = .sail → s.halted = false →
    ((s.port p).trained = false → exec (.longPacket p k) s = .next s.touch)
    ∧ ((s.port p).trained = true →
      (k.hdrOk = false →
        ∃ t : State, exec (.longPacket p k) s = .next t ∧ t.get (R.ingCntCrc p) = (s.get (R.ingCntCrc p) + 1) % 2 ^ 32 ∧ (t.port p).tb = none
          ∧ (t.port p).queue = (s.port p).queue ∧ s.keepsRegs t [(R.ingCntCrc p).key])
      ∧ (k.hdrOk = true → (k.vc ≠ s.get (R.ingPortCfgVc p) ∨ s.layoutOf p k.dt = none) →
        ∃ t : State, exec (.longPacket p k) s = .next t ∧ t.get (R.ingCntUnmapped p) = (s.get (R.ingCntUnmapped p) + 1) % 2 ^ 32 ∧ t.ing = s.ing
          ∧ t.get (R.ingCntCrc p) = (if k.crcOk then s.get (R.ingCntCrc p) else (s.get (R.ingCntCrc p) + 1) % 2 ^ 32)
          ∧ s.keepsRegs t [(R.ingCntUnmapped p).key, (R.ingCntCrc p).key])
      ∧ (∀ l : Layout, k.hdrOk = true → k.vc = s.get (R.ingPortCfgVc p) → s.layoutOf p k.dt = some l → s.get R.hifSvcMode ≠ 2 → (s.port p).fiHeld = none →
        (k.crcOk = false →
          ∃ t : State, exec (.longPacket p k) s = .next t ∧ t.get (R.ingCntCrc p) = (s.get (R.ingCntCrc p) + 1) % 2 ^ 32
            ∧ (t.port p).tb = (if l = .ae64 then (s.port p).tb else none) ∧ (t.port p).queue = (s.port p).queue ∧ s.keepsRegs t [(R.ingCntCrc p).key])
        ∧ (∀ w : BitVec 32, l = .ct32 → k.crcOk = true → k.payload = leBytes w.toNat 4 → bit w.toNat 0 = true → bits w.toNat 1 3 = 0 →
          ∃ t : State, exec (.longPacket p k) s = .next t ∧ (t.port p).tb = some (bits w.toNat 4 28) ∧ (t.port p).queue = (s.port p).queue
            ∧ s.keepsRegs t [])
        ∧ (∀ w : BitVec 64, l = .ae64 → k.crcOk = true → k.payload = leBytes w.toNat 8 → bits w.toNat 56 8 = 0xAE →
          let e : Event := ⟨bits w.toNat 0 32, bits w.toNat 32 11, bits w.toNat 43 11, bit w.toNat 54, false⟩
          let out := s.get (R.ingPortGeomWidthM1 p) < e.x ∨ min 1535 (s.get (R.ingPortGeomHeightM1 p)) < e.y
          (out → ∃ t : State, exec (.longPacket p k) s = .next t ∧ t.get (R.ingCntIn p) = (s.get (R.ingCntIn p) + 1) % 2 ^ 32
            ∧ t.get (R.ingCntRange p) = (s.get (R.ingCntRange p) + 1) % 2 ^ 32 ∧ (t.port p).queue = (s.port p).queue
            ∧ s.keepsRegs t [(R.ingCntIn p).key, (R.ingCntRange p).key])
          ∧ (¬out → s.offline 2 = false → s.offline 3 = false →
            (s.flag (R.ingPortBufShedding p) = true → s.flag (R.ingPortCfgShed p) = true →
              ∃ t : State, exec (.longPacket p k) s = .next t ∧ t.get (R.ingCntIn p) = (s.get (R.ingCntIn p) + 1) % 2 ^ 32
                ∧ t.get (R.ingCntShed p) = (s.get (R.ingCntShed p) + 1) % 2 ^ 32 ∧ (t.port p).queue = (s.port p).queue
                ∧ s.keepsRegs t [(R.ingCntIn p).key, (R.ingCntShed p).key])
            ∧ (s.flag (R.ingPortBufShedding p) = false ∨ s.flag (R.ingPortCfgShed p) = false →
              s.direct p e = true →
              ∃ t : State, exec (.longPacket p k) s = .next t ∧ t.get (R.ingCntIn p) = (s.get (R.ingCntIn p) + 1) % 2 ^ 32
                ∧ (t.port p).path = (s.port p).path ++ [e] ∧ (t.port p).queue = (s.port p).queue ∧ s.keepsRegs t [(R.ingCntIn p).key])
            ∧ (s.flag (R.ingPortBufShedding p) = false ∨ s.flag (R.ingPortCfgShed p) = false →
              s.direct p e = false → (s.port p).queue.length < 524288 →
              ∃ t : State, exec (.longPacket p k) s = .next t ∧ t.get (R.ingCntIn p) = (s.get (R.ingCntIn p) + 1) % 2 ^ 32
                ∧ (t.port p).queue = (s.port p).queue ++ [e]
                ∧ (s.flag (R.ingPortBufShedding p) = false →
                    (t.get (R.ingPortBufShedding p) = 1 ↔ max 1 (min 63 (s.get (R.ingPortWmHwm p))) * 65536 < 8 * ((s.port p).queue.length + 1)))
                ∧ s.keepsRegs t [(R.ingCntIn p).key, (R.ingPortBufOcc p).key, (R.ingPortBufShedding p).key])
            ∧ (s.flag (R.ingPortBufShedding p) = false ∨ s.flag (R.ingPortCfgShed p) = false →
              524288 ≤ (s.port p).queue.length →
              ∃ t : State, exec (.longPacket p k) s = .next t ∧ (t.port p).queue = (s.port p).queue
                ∧ (s.heldHead p = true → t.get (R.ingCntHoldDrop p) = (s.get (R.ingCntHoldDrop p) + 1) % 2 ^ 32)
                ∧ (s.heldHead p = false → t.get (R.ingCntOvf p) = (s.get (R.ingCntOvf p) + 1) % 2 ^ 32)
                ∧ s.keepsRegs t [(R.ingCntIn p).key, (R.ingCntHoldDrop p).key, (R.ingCntOvf p).key])))))

/-- The rebase stage accepts, holds or discards an event. With one event waiting, in the path or the buffer of a port, a rebase cycle computes its
device time by the triple, discards it as stale or in the future by the limits, keeps it under a hold, while its region is initialised, or without a
credit (log entry 16), and otherwise commits its word to the engine of its pixel with late, clamp, shed and poison marks; a failed parity check is
counted. (R51, R53, R54, R55, R56, R57, R58, R59.) -/
def Obligations.RebaseCommitsOrDiscards : Prop :=
  ∀ (p : Fin 8) (e : Event) (inPath : Bool) (bad : Nat) (s : State), s.awake = true → s.ctl.staleMark = false → s.ctl.lateMark = none →
    (s.port p).path = (if inPath then [e] else []) → (s.port p).queue = (if inPath then [] else [e]) →
    (∀ r : Fin 8, r ≠ p → (s.port r).queue = [] ∧ (s.port r).path = []) →
    let d := wrapDiff 32 e.stamp (s.get (R.ingPortRbAnchorAnchor p))
    let dt : Int := (s.get (R.ingPortRbOfsOfs p) : Int) + (d * (s.get (R.ingPortRbRateRate p) : Int)).fdiv (2 ^ 32)
    let age : Int := (max 1 (min 4000 (s.get (R.ingPortLimitAgeMs p))) * 1000000 : Nat)
    let lead : Int := (min (s.get (R.ingPortLimitLeadUs p)) 1000 * 1000 : Nat)
    let g := engineOf e.x e.y
    let t : Int := if (s.now : Int) < dt then s.now else dt
    let inForce := fun T : Nat => s.ctl.hold = some T ∨ (s.ctl.hold = none ∧ s.ctl.holdAt = some T ∧ T * 25000 ≤ s.now)
    let gone := fun u : State => (u.port p).queue = [] ∧ (u.port p).path = []
        ∧ (bit bad p = true → u.get R.cntParity = (s.get R.cntParity + 1) % 2 ^ 32)
    let stays := fun u : State => (u.port p).queue = [e] ∧ (u.port p).path = [] ∧ u.ing.words = s.ing.words
    (s.flag (R.ingPortRbCtlValid p) = false →
      ∃ u : State, exec (.rebaseCycle bad) s = .next u ∧ gone u ∧ u.get (R.ingCntStale p) = (s.get (R.ingCntStale p) + 1) % 2 ^ 32
        ∧ u.ing.words = s.ing.words)
    ∧ (s.flag (R.ingPortRbCtlValid p) = true →
      (∀ T : Nat, inForce T → (T * 25000 : Int) ≤ dt →
        ∃ u : State, exec (.rebaseCycle bad) s = .next u ∧ stays u ∧ u.heldHead p = true)
      ∧ ((∀ T : Nat, inForce T → dt < (T * 25000 : Int)) →
        (dt < (s.now : Int) - age →
          ∃ u : State, exec (.rebaseCycle bad) s = .next u ∧ gone u ∧ u.get (R.ingCntStale p) = (s.get (R.ingCntStale p) + 1) % 2 ^ 32
            ∧ u.ing.words = s.ing.words)
        ∧ ((s.now : Int) - age ≤ dt → (s.now : Int) + lead < dt →
          ∃ u : State, exec (.rebaseCycle bad) s = .next u ∧ gone u ∧ u.get (R.ingCntFuture p) = (s.get (R.ingCntFuture p) + 1) % 2 ^ 32
            ∧ u.ing.words = s.ing.words)
        ∧ ((s.now : Int) - age ≤ dt → dt ≤ (s.now : Int) + lead → bit s.cv.inits p = true →
            ∃ u : State, exec (.rebaseCycle bad) s = .next u ∧ stays u)
        ∧ ((s.now : Int) - age ≤ dt → dt ≤ (s.now : Int) + lead → bit s.cv.inits p = false →
          ((s.words g).length < s.ing.pool →
            ∃ u : State, exec (.rebaseCycle bad) s = .next u ∧ gone u ∧ u.get (R.ingCntCommit p) = (s.get (R.ingCntCommit p) + 1) % 2 ^ 32
              ∧ u.words g = s.words g ++ [(t.fdiv 1000 % 2 ^ 24).toNat + 2 ^ 24 * (e.x % 2048) + 2 ^ 35 * (e.y % 2048) + 2 ^ 46 * b2n e.pol
                  + 2 ^ 47 * p.val + 2 ^ 50 * b2n (s.flag (R.ingPortBufShedding p) && !s.flag (R.ingPortCfgShed p))
                  + 2 ^ 51 * b2n (decide (t < ((s.tick * 25000 : Nat) : Int))) + 2 ^ 64 * b2n (e.poison || bit bad p)]
              ∧ u.get (R.ingCntClamp p) = (if (s.now : Int) < dt then (s.get (R.ingCntClamp p) + 1) % 2 ^ 32 else s.get (R.ingCntClamp p))
              ∧ u.get (R.ingCntLate p) = (if t < ((s.tick * 25000 : Nat) : Int) then (s.get (R.ingCntLate p) + 1) % 2 ^ 32
                  else s.get (R.ingCntLate p)))
          ∧ (s.ing.pool ≤ (s.words g).length →
            ∃ u : State, exec (.rebaseCycle bad) s = .next u ∧ stays u))))

/-- IMU masters. An IMU master is enabled where all elements fit and takes no configuration while enabled (log entry 81); a transfer sends LEN bytes
and replaces them by those received; data ready edges that pass the glitch filter begin a read, which sends the command bytes, are latched during one,
and overrun; a completed read gives each channel that selects an element its signed value at the stamp of the edge. (R232, R233, R234, R260, R503.) -/
def Obligations.ImuMastersRead : Prop :=
  (∀ (i : Fin 2) (v : Word) (s : State), s.served = true →
    let fits := (∀ e : Fin 6, bits (s.get (R.fltImuOfsOfs i)) (5 * e) 5 + (if bit v.toNat 2 then 3 else 2) ≤ bits v.toNat 16 5)
      ∧ s.get (R.fltImuOfs6Ofs6 i) + (if bit v.toNat 2 then 3 else 2) ≤ bits v.toNat 16 5
    (s.flag (R.fltImuCfgEn i) = true →
      ∃ t : State, exec (.imuEnable i v) s = .next t ∧ t.get R.fltStatusRunWrite = 1 ∧ t.flt = s.flt ∧ s.keepsRegs t [R.fltStatusRunWrite.key])
    ∧ (s.flag (R.fltImuCfgEn i) = false → bit v.toNat 0 = true → fits →
      ∃ t : State, exec (.imuEnable i v) s = .next t ∧ t.get (R.fltImuCfgEn i) = 1 ∧ t.get (R.fltImuCfgW24 i) = bits v.toNat 2 1
        ∧ t.get (R.fltImuCfgBe i) = bits v.toNat 3 1 ∧ t.get (R.fltImuCfgRdLen i) = bits v.toNat 16 5 ∧ t.get (R.fltImuCfgSclkDiv i) = bits v.toNat 4 8
        ∧ t.get R.fltStatusCfgErr = s.get R.fltStatusCfgErr ∧ t.flt = s.flt)
    ∧ (s.flag (R.fltImuCfgEn i) = false → bit v.toNat 0 = true → ¬fits →
      ∃ t : State, exec (.imuEnable i v) s = .next t ∧ t.flag (R.fltImuCfgEn i) = false ∧ t.get R.fltStatusCfgErr = 1 ∧ t.flt = s.flt)
    ∧ (bit v.toNat 30 = true → s.flag (R.fltImuCfgEn i) = false →
      ∃ t : State, exec (.imuXfer i v) s = .next t ∧ t.get (R.fltImuXferCtlBusy i) = 1 ∧ t.get (R.fltImuXferCtlLen i) = bits v.toNat 0 4
        ∧ (t.imu i).sent = leBytes (s.get (R.fltImuXferDataData i)) (min 8 (bits v.toNat 0 4))
        ∧ s.keepsRegs t [(R.fltImuXferCtlBusy i).key, (R.fltImuXferCtlLen i).key])
    ∧ (s.flag (R.fltImuCfgEn i) = true →
      ∃ t : State, exec (.imuXfer i v) s = .next t ∧ t.get (R.fltImuXferCtlBusy i) = s.get (R.fltImuXferCtlBusy i)
        ∧ s.keepsRegs t [(R.fltImuXferCtlLen i).key]))
  ∧ (∀ (i : Fin 2) (data : List Byte) (s : State), s.awake = true → s.flag (R.fltImuXferCtlBusy i) = true →
    data.length = s.get (R.fltImuXferCtlLen i) → data.length ≤ 8 →
    ∃ t : State, exec (.imuXferDone i data) s = .next t ∧ t.get (R.fltImuXferCtlBusy i) = 0
      ∧ leBytes (t.get (R.fltImuXferDataData i)) 8 = data ++ (leBytes (s.get (R.fltImuXferDataData i)) 8).drop data.length
      ∧ s.keepsRegs t [(R.fltImuXferCtlBusy i).key, (R.fltImuXferDataData i).key])
  ∧ (∀ (i : Fin 2) (held : Nat) (s : State), s.awake = true → s.flag (R.fltImuCfgEn i) = true →
    (held < s.filterNs (drdyFilter i) → exec (.drdyEdge i held) s = .next s)
    ∧ (s.filterNs (drdyFilter i) ≤ held →
    ((s.imu i).reading = none →
      ∃ t : State, exec (.drdyEdge i held) s = .next t ∧ t.imu i = { s.imu i with
          reading := some s.now, sent := leBytes (s.get (R.fltImuCmdCmd i)) (s.get (R.fltImuCfgCmdLenM1 i) + 1) } ∧ s.keepsRegs t [])
    ∧ (∀ a : Nat, (s.imu i).reading = some a → (s.imu i).latched = none →
      ∃ t : State, exec (.drdyEdge i held) s = .next t ∧ t.imu i = { s.imu i with latched := some s.now } ∧ s.keepsRegs t [])
    ∧ (∀ a b : Nat, (s.imu i).reading = some a → (s.imu i).latched = some b →
      let c := if i.val = 0 then R.cntDrdyOvr0 else R.cntDrdyOvr1
      ∃ t : State, exec (.drdyEdge i held) s = .next t ∧ t.imu i = { s.imu i with latched := some s.now } ∧ t.get c = (s.get c + 1) % 2 ^ 32
        ∧ s.keepsRegs t [c.key])))
  ∧ (∀ (i : Fin 2) (e : Fin 7) (n : Fin 32) (data : List Byte) (a perr : Nat) (s : State), s.awake = true → (s.imu i).reading = some a →
    s.chanOn n = true → s.get (R.fltChSrcSrc n) = 0x10 + 8 * i + e →
    (∀ k : Fin 32, k ≠ n → s.chanOn k = true → s.get (R.fltChSrcSrc k) < 0x10 + 8 * i ∨ 0x16 + 8 * i < s.get (R.fltChSrcSrc k)) →
    let w := if s.flag (R.fltImuCfgW24 i) then 3 else 2
    let rl := s.get (R.fltImuCfgRdLen i)
    let b := slice ((data ++ List.replicate rl 0).take rl) (if e.val = 6 then s.get (R.fltImuOfs6Ofs6 i) else bits (s.get (R.fltImuOfsOfs i)) (5 * e) 5) w
    let gap := match (s.chan n).lastRaw with | some p => decide (p + 2 * s.get (R.fltChNomNomNs n) < a) | none => false
    ∃ t : State, exec (.imuReadComplete i data perr) s = .next t ∧ (t.imu i).reading = (s.imu i).latched ∧ (t.imu i).latched = none
      ∧ (t.chan n).lastRaw = some a ∧ (t.chan n).raw = (if gap then 0 else (s.chan n).raw) + 1
      ∧ (t.chan n).fir.head? = some (toSigned (8 * w) (leNat (if s.flag (R.fltImuCfgBe i) then b.reverse else b)))
      ∧ (∀ k : Fin 32, k ≠ n → t.chan k = s.chan k))

/-- Filter channels. A channel is enabled and restarts where source, rate and the multiply budget allow, and sets CFG_ERR otherwise; an output due is
formed by the resampler, rounding, saturation, scale and offset, reaches the FTU unless a stop holds it, and settles only after its raw samples (exact
phase: log entry 82); a gap of the source restarts the channel. (R249, R250, R251, R252, R253, R254, R255, R259.) -/
def Obligations.FilterChannelsRun : Prop :=
  (∀ (n : Fin 32) (s : State), s.served = true → s.chanOn n = false →
    let on := (List.range 32).filter fun i => i == n.val || s.chanOn i
    let ok := s.srcOk (s.get (R.fltChSrcSrc n)) = true ∧ s.get (R.fltChNomNomNs n) * s.get (R.fltChCicRate n) ≤ 250000 ∧ s.macsOk on = true
    (ok → ∃ t : State, exec (.channelEnable n) s = .next t ∧ t.get R.fltChEnEn = setBit (s.get R.fltChEnEn) n true % 2 ^ 32
      ∧ t.get R.cntRestart = (s.get R.cntRestart + 1) % 2 ^ 32 ∧ (t.chan n).fir = [] ∧ (t.chan n).ints = [] ∧ (t.chan n).combs = []
      ∧ (t.chan n).hist = [] ∧ (t.chan n).phase = 0 ∧ (t.chan n).raw = 0 ∧ (t.chan n).lastRaw = none ∧ t.get (R.fltChStatSettled n) = 0
      ∧ (256 * s.now : Nat) < s.evalAt n (t.chan n).next ∧ (t.chan n).next % s.outDiv n = 0)
    ∧ (¬ok → ∃ t : State, exec (.channelEnable n) s = .next t ∧ t.get R.fltChEnEn = s.get R.fltChEnEn ∧ t.get R.fltStatusCfgErr = 1 ∧ t.flt = s.flt
      ∧ s.keepsRegs t [R.fltStatusCfgErr.key]))
  ∧ (∀ (n : Fin 32) (perr : Bool) (s : State), s.awake = true → s.chanOn n = true →
    let m := (s.chan n).next
    let v := code32 (add32 (mul32 (ofInteger (sat24 (rndShift (s.resample n (s.phaseOf n (s.evalAt n m)).1) 15)).1) (f32 (s.get (R.fltChScaleOutScale n))))
      (f32 (s.get (R.fltChOfsOutOfs n))))
    ((256 * s.now : Nat) < s.evalAt n m + (256 * s.get (R.fltChRsWaitNs n) : Nat) → exec (.resamplerTimeout n perr) s = .next s)
    ∧ (s.evalAt n m + (256 * s.get (R.fltChRsWaitNs n) : Nat) ≤ (256 * s.now : Nat) → (s.chan n).raw < s.settleLen n →
      ∃ t : State, exec (.resamplerTimeout n perr) s = .next t ∧ (t.chan n).next = m + s.outDiv n ∧ t.ftu = s.ftu
        ∧ s.keepsRegs t [R.fltStatusCoefPerr.key])
    ∧ (s.evalAt n m + (256 * s.get (R.fltChRsWaitNs n) : Nat) ≤ (256 * s.now : Nat) → s.settleLen n ≤ (s.chan n).raw →
      ∃ t : State, exec (.resamplerTimeout n perr) s = .next t ∧ (t.chan n).next = m + s.outDiv n ∧ (t.chan n).lastInstant = m * 25000
        ∧ ((∀ T : Nat, s.flt.stopAt = some T → m < T) → t.get R.cntOut = (s.get R.cntOut + 1) % 2 ^ 32
            ∧ ∃ x : Sample, t.ftu.inbox = s.ftu.inbox ++ [x] ∧ x.origin = .chan n ∧ x.stamp = m * 25000 ∧ x.vals = [v] ∧ x.poison = ((s.chan n).perr || perr))
        ∧ (∀ T : Nat, s.flt.stopAt = some T → T ≤ m → t.get R.cntOut = s.get R.cntOut ∧ t.ftu = s.ftu)
        ∧ (perr = true → t.get R.fltStatusCoefPerr = 1)
        ∧ ((s.phaseOf n (s.evalAt n m)).2 = true → t.get R.cntStretch = (s.get R.cntStretch + 1) % 2 ^ 32)
        ∧ (s.flag (R.fltChThraCfgEn n) = false → s.flag (R.fltChThrbCfgEn n) = false →
            s.keepsRegs t [R.cntOut.key, R.cntStretch.key, R.cntSat.key, R.fltStatusCoefPerr.key, R.fltThrOutLevel.key])))
  ∧ (∀ (n : Fin 32) (p : Nat) (s : State), s.awake = true → s.chanOn n = true → (s.chan n).lastRaw = some p →
    (p + 2 * s.get (R.fltChNomNomNs n) + s.get (R.fltChRsWaitNs n) < s.now →
      ∃ t : State, exec (.channelGapRestart n) s = .next t ∧ t.get R.cntRestart = (s.get R.cntRestart + 1) % 2 ^ 32 ∧ (t.chan n).fir = []
        ∧ (t.chan n).ints = [] ∧ (t.chan n).combs = [] ∧ (t.chan n).hist = [] ∧ (t.chan n).raw = 0 ∧ (t.chan n).lastRaw = none
        ∧ t.get (R.fltChStatSettled n) = 0 ∧ t.get R.fltChEnEn = s.get R.fltChEnEn
        ∧ ((s.chan n).thrA.en = true → t.get (R.fltChStatThraActive n) = 0)
        ∧ ((s.chan n).thrB.en = true → t.get (R.fltChStatThrbActive n) = 0)
        ∧ (∀ k : Fin 32, k ≠ n → t.chan k = s.chan k))
    ∧ (s.now ≤ p + 2 * s.get (R.fltChNomNomNs n) + s.get (R.fltChRsWaitNs n) → exec (.channelGapRestart n) s = .next s))

/-- Encoders, CAN and GNSS. Encoder transitions that pass the glitch filter count or are illegal (direction: log entry 22), samples are taken at
microseconds, CAN frames are acknowledged unless LISTEN is set, pass the filters and maps into a receive FIFO of 32 and leave it with the stamp of
their start (log entry 87), remote frames are ignored, bus errors send error frames and move the counters (log entry 26), and GNSS sentences and bytes
are checked, passed on and stamped (free values: log entry 88). (R235, R236, R237, R238, R239, R240, R241, R243, R244, R245.) -/
def Obligations.AuxiliaryInputsAreTaken : Prop :=
  (∀ (e : Fin 8) (a b : Bool) (held : Nat) (s : State), s.awake = true →
    (held < s.filterNs R.mgtPad5Filt → exec (.encoderTransition e a b held) s = .next s)
    ∧ (s.filterNs R.mgtPad5Filt ≤ held →
    let a0 := (s.enc e).a
    let b0 := (s.enc e).b
    (s.encOn e = true → a ≠ a0 → b ≠ b0 →
      ∃ t : State, exec (.encoderTransition e a b held) s = .next t ∧ t.get R.cntEncIllegal = (s.get R.cntEncIllegal + 1) % 2 ^ 32
        ∧ (t.enc e).a = a ∧ (t.enc e).b = b ∧ s.keepsRegs t [R.cntEncIllegal.key])
    ∧ (s.encOn e = true → ((a ≠ a0 ∧ b = b0) ∨ (a = a0 ∧ b ≠ b0)) →
      ∃ t : State, exec (.encoderTransition e a b held) s = .next t ∧ (t.enc e).a = a ∧ (t.enc e).b = b
        ∧ t.get (R.fltEncPosPos e) = (s.get (R.fltEncPosPos e)
            + (if decide (encSteps (bit (s.get R.fltEncCfgInvert) e) a0 b0 a b = 1) = Config.encoderUp then 1 else 2 ^ 32 - 1)) % 2 ^ 32
        ∧ (∀ inv : Bool, encSteps inv a0 b0 a b + encSteps (!inv) a0 b0 a b = 4) ∧ s.keepsRegs t [(R.fltEncPosPos e).key])
    ∧ (s.encOn e = false → ∃ t : State, exec (.encoderTransition e a b held) s = .next t ∧ (t.enc e).a = a ∧ (t.enc e).b = b ∧ s.keepsRegs t [])))
  ∧ (∀ (e : Fin 8) (n : Fin 32) (perr : Nat) (s : State), s.awake = true → s.encOn e = true → (s.enc e).us < s.now / 1000 → s.chanOn n = true →
    s.get (R.fltChSrcSrc n) = 0x20 + e →
    ∃ t : State, exec (.encoderSample e perr) s = .next t ∧ (t.enc e).prev = s.get (R.fltEncPosPos e) ∧ (t.enc e).us = s.now / 1000
      ∧ (t.chan n).lastRaw = some (s.now / 1000 * 1000)
      ∧ (t.chan n).fir.head? = some (clampInt (-(2 ^ 23)) (2 ^ 23 - 1) (wrapDiff 32 (s.get (R.fltEncPosPos e)) (s.enc e).prev)))
  ∧ (∀ (c : Fin 4) (sof perr : Nat) (fr : CanFrame) (s : State), s.canOn c = true → (fr.fd = true → s.flag (R.fltCanCfgFdEn c) = true) →
    let acked := fun t : State => (t.can c).sent = (if s.flag (R.fltCanCfgListen c) then (s.can c).sent else some .ack)
    (fr.remote = true →
      ∃ t : State, exec (.canFrame c sof fr 0 perr) s = .next t ∧ acked t ∧ t.get R.cntCanFrame = s.get R.cntCanFrame ∧ t.ftu = s.ftu
        ∧ (t.can c).fifo = (s.can c).fifo ∧ s.keepsRegs t [(R.fltCanStatRec c).key, (R.fltCanStatTec c).key, (R.fltCanStatState c).key])
    ∧ (fr.remote = false → 32 ≤ (s.can c).fifo.length →
      ∃ t : State, exec (.canFrame c sof fr 0 perr) s = .next t ∧ acked t ∧ t.get R.cntCanOvf = (s.get R.cntCanOvf + 1) % 2 ^ 32
        ∧ t.get R.cntCanFrame = s.get R.cntCanFrame ∧ (t.can c).fifo = (s.can c).fifo ∧ t.ftu = s.ftu)
    ∧ (fr.remote = false → (s.can c).fifo.length < 32 → (∀ f : Fin 64, s.canMatch f c fr = false) →
      ∃ t : State, exec (.canFrame c sof fr 0 perr) s = .next t ∧ acked t ∧ t.get R.cntCanFrame = (s.get R.cntCanFrame + 1) % 2 ^ 32
        ∧ t.get R.cntCanNomatch = (s.get R.cntCanNomatch + 1) % 2 ^ 32 ∧ t.ftu = s.ftu ∧ (t.can c).fifo = (s.can c).fifo
        ∧ s.keepsRegs t [R.cntCanFrame.key, R.cntCanNomatch.key, (R.fltCanStatRec c).key, (R.fltCanStatTec c).key, (R.fltCanStatState c).key])
    ∧ (∀ (f : Fin 64) (m : Fin 32), fr.remote = false → s.canMatch f c fr = true → (∀ g : Fin 64, g < f → s.canMatch g c fr = false) →
      s.flag (R.fltSigCfgEn m) = true → s.get (R.fltSigCfgFilter m) = f →
      (∀ k : Fin 32, k ≠ m → s.flag (R.fltSigCfgEn k) = false ∨ s.get (R.fltSigCfgFilter k) ≠ f) →
      let len := s.get (R.fltSigCfgLenM1 m) + 1
      let start := s.get (R.fltSigCfgStart m)
      let raw := canField fr.data (s.flag (R.fltSigCfgBe m)) start len
      let val : Int := if s.flag (R.fltSigCfgSigned m) then toSigned len raw else raw
      ((s.can c).fifo.length < 32 → start + len ≤ 8 * fr.data.length →
        ∃ t : State, exec (.canFrame c sof fr 0 perr) s = .next t ∧ acked t ∧ t.get R.cntCanFrame = (s.get R.cntCanFrame + 1) % 2 ^ 32
          ∧ (t.can c).fifo = (s.can c).fifo ++ [⟨sof, [⟨m, s.flag (R.fltSigDestDirect m), val⟩]⟩] ∧ t.ftu = s.ftu)
      ∧ ((s.can c).fifo.length < 32 → 8 * fr.data.length < start + len →
        ∃ t : State, exec (.canFrame c sof fr 0 perr) s = .next t ∧ t.get R.cntCanShort = (s.get R.cntCanShort + 1) % 2 ^ 32 ∧ t.ftu = s.ftu)
      ∧ ((s.can c).fifo = [] → start + len ≤ 8 * fr.data.length → s.flag (R.fltSigDestDirect m) = true →
        ∃ t : State, exec (.canFrame c sof fr 1 perr) s = .next t ∧ t.get R.cntCanFrame = (s.get R.cntCanFrame + 1) % 2 ^ 32 ∧ (t.can c).fifo = []
          ∧ ∃ x : Sample, t.ftu.inbox = s.ftu.inbox ++ [x] ∧ x.origin = .can m ∧ x.stamp = sof ∧ x.vals = [code32 (ofInteger val)])))
  ∧ (∀ (c : Fin 4) (k : Nat) (s : State), s.awake = true → s.flag (R.fltCanCfgEn c) = true → s.get (R.fltCanStatState c) ≠ 2 →
    (∃ t : State, exec (.canBusError c (.rx k)) s = .next t ∧ t.get (R.fltCanStatRec c) = min 255 (s.get (R.fltCanStatRec c) + k)
        ∧ (t.can c).sent = (if s.flag (R.fltCanCfgListen c) then (s.can c).sent
            else some (if s.get (R.fltCanStatState c) = 0 then .activeError else .passiveError)))
    ∧ (s.flag (R.fltCanCfgListen c) = true → exec (.canBusError c (.tx k)) s = .next s)
    ∧ (s.flag (R.fltCanCfgListen c) = false → 256 ≤ s.get (R.fltCanStatTec c) + k → ∃ t : State, exec (.canBusError c (.tx k)) s = .next t ∧ t.get (R.fltCanStatState c) = 2))
  ∧ (∀ (c : Fin 4) (s : State), s.awake = true → s.get (R.fltCanStatState c) = 2 →
    ∃ t : State, exec (.busOffRecovery c) s = .next t ∧ t.get (R.fltCanStatState c) = 0 ∧ t.get (R.fltCanStatRec c) = 0 ∧ t.get (R.fltCanStatTec c) = 0
      ∧ s.keepsRegs t [(R.fltCanStatRec c).key, (R.fltCanStatTec c).key, (R.fltCanStatState c).key])
  ∧ (∀ (at0 : Nat) (text : List Byte) (s : State), s.awake = true → s.flag R.fltGnssCfgEn = true → s.flag R.fltGnssCfgRaw = false →
    (sentenceBody text = none →
      ∃ t : State, exec (.gnssSentence at0 text) s = .next t ∧ t.get R.cntGnssBad = (s.get R.cntGnssBad + 1) % 2 ^ 32 ∧ t.ftu = s.ftu
        ∧ s.keepsRegs t [R.cntGnssBad.key])
    ∧ (∀ (body : List Byte) (fr : Nat) (l : List Nat), sentenceBody text = some body →
      ((splitAtByte 44 body).getD 0 []).length = 5 → ((splitAtByte 44 body).getD 0 []).drop 2 = [82, 77, 67] →
      utcFraction ((splitAtByte 44 body).getD 1 []) (s.free + 6) = some fr → rmcValues (fun n => (splitAtByte 44 body).getD n []) s.free = some l →
      ∃ (t : State) (x : Sample), exec (.gnssSentence at0 text) s = .next t ∧ t.get R.cntGnssSent = (s.get R.cntGnssSent + 1) % 2 ^ 32
        ∧ t.ftu.inbox = s.ftu.inbox ++ [x] ∧ x.origin = .rmc ∧ x.vals = l
        ∧ (∀ e : Nat, (SMap.get s.time.edges [] (s.get R.fltGnssCfgPpsTci)).find? (fun p => decide (p ≤ at0) && decide (at0 ≤ p + 10 ^ 9)) = some e →
            x.stamp = e + fr ∧ x.noPps = false)
        ∧ ((∀ e ∈ SMap.get s.time.edges [] (s.get R.fltGnssCfgPpsTci), at0 < e ∨ e + 10 ^ 9 < at0) → x.stamp = at0 ∧ x.noPps = true
            ∧ t.get R.cntGnssNopps = (s.get R.cntGnssNopps + 1) % 2 ^ 32)))
  ∧ (∀ (b : Byte) (s : State), s.awake = true → s.flag R.fltGnssCfgEn = true → s.flag R.fltGnssCfgRaw = true →
    (s.flt.gnss.length < 1024 → ∃ t : State, exec (.gnssByte b) s = .next t ∧ t.flt.gnss = s.flt.gnss ++ [b] ∧ t.ftu = s.ftu ∧ s.keepsRegs t [])
    ∧ (1024 ≤ s.flt.gnss.length → ∃ t : State, exec (.gnssByte b) s = .next t ∧ t.flt.gnss = s.flt.gnss
        ∧ t.get R.cntGnssRxovf = (s.get R.cntGnssRxovf + 1) % 2 ^ 32 ∧ s.keepsRegs t [R.cntGnssRxovf.key]))

/-- Control register writes. SNAP requests one snapshot at the next boundary, SVC takes a mode where R460 allows, CLEAR returns a latched reflex
output, and a die reset is taken in RECOVERY for offline dies only and ends 20 ms later with the die back and parked, or with a fatal fault. (R223,
R460, R467, R480.) -/
def Obligations.ControlRegisterWrites : Prop :=
  (∀ s : State, s.served = true →
    (∃ (t : State) (n : Nat), exec (.snap none) s = .next t ∧ s.keepsRegs t [] ∧ n * 25000 * 2 ^ 32 ≤ s.time.dev + 25000 * 2 ^ 32
      ∧ s.time.dev < n * 25000 * 2 ^ 32
      ∧ t.obs.snaps = (if (s.obs.snaps.any fun x => x.1 == 0) then s.obs.snaps else s.obs.snaps ++ [(0, n)]))
    ∧ (∀ f : Fin 8, ∃ (t : State) (n : Nat), exec (.snap (some f)) s = .next t ∧ s.keepsRegs t [] ∧ n * 25000 * 2 ^ 32 ≤ s.time.dev + 25000 * 2 ^ 32
      ∧ s.time.dev < n * 25000 * 2 ^ 32
      ∧ t.obs.snaps = (if (s.obs.snaps.any fun x => x.1 == f.val + 1) then s.obs.snaps else s.obs.snaps ++ [(f.val + 1, n)]))
    ∧ (∀ v : Word, (s.get R.errOfflineDies = 0 → bits v.toNat 0 2 ≠ 3 →
        ∃ t : State, exec (.serviceModeWrite v) s = .next t ∧ t.get R.hifSvcMode = bits v.toNat 0 2 ∧ s.keepsRegs t [R.hifSvcMode.key])
      ∧ (s.get R.errOfflineDies ≠ 0 ∨ bits v.toNat 0 2 = 3 → ∃ t : State, exec (.serviceModeWrite v) s = .next t ∧ s.keepsRegs t []))
    ∧ (∀ r : Fin 2, (s.flag (R.fabReflexCfgLatch r) = true →
        ∃ t : State, exec (.clear r) s = .next t ∧ t.get (R.fabReflexStatAsserted r) = 0 ∧ s.keepsRegs t [(R.fabReflexStatAsserted r).key])
      ∧ (s.flag (R.fabReflexCfgLatch r) = false → ∃ t : State, exec (.clear r) s = .next t ∧ s.keepsRegs t []))
    ∧ (∀ v : Word, (s.get R.hifSvcMode = 3 → (∀ d : Fin 4, bit v.toNat d = true → s.dieOff d = true) →
        ∃ t : State, exec (.dieReset v) s = .next t ∧ s.keepsRegs t []
          ∧ (∀ d : Fin 4, SMap.find? d.val t.err.dieResets = if bit v.toNat d then some (s.time.clk + 5000000) else SMap.find? d.val s.err.dieResets))
      ∧ (s.get R.hifSvcMode ≠ 3 ∨ (∃ d : Fin 4, bit v.toNat d = true ∧ s.dieOff d = false) →
        ∃ t : State, exec (.dieReset v) s = .next t ∧ t.err = s.err ∧ t.obs = s.obs ∧ s.keepsRegs t [])))
  ∧ (∀ (d : Fin 4) (at0 : Nat) (s : State), s.awake = true → SMap.find? d.val s.err.dieResets = some at0 →
    (at0 ≤ s.time.clk →
      (∃ t : State, exec (.dieResetDone d true) s = .next t ∧ SMap.find? d.val t.err.dieResets = none ∧ t.dieOff d = false
        ∧ (∀ k : Fin 4, k ≠ d → t.dieOff k = s.dieOff k) ∧ (∀ c, s.active = some c → d.val < 2 → c.usesDie d = true → t.offline d = true)
        ∧ s.keepsRegs t [R.errOfflineDies.key])
      ∧ (∃ u : State, exec (.dieResetDone d false) s = .next (u.fatal 0x11 d 0 0) ∧ SMap.find? d.val u.err.dieResets = none ∧ s.keepsRegs u []))
    ∧ (s.time.clk < at0 → ∀ pass : Bool, exec (.dieResetDone d pass) s = .next s))

/-- Resets lose their classes. Soft, warm and watchdog resets, a power-on reset and a loss of the always-on supply return exactly the fields of the
classes they lose to their reset values and keep the others, empty what R429 lists, keep the flash and, where the SRAM stays powered, the Canvas
entries, and set the time of ready; a reset pin acts once it passes its filter, and in REEF3 and the entry into it not at all (halted devices: log
entry 128; reset pins: log entry 127). (R426, R427, R428, R429, R430, R431, R433, R493.) -/
def Obligations.ResetsLoseTheirClasses : Prop :=
  let lost (x : Fld) := classOfKey x.key = .w ∨ classOfKey x.key = .f ∨ classOfKey x.key = .s
  let kept (x : Fld) := classOfKey x.key = .a ∨ classOfKey x.key = .l
  let emptied (s t : State) := t.active = none ∧ t.shadow = none ∧ t.lpddr = [] ∧ t.time.dev = 0 ∧ t.host.sq = [] ∧ t.host.cq = [] ∧ t.host.str = []
    ∧ t.host.held = [] ∧ (s.reef.rails = .up → t.cv.entries = s.cv.entries ∧ t.ctl.staleMark = true)
    ∧ (s.reef.rails ≠ .up → t.cv.entries = [] ∧ t.ctl.staleMark = false) ∧ t.obs.flash = s.obs.flash ∧ t.ctl.firmware = s.ctl.firmware
    ∧ t.host.mem = s.host.mem ∧ t.host.msix = s.host.msix ∧ t.time.clk = s.time.clk ∧ t.reef.classes = (s.reef.classes ||| 0xE)
  (∀ (key : Word) (s : State), s.phase = .sail →
    (key.toNat % 2 ^ 16 = 0x5A5A → s.halted = false →
      ∃ t : State, exec (.softReset key) s = .next t ∧ t.phase = .boot (s.time.clk + 15000000) ∧ emptied s t ∧ t.reef.causes = s.reef.causes ++ [4]
        ∧ t.get R.hifLinkSpeed = s.get R.hifLinkSpeed % 2 ^ 3 ∧ t.get R.hifLinkWidth = s.get R.hifLinkWidth % 2 ^ 5
        ∧ (∀ x : Fld, lost x → x.key ≠ R.hifLinkSpeed.key → x.key ≠ R.hifLinkWidth.key → t.get x = x.reset)
        ∧ (∀ x : Fld, kept x → t.get x = s.get x))
    ∧ (key.toNat % 2 ^ 16 ≠ 0x5A5A → exec (.softReset key) s = .next s.touch))
  ∧ (∀ (r : Bool) (held : Nat) (s : State),
    let asserted := if r then s.filterNs R.mgtPad11Filt < held else 1000 ≤ held
    let only := s.phase = .off ∨ s.phase = .reef 3 ∨ ∃ e w, s.phase = .entering 3 e w
    let due := match s.phase with | .boot at0 => at0 | .exiting _ at0 _ => at0 | _ => 0
    let exit := match s.phase with | .exiting 2 _ _ => [1] | .exiting 3 _ _ => [2] | _ => ([] : List Nat)
    (asserted → ¬ only →
      ∃ t : State, exec (.warmReset r held) s = .next t ∧ t.phase = .boot (max due (s.time.clk + 15000000)) ∧ emptied s t ∧ t.halted = false
        ∧ t.reef.rails = s.reef.rails ∧ t.reef.causes = s.reef.causes ++ (exit ++ [5])
        ∧ (∀ x : Fld, lost x → t.get x = x.reset) ∧ (∀ x : Fld, kept x → t.get x = s.get x))
    ∧ (¬ asserted ∨ only → exec (.warmReset r held) s = .next s))
  ∧ (∀ (at0 : Nat) (s : State), s.halted = false → (s.phase = .sail ∧ at0 = 0 ∨ s.phase = .boot at0 ∧ s.reef.rails = .up) →
    ∃ t : State, exec .watchdogReset s = .next t ∧ t.phase = .boot (max at0 (s.time.clk + 15000000)) ∧ emptied s t ∧ t.reef.causes = s.reef.causes ++ [6]
      ∧ (∀ x : Fld, lost x → t.get x = x.reset) ∧ (∀ x : Fld, kept x → t.get x = s.get x))
  ∧ (∀ (straps : BitVec 3) (test : Bool) (gib : Nat) (s : State),
    ∃ (t : State) (n : Nat), exec (.por straps test gib) s = .next t ∧ t.phase = .boot n ∧ s.time.clk + 18750000 ≤ n ∧ n ≤ s.time.clk + 143750000
      ∧ t.get R.mgtI2cAddr = 0x58 + straps.toNat ∧ t.reef.straps = straps.toNat ∧ t.reef.testEn = test ∧ t.reef.gib = gib ∧ t.halted = false
      ∧ (∀ x : Fld, classOfKey x.key ≠ .l → x.key ≠ R.mgtI2cAddr.key → t.get x = x.reset)
      ∧ (∀ x : Fld, classOfKey x.key = .l → x.key ≠ R.mgtI2cAddr.key → t.get x = s.get x)
      ∧ t.lpddr = [] ∧ t.active = none ∧ t.shadow = none ∧ t.time.dev = 0 ∧ t.obs.flash = s.obs.flash ∧ t.ctl.firmware = s.ctl.firmware ∧ t.host.mem = s.host.mem)
  ∧ (∀ s : State, ∃ t : State, exec .aonPowerLoss s = .next t ∧ t.phase = .off ∧ t.halted = false ∧ t.lpddr = [] ∧ t.active = none ∧ t.shadow = none
      ∧ t.obs.flash = s.obs.flash ∧ t.ctl.firmware = s.ctl.firmware ∧ (∀ x : Fld, classOfKey x.key ≠ .l → t.get x = x.reset)
      ∧ (∀ x : Fld, classOfKey x.key = .l → t.get x = s.get x))

/-- Device time is adjusted by STEP and SLEW. A write of TIM_ADJ_HI adds its amount to device time at once in STEP mode while STOPPED, is refused with
ADJ_REFUSED in any other run state, is passed to the slew engine with its interval in SLEW mode, and is ignored with FOLLOW_WRITE while device time
follows a domain; TIM_INCR is written likewise. (R359, R360.) -/
def Obligations.DeviceTimeIsAdjusted : Prop :=
  ∀ (hi : Word) (s : State), s.served = true →
    let lo := match SMap.find? (latchKey 0 0x300018) s.latch.wr with | some w => w.toNat | none => 0
    let amount := toSigned 64 (lo + 2 ^ 32 * hi.toNat)
    (∀ c : Instr, (c = .step hi ∨ c = .slew hi) →
      (s.get R.timStatusFollowing = 0 → s.flag R.timAdjCtlMode = false → s.stopped = true →
        ∃ t : State, exec c s = .next t ∧ (t.time.dev : Int) = (s.time.dev + amount * 2 ^ 32) % 2 ^ 96
          ∧ t.time.followers = s.time.followers.map (fun (f : Nat) => (((f : Int) + amount * 2 ^ 32) % 2 ^ 96).toNat)
          ∧ (∀ p : Fin 8, (t.get (R.ingPortRbOfsOfs p) : Int) = (s.get (R.ingPortRbOfsOfs p) + amount) % 2 ^ 64)
          ∧ t.get R.timCntStep = (s.get R.timCntStep + 1) % 2 ^ 32 ∧ t.get R.timStatusStepped = 1 ∧ t.ctl.staleMark = true
          ∧ t.time.domA = s.time.domA ∧ t.time.domB = s.time.domB ∧ t.time.slew = s.time.slew ∧ t.time.tci = s.time.tci
          ∧ SMap.find? (latchKey 0 0x300018) t.latch.wr = none)
      ∧ (s.get R.timStatusFollowing = 0 → s.flag R.timAdjCtlMode = false → s.stopped = false →
        ∃ t : State, exec c s = .next t ∧ t.time = s.time ∧ t.get R.timStatusAdjRefused = 1 ∧ s.keepsRegs t [R.timStatusAdjRefused.key])
      ∧ (s.get R.timStatusFollowing = 0 → s.flag R.timAdjCtlMode = true →
        ∃ t : State, exec c s = .next t ∧ t.time.dev = s.time.dev ∧ t.time.slew.rem = s.time.slew.rem + amount * 2 ^ 32
          ∧ (t.time.slew.rem ≠ 0 → 250 * s.get R.timAdjCtlIntervalUs ≤ t.time.slew.left
              ∧ t.time.slew.rem.natAbs * 250 ≤ t.time.slew.left * 2 ^ 32
              ∧ (t.time.slew.left = 250 * s.get R.timAdjCtlIntervalUs ∨ (t.time.slew.left - 1) * 2 ^ 32 < t.time.slew.rem.natAbs * 250))
          ∧ t.time.domA = s.time.domA ∧ t.time.domB = s.time.domB ∧ s.keepsRegs t [])
      ∧ (s.get R.timStatusFollowing ≠ 0 →
        ∃ t : State, exec c s = .next t ∧ t.time = s.time ∧ t.get R.timStatusFollowWrite = 1 ∧ s.keepsRegs t [R.timStatusFollowWrite.key]))
    ∧ (s.get R.timStatusFollowing = 0 →
      ∃ t : State, exec (.timIncrWrite hi) s = .next t ∧ t.time = s.time
        ∧ t.get R.timIncrIncr = ((match SMap.find? (latchKey 0 0x300010) s.latch.wr with | some w => w.toNat | none => s.get R.timIncrIncr % 2 ^ 32)
            + 2 ^ 32 * hi.toNat) % 2 ^ 64
        ∧ s.keepsRegs t [R.timIncrIncr.key])
    ∧ (s.get R.timStatusFollowing ≠ 0 →
      ∃ t : State, exec (.timIncrWrite hi) s = .next t ∧ t.time = s.time ∧ t.get R.timStatusFollowWrite = 1 ∧ s.keepsRegs t [R.timStatusFollowWrite.key])

/-- Domain counters and the switch of device time. A domain counter is stepped in any run state and slewed by its own engine, and device time that
follows it is stepped while STOPPED and slewed otherwise; a switch is pending for its boundary, is refused while one is, and takes effect there with a
slew, or a step where forced while STOPPED, or is refused where the difference is too large (requests passed on: log entry 95). (R363, R364, R365,
R366.) -/
def Obligations.DomainsStepSlewSwitch : Prop :=
  (∀ (x : Fin 2) (hi : Word) (s : State) (c : Instr), s.served = true → (c = .domainStep x hi ∨ c = .domainSlew x hi) →
    let lo := match SMap.find? (latchKey 0 (R.timDomAdjAmount x).addr) s.latch.wr with | some w => w.toNat | none => 0
    let amount := toSigned 64 (lo + 2 ^ 32 * hi.toNat)
    (s.flag (R.timDomAdjCtlMode x) = false →
      (s.get R.timStatusFollowing ≠ x.val + 1 →
        ∃ t : State, exec c s = .next t ∧ (t.dom x : Int) = (s.dom x + amount * 2 ^ 32) % 2 ^ 96 ∧ t.dom (1 - x.val) = s.dom (1 - x.val)
          ∧ t.time.dev = s.time.dev ∧ t.time.slew = s.time.slew ∧ s.keepsRegs t [])
      ∧ (s.get R.timStatusFollowing = x.val + 1 → s.stopped = false →
        ∃ t : State, exec c s = .next t ∧ (t.dom x : Int) = (s.dom x + amount * 2 ^ 32) % 2 ^ 96 ∧ t.time.dev = s.time.dev
          ∧ t.time.slew.rem = s.time.slew.rem + amount * 2 ^ 32 ∧ s.keepsRegs t [])
      ∧ (s.get R.timStatusFollowing = x.val + 1 → s.stopped = true →
        ∃ t : State, exec c s = .next t ∧ (t.dom x : Int) = (s.dom x + amount * 2 ^ 32) % 2 ^ 96
          ∧ (t.time.dev : Int) = (s.time.dev + amount * 2 ^ 32) % 2 ^ 96 ∧ t.time.slew = s.time.slew ∧ t.get R.timStatusStepped = 1))
    ∧ (s.flag (R.timDomAdjCtlMode x) = true →
      ∃ t : State, exec c s = .next t ∧ (t.slewOf (x.val + 1)).rem = (s.slewOf (x.val + 1)).rem + amount * 2 ^ 32 ∧ t.dom x = s.dom x ∧ t.time.dev = s.time.dev
        ∧ t.time.slew.rem = (if s.get R.timStatusFollowing = x.val + 1 then s.time.slew.rem + amount * 2 ^ 32 else s.time.slew.rem) ∧ s.keepsRegs t []))
  ∧ (∀ (v : Word) (s : State), s.served = true →
    (s.flag R.timStatusSwitchPending = true →
      ∃ t : State, exec (.switchRequest v) s = .next t ∧ t.time = s.time ∧ t.get R.timStatusSwitchRefused = 1 ∧ s.keepsRegs t [R.timStatusSwitchRefused.key])
    ∧ (s.flag R.timStatusSwitchPending = false → bits v.toNat 0 2 ≠ 3 →
      ∃ (t : State) (n : Nat), exec (.switchRequest v) s = .next t ∧ s.time.dev + 5000 * 2 ^ 32 ≤ n * 25000 * 2 ^ 32
        ∧ n * 25000 * 2 ^ 32 < s.time.dev + 30000 * 2 ^ 32 ∧ t.get R.timSwitchTickTick = n % 2 ^ 64 ∧ t.get R.timStatusSwitchPending = 1
        ∧ t.time = { s.time with switch := some (bits v.toNat 0 2, bit v.toNat 4) } ∧ s.keepsRegs t [R.timSwitchTickTick.key, R.timStatusSwitchPending.key]))
  ∧ (∀ (dom : Nat) (force : Bool) (s : State), s.timeRuns = true → s.time.switch = some (dom, force) → dom < 3 →
    s.get R.timSwitchTickTick * 25000 ≤ s.now →
    let d : Int := if dom = 0 then 0 else if dom = 1 then (s.time.domA : Int) - s.time.dev else (s.time.domB : Int) - s.time.dev
    let us := s.get R.timSwitchSlewSlewUs
    ((d.natAbs ≤ us * 2 ^ 32 ∨ (force = true ∧ s.stopped = false)) →
      ∃ t : State, exec .domainSwitch s = .next t ∧ t.get R.timStatusFollowing = dom ∧ t.get R.timStatusSwitchDone = 1 ∧ t.get R.timStatusSwitchPending = 0
        ∧ t.get R.cntSwitch = (s.get R.cntSwitch + 1) % 2 ^ 32 ∧ (t.get R.timSwitchDeltaDelta : Int) = d.fdiv (2 ^ 32) % 2 ^ 64
        ∧ t.time.slew.rem = d ∧ t.time.dev = s.time.dev ∧ t.time.switch = none
        ∧ (∀ x : Fin 2, dom = x.val + 1 → t.get R.timIncrIncr = s.get (R.timDomIncrIncr x) % 2 ^ 64))
    ∧ (us * 2 ^ 32 < d.natAbs → force = false →
      ∃ t : State, exec .domainSwitch s = .next t ∧ t.get R.timStatusFollowing = s.get R.timStatusFollowing ∧ t.get R.timStatusSwitchRefused = 1
        ∧ t.get R.timStatusSwitchPending = 0 ∧ t.time = { s.time with switch := none } ∧ s.keepsRegs t [R.timStatusSwitchRefused.key, R.timStatusSwitchPending.key])
    ∧ (us * 2 ^ 32 < d.natAbs → force = true → s.stopped = true →
      ∃ t : State, exec .domainSwitch s = .next t ∧ t.get R.timStatusFollowing = dom ∧ t.get R.timStatusSwitchDone = 1 ∧ t.get R.timStatusStepped = 1
        ∧ (t.time.dev : Int) = (s.time.dev + d) % 2 ^ 96 ∧ t.get R.cntSwitch = (s.get R.cntSwitch + 1) % 2 ^ 32))

/-- A surface engine applies an event. A surface engine whose route carries traffic applies its oldest event: the raise of R80, ACT and HOT, CORNER
kept where no test is made, no other Canvas entry changed, and its counters, an entry whose read fails being initialised first; a flow fit leaves the
Canvas as it is but for such entries and gives a flow value only where enough points are there (rounding: log entry 20; visibility: log entry 19;
routes: log entry 148). (R80, R85, R89, R90, R92, R93.) -/
def Obligations.SurfaceEnginesApplyEvents : Prop :=
  (∀ (e : Fin 8) (s : State) (w : Nat) (ws : List Nat) (hits : List MemHit) (parity : Bool), s.awake = true → s.words e = w :: ws →
    let ts := bits w 0 24
    let x := bits w 24 11
    let y := bits w 35 11
    let pol := bit w 46
    let p := bits w 47 3
    let key := s.pixelKey p x y
    let bad (k : Nat) := s.entryBad k (hitOn hits (.canvas k)) = true
    let was := if s.entryBad key (hitOn hits (.canvas key)) then pixelOf entryInit else s.pixel p x y
    let raised := was.stale pol = true ∨ 0 < wrapDiff 24 ts (was.stamp pol)
    let age : Int := if was.stalePos then wrapDiff 24 ts was.neg else if was.staleNeg then wrapDiff 24 ts was.pos
      else min (wrapDiff 24 ts was.pos) (wrapDiff 24 ts was.neg)
    let k := if was.stalePos && was.staleNeg then 8 else min 8 (age.toNat / s.getIn R.srfHotHalfUs 1 65535)
    (s.routeOpen (dieOfEngine e) = true → (∀ q ∈ s.near p x y (innerCircle ++ outerCircle), ¬ bad (s.pixelKey p q.1 q.2)) →
     ∃ t : State, exec (.surfaceUpdate e hits parity) s = .next t ∧ t.words e = ws
      ∧ (raised → (t.pixel p x y).stamp pol = ts ∧ (t.pixel p x y).stale pol = false)
      ∧ (¬ raised → (t.pixel p x y).stamp pol = was.stamp pol ∧ (t.pixel p x y).stale pol = false)
      ∧ (t.pixel p x y).stamp (!pol) = was.stamp (!pol) ∧ (t.pixel p x y).stale (!pol) = was.stale (!pol)
      ∧ (t.pixel p x y).act = min 255 (was.act / 2 ^ k + 1)
      ∧ ((t.pixel p x y).hot = if s.hotOn ≤ (t.pixel p x y).act then true else if (t.pixel p x y).act ≤ s.hotOff then false else was.hot)
      ∧ ((¬ raised ∨ (t.pixel p x y).hot = true) → (t.pixel p x y).corner = was.corner)
      ∧ (∀ k : Nat, k ≠ key → t.entryAt k = s.entryAt k)
      ∧ (parity = true → t.get R.cntParity = (s.get R.cntParity + 1) % 2 ^ 32)
      ∧ (bad key → t.get R.cntCanvasReinit = (s.get R.cntCanvasReinit + 1) % 2 ^ 32 ∧ SMap.get t.cv.bad false key = false)
      ∧ t.get (R.srfCntUpdate e) = (s.get (R.srfCntUpdate e) + 1) % 2 ^ 32
      ∧ (raised → t.get (R.srfCntRaise e) = (s.get (R.srfCntRaise e) + 1) % 2 ^ 32)
      ∧ (¬ raised → t.get (R.srfCntRaise e) = s.get (R.srfCntRaise e))
      ∧ t.time = s.time ∧ t.lpddr = s.lpddr ∧ t.active = s.active ∧ t.tns = s.tns)
    ∧ (s.routeOpen (dieOfEngine e) = false → exec (.surfaceUpdate e hits parity) s = .next s))
  ∧ (∀ (e : Fin 8) (s : State) (v : EngineEvent) (l : List EngineEvent) (hits : List MemHit), s.awake = true → SMap.get s.cv.fits [] e = v :: l →
    let p := bits v.word 47 3
    let x := bits v.word 24 11
    let y := bits v.word 35 11
    let read := s.near p x y flowOffsets
    let s0 := s.readPixels e p hits read
    let f := s.get R.srfTapFunc
    let r := s.get R.srfTapRing
    ∃ t : State, exec (.flowFit e hits) s = .next t ∧ SMap.get t.cv.fits [] e = l
      ∧ (∀ q ∈ read, s.entryBad (s.pixelKey p q.1 q.2) (hitOn hits (.canvas (s.pixelKey p q.1 q.2))) = true → t.entryAt (s.pixelKey p q.1 q.2) = entryInit)
      ∧ (∀ k : Nat, (∀ q ∈ read, s.pixelKey p q.1 q.2 = k → s.entryBad k (hitOn hits (.canvas k)) = false) → t.entryAt k = s.entryAt k)
      ∧ ((∀ q ∈ read, SMap.get s.cv.bad false (s.pixelKey p q.1 q.2) = false ∧ hitOn hits (.canvas (s.pixelKey p q.1 q.2)) = .ok) →
          t.cv.entries = s.cv.entries ∧ t.cv.dirty = s.cv.dirty
          ∧ s.keepsRegs t [(R.srfCntFlow e).key, (R.srfCntTapDrop e).key, (R.fnRingOffCntOff f).key, (R.fnStrStageOcc f r).key, (R.fnStrGapCntGap f r).key])
      ∧ ((t.cv.flows = s.cv.flows ∧ t.get (R.srfCntFlow e) = s.get (R.srfCntFlow e))
        ∨ (s.getIn R.srfFlowMinPts 4 25 ≤ (s0.flowPoints e p (bit v.word 46) (bits v.word 0 24) x y).length
          ∧ (∃ vx vy, t.cv.flows = s.cv.flows ++ [⟨p, x, y, vx, vy, v.time, v.poison⟩])
          ∧ t.get (R.srfCntFlow e) = (s.get (R.srfCntFlow e) + 1) % 2 ^ 32)))

/-- Sweep, scan, taps and initialisation of the Canvas. A sweep visit (of an entry whose read fails: as initialised) marks polarities older than 4 s
STALE and clears the others of a pixel without stamps; a scan delivers the dirty set of its tick and re-books every tile by the first later crossing;
a tap record closes at 64 entries or 10 µs; regions are initialised and the whole Canvas is marked STALE. (R81, R98, R99, R101, R103, R104, R430,
R522.) -/
def Obligations.CanvasIsSweptAndScanned : Prop :=
  (∀ (p : Fin 8) (x y : Nat) (hits : List MemHit) (s : State), s.awake = true →
    let own := s.pixelKey p x y
    let found := s.entryBad own (hitOn hits (.canvas own))
    let was := if found then pixelOf entryInit else s.pixel p x y
    let old (pol : Bool) := was.stale pol = false ∧ 4000000 ≤ ofInt 24 ((s.nowUs : Int) - was.stamp pol)
    (s.regionOn p = true ∧ x < s.width p ∧ y < s.height p →
      ∃ t : State, exec (.staleSweepVisit p x y hits) s = .next t
        ∧ (∀ pol : Bool, (t.pixel p x y).stamp pol = was.stamp pol ∧ ((t.pixel p x y).stale pol = true ↔ was.stale pol = true ∨ old pol))
        ∧ ((t.pixel p x y).stalePos = true ∧ (t.pixel p x y).staleNeg = true →
            (t.pixel p x y).act = 0 ∧ (t.pixel p x y).hot = false ∧ (t.pixel p x y).corner = false)
        ∧ (¬ ((t.pixel p x y).stalePos = true ∧ (t.pixel p x y).staleNeg = true) →
            (t.pixel p x y).act = was.act ∧ (t.pixel p x y).hot = was.hot ∧ (t.pixel p x y).corner = was.corner)
        ∧ (∀ key : Nat, key ≠ s.pixelKey p x y → t.entryAt key = s.entryAt key)
        ∧ (found = false → t.cv.dirty = s.cv.dirty)
        ∧ (found = true → t.get R.cntCanvasReinit = (s.get R.cntCanvasReinit + 1) % 2 ^ 32)
        ∧ (SMap.get s.cv.bad false own = false → hitOn hits (.canvas own) = .ok → s.keepsRegs t [(R.srfCntStaleMark (engineOf x y)).key]))
    ∧ (¬ (s.regionOn p = true ∧ x < s.width p ∧ y < s.height p) → exec (.staleSweepVisit p x y hits) s = .next s))
  ∧ (∀ (e : Fin 8) (hits : List MemHit) (s : State), s.awake = true → s.offline (dieOfEngine e) = false → (s.scanTick e + 1) * 25000 ≤ s.now →
    ∃ t : State, exec (.agingWheelScan e hits) s = .next t ∧ t.scanTick e = s.scanTick e + 1
      ∧ (∀ d ∈ t.cv.dirty, d.engine = e → s.scanTick e < d.tick)
      ∧ (s.inRun (s.scanTick e) = true → bit (SMap.get t.tns.delivered 0 (s.scanTick e)) e = true)
      ∧ (s.inRun (s.scanTick e) = false → t.tns = s.tns)
      ∧ (∀ k : Nat, t.entryAt k = s.entryAt k ∨ (s.entryBad k (hitOn hits (.canvas k)) = true ∧ t.entryAt k = entryInit))
      ∧ (hits = [] → s.cv.bad = [] → t.cv.entries = s.cv.entries ∧ s.keepsRegs t [(R.srfCntAgeMark e).key, R.cntSliceAbandon.key]
        ∧ ∀ q ∈ s.slotTiles e (s.scanTick e % 512), ∀ a ∈ s.tilePixels q.1 q.2.1 q.2.2, ∀ (pol : Bool) (m : Nat),
          (s.pixel q.1 a.1 a.2).stale pol = false →
          firstCrossing s.edges (absoluteUs s.nowUs ((s.pixel q.1 a.1 a.2).stamp pol)) (s.scanTick e + 1) = some m →
          ∃ m' : Nat, s.scanTick e < m' ∧ m' ≤ m ∧ SMap.get t.cv.wheel false (wheelKey e (m' % 512) q.1 q.2.1 q.2.2) = true))
  ∧ (∀ (e : Fin 8) (c : Bool) (s : State), s.awake = true → (s.tap e c).closed = none →
    let due := (s.tap e c).filling.entries.length = 64 ∨ ((s.tap e c).filling.entries ≠ [] ∧ (s.tap e c).filling.first + 10000 ≤ s.now)
    let f := s.get R.srfTapFunc
    let r := s.get R.srfTapRing
    let x := (s.tap e c).filling.rcd e c
    (due → s.flag (R.fnStrCfgEn f r) = true → (s.str f r).admits f x.padded = true →
      ∃ t : State, exec (.tapRecordClose e c) s = .next t ∧ t.tap e c = { s.tap e c with filling := {} } ∧ (∃ z ∈ (t.str f r).staged, z.record = x)
        ∧ t.cv.entries = s.cv.entries)
    ∧ (due → s.flag (R.fnStrCfgEn f r) = true → (s.str f r).admits f x.padded = false →
      ∃ t : State, exec (.tapRecordClose e c) s = .next t ∧ t.tap e c = { s.tap e c with filling := {}, closed := some (s.tap e c).filling } ∧ t.host = s.host
        ∧ t.cv.entries = s.cv.entries)
    ∧ (due → s.flag (R.fnStrCfgEn f r) = false →
      ∃ t : State, exec (.tapRecordClose e c) s = .next t ∧ t.tap e c = { s.tap e c with filling := {} } ∧ s.keepsRegs t [(R.fnRingOffCntOff f).key])
    ∧ (¬ due → exec (.tapRecordClose e c) s = .next s))
  ∧ (∀ (e : Fin 8) (c : Bool) (x : TapRecord) (s : State), s.awake = true → (s.tap e c).closed = some x → s.flag (R.fnStrCfgEn (s.get R.srfTapFunc) (s.get R.srfTapRing)) = true →
    (s.str (s.get R.srfTapFunc) (s.get R.srfTapRing)).admits (s.get R.srfTapFunc) (x.rcd e c).padded = false → exec (.tapRecordClose e c) s = .next s)
  ∧ (∀ (p : Fin 8) (s : State), s.awake = true →
    (bit s.cv.inits p = true → ∃ t : State, exec (.regionInit p) s = .next t ∧ bit t.cv.inits p = false
      ∧ (∀ key : Nat, t.entryAt key = if s.inRegion p key then 0x0300000000000000 else s.entryAt key) ∧ s.keepsRegs t [])
    ∧ (bit s.cv.inits p = false → exec (.regionInit p) s = .next s))
  ∧ (∀ s : State, s.awake = true →
    (s.ctl.staleMark = true → ∃ t : State, exec .canvasStaleMark s = .next t ∧ t.ctl.staleMark = false ∧ s.keepsRegs t []
      ∧ (∀ key : Nat, (pixelOf (t.entryAt key)).stalePos = true ∧ (pixelOf (t.entryAt key)).staleNeg = true) ∧ t.time = s.time)
    ∧ (s.ctl.staleMark = false → exec .canvasStaleMark s = .next s))

/-- Dense ticks run in order. A tick boundary is marked in order and brings deferred writes, Gauze levels, snapshots and holds, or is late during a
retrain (counts: log entry 139); work becomes ready when all dirty sets came, with issue from idle (log entry 160); tiles are converted by bin once no
region waits for its initialisation; a retrain of a link to an MSD holds both; a tick completes by its deadline or is cut there and carried over (log
entry 72); a drain finishes carried work. (R137, R146, R147, R149, R150, R161, R175, R404, R447.) -/
def Obligations.DenseTicksRunInOrder : Prop :=
  let held (c : ConfigSet) := (c.layers, c.packets, c.carried)
  (∀ s : State, s.awake = true →
    let n := s.ctl.marked + 1
    (n * 25000 ≤ s.now → s.retraining = false →
      ∃ t : State, exec .tickBoundaryMark s = .next t ∧ t.ctl.marked = n ∧ t.ctl.lateMark = none
        ∧ t.deferred = s.deferred.filter (fun d => match d.due with | .tick m => decide (n < m) | .step _ => true)
        ∧ (∀ x ∈ t.obs.snaps, n < x.2) ∧ ((∃ x ∈ s.obs.snaps, x.1 = 0 ∧ x.2 ≤ n) → t.get R.dbgOpcSnapTickTick = n % 2 ^ 64)
        ∧ t.get R.tnsGauzeLevelLevelCd0 ≤ 16 ∧ t.get R.tnsGauzeLevelLevelCd1 ≤ 16
        ∧ (t.flag R.tnsGauzeCtlDisable = true → t.get R.tnsGauzeLevelLevelCd0 = 0 ∧ t.get R.tnsGauzeLevelLevelCd1 = 0)
        ∧ (∀ d : Fin 2, t.gauzeLevel n d = if d = 0 then t.get R.tnsGauzeLevelLevelCd0 else t.get R.tnsGauzeLevelLevelCd1)
        ∧ (∀ h, s.ctl.holdAt = some h → h ≤ n → h * 25000 ≤ s.now → t.get R.hifRunHold = 1 ∧ t.ctl.hold = some h))
    ∧ (n * 25000 ≤ s.now → s.retraining = true → s.ctl.lateMark ≠ some n →
      ∃ (t : State) (k : Nat), exec .tickBoundaryMark s = .next t ∧ t.ctl.marked = s.ctl.marked ∧ t.ctl.lateMark = some n ∧ 1 ≤ k ∧ k ≤ 256
        ∧ t.get R.cntMarkWait = (s.get R.cntMarkWait + k) % 2 ^ 32 ∧ s.keepsRegs t [R.cntMarkWait.key] ∧ t.deferred = s.deferred)
    ∧ ((s.now < n * 25000 ∨ (s.retraining = true ∧ s.ctl.lateMark = some n)) → exec .tickBoundaryMark s = .next s))
  ∧ (∀ (s : State) (n k : Nat) (hits : List MemHit), s.awake = true → s.tns.next = some n → s.tns.working = false → s.memOpen = true →
    ((n + 1) * 25000 ≤ s.now ∧ s.offline 2 = false ∧ s.offline 3 = false ∧ SMap.get s.tns.delivered 0 n = 255 ∧ s.late n = false →
      ∃ t : State, exec (.tickWorkReady 0 hits) s = .next t ∧ t.tns.working = true ∧ t.tns.next = some n ∧ t.tns.todo = s.tickTiles n
        ∧ t.tns.check.running = false ∧ t.tns.refresh.running = false ∧ t.packets = s.packets ∧ t.tns.busy = false
        ∧ (s.tns.busy = false → s.tns.check.running = false → s.tns.refresh.running = false → t.pwr.permit = [(0, 0, s.now), (1, 0, s.now)])
        ∧ t.get R.cntSliceAbandon = (s.get R.cntSliceAbandon + (if s.tns.check.running then 1 else 0) + (if s.tns.refresh.running then 1 else 0)) % 2 ^ 32
        ∧ s.keepsRegs t [R.cntSliceAbandon.key, R.tnsGauzeTaintAny.key])
    ∧ (¬ ((n + 1) * 25000 ≤ s.now ∧ s.offline 2 = false ∧ s.offline 3 = false ∧ SMap.get s.tns.delivered 0 n = 255 ∧ s.late n = false) →
      exec (.tickWorkReady k hits) s = .next s))
  ∧ (∀ (s : State) (k : Nat) (hits : List MemHit), s.awake = true → s.memOpen = false → exec (.tickWorkReady k hits) s = .next s)
  ∧ (∀ (s : State) (n : Nat) (c : ConvTile) (l : List ConvTile) (hits : List MemHit), s.awake = true → s.tns.next = some n → s.tns.working = true → s.tns.todo = c :: l →
   (s.cv.inits ≠ 0 → ∀ k : Nat, exec (.tickWorkReady k hits) s = .next s)
   ∧ (s.cv.inits = 0 → s.memOpen = true → c.layer < s.layers.length → (s.layer c.layer).canvasSel.length ≤ (s.layer c.layer).outC → s.width c.port ≤ (s.layer c.layer).outW →
    ∃ t : State, exec (.tickWorkReady 1 hits) s = .next t ∧ t.tns.todo = l ∧ t.cv = s.cv ∧ (∀ j, j ≠ c.layer → t.layer j = s.layer j)
      ∧ (hits = [] → s.cv.bad = [] → s.keepsRegs t [R.cntHemConv.key] ∧ ∀ a ∈ s.tilePixels c.port c.tx c.ty, ∀ q ∈ (s.layer c.layer).canvasSel.zipIdx,
          (c.whole = true ∨ bit c.mask (elementBit a.1 a.2 q.1.2) = true) → (s.layer c.layer).port = c.port →
          (a.2 * (s.layer c.layer).outW + a.1) * (s.layer c.layer).outC + q.2 < (s.layer c.layer).act.length →
          (t.layer c.layer).act.getD ((a.2 * (s.layer c.layer).outW + a.1) * (s.layer c.layer).outC + q.2) 0
            = (s.layer c.layer).binValue q.1.1 (s.binAt (s.pixel c.port a.1 a.2) q.1.2 ((n + 1) * 25)))))
  ∧ (∀ (s : State) (n : Nat), s.awake = true → s.tns.next = some n → s.tns.working = true →
    (s.workDone = true → s.now ≤ s.deadline n →
      ∃ t : State, exec .tickComplete s = .next t ∧ t.tns.next = some (n + 1) ∧ t.tns.working = false ∧ t.tns.carry = false
        ∧ (∃ r, SMap.find? n t.tns.results = some r ∧ r.done = true ∧ r.dets = s.tns.dets ∧ r.gauze = s.tns.gauzeSeen)
        ∧ t.get R.cntTickDone = (s.get R.cntTickDone + 1) % 2 ^ 32 ∧ t.get R.tnsSlackLastNs = (s.deadline n - s.now) % 2 ^ 32
        ∧ t.get R.tnsDeltaStatusCutStreak = 0 ∧ t.active.map held = s.active.map held ∧ t.shadow.map held = s.shadow.map held
        ∧ s.keepsRegs t [R.cntTickDone.key, R.tnsSlackLastNs.key, R.tnsDeltaStatusCutStreak.key, R.tnsArithNanLayerLayer.key,
            R.tnsArithNanLayerValid.key, R.cntTraceDrop.key])
    ∧ ((s.workDone = false ∨ s.deadline n < s.now) → exec .tickComplete s = .next s)
    ∧ (s.workDone = false → s.deadline n ≤ s.now → s.run = 2 →
      ∃ t : State, exec .tickCut s = .next t ∧ t.tns.next = some (n + 1) ∧ t.tns.working = false ∧ t.tns.carry = true
        ∧ (∃ r, SMap.find? n t.tns.results = some r ∧ r.done = false ∧ r.dets = []) ∧ t.tns.todo = []
        ∧ t.active.map held = (if s.workActive then s.active.map fun c => (c.layers, c.packets, s.tns.todo) else s.active.map held)
        ∧ t.shadow.map held = (if s.workActive then s.shadow.map held else s.shadow.map fun c => (c.layers, c.packets, s.tns.todo))
        ∧ t.get R.cntTickCut = (s.get R.cntTickCut + 1) % 2 ^ 32 ∧ t.get R.tnsDeltaStatusCut = 1
        ∧ t.get R.tnsDeltaStatusCutStreak = min 255 (s.get R.tnsDeltaStatusCutStreak + 1) ∧ t.get R.tnsLastCutTickTick = n % 2 ^ 64)
    ∧ ((s.workDone = true ∨ s.now < s.deadline n) → exec .tickCut s = .next s))
  ∧ (∀ s : State, s.awake = true →
    (s.mustDrain = true →
      ∃ t : State, exec .denseDrain s = .next t ∧ t.tns.carry = false ∧ t.tns.todo = [] ∧ t.tns.next = s.tns.next ∧ t.tns.results = s.tns.results
        ∧ t.tns.dets = s.tns.dets ∧ t.get R.cntDrain = (s.get R.cntDrain + 1) % 2 ^ 32)
    ∧ (s.mustDrain = false → exec .denseDrain s = .next s))

/-- Delta packets, layers, slices and detections. While a tick is worked, a delta packet changes the copy of its edge and keeps the applied value
pending; a layer whose producers are done adds the exact integer delta terms to its accumulators and sends packets for what changed; check and refresh
slices compare and rewrite; the DPP selects survivors that do not suppress each other (roundings: log entries 66, 67, 69). (R138, R139, R140, R141,
R151, R153, R154, R156, R178, R183, R184, R185.) -/
def Obligations.DenseWorkIsDone : Prop :=
  (∀ (s : State) (i : Nat) (k : DeltaPacket) (parity : Bool) (hits : List MemHit), s.awake = true → s.packets[i]? = some k →
    (s.mayArrive i k = true → s.offline (s.layer k.consumer).die = false → ∀ e : EdgeSt, (s.layer k.consumer).edges[k.edge]? = some e →
      ∃ (t : State) (e' : EdgeSt), exec (.deltaPacket i false parity hits) s = .next t ∧ t.packets = s.packets.eraseIdx i
        ∧ (∀ j, j ≠ k.consumer → t.layer j = s.layer j) ∧ (parity = true → t.get R.cntParity = (s.get R.cntParity + 1) % 2 ^ 32)
        ∧ (hits = [] → (t.layer k.consumer).edges[k.edge]? = some e' ∧ e'.copy = e.copy.set k.elem k.new
        ∧ ((SMap.find? k.elem e.pend).isSome = true → e'.pend = e.pend)
        ∧ (SMap.find? k.elem e.pend = none → (∃ a, SMap.find? k.elem e'.pend = some a ∧ a.value = k.old)
            ∧ ∀ j, j ≠ k.elem → SMap.find? j e'.pend = SMap.find? j e.pend)
        ∧ (t.layer k.consumer).acc = (s.layer k.consumer).acc ∧ (t.layer k.consumer).act = (s.layer k.consumer).act
          ∧ SMap.get e'.poison false k.elem = (k.poison || parity) ∧ (parity = false → s.keepsRegs t [])))
    ∧ (s.mayArrive i k = true → s.offline (s.layer k.consumer).die = true →
      ∃ t : State, exec (.deltaPacket i false parity hits) s = .next t ∧ t.packets = s.packets.eraseIdx i ∧ (hits = [] → ∀ j, t.layer j = s.layer j)
        ∧ t.get R.cntDieDiscard = (s.get R.cntDieDiscard + 1) % 2 ^ 32)
    ∧ (s.mayArrive i k = false → ∀ pass : Bool, exec (.deltaPacket i pass parity hits) s = .next s)
    ∧ (s.tns.working = false → s.mayArrive i k = false))
  ∧ (∀ (s : State) (i m : Nat) (hits : List MemHit), s.awake = true →
    ((s.tns.working = false ∨ s.layers.length ≤ i) → exec (.layerEvaluation i m hits) s = .next s)
    ∧ (s.tns.working = true → i < s.layers.length → s.producersDone i = true → s.heardAll i = true → s.live i = true →
      ∃ (t : State) (ps : List DeltaPacket), exec (.layerEvaluation i m hits) s = .next t ∧ (t.layer i).hasPend = false ∧ t.layers.length = s.layers.length
        ∧ (∀ j, j ≠ i → t.layer j = s.layer j) ∧ t.packets = s.packets ++ ps ∧ (∀ k ∈ ps, k.producer = i ∧ (k.consumer, k.edge) ∈ s.consumers i)
        ∧ (hits = [] → (s.layer i).linear = true → (s.layer i).fmtIn.isInt = true → (s.layer i).gauzeEl = false →
            ∀ o, o < (s.layer i).outElems → o < (s.layer i).acc.length → (s.layer i).terms o ≠ [] →
              (t.layer i).acc.getD o 0 = ofInt (s.layer i).fmtIn.accWidth ((s.layer i).acc.getD o 0
                + (((s.layer i).terms o).map fun x => (s.layer i).intWeight x.1 * ((s.layer i).fmtIn.int x.2.2.1 - (s.layer i).fmtIn.int x.2.1.value)).sum))
        ∧ (hits = [] → s.keepsRegs t [R.cntAbsorbed.key, R.tnsArithStatusSat.key, R.tnsArithStatusNan.key, R.tnsArithStatusInfIn.key]))
    ∧ (s.tns.working = true → i < s.layers.length → (s.producersDone i = false ∨ s.heardAll i = false ∨ s.live i = false) →
      ∃ t : State, exec (.layerEvaluation i m hits) s = .next t ∧ t.packets = s.packets ∧ (∀ j, j ≠ i → t.layer j = s.layer j)
        ∧ (hits = [] → t.layers = s.layers ∧ s.keepsRegs t [])))
  ∧ (∀ (s : State) (hits : List MemHit), s.awake = true →
    let q := s.sweepAt s.tns.check s.checks
    let l := s.layer q.1
    let bad := if l.tainted then [] else (l.slice q.2 s.sliceLen).filter fun o => (s.readLayer hits q.1).mismatch q.1 o
    (s.tns.check.running = true →
      ∃ t : State, exec (.checkSlice hits) s = .next t ∧ t.tns.check = Sweep.after q.1 q.2 s.sliceLen l ∧ t.get R.cntCheckSlice = (s.get R.cntCheckSlice + 1) % 2 ^ 32
        ∧ (t.get R.cntMismatch : Nat) % 2 ^ 32 = (s.get R.cntMismatch + bad.length) % 2 ^ 32
        ∧ ((bad = [] ∨ s.flag R.tnsSweepCtlCheckRepair = false) → hits = [] → t.active = s.active ∧ t.shadow = s.shadow)
        ∧ (∀ o rest, bad = o :: rest → s.flag R.tnsDeltaStatusMismatch = false →
            t.get R.tnsDeltaStatusMismatch = 1 ∧ t.get R.tnsMismatchLayerLayer = l.index % 2 ^ 9 ∧ t.get R.tnsMismatchLayerValid = 1
              ∧ t.get R.tnsMismatchElemElem = o % 2 ^ 32))
    ∧ (s.tns.check.running = false → exec (.checkSlice hits) s = .next s))
  ∧ (∀ (s : State) (hits : List MemHit), s.awake = true →
    let q := s.sweepAt s.tns.refresh s.refreshes
    let l := s.layer q.1
    (s.tns.refresh.running = true → q.1 < s.layers.length →
      ∃ t : State, exec (.refreshSlice hits) s = .next t ∧ t.tns.refresh = Sweep.after q.1 q.2 s.sliceLen l
        ∧ t.get R.cntRefreshSlice = (s.get R.cntRefreshSlice + 1) % 2 ^ 32 ∧ (∀ j, j ≠ q.1 → t.layer j = s.layer j)
        ∧ (∀ o ∈ l.slice q.2 s.sliceLen, SMap.get (t.layer q.1).marks false o = false
            ∧ (hits = [] → l.linear = true → l.isVoid o = false → o < l.acc.length → (t.layer q.1).acc.getD o 0 = l.recompute l.readApplied o))
        ∧ (hits = [] → ∀ o, o ∉ l.slice q.2 s.sliceLen → (t.layer q.1).acc.getD o 0 = l.acc.getD o 0 ∧ (t.layer q.1).act.getD o 0 = l.act.getD o 0)
        ∧ (hits = [] → (t.layer q.1).edges = l.edges))
    ∧ (s.tns.refresh.running = false → exec (.refreshSlice hits) s = .next s))
  ∧ (∀ (die : Fin 2) (parity : Bool) (hits : List MemHit) (s : State), s.awake = true → s.tns.working = true →
    (∀ d i, s.nextDpp die = some (d, i) →
      ∃ (t : State) (cs : List Cand), exec (.dppRun die parity hits) s = .next t ∧ t.tns.dppDone = s.tns.dppDone ++ [i]
        ∧ t.tns.dets = s.tns.dets ++ cs.map (fun c => { c.detection d.port die with poison := c.poison || parity }) ∧ cs.length ≤ d.limit
        ∧ cs.Pairwise (fun a b => suppresses d a b = false)
        ∧ (∀ c ∈ cs, c.discarded = false ∧ ∃ c0 ∈ candidates d ((s.readHeads d hits).dppHeads d), c0.low (d.fp 16) = false
            ∧ c = { c0.clip (s.width d.port) (s.height d.port) with poison := c.poison })
        ∧ t.get R.cntDppSurv = (s.get R.cntDppSurv + cs.length) % 2 ^ 32 ∧ (hits = [] → t.active = s.active ∧ t.shadow = s.shadow)
        ∧ (hits = [] → parity = false → s.keepsRegs t [R.cntDppCand.key, R.cntDppDiscard.key, R.cntDppOverflow.key, R.cntDppTrunc.key, R.cntDppSurv.key,
            R.tnsPostStatusCandOvf.key, R.tnsPostStatusSurvTrunc.key]))
    ∧ (s.nextDpp die = none → exec (.dppRun die parity hits) s = .next s))

/-- Spikes reach neurons, instants close and steps start. An input event is injected to the cores of its route, an arriving spike leaks and adds its
weight to its context, a closed instant tests the contexts and fires with reset and payload, a step starts with shedding by slip, and the context
sweep and the step boundary do what their rules say (cores that take part: log entry 73). (R194, R195, R201, R202, R203, R204, R205, R208, R210, R211,
R212, R213.) -/
def Obligations.SpikesReachNeuronsAndSteps : Prop :=
  (∀ (e : Fin 8) (s : State) (v : EngineEvent) (l : List EngineEvent) (parity : Bool) (hits : List MemHit), s.awake = true → SMap.get s.cv.spikes [] e = v :: l →
    let p := bits v.word 47 3
    let pol := bit v.word 46
    let k := s.stepOf (v.time / 1000)
    let m := SMap.get (s.fabSet k).maps {} p
    let src := m.address (s.width p) (bits v.word 24 11) (bits v.word 35 11) pol
    let r := SMap.get (s.fabSet k).routes {} src
    let cs := (List.range 64).filter fun c => bit r.mask c
    let spike (c : Nat) : Spike := { core := c, source := src, engine := some e, stamp := v.time / 1000, payload := if pol then m.payPos else m.payNeg, poison := v.poison || parity || SMap.get (s.fabSet k).badRoute false src, marks := SMap.get s.fab.marks 0 e }
    let may := s.stepRuns k = true ∧ m.takes pol = true ∧ r.mask ≠ 0 ∧ s.offline (dieOfEngine e) = false
    (s.inputOpen e = false → exec (.inputSpikeInjection e parity hits) s = .next s)
    ∧ (s.inputOpen e = true → ∃ t : State, exec (.inputSpikeInjection e parity hits) s = .next t ∧ SMap.get t.cv.spikes [] e = l
        ∧ t.get R.cntParity = (if parity then (s.get R.cntParity + 1) % 2 ^ 32 else s.get R.cntParity))
    ∧ (may → s.inputOpen e = true → hits = [] → (∀ c ∈ cs, s.offline (dieOfCore c) = false ∧ (s.core c).shed = false ∧ (s.core c).buffer.length < 32768 ∧ ∃ j, (s.core c).step = some j ∧ k ≤ j) →
      ∃ t : State, exec (.inputSpikeInjection e parity hits) s = .next t ∧ t.fab.flight = s.fab.flight ++ cs.map spike
        ∧ t.get R.cntInject = (s.get R.cntInject + 1) % 2 ^ 32 ∧ (parity = false → s.keepsRegs t [R.cntInject.key]))
    ∧ (may → s.inputOpen e = true → hits = [] → (∀ c ∈ cs, s.offline (dieOfCore c) = false ∧ (s.core c).buffer.length < 32768 ∧ ∀ j, (s.core c).step = some j → j < k) →
      ∃ t : State, exec (.inputSpikeInjection e parity hits) s = .next t ∧ t.fab.flight = s.fab.flight
        ∧ (∀ c ∈ cs, (t.core c).buffer = (s.core c).buffer ++ [spike c]) ∧ t.get R.cntInject = (s.get R.cntInject + 1) % 2 ^ 32
        ∧ (parity = false → s.keepsRegs t [R.cntInject.key]))
    ∧ (¬ may → s.inputOpen e = true → hits = [] → ∃ t : State, exec (.inputSpikeInjection e parity hits) s = .next t ∧ t.fab.flight = s.fab.flight
        ∧ t.fab.core = s.fab.core ∧ (parity = false → s.keepsRegs t [])))
  ∧ (∀ (i : Nat) (s : State) (f : Spike) (parity : Bool) (hits : List MemHit), s.awake = true → s.fab.flight[i]? = some f →
    let c := f.core
    let k := s.stepOf f.stamp
    let closed := (s.core c).closed
    let a := if 0 < wrapDiff 16 f.stamp closed then f.stamp else closed + 1
    let syn := match (s.fabSet k).lookup c f.source with | some e => (s.fabSet k).synapses c e | none => []
    let badTables := (s.fabSet k).isBad (.first c (f.source / 2 ^ 17))
      || (match (s.fabSet k).lookup c f.source with | some e => (s.fabSet k).isBad (.second c e) | none => false)
    (s.spikeMayArrive i f = false → exec (.spikeArrival i parity hits) s = .next s)
    ∧ (s.spikeMayArrive i f = true → s.offline (dieOfCore c) = true →
      ∃ t : State, exec (.spikeArrival i parity hits) s = .next t ∧ t.fab.flight = s.fab.flight.eraseIdx i ∧ t.active = s.active ∧ t.shadow = s.shadow
        ∧ t.get R.cntDieDiscard = (s.get R.cntDieDiscard + 1) % 2 ^ 32 ∧ s.keepsRegs t [R.cntDieDiscard.key])
    ∧ (s.spikeMayArrive i f = true → s.offline (dieOfCore c) = false → s.get R.hifSvcMode ≠ 2 →
      (hits = [] → syn = [] → parity = false →
        ∃ t : State, exec (.spikeArrival i parity hits) s = .next t ∧ t.fab.flight = s.fab.flight.eraseIdx i ∧ t.active = s.active ∧ t.shadow = s.shadow
          ∧ t.get R.cntNosyn = (s.get R.cntNosyn + 1) % 2 ^ 32 ∧ s.keepsRegs t [R.cntNosyn.key])
      ∧ (∀ (ix : Nat) (x : Context), hits = [⟨.context c ix, .uncorrectable⟩] → s.context k c ix = some x → x.poison = false →
          ∃ t : State, exec (.spikeArrival i parity hits) s = .next t ∧ t.get R.fabStatusPoison = 1 ∧ t.get R.cntEccUncorr = (s.get R.cntEccUncorr + 1) % 2 ^ 32)
      ∧ (∀ (w : Nat) (x : Context) (spoilt : Bool), hits = [] → syn = [(w, spoilt)] → s.context k c (bits w 0 17) = some x →
          (f.poison || parity || badTables || spoilt || (s.fabSet k).isBad (.cls c x.cls)) = true →
          ∃ (t : State) (y : Context), exec (.spikeArrival i parity hits) s = .next t ∧ t.context k c (bits w 0 17) = some y ∧ y.acc = 0 ∧ y.poison = true)
      ∧ (∀ (w : Nat) (x : Context), hits = [] → parity = false → syn = [(w, false)] → s.context k c (bits w 0 17) = some x → f.poison = false →
          badTables = false → (s.fabSet k).isBad (.cls c x.cls) = false →
          let add := toSigned 8 (bits w 17 8) * f.payload
          let dt := if x.old then 255 else min 255 (ofInt 16 ((a : Int) - x.last))
          (x.pf = true → ¬ 0 < wrapDiff 16 a x.last →
            ∃ t : State, exec (.spikeArrival i parity hits) s = .next t ∧ t.fab.flight = s.fab.flight.eraseIdx i
              ∧ t.context k c (bits w 0 17) = some { x with acc := toSigned 42 (ofInt 42 (x.acc + add)) }
              ∧ t.get R.cntFold = (if a ≠ f.stamp ∨ a % 65536 ≠ x.last then (s.get R.cntFold + 1) % 2 ^ 32 else s.get R.cntFold)
              ∧ s.keepsRegs t [R.cntSynUpd.key, R.cntFold.key, R.fabStatusFold.key])
          ∧ (x.pf = false →
            ∃ (t : State) (y : Context), exec (.spikeArrival i parity hits) s = .next t ∧ t.fab.flight = s.fab.flight.eraseIdx i
              ∧ t.context k c (bits w 0 17) = some y
              ∧ y.acc = toSigned 42 (ofInt 42 ((x.acc * (((s.fabSet k).cls c x.cls).leak.getD dt 0x8000 : Nat)).tdiv 32768 + add))
              ∧ y.last = a % 65536 ∧ y.old = false ∧ y.pf = true ∧ y.cls = x.cls
              ∧ t.get R.cntSynUpd = (s.get R.cntSynUpd + 1) % 2 ^ 32
              ∧ t.get R.cntFold = (if a ≠ f.stamp then (s.get R.cntFold + 1) % 2 ^ 32 else s.get R.cntFold)
              ∧ s.keepsRegs t [R.cntSynUpd.key, R.cntFold.key, R.fabStatusFold.key]))))
  ∧ (∀ (c : Fin 64) (hits : List MemHit) (s : State),
    let q := (s.core c).closed + 1
    let k := s.stepOf q
    (s.mayClose c = false → exec (.instantClose c hits) s = .next s)
    ∧ (s.mayClose c = true → ∃ t : State, exec (.instantClose c hits) s = .next t ∧ (t.core c).closed = q ∧ (t.core c).step = (s.core c).step)
    ∧ (∀ (ix : Nat) (x : Context), ix < 2 ^ 17 → hits = [] → s.mayClose c = true → s.pendingAt k c q = [(c.val * 2 ^ 17 + ix, x)] → (s.fabSet k).isBad (.cls c x.cls) = false →
      let v := clampInt (-(2 ^ 23)) (2 ^ 23 - 1) x.acc
      let e := (s.fabSet k).cls c x.cls
      let r := SMap.get (s.fabSet k).routes {} (c.val * 2 ^ 17 + ix)
      ∃ (t : State) (y : Context), exec (.instantClose c hits) s = .next t ∧ t.context k c ix = some y ∧ y.pf = false ∧ y.last = x.last
        ∧ (v < e.theta → y.acc = v ∧ t.fab.flight = s.fab.flight ∧ t.get R.cntFire = s.get R.cntFire)
        ∧ (e.theta ≤ v → y.acc = (if e.reset = 0 then 0 else if e.reset = 1 then v - e.theta else v) ∧ t.get R.cntFire = (s.get R.cntFire + 1) % 2 ^ 32
            ∧ ((s.stepRuns (s.stepOf (q + 1)) = false ∨ s.inActive (s.stepOf (q + 1)) ≠ s.inActive k) →
                t.fab.flight = s.fab.flight ∧ t.get R.cntEdgeDrop = (s.get R.cntEdgeDrop + 1) % 2 ^ 32)
            ∧ (s.stepRuns (s.stepOf (q + 1)) = true → s.inActive (s.stepOf (q + 1)) = s.inActive k →
                t.fab.flight = s.fab.flight ++ ((List.range 64).filter fun d => bit r.mask d && !s.offline (dieOfCore d)).map fun d =>
                  { core := d, source := c.val * 2 ^ 17 + ix, stamp := q + 1, poison := x.poison || SMap.get (s.fabSet k).badRoute false (c.val * 2 ^ 17 + ix), marks := s.coreMarks c,
                    payload := if e.graded then clampInt 1 127 ((v - e.theta).fdiv (2 ^ e.shift)) else e.fix })))
    ∧ (∀ (ix : Nat) (x : Context), hits = [⟨.context c ix, .uncorrectable⟩] → s.mayClose c = true → s.context k c ix = some x → x.poison = false →
      ∃ t : State, exec (.instantClose c hits) s = .next t ∧ t.get R.fabStatusPoison = 1 ∧ t.get R.cntEccUncorr = (s.get R.cntEccUncorr + 1) % 2 ^ 32))
  ∧ (∀ (c : Fin 64) (s : State), s.awake = true →
    let k := s.nextCoreStep c
    let q := s.core c
    let mine := q.buffer.filter fun f => decide (s.stepOf f.stamp ≤ k)
    let shed := if q.shed then 0 < s.slip k else max 1 (s.get R.fabSlipLimit) < s.slip k
    (s.mayStart c k = true → s.late (tickOf (k * s.stepNs)) = false →
      ∃ t : State, exec (.stepStart c) s = .next t ∧ (t.core c).step = some k ∧ ((t.core c).shed = true ↔ shed)
        ∧ (t.core c).buffer = q.buffer.filter (fun f => !decide (s.stepOf f.stamp ≤ k))
        ∧ t.get R.fabStatusSlipMax = max (s.get R.fabStatusSlipMax) (min 255 (s.slip k)) % 2 ^ 8
        ∧ (¬ shed → t.fab.flight = s.fab.flight ++ mine ∧ t.get R.cntShedSlip = s.get R.cntShedSlip)
        ∧ (shed → t.fab.flight = s.fab.flight ∧ t.get R.cntShedSlip % 2 ^ 32 = (s.get R.cntShedSlip + mine.length) % 2 ^ 32))
    ∧ ((s.mayStart c k = false ∨ s.late (tickOf (k * s.stepNs)) = true) → exec (.stepStart c) s = .next s))
  ∧ (∀ (c : Fin 64) (ix : Nat) (hits : List MemHit) (s : State),
    let runs := s.timeRuns = true ∧ s.halted = false ∧ s.powered (dieOfCore c) = true
    let key := c.val * 2 ^ 17 + ix
    let aged (x : Context) : Context := if x.pf = false ∧ 255 ≤ ofInt 16 (((s.now / 1000 : Nat) : Int) - x.last) then { x with old := true } else x
    let visited (a b : ConfigSet) : Prop := ∀ j, SMap.find? j b.fab.ctx = if j = key then (SMap.find? j a.fab.ctx).map aged else SMap.find? j a.fab.ctx
    (runs → hits = [] →
      ∃ t : State, exec (.contextAgeSweep c ix hits) s = .next t ∧ (∀ a, s.active = some a → ∃ b, t.active = some b ∧ visited a b)
        ∧ (∀ a, s.shadow = some a → ∃ b, t.shadow = some b ∧ visited a b) ∧ t.get R.cntSweep = (s.get R.cntSweep + s.contextCount key) % 2 ^ 32
        ∧ s.keepsRegs t [R.cntSweep.key])
    ∧ (∀ (a : ConfigSet) (x : Context), runs → hits = [⟨.context c ix, .uncorrectable⟩] → s.active = some a → SMap.find? key a.fab.ctx = some x → x.poison = false →
      ∃ t : State, exec (.contextAgeSweep c ix hits) s = .next t ∧ t.get R.fabStatusPoison = 1 ∧ t.get R.cntEccUncorr = (s.get R.cntEccUncorr + 1) % 2 ^ 32
        ∧ t.get R.cntSweep = (s.get R.cntSweep + s.contextCount key) % 2 ^ 32
        ∧ ∃ b, t.active = some b ∧ (SMap.find? key b.fab.ctx).map (fun y => (y.acc, y.poison)) = some (0, true))
    ∧ (¬ runs → exec (.contextAgeSweep c ix hits) s = .next s))
  ∧ (∀ s : State, s.awake = true →
    ∃ t : State, exec .stepBoundary s = .next t
      ∧ t.deferred = s.deferred.filter (fun d => match d.due with | .tick _ => true | .step m => decide (s.now / s.stepNs < m))
      ∧ t.fab.flight = s.fab.flight ∧ t.cv = s.cv
      ∧ ∀ e : Fin 8, t.offline (dieOfEngine e) = false → SMap.get s.cv.spikes [] e = [] →
          SMap.get t.fab.marks 0 e = s.now / t.stepNs)

/-- Fabric outputs, its halt and command messages. Looming samples take the newest fire of a sector (free values: log entry 78), a reflex output is
driven by its counts and its hold expires, the fabric halts once every step before B has drained and keeps its sets, a set change is taken up at its
step, and a command message arrives at its die. (R220, R221, R222, R223, R226, R334.) -/
def Obligations.FabricOutputsAndHalts : Prop :=
  (∀ s : State, s.awake = true →
    let n := s.fab.loomNext
    let close := 25 * (n + 1)
    let full := s.allDrained (s.stepOf (close - 1))
    (s.inRun n = true → (full = true ∨ s.deadline n ≤ s.now) →
      ∃ (t : State) (l : List LoomSample), exec .loomingHandover s = .next t ∧ t.fab.loomNext = n + 1 ∧ SMap.find? n t.fab.loomOut = some l
        ∧ l.length = s.getIn R.fabLoomSectors 0 32 ∧ (∀ x ∈ l, x.incomplete = !full)
        ∧ (∀ (k : Nat) (x : LoomSample) (f : LoomFire), l[k]? = some x → f ∈ SMap.get s.fab.loom [] k → f.stamp < close →
            (∀ g ∈ SMap.get s.fab.loom [] k, g.stamp < close → g.stamp < f.stamp ∨ (g.stamp = f.stamp ∧ g.payload ≤ f.payload)) →
            x.age = close - f.stamp ∧ (¬ (1 ≤ f.payload ∧ f.payload ≤ 127) → x.valid = false) ∧ (s.get R.fabLoomHoldUs < close - f.stamp → x.valid = false)
              ∧ ((∀ g ∈ SMap.get s.fab.loom [] k, s.offline g.die = false) → 1 ≤ f.payload → f.payload ≤ 127 → close - f.stamp ≤ s.get R.fabLoomHoldUs →
                  x.valid = true)
              ∧ (∀ (c : ConfigSet) (w : Nat), s.stepSet (s.stepOf (close - 1)) = some c → 1 ≤ f.payload → f.payload ≤ 127 →
                  c.ttc[f.payload.toNat - 1]? = some w → x.ttc = w))
        ∧ (full = true → s.keepsRegs t [])
        ∧ (full = false → t.get R.cntLoomLate = (s.get R.cntLoomLate + s.getIn R.fabLoomSectors 0 32) % 2 ^ 32 ∧ s.keepsRegs t [R.cntLoomLate.key]))
    ∧ ((s.inRun n = false ∨ (full = false ∧ s.now < s.deadline n)) → exec .loomingHandover s = .next s))
  ∧ (∀ (parity : Bool) (s : State), s.awake = true →
    (s.fab.reflexQ = [] → exec (.reflexFire parity) s = .next s)
    ∧ (∀ (f : ReflexFire) (l : List ReflexFire), s.fab.reflexQ = f :: l →
      ∃ t : State, exec (.reflexFire parity) s = .next t ∧ t.fab.reflexQ = l ∧ t.time = s.time
        ∧ t.get R.cntParity = (if parity then (s.get R.cntParity + 1) % 2 ^ 32 else s.get R.cntParity)
        ∧ ∀ r : Fin 2,
          let meets := s.flag (R.fabReflexCfgEn r) = true ∧ s.get (R.fabReflexCfgGroup r) = f.group ∧ (s.reflex r).newest ≤ f.step + 63
          let sum := ((List.range (s.get (R.fabReflexCfgWinM1 r) + 1)).map fun d => if d ≤ f.step then SMap.get (t.reflex r).counts 0 (f.step - d) else 0).sum
          (meets → SMap.get (t.reflex r).counts 0 f.step = SMap.get (s.reflex r).counts 0 f.step + 1
            ∧ t.get (R.fabReflexStatCountNow r) = min 65535 sum
            ∧ (max 1 (s.get (R.fabReflexThrThr r)) ≤ sum →
                t.get (R.fabReflexStatAsserted r) = 1 ∧ (t.reflex r).holdEnd = s.now + max 1 (s.get (R.fabReflexHoldHoldUs r)) * 1000)
            ∧ (sum < max 1 (s.get (R.fabReflexThrThr r)) → t.get (R.fabReflexStatAsserted r) = s.get (R.fabReflexStatAsserted r)))
          ∧ (¬ meets → t.reflex r = s.reflex r ∧ t.get (R.fabReflexStatAsserted r) = s.get (R.fabReflexStatAsserted r)
            ∧ t.get (R.fabReflexStatCountNow r) = s.get (R.fabReflexStatCountNow r))))
  ∧ (∀ (r : Fin 2) (s : State), s.awake = true →
    let due := s.flag (R.fabReflexStatAsserted r) = true ∧ s.flag (R.fabReflexCfgLatch r) = false ∧ (s.reflex r).holdEnd ≤ s.now
    (due → ∃ t : State, exec (.reflexHoldExpiry r) s = .next t ∧ t.get (R.fabReflexStatAsserted r) = 0 ∧ s.keepsRegs t [(R.fabReflexStatAsserted r).key] ∧ t.fab = s.fab)
    ∧ (¬ due → exec (.reflexHoldExpiry r) s = .next s))
  ∧ (∀ (s : State) (b : Nat), s.awake = true → s.fab.halt = some b →
    let due := s.fab.running = true ∧ b * s.stepNs ≤ s.now ∧ (b ≤ s.fab.first ∨ s.allDrained (b - 1) = true)
    (due → ∃ t : State, exec .fabricHalt s = .next t ∧ t.fab.running = false ∧ t.fab.flight = [] ∧ (∀ c : Fin 64, (t.core c).buffer = [])
        ∧ (∀ c : Fin 64, (t.core c).closed = (s.core c).closed) ∧ t.active = s.active ∧ t.shadow = s.shadow ∧ t.fab.reflexQ = s.fab.reflexQ ∧ t.fab.reflex = s.fab.reflex)
    ∧ (¬ due → exec .fabricHalt s = .next s))
  ∧ (∀ (s : State) (b : Nat) (l : List (Nat × Bool)), s.awake = true → s.fab.swaps = (b, true) :: l →
    let due := b * s.stepNs ≤ s.now ∧ (s.fab.running = false ∨ b ≤ s.fab.first ∨ s.allDrained (b - 1) = true)
        let left := if s.fab.running = true ∧ s.fab.first < b then (s.cores (b - 1)).filter fun c => (s.core c).ran && !s.dieRuns b (dieOfCore c) else []
    (due → ∃ t : State, exec .fabricSetChange s = .next t ∧ t.fab.swaps = l ∧ t.active = s.active ∧ t.shadow = s.shadow ∧ t.fab.flight = s.fab.flight
        ∧ t.fab.windows = s.fab.windows ∧ t.get R.fabCntStep % 2 ^ 32 = (s.get R.fabCntStep + left.length) % 2 ^ 32 ∧ s.keepsRegs t [R.fabCntStep.key])
    ∧ (¬ due → exec .fabricSetChange s = .next s))
  ∧ (∀ (die : Fin 5) (parity : Bool) (s : State), s.awake = true →
    ∃ t : State, exec (.commandMessage die parity) s = .next t ∧ SMap.get t.ctl.messages 0 die = SMap.get s.ctl.messages 0 die - 1
      ∧ (∀ d, d ≠ die.val → SMap.get t.ctl.messages 0 d = SMap.get s.ctl.messages 0 d) ∧ t.err.hopFails = 0
      ∧ (parity = false → s.keepsRegs t []) ∧ (parity = true → t.get R.cntParity = (s.get R.cntParity + 1) % 2 ^ 32))

/-- Fusion passes. A pass of a due tick takes the samples that came, counts, keeps no track of confidence 0, and hands its FUSED_RESULT with tick,
instant and validity to its ring where enabled; a decimated tick only moves on; the network of the model core answers for a track whose features it
has while its die is powered (network: log entry 159; decimation: log entry 105). (R265, R273, R278, R281, R286, R287.) -/
def Obligations.FusionPassesRun : Prop :=
  (∀ (s : State) (n : Nat), s.awake = true → s.ftu.next = some n →
    let step := s.get R.pwrCapStatusFloorStep
    let want := if step < 5 then 0 else if step = 5 then 1 else 2
    let decim := if n % 2 ^ max s.ftu.decim want = 0 then want else s.ftu.decim
    let valid := (SMap.get s.tns.results {} n).done && !s.msdLost
    (s.passDue n = true → n % 2 ^ decim = 0 →
      ∃ t : State, exec .fusionPass s = .next t ∧ t.ftu.next = some (n + 1) ∧ t.ftu.decim = decim ∧ t.ftu.inbox = []
        ∧ t.get R.cntPass = (s.get R.cntPass + 1) % 2 ^ 32 ∧ (t.ftu.passed.head?).map (·.tick) = some n ∧ t.ftu.passed.length ≤ 16
        ∧ (∀ x ∈ t.ftu.cur.tracks, x.conf ≠ 0) ∧ t.time.dev = s.time.dev ∧ t.active = s.active ∧ t.lpddr = s.lpddr
        ∧ (s.flag R.ftuDestEn = true → ∃ h ∈ t.host.handed, h.ring = s.get R.ftuDestRing ∧ h.fn = s.getIn R.ftuDestFunc 0 7 ∧ h.record.type = 1 ∧ h.record.index = n
            ∧ slice h.record.payload 0 8 = leBytes n 8 ∧ slice h.record.payload 8 8 = leBytes ((n + 1) * 25000) 8
            ∧ bit (leAt h.record.payload 16 2) 0 = valid))
    ∧ (s.passDue n = true → n % 2 ^ decim ≠ 0 →
      ∃ t : State, exec .fusionPass s = .next t ∧ t.ftu.next = some (n + 1) ∧ t.ftu.cur = s.ftu.cur ∧ t.host.handed = s.host.handed ∧ s.keepsRegs t [])
    ∧ (s.passDue n = false → exec .fusionPass s = .next s))
  ∧ (∀ (id : Nat) (s : State), s.awake = true →
    let sent := (s.ftu.cur.tracks.find? fun x => x.id == id).bind (·.sent)
    let due := s.powered (dieOfCore (s.get R.ftuModelCore)) = true ∧ sent.isSome = true
    (due → ∃ (t : State) (vals : List Byte), exec (.residualReturn id) s = .next t ∧ SMap.find? id t.ftu.cur.resid = some vals ∧ vals.length = 10
        ∧ sent.map (residNet s.ftuSection) = some vals ∧ t.ftu.cur.tracks = s.ftu.cur.tracks
        ∧ s.keepsRegs t [])
    ∧ (¬ due → exec (.residualReturn id) s = .next s))

/-- Shroud, operating point, cap and thermal control. A limiter sample lowers the duty above its limit and releases it below, its means over a
millisecond are compared, the operating point steps one at a time, the voltage first on the way up and the clock first on the way down, 10 µs apart
(log entry 107), a rail is checked at the end of that wait, the cap takes at most one action a millisecond in the order of R401 to R403 (log entries
110, 111), thermal control throttles and recovers, a trip halts the device wherever the die of its sensor is powered, and rails are shown as measured.
(R386, R387, R388, R394, R396, R401, R402, R403, R405, R406, R407, R408.) -/
def Obligations.PowerIsControlled : Prop :=
  let estKeys : List Nat := R.pwrEstTotalM1.key :: R.pwrEstTotalM10.key :: (List.range 5).map fun d => (R.pwrEstDieM1 d).key
  (∀ (r : Fin 6) (acts : List Nat) (sense : Nat) (s : State), s.awake = true → r.val < 5 →
    let x := max (2 * s.energyOf r acts / s.volts r) (sense * s.get (R.pwrIsnsScaleScale r) * 1000)
    let sum := (((x :: (s.limiter r).samples).take 4).foldl (· + ·) 0)
    let cnt := cntTrip r
    ∃ t : State, exec (.shroudSample r acts sense) s = .next t ∧ (t.limiter r).samples = (x :: (s.limiter r).samples).take 4
      ∧ t.get (R.pwrShroudStatMean r) = min 65535 (roundDiv sum 40000)
      ∧ (4 * s.limitA r * 1000000 < sum →
          (t.limiter r).duty = max 4 ((s.limiter r).duty - 16) ∧ t.get (R.pwrShroudStatTrip r) = 1 ∧ t.get cnt = (s.get cnt + 1) % 2 ^ 32)
      ∧ (sum ≤ 4 * s.limitA r * 1000000 → (s.limiter r).duty ≤ 64 → (s.limiter r).duty ≤ (t.limiter r).duty ∧ t.get (R.pwrShroudStatTrip r) = s.get (R.pwrShroudStatTrip r)
          ∧ t.get cnt = s.get cnt)
      ∧ (sum ≤ 4 * s.limitA r * 1000000 → 9 * (4 * s.limitA r * 1000000) < 10 * sum → (s.limiter r).releasing = false →
          (t.limiter r).duty = (s.limiter r).duty)
      ∧ t.get R.pwrDutyCd0 = t.duty 0 ∧ t.get R.pwrDutyCd1 = t.duty 1 ∧ t.time = s.time ∧ t.active = s.active)
  ∧ (∀ (acts : List Nat) (sense : Nat) (s : State), s.awake = true →
    let l := s.rollEnergy.limiter 5
    ∃ t : State, exec (.shroudSample 5 acts sense) s = .next t ∧ t.limiter 5 = { l with measSum := l.measSum + sense * s.get (R.pwrIsnsScaleScale 5) * 1000, count := l.count + 1 }
      ∧ s.keepsRegs t estKeys ∧ t.time = s.time)
  ∧ (∀ (r : Fin 5) (s : State), s.awake = true →
    let l := s.rollEnergy.limiter r
    let apart := s.getIn R.pwrShroudCfgTolPct 1 100 * l.measMean < 100 * ((l.estMean : Int) - l.measMean).natAbs
    (s.pwr.ms < s.now / 1000000 → l.estMean = (s.limiter r).estSum / max 1 (s.limiter r).count ∧ l.measMean = (s.limiter r).measSum / max 1 (s.limiter r).count)
    ∧ (s.now / 1000000 ≤ s.pwr.ms → l = s.limiter r)
    ∧ (apart → ∃ t : State, exec (.estMismatch r) s = .next t ∧ t.get (R.pwrShroudStatEstMismatch r) = 1
        ∧ s.keepsRegs t ((R.pwrShroudStatEstMismatch r).key :: estKeys))
    ∧ (¬ apart → exec (.estMismatch r) s = .next s))
  ∧ (∀ s : State, s.awake = true →
    let cur := s.get R.pwrOpCurrent
    let want := min s.phaseEntry.1 (min (s.get R.pwrOpCapBound) (s.get R.pwrOpThermBound))
    let v := s.pwr.voltOp
    let clocked (t : State) (op : Nat) := t.get R.pwrOpCurrent = op % 2 ^ 3 ∧ t.get R.cntOpStep = (s.get R.cntOpStep + 1) % 2 ^ 32 ∧ t.get R.pwrOpTarget = want % 2 ^ 3
      ∧ s.keepsRegs t [R.pwrOpCurrent.key, R.cntOpStep.key, R.pwrOpTarget.key, R.cntTraceDrop.key]
    let commanded (t : State) (op : Nat) := t.pwr.voltOp = op ∧ t.pwr.opReady = s.now + 10000 ∧ t.pwr.vrWait = [0, 1]
      ∧ t.pwr.vrWrites.map (fun w => (w.die, w.mv)) = s.pwr.vrWrites.map (fun w => (w.die, w.mv)) ++ [(0, t.volts 0), (1, t.volts 1)]
    (s.now < s.pwr.opReady → exec .opStep s = .next s)
    ∧ (s.pwr.opReady ≤ s.now → cur < v → ∃ t : State, exec .opStep s = .next t ∧ clocked t v ∧ t.pwr = s.pwr)
    ∧ (s.pwr.opReady ≤ s.now → v ≤ cur → cur < want → ∃ t : State, exec .opStep s = .next t ∧ commanded t (cur + 1) ∧ s.keepsRegs t [R.pwrOpTarget.key])
    ∧ (s.pwr.opReady ≤ s.now → v ≤ cur → want < cur → ∃ t : State, exec .opStep s = .next t ∧ clocked t (cur - 1) ∧ commanded t (cur - 1))
    ∧ (s.pwr.opReady ≤ s.now → v ≤ cur → want = cur → exec .opStep s = .next s))
  ∧ (∀ (d : Fin 2) (mv : Nat) (s : State), s.awake = true →
    let due := d.val ∈ s.pwr.vrWait ∧ s.pwr.opReady ≤ s.now
    (due → (s.volts d + 25 < mv ∨ mv + 25 < s.volts d) →
      ∃ t : State, exec (.vrCheck d mv) s = .next t ∧ t.get R.pwrStatusVrErr = 1 ∧ t.get R.cntVrErr = (s.get R.cntVrErr + 1) % 2 ^ 32
        ∧ t.pwr.vrWait = s.pwr.vrWait.filter (· != d.val) ∧ s.keepsRegs t (R.pwrStatusVrErr.key :: R.cntVrErr.key :: faultKeys))
    ∧ (due → (mv ≤ s.volts d + 25 ∧ s.volts d ≤ mv + 25) →
      ∃ t : State, exec (.vrCheck d mv) s = .next t ∧ t.pwr.vrWait = s.pwr.vrWait.filter (· != d.val) ∧ s.keepsRegs t [])
    ∧ (¬ due → exec (.vrCheck d mv) s = .next s))
  ∧ (∀ s : State, s.awake = true →
    let m := s.now / 1000000
    let e := s.rollEnergy
    let cap := s.capW * 10 ^ 12
    let low := (s.capW - s.getIn R.pwrCapHystW 1 15) * 10 ^ 12
    let n := max 1 e.msHeld
    let m10 := ((List.range 10).map e.msEnergy).sum
    let cur := s.get R.pwrOpCurrent
    let step := s.get R.pwrCapStatusFloorStep
    let bound := s.get R.pwrOpCapBound
    (s.capW = 0 ∨ s.pwr.evalMs = some m → exec .capEvaluation s = .next s)
    ∧ (s.capW ≠ 0 → s.pwr.evalMs ≠ some m →
      (cap < e.msEnergy 0 → 0 < cur → ∃ t : State, exec .capEvaluation s = .next t ∧ t.get R.pwrOpCapBound = (cur - 1) % 2 ^ 3 ∧ t.get R.pwrCapStatusFloorStep = step
          ∧ t.get R.cntCapAction = (s.get R.cntCapAction + 1) % 2 ^ 32 ∧ t.pwr.actMs = some m ∧ t.pwr.evalMs = some m)
      ∧ (cap < e.msEnergy 0 → cur = 0 → step < 6 → ∃ t : State, exec .capEvaluation s = .next t
          ∧ t.get R.pwrCapStatusFloorStep = (if step = 0 ∧ s.flag R.tnsGauzeCtlDisable = true then 2 else step + 1) ∧ t.get R.pwrOpCapBound = bound
          ∧ t.get R.cntCapAction = (s.get R.cntCapAction + 1) % 2 ^ 32 ∧ t.pwr.actMs = some m ∧ t.pwr.evalMs = some m)
      ∧ (cap < e.msEnergy 0 → cur = 0 → 6 ≤ step → ∃ t : State, exec .capEvaluation s = .next t ∧ t.get R.pwrCapStatusCapUnreachable = 1
          ∧ t.get R.pwrCapFloorFloor = tenthWatts (m10 / n) ∧ t.get R.pwrCapStatusFloorStep = step ∧ t.get R.pwrOpCapBound = bound
          ∧ t.get R.cntCapAction = s.get R.cntCapAction ∧ t.pwr.actMs = s.pwr.actMs)
      ∧ (e.msEnergy 0 ≤ cap → ∃ t : State, exec .capEvaluation s = .next t ∧ t.get R.pwrCapStatusCapUnreachable = 0 ∧ t.pwr.evalMs = some m
          ∧ ((e.msEnergy 0 ≤ low ∧ m10 ≤ low * n ∧ (∀ a, s.pwr.actMs = some a → a + 10 ≤ m)) →
              (0 < step → t.get R.pwrCapStatusFloorStep = (if step = 2 ∧ s.flag R.tnsGauzeCtlDisable = true then 0 else step - 1) % 2 ^ 3 ∧ t.get R.pwrOpCapBound = bound)
              ∧ (step = 0 → bound < 7 → t.get R.pwrCapStatusFloorStep = step ∧ t.get R.pwrOpCapBound = bound + 1)
              ∧ (step = 0 → 7 ≤ bound → t.get R.pwrCapStatusFloorStep = step ∧ t.get R.pwrOpCapBound = bound))
          ∧ (¬ (e.msEnergy 0 ≤ low ∧ m10 ≤ low * n ∧ (∀ a, s.pwr.actMs = some a → a + 10 ≤ m)) →
              t.get R.pwrCapStatusFloorStep = step ∧ t.get R.pwrOpCapBound = bound ∧ t.get R.cntCapAction = s.get R.cntCapAction))))
  ∧ (∀ (temps : List Int) (s : State), s.awake = true →
    let cur := s.get R.pwrOpCurrent
    let bound := s.get R.pwrOpThermBound
    let duty := s.get R.pwrThermStatusThermDuty
    let on := s.flag R.pwrThermStatusThrottling
    ∃ t : State, exec (.thermalControl temps) s = .next t
      ∧ (∀ (k : Nat) (c : Int), k < 44 → temps[k]? = some c → t.get (R.pwrTsensTemp k) = ofInt 8 (clampInt (-128) 127 c))
      ∧ (∀ d : Fin 5, t.tj d = t.hottest d)
      ∧ (let hot := ∃ d : Fin 5, (s.throt : Int) ≤ t.tj d
        let cool := ∀ d : Fin 5, t.tj d < (s.throt : Int) - s.getIn R.pwrThermCfgHystC 1 15
        (on = false → hot → t.get R.pwrThermStatusThrottling = 1 ∧ t.get R.cntThrot = (s.get R.cntThrot + 1) % 2 ^ 32
          ∧ (0 < cur → t.get R.pwrOpThermBound = (cur - 1) % 2 ^ 3 ∧ t.get R.pwrThermStatusThermDuty = duty)
          ∧ (cur = 0 → t.get R.pwrOpThermBound = 0 ∧ t.get R.pwrThermStatusThermDuty = max 4 (duty - 1) % 2 ^ 5))
        ∧ (on = false → ¬ hot → t.get R.pwrThermStatusThrottling = s.get R.pwrThermStatusThrottling ∧ t.get R.pwrOpThermBound = bound
          ∧ t.get R.pwrThermStatusThermDuty = duty)
        ∧ (∀ u, on = true → hot → s.pwr.hotSince = some u → u + 1000000 ≤ s.now →
          (0 < bound → t.get R.pwrOpThermBound = (bound - 1) % 2 ^ 3 ∧ t.get R.pwrThermStatusThermDuty = duty)
          ∧ (bound = 0 → t.get R.pwrOpThermBound = 0 ∧ t.get R.pwrThermStatusThermDuty = max 4 (duty - 1) % 2 ^ 5))
        ∧ (∀ u, on = true → cool → s.pwr.coolSince = some u → u + 10000000 ≤ s.now →
          (duty < 16 → t.get R.pwrThermStatusThermDuty = duty + 1 ∧ t.get R.pwrOpThermBound = bound)
          ∧ (16 ≤ duty → t.get R.pwrThermStatusThermDuty = duty ∧ t.get R.pwrOpThermBound = min 7 (bound + 1))
          ∧ (t.get R.pwrOpThermBound = 7 → t.get R.pwrThermStatusThermDuty = 16 → t.get R.pwrThermStatusThrottling = 0)
          ∧ (t.get R.pwrOpThermBound ≠ 7 ∨ t.get R.pwrThermStatusThermDuty ≠ 16 → t.get R.pwrThermStatusThrottling = s.get R.pwrThermStatusThrottling))))
  ∧ (∀ (sensor : Nat) (temp : Int) (s : State),
    let powered := s.railOn (penOfDie (dieOfSensor sensor)) = true
    (powered → 125 ≤ temp → sensor < 44 →
      ∃ t : State, exec (.thermtrip sensor temp) s = .next t ∧ t.get R.pwrThermStatusTrip = 1 ∧ t.halted = true
        ∧ t.get (R.pwrTsensTemp sensor) = ofInt 8 (min 127 temp))
    ∧ (¬ (powered ∧ 125 ≤ temp ∧ sensor < 44) → exec (.thermtrip sensor temp) s = .next s))
  ∧ (∀ (mv : List Nat) (s : State), s.awake = true →
    ∃ t : State, exec (.railMeasure mv) s = .next t
      ∧ (∀ v : Fin 8, t.get (R.pwrRailMv v) = match mv[v.val]? with | some x => min 4095 x | none => s.get (R.pwrRailMv v))
      ∧ (∀ v : Fin 6, t.get (R.pwrRailI10ma v) = min 65535 (roundDiv (s.rollEnergy.limiter v).measMean 10000))
      ∧ (∀ x : Fld, x.key ∉ estKeys → (∀ v : Fin 8, x.key ≠ (R.pwrRailMv v).key) → (∀ v : Fin 6, x.key ≠ (R.pwrRailI10ma v).key) → t.get x = s.get x))

/-- Reef states, ready, links and scrubbing. Idle timers enter a reef state only where their conditions hold, an entry ends in the state or in the
exit of a latched wake, wake sources wake the states of R417, ready records the loss and makes every function READY, the rail check of a power
sequence passes within 5 % of every nominal voltage and else releases the outputs on the way back to REEF3 with the output shown (log entry 145); the
eighth retry in 1 ms retrains a link, a retrain over 10 µs is fatal, and a scrub visit counts and reports what it finds once, an uncorrectable word
being stored as poisoned (log entries 70, 122, 131). (R412, R414, R415, R416, R417, R419, R420, R431, R439, R440, R446, R448.) -/
def Obligations.ReefStatesAndLinks : Prop :=
  let ready : List Nat := (List.range 8).map fun f => (R.fnStatusReady f).key
  (∀ s : State, s.awake = true →
    let due := s.get R.mgtIdle1Us ≠ 0 ∧ s.block = 0 ∧ s.reef.idleAt + 1000 * max 10 (s.get R.mgtIdle1Us) * 2 ^ 32 ≤ s.time.dev
    (due → ∃ t : State, exec .idle1Expiry s = .next t ∧ t.phase = .entering 1 (s.time.clk + 50) none ∧ (∀ f : Fin 8, t.get (R.fnStatusReady f) = 0)
        ∧ t.reef.since = s.now ∧ s.keepsRegs t ready)
    ∧ (¬ due → exec .idle1Expiry s = .next s))
  ∧ (∀ (l12 : Bool) (s : State), s.phase = .reef 1 → s.halted = false →
    let due := l12 = true ∧ s.get R.mgtIdle1Us ≠ 0 ∧ s.get R.mgtIdle2Ms ≠ 0 ∧ s.reef.since + 1000000 * s.get R.mgtIdle2Ms ≤ s.now
    (due → ∃ t : State, exec (.idle2Expiry l12) s = .next t ∧ t.phase = .entering 2 (s.time.clk + 75000) none ∧ s.keepsRegs t ready)
    ∧ (¬ due → exec (.idle2Expiry l12) s = .next s))
  ∧ (∀ s : State, s.phase = .reef 2 → s.halted = false →
    let due := s.get R.mgtIdle1Us ≠ 0 ∧ s.get R.mgtIdle2Ms ≠ 0 ∧ s.get R.mgtIdle3S ≠ 0 ∧ s.get R.mgtIdle3LinkOk ≠ 0
      ∧ s.reef.sinceClk + 250000000 * min 3600 (s.get R.mgtIdle3S) ≤ s.time.clk
    (due → ∃ (t : State) (n : Nat), exec .idle3Expiry s = .next t ∧ n + 1250000 ≤ 15000000 ∧ t.phase = .entering 3 (s.time.clk + n + 1250000) none
        ∧ t.reef.rails = .falling (s.time.clk + n) none ∧ t.obs.lifeDue = true
        ∧ s.keepsRegs t [])
    ∧ (¬ due → exec .idle3Expiry s = .next s))
  ∧ (∀ (n e : Nat) (w : Option WakeMark) (s : State), s.phase = .entering n e w →
    (e ≤ s.time.clk → ∃ t : State, exec .reefEntryDone s = .next t ∧ (n ≠ 3 → s.keepsRegs t [])
        ∧ (∀ t0 k, n = 3 → s.reef.rails = .falling t0 (some k) → t.get R.mgtPwrseqSeqFail = 1 ∧ t.get R.mgtPwrseqFailPen = k % 2 ^ 3
            ∧ s.keepsRegs t [R.mgtPwrseqSeqFail.key, R.mgtPwrseqFailPen.key])
        ∧ (n = 3 → (∀ t0 k, s.reef.rails ≠ .falling t0 (some k)) → t.obs.lifeDue = false ∧ s.keepsRegs t [R.lifSeqSeq.key])
        ∧ (w = none → t.phase = .reef n ∧ (n = 3 → t.reef.rails = .off))
        ∧ (∀ m, w = some m → (n = 3 → t.reef.rails = .rising s.time.clk) ∧ t.phase = .exiting n (s.time.clk + if n = 1 then 375 else if n = 2 then 60000 else 18750000) m))
    ∧ (s.time.clk < e → exec .reefEntryDone s = .next s))
  ∧ (∀ (n : Nat) (w : WakeSource) (s : State), 1 ≤ n → n ≤ 3 →
    let wakes : Prop := match w with
      | .port p => n ≤ 2 ∧ bit (s.get R.ingCtlPortEn) p = true ∧ bit (s.get R.mgtWakeEnPort) p = true
      | .tci c => n ≤ 2 ∧ s.get (R.timTciCfgEn c) ≠ 0 ∧ bit (s.get R.mgtWakeEnTci) c = true
      | .alarm => n = 1 ∧ s.get R.mgtAlarmCtlEn ≠ 0 ∧ s.reef.since ≤ s.get R.mgtAlarmNs ∧ s.get R.mgtAlarmNs ≤ s.now
      | .pcie => n ≤ 2
      | .i2c => True
      | .perst => False
    (s.phase = .reef n → wakes → ∃ (t : State) (m : WakeMark), exec (.wake w) s = .next t
        ∧ t.phase = .exiting n (s.time.clk + if n = 1 then 375 else if n = 2 then 60000 else 18750000) m
        ∧ t.reef.rails = (if n = 3 then .rising s.time.clk else s.reef.rails) ∧ s.keepsRegs t [])
    ∧ (∀ e, s.phase = .entering n e none → wakes → ∃ (t : State) (m : WakeMark), exec (.wake w) s = .next t ∧ t.phase = .entering n e (some m) ∧ s.keepsRegs t [])
    ∧ (s.phase = .reef n → ¬ wakes → exec (.wake w) s = .next s)
    ∧ (s.phase = .sail → exec (.wake w) s = .next s))
  ∧ (∀ (mv : List Nat) (ddr : Bool) (s : State), s.host.held = [] → s.reef.served = [] → s.reef.flr = [] → s.reef.merged = false →
    let passed := s.reef.rails = .up ∨ ∃ t0, s.reef.rails = .rising t0 ∧ t0 + 3000000 ≤ s.time.clk ∧ failedPen mv ddr = none
    (∀ r k, passed → s.phase = .boot r → r ≤ s.time.clk → s.reef.testEn = false → s.reef.causes = [k] → 1 ≤ k → k ≤ 6 →
      ∃ t : State, exec (.ready mv ddr) s = .next t ∧ t.phase = .sail ∧ t.reef.rails = .up ∧ (∀ f : Fin 8, t.get (R.fnStatusReady f) = 1)
        ∧ t.get R.hifStateLostClasses = (s.get R.hifStateLostClasses ||| s.reef.classes) % 2 ^ 4 ∧ t.get R.hifStateLostCause = k
        ∧ t.get R.hifLossEpochEpoch = (s.get R.hifLossEpochEpoch + 1) % 2 ^ 32
        ∧ (∀ f : Fin 8, t.get (R.fnStateLostClasses f) = (s.get (R.fnStateLostClasses f) ||| s.reef.classes) % 2 ^ 4
            ∧ t.get (R.fnLossEpochEpoch f) = (s.get (R.fnLossEpochEpoch f) + 1) % 2 ^ 32)
        ∧ t.reef.causes = [])
    ∧ (∀ n r m, passed → s.phase = .exiting n r m → r ≤ s.time.clk → s.reef.causes = [] → s.reef.classes = 0 → 1 ≤ n → n ≤ 3 →
      ∃ t : State, exec (.ready mv ddr) s = .next t ∧ t.phase = .sail ∧ (∀ f : Fin 8, t.get (R.fnStatusReady f) = 1)
        ∧ t.get R.mgtReefStatusLastState = n ∧ t.get R.mgtReefStatusWakeSrc = m.src % 2 ^ 3 ∧ t.get R.mgtReefStatusWakePort = m.port % 2 ^ 3
        ∧ (n = 1 → t.get R.hifLossEpochEpoch = s.get R.hifLossEpochEpoch ∧ t.active = s.active ∧ t.lpddr = s.lpddr ∧ t.cv = s.cv)
        ∧ (n = 2 → t.get R.hifStateLostCause = 1 ∧ t.get R.hifStateLostClasses = (s.get R.hifStateLostClasses ||| 8) % 2 ^ 4
            ∧ t.get R.hifLossEpochEpoch = (s.get R.hifLossEpochEpoch + 1) % 2 ^ 32 ∧ t.get R.timStatusCoarse = 1 ∧ t.lpddr = s.lpddr ∧ t.ctl.staleMark = true)
        ∧ (n = 3 → t.get R.hifStateLostCause = 2 ∧ t.get R.hifStateLostClasses = (s.get R.hifStateLostClasses ||| 0xE) % 2 ^ 4
            ∧ t.get R.hifLossEpochEpoch = (s.get R.hifLossEpochEpoch + 1) % 2 ^ 32 ∧ t.lpddr = [] ∧ t.active = none ∧ t.shadow = none))
    ∧ (let early := (∃ r, s.phase = .boot r ∧ (s.time.clk < r ∨ s.reef.testEn = true)) ∨ (∃ n r m, s.phase = .exiting n r m ∧ s.time.clk < r)
          ∨ (∃ n, s.phase = .reef n) ∨ s.phase = .sail
      early → ((s.reef.rails = .up ∨ ∃ t0, s.reef.rails = .rising t0 ∧ s.time.clk < t0 + 3000000) → exec (.ready mv ddr) s = .next s)
        ∧ (∀ t0, s.reef.rails = .rising t0 → t0 + 3000000 ≤ s.time.clk → failedPen mv ddr = none →
            exec (.ready mv ddr) s = .next { s with reef := { s.reef with rails := .up } })))
  ∧ (∀ (mv : List Nat) (ddr : Bool) (t0 k : Nat) (s : State), s.reef.rails = .rising t0 → t0 + 3000000 ≤ s.time.clk → failedPen mv ddr = some k →
    ∃ t : State, exec (.ready mv ddr) s = .next t ∧ t.phase = .entering 3 (t0 + 4250000) none ∧ t.reef.rails = .falling (t0 + 3000000) (some k) ∧ s.keepsRegs t [])
  ∧ (∀ (mv : List Nat) (ddr : Bool), failedPen mv ddr = none ↔
    (ddr = true ∧ ∀ (i : Nat) (e : Nat × Nat), railTable[i]? = some e → 95 * e.1 ≤ 100 * mv.getD i 0 ∧ 100 * mv.getD i 0 ≤ 105 * e.1))
  ∧ (∀ (f : Fin 8) (at0 : Nat) (mv : List Nat) (ddr : Bool) (s : State), s.phase = .sail → s.reef.rails = .up → s.reef.merged = false → s.host.held = [] → s.reef.served = [] → s.reef.flr = [(f.val, at0)] → at0 ≤ s.time.clk →
    ∃ t : State, exec (.ready mv ddr) s = .next t ∧ t.reef.flr = [] ∧ t.get (R.fnStatusReady f) = 1
      ∧ t.get (R.fnStateLostClasses f) = (s.get (R.fnStateLostClasses f) ||| 0xC) % 2 ^ 4 ∧ t.get (R.fnLossEpochEpoch f) = (s.get (R.fnLossEpochEpoch f) + 1) % 2 ^ 32
      ∧ t.get R.hifStateLostCause = 3 ∧ t.get R.hifLossEpochEpoch = (s.get R.hifLossEpochEpoch + 1) % 2 ^ 32
      ∧ (∀ g : Fin 8, g ≠ f → t.get (R.fnLossEpochEpoch g) = s.get (R.fnLossEpochEpoch g)))
  ∧ (∀ (l : Fin 7) (s : State), s.awake = true →
    let die := if l = 0 ∨ l = 1 ∨ l = 5 then 0 else 1
    ((s.link l).retrain = none →
      let times := s.now :: (s.link l).retries.filter fun a => decide (s.now < a + 1000000)
      ∃ t : State, exec (.vejanRetry l) s = .next t ∧ t.get (R.errLinkCntRetry l) = (s.get (R.errLinkCntRetry l) + 1) % 2 ^ 32
        ∧ (8 ≤ times.length → (t.link l).retrain = some s.now) ∧ (times.length < 8 → (t.link l).retrain = none ∧ (t.link l).retries = times)
        ∧ t.get R.errStatusCorrected = 1)
    ∧ (∀ a, (s.link l).retrain = some a → exec (.vejanRetry l) s = .next s
      ∧ (s.now < a + 10000 → ∃ t : State, exec (.retrainComplete l) s = .next t ∧ (t.link l).retrain = none
          ∧ t.get (R.errLinkCntRetrain l) = (s.get (R.errLinkCntRetrain l) + 1) % 2 ^ 32
          ∧ s.keepsRegs t ((R.errLinkCntRetrain l).key :: faultKeys))
      ∧ (a + 10000 ≤ s.now → exec (.retrainComplete l) s = .next s
          ∧ ∃ u : State, exec (.retrainTimeout l) s = .next (u.fatal 0x09 die l 0) ∧ (u.link l).retrain = none ∧ s.keepsRegs u [])
      ∧ (s.now < a + 10000 → exec (.retrainTimeout l) s = .next s))
    ∧ ((s.link l).retrain = none → exec (.retrainComplete l) s = .next s ∧ exec (.retrainTimeout l) s = .next s))
  ∧ (∀ s : State, s.awake = true →
    (s.err.hopFails < 3 → ∃ t : State, exec .halyardHopRetry s = .next t ∧ t.err.hopFails = s.err.hopFails + 1
        ∧ t.get R.cntHalRetry = (s.get R.cntHalRetry + 1) % 2 ^ 32 ∧ s.keepsRegs t [R.cntHalRetry.key])
    ∧ (3 ≤ s.err.hopFails → ∃ t : State, exec .halyardHopRetry s = .next t ∧ t.halted = true ∧ t.err.hopFails = 0))
  ∧ (∀ (m : MemKind) (a : Nat) (shadow : Bool) (w : MemWord) (s : State), s.awake = true →
    let set := if shadow then s.shadow else s.active
    let held := match w with
      | .canvas _ => true
      | _ => match set with
        | some c => (match wordLayer w with | some i => (c.layers.getD i noLayer).holds w | none => c.fab.holds w)
        | none => false
    (∀ e : Ecc, (s.dieOff (dieOfMem m a) = true ∨ s.wordBad shadow w = true ∨ e = .ok) → exec (.scrubVisit m a shadow ⟨w, e⟩) s = .next s)
    ∧ (s.dieOff (dieOfMem m a) = false → s.wordBad shadow w = false →
      (∃ t : State, exec (.scrubVisit m a shadow ⟨w, .single⟩) s = .next t ∧ t.get R.cntEccCorr = (s.get R.cntEccCorr + 1) % 2 ^ 32 ∧ t.get R.errStatusCorrected = 1
        ∧ s.keepsRegs t (R.cntEccCorr.key :: faultKeys))
      ∧ (∃ t : State, exec (.scrubVisit m a shadow ⟨w, .uncorrectable⟩) s = .next t ∧ t.get R.cntEccUncorr = (s.get R.cntEccUncorr + 1) % 2 ^ 32
        ∧ t.get R.errStatusContained = 1 ∧ s.keepsRegs t (R.cntEccUncorr.key :: faultKeys)
        ∧ (held = true → t.wordBad shadow w = true ∧ ∀ e : Ecc, exec (.scrubVisit m a shadow ⟨w, e⟩) t = .next t))))

/-- Time pulses and captures. A time pulse output is placed against the present instant when it is enabled, its edges come at START plus whole periods
and WIDTH later, one that missed its single pulse sets MISSED; an edge on an enabled input that passes its glitch filter is captured within 4 ns (log
entry 93), displaces the oldest of 16 and counts the overflow, and in REEF2 is kept until ready. (R373, R374, R375, R376, R378.) -/
def Obligations.PulsesAndCapturesRun : Prop :=
  (∀ (p : Fin 4) (v : Word) (c : Instr) (s : State), s.served = true → (c = .tpoEnable p v ∨ c = .tpoDisable p v) →
    let start := s.get (R.timTpoStartStart p) * 2 ^ 32
    let per := s.get (R.timTpoPeriodPeriod p) * 2 ^ 32
    let cfg := [(R.timTpoCfgEn p).key, (R.timTpoCfgActiveHigh p).key, (R.timTpoCfgIrqEn p).key]
    (bit v.toNat 0 = false → ∃ t : State, exec c s = .next t ∧ t.tpo p = {} ∧ t.get (R.timTpoCfgEn p) = 0 ∧ t.time.dev = s.time.dev ∧ s.keepsRegs t cfg)
    ∧ (bit v.toNat 0 = true → s.flag (R.timTpoCfgEn p) = true →
      ∃ t : State, exec c s = .next t ∧ t.tpo p = s.tpo p ∧ t.get (R.timTpoCfgEn p) = 1 ∧ s.keepsRegs t cfg)
    ∧ (bit v.toNat 0 = true → s.flag (R.timTpoCfgEn p) = false → 0 < per →
      ∃ t : State, exec c s = .next t ∧ t.get (R.timTpoCfgEn p) = 1 ∧ (t.tpo p).armed = true ∧ s.time.dev ≤ start + (t.tpo p).k * per
        ∧ ((t.tpo p).k = 0 ∨ start + ((t.tpo p).k - 1) * per < s.time.dev) ∧ s.keepsRegs t cfg)
    ∧ (bit v.toNat 0 = true → s.flag (R.timTpoCfgEn p) = false → per = 0 → s.time.dev ≤ start →
      ∃ t : State, exec c s = .next t ∧ t.get (R.timTpoCfgEn p) = 1 ∧ (t.tpo p).armed = true ∧ (t.tpo p).k = 0 ∧ s.keepsRegs t cfg)
    ∧ (bit v.toNat 0 = true → s.flag (R.timTpoCfgEn p) = false → per = 0 → start < s.time.dev →
      ∃ t : State, exec c s = .next t ∧ t.get (R.timTpoCfgEn p) = 1 ∧ (t.tpo p).armed = false ∧ t.get (R.timTpoStatMissed p) = 1
        ∧ s.keepsRegs t ((R.timTpoStatMissed p).key :: cfg)))
  ∧ (∀ (p : Fin 4) (s : State), s.timeRuns = true → s.halted = false → s.flag (R.timTpoCfgEn p) = true →
    let begins := s.get (R.timTpoStartStart p) + (s.tpo p).k * s.get (R.timTpoPeriodPeriod p)
    (∀ e, (s.tpo p).fall = some e → e ≤ s.now →
      ∃ t : State, exec (.tpoEdge p) s = .next t ∧ t.tpo p = { s.tpo p with fall := none } ∧ t.time.dev = s.time.dev ∧ s.keepsRegs t [])
    ∧ ((∀ e, (s.tpo p).fall = some e → s.now < e) → (s.tpo p).armed = true → begins ≤ s.now →
      ∃ t : State, exec (.tpoEdge p) s = .next t ∧ (t.tpo p).k = (s.tpo p).k + 1 ∧ (t.tpo p).fall = some (begins + s.get (R.timTpoWidthWidth p))
        ∧ ((t.tpo p).armed = true ↔ s.get (R.timTpoPeriodPeriod p) ≠ 0) ∧ t.time.dev = s.time.dev
        ∧ (s.flag (R.timTpoCfgIrqEn p) = false → s.keepsRegs t [] ∧ t.host = s.host))
    ∧ ((∀ e, (s.tpo p).fall = some e → s.now < e) → ((s.tpo p).armed = false ∨ s.now < begins) → exec (.tpoEdge p) s = .next s))
  ∧ (∀ (c : Fin 4) (rising : Bool) (held : Nat) (s : State),
    let taken := s.flag (R.timTciCfgEn c) = true ∧ rising ≠ s.flag (R.timTciCfgFalling c) ∧ s.filterNs R.mgtPad2Filt ≤ held
    (taken → s.timeRuns = true →
      ∃ (t : State) (x : Nat), exec (.tciEdge c rising held) s = .next t ∧ x ≤ s.now + 4 ∧ s.now ≤ x + 4 ∧ t.time.dev = s.time.dev
        ∧ ((s.captures c).length < 16 → t.captures c = s.captures c ++ [x] ∧ t.get (R.timTciStatCount c) = (s.captures c).length + 1
            ∧ t.get R.cntTciOvf = s.get R.cntTciOvf)
        ∧ (16 ≤ (s.captures c).length → t.captures c = (s.captures c).tail ++ [x] ∧ t.get (R.timTciStatOvf c) = 1
            ∧ t.get R.cntTciOvf = (s.get R.cntTciOvf + 1) % 2 ^ 32))
    ∧ (taken → s.phase = .reef 2 →
      ∃ t : State, exec (.tciEdge c rising held) s = .next t ∧ t.reef.coarse = s.reef.coarse ++ [(c.val, s.aonNow)] ∧ t.captures c = s.captures c ∧ s.keepsRegs t [])
    ∧ (¬ taken → exec (.tciEdge c rising held) s = .next s))

/-- MACs send and receive. A transmit doorbell inside the ring moves the tail (log entry 90), a slot is sent with its FCS and a Sync is changed to
carry its departure time, a PTP frame is stamped and handed over and any other frame is counted, and an export datagram is sent or dropped (whether
the queue is full is free: log entry 92). (R367, R368, R369, R370, R371, R372.) -/
def Obligations.MacsSendAndReceive : Prop :=
  (∀ (m : Fin 2) (v : Word) (s : State), s.served = true →
    let ok := s.flag (R.timMacTxrCfgEn m) = true ∧ bits v.toNat 0 12 < s.txSize m
    (ok → ∃ t : State, exec (.macTxDoorbell m v) s = .next t ∧ t.mac m = { s.mac m with tail := bits v.toNat 0 12 } ∧ s.keepsRegs t [])
    ∧ (¬ ok → ∃ t : State, exec (.macTxDoorbell m v) s = .next t ∧ t.time = s.time ∧ s.keepsRegs t []))
  ∧ (∀ (m : Fin 2) (slot : List Byte) (s : State), s.awake = true →
    let frame := slice slot 64 (bits (leAt slot 0 2) 0 11)
    let ctl := leAt slot 2 1
    let sends := s.flag (R.timMacCfgEn m) = true ∧ s.flag (R.timMacTxrCfgEn m) = true ∧ s.get (R.timMacTxHeadHead m) ≠ (s.mac m).tail
    (sends → ∃ (t : State) (out : List Byte), exec (.transmitSlot m slot) s = .next t ∧ (t.mac m).sent = (s.mac m).sent ++ [withFcs out]
        ∧ (t.mac m).tail = (s.mac m).tail ∧ t.get (R.timMacTxHeadHead m) = (s.get (R.timMacTxHeadHead m) + 1) % s.txSize m % 2 ^ 12 ∧ t.time.dev = s.time.dev
        ∧ (bit ctl 0 = false → out = frame ∧ t.get R.cntPtpTxbad = s.get R.cntPtpTxbad)
        ∧ (bit ctl 0 = true → ptpAt [319] frame = none → out = frame ∧ t.get R.cntPtpTxbad = (s.get R.cntPtpTxbad + 1) % 2 ^ 32)
        ∧ (∀ o, bit ctl 0 = true → bits ctl 2 2 ≠ 3 → ptpAt [319] frame = some o → ptpType frame o = 0 → udpAt frame = none → o + 44 ≤ frame.length →
            let t3 := wrapTime (s.counter (bits ctl 2 2) + s.get (R.timMacLatTxNs m) * 2 ^ 32)
            slice out (o + 34) 10 = beBytes (t3 / 2 ^ 32 / 10 ^ 9) 6 ++ beBytes (t3 / 2 ^ 32 % 10 ^ 9) 4)
        ∧ (bit ctl 1 = false → t.host = s.host))
    ∧ (¬ sends → exec (.transmitSlot m slot) s = .next s))
  ∧ (∀ (m : Fin 2) (frame : List Byte) (s : State), s.awake = true →
    (s.flag (R.timMacCfgEn m) = false → exec (.ptpFrame m frame) s = .next s)
    ∧ (∀ o, s.flag (R.timMacCfgEn m) = true → ptpAt [319, 320] frame = some o → frame.length ≤ maxFrame frame →
      let dom := if beAt frame (o + 4) 1 = s.get (R.timMacCfgDomnumA m) then 1 else if beAt frame (o + 4) 1 = s.get (R.timMacCfgDomnumB m) then 2 else 0
      let stamp := wrapTime ((s.counter dom : Int) - s.get (R.timMacLatRxNs m) * 2 ^ 32)
      ∃ t : State, exec (.ptpFrame m frame) s = .next t ∧ t.get R.cntPtpRx = (s.get R.cntPtpRx + 1) % 2 ^ 32 ∧ s.keepsRegs t [R.cntPtpRx.key] ∧ t.time = s.time
        ∧ (s.flag (R.timMacRxDestEn m) = false → t.host = s.host)
        ∧ (s.flag (R.timMacRxDestEn m) = true → ∃ r : Rec, r.type = 0x09 ∧ slice r.payload 0 8 = leBytes (stamp / 2 ^ 32) 8
            ∧ leAt r.payload 10 1 = m.val + 4 * dom ∧ r.payload.drop 16 = frame
            ∧ t.host.handed = s.host.handed ++ [⟨s.get (R.timMacRxDestFunc m), s.get (R.timMacRxDestRing m), r⟩]))
    ∧ (s.flag (R.timMacCfgEn m) = true → (ptpAt [319, 320] frame = none ∨ maxFrame frame < frame.length) →
      ∃ t : State, exec (.ptpFrame m frame) s = .next t ∧ t.get R.cntEthOther = (s.get R.cntEthOther + 1) % 2 ^ 32 ∧ s.keepsRegs t [R.cntEthOther.key]
        ∧ t.host = s.host))
  ∧ (∀ (m : Fin 2) (s : State), s.awake = true →
    ((s.mac m).exports = [] → exec (.exportDatagram m) s = .next s)
    ∧ (∀ r l, (s.mac m).exports = r :: l →
      ∃ t : State, exec (.exportDatagram m) s = .next t ∧ (t.mac m).exports = l ∧ t.host = s.host ∧ s.keepsRegs t [R.cntExpDrop.key, R.cntExpTx.key, R.cntExpTrunc.key]
        ∧ (((t.mac m).sent = (s.mac m).sent ∧ t.get R.cntExpDrop = (s.get R.cntExpDrop + 1) % 2 ^ 32 ∧ t.get R.cntExpTx = s.get R.cntExpTx)
          ∨ (s.flag (R.timMacCfgEn m) = true ∧ (∃ b, (t.mac m).sent = (s.mac m).sent ++ [withFcs b]) ∧ t.get R.cntExpTx = (s.get R.cntExpTx + 1) % 2 ^ 32
              ∧ t.get R.cntExpDrop = s.get R.cntExpDrop))))
end

