-- ==== Sys2Proof/Laws/SMap.lean ====
section
/-! SUPPORT. Laws of sparse maps and byte memories: a read after a write, and the canonical form kept. -/

namespace Sys2Proof.Machine

variable {α : Type}

/-! ### Reading what was written -/

theorem SMap.find?_put_same (k : Nat) (v : α) (m : SMap α) : SMap.find? k (SMap.put k v m) = some v := by
  induction m with
  | nil => simp [SMap.put, SMap.find?]
  | cons e m ih =>
    obtain ⟨k', v'⟩ := e
    unfold SMap.put
    split
    · simp [SMap.find?]
    · split
      · simp [SMap.find?]
      · simpa [SMap.find?, *] using ih

theorem SMap.find?_put_ne {k j : Nat} (h : j ≠ k) (v : α) (m : SMap α) :
    SMap.find? j (SMap.put k v m) = SMap.find? j m := by
  induction m with
  | nil => simp [SMap.put, SMap.find?, h]
  | cons e m ih =>
    obtain ⟨k', v'⟩ := e
    unfold SMap.put
    split
    · simp [SMap.find?, h]
    · split
      · next heq => subst heq; simp [SMap.find?, h]
      · simp [SMap.find?, ih]

theorem SMap.find?_del_same (k : Nat) (m : SMap α) : SMap.find? k (SMap.del k m) = none := by
  induction m with
  | nil => simp [SMap.del, SMap.find?]
  | cons e m ih =>
    obtain ⟨k', v'⟩ := e
    by_cases hk : k' = k
    · simpa [SMap.del, hk] using ih
    · have hk' : ¬ k = k' := fun h => hk h.symm
      simpa [SMap.del, hk, SMap.find?, hk'] using ih

theorem SMap.find?_del_ne {k j : Nat} (h : j ≠ k) (m : SMap α) : SMap.find? j (SMap.del k m) = SMap.find? j m := by
  induction m with
  | nil => simp [SMap.del, SMap.find?]
  | cons e m ih =>
    obtain ⟨k', v'⟩ := e
    by_cases hk : k' = k
    · subst hk
      simpa [SMap.del, SMap.find?, h] using ih
    · by_cases hj : j = k'
      · simp [SMap.del, hk, SMap.find?, hj]
      · simpa [SMap.del, hk, SMap.find?, hj] using ih

@[simp] theorem SMap.get_set_same [DecidableEq α] (m : SMap α) (d : α) (k : Nat) (v : α) :
    SMap.get (SMap.set m d k v) d k = v := by
  unfold SMap.get SMap.set
  split
  · next h => simp [SMap.find?_del_same, h]
  · simp [SMap.find?_put_same]

theorem SMap.get_set_ne [DecidableEq α] {k j : Nat} (h : j ≠ k) (m : SMap α) (d d' : α) (v : α) :
    SMap.get (SMap.set m d k v) d' j = SMap.get m d' j := by
  unfold SMap.get SMap.set
  split
  · rw [SMap.find?_del_ne h]
  · rw [SMap.find?_put_ne h]

@[simp] theorem SMap.get_put_same (m : SMap α) (d : α) (k : Nat) (v : α) : SMap.get (SMap.put k v m) d k = v := by
  simp [SMap.get, SMap.find?_put_same]

theorem SMap.get_put_ne {k j : Nat} (h : j ≠ k) (m : SMap α) (d : α) (v : α) :
    SMap.get (SMap.put k v m) d j = SMap.get m d j := by
  simp [SMap.get, SMap.find?_put_ne h]

@[simp] theorem SMap.get_upd_same [DecidableEq α] (m : SMap α) (d : α) (k : Nat) (f : α → α) :
    SMap.get (SMap.upd m d k f) d k = f (SMap.get m d k) := by simp [SMap.upd]

theorem SMap.get_upd_ne [DecidableEq α] {k j : Nat} (h : j ≠ k) (m : SMap α) (d d' : α) (f : α → α) :
    SMap.get (SMap.upd m d k f) d' j = SMap.get m d' j := SMap.get_set_ne h m d d' _

/-! ### The order of keys -/

theorem SMap.above_of_le {lo lo' : Nat} (h : lo' ≤ lo) {m : SMap α} (hm : SMap.above lo m = true) :
    SMap.above lo' m = true := by
  cases m with
  | nil => rfl
  | cons e m =>
    obtain ⟨k, v⟩ := e
    simp only [SMap.above, Bool.and_eq_true, decide_eq_true_eq] at hm ⊢
    exact ⟨by omega, hm.2⟩

theorem SMap.above_put {lo k : Nat} (hk : lo < k) (v : α) {m : SMap α} (hm : SMap.above lo m = true) :
    SMap.above lo (SMap.put k v m) = true := by
  induction m generalizing lo with
  | nil => simp [SMap.put, SMap.above, hk]
  | cons e m ih =>
    obtain ⟨k', v'⟩ := e
    simp only [SMap.above, Bool.and_eq_true, decide_eq_true_eq] at hm
    unfold SMap.put
    split
    · next h => simp [SMap.above, hk, h, hm.2]
    · split
      · next h => subst h; simp [SMap.above, hm.1, hm.2]
      · simp [SMap.above, hm.1, ih (lo := k') (by omega) hm.2]

theorem SMap.above_filter (p : Nat × α → Bool) {lo : Nat} {m : SMap α} (hm : SMap.above lo m = true) :
    SMap.above lo (m.filter p) = true := by
  induction m generalizing lo with
  | nil => rfl
  | cons e m ih =>
    obtain ⟨k, v⟩ := e
    simp only [SMap.above, Bool.and_eq_true, decide_eq_true_eq] at hm
    by_cases hp : p (k, v) = true
    · simp [List.filter_cons, hp, SMap.above, hm.1, ih hm.2]
    · simp only [List.filter_cons, hp]
      exact SMap.above_of_le (by omega) (ih hm.2)

theorem SMap.sorted_of_above {lo : Nat} {m : SMap α} (hm : SMap.above lo m = true) : SMap.sorted m = true := by
  cases m with
  | nil => rfl
  | cons e m =>
    simp only [SMap.above, Bool.and_eq_true] at hm
    exact hm.2

theorem SMap.sorted_put (k : Nat) (v : α) {m : SMap α} (hm : SMap.sorted m = true) :
    SMap.sorted (SMap.put k v m) = true := by
  cases m with
  | nil => rfl
  | cons e m =>
    obtain ⟨k', v'⟩ := e
    change SMap.above k' m = true at hm
    unfold SMap.put
    split
    · next h => simp [SMap.sorted, SMap.above, h, hm]
    · split
      · next h => subst h; exact hm
      · exact SMap.above_put (by omega) v hm

theorem SMap.sorted_filter (p : Nat × α → Bool) {m : SMap α} (hm : SMap.sorted m = true) :
    SMap.sorted (m.filter p) = true := by
  cases m with
  | nil => rfl
  | cons e m =>
    obtain ⟨k, v⟩ := e
    change SMap.above k m = true at hm
    by_cases hp : p (k, v) = true
    · simp only [List.filter_cons, hp]
      exact SMap.above_filter p hm
    · simp only [List.filter_cons, hp]
      exact SMap.sorted_of_above (SMap.above_filter p hm)

theorem SMap.sorted_del (k : Nat) {m : SMap α} (hm : SMap.sorted m = true) : SMap.sorted (SMap.del k m) = true :=
  SMap.sorted_filter _ hm

theorem SMap.sorted_set [DecidableEq α] (d : α) (k : Nat) (v : α) {m : SMap α} (hm : SMap.sorted m = true) :
    SMap.sorted (SMap.set m d k v) = true := by
  unfold SMap.set
  split
  · exact SMap.sorted_del k hm
  · exact SMap.sorted_put k v hm

/-! ### Byte memories -/

theorem SMap.mem_put {k : Nat} {v : α} {m : SMap α} {e : Nat × α} (he : e ∈ SMap.put k v m) : e = (k, v) ∨ e ∈ m := by
  induction m with
  | nil => simpa [SMap.put] using he
  | cons x m ih =>
    obtain ⟨k', v'⟩ := x
    unfold SMap.put at he
    split at he
    · simpa using he
    · split at he
      · simp only [List.mem_cons] at he ⊢
        tauto
      · simp only [List.mem_cons] at he ⊢
        rcases he with h | h
        · exact .inr (.inl h)
        · rcases ih h with h | h
          · exact .inl h
          · exact .inr (.inr h)

/-- The canonical form of a memory is kept by a write of one byte. -/
theorem Memory.wf_set {d : Byte} {m : List Host.Cell} (hm : Memory.wf d m = true) (a : Nat) (b : Byte) :
    Memory.wf d (SMap.set m d a b) = true := by
  simp only [Memory.wf, Bool.and_eq_true, List.all_eq_true, Bool.not_eq_true', beq_eq_false_iff_ne] at hm ⊢
  refine ⟨SMap.sorted_set d a b hm.1, fun e he => ?_⟩
  unfold SMap.set at he
  split at he
  · exact hm.2 e (List.mem_of_mem_filter he)
  · next hb =>
    rcases SMap.mem_put he with rfl | h
    · exact hb
    · exact hm.2 e h

/-- The canonical form of a memory is kept by a write of any bytes. -/
theorem Memory.wf_writeBytes {d : Byte} {m : List Host.Cell} (hm : Memory.wf d m = true) (a : Nat) (bs : List Byte) :
    Memory.wf d (writeBytes m d a bs) = true := by
  induction bs generalizing m a with
  | nil => exact hm
  | cons b bs ih => exact ih (Memory.wf_set hm a b) (a + 1)

theorem readByte_set_same (m : List Host.Cell) (d : Byte) (a : Nat) (b : Byte) : readByte (SMap.set m d a b) d a = b :=
  SMap.get_set_same m d a b

/-- A write leaves every byte outside it as it was. -/
theorem readByte_writeBytes_out {m : List Host.Cell} {d : Byte} {a x : Nat} {bs : List Byte}
    (h : x < a ∨ a + bs.length ≤ x) : readByte (writeBytes m d a bs) d x = readByte m d x := by
  induction bs generalizing m a with
  | nil => rfl
  | cons b bs ih =>
    simp only [List.length_cons] at h
    change readByte (writeBytes (SMap.set m d a b) d (a + 1) bs) d x = _
    rw [ih (by omega)]
    exact SMap.get_set_ne (by omega) m d d b

/-- A byte of a write reads as written. -/
theorem readByte_writeBytes_in {m : List Host.Cell} {d : Byte} {a i : Nat} {bs : List Byte} (h : i < bs.length) :
    readByte (writeBytes m d a bs) d (a + i) = bs[i] := by
  induction bs generalizing m a i with
  | nil => simp at h
  | cons b bs ih =>
    change readByte (writeBytes (SMap.set m d a b) d (a + 1) bs) d (a + i) = _
    cases i with
    | zero =>
      rw [readByte_writeBytes_out (by omega)]
      exact SMap.get_set_same m d a b
    | succ j =>
      have := ih (m := SMap.set m d a b) (a := a + 1) (i := j) (by simpa using h)
      simpa [Nat.add_assoc, Nat.add_comm 1 j] using this

end Sys2Proof.Machine
end

