-- ==== Sys2Proof/Laws/State.lean ====
section
/-! SUPPORT. State under each of its plain updates: every field, and every register field. -/

namespace Sys2Proof.Machine

/-! ### Register fields -/

/-- A register field depends on the register map alone. -/
theorem State.get_of_regs {s t : State} (h : s.regs = t.regs) (f : Fld) : s.get f = t.get f := by
  unfold State.get; rw [h]

/-- A field reads as written, cut to its width. -/
@[simp] theorem State.get_set_same (s : State) (f : Fld) (v : Nat) : (s.set f v).get f = v % 2 ^ f.width :=
  SMap.get_set_same _ _ _ _

/-- A write of one field leaves every other field. -/
theorem State.get_set_other (s : State) {f g : Fld} (h : g.key ≠ f.key) (v : Nat) : (s.set f v).get g = s.get g :=
  SMap.get_set_ne h _ _ _ _

theorem State.get_setFlag_same (s : State) (f : Fld) (b : Bool) (h : 1 ≤ f.width) : (s.setFlag f b).get f = b2n b := by
  have h2 : 2 ≤ 2 ^ f.width := by simpa using Nat.pow_le_pow_right (show 0 < 2 by omega) h
  have h3 : b2n b ≤ 1 := by cases b <;> decide
  rw [State.setFlag, State.get_set_same]
  exact Nat.mod_eq_of_lt (by omega)

theorem State.get_setFlag_other (s : State) {f g : Fld} (h : g.key ≠ f.key) (b : Bool) : (s.setFlag f b).get g = s.get g :=
  State.get_set_other s h _

/-- The register map keeps its order under a write. -/
theorem State.set_sorted {s : State} (h : SMap.sorted s.regs = true) (f : Fld) (v : Nat) : SMap.sorted (s.set f v).regs = true :=
  SMap.sorted_set _ _ _ h

theorem State.when_true (s : State) {c : Bool} (h : c = true) (f : State → State) : s.when c f = f s := by simp [State.when, h]

theorem State.when_false (s : State) {c : Bool} (h : c = false) (f : State → State) : s.when c f = s := by simp [State.when, h]

theorem State.each_nil {α : Type} (s : State) (f : State → α → State) : s.each [] f = s := rfl

theorem State.each_cons {α : Type} (s : State) (x : α) (l : List α) (f : State → α → State) :
    s.each (x :: l) f = (f s x).each l f := rfl

/-- What every element's step keeps, the whole run keeps. -/
theorem State.each_keeps {α : Type} (P : State → Prop) {f : State → α → State} {l : List α} {s : State}
    (hf : ∀ t x, P t → P (f t x)) (hs : P s) : P (s.each l f) := by
  induction l generalizing s with
  | nil => exact hs
  | cons x l ih => exact ih (hf s x hs)

/-! ### Updates, field by field -/

@[simp] theorem State.set_pending (s : State) (f : Fld) (v : Nat) : (s.set f v).pending = s.pending := (rfl)
@[simp] theorem State.set_free (s : State) (f : Fld) (v : Nat) : (s.set f v).free = s.free := (rfl)
@[simp] theorem State.set_phase (s : State) (f : Fld) (v : Nat) : (s.set f v).phase = s.phase := (rfl)
@[simp] theorem State.set_latch (s : State) (f : Fld) (v : Nat) : (s.set f v).latch = s.latch := (rfl)
@[simp] theorem State.set_deferred (s : State) (f : Fld) (v : Nat) : (s.set f v).deferred = s.deferred := (rfl)
@[simp] theorem State.set_time (s : State) (f : Fld) (v : Nat) : (s.set f v).time = s.time := (rfl)
@[simp] theorem State.set_host (s : State) (f : Fld) (v : Nat) : (s.set f v).host = s.host := (rfl)
@[simp] theorem State.set_lpddr (s : State) (f : Fld) (v : Nat) : (s.set f v).lpddr = s.lpddr := (rfl)
@[simp] theorem State.set_ing (s : State) (f : Fld) (v : Nat) : (s.set f v).ing = s.ing := (rfl)
@[simp] theorem State.set_cv (s : State) (f : Fld) (v : Nat) : (s.set f v).cv = s.cv := (rfl)
@[simp] theorem State.set_active (s : State) (f : Fld) (v : Nat) : (s.set f v).active = s.active := (rfl)
@[simp] theorem State.set_shadow (s : State) (f : Fld) (v : Nat) : (s.set f v).shadow = s.shadow := (rfl)
@[simp] theorem State.set_tns (s : State) (f : Fld) (v : Nat) : (s.set f v).tns = s.tns := (rfl)
@[simp] theorem State.set_fab (s : State) (f : Fld) (v : Nat) : (s.set f v).fab = s.fab := (rfl)
@[simp] theorem State.set_flt (s : State) (f : Fld) (v : Nat) : (s.set f v).flt = s.flt := (rfl)
@[simp] theorem State.set_ftu (s : State) (f : Fld) (v : Nat) : (s.set f v).ftu = s.ftu := (rfl)
@[simp] theorem State.set_pwr (s : State) (f : Fld) (v : Nat) : (s.set f v).pwr = s.pwr := (rfl)
@[simp] theorem State.set_ctl (s : State) (f : Fld) (v : Nat) : (s.set f v).ctl = s.ctl := (rfl)
@[simp] theorem State.set_reef (s : State) (f : Fld) (v : Nat) : (s.set f v).reef = s.reef := (rfl)
@[simp] theorem State.set_obs (s : State) (f : Fld) (v : Nat) : (s.set f v).obs = s.obs := (rfl)
@[simp] theorem State.set_err (s : State) (f : Fld) (v : Nat) : (s.set f v).err = s.err := (rfl)
@[simp] theorem State.set_halted (s : State) (f : Fld) (v : Nat) : (s.set f v).halted = s.halted := (rfl)
@[simp] theorem State.took_pending (s : State) (n : Nat) : (s.took n).pending = s.pending := (rfl)
@[simp] theorem State.took_regs (s : State) (n : Nat) : (s.took n).regs = s.regs := (rfl)
@[simp] theorem State.took_phase (s : State) (n : Nat) : (s.took n).phase = s.phase := (rfl)
@[simp] theorem State.took_latch (s : State) (n : Nat) : (s.took n).latch = s.latch := (rfl)
@[simp] theorem State.took_deferred (s : State) (n : Nat) : (s.took n).deferred = s.deferred := (rfl)
@[simp] theorem State.took_time (s : State) (n : Nat) : (s.took n).time = s.time := (rfl)
@[simp] theorem State.took_host (s : State) (n : Nat) : (s.took n).host = s.host := (rfl)
@[simp] theorem State.took_lpddr (s : State) (n : Nat) : (s.took n).lpddr = s.lpddr := (rfl)
@[simp] theorem State.took_ing (s : State) (n : Nat) : (s.took n).ing = s.ing := (rfl)
@[simp] theorem State.took_cv (s : State) (n : Nat) : (s.took n).cv = s.cv := (rfl)
@[simp] theorem State.took_active (s : State) (n : Nat) : (s.took n).active = s.active := (rfl)
@[simp] theorem State.took_shadow (s : State) (n : Nat) : (s.took n).shadow = s.shadow := (rfl)
@[simp] theorem State.took_tns (s : State) (n : Nat) : (s.took n).tns = s.tns := (rfl)
@[simp] theorem State.took_fab (s : State) (n : Nat) : (s.took n).fab = s.fab := (rfl)
@[simp] theorem State.took_flt (s : State) (n : Nat) : (s.took n).flt = s.flt := (rfl)
@[simp] theorem State.took_ftu (s : State) (n : Nat) : (s.took n).ftu = s.ftu := (rfl)
@[simp] theorem State.took_pwr (s : State) (n : Nat) : (s.took n).pwr = s.pwr := (rfl)
@[simp] theorem State.took_ctl (s : State) (n : Nat) : (s.took n).ctl = s.ctl := (rfl)
@[simp] theorem State.took_reef (s : State) (n : Nat) : (s.took n).reef = s.reef := (rfl)
@[simp] theorem State.took_obs (s : State) (n : Nat) : (s.took n).obs = s.obs := (rfl)
@[simp] theorem State.took_err (s : State) (n : Nat) : (s.took n).err = s.err := (rfl)
@[simp] theorem State.took_halted (s : State) (n : Nat) : (s.took n).halted = s.halted := (rfl)
@[simp] theorem State.get_took (s : State) (n : Nat) (g : Fld) : (s.took n).get g = s.get g := (rfl)
@[simp] theorem State.touch_pending (s : State) : (s.touch).pending = s.pending := (rfl)
@[simp] theorem State.touch_free (s : State) : (s.touch).free = s.free := (rfl)
@[simp] theorem State.touch_regs (s : State) : (s.touch).regs = s.regs := (rfl)
@[simp] theorem State.touch_phase (s : State) : (s.touch).phase = s.phase := (rfl)
@[simp] theorem State.touch_latch (s : State) : (s.touch).latch = s.latch := (rfl)
@[simp] theorem State.touch_deferred (s : State) : (s.touch).deferred = s.deferred := (rfl)
@[simp] theorem State.touch_time (s : State) : (s.touch).time = s.time := (rfl)
@[simp] theorem State.touch_host (s : State) : (s.touch).host = s.host := (rfl)
@[simp] theorem State.touch_lpddr (s : State) : (s.touch).lpddr = s.lpddr := (rfl)
@[simp] theorem State.touch_ing (s : State) : (s.touch).ing = s.ing := (rfl)
@[simp] theorem State.touch_cv (s : State) : (s.touch).cv = s.cv := (rfl)
@[simp] theorem State.touch_active (s : State) : (s.touch).active = s.active := (rfl)
@[simp] theorem State.touch_shadow (s : State) : (s.touch).shadow = s.shadow := (rfl)
@[simp] theorem State.touch_tns (s : State) : (s.touch).tns = s.tns := (rfl)
@[simp] theorem State.touch_fab (s : State) : (s.touch).fab = s.fab := (rfl)
@[simp] theorem State.touch_flt (s : State) : (s.touch).flt = s.flt := (rfl)
@[simp] theorem State.touch_ftu (s : State) : (s.touch).ftu = s.ftu := (rfl)
@[simp] theorem State.touch_pwr (s : State) : (s.touch).pwr = s.pwr := (rfl)
@[simp] theorem State.touch_ctl (s : State) : (s.touch).ctl = s.ctl := (rfl)
@[simp] theorem State.touch_obs (s : State) : (s.touch).obs = s.obs := (rfl)
@[simp] theorem State.touch_err (s : State) : (s.touch).err = s.err := (rfl)
@[simp] theorem State.touch_halted (s : State) : (s.touch).halted = s.halted := (rfl)
@[simp] theorem State.get_touch (s : State) (g : Fld) : (s.touch).get g = s.get g := (rfl)
@[simp] theorem State.hold_pending (s : State) (h : Held) : (s.hold h).pending = s.pending := (rfl)
@[simp] theorem State.hold_free (s : State) (h : Held) : (s.hold h).free = s.free := (rfl)
@[simp] theorem State.hold_regs (s : State) (h : Held) : (s.hold h).regs = s.regs := (rfl)
@[simp] theorem State.hold_phase (s : State) (h : Held) : (s.hold h).phase = s.phase := (rfl)
@[simp] theorem State.hold_latch (s : State) (h : Held) : (s.hold h).latch = s.latch := (rfl)
@[simp] theorem State.hold_deferred (s : State) (h : Held) : (s.hold h).deferred = s.deferred := (rfl)
@[simp] theorem State.hold_time (s : State) (h : Held) : (s.hold h).time = s.time := (rfl)
@[simp] theorem State.hold_lpddr (s : State) (h : Held) : (s.hold h).lpddr = s.lpddr := (rfl)
@[simp] theorem State.hold_ing (s : State) (h : Held) : (s.hold h).ing = s.ing := (rfl)
@[simp] theorem State.hold_cv (s : State) (h : Held) : (s.hold h).cv = s.cv := (rfl)
@[simp] theorem State.hold_active (s : State) (h : Held) : (s.hold h).active = s.active := (rfl)
@[simp] theorem State.hold_shadow (s : State) (h : Held) : (s.hold h).shadow = s.shadow := (rfl)
@[simp] theorem State.hold_tns (s : State) (h : Held) : (s.hold h).tns = s.tns := (rfl)
@[simp] theorem State.hold_fab (s : State) (h : Held) : (s.hold h).fab = s.fab := (rfl)
@[simp] theorem State.hold_flt (s : State) (h : Held) : (s.hold h).flt = s.flt := (rfl)
@[simp] theorem State.hold_ftu (s : State) (h : Held) : (s.hold h).ftu = s.ftu := (rfl)
@[simp] theorem State.hold_pwr (s : State) (h : Held) : (s.hold h).pwr = s.pwr := (rfl)
@[simp] theorem State.hold_ctl (s : State) (h : Held) : (s.hold h).ctl = s.ctl := (rfl)
@[simp] theorem State.hold_reef (s : State) (h : Held) : (s.hold h).reef = s.reef := (rfl)
@[simp] theorem State.hold_obs (s : State) (h : Held) : (s.hold h).obs = s.obs := (rfl)
@[simp] theorem State.hold_err (s : State) (h : Held) : (s.hold h).err = s.err := (rfl)
@[simp] theorem State.hold_halted (s : State) (h : Held) : (s.hold h).halted = s.halted := (rfl)
@[simp] theorem State.get_hold (s : State) (h : Held) (g : Fld) : (s.hold h).get g = s.get g := (rfl)
@[simp] theorem State.setSq_pending (s : State) (f q : Nat) (v : Sq) : (s.setSq f q v).pending = s.pending := (rfl)
@[simp] theorem State.setSq_free (s : State) (f q : Nat) (v : Sq) : (s.setSq f q v).free = s.free := (rfl)
@[simp] theorem State.setSq_regs (s : State) (f q : Nat) (v : Sq) : (s.setSq f q v).regs = s.regs := (rfl)
@[simp] theorem State.setSq_phase (s : State) (f q : Nat) (v : Sq) : (s.setSq f q v).phase = s.phase := (rfl)
@[simp] theorem State.setSq_latch (s : State) (f q : Nat) (v : Sq) : (s.setSq f q v).latch = s.latch := (rfl)
@[simp] theorem State.setSq_deferred (s : State) (f q : Nat) (v : Sq) : (s.setSq f q v).deferred = s.deferred := (rfl)
@[simp] theorem State.setSq_time (s : State) (f q : Nat) (v : Sq) : (s.setSq f q v).time = s.time := (rfl)
@[simp] theorem State.setSq_lpddr (s : State) (f q : Nat) (v : Sq) : (s.setSq f q v).lpddr = s.lpddr := (rfl)
@[simp] theorem State.setSq_ing (s : State) (f q : Nat) (v : Sq) : (s.setSq f q v).ing = s.ing := (rfl)
@[simp] theorem State.setSq_cv (s : State) (f q : Nat) (v : Sq) : (s.setSq f q v).cv = s.cv := (rfl)
@[simp] theorem State.setSq_active (s : State) (f q : Nat) (v : Sq) : (s.setSq f q v).active = s.active := (rfl)
@[simp] theorem State.setSq_shadow (s : State) (f q : Nat) (v : Sq) : (s.setSq f q v).shadow = s.shadow := (rfl)
@[simp] theorem State.setSq_tns (s : State) (f q : Nat) (v : Sq) : (s.setSq f q v).tns = s.tns := (rfl)
@[simp] theorem State.setSq_fab (s : State) (f q : Nat) (v : Sq) : (s.setSq f q v).fab = s.fab := (rfl)
@[simp] theorem State.setSq_flt (s : State) (f q : Nat) (v : Sq) : (s.setSq f q v).flt = s.flt := (rfl)
@[simp] theorem State.setSq_ftu (s : State) (f q : Nat) (v : Sq) : (s.setSq f q v).ftu = s.ftu := (rfl)
@[simp] theorem State.setSq_pwr (s : State) (f q : Nat) (v : Sq) : (s.setSq f q v).pwr = s.pwr := (rfl)
@[simp] theorem State.setSq_ctl (s : State) (f q : Nat) (v : Sq) : (s.setSq f q v).ctl = s.ctl := (rfl)
@[simp] theorem State.setSq_reef (s : State) (f q : Nat) (v : Sq) : (s.setSq f q v).reef = s.reef := (rfl)
@[simp] theorem State.setSq_obs (s : State) (f q : Nat) (v : Sq) : (s.setSq f q v).obs = s.obs := (rfl)
@[simp] theorem State.setSq_err (s : State) (f q : Nat) (v : Sq) : (s.setSq f q v).err = s.err := (rfl)
@[simp] theorem State.setSq_halted (s : State) (f q : Nat) (v : Sq) : (s.setSq f q v).halted = s.halted := (rfl)
@[simp] theorem State.get_setSq (s : State) (f q : Nat) (v : Sq) (g : Fld) : (s.setSq f q v).get g = s.get g := (rfl)
@[simp] theorem State.setCq_pending (s : State) (f q : Nat) (v : Cq) : (s.setCq f q v).pending = s.pending := (rfl)
@[simp] theorem State.setCq_free (s : State) (f q : Nat) (v : Cq) : (s.setCq f q v).free = s.free := (rfl)
@[simp] theorem State.setCq_regs (s : State) (f q : Nat) (v : Cq) : (s.setCq f q v).regs = s.regs := (rfl)
@[simp] theorem State.setCq_phase (s : State) (f q : Nat) (v : Cq) : (s.setCq f q v).phase = s.phase := (rfl)
@[simp] theorem State.setCq_latch (s : State) (f q : Nat) (v : Cq) : (s.setCq f q v).latch = s.latch := (rfl)
@[simp] theorem State.setCq_deferred (s : State) (f q : Nat) (v : Cq) : (s.setCq f q v).deferred = s.deferred := (rfl)
@[simp] theorem State.setCq_time (s : State) (f q : Nat) (v : Cq) : (s.setCq f q v).time = s.time := (rfl)
@[simp] theorem State.setCq_lpddr (s : State) (f q : Nat) (v : Cq) : (s.setCq f q v).lpddr = s.lpddr := (rfl)
@[simp] theorem State.setCq_ing (s : State) (f q : Nat) (v : Cq) : (s.setCq f q v).ing = s.ing := (rfl)
@[simp] theorem State.setCq_cv (s : State) (f q : Nat) (v : Cq) : (s.setCq f q v).cv = s.cv := (rfl)
@[simp] theorem State.setCq_active (s : State) (f q : Nat) (v : Cq) : (s.setCq f q v).active = s.active := (rfl)
@[simp] theorem State.setCq_shadow (s : State) (f q : Nat) (v : Cq) : (s.setCq f q v).shadow = s.shadow := (rfl)
@[simp] theorem State.setCq_tns (s : State) (f q : Nat) (v : Cq) : (s.setCq f q v).tns = s.tns := (rfl)
@[simp] theorem State.setCq_fab (s : State) (f q : Nat) (v : Cq) : (s.setCq f q v).fab = s.fab := (rfl)
@[simp] theorem State.setCq_flt (s : State) (f q : Nat) (v : Cq) : (s.setCq f q v).flt = s.flt := (rfl)
@[simp] theorem State.setCq_ftu (s : State) (f q : Nat) (v : Cq) : (s.setCq f q v).ftu = s.ftu := (rfl)
@[simp] theorem State.setCq_pwr (s : State) (f q : Nat) (v : Cq) : (s.setCq f q v).pwr = s.pwr := (rfl)
@[simp] theorem State.setCq_ctl (s : State) (f q : Nat) (v : Cq) : (s.setCq f q v).ctl = s.ctl := (rfl)
@[simp] theorem State.setCq_reef (s : State) (f q : Nat) (v : Cq) : (s.setCq f q v).reef = s.reef := (rfl)
@[simp] theorem State.setCq_obs (s : State) (f q : Nat) (v : Cq) : (s.setCq f q v).obs = s.obs := (rfl)
@[simp] theorem State.setCq_err (s : State) (f q : Nat) (v : Cq) : (s.setCq f q v).err = s.err := (rfl)
@[simp] theorem State.setCq_halted (s : State) (f q : Nat) (v : Cq) : (s.setCq f q v).halted = s.halted := (rfl)
@[simp] theorem State.get_setCq (s : State) (f q : Nat) (v : Cq) (g : Fld) : (s.setCq f q v).get g = s.get g := (rfl)
@[simp] theorem State.setStr_pending (s : State) (f r : Nat) (v : Str) : (s.setStr f r v).pending = s.pending := (rfl)
@[simp] theorem State.setStr_free (s : State) (f r : Nat) (v : Str) : (s.setStr f r v).free = s.free := (rfl)
@[simp] theorem State.setStr_regs (s : State) (f r : Nat) (v : Str) : (s.setStr f r v).regs = s.regs := (rfl)
@[simp] theorem State.setStr_phase (s : State) (f r : Nat) (v : Str) : (s.setStr f r v).phase = s.phase := (rfl)
@[simp] theorem State.setStr_latch (s : State) (f r : Nat) (v : Str) : (s.setStr f r v).latch = s.latch := (rfl)
@[simp] theorem State.setStr_deferred (s : State) (f r : Nat) (v : Str) : (s.setStr f r v).deferred = s.deferred := (rfl)
@[simp] theorem State.setStr_time (s : State) (f r : Nat) (v : Str) : (s.setStr f r v).time = s.time := (rfl)
@[simp] theorem State.setStr_lpddr (s : State) (f r : Nat) (v : Str) : (s.setStr f r v).lpddr = s.lpddr := (rfl)
@[simp] theorem State.setStr_ing (s : State) (f r : Nat) (v : Str) : (s.setStr f r v).ing = s.ing := (rfl)
@[simp] theorem State.setStr_cv (s : State) (f r : Nat) (v : Str) : (s.setStr f r v).cv = s.cv := (rfl)
@[simp] theorem State.setStr_active (s : State) (f r : Nat) (v : Str) : (s.setStr f r v).active = s.active := (rfl)
@[simp] theorem State.setStr_shadow (s : State) (f r : Nat) (v : Str) : (s.setStr f r v).shadow = s.shadow := (rfl)
@[simp] theorem State.setStr_tns (s : State) (f r : Nat) (v : Str) : (s.setStr f r v).tns = s.tns := (rfl)
@[simp] theorem State.setStr_fab (s : State) (f r : Nat) (v : Str) : (s.setStr f r v).fab = s.fab := (rfl)
@[simp] theorem State.setStr_flt (s : State) (f r : Nat) (v : Str) : (s.setStr f r v).flt = s.flt := (rfl)
@[simp] theorem State.setStr_ftu (s : State) (f r : Nat) (v : Str) : (s.setStr f r v).ftu = s.ftu := (rfl)
@[simp] theorem State.setStr_pwr (s : State) (f r : Nat) (v : Str) : (s.setStr f r v).pwr = s.pwr := (rfl)
@[simp] theorem State.setStr_ctl (s : State) (f r : Nat) (v : Str) : (s.setStr f r v).ctl = s.ctl := (rfl)
@[simp] theorem State.setStr_reef (s : State) (f r : Nat) (v : Str) : (s.setStr f r v).reef = s.reef := (rfl)
@[simp] theorem State.setStr_obs (s : State) (f r : Nat) (v : Str) : (s.setStr f r v).obs = s.obs := (rfl)
@[simp] theorem State.setStr_err (s : State) (f r : Nat) (v : Str) : (s.setStr f r v).err = s.err := (rfl)
@[simp] theorem State.setStr_halted (s : State) (f r : Nat) (v : Str) : (s.setStr f r v).halted = s.halted := (rfl)
@[simp] theorem State.get_setStr (s : State) (f r : Nat) (v : Str) (g : Fld) : (s.setStr f r v).get g = s.get g := (rfl)
@[simp] theorem State.setCur_pending (s : State) (f q : Nat) (d : Option Desc) : (s.setCur f q d).pending = s.pending := (rfl)
@[simp] theorem State.setCur_free (s : State) (f q : Nat) (d : Option Desc) : (s.setCur f q d).free = s.free := (rfl)
@[simp] theorem State.setCur_regs (s : State) (f q : Nat) (d : Option Desc) : (s.setCur f q d).regs = s.regs := (rfl)
@[simp] theorem State.setCur_phase (s : State) (f q : Nat) (d : Option Desc) : (s.setCur f q d).phase = s.phase := (rfl)
@[simp] theorem State.setCur_latch (s : State) (f q : Nat) (d : Option Desc) : (s.setCur f q d).latch = s.latch := (rfl)
@[simp] theorem State.setCur_deferred (s : State) (f q : Nat) (d : Option Desc) : (s.setCur f q d).deferred = s.deferred := (rfl)
@[simp] theorem State.setCur_time (s : State) (f q : Nat) (d : Option Desc) : (s.setCur f q d).time = s.time := (rfl)
@[simp] theorem State.setCur_lpddr (s : State) (f q : Nat) (d : Option Desc) : (s.setCur f q d).lpddr = s.lpddr := (rfl)
@[simp] theorem State.setCur_ing (s : State) (f q : Nat) (d : Option Desc) : (s.setCur f q d).ing = s.ing := (rfl)
@[simp] theorem State.setCur_cv (s : State) (f q : Nat) (d : Option Desc) : (s.setCur f q d).cv = s.cv := (rfl)
@[simp] theorem State.setCur_active (s : State) (f q : Nat) (d : Option Desc) : (s.setCur f q d).active = s.active := (rfl)
@[simp] theorem State.setCur_shadow (s : State) (f q : Nat) (d : Option Desc) : (s.setCur f q d).shadow = s.shadow := (rfl)
@[simp] theorem State.setCur_tns (s : State) (f q : Nat) (d : Option Desc) : (s.setCur f q d).tns = s.tns := (rfl)
@[simp] theorem State.setCur_fab (s : State) (f q : Nat) (d : Option Desc) : (s.setCur f q d).fab = s.fab := (rfl)
@[simp] theorem State.setCur_flt (s : State) (f q : Nat) (d : Option Desc) : (s.setCur f q d).flt = s.flt := (rfl)
@[simp] theorem State.setCur_ftu (s : State) (f q : Nat) (d : Option Desc) : (s.setCur f q d).ftu = s.ftu := (rfl)
@[simp] theorem State.setCur_pwr (s : State) (f q : Nat) (d : Option Desc) : (s.setCur f q d).pwr = s.pwr := (rfl)
@[simp] theorem State.setCur_ctl (s : State) (f q : Nat) (d : Option Desc) : (s.setCur f q d).ctl = s.ctl := (rfl)
@[simp] theorem State.setCur_reef (s : State) (f q : Nat) (d : Option Desc) : (s.setCur f q d).reef = s.reef := (rfl)
@[simp] theorem State.setCur_obs (s : State) (f q : Nat) (d : Option Desc) : (s.setCur f q d).obs = s.obs := (rfl)
@[simp] theorem State.setCur_err (s : State) (f q : Nat) (d : Option Desc) : (s.setCur f q d).err = s.err := (rfl)
@[simp] theorem State.setCur_halted (s : State) (f q : Nat) (d : Option Desc) : (s.setCur f q d).halted = s.halted := (rfl)
@[simp] theorem State.get_setCur (s : State) (f q : Nat) (d : Option Desc) (g : Fld) : (s.setCur f q d).get g = s.get g := (rfl)
@[simp] theorem State.post_pending (s : State) (f a : Nat) (ro : Bool) (bs : List Byte) : (s.post f a ro bs).pending = s.pending := (rfl)
@[simp] theorem State.post_free (s : State) (f a : Nat) (ro : Bool) (bs : List Byte) : (s.post f a ro bs).free = s.free := (rfl)
@[simp] theorem State.post_regs (s : State) (f a : Nat) (ro : Bool) (bs : List Byte) : (s.post f a ro bs).regs = s.regs := (rfl)
@[simp] theorem State.post_phase (s : State) (f a : Nat) (ro : Bool) (bs : List Byte) : (s.post f a ro bs).phase = s.phase := (rfl)
@[simp] theorem State.post_latch (s : State) (f a : Nat) (ro : Bool) (bs : List Byte) : (s.post f a ro bs).latch = s.latch := (rfl)
@[simp] theorem State.post_deferred (s : State) (f a : Nat) (ro : Bool) (bs : List Byte) : (s.post f a ro bs).deferred = s.deferred := (rfl)
@[simp] theorem State.post_time (s : State) (f a : Nat) (ro : Bool) (bs : List Byte) : (s.post f a ro bs).time = s.time := (rfl)
@[simp] theorem State.post_lpddr (s : State) (f a : Nat) (ro : Bool) (bs : List Byte) : (s.post f a ro bs).lpddr = s.lpddr := (rfl)
@[simp] theorem State.post_ing (s : State) (f a : Nat) (ro : Bool) (bs : List Byte) : (s.post f a ro bs).ing = s.ing := (rfl)
@[simp] theorem State.post_cv (s : State) (f a : Nat) (ro : Bool) (bs : List Byte) : (s.post f a ro bs).cv = s.cv := (rfl)
@[simp] theorem State.post_active (s : State) (f a : Nat) (ro : Bool) (bs : List Byte) : (s.post f a ro bs).active = s.active := (rfl)
@[simp] theorem State.post_shadow (s : State) (f a : Nat) (ro : Bool) (bs : List Byte) : (s.post f a ro bs).shadow = s.shadow := (rfl)
@[simp] theorem State.post_tns (s : State) (f a : Nat) (ro : Bool) (bs : List Byte) : (s.post f a ro bs).tns = s.tns := (rfl)
@[simp] theorem State.post_fab (s : State) (f a : Nat) (ro : Bool) (bs : List Byte) : (s.post f a ro bs).fab = s.fab := (rfl)
@[simp] theorem State.post_flt (s : State) (f a : Nat) (ro : Bool) (bs : List Byte) : (s.post f a ro bs).flt = s.flt := (rfl)
@[simp] theorem State.post_ftu (s : State) (f a : Nat) (ro : Bool) (bs : List Byte) : (s.post f a ro bs).ftu = s.ftu := (rfl)
@[simp] theorem State.post_pwr (s : State) (f a : Nat) (ro : Bool) (bs : List Byte) : (s.post f a ro bs).pwr = s.pwr := (rfl)
@[simp] theorem State.post_ctl (s : State) (f a : Nat) (ro : Bool) (bs : List Byte) : (s.post f a ro bs).ctl = s.ctl := (rfl)
@[simp] theorem State.post_reef (s : State) (f a : Nat) (ro : Bool) (bs : List Byte) : (s.post f a ro bs).reef = s.reef := (rfl)
@[simp] theorem State.post_obs (s : State) (f a : Nat) (ro : Bool) (bs : List Byte) : (s.post f a ro bs).obs = s.obs := (rfl)
@[simp] theorem State.post_err (s : State) (f a : Nat) (ro : Bool) (bs : List Byte) : (s.post f a ro bs).err = s.err := (rfl)
@[simp] theorem State.post_halted (s : State) (f a : Nat) (ro : Bool) (bs : List Byte) : (s.post f a ro bs).halted = s.halted := (rfl)
@[simp] theorem State.get_post (s : State) (f a : Nat) (ro : Bool) (bs : List Byte) (g : Fld) : (s.post f a ro bs).get g = s.get g := (rfl)
@[simp] theorem State.hand_pending (s : State) (f r : Nat) (x : Rec) : (s.hand f r x).pending = s.pending := (rfl)
@[simp] theorem State.hand_free (s : State) (f r : Nat) (x : Rec) : (s.hand f r x).free = s.free := (rfl)
@[simp] theorem State.hand_regs (s : State) (f r : Nat) (x : Rec) : (s.hand f r x).regs = s.regs := (rfl)
@[simp] theorem State.hand_phase (s : State) (f r : Nat) (x : Rec) : (s.hand f r x).phase = s.phase := (rfl)
@[simp] theorem State.hand_latch (s : State) (f r : Nat) (x : Rec) : (s.hand f r x).latch = s.latch := (rfl)
@[simp] theorem State.hand_deferred (s : State) (f r : Nat) (x : Rec) : (s.hand f r x).deferred = s.deferred := (rfl)
@[simp] theorem State.hand_time (s : State) (f r : Nat) (x : Rec) : (s.hand f r x).time = s.time := (rfl)
@[simp] theorem State.hand_lpddr (s : State) (f r : Nat) (x : Rec) : (s.hand f r x).lpddr = s.lpddr := (rfl)
@[simp] theorem State.hand_ing (s : State) (f r : Nat) (x : Rec) : (s.hand f r x).ing = s.ing := (rfl)
@[simp] theorem State.hand_cv (s : State) (f r : Nat) (x : Rec) : (s.hand f r x).cv = s.cv := (rfl)
@[simp] theorem State.hand_active (s : State) (f r : Nat) (x : Rec) : (s.hand f r x).active = s.active := (rfl)
@[simp] theorem State.hand_shadow (s : State) (f r : Nat) (x : Rec) : (s.hand f r x).shadow = s.shadow := (rfl)
@[simp] theorem State.hand_tns (s : State) (f r : Nat) (x : Rec) : (s.hand f r x).tns = s.tns := (rfl)
@[simp] theorem State.hand_fab (s : State) (f r : Nat) (x : Rec) : (s.hand f r x).fab = s.fab := (rfl)
@[simp] theorem State.hand_flt (s : State) (f r : Nat) (x : Rec) : (s.hand f r x).flt = s.flt := (rfl)
@[simp] theorem State.hand_ftu (s : State) (f r : Nat) (x : Rec) : (s.hand f r x).ftu = s.ftu := (rfl)
@[simp] theorem State.hand_pwr (s : State) (f r : Nat) (x : Rec) : (s.hand f r x).pwr = s.pwr := (rfl)
@[simp] theorem State.hand_ctl (s : State) (f r : Nat) (x : Rec) : (s.hand f r x).ctl = s.ctl := (rfl)
@[simp] theorem State.hand_reef (s : State) (f r : Nat) (x : Rec) : (s.hand f r x).reef = s.reef := (rfl)
@[simp] theorem State.hand_obs (s : State) (f r : Nat) (x : Rec) : (s.hand f r x).obs = s.obs := (rfl)
@[simp] theorem State.hand_err (s : State) (f r : Nat) (x : Rec) : (s.hand f r x).err = s.err := (rfl)
@[simp] theorem State.hand_halted (s : State) (f r : Nat) (x : Rec) : (s.hand f r x).halted = s.halted := (rfl)
@[simp] theorem State.get_hand (s : State) (f r : Nat) (x : Rec) (g : Fld) : (s.hand f r x).get g = s.get g := (rfl)
@[simp] theorem State.answer_pending (s : State) (l : List Nat) : (s.answer l).pending = s.pending := (rfl)
@[simp] theorem State.answer_free (s : State) (l : List Nat) : (s.answer l).free = s.free := (rfl)
@[simp] theorem State.answer_regs (s : State) (l : List Nat) : (s.answer l).regs = s.regs := (rfl)
@[simp] theorem State.answer_phase (s : State) (l : List Nat) : (s.answer l).phase = s.phase := (rfl)
@[simp] theorem State.answer_latch (s : State) (l : List Nat) : (s.answer l).latch = s.latch := (rfl)
@[simp] theorem State.answer_deferred (s : State) (l : List Nat) : (s.answer l).deferred = s.deferred := (rfl)
@[simp] theorem State.answer_time (s : State) (l : List Nat) : (s.answer l).time = s.time := (rfl)
@[simp] theorem State.answer_lpddr (s : State) (l : List Nat) : (s.answer l).lpddr = s.lpddr := (rfl)
@[simp] theorem State.answer_ing (s : State) (l : List Nat) : (s.answer l).ing = s.ing := (rfl)
@[simp] theorem State.answer_cv (s : State) (l : List Nat) : (s.answer l).cv = s.cv := (rfl)
@[simp] theorem State.answer_active (s : State) (l : List Nat) : (s.answer l).active = s.active := (rfl)
@[simp] theorem State.answer_shadow (s : State) (l : List Nat) : (s.answer l).shadow = s.shadow := (rfl)
@[simp] theorem State.answer_tns (s : State) (l : List Nat) : (s.answer l).tns = s.tns := (rfl)
@[simp] theorem State.answer_fab (s : State) (l : List Nat) : (s.answer l).fab = s.fab := (rfl)
@[simp] theorem State.answer_flt (s : State) (l : List Nat) : (s.answer l).flt = s.flt := (rfl)
@[simp] theorem State.answer_ftu (s : State) (l : List Nat) : (s.answer l).ftu = s.ftu := (rfl)
@[simp] theorem State.answer_pwr (s : State) (l : List Nat) : (s.answer l).pwr = s.pwr := (rfl)
@[simp] theorem State.answer_ctl (s : State) (l : List Nat) : (s.answer l).ctl = s.ctl := (rfl)
@[simp] theorem State.answer_reef (s : State) (l : List Nat) : (s.answer l).reef = s.reef := (rfl)
@[simp] theorem State.answer_obs (s : State) (l : List Nat) : (s.answer l).obs = s.obs := (rfl)
@[simp] theorem State.answer_err (s : State) (l : List Nat) : (s.answer l).err = s.err := (rfl)
@[simp] theorem State.answer_halted (s : State) (l : List Nat) : (s.answer l).halted = s.halted := (rfl)
@[simp] theorem State.get_answer (s : State) (l : List Nat) (g : Fld) : (s.answer l).get g = s.get g := (rfl)
@[simp] theorem State.putLatch_pending (s : State) (k v : Nat) : (s.putLatch k v).pending = s.pending := (rfl)
@[simp] theorem State.putLatch_free (s : State) (k v : Nat) : (s.putLatch k v).free = s.free := (rfl)
@[simp] theorem State.putLatch_regs (s : State) (k v : Nat) : (s.putLatch k v).regs = s.regs := (rfl)
@[simp] theorem State.putLatch_phase (s : State) (k v : Nat) : (s.putLatch k v).phase = s.phase := (rfl)
@[simp] theorem State.putLatch_deferred (s : State) (k v : Nat) : (s.putLatch k v).deferred = s.deferred := (rfl)
@[simp] theorem State.putLatch_time (s : State) (k v : Nat) : (s.putLatch k v).time = s.time := (rfl)
@[simp] theorem State.putLatch_host (s : State) (k v : Nat) : (s.putLatch k v).host = s.host := (rfl)
@[simp] theorem State.putLatch_lpddr (s : State) (k v : Nat) : (s.putLatch k v).lpddr = s.lpddr := (rfl)
@[simp] theorem State.putLatch_ing (s : State) (k v : Nat) : (s.putLatch k v).ing = s.ing := (rfl)
@[simp] theorem State.putLatch_cv (s : State) (k v : Nat) : (s.putLatch k v).cv = s.cv := (rfl)
@[simp] theorem State.putLatch_active (s : State) (k v : Nat) : (s.putLatch k v).active = s.active := (rfl)
@[simp] theorem State.putLatch_shadow (s : State) (k v : Nat) : (s.putLatch k v).shadow = s.shadow := (rfl)
@[simp] theorem State.putLatch_tns (s : State) (k v : Nat) : (s.putLatch k v).tns = s.tns := (rfl)
@[simp] theorem State.putLatch_fab (s : State) (k v : Nat) : (s.putLatch k v).fab = s.fab := (rfl)
@[simp] theorem State.putLatch_flt (s : State) (k v : Nat) : (s.putLatch k v).flt = s.flt := (rfl)
@[simp] theorem State.putLatch_ftu (s : State) (k v : Nat) : (s.putLatch k v).ftu = s.ftu := (rfl)
@[simp] theorem State.putLatch_pwr (s : State) (k v : Nat) : (s.putLatch k v).pwr = s.pwr := (rfl)
@[simp] theorem State.putLatch_ctl (s : State) (k v : Nat) : (s.putLatch k v).ctl = s.ctl := (rfl)
@[simp] theorem State.putLatch_reef (s : State) (k v : Nat) : (s.putLatch k v).reef = s.reef := (rfl)
@[simp] theorem State.putLatch_obs (s : State) (k v : Nat) : (s.putLatch k v).obs = s.obs := (rfl)
@[simp] theorem State.putLatch_err (s : State) (k v : Nat) : (s.putLatch k v).err = s.err := (rfl)
@[simp] theorem State.putLatch_halted (s : State) (k v : Nat) : (s.putLatch k v).halted = s.halted := (rfl)
@[simp] theorem State.get_putLatch (s : State) (k v : Nat) (g : Fld) : (s.putLatch k v).get g = s.get g := (rfl)
@[simp] theorem State.setTrace_pending (s : State) (t : TraceState) : (s.setTrace t).pending = s.pending := (rfl)
@[simp] theorem State.setTrace_free (s : State) (t : TraceState) : (s.setTrace t).free = s.free := (rfl)
@[simp] theorem State.setTrace_regs (s : State) (t : TraceState) : (s.setTrace t).regs = s.regs := (rfl)
@[simp] theorem State.setTrace_phase (s : State) (t : TraceState) : (s.setTrace t).phase = s.phase := (rfl)
@[simp] theorem State.setTrace_latch (s : State) (t : TraceState) : (s.setTrace t).latch = s.latch := (rfl)
@[simp] theorem State.setTrace_deferred (s : State) (t : TraceState) : (s.setTrace t).deferred = s.deferred := (rfl)
@[simp] theorem State.setTrace_time (s : State) (t : TraceState) : (s.setTrace t).time = s.time := (rfl)
@[simp] theorem State.setTrace_host (s : State) (t : TraceState) : (s.setTrace t).host = s.host := (rfl)
@[simp] theorem State.setTrace_lpddr (s : State) (t : TraceState) : (s.setTrace t).lpddr = s.lpddr := (rfl)
@[simp] theorem State.setTrace_ing (s : State) (t : TraceState) : (s.setTrace t).ing = s.ing := (rfl)
@[simp] theorem State.setTrace_cv (s : State) (t : TraceState) : (s.setTrace t).cv = s.cv := (rfl)
@[simp] theorem State.setTrace_active (s : State) (t : TraceState) : (s.setTrace t).active = s.active := (rfl)
@[simp] theorem State.setTrace_shadow (s : State) (t : TraceState) : (s.setTrace t).shadow = s.shadow := (rfl)
@[simp] theorem State.setTrace_tns (s : State) (t : TraceState) : (s.setTrace t).tns = s.tns := (rfl)
@[simp] theorem State.setTrace_fab (s : State) (t : TraceState) : (s.setTrace t).fab = s.fab := (rfl)
@[simp] theorem State.setTrace_flt (s : State) (t : TraceState) : (s.setTrace t).flt = s.flt := (rfl)
@[simp] theorem State.setTrace_ftu (s : State) (t : TraceState) : (s.setTrace t).ftu = s.ftu := (rfl)
@[simp] theorem State.setTrace_pwr (s : State) (t : TraceState) : (s.setTrace t).pwr = s.pwr := (rfl)
@[simp] theorem State.setTrace_ctl (s : State) (t : TraceState) : (s.setTrace t).ctl = s.ctl := (rfl)
@[simp] theorem State.setTrace_reef (s : State) (t : TraceState) : (s.setTrace t).reef = s.reef := (rfl)
@[simp] theorem State.setTrace_err (s : State) (t : TraceState) : (s.setTrace t).err = s.err := (rfl)
@[simp] theorem State.setTrace_halted (s : State) (t : TraceState) : (s.setTrace t).halted = s.halted := (rfl)
@[simp] theorem State.get_setTrace (s : State) (t : TraceState) (g : Fld) : (s.setTrace t).get g = s.get g := (rfl)
@[simp] theorem State.count_pending (s : State) (d k n : Nat) : (s.count d k n).pending = s.pending := (rfl)
@[simp] theorem State.count_free (s : State) (d k n : Nat) : (s.count d k n).free = s.free := (rfl)
@[simp] theorem State.count_regs (s : State) (d k n : Nat) : (s.count d k n).regs = s.regs := (rfl)
@[simp] theorem State.count_phase (s : State) (d k n : Nat) : (s.count d k n).phase = s.phase := (rfl)
@[simp] theorem State.count_latch (s : State) (d k n : Nat) : (s.count d k n).latch = s.latch := (rfl)
@[simp] theorem State.count_deferred (s : State) (d k n : Nat) : (s.count d k n).deferred = s.deferred := (rfl)
@[simp] theorem State.count_time (s : State) (d k n : Nat) : (s.count d k n).time = s.time := (rfl)
@[simp] theorem State.count_host (s : State) (d k n : Nat) : (s.count d k n).host = s.host := (rfl)
@[simp] theorem State.count_lpddr (s : State) (d k n : Nat) : (s.count d k n).lpddr = s.lpddr := (rfl)
@[simp] theorem State.count_ing (s : State) (d k n : Nat) : (s.count d k n).ing = s.ing := (rfl)
@[simp] theorem State.count_cv (s : State) (d k n : Nat) : (s.count d k n).cv = s.cv := (rfl)
@[simp] theorem State.count_active (s : State) (d k n : Nat) : (s.count d k n).active = s.active := (rfl)
@[simp] theorem State.count_shadow (s : State) (d k n : Nat) : (s.count d k n).shadow = s.shadow := (rfl)
@[simp] theorem State.count_tns (s : State) (d k n : Nat) : (s.count d k n).tns = s.tns := (rfl)
@[simp] theorem State.count_fab (s : State) (d k n : Nat) : (s.count d k n).fab = s.fab := (rfl)
@[simp] theorem State.count_flt (s : State) (d k n : Nat) : (s.count d k n).flt = s.flt := (rfl)
@[simp] theorem State.count_ftu (s : State) (d k n : Nat) : (s.count d k n).ftu = s.ftu := (rfl)
@[simp] theorem State.count_pwr (s : State) (d k n : Nat) : (s.count d k n).pwr = s.pwr := (rfl)
@[simp] theorem State.count_ctl (s : State) (d k n : Nat) : (s.count d k n).ctl = s.ctl := (rfl)
@[simp] theorem State.count_reef (s : State) (d k n : Nat) : (s.count d k n).reef = s.reef := (rfl)
@[simp] theorem State.count_err (s : State) (d k n : Nat) : (s.count d k n).err = s.err := (rfl)
@[simp] theorem State.count_halted (s : State) (d k n : Nat) : (s.count d k n).halted = s.halted := (rfl)
@[simp] theorem State.get_count (s : State) (d k n : Nat) (g : Fld) : (s.count d k n).get g = s.get g := (rfl)
@[simp] theorem State.setPort_pending (s : State) (p : Nat) (v : Port) : (s.setPort p v).pending = s.pending := (rfl)
@[simp] theorem State.setPort_free (s : State) (p : Nat) (v : Port) : (s.setPort p v).free = s.free := (rfl)
@[simp] theorem State.setPort_regs (s : State) (p : Nat) (v : Port) : (s.setPort p v).regs = s.regs := (rfl)
@[simp] theorem State.setPort_phase (s : State) (p : Nat) (v : Port) : (s.setPort p v).phase = s.phase := (rfl)
@[simp] theorem State.setPort_latch (s : State) (p : Nat) (v : Port) : (s.setPort p v).latch = s.latch := (rfl)
@[simp] theorem State.setPort_deferred (s : State) (p : Nat) (v : Port) : (s.setPort p v).deferred = s.deferred := (rfl)
@[simp] theorem State.setPort_time (s : State) (p : Nat) (v : Port) : (s.setPort p v).time = s.time := (rfl)
@[simp] theorem State.setPort_host (s : State) (p : Nat) (v : Port) : (s.setPort p v).host = s.host := (rfl)
@[simp] theorem State.setPort_lpddr (s : State) (p : Nat) (v : Port) : (s.setPort p v).lpddr = s.lpddr := (rfl)
@[simp] theorem State.setPort_cv (s : State) (p : Nat) (v : Port) : (s.setPort p v).cv = s.cv := (rfl)
@[simp] theorem State.setPort_active (s : State) (p : Nat) (v : Port) : (s.setPort p v).active = s.active := (rfl)
@[simp] theorem State.setPort_shadow (s : State) (p : Nat) (v : Port) : (s.setPort p v).shadow = s.shadow := (rfl)
@[simp] theorem State.setPort_tns (s : State) (p : Nat) (v : Port) : (s.setPort p v).tns = s.tns := (rfl)
@[simp] theorem State.setPort_fab (s : State) (p : Nat) (v : Port) : (s.setPort p v).fab = s.fab := (rfl)
@[simp] theorem State.setPort_flt (s : State) (p : Nat) (v : Port) : (s.setPort p v).flt = s.flt := (rfl)
@[simp] theorem State.setPort_ftu (s : State) (p : Nat) (v : Port) : (s.setPort p v).ftu = s.ftu := (rfl)
@[simp] theorem State.setPort_pwr (s : State) (p : Nat) (v : Port) : (s.setPort p v).pwr = s.pwr := (rfl)
@[simp] theorem State.setPort_ctl (s : State) (p : Nat) (v : Port) : (s.setPort p v).ctl = s.ctl := (rfl)
@[simp] theorem State.setPort_reef (s : State) (p : Nat) (v : Port) : (s.setPort p v).reef = s.reef := (rfl)
@[simp] theorem State.setPort_obs (s : State) (p : Nat) (v : Port) : (s.setPort p v).obs = s.obs := (rfl)
@[simp] theorem State.setPort_err (s : State) (p : Nat) (v : Port) : (s.setPort p v).err = s.err := (rfl)
@[simp] theorem State.setPort_halted (s : State) (p : Nat) (v : Port) : (s.setPort p v).halted = s.halted := (rfl)
@[simp] theorem State.get_setPort (s : State) (p : Nat) (v : Port) (g : Fld) : (s.setPort p v).get g = s.get g := (rfl)
@[simp] theorem State.setRb_pending (s : State) (p : Nat) (v : Rebaser) : (s.setRb p v).pending = s.pending := (rfl)
@[simp] theorem State.setRb_free (s : State) (p : Nat) (v : Rebaser) : (s.setRb p v).free = s.free := (rfl)
@[simp] theorem State.setRb_regs (s : State) (p : Nat) (v : Rebaser) : (s.setRb p v).regs = s.regs := (rfl)
@[simp] theorem State.setRb_phase (s : State) (p : Nat) (v : Rebaser) : (s.setRb p v).phase = s.phase := (rfl)
@[simp] theorem State.setRb_latch (s : State) (p : Nat) (v : Rebaser) : (s.setRb p v).latch = s.latch := (rfl)
@[simp] theorem State.setRb_deferred (s : State) (p : Nat) (v : Rebaser) : (s.setRb p v).deferred = s.deferred := (rfl)
@[simp] theorem State.setRb_host (s : State) (p : Nat) (v : Rebaser) : (s.setRb p v).host = s.host := (rfl)
@[simp] theorem State.setRb_lpddr (s : State) (p : Nat) (v : Rebaser) : (s.setRb p v).lpddr = s.lpddr := (rfl)
@[simp] theorem State.setRb_ing (s : State) (p : Nat) (v : Rebaser) : (s.setRb p v).ing = s.ing := (rfl)
@[simp] theorem State.setRb_cv (s : State) (p : Nat) (v : Rebaser) : (s.setRb p v).cv = s.cv := (rfl)
@[simp] theorem State.setRb_active (s : State) (p : Nat) (v : Rebaser) : (s.setRb p v).active = s.active := (rfl)
@[simp] theorem State.setRb_shadow (s : State) (p : Nat) (v : Rebaser) : (s.setRb p v).shadow = s.shadow := (rfl)
@[simp] theorem State.setRb_tns (s : State) (p : Nat) (v : Rebaser) : (s.setRb p v).tns = s.tns := (rfl)
@[simp] theorem State.setRb_fab (s : State) (p : Nat) (v : Rebaser) : (s.setRb p v).fab = s.fab := (rfl)
@[simp] theorem State.setRb_flt (s : State) (p : Nat) (v : Rebaser) : (s.setRb p v).flt = s.flt := (rfl)
@[simp] theorem State.setRb_ftu (s : State) (p : Nat) (v : Rebaser) : (s.setRb p v).ftu = s.ftu := (rfl)
@[simp] theorem State.setRb_pwr (s : State) (p : Nat) (v : Rebaser) : (s.setRb p v).pwr = s.pwr := (rfl)
@[simp] theorem State.setRb_ctl (s : State) (p : Nat) (v : Rebaser) : (s.setRb p v).ctl = s.ctl := (rfl)
@[simp] theorem State.setRb_reef (s : State) (p : Nat) (v : Rebaser) : (s.setRb p v).reef = s.reef := (rfl)
@[simp] theorem State.setRb_obs (s : State) (p : Nat) (v : Rebaser) : (s.setRb p v).obs = s.obs := (rfl)
@[simp] theorem State.setRb_err (s : State) (p : Nat) (v : Rebaser) : (s.setRb p v).err = s.err := (rfl)
@[simp] theorem State.setRb_halted (s : State) (p : Nat) (v : Rebaser) : (s.setRb p v).halted = s.halted := (rfl)
@[simp] theorem State.get_setRb (s : State) (p : Nat) (v : Rebaser) (g : Fld) : (s.setRb p v).get g = s.get g := (rfl)
@[simp] theorem State.setTime_pending (s : State) (v : TimeState) : (s.setTime v).pending = s.pending := (rfl)
@[simp] theorem State.setTime_free (s : State) (v : TimeState) : (s.setTime v).free = s.free := (rfl)
@[simp] theorem State.setTime_regs (s : State) (v : TimeState) : (s.setTime v).regs = s.regs := (rfl)
@[simp] theorem State.setTime_phase (s : State) (v : TimeState) : (s.setTime v).phase = s.phase := (rfl)
@[simp] theorem State.setTime_latch (s : State) (v : TimeState) : (s.setTime v).latch = s.latch := (rfl)
@[simp] theorem State.setTime_deferred (s : State) (v : TimeState) : (s.setTime v).deferred = s.deferred := (rfl)
@[simp] theorem State.setTime_host (s : State) (v : TimeState) : (s.setTime v).host = s.host := (rfl)
@[simp] theorem State.setTime_lpddr (s : State) (v : TimeState) : (s.setTime v).lpddr = s.lpddr := (rfl)
@[simp] theorem State.setTime_ing (s : State) (v : TimeState) : (s.setTime v).ing = s.ing := (rfl)
@[simp] theorem State.setTime_cv (s : State) (v : TimeState) : (s.setTime v).cv = s.cv := (rfl)
@[simp] theorem State.setTime_active (s : State) (v : TimeState) : (s.setTime v).active = s.active := (rfl)
@[simp] theorem State.setTime_shadow (s : State) (v : TimeState) : (s.setTime v).shadow = s.shadow := (rfl)
@[simp] theorem State.setTime_tns (s : State) (v : TimeState) : (s.setTime v).tns = s.tns := (rfl)
@[simp] theorem State.setTime_fab (s : State) (v : TimeState) : (s.setTime v).fab = s.fab := (rfl)
@[simp] theorem State.setTime_flt (s : State) (v : TimeState) : (s.setTime v).flt = s.flt := (rfl)
@[simp] theorem State.setTime_ftu (s : State) (v : TimeState) : (s.setTime v).ftu = s.ftu := (rfl)
@[simp] theorem State.setTime_pwr (s : State) (v : TimeState) : (s.setTime v).pwr = s.pwr := (rfl)
@[simp] theorem State.setTime_ctl (s : State) (v : TimeState) : (s.setTime v).ctl = s.ctl := (rfl)
@[simp] theorem State.setTime_reef (s : State) (v : TimeState) : (s.setTime v).reef = s.reef := (rfl)
@[simp] theorem State.setTime_obs (s : State) (v : TimeState) : (s.setTime v).obs = s.obs := (rfl)
@[simp] theorem State.setTime_err (s : State) (v : TimeState) : (s.setTime v).err = s.err := (rfl)
@[simp] theorem State.setTime_halted (s : State) (v : TimeState) : (s.setTime v).halted = s.halted := (rfl)
@[simp] theorem State.get_setTime (s : State) (v : TimeState) (g : Fld) : (s.setTime v).get g = s.get g := (rfl)
@[simp] theorem State.setCv_pending (s : State) (v : Canvas) : (s.setCv v).pending = s.pending := (rfl)
@[simp] theorem State.setCv_free (s : State) (v : Canvas) : (s.setCv v).free = s.free := (rfl)
@[simp] theorem State.setCv_regs (s : State) (v : Canvas) : (s.setCv v).regs = s.regs := (rfl)
@[simp] theorem State.setCv_phase (s : State) (v : Canvas) : (s.setCv v).phase = s.phase := (rfl)
@[simp] theorem State.setCv_latch (s : State) (v : Canvas) : (s.setCv v).latch = s.latch := (rfl)
@[simp] theorem State.setCv_deferred (s : State) (v : Canvas) : (s.setCv v).deferred = s.deferred := (rfl)
@[simp] theorem State.setCv_time (s : State) (v : Canvas) : (s.setCv v).time = s.time := (rfl)
@[simp] theorem State.setCv_host (s : State) (v : Canvas) : (s.setCv v).host = s.host := (rfl)
@[simp] theorem State.setCv_lpddr (s : State) (v : Canvas) : (s.setCv v).lpddr = s.lpddr := (rfl)
@[simp] theorem State.setCv_ing (s : State) (v : Canvas) : (s.setCv v).ing = s.ing := (rfl)
@[simp] theorem State.setCv_active (s : State) (v : Canvas) : (s.setCv v).active = s.active := (rfl)
@[simp] theorem State.setCv_shadow (s : State) (v : Canvas) : (s.setCv v).shadow = s.shadow := (rfl)
@[simp] theorem State.setCv_tns (s : State) (v : Canvas) : (s.setCv v).tns = s.tns := (rfl)
@[simp] theorem State.setCv_fab (s : State) (v : Canvas) : (s.setCv v).fab = s.fab := (rfl)
@[simp] theorem State.setCv_flt (s : State) (v : Canvas) : (s.setCv v).flt = s.flt := (rfl)
@[simp] theorem State.setCv_ftu (s : State) (v : Canvas) : (s.setCv v).ftu = s.ftu := (rfl)
@[simp] theorem State.setCv_pwr (s : State) (v : Canvas) : (s.setCv v).pwr = s.pwr := (rfl)
@[simp] theorem State.setCv_ctl (s : State) (v : Canvas) : (s.setCv v).ctl = s.ctl := (rfl)
@[simp] theorem State.setCv_reef (s : State) (v : Canvas) : (s.setCv v).reef = s.reef := (rfl)
@[simp] theorem State.setCv_obs (s : State) (v : Canvas) : (s.setCv v).obs = s.obs := (rfl)
@[simp] theorem State.setCv_err (s : State) (v : Canvas) : (s.setCv v).err = s.err := (rfl)
@[simp] theorem State.setCv_halted (s : State) (v : Canvas) : (s.setCv v).halted = s.halted := (rfl)
@[simp] theorem State.get_setCv (s : State) (v : Canvas) (g : Fld) : (s.setCv v).get g = s.get g := (rfl)
@[simp] theorem State.setTns_pending (s : State) (v : Dense) : (s.setTns v).pending = s.pending := (rfl)
@[simp] theorem State.setTns_free (s : State) (v : Dense) : (s.setTns v).free = s.free := (rfl)
@[simp] theorem State.setTns_regs (s : State) (v : Dense) : (s.setTns v).regs = s.regs := (rfl)
@[simp] theorem State.setTns_phase (s : State) (v : Dense) : (s.setTns v).phase = s.phase := (rfl)
@[simp] theorem State.setTns_latch (s : State) (v : Dense) : (s.setTns v).latch = s.latch := (rfl)
@[simp] theorem State.setTns_deferred (s : State) (v : Dense) : (s.setTns v).deferred = s.deferred := (rfl)
@[simp] theorem State.setTns_time (s : State) (v : Dense) : (s.setTns v).time = s.time := (rfl)
@[simp] theorem State.setTns_host (s : State) (v : Dense) : (s.setTns v).host = s.host := (rfl)
@[simp] theorem State.setTns_lpddr (s : State) (v : Dense) : (s.setTns v).lpddr = s.lpddr := (rfl)
@[simp] theorem State.setTns_ing (s : State) (v : Dense) : (s.setTns v).ing = s.ing := (rfl)
@[simp] theorem State.setTns_cv (s : State) (v : Dense) : (s.setTns v).cv = s.cv := (rfl)
@[simp] theorem State.setTns_active (s : State) (v : Dense) : (s.setTns v).active = s.active := (rfl)
@[simp] theorem State.setTns_shadow (s : State) (v : Dense) : (s.setTns v).shadow = s.shadow := (rfl)
@[simp] theorem State.setTns_fab (s : State) (v : Dense) : (s.setTns v).fab = s.fab := (rfl)
@[simp] theorem State.setTns_flt (s : State) (v : Dense) : (s.setTns v).flt = s.flt := (rfl)
@[simp] theorem State.setTns_ftu (s : State) (v : Dense) : (s.setTns v).ftu = s.ftu := (rfl)
@[simp] theorem State.setTns_pwr (s : State) (v : Dense) : (s.setTns v).pwr = s.pwr := (rfl)
@[simp] theorem State.setTns_ctl (s : State) (v : Dense) : (s.setTns v).ctl = s.ctl := (rfl)
@[simp] theorem State.setTns_reef (s : State) (v : Dense) : (s.setTns v).reef = s.reef := (rfl)
@[simp] theorem State.setTns_obs (s : State) (v : Dense) : (s.setTns v).obs = s.obs := (rfl)
@[simp] theorem State.setTns_err (s : State) (v : Dense) : (s.setTns v).err = s.err := (rfl)
@[simp] theorem State.setTns_halted (s : State) (v : Dense) : (s.setTns v).halted = s.halted := (rfl)
@[simp] theorem State.get_setTns (s : State) (v : Dense) (g : Fld) : (s.setTns v).get g = s.get g := (rfl)
@[simp] theorem State.setFab_pending (s : State) (v : Fabric) : (s.setFab v).pending = s.pending := (rfl)
@[simp] theorem State.setFab_free (s : State) (v : Fabric) : (s.setFab v).free = s.free := (rfl)
@[simp] theorem State.setFab_regs (s : State) (v : Fabric) : (s.setFab v).regs = s.regs := (rfl)
@[simp] theorem State.setFab_phase (s : State) (v : Fabric) : (s.setFab v).phase = s.phase := (rfl)
@[simp] theorem State.setFab_latch (s : State) (v : Fabric) : (s.setFab v).latch = s.latch := (rfl)
@[simp] theorem State.setFab_deferred (s : State) (v : Fabric) : (s.setFab v).deferred = s.deferred := (rfl)
@[simp] theorem State.setFab_time (s : State) (v : Fabric) : (s.setFab v).time = s.time := (rfl)
@[simp] theorem State.setFab_host (s : State) (v : Fabric) : (s.setFab v).host = s.host := (rfl)
@[simp] theorem State.setFab_lpddr (s : State) (v : Fabric) : (s.setFab v).lpddr = s.lpddr := (rfl)
@[simp] theorem State.setFab_ing (s : State) (v : Fabric) : (s.setFab v).ing = s.ing := (rfl)
@[simp] theorem State.setFab_cv (s : State) (v : Fabric) : (s.setFab v).cv = s.cv := (rfl)
@[simp] theorem State.setFab_active (s : State) (v : Fabric) : (s.setFab v).active = s.active := (rfl)
@[simp] theorem State.setFab_shadow (s : State) (v : Fabric) : (s.setFab v).shadow = s.shadow := (rfl)
@[simp] theorem State.setFab_tns (s : State) (v : Fabric) : (s.setFab v).tns = s.tns := (rfl)
@[simp] theorem State.setFab_flt (s : State) (v : Fabric) : (s.setFab v).flt = s.flt := (rfl)
@[simp] theorem State.setFab_ftu (s : State) (v : Fabric) : (s.setFab v).ftu = s.ftu := (rfl)
@[simp] theorem State.setFab_pwr (s : State) (v : Fabric) : (s.setFab v).pwr = s.pwr := (rfl)
@[simp] theorem State.setFab_ctl (s : State) (v : Fabric) : (s.setFab v).ctl = s.ctl := (rfl)
@[simp] theorem State.setFab_reef (s : State) (v : Fabric) : (s.setFab v).reef = s.reef := (rfl)
@[simp] theorem State.setFab_obs (s : State) (v : Fabric) : (s.setFab v).obs = s.obs := (rfl)
@[simp] theorem State.setFab_err (s : State) (v : Fabric) : (s.setFab v).err = s.err := (rfl)
@[simp] theorem State.setFab_halted (s : State) (v : Fabric) : (s.setFab v).halted = s.halted := (rfl)
@[simp] theorem State.get_setFab (s : State) (v : Fabric) (g : Fld) : (s.setFab v).get g = s.get g := (rfl)
@[simp] theorem State.setFlt_pending (s : State) (v : Filter) : (s.setFlt v).pending = s.pending := (rfl)
@[simp] theorem State.setFlt_free (s : State) (v : Filter) : (s.setFlt v).free = s.free := (rfl)
@[simp] theorem State.setFlt_regs (s : State) (v : Filter) : (s.setFlt v).regs = s.regs := (rfl)
@[simp] theorem State.setFlt_phase (s : State) (v : Filter) : (s.setFlt v).phase = s.phase := (rfl)
@[simp] theorem State.setFlt_latch (s : State) (v : Filter) : (s.setFlt v).latch = s.latch := (rfl)
@[simp] theorem State.setFlt_deferred (s : State) (v : Filter) : (s.setFlt v).deferred = s.deferred := (rfl)
@[simp] theorem State.setFlt_time (s : State) (v : Filter) : (s.setFlt v).time = s.time := (rfl)
@[simp] theorem State.setFlt_host (s : State) (v : Filter) : (s.setFlt v).host = s.host := (rfl)
@[simp] theorem State.setFlt_lpddr (s : State) (v : Filter) : (s.setFlt v).lpddr = s.lpddr := (rfl)
@[simp] theorem State.setFlt_ing (s : State) (v : Filter) : (s.setFlt v).ing = s.ing := (rfl)
@[simp] theorem State.setFlt_cv (s : State) (v : Filter) : (s.setFlt v).cv = s.cv := (rfl)
@[simp] theorem State.setFlt_active (s : State) (v : Filter) : (s.setFlt v).active = s.active := (rfl)
@[simp] theorem State.setFlt_shadow (s : State) (v : Filter) : (s.setFlt v).shadow = s.shadow := (rfl)
@[simp] theorem State.setFlt_tns (s : State) (v : Filter) : (s.setFlt v).tns = s.tns := (rfl)
@[simp] theorem State.setFlt_fab (s : State) (v : Filter) : (s.setFlt v).fab = s.fab := (rfl)
@[simp] theorem State.setFlt_ftu (s : State) (v : Filter) : (s.setFlt v).ftu = s.ftu := (rfl)
@[simp] theorem State.setFlt_pwr (s : State) (v : Filter) : (s.setFlt v).pwr = s.pwr := (rfl)
@[simp] theorem State.setFlt_ctl (s : State) (v : Filter) : (s.setFlt v).ctl = s.ctl := (rfl)
@[simp] theorem State.setFlt_reef (s : State) (v : Filter) : (s.setFlt v).reef = s.reef := (rfl)
@[simp] theorem State.setFlt_obs (s : State) (v : Filter) : (s.setFlt v).obs = s.obs := (rfl)
@[simp] theorem State.setFlt_err (s : State) (v : Filter) : (s.setFlt v).err = s.err := (rfl)
@[simp] theorem State.setFlt_halted (s : State) (v : Filter) : (s.setFlt v).halted = s.halted := (rfl)
@[simp] theorem State.get_setFlt (s : State) (v : Filter) (g : Fld) : (s.setFlt v).get g = s.get g := (rfl)
@[simp] theorem State.setFtu_pending (s : State) (v : Ftu) : (s.setFtu v).pending = s.pending := (rfl)
@[simp] theorem State.setFtu_free (s : State) (v : Ftu) : (s.setFtu v).free = s.free := (rfl)
@[simp] theorem State.setFtu_regs (s : State) (v : Ftu) : (s.setFtu v).regs = s.regs := (rfl)
@[simp] theorem State.setFtu_phase (s : State) (v : Ftu) : (s.setFtu v).phase = s.phase := (rfl)
@[simp] theorem State.setFtu_latch (s : State) (v : Ftu) : (s.setFtu v).latch = s.latch := (rfl)
@[simp] theorem State.setFtu_deferred (s : State) (v : Ftu) : (s.setFtu v).deferred = s.deferred := (rfl)
@[simp] theorem State.setFtu_time (s : State) (v : Ftu) : (s.setFtu v).time = s.time := (rfl)
@[simp] theorem State.setFtu_host (s : State) (v : Ftu) : (s.setFtu v).host = s.host := (rfl)
@[simp] theorem State.setFtu_lpddr (s : State) (v : Ftu) : (s.setFtu v).lpddr = s.lpddr := (rfl)
@[simp] theorem State.setFtu_ing (s : State) (v : Ftu) : (s.setFtu v).ing = s.ing := (rfl)
@[simp] theorem State.setFtu_cv (s : State) (v : Ftu) : (s.setFtu v).cv = s.cv := (rfl)
@[simp] theorem State.setFtu_active (s : State) (v : Ftu) : (s.setFtu v).active = s.active := (rfl)
@[simp] theorem State.setFtu_shadow (s : State) (v : Ftu) : (s.setFtu v).shadow = s.shadow := (rfl)
@[simp] theorem State.setFtu_tns (s : State) (v : Ftu) : (s.setFtu v).tns = s.tns := (rfl)
@[simp] theorem State.setFtu_fab (s : State) (v : Ftu) : (s.setFtu v).fab = s.fab := (rfl)
@[simp] theorem State.setFtu_flt (s : State) (v : Ftu) : (s.setFtu v).flt = s.flt := (rfl)
@[simp] theorem State.setFtu_pwr (s : State) (v : Ftu) : (s.setFtu v).pwr = s.pwr := (rfl)
@[simp] theorem State.setFtu_ctl (s : State) (v : Ftu) : (s.setFtu v).ctl = s.ctl := (rfl)
@[simp] theorem State.setFtu_reef (s : State) (v : Ftu) : (s.setFtu v).reef = s.reef := (rfl)
@[simp] theorem State.setFtu_obs (s : State) (v : Ftu) : (s.setFtu v).obs = s.obs := (rfl)
@[simp] theorem State.setFtu_err (s : State) (v : Ftu) : (s.setFtu v).err = s.err := (rfl)
@[simp] theorem State.setFtu_halted (s : State) (v : Ftu) : (s.setFtu v).halted = s.halted := (rfl)
@[simp] theorem State.get_setFtu (s : State) (v : Ftu) (g : Fld) : (s.setFtu v).get g = s.get g := (rfl)
@[simp] theorem State.setPwr_pending (s : State) (v : Power) : (s.setPwr v).pending = s.pending := (rfl)
@[simp] theorem State.setPwr_free (s : State) (v : Power) : (s.setPwr v).free = s.free := (rfl)
@[simp] theorem State.setPwr_regs (s : State) (v : Power) : (s.setPwr v).regs = s.regs := (rfl)
@[simp] theorem State.setPwr_phase (s : State) (v : Power) : (s.setPwr v).phase = s.phase := (rfl)
@[simp] theorem State.setPwr_latch (s : State) (v : Power) : (s.setPwr v).latch = s.latch := (rfl)
@[simp] theorem State.setPwr_deferred (s : State) (v : Power) : (s.setPwr v).deferred = s.deferred := (rfl)
@[simp] theorem State.setPwr_time (s : State) (v : Power) : (s.setPwr v).time = s.time := (rfl)
@[simp] theorem State.setPwr_host (s : State) (v : Power) : (s.setPwr v).host = s.host := (rfl)
@[simp] theorem State.setPwr_lpddr (s : State) (v : Power) : (s.setPwr v).lpddr = s.lpddr := (rfl)
@[simp] theorem State.setPwr_ing (s : State) (v : Power) : (s.setPwr v).ing = s.ing := (rfl)
@[simp] theorem State.setPwr_cv (s : State) (v : Power) : (s.setPwr v).cv = s.cv := (rfl)
@[simp] theorem State.setPwr_active (s : State) (v : Power) : (s.setPwr v).active = s.active := (rfl)
@[simp] theorem State.setPwr_shadow (s : State) (v : Power) : (s.setPwr v).shadow = s.shadow := (rfl)
@[simp] theorem State.setPwr_tns (s : State) (v : Power) : (s.setPwr v).tns = s.tns := (rfl)
@[simp] theorem State.setPwr_fab (s : State) (v : Power) : (s.setPwr v).fab = s.fab := (rfl)
@[simp] theorem State.setPwr_flt (s : State) (v : Power) : (s.setPwr v).flt = s.flt := (rfl)
@[simp] theorem State.setPwr_ftu (s : State) (v : Power) : (s.setPwr v).ftu = s.ftu := (rfl)
@[simp] theorem State.setPwr_ctl (s : State) (v : Power) : (s.setPwr v).ctl = s.ctl := (rfl)
@[simp] theorem State.setPwr_reef (s : State) (v : Power) : (s.setPwr v).reef = s.reef := (rfl)
@[simp] theorem State.setPwr_obs (s : State) (v : Power) : (s.setPwr v).obs = s.obs := (rfl)
@[simp] theorem State.setPwr_err (s : State) (v : Power) : (s.setPwr v).err = s.err := (rfl)
@[simp] theorem State.setPwr_halted (s : State) (v : Power) : (s.setPwr v).halted = s.halted := (rfl)
@[simp] theorem State.get_setPwr (s : State) (v : Power) (g : Fld) : (s.setPwr v).get g = s.get g := (rfl)
@[simp] theorem State.setCtl_pending (s : State) (v : Control) : (s.setCtl v).pending = s.pending := (rfl)
@[simp] theorem State.setCtl_free (s : State) (v : Control) : (s.setCtl v).free = s.free := (rfl)
@[simp] theorem State.setCtl_regs (s : State) (v : Control) : (s.setCtl v).regs = s.regs := (rfl)
@[simp] theorem State.setCtl_phase (s : State) (v : Control) : (s.setCtl v).phase = s.phase := (rfl)
@[simp] theorem State.setCtl_latch (s : State) (v : Control) : (s.setCtl v).latch = s.latch := (rfl)
@[simp] theorem State.setCtl_deferred (s : State) (v : Control) : (s.setCtl v).deferred = s.deferred := (rfl)
@[simp] theorem State.setCtl_time (s : State) (v : Control) : (s.setCtl v).time = s.time := (rfl)
@[simp] theorem State.setCtl_host (s : State) (v : Control) : (s.setCtl v).host = s.host := (rfl)
@[simp] theorem State.setCtl_lpddr (s : State) (v : Control) : (s.setCtl v).lpddr = s.lpddr := (rfl)
@[simp] theorem State.setCtl_ing (s : State) (v : Control) : (s.setCtl v).ing = s.ing := (rfl)
@[simp] theorem State.setCtl_cv (s : State) (v : Control) : (s.setCtl v).cv = s.cv := (rfl)
@[simp] theorem State.setCtl_active (s : State) (v : Control) : (s.setCtl v).active = s.active := (rfl)
@[simp] theorem State.setCtl_shadow (s : State) (v : Control) : (s.setCtl v).shadow = s.shadow := (rfl)
@[simp] theorem State.setCtl_tns (s : State) (v : Control) : (s.setCtl v).tns = s.tns := (rfl)
@[simp] theorem State.setCtl_fab (s : State) (v : Control) : (s.setCtl v).fab = s.fab := (rfl)
@[simp] theorem State.setCtl_flt (s : State) (v : Control) : (s.setCtl v).flt = s.flt := (rfl)
@[simp] theorem State.setCtl_ftu (s : State) (v : Control) : (s.setCtl v).ftu = s.ftu := (rfl)
@[simp] theorem State.setCtl_pwr (s : State) (v : Control) : (s.setCtl v).pwr = s.pwr := (rfl)
@[simp] theorem State.setCtl_reef (s : State) (v : Control) : (s.setCtl v).reef = s.reef := (rfl)
@[simp] theorem State.setCtl_obs (s : State) (v : Control) : (s.setCtl v).obs = s.obs := (rfl)
@[simp] theorem State.setCtl_err (s : State) (v : Control) : (s.setCtl v).err = s.err := (rfl)
@[simp] theorem State.setCtl_halted (s : State) (v : Control) : (s.setCtl v).halted = s.halted := (rfl)
@[simp] theorem State.get_setCtl (s : State) (v : Control) (g : Fld) : (s.setCtl v).get g = s.get g := (rfl)
@[simp] theorem State.setReef_pending (s : State) (v : Reef) : (s.setReef v).pending = s.pending := (rfl)
@[simp] theorem State.setReef_free (s : State) (v : Reef) : (s.setReef v).free = s.free := (rfl)
@[simp] theorem State.setReef_regs (s : State) (v : Reef) : (s.setReef v).regs = s.regs := (rfl)
@[simp] theorem State.setReef_phase (s : State) (v : Reef) : (s.setReef v).phase = s.phase := (rfl)
@[simp] theorem State.setReef_latch (s : State) (v : Reef) : (s.setReef v).latch = s.latch := (rfl)
@[simp] theorem State.setReef_deferred (s : State) (v : Reef) : (s.setReef v).deferred = s.deferred := (rfl)
@[simp] theorem State.setReef_time (s : State) (v : Reef) : (s.setReef v).time = s.time := (rfl)
@[simp] theorem State.setReef_host (s : State) (v : Reef) : (s.setReef v).host = s.host := (rfl)
@[simp] theorem State.setReef_lpddr (s : State) (v : Reef) : (s.setReef v).lpddr = s.lpddr := (rfl)
@[simp] theorem State.setReef_ing (s : State) (v : Reef) : (s.setReef v).ing = s.ing := (rfl)
@[simp] theorem State.setReef_cv (s : State) (v : Reef) : (s.setReef v).cv = s.cv := (rfl)
@[simp] theorem State.setReef_active (s : State) (v : Reef) : (s.setReef v).active = s.active := (rfl)
@[simp] theorem State.setReef_shadow (s : State) (v : Reef) : (s.setReef v).shadow = s.shadow := (rfl)
@[simp] theorem State.setReef_tns (s : State) (v : Reef) : (s.setReef v).tns = s.tns := (rfl)
@[simp] theorem State.setReef_fab (s : State) (v : Reef) : (s.setReef v).fab = s.fab := (rfl)
@[simp] theorem State.setReef_flt (s : State) (v : Reef) : (s.setReef v).flt = s.flt := (rfl)
@[simp] theorem State.setReef_ftu (s : State) (v : Reef) : (s.setReef v).ftu = s.ftu := (rfl)
@[simp] theorem State.setReef_pwr (s : State) (v : Reef) : (s.setReef v).pwr = s.pwr := (rfl)
@[simp] theorem State.setReef_ctl (s : State) (v : Reef) : (s.setReef v).ctl = s.ctl := (rfl)
@[simp] theorem State.setReef_obs (s : State) (v : Reef) : (s.setReef v).obs = s.obs := (rfl)
@[simp] theorem State.setReef_err (s : State) (v : Reef) : (s.setReef v).err = s.err := (rfl)
@[simp] theorem State.setReef_halted (s : State) (v : Reef) : (s.setReef v).halted = s.halted := (rfl)
@[simp] theorem State.get_setReef (s : State) (v : Reef) (g : Fld) : (s.setReef v).get g = s.get g := (rfl)
@[simp] theorem State.setErr_pending (s : State) (v : Errors) : (s.setErr v).pending = s.pending := (rfl)
@[simp] theorem State.setErr_free (s : State) (v : Errors) : (s.setErr v).free = s.free := (rfl)
@[simp] theorem State.setErr_regs (s : State) (v : Errors) : (s.setErr v).regs = s.regs := (rfl)
@[simp] theorem State.setErr_phase (s : State) (v : Errors) : (s.setErr v).phase = s.phase := (rfl)
@[simp] theorem State.setErr_latch (s : State) (v : Errors) : (s.setErr v).latch = s.latch := (rfl)
@[simp] theorem State.setErr_deferred (s : State) (v : Errors) : (s.setErr v).deferred = s.deferred := (rfl)
@[simp] theorem State.setErr_time (s : State) (v : Errors) : (s.setErr v).time = s.time := (rfl)
@[simp] theorem State.setErr_host (s : State) (v : Errors) : (s.setErr v).host = s.host := (rfl)
@[simp] theorem State.setErr_lpddr (s : State) (v : Errors) : (s.setErr v).lpddr = s.lpddr := (rfl)
@[simp] theorem State.setErr_ing (s : State) (v : Errors) : (s.setErr v).ing = s.ing := (rfl)
@[simp] theorem State.setErr_cv (s : State) (v : Errors) : (s.setErr v).cv = s.cv := (rfl)
@[simp] theorem State.setErr_active (s : State) (v : Errors) : (s.setErr v).active = s.active := (rfl)
@[simp] theorem State.setErr_shadow (s : State) (v : Errors) : (s.setErr v).shadow = s.shadow := (rfl)
@[simp] theorem State.setErr_tns (s : State) (v : Errors) : (s.setErr v).tns = s.tns := (rfl)
@[simp] theorem State.setErr_fab (s : State) (v : Errors) : (s.setErr v).fab = s.fab := (rfl)
@[simp] theorem State.setErr_flt (s : State) (v : Errors) : (s.setErr v).flt = s.flt := (rfl)
@[simp] theorem State.setErr_ftu (s : State) (v : Errors) : (s.setErr v).ftu = s.ftu := (rfl)
@[simp] theorem State.setErr_pwr (s : State) (v : Errors) : (s.setErr v).pwr = s.pwr := (rfl)
@[simp] theorem State.setErr_ctl (s : State) (v : Errors) : (s.setErr v).ctl = s.ctl := (rfl)
@[simp] theorem State.setErr_reef (s : State) (v : Errors) : (s.setErr v).reef = s.reef := (rfl)
@[simp] theorem State.setErr_obs (s : State) (v : Errors) : (s.setErr v).obs = s.obs := (rfl)
@[simp] theorem State.setErr_halted (s : State) (v : Errors) : (s.setErr v).halted = s.halted := (rfl)
@[simp] theorem State.get_setErr (s : State) (v : Errors) (g : Fld) : (s.setErr v).get g = s.get g := (rfl)
@[simp] theorem State.withPending_free (s : State) (l : List Instr) : (s.withPending l).free = s.free := (rfl)
@[simp] theorem State.withPending_regs (s : State) (l : List Instr) : (s.withPending l).regs = s.regs := (rfl)
@[simp] theorem State.withPending_phase (s : State) (l : List Instr) : (s.withPending l).phase = s.phase := (rfl)
@[simp] theorem State.withPending_latch (s : State) (l : List Instr) : (s.withPending l).latch = s.latch := (rfl)
@[simp] theorem State.withPending_deferred (s : State) (l : List Instr) : (s.withPending l).deferred = s.deferred := (rfl)
@[simp] theorem State.withPending_time (s : State) (l : List Instr) : (s.withPending l).time = s.time := (rfl)
@[simp] theorem State.withPending_host (s : State) (l : List Instr) : (s.withPending l).host = s.host := (rfl)
@[simp] theorem State.withPending_lpddr (s : State) (l : List Instr) : (s.withPending l).lpddr = s.lpddr := (rfl)
@[simp] theorem State.withPending_ing (s : State) (l : List Instr) : (s.withPending l).ing = s.ing := (rfl)
@[simp] theorem State.withPending_cv (s : State) (l : List Instr) : (s.withPending l).cv = s.cv := (rfl)
@[simp] theorem State.withPending_active (s : State) (l : List Instr) : (s.withPending l).active = s.active := (rfl)
@[simp] theorem State.withPending_shadow (s : State) (l : List Instr) : (s.withPending l).shadow = s.shadow := (rfl)
@[simp] theorem State.withPending_tns (s : State) (l : List Instr) : (s.withPending l).tns = s.tns := (rfl)
@[simp] theorem State.withPending_fab (s : State) (l : List Instr) : (s.withPending l).fab = s.fab := (rfl)
@[simp] theorem State.withPending_flt (s : State) (l : List Instr) : (s.withPending l).flt = s.flt := (rfl)
@[simp] theorem State.withPending_ftu (s : State) (l : List Instr) : (s.withPending l).ftu = s.ftu := (rfl)
@[simp] theorem State.withPending_pwr (s : State) (l : List Instr) : (s.withPending l).pwr = s.pwr := (rfl)
@[simp] theorem State.withPending_ctl (s : State) (l : List Instr) : (s.withPending l).ctl = s.ctl := (rfl)
@[simp] theorem State.withPending_reef (s : State) (l : List Instr) : (s.withPending l).reef = s.reef := (rfl)
@[simp] theorem State.withPending_obs (s : State) (l : List Instr) : (s.withPending l).obs = s.obs := (rfl)
@[simp] theorem State.withPending_err (s : State) (l : List Instr) : (s.withPending l).err = s.err := (rfl)
@[simp] theorem State.withPending_halted (s : State) (l : List Instr) : (s.withPending l).halted = s.halted := (rfl)
@[simp] theorem State.get_withPending (s : State) (l : List Instr) (g : Fld) : (s.withPending l).get g = s.get g := (rfl)

/-! ### What the replaced part reads as -/

@[simp] theorem State.setTime_time (s : State) (v : TimeState) : (s.setTime v).time = v := (rfl)
@[simp] theorem State.setCv_cv (s : State) (v : Canvas) : (s.setCv v).cv = v := (rfl)
@[simp] theorem State.setTns_tns (s : State) (v : Dense) : (s.setTns v).tns = v := (rfl)
@[simp] theorem State.setFab_fab (s : State) (v : Fabric) : (s.setFab v).fab = v := (rfl)
@[simp] theorem State.setFlt_flt (s : State) (v : Filter) : (s.setFlt v).flt = v := (rfl)
@[simp] theorem State.setFtu_ftu (s : State) (v : Ftu) : (s.setFtu v).ftu = v := (rfl)
@[simp] theorem State.setPwr_pwr (s : State) (v : Power) : (s.setPwr v).pwr = v := (rfl)
@[simp] theorem State.setCtl_ctl (s : State) (v : Control) : (s.setCtl v).ctl = v := (rfl)
@[simp] theorem State.setReef_reef (s : State) (v : Reef) : (s.setReef v).reef = v := (rfl)
@[simp] theorem State.setErr_err (s : State) (v : Errors) : (s.setErr v).err = v := (rfl)
@[simp] theorem State.withPending_pending (s : State) (l : List Instr) : (s.withPending l).pending = l := rfl
@[simp] theorem State.took_free (s : State) (n : Nat) : (s.took n).free = s.free + n := rfl
@[simp] theorem State.answer_rdata (s : State) (l : List Nat) : (s.answer l).host.rdata = l.map (BitVec.ofNat 32) := rfl
@[simp] theorem State.sq_setSq (s : State) (f q : Nat) (v : Sq) : (s.setSq f q v).sq f q = v := SMap.get_set_same _ _ _ _
@[simp] theorem State.cq_setCq (s : State) (f q : Nat) (v : Cq) : (s.setCq f q v).cq f q = v := SMap.get_set_same _ _ _ _
@[simp] theorem State.str_setStr (s : State) (f r : Nat) (v : Str) : (s.setStr f r v).str f r = v := SMap.get_set_same _ _ _ _
@[simp] theorem State.cur_setCur (s : State) (f q : Nat) (d : Option Desc) : (s.setCur f q d).cur f q = d := by
  simp [State.setCur, State.cur]

theorem State.sq_setSq_other (s : State) {f q g r : Nat} (h : ringKey g r ≠ ringKey f q) (v : Sq) :
    (s.setSq f q v).sq g r = s.sq g r := SMap.get_set_ne h _ _ _ _

theorem State.cur_setCur_other (s : State) {f q g r : Nat} (h : ringKey g r ≠ ringKey f q) (d : Option Desc) :
    (s.setCur f q d).cur g r = s.cur g r := by
  unfold State.cur State.setCur
  rw [State.sq_setSq_other s h]

/-- A staged loss or a register update under a condition: the taken branch. -/
theorem State.clocked_awake {s : State} (h : s.awake = true) (t : State) : s.clocked t = t := by simp [State.clocked, h]

/-- Where units do not work, nothing changes. -/
theorem State.clocked_asleep {s : State} (h : s.awake = false) (t : State) : s.clocked t = s := by simp [State.clocked, h]

end Sys2Proof.Machine
end

