-- ==== Sys2Proof/Laws/Ops.lean ====
section
/-! SUPPORT. What the shared operations do: host writes, interrupts, completions, traces, faults, records handed over. -/

namespace Sys2Proof.Machine

/-! ### Host writes -/

/-- The bytes of a write, put one after another. -/
theorem find?_foldl_put (f a : Nat) (l : List (Byte × Nat)) (m : List Host.Cell) (x : Nat)
    (h : ∀ b ∈ l, x ≠ f * 2 ^ 64 + (a + b.2) % 2 ^ 64) :
    SMap.find? x (l.foldl (fun m b => SMap.put (f * 2 ^ 64 + (a + b.2) % 2 ^ 64) b.1 m) m) = SMap.find? x m := by
  induction l generalizing m with
  | nil => rfl
  | cons b l ih =>
    rw [List.foldl_cons, ih _ fun c hc => h c (List.mem_cons_of_mem _ hc), SMap.find?_put_ne (h b List.mem_cons_self)]

theorem find?_foldl_put_zipIdx (f a n : Nat) (bs : List Byte) (m : List Host.Cell) (hn : n + bs.length ≤ 2 ^ 64)
    (k : Nat) (hk : k < bs.length) :
    SMap.find? (f * 2 ^ 64 + (a + (n + k)) % 2 ^ 64)
      ((bs.zipIdx n).foldl (fun m b => SMap.put (f * 2 ^ 64 + (a + b.2) % 2 ^ 64) b.1 m) m) = some bs[k] := by
  induction bs generalizing n m k with
  | nil => simp at hk
  | cons b bs ih =>
    simp only [List.length_cons] at hn hk
    rw [List.zipIdx_cons, List.foldl_cons]
    cases k with
    | zero =>
      rw [find?_foldl_put]
      · simp [SMap.find?_put_same]
      · intro c hc
        obtain ⟨i, hi, rfl⟩ := List.mem_iff_getElem.mp hc
        simp only [List.length_zipIdx] at hi
        simp only [List.getElem_zipIdx]
        omega
    | succ k =>
      have := ih (n + 1) (SMap.put (f * 2 ^ 64 + (a + n) % 2 ^ 64) b m) (by omega) k (by omega)
      simpa [Nat.add_assoc, Nat.add_comm 1 k] using this

/-- A posted write stands in host memory. -/
theorem State.post_hostHas (s : State) (f a : Nat) (ro : Bool) (bs : List Byte) (h : bs.length ≤ 2 ^ 64) :
    (s.post f a ro bs).hostHas f a bs := by
  intro k hk
  have := find?_foldl_put_zipIdx f a 0 bs s.host.mem (by omega) k hk
  simpa [State.hostByte, State.post] using this

/-- A posted write leaves every other byte of host memory. -/
theorem State.post_hostByte_other (s : State) (f a : Nat) (ro : Bool) (bs : List Byte) (g x : Nat)
    (h : ∀ k, k < bs.length → g * 2 ^ 64 + x % 2 ^ 64 ≠ f * 2 ^ 64 + (a + k) % 2 ^ 64) :
    (s.post f a ro bs).hostByte g x = s.hostByte g x := by
  unfold State.hostByte State.post
  refine find?_foldl_put f a bs.zipIdx s.host.mem _ fun b hb => ?_
  obtain ⟨i, hi, rfl⟩ := List.mem_iff_getElem.mp hb
  simp only [List.length_zipIdx] at hi
  simpa using h i hi

theorem State.hostHas_of_mem {s t : State} (h : t.host.mem = s.host.mem) {f a : Nat} {bs : List Byte} (hs : s.hostHas f a bs) :
    t.hostHas f a bs := by
  intro k hk
  have := hs k hk
  unfold State.hostByte at *
  rw [h]
  exact this

/-! ### Interrupts -/

/-- An interrupt is sent or held pending: nothing but the messages sent and the pending bits changes. -/
theorem State.raise_frame (s : State) (f v : Nat) :
    (s.raise f v).host.mem = s.host.mem ∧ (s.raise f v).host.sq = s.host.sq ∧ (s.raise f v).host.cq = s.host.cq
      ∧ (s.raise f v).host.str = s.host.str ∧ (s.raise f v).host.wide = s.host.wide ∧ (s.raise f v).host.handed = s.host.handed
      ∧ (s.raise f v).ctl = s.ctl ∧ (s.raise f v).time = s.time ∧ (s.raise f v).obs = s.obs ∧ (s.raise f v).phase = s.phase
      ∧ ∀ x : Fld, x.key ≠ (R.fnMsixPbaPending f).key → (s.raise f v).get x = s.get x := by
  unfold State.raise
  split
  · exact ⟨rfl, rfl, rfl, rfl, rfl, rfl, rfl, rfl, rfl, rfl, fun x hx => State.get_set_other s hx _⟩
  · exact ⟨rfl, rfl, rfl, rfl, rfl, rfl, rfl, rfl, rfl, rfl, fun _ _ => rfl⟩

/-- An unmasked vector is sent once more. -/
theorem State.raise_sends (s : State) (f v : Nat) (h : s.flag (R.fnMsixCtlMask f v) = false) :
    SMap.get (s.raise f v).host.msix 0 (msixKey f v) = SMap.get s.host.msix 0 (msixKey f v) + 1 := by
  simp [State.raise, h]

/-- A masked vector is held pending. -/
theorem State.raise_holds (s : State) (f v : Nat) (h : s.flag (R.fnMsixCtlMask f v) = true) :
    (s.raise f v).host = s.host ∧ (s.raise f v).get (R.fnMsixPbaPending f) = setBit (s.get (R.fnMsixPbaPending f)) v true % 2 ^ 32 := by
  simp only [State.raise, h, ↓reduceIte]
  exact ⟨rfl, State.get_set_same _ _ _⟩

/-! ### Completions (R307, R309) -/

/-- FENCE bookkeeping changes descriptors only. -/
theorem State.releaseFences_frame (s : State) (f q : Nat) :
    (s.releaseFences f q).regs = s.regs ∧ (s.releaseFences f q).host.mem = s.host.mem ∧ (s.releaseFences f q).host.cq = s.host.cq
      ∧ (s.releaseFences f q).host.str = s.host.str ∧ (s.releaseFences f q).host.wide = s.host.wide
      ∧ (s.releaseFences f q).host.msix = s.host.msix ∧ (s.releaseFences f q).ctl = s.ctl ∧ (s.releaseFences f q).time = s.time
      ∧ (s.releaseFences f q).obs = s.obs ∧ (s.releaseFences f q).phase = s.phase ∧ (s.releaseFences f q).lpddr = s.lpddr := by
  refine State.each_keeps (fun t => t.regs = s.regs ∧ t.host.mem = s.host.mem ∧ t.host.cq = s.host.cq
      ∧ t.host.str = s.host.str ∧ t.host.wide = s.host.wide ∧ t.host.msix = s.host.msix ∧ t.ctl = s.ctl ∧ t.time = s.time
      ∧ t.obs = s.obs ∧ t.phase = s.phase ∧ t.lpddr = s.lpddr) (fun t i h => ?_) ⟨rfl, rfl, rfl, rfl, rfl, rfl, rfl, rfl, rfl, rfl, rfl⟩
  split
  · split
    · exact h
    · exact h
  · exact h

/-- A ring that runs nothing runs nothing after FENCE bookkeeping. -/
theorem State.releaseFences_cur_none (s : State) (f q r : Nat) (h : s.cur f r = none) : (s.releaseFences f q).cur f r = none := by
  refine State.each_keeps (fun t => t.cur f r = none) (fun t i ht => ?_) h
  split
  · next d hd =>
    split
    · by_cases hi : i = r
      · subst hi; simp [ht] at hd
      · rw [State.cur_setCur_other _ (by unfold ringKey; omega)]
        exact ht
    · exact ht
  · exact ht

/-- The two interrupts that a completion may raise. -/
def State.completionIrqs (s : State) (f : Nat) (d : Desc) (o : Done) : State :=
  (s.when d.irq fun s => s.raise f (s.get (R.fnCqCfgVec f d.cq))).when o.status.raisesErr fun s => s.raise f (s.get (R.fnVecErr f))

theorem State.complete_eq (s : State) (f q : Nat) (o : Done) (d : Desc) (h : s.cur f q = some d) (hg : d.cqGone = false)
    (he : s.flag (R.fnCqCfgEn f d.cq) = true) :
    s.complete f q o = (((s.setCur f q none).releaseFences f q).pushCq f d.cq q d.cid d.head o).completionIrqs f d o := by
  have hn : ((!s.flag (R.fnCqCfgEn f d.cq)) : Bool) = false := by simp [he]
  simp only [State.complete, h, hg, hn, Bool.or_false, Bool.false_eq_true, ↓reduceIte, State.completionIrqs]

/-- What every interrupt of function `f` keeps, the interrupts of a completion keep. -/
theorem State.completionIrqs_induct {P : State → Prop} {f : Nat} (h : ∀ t v, P t → P (t.raise f v)) {s : State} (hs : P s)
    (d : Desc) (o : Done) : P (s.completionIrqs f d o) := by
  have key : ∀ (t : State) (c : Bool) (v : State → Nat), P t → P (t.when c fun s => s.raise f (v s)) := by
    intro t c v ht
    cases c
    · exact ht
    · exact h t (v t) ht
  exact key _ _ _ (key _ _ _ hs)

/-- What the interrupts of a completion leave as it is. -/
theorem State.completionIrqs_frame (s : State) (f : Nat) (d : Desc) (o : Done) :
    (s.completionIrqs f d o).host.mem = s.host.mem ∧ (s.completionIrqs f d o).host.sq = s.host.sq
      ∧ (s.completionIrqs f d o).host.cq = s.host.cq ∧ (s.completionIrqs f d o).host.str = s.host.str
      ∧ (s.completionIrqs f d o).host.wide = s.host.wide ∧ (s.completionIrqs f d o).host.handed = s.host.handed
      ∧ (s.completionIrqs f d o).ctl = s.ctl ∧ (s.completionIrqs f d o).time = s.time ∧ (s.completionIrqs f d o).obs = s.obs
      ∧ (s.completionIrqs f d o).phase = s.phase
      ∧ ∀ x : Fld, x.key ≠ (R.fnMsixPbaPending f).key → (s.completionIrqs f d o).get x = s.get x :=
  State.completionIrqs_induct (P := fun t => t.host.mem = s.host.mem ∧ t.host.sq = s.host.sq ∧ t.host.cq = s.host.cq
      ∧ t.host.str = s.host.str ∧ t.host.wide = s.host.wide ∧ t.host.handed = s.host.handed ∧ t.ctl = s.ctl ∧ t.time = s.time
      ∧ t.obs = s.obs ∧ t.phase = s.phase ∧ ∀ x : Fld, x.key ≠ (R.fnMsixPbaPending f).key → t.get x = s.get x)
    (fun t v ⟨a, b, c, d, e, g, i, j, k, l, m⟩ =>
      have ⟨a', b', c', d', e', g', i', j', k', l', m'⟩ := State.raise_frame t f v
      ⟨a'.trans a, b'.trans b, c'.trans c, d'.trans d, e'.trans e, g'.trans g, i'.trans i, j'.trans j, k'.trans k, l'.trans l,
        fun x hx => (m' x hx).trans (m x hx)⟩)
    ⟨rfl, rfl, rfl, rfl, rfl, rfl, rfl, rfl, rfl, rfl, fun _ _ => rfl⟩ d o

theorem leBytes_length (v n : Nat) : (leBytes v n).length = n := by
  induction n generalizing v with
  | zero => rfl
  | succ n ih => simp [leBytes, ih]

theorem cqEntry_length (cid q head : Nat) (phase : Bool) (o : Done) : (cqEntry cid q head phase o).length = 16 := by
  simp [cqEntry, leBytes_length]

@[simp] theorem State.setCq_mem (s : State) (f q : Nat) (v : Cq) : (s.setCq f q v).host.mem = s.host.mem := (rfl)
@[simp] theorem State.setCq_sq (s : State) (f q : Nat) (v : Cq) : (s.setCq f q v).host.sq = s.host.sq := (rfl)
@[simp] theorem State.setCq_str (s : State) (f q : Nat) (v : Cq) : (s.setCq f q v).host.str = s.host.str := (rfl)
@[simp] theorem State.setCq_wide (s : State) (f q : Nat) (v : Cq) : (s.setCq f q v).host.wide = s.host.wide := (rfl)
@[simp] theorem State.post_sq (s : State) (f a : Nat) (ro : Bool) (bs : List Byte) : (s.post f a ro bs).host.sq = s.host.sq := (rfl)
@[simp] theorem State.post_cq (s : State) (f a : Nat) (ro : Bool) (bs : List Byte) : (s.post f a ro bs).host.cq = s.host.cq := (rfl)
@[simp] theorem State.post_str (s : State) (f a : Nat) (ro : Bool) (bs : List Byte) : (s.post f a ro bs).host.str = s.host.str := (rfl)
@[simp] theorem State.post_wide (s : State) (f a : Nat) (ro : Bool) (bs : List Byte) : (s.post f a ro bs).host.wide = s.host.wide := (rfl)

/-- A completion entry written: the entry in host memory, TAIL and the phase behind it. -/
theorem State.pushCq_spec (u : State) (f i q cid head : Nat) (o : Done) :
    (u.pushCq f i q cid head o).hostHas f (u.get (R.fnCqBaseBase f i) + 16 * u.get (R.fnCqTailTail f i)) (cqEntry cid q head (u.cq f i).phase o)
      ∧ (u.pushCq f i q cid head o).get (R.fnCqTailTail f i) = (u.get (R.fnCqTailTail f i) + 1) % u.cqSize f i % 2 ^ 16
      ∧ (u.pushCq f i q cid head o).cq f i = { u.cq f i with
          phase := if (u.get (R.fnCqTailTail f i) + 1) % u.cqSize f i = 0 then !(u.cq f i).phase else (u.cq f i).phase
          resv := (u.cq f i).resv - 1 }
      ∧ ∀ x : Fld, x.key ≠ (R.fnCqTailTail f i).key → (u.pushCq f i q cid head o).get x = u.get x := by
  unfold State.pushCq
  dsimp only
  refine ⟨?_, ?_, State.cq_setCq _ _ _ _, fun x hx => ?_⟩
  · exact State.hostHas_of_mem (by rw [State.setCq_mem, State.set_host])
      (State.post_hostHas u f _ false _ (by rw [cqEntry_length]; omega))
  · rw [State.get_setCq, State.get_set_same]
    simp only [R.fnCqTailTail]
  · rw [State.get_setCq, State.get_set_other _ hx, State.get_post]

/-- A completion entry written changes nothing else of the rings. -/
theorem State.pushCq_frame (u : State) (f i q cid head : Nat) (o : Done) :
    (u.pushCq f i q cid head o).host.sq = u.host.sq ∧ (u.pushCq f i q cid head o).host.wide = u.host.wide
      ∧ (u.pushCq f i q cid head o).host.str = u.host.str ∧ (u.pushCq f i q cid head o).ctl = u.ctl
      ∧ (u.pushCq f i q cid head o).time = u.time ∧ (u.pushCq f i q cid head o).obs = u.obs := by
  simp [State.pushCq]

/-- The state before a completion entry is written: the ring runs nothing any more. -/
def State.retired (s : State) (f q : Nat) : State := (s.setCur f q none).releaseFences f q

theorem State.retired_frame (s : State) (f q : Nat) :
    (∀ x, (s.retired f q).get x = s.get x) ∧ (∀ i, (s.retired f q).cq f i = s.cq f i) ∧ (s.retired f q).cur f q = none
      ∧ (s.retired f q).host.wide = s.host.wide ∧ (s.retired f q).host.str = s.host.str ∧ (s.retired f q).ctl = s.ctl
      ∧ (s.retired f q).time = s.time ∧ (s.retired f q).obs = s.obs := by
  have ⟨r1, r2, r3, r4, r5, r6, r7, r8, r9, _, _⟩ := State.releaseFences_frame (s.setCur f q none) f q
  exact ⟨fun x => State.get_of_regs r1 x, fun i => congrArg (fun (m : SMap Cq) => SMap.get m {} (ringKey f i)) r3,
    State.releaseFences_cur_none _ _ _ _ (State.cur_setCur s f q none), r5, r4, r7, r8, r9⟩

/-- Everything a completion does, where its entry is written: the ring runs nothing, the entry stands in host memory, TAIL and the phase move on. -/
theorem State.complete_spec (s : State) (f q : Nat) (o : Done) (d : Desc) (h : s.cur f q = some d) (hg : d.cqGone = false)
    (he : s.flag (R.fnCqCfgEn f d.cq) = true) (_ : d.cq < 4) :
    (s.complete f q o).cur f q = none
      ∧ (s.complete f q o).hostHas f (s.get (R.fnCqBaseBase f d.cq) + 16 * s.get (R.fnCqTailTail f d.cq))
          (cqEntry d.cid q d.head (s.cq f d.cq).phase o)
      ∧ (s.complete f q o).get (R.fnCqTailTail f d.cq) = (s.get (R.fnCqTailTail f d.cq) + 1) % s.cqSize f d.cq % 2 ^ 16
      ∧ ((s.complete f q o).cq f d.cq).phase =
          (if (s.get (R.fnCqTailTail f d.cq) + 1) % s.cqSize f d.cq = 0 then !(s.cq f d.cq).phase else (s.cq f d.cq).phase)
      ∧ (s.complete f q o).host.wide = s.host.wide ∧ (s.complete f q o).host.str = s.host.str
      ∧ (s.complete f q o).ctl = s.ctl ∧ (s.complete f q o).time = s.time ∧ (s.complete f q o).obs = s.obs
      ∧ ∀ x : Fld, x.key ≠ (R.fnCqTailTail f d.cq).key → x.key ≠ (R.fnMsixPbaPending f).key → (s.complete f q o).get x = s.get x := by
  rw [State.complete_eq s f q o d h hg he]
  obtain ⟨g1, g2, g3, g4, g5, g6, g7, g8⟩ := State.retired_frame s f q
  rw [show (s.setCur f q none).releaseFences f q = s.retired f q from rfl]
  obtain ⟨p1, p2, p3, p4⟩ := State.pushCq_spec (s.retired f q) f d.cq q d.cid d.head o
  obtain ⟨q1, q2, q3, q4, q5, q6⟩ := State.pushCq_frame (s.retired f q) f d.cq q d.cid d.head o
  obtain ⟨i1, i2, i3, i4, i5, i6, i7, i8, i9, i10, i11⟩ :=
    State.completionIrqs_frame ((s.retired f q).pushCq f d.cq q d.cid d.head o) f d o
  have hsz : (s.retired f q).cqSize f d.cq = s.cqSize f d.cq := congrArg (2 ^ ·) (g1 _)
  rw [g1, g1, g2] at p1
  rw [g1, hsz] at p2
  rw [g1, hsz, g2] at p3
  have hpba : (R.fnCqTailTail f d.cq).key ≠ (R.fnMsixPbaPending f).key := by
    simp only [Fld.key, R.fnCqTailTail, R.fnMsixPbaPending]; omega
  have c1 : ∀ {a b : State}, a.host.sq = b.host.sq → a.cur f q = b.cur f q := fun e => by unfold State.cur State.sq; rw [e]
  have c2 : ∀ {a b : State}, a.host.cq = b.host.cq → a.cq f d.cq = b.cq f d.cq := fun e => by unfold State.cq; rw [e]
  refine ⟨(c1 i2).trans ((c1 q1).trans g3), State.hostHas_of_mem i1 p1, (i11 _ hpba).trans p2, ?_, i5.trans (q2.trans g4),
    i4.trans (q3.trans g5), i7.trans (q4.trans g6), i8.trans (q5.trans g7), i9.trans (q6.trans g8),
    fun x hx hp => (i11 x hp).trans ((p4 x hx).trans (g1 x))⟩
  rw [c2 i3, p3]

/-- A completion writes the 16 bytes of its entry and no other byte of host memory. -/
theorem State.complete_hostByte_other (s : State) (f q : Nat) (o : Done) (d : Desc) (h : s.cur f q = some d) (hg : d.cqGone = false)
    (he : s.flag (R.fnCqCfgEn f d.cq) = true) (g a : Nat)
    (ha : ∀ k, k < 16 → g * 2 ^ 64 + a % 2 ^ 64 ≠ f * 2 ^ 64 + (s.get (R.fnCqBaseBase f d.cq) + 16 * s.get (R.fnCqTailTail f d.cq) + k) % 2 ^ 64) :
    (s.complete f q o).hostByte g a = s.hostByte g a := by
  have hm : ∀ {t u : State}, t.host.mem = u.host.mem → t.hostByte g a = u.hostByte g a := fun e => by unfold State.hostByte; rw [e]
  rw [State.complete_eq s f q o d h hg he, hm (State.completionIrqs_frame _ f d o).1]
  obtain ⟨r1, r2, -⟩ := State.releaseFences_frame (s.setCur f q none) f q
  have hget : ∀ x : Fld, ((s.setCur f q none).releaseFences f q).get x = s.get x := fun x => by
    unfold State.get; rw [r1]; rfl
  have hp : ∀ t : State, (t.pushCq f d.cq q d.cid d.head o).hostByte g a
      = (t.post f (t.get (R.fnCqBaseBase f d.cq) + 16 * t.get (R.fnCqTailTail f d.cq)) false
          (cqEntry d.cid q d.head (t.cq f d.cq).phase o)).hostByte g a := fun t => hm (by
    unfold State.pushCq; dsimp only; rw [State.setCq_mem, State.set_host])
  rw [hp, State.post_hostByte_other _ _ _ _ _ _ _ fun k hk => ?_]
  · exact (hm r2).trans (hm rfl)
  · rw [hget, hget]
    exact ha k (by rw [cqEntry_length] at hk; exact hk)

/-- A completion leaves LPDDR5X alone. -/
theorem State.complete_lpddr (s : State) (f q : Nat) (o : Done) : (s.complete f q o).lpddr = s.lpddr := by
  unfold State.complete
  split
  · rfl
  · have hr := (State.releaseFences_frame (s.setCur f q none) f q).2.2.2.2.2.2.2.2.2.2
    split
    · exact hr
    · have hw : ∀ (t : State) (c : Bool) (v : State → Nat), (t.when c fun s => s.raise f (v s)).lpddr = t.lpddr := fun t c v => by
        cases c
        · rfl
        · show (t.raise f (v t)).lpddr = t.lpddr
          unfold State.raise; split <;> rfl
      have hq : ∀ (t : State) (i cid head : Nat), (t.pushCq f i q cid head o).lpddr = t.lpddr := fun t i cid head => by
        unfold State.pushCq
        dsimp only
        rw [show ∀ (u : State) (c : Cq), (u.setCq f i c).lpddr = u.lpddr from fun _ _ => rfl, State.set_lpddr]
        rfl
      rw [hw, hw, hq]
      exact hr

/-! ### Traces and faults (R449–R453, R472–R475) -/

theorem Quiet.refl (s : State) : Quiet s s := by constructor <;> intros <;> rfl

theorem Quiet.trans {s t u : State} (a : Quiet s t) (b : Quiet t u) : Quiet s u := by
  constructor
  case regs => exact fun x hx => (b.regs x hx).trans (a.regs x hx)
  all_goals first
    | exact b.time.trans a.time | exact b.ctl.trans a.ctl | exact b.phase.trans a.phase | exact b.halted.trans a.halted
    | exact b.lpddr.trans a.lpddr | exact b.ing.trans a.ing | exact b.cv.trans a.cv | exact b.active.trans a.active
    | exact b.shadow.trans a.shadow | exact b.tns.trans a.tns | exact b.fab.trans a.fab | exact b.flt.trans a.flt
    | exact b.ftu.trans a.ftu | exact b.pwr.trans a.pwr | exact b.reef.trans a.reef | exact b.free.trans a.free
    | exact b.sq.trans a.sq | exact b.cq.trans a.cq | exact b.str.trans a.str | exact b.wide.trans a.wide
    | exact b.mem.trans a.mem | exact b.msix.trans a.msix

variable {s t : State}

theorem quiet_set (h : Quiet s t) {f : Fld} (hf : f.key ∈ faultKeys) (v : Nat) : Quiet s (t.set f v) :=
  h.trans (by constructor <;> first | rfl | exact fun x hx => State.get_set_other t (f := f) (g := x) (fun e => hx (e.symm ▸ hf)) v)

theorem quiet_obs (h : Quiet s t) (v : Observe) : Quiet s { t with obs := v } :=
  h.trans (by constructor <;> intros <;> rfl)

theorem quiet_setTrace (h : Quiet s t) (v : TraceState) : Quiet s (t.setTrace v) := quiet_obs h _

theorem quiet_err (h : Quiet s t) (v : Errors) : Quiet s { t with err := v } :=
  h.trans (by constructor <;> intros <;> rfl)

theorem quiet_hand (h : Quiet s t) (f r : Nat) (x : Rec) : Quiet s (t.hand f r x) :=
  h.trans (by constructor <;> intros <;> rfl)

theorem quiet_when (h : Quiet s t) (c : Bool) {f : State → State} (hf : ∀ u, Quiet s u → Quiet s (f u)) : Quiet s (t.when c f) := by
  cases c
  · exact h
  · exact hf t h

theorem quiet_trace (h : Quiet s t) (die source unit arg data : Nat) : Quiet s (t.trace die source unit arg data) := by
  unfold State.trace
  split
  · dsimp only
    split
    · exact quiet_setTrace h _
    · exact quiet_setTrace (quiet_set h (by decide) _) _
  · exact h

theorem quiet_condition (h : Quiet s t) (k : Nat) : Quiet s (t.condition k) := by
  unfold State.condition
  split
  · exact quiet_setTrace h _
  · exact h

theorem quiet_report (h : Quiet s t) (r : Rec) : Quiet s (t.report r) := quiet_hand (quiet_set h (by decide) _) _ _ _

theorem quiet_reportCorrected (h : Quiet s t) (source die unit detail : Nat) : Quiet s (t.reportCorrected source die unit detail) := by
  unfold State.reportCorrected
  dsimp only
  split
  · exact quiet_report (quiet_err h _) _
  · split
    · exact quiet_err h _
    · split
      · exact quiet_report (quiet_err h _) _
      · exact quiet_report (quiet_err h _) _

/-- A fault is quiet: what its class does beyond counting and reporting is done where it is raised. -/
theorem quiet_fault (h : Quiet s t) (cls : FaultClass) (source die unit detail : Nat) : Quiet s (t.fault cls source die unit detail) := by
  have h1 := quiet_trace h die 4 unit source detail
  unfold State.fault
  cases cls
  · exact quiet_when (quiet_set h1 (by decide) _) _ fun u hu => quiet_reportCorrected hu _ _ _ _
  · exact quiet_when (quiet_obs (quiet_condition (quiet_set h1 (by decide) _) _) _) _ fun u hu => quiet_report hu _
  · exact quiet_when (quiet_obs (quiet_obs (quiet_condition (quiet_set h1 (by decide) _) _) _) _) _ fun u hu => quiet_report hu _
  · exact quiet_when (quiet_obs (quiet_obs (quiet_condition (quiet_set h1 (by decide) _) _) _) _) _ fun u hu =>
      quiet_set (quiet_set (quiet_set hu (by decide) _) (by decide) _) (by decide) _

/-- A fault of a class sets its bit of ERR_STATUS (R449). -/
theorem State.fault_status (s : State) (source die unit detail : Nat) :
    (s.fault .contained source die unit detail).flag R.errStatusContained = true
      ∧ (s.fault .dieFatal source die unit detail).flag R.errStatusDieFatal = true
      ∧ (s.fault .deviceFatal source die unit detail).flag R.errStatusDeviceFatal = true
      ∧ (s.fault .corrected source die unit detail).flag R.errStatusCorrected = true := by
  have hw : ∀ (u : State) (c : Bool) (f : State → State) (x : Fld), (∀ v : State, (f v).get x = v.get x) →
      (u.when c f).get x = u.get x := by
    intro u c f x h; cases c
    · rfl
    · exact h u
  have hc : ∀ (u : State) (k : Nat) (x : Fld), (u.condition k).get x = u.get x := by
    intro u k x; unfold State.condition; split <;> rfl
  have hr : ∀ (u : State) (r : Rec) (x : Fld), x.key ≠ R.cntReport.key → (u.report r).get x = u.get x := fun u r x hx =>
    State.get_set_other u hx _
  have hcr : ∀ (u : State) (a b c d : Nat) (x : Fld), x.key ≠ R.cntReport.key → (u.reportCorrected a b c d).get x = u.get x := by
    intro u a b c d x hx
    unfold State.reportCorrected
    dsimp only
    split
    · exact hr _ _ _ hx
    · split
      · rfl
      · split <;> exact hr _ _ _ hx
  have one : ∀ (u : State) (x : Fld), x.width = 1 → (u.setFlag x true).get x = 1 := fun u x hx => by
    rw [State.get_setFlag_same u x true (by omega)]; rfl
  refine ⟨?_, ?_, ?_, ?_⟩ <;> unfold State.flag State.fault <;> dsimp only
  · rw [hw _ _ _ _ fun v => hr v _ _ (by decide)]
    change (!(State.get (State.condition _ 0) _ == 0)) = true
    rw [hc, one _ _ rfl]; rfl
  · rw [hw _ _ _ _ fun v => hr v _ _ (by decide)]
    change (!(State.get (State.condition _ 1) _ == 0)) = true
    rw [hc, one _ _ rfl]; rfl
  · rw [hw _ _ _ _ fun v => by
      rw [State.get_setFlag_other _ (by decide), State.get_set_other _ (by decide), State.get_set_other _ (by decide)]]
    change (!(State.get (State.condition _ 1) _ == 0)) = true
    rw [hc, one _ _ rfl]; rfl
  · rw [hw _ _ _ _ fun v => hcr v _ _ _ _ _ (by decide), one _ _ rfl]; rfl

end Sys2Proof.Machine
end

