-- ==== Sys2Proof/Laws/Rings.lean ====
section
/-! SUPPORT. What the shared operations of the rings do: a descriptor fetched, begun, released from its waits. -/

namespace Sys2Proof.Machine

theorem State.cur_of_sq {s t : State} (h : t.host.sq = s.host.sq) (f q : Nat) : t.cur f q = s.cur f q := by
  unfold State.cur State.sq; rw [h]

/-- The descriptor of a ring marked as begun; nothing else changes. -/
theorem State.begin_spec {s : State} {f q : Nat} {d : Desc} (h : s.cur f q = some d) :
    (s.begin f q).cur f q = some { d with stage := .running } ∧ (∀ x, (s.begin f q).get x = s.get x) ∧ (s.begin f q).ctl = s.ctl
      ∧ (s.begin f q).host.mem = s.host.mem ∧ (s.begin f q).host.wide = s.host.wide ∧ (s.begin f q).lpddr = s.lpddr
      ∧ (s.begin f q).time = s.time ∧ (s.begin f q).obs = s.obs ∧ (s.begin f q).host.str = s.host.str
      ∧ (s.begin f q).host.cq = s.host.cq := by
  simp only [State.begin, h]
  exact ⟨State.cur_setCur _ _ _ _, fun _ => rfl, rfl, rfl, rfl, rfl, rfl, rfl, rfl, rfl⟩

/-- A ring has fetched an operation exactly where it runs a descriptor of it in that stage. -/
theorem State.fetchedOp_some {s : State} {f q : Nat} {op : Op} (h : s.fetchedOp f q = some op) :
    ∃ d, s.cur f q = some d ∧ d.stage = .fetched ∧ d.op = op := by
  unfold State.fetchedOp at h
  split at h
  · next d hd =>
    split at h
    · next hs => exact ⟨d, hd, hs, Option.some.inj h⟩
    · cases h
  · cases h

theorem State.fetchedOp_of {s : State} {f q : Nat} {d : Desc} (h : s.cur f q = some d) (hs : d.stage = .fetched) :
    s.fetchedOp f q = some d.op := by simp [State.fetchedOp, h, hs]

/-- A ring runs an operation exactly where its descriptor has begun. -/
theorem State.runningOp_some {s : State} {f q : Nat} {op : Op} (h : s.runningOp f q = some op) :
    ∃ d, s.cur f q = some d ∧ d.stage = .running ∧ d.op = op := by
  unfold State.runningOp at h
  split at h
  · next d hd =>
    split at h
    · next hs => exact ⟨d, hd, hs, Option.some.inj h⟩
    · cases h
  · cases h

theorem State.runningOp_of {s : State} {f q : Nat} {d : Desc} (h : s.cur f q = some d) (hs : d.stage = .running) :
    s.runningOp f q = some d.op := by simp [State.runningOp, h, hs]

/-- An operation fetched and begun runs. -/
theorem State.begin_running {s : State} {f q : Nat} {op : Op} (h : s.fetchedOp f q = some op) : (s.begin f q).runningOp f q = some op := by
  obtain ⟨d, hd, _, ho⟩ := State.fetchedOp_some h
  rw [State.runningOp_of (State.begin_spec hd).1 rfl]
  exact congrArg some ho

@[simp] theorem State.runningOp_setCtl (s : State) (c : Control) (f q : Nat) : (s.setCtl c).runningOp f q = s.runningOp f q := (rfl)
@[simp] theorem State.runningOp_set (s : State) (x : Fld) (v f q : Nat) : (s.set x v).runningOp f q = s.runningOp f q := (rfl)
@[simp] theorem State.cur_setCtl (s : State) (c : Control) (f q : Nat) : (s.setCtl c).cur f q = s.cur f q := (rfl)
@[simp] theorem State.cur_set (s : State) (x : Fld) (v f q : Nat) : (s.set x v).cur f q = s.cur f q := (rfl)
@[simp] theorem State.cur_setFlag (s : State) (x : Fld) (b : Bool) (f q : Nat) : (s.setFlag x b).cur f q = s.cur f q := (rfl)
@[simp] theorem State.cur_accept (s : State) (f q : Nat) : s.accept.cur f q = s.cur f q := (rfl)
@[simp] theorem State.fetchedOp_set (s : State) (x : Fld) (v f q : Nat) : (s.set x v).fetchedOp f q = s.fetchedOp f q := (rfl)
@[simp] theorem State.fetchedOp_setFlag (s : State) (x : Fld) (b : Bool) (f q : Nat) : (s.setFlag x b).fetchedOp f q = s.fetchedOp f q := (rfl)
@[simp] theorem State.fetchedOp_setCtl (s : State) (c : Control) (f q : Nat) : (s.setCtl c).fetchedOp f q = s.fetchedOp f q := (rfl)
@[simp] theorem State.fetchedOp_accept (s : State) (f q : Nat) : s.accept.fetchedOp f q = s.fetchedOp f q := (rfl)
@[simp] theorem State.get_accept (s : State) (x : Fld) : s.accept.get x = s.get x := (rfl)
@[simp] theorem State.accept_ctl (s : State) : s.accept.ctl = s.ctl := (rfl)
@[simp] theorem State.accept_time (s : State) : s.accept.time = s.time := (rfl)
@[simp] theorem State.accept_fab (s : State) : s.accept.fab = s.fab := (rfl)
@[simp] theorem State.accept_tns (s : State) : s.accept.tns = s.tns := (rfl)
@[simp] theorem State.accept_flt (s : State) : s.accept.flt = s.flt := (rfl)
@[simp] theorem State.accept_ftu (s : State) : s.accept.ftu = s.ftu := (rfl)
@[simp] theorem State.accept_lpddr (s : State) : s.accept.lpddr = s.lpddr := (rfl)
@[simp] theorem State.accept_active (s : State) : s.accept.active = s.active := (rfl)
@[simp] theorem State.accept_shadow (s : State) : s.accept.shadow = s.shadow := (rfl)
@[simp] theorem State.accept_phase (s : State) : s.accept.phase = s.phase := (rfl)
@[simp] theorem State.accept_halted (s : State) : s.accept.halted = s.halted := (rfl)
@[simp] theorem State.accept_free (s : State) : s.accept.free = s.free := (rfl)
@[simp] theorem State.accept_obs (s : State) : s.accept.obs = s.obs := (rfl)
@[simp] theorem State.accept_ing (s : State) : s.accept.ing = s.ing := (rfl)
@[simp] theorem State.accept_cv (s : State) : s.accept.cv = s.cv := (rfl)
@[simp] theorem State.accept_pwr (s : State) : s.accept.pwr = s.pwr := (rfl)
@[simp] theorem State.accept_reef (s : State) : s.accept.reef = s.reef := (rfl)
@[simp] theorem State.accept_err (s : State) : s.accept.err = s.err := (rfl)
@[simp] theorem State.accept_mem (s : State) : s.accept.host.mem = s.host.mem := (rfl)
@[simp] theorem State.accept_sq (s : State) : s.accept.host.sq = s.host.sq := (rfl)
@[simp] theorem State.accept_wide (s : State) : s.accept.host.wide = s.host.wide.tail := (rfl)

theorem State.wideOp_some {s : State} {f q : Nat} {op : Op} (h : s.wideOp f q = some op) :
    s.host.wide.head? = some (f, q) ∧ s.fetchedOp f q = some op := by
  unfold State.wideOp at h
  split at h
  · next hs => exact ⟨hs, h⟩
  · cases h

/-- A descriptor fetched (R298): its entry reserved, the head behind it, nothing else. -/
theorem State.fetched_spec (s : State) (f q cid : Nat) (irq : Bool) (op : Op) :
    ∃ d, (s.fetched f q cid irq op).cur f q = some d ∧ d.cid = cid ∧ d.irq = irq ∧ d.op = op ∧ d.stage = .fetched
      ∧ d.head = (s.get (R.fnSqHeadHead f q) + 1) % s.sqSize f q ∧ d.cq = s.get (R.fnSqCfgCq f q) ∧ d.cqGone = false
      ∧ (∀ st, op = .fence st → d.waitRings = s.busyRings f q ∧ d.waitRecords = if st then s.stagedIds f else [])
      ∧ (s.fetched f q cid irq op).get (R.fnSqHeadHead f q) = d.head % 2 ^ 16
      ∧ ((s.fetched f q cid irq op).cq f d.cq).resv = (s.cq f d.cq).resv + 1
      ∧ (s.fetched f q cid irq op).host.wide = s.host.wide ∧ (s.fetched f q cid irq op).ctl = s.ctl
      ∧ (s.fetched f q cid irq op).lpddr = s.lpddr ∧ (s.fetched f q cid irq op).host.mem = s.host.mem
      ∧ ∀ x : Fld, x.key ≠ (R.fnSqHeadHead f q).key → (s.fetched f q cid irq op).get x = s.get x := by
  unfold State.fetched
  dsimp only
  refine ⟨_, State.cur_setCur _ _ _ _, ?_, ?_, ?_, ?_, ?_, ?_, ?_, ?_, ?_, ?_, rfl, by simp, by simp, rfl, fun x hx => ?_⟩
  rotate_left 7
  · intro st e; subst e; exact ⟨rfl, rfl⟩
  · rw [State.get_setCur, State.get_setCq, State.get_set_same]
    cases op <;> rfl
  · have hd : ∀ dd : Desc, dd.cq = s.get (R.fnSqCfgCq f q) →
        ((((s.set (R.fnSqHeadHead f q) ((s.get (R.fnSqHeadHead f q) + 1) % s.sqSize f q)).setCq f (s.get (R.fnSqCfgCq f q))
          { s.cq f (s.get (R.fnSqCfgCq f q)) with resv := (s.cq f (s.get (R.fnSqCfgCq f q))).resv + 1 }).setCur f q
            (some dd)).cq f dd.cq).resv = (s.cq f dd.cq).resv + 1 := by
      intro dd e
      rw [e]
      have := State.cq_setCq (s.set (R.fnSqHeadHead f q) ((s.get (R.fnSqHeadHead f q) + 1) % s.sqSize f q)) f
        (s.get (R.fnSqCfgCq f q)) { s.cq f (s.get (R.fnSqCfgCq f q)) with resv := (s.cq f (s.get (R.fnSqCfgCq f q))).resv + 1 }
      unfold State.cq at *
      rw [show ∀ (u : State) d, (u.setCur f q d).host.cq = u.host.cq from fun _ _ => rfl, this]
    exact hd _ (by cases op <;> rfl)
  · rw [State.get_setCur, State.get_setCq, State.get_set_other _ hx]
  all_goals (cases op <;> rfl)

/-- What a fetch that returns does, where the ring can fetch (R298, R301, R311). -/
theorem State.descriptorFetch_eq {s : State} {f q : Nat} (h : s.canFetch f q = true) (res : FetchResult) :
    s.descriptorFetch f q res =
      match res with
      | .poisoned =>
        ((s.fetched f q 0xFFFF false .nop).fault .contained 0x0C dieIod (f * 4 + q) 0).complete f q { status := .poisoned }
      | .failed =>
        (((s.fetched f q 0xFFFF false .nop).setFlag (R.fnSqCfgEn f q) false).setFlag (R.fnStatusFetchErr f) true).complete f q (.bad 0x05)
      | .ok b =>
        let op := parseOp b
        let s1 := s.fetched f q (leAt b 2 2) (bit (leAt b 1 1) 0) op
        match s.screen f b with
        | some o => s1.complete f q o
        | none =>
          match op with
          | .trace 5 .. | .trace 6 .. | .trace 7 .. => (s1.took 1).complete f q (.bad (s.freeValue % 256))
          | _ => if op.wide then { s1 with host := { s1.host with wide := s1.host.wide ++ [(f, q)] } } else s1 := by
  unfold State.descriptorFetch
  rw [h]; rfl

/-! ### FENCE bookkeeping (R304) -/

/-- One step of FENCE bookkeeping touches one ring. -/
theorem State.releaseFences_cur (s : State) (f q i : Nat) (hi : i < 4) {d : Desc} (h : s.cur f i = some d) :
    (s.releaseFences f q).cur f i = some { d with waitRings := d.waitRings.filter (· != q) } := by
  have key : ∀ (l : List Nat) (t : State), l.Nodup → t.cur f i = some d →
      (t.each l fun s i => match s.cur f i with
        | some d => if d.waitRings.contains q then s.setCur f i (some { d with waitRings := d.waitRings.filter (· != q) }) else s
        | none => s).cur f i = some (if i ∈ l then { d with waitRings := d.waitRings.filter (· != q) } else d) := by
    intro l
    induction l with
    | nil => intro t _ ht; exact ht
    | cons j l ih =>
      intro t hn ht
      rw [State.each_cons]
      have hl := (List.nodup_cons.mp hn)
      by_cases hj : j = i
      · subst hj
        simp only [ht, List.mem_cons, true_or, ↓reduceIte]
        have : ∀ (u : State) (e : Desc), u.cur f j = some e →
            (u.each l fun s i => match s.cur f i with
              | some d => if d.waitRings.contains q then s.setCur f i (some { d with waitRings := d.waitRings.filter (· != q) }) else s
              | none => s).cur f j = some e := by
          intro u e hu
          have hmem : ∀ x ∈ l, x ≠ j := fun x hx e => hl.1 (e ▸ hx)
          clear ih hn hl
          induction l generalizing u with
          | nil => exact hu
          | cons x l ih2 =>
            rw [State.each_cons]
            refine ih2 _ ?_ fun y hy => hmem y (List.mem_cons_of_mem _ hy)
            have hx := hmem x List.mem_cons_self
            split
            · split
              · rw [State.cur_setCur_other _ (by unfold ringKey; omega)]; exact hu
              · exact hu
            · exact hu
        split
        · exact this _ _ (State.cur_setCur _ _ _ _)
        · next hc =>
          rw [this _ _ ht]
          congr 1
          have : d.waitRings.filter (· != q) = d.waitRings := by
            rw [List.filter_eq_self]
            intro x hx
            simp only [bne_iff_ne, ne_eq]
            intro e; subst e
            exact hc (by simpa using hx)
          rw [this]
      · have e : (i ∈ j :: l) = (i ∈ l) := by simp [Ne.symm hj]
        simp only [e]
        refine ih _ hl.2 ?_
        split
        · split
          · rw [State.cur_setCur_other _ (by unfold ringKey; omega)]; exact ht
          · exact ht
        · exact ht
  have := key (List.range 4) s List.nodup_range h
  rw [if_pos (List.mem_range.mpr hi)] at this
  exact this

/-- A completion of one ring takes that ring out of what another ring's FENCE waits for. -/
theorem State.complete_cur_other (s : State) (f q i : Nat) (o : Done) (hi : i < 4) (h : i ≠ q) {d e : Desc}
    (hd : s.cur f q = some d) (he : s.cur f i = some e) :
    (s.complete f q o).cur f i = some { e with waitRings := e.waitRings.filter (· != q) } := by
  have h1 : ((s.setCur f q none).releaseFences f q).cur f i = some { e with waitRings := e.waitRings.filter (· != q) } :=
    State.releaseFences_cur _ _ _ _ hi (by rw [State.cur_setCur_other _ (by unfold ringKey; omega)]; exact he)
  unfold State.complete
  rw [hd]
  dsimp only
  split
  · exact h1
  · have hw : ∀ (t : State) (c : Bool) (v : State → Nat), (t.when c fun s => s.raise f (v s)).cur f i = t.cur f i := by
      intro t c v
      cases c
      · rfl
      · exact State.cur_of_sq (State.raise_frame t f (v t)).2.1 _ _
    rw [hw, hw, State.cur_of_sq (State.pushCq_frame _ _ _ _ _ _ _).1]
    exact h1

end Sys2Proof.Machine
end

