-- ==== Sys2Proof/Laws/Control.lean ====
section
/-! SUPPORT. What the shared operations of run control do: command messages, effective ticks, completions seen from the registers of BAR0. -/

namespace Sys2Proof.Machine

/-! ### Effective ticks (R5) -/

/-- The effective tick is the first boundary at least 5 µs away. -/
theorem effectiveTick_bounds (d : Nat) :
    d + 5000 * 2 ^ 32 ≤ effectiveTick d * 25000 * 2 ^ 32 ∧ effectiveTick d * 25000 * 2 ^ 32 < d + 30000 * 2 ^ 32 := by
  unfold effectiveTick ceilDiv tickNs; omega

/-! ### Traces and command messages (R334) -/

/-- A trace entry changes no register but the dropped-entry counter. -/
theorem State.trace_get (s : State) (a b c d e : Nat) {x : Fld} (h : x.key ≠ R.cntTraceDrop.key) : (s.trace a b c d e).get x = s.get x := by
  unfold State.trace
  split
  · dsimp only
    split
    · rfl
    · exact State.get_set_other _ h _
  · rfl

/-- A state after another, where only registers, observation and run control may differ. -/
structure SameWork (s t : State) : Prop where
  sq : t.host.sq = s.host.sq
  wide : t.host.wide = s.host.wide
  mem : t.host.mem = s.host.mem
  lpddr : t.lpddr = s.lpddr
  time : t.time = s.time
  fab : t.fab = s.fab
  tns : t.tns = s.tns
  flt : t.flt = s.flt
  active : t.active = s.active
  shadow : t.shadow = s.shadow

/-- A command message sent: counted and traced, on its way to every die. -/
theorem State.sendCommand_spec (s : State) (o f t : Nat) :
    (∀ x : Fld, x.key ∉ [R.cntHalCmd.key, R.cntTraceDrop.key] → (s.sendCommand o f t).get x = s.get x)
      ∧ (s.sendCommand o f t).get R.cntHalCmd = (s.get R.cntHalCmd + 1) % 2 ^ 32
      ∧ (∃ m, (s.sendCommand o f t).ctl = { s.ctl with messages := m }) ∧ SameWork s (s.sendCommand o f t) := by
  have hq := quiet_trace (Quiet.refl (s.inc R.cntHalCmd)) dieIod 1 o f t
  have hg : ∀ x : Fld, x.key ≠ R.cntTraceDrop.key → ((s.inc R.cntHalCmd).trace dieIod 1 o f t).get x = (s.inc R.cntHalCmd).get x :=
    fun x hx => State.trace_get _ _ _ _ _ _ hx
  have hs : ∃ m, s.sendCommand o f t
      = ((s.inc R.cntHalCmd).trace dieIod 1 o f t).setCtl { ((s.inc R.cntHalCmd).trace dieIod 1 o f t).ctl with messages := m } := ⟨_, rfl⟩
  obtain ⟨m, hs⟩ := hs
  generalize (s.inc R.cntHalCmd).trace dieIod 1 o f t = u at *
  rw [hs]
  refine ⟨fun x hx => ?_, ?_, ⟨m, by rw [State.setCtl_ctl, hq.ctl]; rfl⟩, hq.sq, hq.wide, hq.mem, hq.lpddr, hq.time, hq.fab, hq.tns, hq.flt, hq.active, hq.shadow⟩
  · simp only [List.mem_cons, List.not_mem_nil, or_false, not_or] at hx
    rw [State.get_setCtl, hg x hx.2]
    exact State.get_set_other _ hx.1 _
  · rw [State.get_setCtl, hg _ (by decide)]
    exact State.get_set_same _ _ _

/-- A device-wide command whose message is sent and whose descriptor has begun. -/
theorem State.sendBegin_spec {v : State} {f q : Nat} {op : Op} (h : v.fetchedOp f q = some op) (o t : Nat) :
    ∃ w, (v.sendCommand o f t).begin f q = w
      ∧ (∀ x : Fld, x.key ∉ [R.cntHalCmd.key, R.cntTraceDrop.key] → w.get x = v.get x)
      ∧ w.get R.cntHalCmd = (v.get R.cntHalCmd + 1) % 2 ^ 32 ∧ (∃ m, w.ctl = { v.ctl with messages := m }) ∧ w.runningOp f q = some op
      ∧ w.host.wide = v.host.wide ∧ w.host.mem = v.host.mem ∧ w.lpddr = v.lpddr ∧ w.time = v.time ∧ w.fab = v.fab ∧ w.tns = v.tns
      ∧ w.flt = v.flt ∧ w.active = v.active ∧ w.shadow = v.shadow := by
  obtain ⟨a1, a2, ⟨m, a3⟩, hw⟩ := State.sendCommand_spec v o f t
  obtain ⟨u, hu⟩ : ∃ u, v.sendCommand o f t = u := ⟨_, rfl⟩
  rw [hu] at a1 a2 a3 hw
  obtain ⟨d, hd, hs, ho⟩ := State.fetchedOp_some h
  have hd' : u.cur f q = some d := by rw [State.cur_of_sq hw.sq]; exact hd
  obtain ⟨b1, b2, b3, b4, b5, b6, b7, _⟩ := State.begin_spec hd'
  have e : ∀ (P : State → Prop), P (u.setCur f q (some { d with stage := .running })) → P (u.begin f q) := by
    intro P hP; unfold State.begin; rw [hd']; exact hP
  refine ⟨u.begin f q, by rw [hu], fun x hx => (b2 x).trans (a1 x hx), (b2 _).trans a2, ⟨m, b3.trans a3⟩,
    State.begin_running (by rw [State.fetchedOp_of hd' hs, ho]), b5.trans hw.wide, b4.trans hw.mem, b6.trans hw.lpddr, b7.trans hw.time,
    e (fun z => z.fab = v.fab) ?_, e (fun z => z.tns = v.tns) ?_, e (fun z => z.flt = v.flt) ?_, e (fun z => z.active = v.active) ?_,
    e (fun z => z.shadow = v.shadow) ?_⟩
  · rw [State.setCur_fab]; exact hw.fab
  · rw [State.setCur_tns]; exact hw.tns
  · rw [State.setCur_flt]; exact hw.flt
  · rw [State.setCur_active]; exact hw.active
  · rw [State.setCur_shadow]; exact hw.shadow

/-- A field of a PF BAR0 register, whose key lies below those of the function pages. -/
abbrev Fld.inBar0 (x : Fld) : Prop := x.key < 0x1000000 * 64

/-! ### A stop accepted (R346) -/

/-- The fields a new stop writes, the URGENT_TICK of its function among them where it comes from an urgent doorbell. -/
def stopKeys (a : Asker) : List Nat :=
  [R.hifStopTickTick.key, R.hifRunLastFull.key, R.cntHalCmd.key, R.cntTraceDrop.key]
    ++ (match a with | .urgent f => [(R.fnUrgentTickTick f).key] | _ => [])

/-- A stop with boundary `t` is accepted first: its registers, the hold of a FULL one, who waits for it. -/
theorem State.newStop_spec (s : State) (a : Asker) (full : Bool) (t : Nat) :
    ∃ w, s.newStop a full t = w ∧ w.get R.hifStopTickTick = t % 2 ^ 64 ∧ w.get R.hifRunLastFull = b2n full
      ∧ (∀ f, a = .urgent f → w.get (R.fnUrgentTickTick f) = t % 2 ^ 64)
      ∧ w.ctl.holdAt = (if full then some t else s.ctl.holdAt) ∧ w.ctl.stops = s.ctl.stops ++ a.stoppers
      ∧ w.ctl.cancelled = s.ctl.cancelled ∧ w.ctl.start = s.ctl.start ∧ SameWork s w
      ∧ ∀ x : Fld, x.key ∉ stopKeys a → w.get x = s.get x := by
  obtain ⟨v, hv⟩ : ∃ v, (((s.set R.hifStopTickTick t).setFlag R.hifRunLastFull full).addHold full t).doomSwap t = v := ⟨_, rfl⟩
  have v1 : v.get R.hifStopTickTick = t % 2 ^ 64 ∧ v.get R.hifRunLastFull = b2n full
      ∧ v.ctl.holdAt = (if full then some t else s.ctl.holdAt) ∧ v.ctl.stops = s.ctl.stops ∧ v.ctl.cancelled = s.ctl.cancelled
      ∧ v.ctl.start = s.ctl.start ∧ SameWork s v
      ∧ ∀ x : Fld, x.key ≠ R.hifStopTickTick.key → x.key ≠ R.hifRunLastFull.key → v.get x = s.get x := by
    have hd : ∀ u : State, (u.doomSwap t).regs = u.regs ∧ (u.doomSwap t).host = u.host ∧ (u.doomSwap t).lpddr = u.lpddr ∧ (u.doomSwap t).time = u.time
        ∧ (u.doomSwap t).fab = u.fab ∧ (u.doomSwap t).tns = u.tns ∧ (u.doomSwap t).flt = u.flt ∧ (u.doomSwap t).active = u.active
        ∧ (u.doomSwap t).shadow = u.shadow ∧ (u.doomSwap t).ctl.holdAt = u.ctl.holdAt ∧ (u.doomSwap t).ctl.stops = u.ctl.stops
        ∧ (u.doomSwap t).ctl.cancelled = u.ctl.cancelled ∧ (u.doomSwap t).ctl.start = u.ctl.start := by
      intro u
      unfold State.doomSwap
      split
      · split <;> exact ⟨rfl, rfl, rfl, rfl, rfl, rfl, rfl, rfl, rfl, rfl, rfl, rfl, rfl⟩
      · exact ⟨rfl, rfl, rfl, rfl, rfl, rfl, rfl, rfl, rfl, rfl, rfl, rfl, rfl⟩
    obtain ⟨d1, d2, d3, d4, d5, d6, d7, d8, d9, d10, d11, d12, d13⟩ := hd (((s.set R.hifStopTickTick t).setFlag R.hifRunLastFull full).addHold full t)
    rw [hv] at d1 d2 d3 d4 d5 d6 d7 d8 d9 d10 d11 d12 d13
    cases full with
    | false =>
      have e : ((s.set R.hifStopTickTick t).setFlag R.hifRunLastFull false).addHold false t
          = (s.set R.hifStopTickTick t).setFlag R.hifRunLastFull false := rfl
      rw [e] at d1 d2 d3 d4 d5 d6 d7 d8 d9 d10 d11 d12 d13
      refine ⟨?_, ?_, by rw [d10]; simp [State.setFlag], by rw [d11]; simp [State.setFlag], by rw [d12]; simp [State.setFlag],
        by rw [d13]; simp [State.setFlag], ?_, fun x h1 h2 => ?_⟩
      · rw [State.get_of_regs d1, State.get_setFlag_other _ (by decide), State.get_set_same]; simp only [R.hifStopTickTick]
      · rw [State.get_of_regs d1, State.get_setFlag_same _ _ _ (by decide)]
      · constructor <;> simp [State.setFlag, d2, d3, d4, d5, d6, d7, d8, d9]
      · rw [State.get_of_regs d1, State.get_setFlag_other _ h2, State.get_set_other _ h1]
    | true =>
      obtain ⟨c, e, ec⟩ : ∃ c, ((s.set R.hifStopTickTick t).setFlag R.hifRunLastFull true).addHold true t
          = (((s.set R.hifStopTickTick t).setFlag R.hifRunLastFull true).setFlag R.hifRunLastFull true).setCtl { c with holdAt := some t } ∧ c = s.ctl :=
        ⟨s.ctl, by simp [State.addHold, State.setFlag], rfl⟩
      rw [e] at d1 d2 d3 d4 d5 d6 d7 d8 d9 d10 d11 d12 d13
      refine ⟨?_, ?_, by rw [d10]; simp, by rw [d11]; simp [ec], by rw [d12]; simp [ec], by rw [d13]; simp [ec], ?_, fun x h1 h2 => ?_⟩
      · rw [State.get_of_regs d1, State.get_setCtl, State.get_setFlag_other _ (by decide), State.get_setFlag_other _ (by decide), State.get_set_same]
        simp only [R.hifStopTickTick]
      · rw [State.get_of_regs d1, State.get_setCtl, State.get_setFlag_same _ _ _ (by decide)]
      · constructor <;> simp [State.setFlag, d2, d3, d4, d5, d6, d7, d8, d9]
      · rw [State.get_of_regs d1, State.get_setCtl, State.get_setFlag_other _ h2, State.get_setFlag_other _ h2, State.get_set_other _ h1]
  obtain ⟨w1, w2, w3, w4, w5, w6, w7, w8⟩ := v1
  obtain ⟨a1, a2, ⟨m, a3⟩, hw⟩ := State.sendCommand_spec v 0x04 a.fn t
  obtain ⟨u, hu⟩ : ∃ u, v.sendCommand 0x04 a.fn t = u := ⟨_, rfl⟩
  rw [hu] at a1 a2 a3 hw
  obtain ⟨z, hz⟩ : ∃ z, u.setCtl { u.ctl with stops := u.ctl.stops ++ a.stoppers } = z := ⟨_, rfl⟩
  have hsw : SameWork s z := by
    rw [← hz]
    constructor <;> simp [hw.sq, hw.wide, hw.mem, hw.lpddr, hw.time, hw.fab, hw.tns, hw.flt, hw.active, hw.shadow,
      w7.sq, w7.wide, w7.mem, w7.lpddr, w7.time, w7.fab, w7.tns, w7.flt, w7.active, w7.shadow]
  have hzg : ∀ x : Fld, z.get x = u.get x := fun x => by rw [← hz, State.get_setCtl]
  have hzc : z.ctl = { u.ctl with stops := u.ctl.stops ++ a.stoppers } := by rw [← hz, State.setCtl_ctl]
  have hn : s.newStop a full t = z.reportTick a t := by
    unfold State.newStop
    rw [hv, hu]
    dsimp only
    rw [← hz]
  rw [hn]
  have hc : z.ctl.holdAt = (if full then some t else s.ctl.holdAt) ∧ z.ctl.stops = s.ctl.stops ++ a.stoppers ∧ z.ctl.cancelled = s.ctl.cancelled
      ∧ z.ctl.start = s.ctl.start := by
    rw [hzc, a3]; exact ⟨w3, by rw [w4], w5, w6⟩
  have hg : z.get R.hifStopTickTick = t % 2 ^ 64 ∧ z.get R.hifRunLastFull = b2n full := by
    rw [hzg, hzg, a1 _ (by decide), a1 _ (by decide)]; exact ⟨w1, w2⟩
  have hk : ∀ x : Fld, x.key ∉ [R.hifStopTickTick.key, R.hifRunLastFull.key, R.cntHalCmd.key, R.cntTraceDrop.key] → z.get x = s.get x := by
    intro x hx
    simp only [List.mem_cons, List.not_mem_nil, or_false, not_or] at hx
    rw [hzg, a1 _ (by simp only [List.mem_cons, List.not_mem_nil, or_false, not_or]; exact hx.2.2), w8 _ hx.1 hx.2.1]
  cases a with
  | ring f q =>
    exact ⟨z, rfl, hg.1, hg.2, (fun f h => by cases h), hc.1, hc.2.1, hc.2.2.1, hc.2.2.2, hsw, fun x hx => hk x (by simpa [stopKeys] using hx)⟩
  | i2c =>
    exact ⟨z, rfl, hg.1, hg.2, (fun f h => by cases h), hc.1, hc.2.1, hc.2.2.1, hc.2.2.2, hsw, fun x hx => hk x (by simpa [stopKeys] using hx)⟩
  | urgent f =>
    have hne : ∀ x : Fld, x.inBar0 → x.key ≠ (R.fnUrgentTickTick f).key := by
      intro x hx e
      unfold Fld.inBar0 at hx
      rw [e] at hx
      simp only [Fld.key, R.fnUrgentTickTick] at hx
      omega
    refine ⟨z.set (R.fnUrgentTickTick f) t, rfl, ?_, ?_, ?_, by rw [State.set_ctl]; exact hc.1, by rw [State.set_ctl]; exact hc.2.1,
      by rw [State.set_ctl]; exact hc.2.2.1, by rw [State.set_ctl]; exact hc.2.2.2, ?_, fun x hx => ?_⟩
    · rw [State.get_set_other _ (hne _ (by decide))]; exact hg.1
    · rw [State.get_set_other _ (hne _ (by decide))]; exact hg.2
    · intro g h
      cases h
      rw [State.get_set_same]; simp only [R.fnUrgentTickTick]
    · constructor <;> simp [hsw.sq, hsw.wide, hsw.mem, hsw.lpddr, hsw.time, hsw.fab, hsw.tns, hsw.flt, hsw.active, hsw.shadow]
    · unfold stopKeys at hx
      simp only [List.mem_append, not_or, List.mem_singleton] at hx
      rw [State.get_set_other _ hx.2]
      exact hk x hx.1

/-! ### Completions and the registers of BAR0 -/

/-- A STOP request accepted while RUNNING (R346): T is its effective tick, the fabric is to halt at the first step boundary at or after it. -/
theorem State.acceptStop_running (s : State) (a : Asker) (full : Bool) (h : s.run = 2) :
    ∃ w, s.acceptStop a full = w ∧ w.get R.hifStopTickTick = effectiveTick s.time.dev % 2 ^ 64 ∧ w.get R.hifRunLastFull = b2n full
      ∧ (∀ f, a = .urgent f → w.get (R.fnUrgentTickTick f) = effectiveTick s.time.dev % 2 ^ 64)
      ∧ w.ctl.holdAt = (if full then some (effectiveTick s.time.dev) else s.ctl.holdAt) ∧ w.ctl.stops = s.ctl.stops ++ a.stoppers
      ∧ w.run = 3 ∧ w.fab.halt = some (ceilDiv (effectiveTick s.time.dev * 25000) s.stepNs)
      ∧ w.host.sq = s.host.sq ∧ w.host.wide = s.host.wide ∧ w.host.mem = s.host.mem ∧ w.lpddr = s.lpddr ∧ w.time = s.time
      ∧ ∀ x : Fld, x.key ≠ R.hifRunState.key → x.key ∉ stopKeys a → w.get x = s.get x := by
  obtain ⟨w, e0, e1, e2, e3, e4, e5, e6, e7, e8, e9⟩ := State.newStop_spec s a full (effectiveTick s.time.dev)
  have hne : ∀ (x : Fld) f, x.inBar0 → (R.fnUrgentTickTick f).key ≠ x.key := by
    intro x f hx e
    unfold Fld.inBar0 at hx
    rw [← e] at hx
    simp only [Fld.key, R.fnUrgentTickTick] at hx
    omega
  have hstep : (w.set R.hifRunState runStopping).stepNs = s.stepNs := by
    unfold State.stepNs State.getIn
    rw [State.get_set_other _ (by decide), e9]
    cases a with
    | urgent f => simp only [stopKeys, List.mem_append, List.mem_singleton, not_or]; exact ⟨by decide, fun e => hne _ f (by decide) e.symm⟩
    | _ => simp only [stopKeys]; decide
  have hs : s.acceptStop a full = ((w.set R.hifRunState runStopping).setFab { (w.set R.hifRunState runStopping).fab with halt := some ((w.set R.hifRunState runStopping).stepAtTick (effectiveTick s.time.dev)) }).setCtl { w.ctl with atBoundary := false } := by
    unfold State.acceptStop
    rw [h]
    simp [runStopped, runStarting, runRunning, e0]
  refine ⟨_, hs, ?_, ?_, ?_, e4, e5, ?_, ?_, ?_, ?_, ?_, ?_, ?_, ?_⟩
  · rw [State.get_setCtl, State.get_setFab, State.get_set_other _ (by decide), e1]
  · rw [State.get_setCtl, State.get_setFab, State.get_set_other _ (by decide), e2]
  · intro f hf
    rw [State.get_setCtl, State.get_setFab, State.get_set_other _ (hne _ _ (by decide)), e3 f hf]
  · unfold State.run
    rw [State.get_setCtl, State.get_setFab, State.get_set_same]; rfl
  · simp only [State.setCtl_fab, State.setFab_fab]
    unfold State.stepAtTick
    rw [hstep]; rfl
  · simp [e8.sq]
  · simp [e8.wide]
  · simp [e8.mem]
  · simp [e8.lpddr]
  · simp [e8.time]
  · intro x h1 h2
    rw [State.get_setCtl, State.get_setFab, State.get_set_other _ h1, e9 _ h2]

/-- A completion writes no register of BAR0. -/
theorem State.complete_get_bar0 (s : State) (f q : Nat) (o : Done) {x : Fld} (hx : x.inBar0) : (s.complete f q o).get x = s.get x := by
  have hr : ∀ (t : State) (c : Bool) (v : State → Nat), (t.when c fun s => s.raise f (v s)).get x = t.get x := by
    intro t c v
    cases c
    · rfl
    · refine (State.raise_frame t f (v t)).2.2.2.2.2.2.2.2.2.2 x ?_
      unfold Fld.inBar0 at hx
      intro e; rw [e] at hx; simp only [Fld.key, R.fnMsixPbaPending] at hx; omega
  unfold State.complete
  split
  · rfl
  · next d hd =>
    have h1 : ((s.setCur f q none).releaseFences f q).get x = s.get x :=
      State.get_of_regs (State.releaseFences_frame _ f q).1 x
    dsimp only
    split
    · exact h1
    · rw [hr, hr, (State.pushCq_spec _ _ _ _ _ _ _).2.2.2 x, h1]
      unfold Fld.inBar0 at hx
      intro e; rw [e] at hx; simp only [Fld.key, R.fnCqTailTail] at hx; omega

theorem State.completeOwner_get_bar0 (s : State) (w : Option (Nat × Nat)) (o : Done) {x : Fld} (hx : x.inBar0) :
    (s.completeOwner w o).get x = s.get x := by
  unfold State.completeOwner
  split
  · exact State.complete_get_bar0 _ _ _ _ hx
  · rfl

/-- From `s` to `t` nothing has changed but registers and the host's rings, memory and interrupts; what waits in staging and in the device-wide queue stays. -/
structure SameRest (s t : State) : Prop where
  ctl : t.ctl = s.ctl
  time : t.time = s.time
  fab : t.fab = s.fab
  tns : t.tns = s.tns
  flt : t.flt = s.flt
  ftu : t.ftu = s.ftu
  lpddr : t.lpddr = s.lpddr
  active : t.active = s.active
  shadow : t.shadow = s.shadow
  phase : t.phase = s.phase
  halted : t.halted = s.halted
  free : t.free = s.free
  obs : t.obs = s.obs
  ing : t.ing = s.ing
  cv : t.cv = s.cv
  pwr : t.pwr = s.pwr
  reef : t.reef = s.reef
  err : t.err = s.err
  latch : t.latch = s.latch
  deferred : t.deferred = s.deferred
  wide : t.host.wide = s.host.wide
  str : t.host.str = s.host.str
  handed : t.host.handed = s.host.handed

theorem SameRest.refl (s : State) : SameRest s s := by constructor <;> rfl

theorem SameRest.trans {s t u : State} (a : SameRest s t) (b : SameRest t u) : SameRest s u :=
  { ctl := b.ctl.trans a.ctl, time := b.time.trans a.time, fab := b.fab.trans a.fab, tns := b.tns.trans a.tns, flt := b.flt.trans a.flt, ftu := b.ftu.trans a.ftu, lpddr := b.lpddr.trans a.lpddr, active := b.active.trans a.active, shadow := b.shadow.trans a.shadow, phase := b.phase.trans a.phase, halted := b.halted.trans a.halted, free := b.free.trans a.free, obs := b.obs.trans a.obs, ing := b.ing.trans a.ing, cv := b.cv.trans a.cv, pwr := b.pwr.trans a.pwr, reef := b.reef.trans a.reef, err := b.err.trans a.err, latch := b.latch.trans a.latch, deferred := b.deferred.trans a.deferred, wide := b.wide.trans a.wide, str := b.str.trans a.str, handed := b.handed.trans a.handed }

theorem sameRest_set (s : State) (x : Fld) (v : Nat) : SameRest s (s.set x v) := by constructor <;> rfl
theorem sameRest_setCur (s : State) (f q : Nat) (d : Option Desc) : SameRest s (s.setCur f q d) := by constructor <;> rfl
theorem sameRest_setCq (s : State) (f q : Nat) (c : Cq) : SameRest s (s.setCq f q c) := by constructor <;> rfl
theorem sameRest_post (s : State) (f a : Nat) (ro : Bool) (b : List Byte) : SameRest s (s.post f a ro b) := by constructor <;> rfl

theorem sameRest_raise (s : State) (f v : Nat) : SameRest s (s.raise f v) := by
  unfold State.raise
  split
  · exact sameRest_set _ _ _
  · constructor <;> rfl

theorem sameRest_when {s t : State} (h : SameRest s t) (c : Bool) {f : State → State} (hf : SameRest t (f t)) : SameRest s (t.when c f) := by
  cases c
  · exact h
  · exact h.trans hf

theorem sameRest_each {α : Type} {s : State} {f : State → α → State} (l : List α) (hf : ∀ t x, SameRest t (f t x)) : SameRest s (s.each l f) :=
  State.each_keeps (fun t => SameRest s t) (fun t x h => h.trans (hf t x)) (SameRest.refl s)

theorem sameRest_releaseFences (s : State) (f q : Nat) : SameRest s (s.releaseFences f q) := by
  refine sameRest_each _ fun t i => ?_
  split
  · split
    · exact sameRest_setCur _ _ _ _
    · exact SameRest.refl _
  · exact SameRest.refl _

/-- A completion changes rings, interrupts and the bytes of its entry, nothing else. -/
theorem State.complete_rest (s : State) (f q : Nat) (o : Done) : SameRest s (s.complete f q o) := by
  unfold State.complete
  split
  · exact SameRest.refl s
  · dsimp only
    have h1 := (sameRest_setCur s f q none).trans (sameRest_releaseFences _ f q)
    split
    · exact h1
    · refine sameRest_when (sameRest_when (h1.trans ?_) _ (sameRest_raise _ _ _)) _ (sameRest_raise _ _ _)
      exact ((sameRest_post _ _ _ _ _).trans (sameRest_set _ _ _)).trans (sameRest_setCq _ _ _ _)

theorem State.completeOwner_rest (s : State) (w : Option (Nat × Nat)) (o : Done) : SameRest s (s.completeOwner w o) := by
  unfold State.completeOwner
  split
  · exact State.complete_rest _ _ _ _
  · exact SameRest.refl s

end Sys2Proof.Machine
end

