-- ==== Sys2Proof/Laws/Stable.lean ====
section
/-! SUPPORT. Properties that survive every elementary update of the state; the files Keeps*.lean show that every operation of the machine keeps them. -/

namespace Sys2Proof.Machine

/-- A property that survives register writes, free values taken, a halt, and any change of the parts it does not speak of. -/
structure Stable (P : State → Prop) : Prop where
  set : ∀ {s : State} (f : Fld) (v : Nat), P s → P (s.set f v)
  took : ∀ {s : State} (n : Nat), P s → P (s.took n)
  regs : ∀ {s : State} {v : SMap Nat}, (SMap.sorted s.regs = true → SMap.sorted v = true) → P s → P { s with regs := v }
  time : ∀ {s : State} {v : TimeState},
    (s.time.followers = List.replicate 4 s.time.dev → v.followers = List.replicate 4 v.dev) → P s → P { s with time := v }
  host : ∀ {s : State} {v : HostSide}, v.mem = s.host.mem → P s → P { s with host := v }
  mem : ∀ {s : State} (f a : Nat) (ro : Bool) (bs : List Byte), P s → P (s.post f a ro bs)
  halt : ∀ {s : State}, P s → P { s with halted := true }
  phase : ∀ {s : State} {v : Phase}, P s → P { s with phase := v }
  latch : ∀ {s : State} {v : Latches}, P s → P { s with latch := v }
  deferred : ∀ {s : State} {v : List Deferred}, P s → P { s with deferred := v }
  ing : ∀ {s : State} {v : Ingest}, P s → P { s with ing := v }
  cv : ∀ {s : State} {v : Canvas}, P s → P { s with cv := v }
  active : ∀ {s : State} {v : Option ConfigSet}, P s → P { s with active := v }
  shadow : ∀ {s : State} {v : Option ConfigSet}, P s → P { s with shadow := v }
  tns : ∀ {s : State} {v : Dense}, P s → P { s with tns := v }
  fab : ∀ {s : State} {v : Fabric}, P s → P { s with fab := v }
  flt : ∀ {s : State} {v : Filter}, P s → P { s with flt := v }
  ftu : ∀ {s : State} {v : Ftu}, P s → P { s with ftu := v }
  pwr : ∀ {s : State} {v : Power}, P s → P { s with pwr := v }
  ctl : ∀ {s : State} {v : Control}, P s → P { s with ctl := v }
  reef : ∀ {s : State} {v : Reef}, P s → P { s with reef := v }
  obs : ∀ {s : State} {v : Observe}, P s → P { s with obs := v }
  err : ∀ {s : State} {v : Errors}, P s → P { s with err := v }

/-- A property that survives a change of LPDDR5X in canonical form. -/
structure Stores (P : State → Prop) : Prop where
  lpddr : ∀ {s : State} {v : List Host.Cell},
    (Memory.wf lpddrFill s.lpddr = true → Memory.wf lpddrFill v = true) → P s → P { s with lpddr := v }

/-- A property that survives the loss of LPDDR5X's content. -/
structure Empties (P : State → Prop) : Prop where
  lpddr : ∀ {s : State}, P s → P { s with lpddr := [] }

/-- A property that survives a write to MGT_SOFT_RESET. -/
structure SoftResets (P : State → Prop) : Prop where
  soft : ∀ {s : State} (v : Nat), P s → P (s.writeSoftReset v)

/-- A property that survives the end of a halt and the loss of power. -/
structure Restarts (P : State → Prop) : Prop where
  resume : ∀ {s : State}, P s → P { s with halted := false }
  powerUp : ∀ {s : State}, P s → P s.powerUp

variable {P : State → Prop} {s : State}

theorem keeps_each {α : Type} {f : State → α → State} {l : List α} (hf : ∀ t x, P t → P (f t x)) (h : P s) : P (s.each l f) :=
  State.each_keeps P hf h

theorem keeps_foldl {α : Type} {f : State → α → State} {l : List α} (hf : ∀ t x, P t → P (f t x)) (h : P s) : P (l.foldl f s) :=
  State.each_keeps P hf h

theorem keeps_foldl_pair {α β : Type} {f : State × β → α → State × β} {l : List α} {r : State × β}
    (hf : ∀ q x, P q.1 → P (f q x).1) (h : P r.1) : P (l.foldl f r).1 := by
  induction l generalizing r with
  | nil => exact h
  | cons x l ih => exact ih (hf r x h)

theorem keeps_when {c : Bool} {f : State → State} (hf : ∀ t, P t → P (f t)) (h : P s) : P (s.when c f) := by
  unfold State.when
  split
  · exact hf s h
  · exact h

theorem keeps_clocked {t : State} (ht : P t) (h : P s) : P (s.clocked t) := by
  unfold State.clocked
  split
  · exact ht
  · exact h

theorem State.set_keeps (hP : Stable P) (s : State) (f : Fld) (v : Nat) (h : P s) : P (s.set f v) := hP.set f v h

theorem State.took_keeps (hP : Stable P) (s : State) (n : Nat) (h : P s) : P (s.took n) := hP.took n h

theorem keeps_setTime (hP : Stable P) {v : TimeState}
    (hf : s.time.followers = List.replicate 4 s.time.dev → v.followers = List.replicate 4 v.dev) (h : P s) : P (s.setTime v) :=
  hP.time hf h

/-! ### Updates of parts of which Keeps says little or nothing -/

theorem keeps_with_active (hP : Stable P) {v0 : Option ConfigSet} (h : P s) :
    P { s with active := v0 } :=
  hP.active (v := v0) (h)

theorem keeps_with_active_shadow (hP : Stable P) {v0 : Option ConfigSet} {v1 : Option ConfigSet} (h : P s) :
    P { s with active := v0, shadow := v1 } :=
  hP.shadow (v := v1) (hP.active (v := v0) (h))

theorem keeps_with_active_shadow_err (hP : Stable P) {v0 : Option ConfigSet} {v1 : Option ConfigSet} {v2 : Errors} (h : P s) :
    P { s with active := v0, shadow := v1, err := v2 } :=
  hP.err (v := v2) (hP.shadow (v := v1) (hP.active (v := v0) (h)))

theorem keeps_with_active_shadow_fab (hP : Stable P) {v0 : Option ConfigSet} {v1 : Option ConfigSet} {v2 : Fabric} (h : P s) :
    P { s with active := v0, shadow := v1, fab := v2 } :=
  hP.fab (v := v2) (hP.shadow (v := v1) (hP.active (v := v0) (h)))

theorem keeps_with_ctl (hP : Stable P) {v0 : Control} (h : P s) :
    P { s with ctl := v0 } :=
  hP.ctl (v := v0) (h)

theorem keeps_with_ctl_reef (hP : Stable P) {v0 : Control} {v1 : Reef} (h : P s) :
    P { s with ctl := v0, reef := v1 } :=
  hP.reef (v := v1) (hP.ctl (v := v0) (h))

theorem keeps_with_cv (hP : Stable P) {v0 : Canvas} (h : P s) :
    P { s with cv := v0 } :=
  hP.cv (v := v0) (h)

theorem keeps_with_cv_flt (hP : Stable P) {v0 : Canvas} {v1 : Filter} (h : P s) :
    P { s with cv := v0, flt := v1 } :=
  hP.flt (v := v1) (hP.cv (v := v0) (h))

theorem keeps_with_deferred (hP : Stable P) {v0 : List Deferred} (h : P s) :
    P { s with deferred := v0 } :=
  hP.deferred (v := v0) (h)

theorem keeps_with_deferred_obs (hP : Stable P) {v0 : List Deferred} {v1 : Observe} (h : P s) :
    P { s with deferred := v0, obs := v1 } :=
  hP.obs (v := v1) (hP.deferred (v := v0) (h))

theorem keeps_with_deferred_time_active_shadow_flt_obs_err (hP : Stable P) {v0 : List Deferred} {v1 : TimeState} {v2 : Option ConfigSet} {v3 : Option ConfigSet} {v4 : Filter} {v5 : Observe} {v6 : Errors} (hf : s.time.followers = List.replicate 4 s.time.dev → v1.followers = List.replicate 4 v1.dev) (h : P s) :
    P { s with deferred := v0, time := v1, active := v2, shadow := v3, flt := v4, obs := v5, err := v6 } :=
  hP.err (v := v6) (hP.obs (v := v5) (hP.flt (v := v4) (hP.shadow (v := v3) (hP.active (v := v2) (hP.time (v := v1) (by exact hf) (hP.deferred (v := v0) (h)))))))

theorem keeps_with_err (hP : Stable P) {v0 : Errors} (h : P s) :
    P { s with err := v0 } :=
  hP.err (v := v0) (h)

theorem keeps_with_fab (hP : Stable P) {v0 : Fabric} (h : P s) :
    P { s with fab := v0 } :=
  hP.fab (v := v0) (h)

theorem keeps_with_fab_pwr_ctl_reef_err (hP : Stable P) {v0 : Fabric} {v1 : Power} {v2 : Control} {v3 : Reef} {v4 : Errors} (h : P s) :
    P { s with fab := v0, pwr := v1, ctl := v2, reef := v3, err := v4 } :=
  hP.err (v := v4) (hP.reef (v := v3) (hP.ctl (v := v2) (hP.pwr (v := v1) (hP.fab (v := v0) (h)))))

theorem keeps_with_flt (hP : Stable P) {v0 : Filter} (h : P s) :
    P { s with flt := v0 } :=
  hP.flt (v := v0) (h)

theorem keeps_with_ftu (hP : Stable P) {v0 : Ftu} (h : P s) :
    P { s with ftu := v0 } :=
  hP.ftu (v := v0) (h)

theorem keeps_with_halted (hP : Stable P) (h : P s) : P { s with halted := true } := hP.halt h

theorem keeps_with_host (hP : Stable P) {v0 : HostSide} (hm : v0.mem = s.host.mem) (h : P s) :
    P { s with host := v0 } :=
  hP.host (v := v0) (by exact hm) (h)

theorem keeps_with_ing (hP : Stable P) {v0 : Ingest} (h : P s) :
    P { s with ing := v0 } :=
  hP.ing (v := v0) (h)

theorem keeps_with_latch (hP : Stable P) {v0 : Latches} (h : P s) :
    P { s with latch := v0 } :=
  hP.latch (v := v0) (h)

theorem keeps_with_latch_host (hP : Stable P) {v0 : Latches} {v1 : HostSide} (hm : v1.mem = s.host.mem) (h : P s) :
    P { s with latch := v0, host := v1 } :=
  hP.host (v := v1) (by exact hm) (hP.latch (v := v0) (h))

theorem keeps_with_latch_host_obs (hP : Stable P) {v0 : Latches} {v1 : HostSide} {v2 : Observe} (hm : v1.mem = s.host.mem) (h : P s) :
    P { s with latch := v0, host := v1, obs := v2 } :=
  hP.obs (v := v2) (hP.host (v := v1) (by exact hm) (hP.latch (v := v0) (h)))

theorem keeps_with_obs (hP : Stable P) {v0 : Observe} (h : P s) :
    P { s with obs := v0 } :=
  hP.obs (v := v0) (h)

theorem keeps_with_phase (hP : Stable P) {v0 : Phase} (h : P s) :
    P { s with phase := v0 } :=
  hP.phase (v := v0) (h)

theorem keeps_with_phase_reef (hP : Stable P) {v0 : Phase} {v1 : Reef} (h : P s) :
    P { s with phase := v0, reef := v1 } :=
  hP.reef (v := v1) (hP.phase (v := v0) (h))

theorem keeps_with_pwr (hP : Stable P) {v0 : Power} (h : P s) :
    P { s with pwr := v0 } :=
  hP.pwr (v := v0) (h)

theorem keeps_with_reef (hP : Stable P) {v0 : Reef} (h : P s) :
    P { s with reef := v0 } :=
  hP.reef (v := v0) (h)

theorem keeps_with_shadow (hP : Stable P) {v0 : Option ConfigSet} (h : P s) :
    P { s with shadow := v0 } :=
  hP.shadow (v := v0) (h)

theorem keeps_with_shadow_ctl (hP : Stable P) {v0 : Option ConfigSet} {v1 : Control} (h : P s) :
    P { s with shadow := v0, ctl := v1 } :=
  hP.ctl (v := v1) (hP.shadow (v := v0) (h))

theorem keeps_with_time (hP : Stable P) {v0 : TimeState} (hf : s.time.followers = List.replicate 4 s.time.dev → v0.followers = List.replicate 4 v0.dev) (h : P s) :
    P { s with time := v0 } :=
  hP.time (v := v0) (by exact hf) (h)

theorem keeps_with_time_host_ing_cv_tns_fab_flt_ftu_pwr_ctl_obs_err (hP : Stable P) {v0 : TimeState} {v1 : HostSide} {v2 : Ingest} {v3 : Canvas} {v4 : Dense} {v5 : Fabric} {v6 : Filter} {v7 : Ftu} {v8 : Power} {v9 : Control} {v10 : Observe} {v11 : Errors} (hf : s.time.followers = List.replicate 4 s.time.dev → v0.followers = List.replicate 4 v0.dev) (hm : v1.mem = s.host.mem) (h : P s) :
    P { s with time := v0, host := v1, ing := v2, cv := v3, tns := v4, fab := v5, flt := v6, ftu := v7, pwr := v8, ctl := v9, obs := v10, err := v11 } :=
  hP.err (v := v11) (hP.obs (v := v10) (hP.ctl (v := v9) (hP.pwr (v := v8) (hP.ftu (v := v7) (hP.flt (v := v6) (hP.fab (v := v5) (hP.tns (v := v4) (hP.cv (v := v3) (hP.ing (v := v2) (hP.host (v := v1) (by exact hm) (hP.time (v := v0) (by exact hf) (h))))))))))))

theorem keeps_with_tns (hP : Stable P) {v0 : Dense} (h : P s) :
    P { s with tns := v0 } :=
  hP.tns (v := v0) (h)

end Sys2Proof.Machine
end

