-- ==== Sys2Proof/Laws/KeepsOps.lean ====
section
/-! SUPPORT. Every operation of Machine/Ops.lean keeps every stable property. -/

set_option linter.unusedTactic false
set_option linter.unreachableTactic false

namespace Sys2Proof.Machine

theorem State.setFlag_keeps {P : State → Prop} (hP : Stable P) (s : State) (f : Fld) (b : Bool) (hk : P s) : P (State.setFlag s f b) := by
  unfold State.setFlag
  repeat' first | with_reducible assumption | with_reducible apply State.set_keeps hP | split | dsimp only | intro _

theorem State.setInt_keeps {P : State → Prop} (hP : Stable P) (s : State) (f : Fld) (v : Int) (hk : P s) : P (State.setInt s f v) := by
  unfold State.setInt
  repeat' first | with_reducible assumption | with_reducible apply State.set_keeps hP | split | dsimp only | intro _

theorem State.add_keeps {P : State → Prop} (hP : Stable P) (s : State) (f : Fld) (n : Nat) (hk : P s) : P (State.add s f n) := by
  unfold State.add
  repeat' first | with_reducible assumption | with_reducible apply State.set_keeps hP | split | dsimp only | intro _

theorem State.inc_keeps {P : State → Prop} (hP : Stable P) (s : State) (f : Fld) (hk : P s) : P (State.inc s f) := by
  unfold State.inc
  repeat' first | with_reducible assumption | with_reducible apply State.add_keeps hP | split | dsimp only | intro _

theorem State.touch_keeps {P : State → Prop} (hP : Stable P) (s : State) (hk : P s) : P (State.touch s) := by
  unfold State.touch
  repeat' first | with_reducible assumption | split | with_reducible refine keeps_with_reef hP ?_ | dsimp only | intro _

theorem State.beginExit_keeps {P : State → Prop} (hP : Stable P) (s : State) (n : Nat) (m : WakeMark) (hk : P s) : P (State.beginExit s n m) := by
  unfold State.beginExit
  repeat' first | with_reducible assumption | split | with_reducible refine keeps_with_phase_reef hP ?_ | dsimp only | intro _

theorem State.wake_keeps {P : State → Prop} (hP : Stable P) (s : State) (w : WakeSource) (hk : P s) : P (State.wake s w) := by
  unfold State.wake
  repeat' first | with_reducible assumption | with_reducible apply State.beginExit_keeps hP | split | with_reducible refine keeps_with_phase hP ?_ | dsimp only | intro _

theorem State.hold_keeps {P : State → Prop} (hP : Stable P) (s : State) (h : Held) (hk : P s) : P (State.hold s h) := by
  unfold State.hold
  repeat' first | with_reducible assumption | split | with_reducible refine keeps_with_host hP rfl ?_ | dsimp only | intro _

theorem State.transact_keeps {P : State → Prop} (hP : Stable P) (s : State) (hk : P s) : P (State.transact s) := by
  unfold State.transact
  repeat' first | with_reducible assumption | with_reducible apply State.touch_keeps hP | with_reducible apply State.wake_keeps hP | split | dsimp only | intro _

theorem State.bus_keeps {P : State → Prop} (hP : Stable P) (s : State) (h : Held) (act : State → State) (hk : P s) (kact : ∀ t, P t → P (act t)) : P (State.bus s h act) := by
  unfold State.bus
  repeat' first | with_reducible assumption | with_reducible apply kact | with_reducible apply State.touch_keeps hP | with_reducible apply State.hold_keeps hP | with_reducible apply State.transact_keeps hP | split | dsimp only | intro _

theorem State.joinPair_keeps {P : State → Prop} (hP : Stable P) (s : State) (rq lo cur hi : Nat) (hk : P s) : P (State.joinPair s rq lo cur hi).1 := by
  unfold State.joinPair
  repeat' first | with_reducible assumption | split | with_reducible refine keeps_with_latch hP ?_ | dsimp only | intro _

theorem State.raise_keeps {P : State → Prop} (hP : Stable P) (s : State) (f v : Nat) (hk : P s) : P (State.raise s f v) := by
  unfold State.raise
  repeat' first | with_reducible assumption | with_reducible apply State.set_keeps hP | split | with_reducible refine keeps_with_host hP rfl ?_ | dsimp only | intro _

theorem State.post_keeps {P : State → Prop} (hP : Stable P) (s : State) (f addr : Nat) (ro : Bool) (bs : List Byte) (hk : P s) : P (State.post s f addr ro bs) := hP.mem f addr ro bs hk

theorem State.setSq_keeps {P : State → Prop} (hP : Stable P) (s : State) (f q : Nat) (v : Sq) (hk : P s) : P (State.setSq s f q v) := by
  unfold State.setSq
  repeat' first | with_reducible assumption | with_reducible apply State.set_keeps hP | split | with_reducible refine keeps_with_host hP rfl ?_ | dsimp only | intro _

theorem State.setCq_keeps {P : State → Prop} (hP : Stable P) (s : State) (f q : Nat) (v : Cq) (hk : P s) : P (State.setCq s f q v) := by
  unfold State.setCq
  repeat' first | with_reducible assumption | with_reducible apply State.set_keeps hP | split | with_reducible refine keeps_with_host hP rfl ?_ | dsimp only | intro _

theorem State.setStr_keeps {P : State → Prop} (hP : Stable P) (s : State) (f r : Nat) (v : Str) (hk : P s) : P (State.setStr s f r v) := by
  unfold State.setStr
  repeat' first | with_reducible assumption | with_reducible apply State.set_keeps hP | split | with_reducible refine keeps_with_host hP rfl ?_ | dsimp only | intro _

theorem State.setCur_keeps {P : State → Prop} (hP : Stable P) (s : State) (f q : Nat) (d : Option Desc) (hk : P s) : P (State.setCur s f q d) := by
  unfold State.setCur
  repeat' first | with_reducible assumption | with_reducible apply State.setSq_keeps hP | split | dsimp only | intro _

theorem State.pushCq_keeps {P : State → Prop} (hP : Stable P) (s : State) (f i q cid head : Nat) (o : Done) (hk : P s) : P (State.pushCq s f i q cid head o) := by
  unfold State.pushCq
  repeat' first | with_reducible assumption | with_reducible apply State.set_keeps hP | with_reducible apply State.post_keeps hP | with_reducible apply State.setCq_keeps hP | split | dsimp only | intro _

theorem State.releaseFences_keeps {P : State → Prop} (hP : Stable P) (s : State) (f q : Nat) (hk : P s) : P (State.releaseFences s f q) := by
  unfold State.releaseFences
  repeat' first | with_reducible assumption | with_reducible apply keeps_each | with_reducible apply State.setCur_keeps hP | split | dsimp only | intro _

theorem State.complete_keeps {P : State → Prop} (hP : Stable P) (s : State) (f q : Nat) (o : Done) (hk : P s) : P (State.complete s f q o) := by
  unfold State.complete
  repeat' first | with_reducible assumption | with_reducible apply keeps_when | with_reducible apply State.raise_keeps hP | with_reducible apply State.setCur_keeps hP | with_reducible apply State.pushCq_keeps hP | with_reducible apply State.releaseFences_keeps hP | split | dsimp only | intro _

theorem State.completeOwner_keeps {P : State → Prop} (hP : Stable P) (s : State) (owner : Option (Nat × Nat)) (o : Done) (hk : P s) : P (State.completeOwner s owner o) := by
  unfold State.completeOwner
  repeat' first | with_reducible assumption | with_reducible apply State.complete_keeps hP | split | dsimp only | intro _

theorem State.begin_keeps {P : State → Prop} (hP : Stable P) (s : State) (f q : Nat) (hk : P s) : P (State.begin s f q) := by
  unfold State.begin
  repeat' first | with_reducible assumption | with_reducible apply State.setCur_keeps hP | split | dsimp only | intro _

theorem State.hand_keeps {P : State → Prop} (hP : Stable P) (s : State) (f ring : Nat) (r : Rec) (hk : P s) : P (State.hand s f ring r) := by
  unfold State.hand
  repeat' first | with_reducible assumption | split | with_reducible refine keeps_with_host hP rfl ?_ | dsimp only | intro _

end Sys2Proof.Machine
end

