-- ==== Sys2Proof/Laws/KeepsObserve.lean ====
section
/-! SUPPORT. Every operation of Machine/Observe.lean keeps every stable property. -/

set_option linter.unusedTactic false
set_option linter.unreachableTactic false

namespace Sys2Proof.Machine

theorem State.count_keeps {P : State → Prop} (hP : Stable P) (s : State) (d k n : Nat) (hk : P s) : P (State.count s d k n) := by
  unfold State.count
  repeat' first | with_reducible assumption | split | with_reducible refine keeps_with_obs hP ?_ | dsimp only | intro _

theorem State.setTrace_keeps {P : State → Prop} (hP : Stable P) (s : State) (t : TraceState) (hk : P s) : P (State.setTrace s t) := by
  unfold State.setTrace
  repeat' first | with_reducible assumption | split | with_reducible refine keeps_with_obs hP ?_ | dsimp only | intro _

theorem State.trace_keeps {P : State → Prop} (hP : Stable P) (s : State) (die source unit arg data : Nat) (hk : P s) : P (State.trace s die source unit arg data) := by
  unfold State.trace
  repeat' first | with_reducible assumption | with_reducible apply State.set_keeps hP | with_reducible apply State.inc_keeps hP | with_reducible apply State.setTrace_keeps hP | split | dsimp only | intro _

theorem State.condition_keeps {P : State → Prop} (hP : Stable P) (s : State) (k : Nat) (hk : P s) : P (State.condition s k) := by
  unfold State.condition
  repeat' first | with_reducible assumption | with_reducible apply State.setTrace_keeps hP | with_reducible apply State.trace_keeps hP | split | dsimp only | intro _

theorem State.traceWrite_keeps {P : State → Prop} (hP : Stable P) (s : State) (e : TraceEntry) (hk : P s) : P (State.traceWrite s e) := by
  unfold State.traceWrite
  repeat' first | with_reducible assumption | with_reducible apply State.set_keeps hP | with_reducible apply State.inc_keeps hP | with_reducible apply State.setTrace_keeps hP | with_reducible apply State.trace_keeps hP | split | dsimp only | intro _

theorem State.trigger_keeps {P : State → Prop} (hP : Stable P) (s : State) (hk : P s) : P (State.trigger s) := by
  unfold State.trigger
  repeat' first | with_reducible assumption | with_reducible apply State.set_keeps hP | with_reducible apply State.post_keeps hP | with_reducible apply State.setTrace_keeps hP | with_reducible apply State.trace_keeps hP | with_reducible apply State.traceWrite_keeps hP | split | dsimp only | intro _

theorem State.report_keeps {P : State → Prop} (hP : Stable P) (s : State) (r : Rec) (hk : P s) : P (State.report s r) := by
  unfold State.report
  repeat' first | with_reducible assumption | with_reducible apply State.inc_keeps hP | with_reducible apply State.hand_keeps hP | split | dsimp only | intro _

theorem State.lifeError_keeps {P : State → Prop} (hP : Stable P) (s : State) (cls : FaultClass) (source die unit detail : Nat) (hk : P s) : P (State.lifeError s cls source die unit detail) := by
  unfold State.lifeError
  repeat' first | with_reducible assumption | split | with_reducible refine keeps_with_obs hP ?_ | dsimp only | intro _

theorem State.copyDue_keeps {P : State → Prop} (hP : Stable P) (s : State) (hk : P s) : P (State.copyDue s) := by
  unfold State.copyDue
  repeat' first | with_reducible assumption | split | with_reducible refine keeps_with_obs hP ?_ | dsimp only | intro _

theorem State.reportCorrected_keeps {P : State → Prop} (hP : Stable P) (s : State) (source die unit detail : Nat) (hk : P s) : P (State.reportCorrected s source die unit detail) := by
  unfold State.reportCorrected
  repeat' first | with_reducible assumption | with_reducible apply State.count_keeps hP | with_reducible apply State.report_keeps hP | split | with_reducible refine keeps_with_err hP ?_ | dsimp only | intro _

theorem State.fault_keeps {P : State → Prop} (hP : Stable P) (s : State) (cls : FaultClass) (source die unit detail : Nat) (hk : P s) : P (State.fault s cls source die unit detail) := by
  unfold State.fault
  repeat' first | with_reducible assumption | with_reducible apply keeps_when | with_reducible apply State.set_keeps hP | with_reducible apply State.setFlag_keeps hP | with_reducible apply State.trace_keeps hP | with_reducible apply State.condition_keeps hP | with_reducible apply State.report_keeps hP | with_reducible apply State.lifeError_keeps hP | with_reducible apply State.copyDue_keeps hP | with_reducible apply State.reportCorrected_keeps hP | split | dsimp only | intro _

theorem State.eccRead_keeps {P : State → Prop} (hP : Stable P) (s : State) (e : Ecc) (die mem detail : Nat) (hk : P s) : P (State.eccRead s e die mem detail) := by
  unfold State.eccRead
  repeat' first | with_reducible assumption | with_reducible apply State.inc_keeps hP | with_reducible apply State.fault_keeps hP | split | with_reducible refine keeps_with_obs hP ?_ | dsimp only | intro _

theorem State.lpddrCheck_keeps {P : State → Prop} (hP : Stable P) (s : State) (e : Ecc) (m addr : Nat) (hk : P s) : P (State.lpddrCheck s e m addr) := by
  unfold State.lpddrCheck
  repeat' first | with_reducible assumption | with_reducible apply State.inc_keeps hP | with_reducible apply State.fault_keeps hP | split | with_reducible refine keeps_with_obs hP ?_ | dsimp only | intro _

theorem State.lpddrRead_keeps {P : State → Prop} (hP : Stable P) (s : State) (e : Ecc) (addr : Nat) (hk : P s) : P (State.lpddrRead s e addr) := by
  unfold State.lpddrRead
  repeat' first | with_reducible assumption | with_reducible apply State.took_keeps hP | with_reducible apply State.lpddrCheck_keeps hP | split | dsimp only | intro _

theorem State.copyRead_keeps {P : State → Prop} (hP : Stable P) (s : State) (e : Ecc) (hk : P s) : P (State.copyRead s e) := by
  unfold State.copyRead
  repeat' first | with_reducible assumption | with_reducible apply State.lpddrCheck_keeps hP | split | dsimp only | intro _

theorem State.traceRead_keeps {P : State → Prop} (hP : Stable P) (s : State) (e : Ecc) (hk : P s) : P (State.traceRead s e) := by
  unfold State.traceRead
  repeat' first | with_reducible assumption | with_reducible apply State.took_keeps hP | with_reducible apply State.trace_keeps hP | with_reducible apply State.eccRead_keeps hP | with_reducible apply State.lpddrRead_keeps hP | split | dsimp only | intro _

theorem State.readChunks_keeps {P : State → Prop} (hP : Stable P) {rd : State → Ecc → State} {bad : State → Ecc → Bool} {n : Nat} {s : State} {l : List Rec} {es : List Ecc}
    (hk : P s) (hrd : ∀ t e, P t → P (rd t e)) : P (State.readChunks rd bad n s l es).1 := by
  induction l generalizing s es with
  | nil => exact hk
  | cons r rs ih =>
    unfold State.readChunks
    dsimp only
    apply ih
    repeat' first | with_reducible assumption | split | dsimp only | with_reducible apply State.took_keeps hP | with_reducible apply hrd

theorem State.parityCheck_keeps {P : State → Prop} (hP : Stable P) (s : State) (bad : Bool) (die unit : Nat) (hk : P s) : P (State.parityCheck s bad die unit) := by
  unfold State.parityCheck
  repeat' first | with_reducible assumption | with_reducible apply keeps_when | with_reducible apply State.inc_keeps hP | with_reducible apply State.fault_keeps hP | split | dsimp only | intro _

end Sys2Proof.Machine
end

