-- ==== Sys2Proof/Laws/KeepsIngest.lean ====
section
/-! SUPPORT. Every operation of Machine/Ingest.lean keeps every stable property. -/

set_option linter.unusedTactic false
set_option linter.unreachableTactic false

namespace Sys2Proof.Machine

theorem State.setPort_keeps {P : State → Prop} (hP : Stable P) (s : State) (p : Nat) (v : Port) (hk : P s) : P (State.setPort s p v) := by
  unfold State.setPort
  repeat' first | with_reducible assumption | with_reducible apply State.set_keeps hP | split | with_reducible refine keeps_with_ing hP ?_ | dsimp only | intro _

theorem State.dropUp_keeps {P : State → Prop} (hP : Stable P) (s : State) (p : Nat) (hk : P s) : P (State.dropUp s p) := by
  unfold State.dropUp
  repeat' first | with_reducible assumption | with_reducible apply State.setFlag_keeps hP | with_reducible apply State.inc_keeps hP | split | dsimp only | intro _

theorem State.train_keeps {P : State → Prop} (hP : Stable P) (s : State) (p fails : Nat) (hk : P s) : P (State.train s p fails) := by
  unfold State.train
  repeat' first | with_reducible assumption | with_reducible apply State.setPort_keeps hP | with_reducible apply State.dropUp_keeps hP | split | dsimp only | intro _

theorem State.ingRunWrite_keeps {P : State → Prop} (hP : Stable P) (s : State) (hk : P s) : P (State.ingRunWrite s) := by
  unfold State.ingRunWrite
  repeat' first | with_reducible assumption | with_reducible apply State.setFlag_keeps hP | split | dsimp only | intro _

theorem State.enablePort_keeps {P : State → Prop} (hP : Stable P) (s : State) (p : Nat) (hk : P s) : P (State.enablePort s p) := by
  unfold State.enablePort
  repeat' first | with_reducible assumption | with_reducible apply State.set_keeps hP | with_reducible apply State.setFlag_keeps hP | with_reducible apply State.setPort_keeps hP | with_reducible apply State.train_keeps hP | split | dsimp only | intro _

theorem State.disablePort_keeps {P : State → Prop} (hP : Stable P) (s : State) (p : Nat) (hk : P s) : P (State.disablePort s p) := by
  unfold State.disablePort
  repeat' first | with_reducible assumption | with_reducible apply State.set_keeps hP | with_reducible apply State.setPort_keeps hP | with_reducible apply State.dropUp_keeps hP | split | dsimp only | intro _

theorem State.writePortBit_keeps {P : State → Prop} (hP : Stable P) (s : State) (p : Nat) (on : Bool) (hk : P s) : P (State.writePortBit s p on) := by
  unfold State.writePortBit
  repeat' first | with_reducible assumption | with_reducible apply State.enablePort_keeps hP | with_reducible apply State.disablePort_keeps hP | split | dsimp only | intro _

theorem execPortEnable_keeps {P : State → Prop} (hP : Stable P) (p : Fin 8) {s t : State} (h : execPortEnable p s = .next t) (hs : P s) : P t := by
  unfold execPortEnable at h
  obtain rfl := Host.Outcome.next.inj h
  repeat' first | with_reducible assumption | with_reducible apply State.bus_keeps hP | with_reducible apply State.ingRunWrite_keeps hP | with_reducible apply State.writePortBit_keeps hP | split | dsimp only | intro _

theorem execPortDisable_keeps {P : State → Prop} (hP : Stable P) (p : Fin 8) {s t : State} (h : execPortDisable p s = .next t) (hs : P s) : P t := by
  unfold execPortDisable at h
  obtain rfl := Host.Outcome.next.inj h
  repeat' first | with_reducible assumption | with_reducible apply State.bus_keeps hP | with_reducible apply State.ingRunWrite_keeps hP | with_reducible apply State.writePortBit_keeps hP | split | dsimp only | intro _

theorem State.writePortCfg_keeps {P : State → Prop} (hP : Stable P) (s : State) (p v : Nat) (hk : P s) : P (State.writePortCfg s p v) := by
  unfold State.writePortCfg
  repeat' first | with_reducible assumption | with_reducible apply keeps_when | with_reducible apply State.set_keeps hP | with_reducible apply State.train_keeps hP | with_reducible apply State.ingRunWrite_keeps hP | split | dsimp only | intro _

theorem execRetrain_keeps {P : State → Prop} (hP : Stable P) (p : Fin 8) (v : Word) {s t : State} (h : execRetrain p v s = .next t) (hs : P s) : P t := by
  unfold execRetrain at h
  obtain rfl := Host.Outcome.next.inj h
  repeat' first | with_reducible assumption | with_reducible apply State.bus_keeps hP | with_reducible apply State.writePortCfg_keeps hP | split | dsimp only | intro _

theorem State.measureLoss_keeps {P : State → Prop} (hP : Stable P) (s : State) (p loss : Nat) (hk : P s) : P (State.measureLoss s p loss) := by
  unfold State.measureLoss
  repeat' first | with_reducible assumption | with_reducible apply State.set_keeps hP | split | dsimp only | intro _

theorem State.trainingEnds_keeps {P : State → Prop} (hP : Stable P) (s : State) (p : Nat) (ok : Bool) (gear loss : Nat) (hk : P s) : P (State.trainingEnds s p ok gear loss) := by
  unfold State.trainingEnds
  repeat' first | with_reducible assumption | with_reducible apply State.set_keeps hP | with_reducible apply State.setPort_keeps hP | with_reducible apply State.measureLoss_keeps hP | split | dsimp only | intro _

theorem execLinkTraining_keeps {P : State → Prop} (hP : Stable P) (p : Fin 8) (ok : Bool) (gear loss : Nat) {s t : State} (h : execLinkTraining p ok gear loss s = .next t) (hs : P s) : P t := by
  unfold execLinkTraining at h
  obtain rfl := Host.Outcome.next.inj h
  repeat' first | with_reducible assumption | with_reducible apply keeps_clocked | with_reducible apply State.trainingEnds_keeps hP | split | dsimp only | intro _

theorem State.lifeCable_keeps {P : State → Prop} (hP : Stable P) (s : State) (p : Nat) (hk : P s) : P (State.lifeCable s p) := by
  unfold State.lifeCable
  repeat' first | with_reducible assumption | with_reducible apply State.set_keeps hP | split | with_reducible refine keeps_with_obs hP ?_ | dsimp only | intro _

theorem State.capabilityRead_keeps {P : State → Prop} (hP : Stable P) (s : State) (p : Nat) (ack : Bool) (data : List Byte) (hk : P s) : P (State.capabilityRead s p ack data) := by
  unfold State.capabilityRead
  repeat' first | with_reducible assumption | with_reducible apply keeps_each | with_reducible apply keeps_when | with_reducible apply State.set_keeps hP | with_reducible apply State.setFlag_keeps hP | with_reducible apply State.setPort_keeps hP | with_reducible apply State.lifeCable_keeps hP | split | dsimp only | intro _

theorem execCapabilityRead_keeps {P : State → Prop} (hP : Stable P) (p : Fin 8) (ack : Bool) (data : List Byte) {s t : State} (h : execCapabilityRead p ack data s = .next t) (hs : P s) : P t := by
  unfold execCapabilityRead at h
  obtain rfl := Host.Outcome.next.inj h
  repeat' first | with_reducible assumption | with_reducible apply keeps_clocked | with_reducible apply State.capabilityRead_keeps hP | split | dsimp only | intro _

theorem execLinkLoss_keeps {P : State → Prop} (hP : Stable P) (p : Fin 8) {s t : State} (h : execLinkLoss p s = .next t) (hs : P s) : P t := by
  unfold execLinkLoss at h
  obtain rfl := Host.Outcome.next.inj h
  repeat' first | with_reducible assumption | with_reducible apply keeps_clocked | with_reducible apply State.train_keeps hP | split | dsimp only | intro _

theorem State.writeCci_keeps {P : State → Prop} (hP : Stable P) (s : State) (p v : Nat) (hk : P s) : P (State.writeCci s p v) := by
  unfold State.writeCci
  repeat' first | with_reducible assumption | with_reducible apply keeps_when | with_reducible apply State.set_keeps hP | with_reducible apply State.setFlag_keeps hP | with_reducible apply State.setPort_keeps hP | split | dsimp only | intro _

theorem execCciGo_keeps {P : State → Prop} (hP : Stable P) (p : Fin 8) (v : Word) {s t : State} (h : execCciGo p v s = .next t) (hs : P s) : P t := by
  unfold execCciGo at h
  obtain rfl := Host.Outcome.next.inj h
  repeat' first | with_reducible assumption | with_reducible apply State.bus_keeps hP | with_reducible apply State.writeCci_keeps hP | split | dsimp only | intro _

theorem execCciTransactionEnd_keeps {P : State → Prop} (hP : Stable P) (p : Fin 8) (nack : Bool) (data : Word) {s t : State} (h : execCciTransactionEnd p nack data s = .next t) (hs : P s) : P t := by
  unfold execCciTransactionEnd at h
  obtain rfl := Host.Outcome.next.inj h
  repeat' first | with_reducible assumption | with_reducible apply keeps_when | with_reducible apply keeps_clocked | with_reducible apply State.set_keeps hP | with_reducible apply State.setFlag_keeps hP | split | dsimp only | intro _

theorem execCameraCurrentSample_keeps {P : State → Prop} (hP : Stable P) (p : Fin 8) (code : BitVec 12) {s t : State} (h : execCameraCurrentSample p code s = .next t) (hs : P s) : P t := by
  unfold execCameraCurrentSample at h
  obtain rfl := Host.Outcome.next.inj h
  repeat' first | with_reducible assumption | with_reducible apply keeps_when | with_reducible apply keeps_clocked | with_reducible apply State.set_keeps hP | with_reducible apply State.setFlag_keeps hP | with_reducible apply State.took_keeps hP | with_reducible apply State.setPort_keeps hP | split | dsimp only | intro _

theorem State.waterMarks_keeps {P : State → Prop} (hP : Stable P) (s : State) (p : Nat) (hk : P s) : P (State.waterMarks s p) := by
  unfold State.waterMarks
  repeat' first | with_reducible assumption | with_reducible apply State.set_keeps hP | with_reducible apply State.setFlag_keeps hP | with_reducible apply State.condition_keeps hP | split | dsimp only | intro _

theorem State.buffer_keeps {P : State → Prop} (hP : Stable P) (s : State) (p : Nat) (e : Event) (hk : P s) : P (State.buffer s p e) := by
  unfold State.buffer
  repeat' first | with_reducible assumption | with_reducible apply State.inc_keeps hP | with_reducible apply State.count_keeps hP | with_reducible apply State.condition_keeps hP | with_reducible apply State.setPort_keeps hP | with_reducible apply State.waterMarks_keeps hP | split | dsimp only | intro _

theorem State.decoded_keeps {P : State → Prop} (hP : Stable P) (s : State) (p : Nat) (e : Event) (hk : P s) : P (State.decoded s p e) := by
  unfold State.decoded
  repeat' first | with_reducible assumption | with_reducible apply State.inc_keeps hP | with_reducible apply State.count_keeps hP | with_reducible apply State.condition_keeps hP | with_reducible apply State.setPort_keeps hP | with_reducible apply State.buffer_keeps hP | split | dsimp only | intro _

theorem State.decodeAe64_keeps {P : State → Prop} (hP : Stable P) (s : State) (p : Nat) (pl : List Byte) (hk : P s) : P (State.decodeAe64 s p pl) := by
  unfold State.decodeAe64
  repeat' first | with_reducible assumption | with_reducible apply keeps_each | with_reducible apply keeps_when | with_reducible apply State.inc_keeps hP | with_reducible apply State.decoded_keeps hP | split | dsimp only | intro _

theorem State.based_keeps {P : State → Prop} (hP : Stable P) (s : State) (p : Nat) (pol : Bool) (xs : List Nat) (y toff : Nat) (hk : P s) : P (State.based s p pol xs y toff) := by
  unfold State.based
  repeat' first | with_reducible assumption | with_reducible apply keeps_each | with_reducible apply State.add_keeps hP | with_reducible apply State.decoded_keeps hP | split | dsimp only | intro _

theorem State.marker_keeps {P : State → Prop} (hP : Stable P) (s : State) (p tb : Nat) (hk : P s) : P (State.marker s p tb) := by
  unfold State.marker
  repeat' first | with_reducible assumption | with_reducible apply State.setPort_keeps hP | split | dsimp only | intro _

theorem State.decodeCt32_keeps {P : State → Prop} (hP : Stable P) (s : State) (p : Nat) (l : List Nat) (hk : P s) : P (State.decodeCt32 s p l) := by
  fun_induction State.decodeCt32 <;> (repeat' first | with_reducible assumption | with_reducible apply_assumption | with_reducible apply State.inc_keeps hP | with_reducible apply State.based_keeps hP | with_reducible apply State.marker_keeps hP | split | dsimp only | intro _)

theorem State.decodeVg32_keeps {P : State → Prop} (hP : Stable P) (s : State) (p : Nat) (l : List Nat) (hk : P s) : P (State.decodeVg32 s p l) := by
  fun_induction State.decodeVg32 <;> (repeat' first | with_reducible assumption | with_reducible apply_assumption | with_reducible apply State.inc_keeps hP | with_reducible apply State.based_keeps hP | with_reducible apply State.marker_keeps hP | split | dsimp only | intro _)

theorem State.setRb_keeps {P : State → Prop} (hP : Stable P) (s : State) (p : Nat) (v : Rebaser) (hk : P s) : P (State.setRb s p v) := by
  unfold State.setRb
  repeat' first | with_reducible assumption | with_reducible apply State.set_keeps hP | split | with_reducible refine keeps_with_time hP (fun h => h) ?_ | dsimp only | intro _

theorem State.takePair_keeps {P : State → Prop} (hP : Stable P) (s : State) (p stamp last : Nat) (hk : P s) : P (State.takePair s p stamp last) := by
  unfold State.takePair
  repeat' first | with_reducible assumption | with_reducible apply State.setPort_keeps hP | with_reducible apply State.setRb_keeps hP | split | dsimp only | intro _

theorem State.packet_keeps {P : State → Prop} (hP : Stable P) (s : State) (p : Nat) (l : Layout) (k : Packet) (last : Nat) (hk : P s) : P (State.packet s p l k last) := by
  unfold State.packet
  repeat' first | with_reducible assumption | with_reducible apply keeps_when | with_reducible apply State.inc_keeps hP | with_reducible apply State.setPort_keeps hP | with_reducible apply State.decodeAe64_keeps hP | with_reducible apply State.decodeCt32_keeps hP | with_reducible apply State.decodeVg32_keeps hP | with_reducible apply State.takePair_keeps hP | split | dsimp only | intro _

theorem State.unmapped_keeps {P : State → Prop} (hP : Stable P) (s : State) (p : Nat) (k : Packet) (hk : P s) : P (State.unmapped s p k) := by
  unfold State.unmapped
  repeat' first | with_reducible assumption | with_reducible apply keeps_when | with_reducible apply State.inc_keeps hP | split | dsimp only | intro _

theorem State.deliverHeld_keeps {P : State → Prop} (hP : Stable P) (s : State) (p : Nat) (h : Packet) (last : Nat) (hk : P s) : P (State.deliverHeld s p h last) := by
  unfold State.deliverHeld
  repeat' first | with_reducible assumption | with_reducible apply State.packet_keeps hP | with_reducible apply State.unmapped_keeps hP | split | dsimp only | intro _

theorem State.inject_keeps {P : State → Prop} (hP : Stable P) (s : State) (p : Nat) (l : Layout) (k : Packet) (last : Nat) (hk : P s) : P (State.inject s p l k last) := by
  unfold State.inject
  repeat' first | with_reducible assumption | with_reducible apply keeps_when | with_reducible apply State.set_keeps hP | with_reducible apply State.setPort_keeps hP | with_reducible apply State.packet_keeps hP | with_reducible apply State.deliverHeld_keeps hP | split | dsimp only | intro _

theorem State.longPacket_keeps {P : State → Prop} (hP : Stable P) (s : State) (p : Nat) (k : Packet) (last : Nat) (hk : P s) : P (State.longPacket s p k last) := by
  unfold State.longPacket
  repeat' first | with_reducible assumption | with_reducible apply State.inc_keeps hP | with_reducible apply State.setPort_keeps hP | with_reducible apply State.unmapped_keeps hP | with_reducible apply State.inject_keeps hP | split | dsimp only | intro _

theorem execLongPacket_keeps {P : State → Prop} (hP : Stable P) (p : Fin 8) (pkt : Packet) {s t : State} (h : execLongPacket p pkt s = .next t) (hs : P s) : P t := by
  unfold execLongPacket at h
  obtain rfl := Host.Outcome.next.inj h
  repeat' first | with_reducible assumption | with_reducible apply State.touch_keeps hP | with_reducible apply State.wake_keeps hP | with_reducible apply State.hold_keeps hP | with_reducible apply State.packet_keeps hP | with_reducible apply State.longPacket_keeps hP | split | dsimp only | intro _

theorem State.writeFi_keeps {P : State → Prop} (hP : Stable P) (s : State) (p v : Nat) (hk : P s) : P (State.writeFi s p v) := by
  unfold State.writeFi
  repeat' first | with_reducible assumption | with_reducible apply State.set_keeps hP | with_reducible apply State.setPort_keeps hP | with_reducible apply State.deliverHeld_keeps hP | split | dsimp only | intro _

theorem State.popHead_keeps {P : State → Prop} (hP : Stable P) (s : State) (p : Nat) (hk : P s) : P (State.popHead s p) := by
  unfold State.popHead
  repeat' first | with_reducible assumption | with_reducible apply State.setPort_keeps hP | with_reducible apply State.waterMarks_keeps hP | split | dsimp only | intro _

theorem State.commit_keeps {P : State → Prop} (hP : Stable P) (s : State) (p : Nat) (e : Event) (t : Int) (clamp : Bool) (hk : P s) : P (State.commit s p e t clamp) := by
  unfold State.commit
  repeat' first | with_reducible assumption | with_reducible apply keeps_when | with_reducible apply State.set_keeps hP | with_reducible apply State.inc_keeps hP | with_reducible apply State.touch_keeps hP | split | with_reducible refine keeps_with_ing hP ?_ | dsimp only | intro _

theorem State.takeHead_keeps {P : State → Prop} (hP : Stable P) (s : State) (p : Nat) (bad : Bool) (hk : P s) : P (State.takeHead s p bad).1 := by
  unfold State.takeHead
  repeat' first | with_reducible assumption | with_reducible apply State.inc_keeps hP | with_reducible apply State.parityCheck_keeps hP | with_reducible apply State.accept_keeps hP | with_reducible apply State.popHead_keeps hP | with_reducible apply State.commit_keeps hP | split | dsimp only | intro _

theorem State.serve_keeps {P : State → Prop} (hP : Stable P) (s : State) (bad slots : Nat) (l : List Nat) (h : P s) : P (s.serve bad slots l).1 := by
  induction l generalizing s slots with
  | nil => exact h
  | cons p l ih =>
    unfold State.serve
    repeat' first | with_reducible assumption | with_reducible apply ih | with_reducible apply State.takeHead_keeps hP | with_reducible apply State.setPort_keeps hP | split | with_reducible apply keeps_with_ing hP | dsimp only

theorem State.settlePath_keeps {P : State → Prop} (hP : Stable P) (s : State) (p : Nat) (hk : P s) : P (State.settlePath s p) := by
  unfold State.settlePath
  repeat' first | with_reducible assumption | with_reducible apply State.setPort_keeps hP | with_reducible apply State.waterMarks_keeps hP | split | dsimp only | intro _

theorem State.rebaseCycle_keeps {P : State → Prop} (hP : Stable P) (s : State) (bad : Nat) (hk : P s) : P (State.rebaseCycle s bad) := by
  unfold State.rebaseCycle
  repeat' first | with_reducible assumption | with_reducible apply keeps_each | with_reducible apply State.serve_keeps hP | with_reducible apply State.settlePath_keeps hP | split | dsimp only | intro _

theorem execRebaseCycle_keeps {P : State → Prop} (hP : Stable P) (bad : Nat) {s t : State} (h : execRebaseCycle bad s = .next t) (hs : P s) : P t := by
  unfold execRebaseCycle at h
  obtain rfl := Host.Outcome.next.inj h
  repeat' first | with_reducible assumption | with_reducible apply State.rebaseCycle_keeps hP | split | dsimp only | intro _

theorem State.commitTriple_keeps {P : State → Prop} (hP : Stable P) (s : State) (p anchor ofs rate : Nat) (hk : P s) : P (State.commitTriple s p anchor ofs rate) := by
  unfold State.commitTriple
  repeat' first | with_reducible assumption | with_reducible apply State.set_keeps hP | with_reducible apply State.setFlag_keeps hP | split | dsimp only | intro _

theorem State.commitLine_keeps {P : State → Prop} (hP : Stable P) (s : State) (p anchor ofs rate : Nat) (bins : SMap StampPair) (hk : P s) : P (State.commitLine s p anchor ofs rate bins) := by
  unfold State.commitLine
  repeat' first | with_reducible assumption | with_reducible apply keeps_when | with_reducible apply State.set_keeps hP | with_reducible apply State.setFlag_keeps hP | with_reducible apply State.setInt_keeps hP | with_reducible apply State.inc_keeps hP | with_reducible apply State.commitTriple_keeps hP | split | dsimp only | intro _

theorem execFirstTripleCommit_keeps {P : State → Prop} (hP : Stable P) (p : Fin 8) {s t : State} (h : execFirstTripleCommit p s = .next t) (hs : P s) : P t := by
  unfold execFirstTripleCommit at h
  obtain rfl := Host.Outcome.next.inj h
  repeat' first | with_reducible assumption | with_reducible apply keeps_clocked | with_reducible apply State.setPort_keeps hP | with_reducible apply State.commitLine_keeps hP | split | dsimp only | intro _

theorem State.rebaseEstimate_keeps {P : State → Prop} (hP : Stable P) (s : State) (p : Nat) (hk : P s) : P (State.rebaseEstimate s p) := by
  unfold State.rebaseEstimate
  repeat' first | with_reducible assumption | with_reducible apply State.setRb_keeps hP | with_reducible apply State.commitLine_keeps hP | split | dsimp only | intro _

theorem execRebaseEstimate_keeps {P : State → Prop} (hP : Stable P) (p : Fin 8) {s t : State} (h : execRebaseEstimate p s = .next t) (hs : P s) : P t := by
  unfold execRebaseEstimate at h
  obtain rfl := Host.Outcome.next.inj h
  repeat' first | with_reducible assumption | with_reducible apply keeps_clocked | with_reducible apply State.rebaseEstimate_keeps hP | split | dsimp only | intro _

end Sys2Proof.Machine
end

