-- ==== Sys2Proof/Laws/KeepsRings.lean ====
section
/-! SUPPORT. Every operation of Machine/Rings.lean keeps every stable property. -/

set_option linter.unusedTactic false
set_option linter.unreachableTactic false

namespace Sys2Proof.Machine

theorem State.dbErr_keeps {P : State → Prop} (hP : Stable P) (s : State) (f : Nat) (hk : P s) : P (State.dbErr s f) := by
  unfold State.dbErr
  repeat' first | with_reducible assumption | with_reducible apply State.setFlag_keeps hP | split | dsimp only | intro _

theorem State.sqDoorbell_keeps {P : State → Prop} (hP : Stable P) (s : State) (f i v : Nat) (hk : P s) : P (State.sqDoorbell s f i v) := by
  unfold State.sqDoorbell
  repeat' first | with_reducible assumption | with_reducible apply State.setSq_keeps hP | with_reducible apply State.dbErr_keeps hP | split | dsimp only | intro _

theorem State.cqDoorbell_keeps {P : State → Prop} (hP : Stable P) (s : State) (f i v : Nat) (hk : P s) : P (State.cqDoorbell s f i v) := by
  unfold State.cqDoorbell
  repeat' first | with_reducible assumption | with_reducible apply State.setCq_keeps hP | with_reducible apply State.dbErr_keeps hP | split | dsimp only | intro _

theorem State.strDoorbell_keeps {P : State → Prop} (hP : Stable P) (s : State) (f r v : Nat) (hk : P s) : P (State.strDoorbell s f r v) := by
  unfold State.strDoorbell
  repeat' first | with_reducible assumption | with_reducible apply State.setStr_keeps hP | with_reducible apply State.dbErr_keeps hP | split | dsimp only | intro _

theorem State.doorbell_keeps {P : State → Prop} (hP : Stable P) (s : State) (f size : Nat) (h : Held) (act : State → State) (hk : P s) (kact : ∀ t, P t → P (act t)) : P (State.doorbell s f size h act) := by
  unfold State.doorbell
  repeat' first | with_reducible assumption | with_reducible apply kact | with_reducible apply State.touch_keeps hP | with_reducible apply State.hold_keeps hP | with_reducible apply State.transact_keeps hP | with_reducible apply State.dbErr_keeps hP | split | dsimp only | intro _

theorem execSqDoorbell_keeps {P : State → Prop} (hP : Stable P) (f : Fin 8) (i : Fin 4) (size : Nat) (v : Word) {s t : State} (h : execSqDoorbell f i size v s = .next t) (hs : P s) : P t := by
  unfold execSqDoorbell at h
  obtain rfl := Host.Outcome.next.inj h
  repeat' first | with_reducible assumption | with_reducible apply State.sqDoorbell_keeps hP | with_reducible apply State.doorbell_keeps hP | split | dsimp only | intro _

theorem execCqDoorbell_keeps {P : State → Prop} (hP : Stable P) (f : Fin 8) (i : Fin 4) (size : Nat) (v : Word) {s t : State} (h : execCqDoorbell f i size v s = .next t) (hs : P s) : P t := by
  unfold execCqDoorbell at h
  obtain rfl := Host.Outcome.next.inj h
  repeat' first | with_reducible assumption | with_reducible apply State.cqDoorbell_keeps hP | with_reducible apply State.doorbell_keeps hP | split | dsimp only | intro _

theorem execStreamDoorbell_keeps {P : State → Prop} (hP : Stable P) (f : Fin 8) (r : Fin 8) (size : Nat) (v : Word) {s t : State} (h : execStreamDoorbell f r size v s = .next t) (hs : P s) : P t := by
  unfold execStreamDoorbell at h
  obtain rfl := Host.Outcome.next.inj h
  repeat' first | with_reducible assumption | with_reducible apply State.strDoorbell_keeps hP | with_reducible apply State.doorbell_keeps hP | split | dsimp only | intro _

theorem State.fetched_keeps {P : State → Prop} (hP : Stable P) (s : State) (f q cid : Nat) (irq : Bool) (op : Op) (hk : P s) : P (State.fetched s f q cid irq op) := by
  unfold State.fetched
  repeat' first | with_reducible assumption | with_reducible apply State.set_keeps hP | with_reducible apply State.setCq_keeps hP | with_reducible apply State.setCur_keeps hP | split | dsimp only | intro _

theorem State.descriptorFetch_keeps {P : State → Prop} (hP : Stable P) (s : State) (f q : Nat) (res : FetchResult) (hk : P s) : P (State.descriptorFetch s f q res) := by
  unfold State.descriptorFetch
  repeat' first | with_reducible assumption | with_reducible apply State.setFlag_keeps hP | with_reducible apply State.took_keeps hP | with_reducible apply State.complete_keeps hP | with_reducible apply State.trace_keeps hP | with_reducible apply State.fault_keeps hP | with_reducible apply State.fetched_keeps hP | split | with_reducible refine keeps_with_host hP rfl ?_ | dsimp only | intro _

theorem execDescriptorFetch_keeps {P : State → Prop} (hP : Stable P) (f : Fin 8) (q : Fin 4) (res : FetchResult) {s t : State} (h : execDescriptorFetch f q res s = .next t) (hs : P s) : P t := by
  unfold execDescriptorFetch at h
  obtain rfl := Host.Outcome.next.inj h
  repeat' first | with_reducible assumption | with_reducible apply keeps_clocked | with_reducible apply State.descriptorFetch_keeps hP | split | dsimp only | intro _

theorem State.accept_keeps {P : State → Prop} (hP : Stable P) (s : State) (hk : P s) : P (State.accept s) := by
  unfold State.accept
  repeat' first | with_reducible assumption | split | with_reducible refine keeps_with_host hP rfl ?_ | dsimp only | intro _

theorem execNop_keeps {P : State → Prop} (hP : Stable P) (f : Fin 8) (q : Fin 4) {s t : State} (h : execNop f q s = .next t) (hs : P s) : P t := by
  unfold execNop at h
  obtain rfl := Host.Outcome.next.inj h
  repeat' first | with_reducible assumption | with_reducible apply keeps_clocked | with_reducible apply State.complete_keeps hP | split | dsimp only | intro _

theorem execFence_keeps {P : State → Prop} (hP : Stable P) (f : Fin 8) (q : Fin 4) {s t : State} (h : execFence f q s = .next t) (hs : P s) : P t := by
  unfold execFence at h
  obtain rfl := Host.Outcome.next.inj h
  repeat' first | with_reducible assumption | with_reducible apply keeps_clocked | with_reducible apply State.complete_keeps hP | with_reducible apply State.begin_keeps hP | split | dsimp only | intro _

theorem execFenceRelease_keeps {P : State → Prop} (hP : Stable P) (f : Fin 8) (q : Fin 4) {s t : State} (h : execFenceRelease f q s = .next t) (hs : P s) : P t := by
  unfold execFenceRelease at h
  obtain rfl := Host.Outcome.next.inj h
  repeat' first | with_reducible assumption | with_reducible apply keeps_clocked | with_reducible apply State.complete_keeps hP | split | dsimp only | intro _

theorem execLpddrWrite_keeps {P : State → Prop} (hP : Stable P) (f : Fin 8) (q : Fin 4) {s t : State} (h : execLpddrWrite f q s = .next t) (hs : P s) : P t := by
  unfold execLpddrWrite at h
  obtain rfl := Host.Outcome.next.inj h
  repeat' first | with_reducible assumption | with_reducible apply keeps_clocked | with_reducible apply State.complete_keeps hP | with_reducible apply State.begin_keeps hP | split | dsimp only | intro _

theorem execLpddrWriteDone_keeps {P : State → Prop} (hP : Stable P) (hL : Stores P) (f : Fin 8) (q : Fin 4) (data : List Byte) {s t : State} (h : execLpddrWriteDone f q data s = .next t) (hs : P s) : P t := by
  unfold execLpddrWriteDone at h
  obtain rfl := Host.Outcome.next.inj h
  repeat' first | with_reducible assumption | with_reducible apply keeps_clocked | with_reducible apply State.complete_keeps hP | split | with_reducible refine hL.lpddr (fun h => Memory.wf_writeBytes h _ _) ?_ | dsimp only | intro _

theorem State.setStaged_keeps {P : State → Prop} (hP : Stable P) (s : State) (f r : Nat) (l : List Staged) (hk : P s) : P (State.setStaged s f r l) := by
  unfold State.setStaged
  repeat' first | with_reducible assumption | with_reducible apply State.set_keeps hP | with_reducible apply State.setStr_keeps hP | split | dsimp only | intro _

theorem State.countRecord_keeps {P : State → Prop} (hP : Stable P) (s : State) (hk : P s) : P (State.countRecord s) := by
  unfold State.countRecord
  repeat' first | with_reducible assumption | split | with_reducible refine keeps_with_host hP rfl ?_ | dsimp only | intro _

theorem State.countGap_keeps {P : State → Prop} (hP : Stable P) (s : State) (type : Nat) (hk : P s) : P (State.countGap s type) := by
  unfold State.countGap
  repeat' first | with_reducible assumption | with_reducible apply State.inc_keeps hP | split | dsimp only | intro _

theorem State.stage_keeps {P : State → Prop} (hP : Stable P) (s : State) (f r : Nat) (x : Rec) (hk : P s) : P (State.stage s f r x) := by
  unfold State.stage
  repeat' first | with_reducible assumption | with_reducible apply State.inc_keeps hP | with_reducible apply State.touch_keeps hP | with_reducible apply State.setStaged_keeps hP | with_reducible apply State.countRecord_keeps hP | with_reducible apply State.countGap_keeps hP | split | dsimp only | intro _

theorem State.stageNext_keeps {P : State → Prop} (hP : Stable P) (s : State) (bad : Bool) (hk : P s) : P (State.stageNext s bad) := by
  unfold State.stageNext
  repeat' first | with_reducible assumption | with_reducible apply State.parityCheck_keeps hP | with_reducible apply State.stage_keeps hP | split | with_reducible refine keeps_with_host hP rfl ?_ | dsimp only | intro _

theorem execRecordStaging_keeps {P : State → Prop} (hP : Stable P) (parity : Bool) {s t : State} (h : execRecordStaging parity s = .next t) (hs : P s) : P t := by
  unfold execRecordStaging at h
  obtain rfl := Host.Outcome.next.inj h
  repeat' first | with_reducible assumption | with_reducible apply keeps_clocked | with_reducible apply State.stageNext_keeps hP | split | dsimp only | intro _

theorem State.stageAll_keeps {P : State → Prop} (hP : Stable P) (s : State) (hk : P s) : P (State.stageAll s) := by
  unfold State.stageAll
  repeat' first | with_reducible assumption | with_reducible apply keeps_each | with_reducible apply State.stageNext_keeps hP | split | dsimp only | intro _

theorem State.setCv_keeps {P : State → Prop} (hP : Stable P) (s : State) (c : Canvas) (hk : P s) : P (State.setCv s c) := by
  unfold State.setCv
  repeat' first | with_reducible assumption | split | with_reducible refine keeps_with_cv hP ?_ | dsimp only | intro _

theorem State.setTap_keeps {P : State → Prop} (hP : Stable P) (s : State) (e : Nat) (c : Bool) (t : Tap) (hk : P s) : P (State.setTap s e c t) := by
  unfold State.setTap
  repeat' first | with_reducible assumption | with_reducible apply State.set_keeps hP | with_reducible apply State.setCv_keeps hP | split | dsimp only | intro _

theorem State.passTap_keeps {P : State → Prop} (hP : Stable P) (s : State) (e : Nat) (c : Bool) (hk : P s) : P (State.passTap s e c) := by
  unfold State.passTap
  repeat' first | with_reducible assumption | with_reducible apply State.stage_keeps hP | with_reducible apply State.setTap_keeps hP | split | dsimp only | intro _

theorem State.closeTap_keeps {P : State → Prop} (hP : Stable P) (s : State) (e : Nat) (c : Bool) (hk : P s) : P (State.closeTap s e c) := by
  unfold State.closeTap
  repeat' first | with_reducible assumption | with_reducible apply State.setTap_keeps hP | with_reducible apply State.passTap_keeps hP | split | dsimp only | intro _

theorem State.closeTaps_keeps {P : State → Prop} (hP : Stable P) (s : State) (hk : P s) : P (State.closeTaps s) := by
  unfold State.closeTaps
  repeat' first | with_reducible assumption | with_reducible apply keeps_each | with_reducible apply State.closeTap_keeps hP | split | dsimp only | intro _

theorem execTapRecordClose_keeps {P : State → Prop} (hP : Stable P) (e : Fin 8) (corner : Bool) {s t : State} (h : execTapRecordClose e corner s = .next t) (hs : P s) : P t := by
  unfold execTapRecordClose at h
  obtain rfl := Host.Outcome.next.inj h
  repeat' first | with_reducible assumption | with_reducible apply keeps_clocked | with_reducible apply State.closeTap_keeps hP | split | dsimp only | intro _

theorem State.tapEntry_keeps {P : State → Prop} (hP : Stable P) (s : State) (e : Nat) (c : Bool) (b : List Byte) (poison : Bool) (hk : P s) : P (State.tapEntry s e c b poison) := by
  unfold State.tapEntry
  repeat' first | with_reducible assumption | with_reducible apply State.inc_keeps hP | with_reducible apply State.setTap_keeps hP | with_reducible apply State.closeTap_keeps hP | split | dsimp only | intro _

theorem State.writeRecord_keeps {P : State → Prop} (hP : Stable P) (s : State) (f r : Nat) (x : Rec) (z : Nat) (hk : P s) : P (State.writeRecord s f r x z) := by
  unfold State.writeRecord
  repeat' first | with_reducible assumption | with_reducible apply keeps_when | with_reducible apply State.set_keeps hP | with_reducible apply State.raise_keeps hP | with_reducible apply State.post_keeps hP | with_reducible apply State.setStr_keeps hP | split | dsimp only | intro _

theorem State.countIrq_keeps {P : State → Prop} (hP : Stable P) (s : State) (f r : Nat) (hk : P s) : P (State.countIrq s f r) := by
  unfold State.countIrq
  repeat' first | with_reducible assumption | with_reducible apply State.raise_keeps hP | with_reducible apply State.setStr_keeps hP | with_reducible apply State.count_keeps hP | split | dsimp only | intro _

theorem State.releaseRecord_keeps {P : State → Prop} (hP : Stable P) (s : State) (f id : Nat) (hk : P s) : P (State.releaseRecord s f id) := by
  unfold State.releaseRecord
  repeat' first | with_reducible assumption | with_reducible apply keeps_each | with_reducible apply State.setCur_keeps hP | split | dsimp only | intro _

theorem State.feedOne_keeps {P : State → Prop} (hP : Stable P) (s : State) (f q r : Nat) (hk : P s) : P (State.feedOne s f q r) := by
  unfold State.feedOne
  repeat' first | with_reducible assumption | with_reducible apply State.setCur_keeps hP | with_reducible apply State.stage_keeps hP | split | dsimp only | intro _

theorem State.feed_keeps {P : State → Prop} (hP : Stable P) (s : State) (f q r : Nat) (hk : P s) : P (State.feed s f q r) := by
  unfold State.feed
  repeat' first | with_reducible assumption | with_reducible apply keeps_each | with_reducible apply State.feedOne_keeps hP | split | dsimp only | intro _

theorem State.endWriter_keeps {P : State → Prop} (hP : Stable P) (s : State) (f q r seq : Nat) (hk : P s) : P (State.endWriter s f q r seq) := by
  unfold State.endWriter
  repeat' first | with_reducible assumption | with_reducible apply State.complete_keeps hP | with_reducible apply State.stage_keeps hP | split | dsimp only | intro _

theorem State.writersGoOn_keeps {P : State → Prop} (hP : Stable P) (s : State) (f r seq : Nat) (hk : P s) : P (State.writersGoOn s f r seq) := by
  unfold State.writersGoOn
  repeat' first | with_reducible assumption | with_reducible apply keeps_each | with_reducible apply State.feed_keeps hP | with_reducible apply State.endWriter_keeps hP | split | dsimp only | intro _

theorem State.beginWriter_keeps {P : State → Prop} (hP : Stable P) (s : State) (f q r : Nat) (chunks : List Rec) (result : Nat) (hk : P s) : P (State.beginWriter s f q r chunks result) := by
  unfold State.beginWriter
  repeat' first | with_reducible assumption | with_reducible apply State.setCur_keeps hP | with_reducible apply State.complete_keeps hP | with_reducible apply State.stage_keeps hP | with_reducible apply State.feed_keeps hP | split | dsimp only | intro _

theorem State.writeStaged_keeps {P : State → Prop} (hP : Stable P) (s : State) (f r : Nat) (x : Staged) (l : List Staged) (hk : P s) : P (State.writeStaged s f r x l) := by
  unfold State.writeStaged
  repeat' first | with_reducible assumption | with_reducible apply keeps_when | with_reducible apply State.inc_keeps hP | with_reducible apply State.setStaged_keeps hP | with_reducible apply State.writeRecord_keeps hP | with_reducible apply State.countIrq_keeps hP | with_reducible apply State.releaseRecord_keeps hP | with_reducible apply State.writersGoOn_keeps hP | split | dsimp only | intro _

theorem State.streamWrite_keeps {P : State → Prop} (hP : Stable P) (s : State) (f r : Nat) (ecc : Ecc) (hk : P s) : P (State.streamWrite s f r ecc) := by
  unfold State.streamWrite
  repeat' first | with_reducible assumption | with_reducible apply State.took_keeps hP | with_reducible apply State.copyRead_keeps hP | with_reducible apply State.closeTaps_keeps hP | with_reducible apply State.writeRecord_keeps hP | with_reducible apply State.countIrq_keeps hP | with_reducible apply State.writeStaged_keeps hP | split | dsimp only | intro _

theorem execStreamRecordWrite_keeps {P : State → Prop} (hP : Stable P) (f : Fin 8) (r : Fin 8) (ecc : Ecc) {s t : State} (h : execStreamRecordWrite f r ecc s = .next t) (hs : P s) : P t := by
  unfold execStreamRecordWrite at h
  obtain rfl := Host.Outcome.next.inj h
  repeat' first | with_reducible assumption | with_reducible apply keeps_clocked | with_reducible apply State.streamWrite_keeps hP | split | dsimp only | intro _

theorem execStreamIrqTimeout_keeps {P : State → Prop} (hP : Stable P) (f : Fin 8) (r : Fin 8) {s t : State} (h : execStreamIrqTimeout f r s = .next t) (hs : P s) : P t := by
  unfold execStreamIrqTimeout at h
  obtain rfl := Host.Outcome.next.inj h
  repeat' first | with_reducible assumption | with_reducible apply keeps_clocked | with_reducible apply State.raise_keeps hP | with_reducible apply State.setStr_keeps hP | split | dsimp only | intro _

theorem State.ringErr_keeps {P : State → Prop} (hP : Stable P) (s : State) (f : Nat) (hk : P s) : P (State.ringErr s f) := by
  unfold State.ringErr
  repeat' first | with_reducible assumption | with_reducible apply State.setFlag_keeps hP | split | dsimp only | intro _

theorem State.dropCq_keeps {P : State → Prop} (hP : Stable P) (s : State) (f i : Nat) (hk : P s) : P (State.dropCq s f i) := by
  unfold State.dropCq
  repeat' first | with_reducible assumption | with_reducible apply keeps_each | with_reducible apply State.setCur_keeps hP | split | dsimp only | intro _

theorem State.stopRingUsers_keeps {P : State → Prop} (hP : Stable P) (s : State) (f r : Nat) (hk : P s) : P (State.stopRingUsers s f r) := by
  unfold State.stopRingUsers
  repeat' first | with_reducible assumption | with_reducible apply keeps_each | with_reducible apply State.complete_keeps hP | split | dsimp only | intro _

theorem State.discardStaged_keeps {P : State → Prop} (hP : Stable P) (s : State) (f r : Nat) (hk : P s) : P (State.discardStaged s f r) := by
  unfold State.discardStaged
  repeat' first | with_reducible assumption | with_reducible apply keeps_each | with_reducible apply State.add_keeps hP | with_reducible apply State.setStaged_keeps hP | with_reducible apply State.releaseRecord_keeps hP | split | dsimp only | intro _

theorem State.setSqCfg_keeps {P : State → Prop} (hP : Stable P) (s : State) (f i v : Nat) (hk : P s) : P (State.setSqCfg s f i v) := by
  unfold State.setSqCfg
  repeat' first | with_reducible assumption | with_reducible apply keeps_when | with_reducible apply State.set_keeps hP | with_reducible apply State.setSq_keeps hP | split | dsimp only | intro _

theorem State.setCqCfg_keeps {P : State → Prop} (hP : Stable P) (s : State) (f i v : Nat) (hk : P s) : P (State.setCqCfg s f i v) := by
  unfold State.setCqCfg
  repeat' first | with_reducible assumption | with_reducible apply State.set_keeps hP | with_reducible apply State.setCq_keeps hP | with_reducible apply State.dropCq_keeps hP | split | dsimp only | intro _

theorem State.setStrCfg_keeps {P : State → Prop} (hP : Stable P) (s : State) (f r v : Nat) (hk : P s) : P (State.setStrCfg s f r v) := by
  unfold State.setStrCfg
  repeat' first | with_reducible assumption | with_reducible apply State.set_keeps hP | with_reducible apply State.post_keeps hP | with_reducible apply State.setStr_keeps hP | with_reducible apply State.closeTaps_keeps hP | with_reducible apply State.stopRingUsers_keeps hP | with_reducible apply State.discardStaged_keeps hP | split | dsimp only | intro _

theorem State.ringCfg_keeps {P : State → Prop} (hP : Stable P) (s : State) (k : RingKind) (f i v : Nat) (hk : P s) : P (State.ringCfg s k f i v) := by
  unfold State.ringCfg
  repeat' first | with_reducible assumption | with_reducible apply State.ringErr_keeps hP | with_reducible apply State.setSqCfg_keeps hP | with_reducible apply State.setCqCfg_keeps hP | with_reducible apply State.setStrCfg_keeps hP | split | dsimp only | intro _

theorem execRingEnable_keeps {P : State → Prop} (hP : Stable P) (k : RingKind) (f : Fin 8) (i : Fin 8) (v : Word) {s t : State} (h : execRingEnable k f i v s = .next t) (hs : P s) : P t := by
  unfold execRingEnable at h
  obtain rfl := Host.Outcome.next.inj h
  repeat' first | with_reducible assumption | with_reducible apply State.bus_keeps hP | with_reducible apply State.ringCfg_keeps hP | split | dsimp only | intro _

theorem execRingDisable_keeps {P : State → Prop} (hP : Stable P) (f : Fin 8) (r : Fin 8) (v : Word) {s t : State} (h : execRingDisable f r v s = .next t) (hs : P s) : P t := by
  unfold execRingDisable at h
  obtain rfl := Host.Outcome.next.inj h
  repeat' first | with_reducible assumption | with_reducible apply State.bus_keeps hP | with_reducible apply State.ringCfg_keeps hP | split | dsimp only | intro _

theorem execLossAck_keeps {P : State → Prop} (hP : Stable P) (f : Fin 8) (v : Word) {s t : State} (h : execLossAck f v s = .next t) (hs : P s) : P t := by
  unfold execLossAck at h
  obtain rfl := Host.Outcome.next.inj h
  repeat' first | with_reducible assumption | with_reducible apply State.set_keeps hP | with_reducible apply State.bus_keeps hP | split | dsimp only | intro _

theorem State.idleFrom_keeps {P : State → Prop} (hP : Stable P) (s t : State) (hk : P t) : P (State.idleFrom s t) := by
  unfold State.idleFrom
  repeat' first | with_reducible assumption | with_reducible apply State.touch_keeps hP | split | dsimp only

end Sys2Proof.Machine
end

