-- ==== Sys2Proof/Laws/KeepsCanvas.lean ====
section
/-! SUPPORT. Every operation of Machine/Canvas.lean keeps every stable property. -/

set_option linter.unusedTactic false
set_option linter.unreachableTactic false

namespace Sys2Proof.Machine

theorem State.writeEntry_keeps {P : State → Prop} (hP : Stable P) (s : State) (e k v : Nat) (hk : P s) : P (State.writeEntry s e k v) := by
  unfold State.writeEntry
  repeat' first | with_reducible assumption | with_reducible apply State.set_keeps hP | with_reducible apply State.setCv_keeps hP | split | dsimp only | intro _

theorem State.markDirty_keeps {P : State → Prop} (hP : Stable P) (s : State) (n p x y : Nat) (pol : Bool) (hk : P s) : P (State.markDirty s n p x y pol) := by
  unfold State.markDirty
  repeat' first | with_reducible assumption | with_reducible apply State.setCv_keeps hP | split | dsimp only | intro _

theorem State.markWhole_keeps {P : State → Prop} (hP : Stable P) (s : State) (n p x y : Nat) (hk : P s) : P (State.markWhole s n p x y) := by
  unfold State.markWhole
  repeat' first | with_reducible assumption | with_reducible apply State.setCv_keeps hP | split | dsimp only | intro _

theorem State.schedule_keeps {P : State → Prop} (hP : Stable P) (s : State) (e p tx ty m : Nat) (hk : P s) : P (State.schedule s e p tx ty m) := by
  unfold State.schedule
  repeat' first | with_reducible assumption | with_reducible apply State.set_keeps hP | with_reducible apply State.setCv_keeps hP | split | dsimp only | intro _

theorem State.decimate_keeps {P : State → Prop} (hP : Stable P) (s : State) (k d : Nat) (hk : P s) : P (State.decimate s k d).1 := by
  unfold State.decimate
  repeat' first | with_reducible assumption | with_reducible apply State.set_keeps hP | with_reducible apply State.setCv_keeps hP | split | dsimp only | intro _

theorem State.tapEvent_keeps {P : State → Prop} (hP : Stable P) (s : State) (e p w : Nat) (poison : Bool) (hk : P s) : P (State.tapEvent s e p w poison) := by
  unfold State.tapEvent
  repeat' first | with_reducible assumption | with_reducible apply State.tapEntry_keeps hP | with_reducible apply State.decimate_keeps hP | split | dsimp only | intro _

theorem State.tapCorner_keeps {P : State → Prop} (hP : Stable P) (s : State) (e w : Nat) (corner : Bool) (flow : Option (Nat × Nat)) (poison : Bool) (hk : P s) : P (State.tapCorner s e w corner flow poison) := by
  unfold State.tapCorner
  repeat' first | with_reducible assumption | with_reducible apply State.tapEntry_keeps hP | with_reducible apply State.decimate_keeps hP | split | dsimp only | intro _

theorem State.reinit_keeps {P : State → Prop} (hP : Stable P) (s : State) (e p x y k : Nat) (hk : P s) : P (State.reinit s e p x y k) := by
  unfold State.reinit
  repeat' first | with_reducible assumption | with_reducible apply State.inc_keeps hP | with_reducible apply State.fault_keeps hP | with_reducible apply State.setCv_keeps hP | with_reducible apply State.writeEntry_keeps hP | with_reducible apply State.markDirty_keeps hP | split | dsimp only | intro _

theorem State.checkEntry_keeps {P : State → Prop} (hP : Stable P) (s : State) (k : Nat) (ecc : Ecc) (hk : P s) : P (State.checkEntry s k ecc) := by
  unfold State.checkEntry
  repeat' first | with_reducible assumption | with_reducible apply State.eccRead_keeps hP | split | dsimp only | intro _

theorem State.readPixel_keeps {P : State → Prop} (hP : Stable P) (s : State) (e p : Nat) (hits : List MemHit) (q : Nat × Nat) (hk : P s) : P (State.readPixel s e p hits q) := by
  unfold State.readPixel
  repeat' first | with_reducible assumption | with_reducible apply keeps_when | with_reducible apply State.reinit_keeps hP | with_reducible apply State.checkEntry_keeps hP | split | dsimp only | intro _

theorem State.readPixels_keeps {P : State → Prop} (hP : Stable P) (s : State) (e p : Nat) (hits : List MemHit) (l : List (Nat × Nat)) (hk : P s) : P (State.readPixels s e p hits l) := by
  unfold State.readPixels
  repeat' first | with_reducible assumption | with_reducible apply keeps_each | with_reducible apply State.readPixel_keeps hP | split | dsimp only | intro _

theorem State.markCommit_keeps {P : State → Prop} (hP : Stable P) (s : State) (p x y : Nat) (pol coal : Bool) (p0 p1 : Pixel) (raised : Bool) (hk : P s) : P (State.markCommit s p x y pol coal p0 p1 raised) := by
  unfold State.markCommit
  repeat' first | with_reducible assumption | with_reducible apply keeps_when | with_reducible apply State.markDirty_keeps hP | with_reducible apply State.markWhole_keeps hP | with_reducible apply State.schedule_keeps hP | split | dsimp only | intro _

theorem State.apply_keeps {P : State → Prop} (hP : Stable P) (s : State) (e w : Nat) (hits : List MemHit) (hk : P s) : P (State.apply s e w hits) := by
  unfold State.apply
  repeat' first | with_reducible assumption | with_reducible apply keeps_when | with_reducible apply State.set_keeps hP | with_reducible apply State.inc_keeps hP | with_reducible apply State.took_keeps hP | with_reducible apply State.raise_keeps hP | with_reducible apply State.count_keeps hP | with_reducible apply State.setTrace_keeps hP | with_reducible apply State.trace_keeps hP | with_reducible apply State.setCv_keeps hP | with_reducible apply State.writeEntry_keeps hP | with_reducible apply State.tapEvent_keeps hP | with_reducible apply State.tapCorner_keeps hP | with_reducible apply State.readPixels_keeps hP | with_reducible apply State.markCommit_keeps hP | split | dsimp only | intro _

theorem State.surfaceUpdate_keeps {P : State → Prop} (hP : Stable P) (s : State) (e : Nat) (hits : List MemHit) (parity : Bool) (hk : P s) : P (State.surfaceUpdate s e hits parity) := by
  unfold State.surfaceUpdate
  repeat' first | with_reducible assumption | with_reducible apply State.set_keeps hP | with_reducible apply State.parityCheck_keeps hP | with_reducible apply State.readPixel_keeps hP | with_reducible apply State.apply_keeps hP | split | with_reducible refine keeps_with_ing hP ?_ | dsimp only | intro _

theorem execSurfaceUpdate_keeps {P : State → Prop} (hP : Stable P) (e : Fin 8) (hits : List MemHit) (parity : Bool) {s t : State} (h : execSurfaceUpdate e hits parity s = .next t) (hs : P s) : P t := by
  unfold execSurfaceUpdate at h
  obtain rfl := Host.Outcome.next.inj h
  repeat' first | with_reducible assumption | with_reducible apply keeps_clocked | with_reducible apply State.surfaceUpdate_keeps hP | split | dsimp only | intro _

theorem State.flowFit_keeps {P : State → Prop} (hP : Stable P) (s : State) (e : Nat) (hits : List MemHit) (hk : P s) : P (State.flowFit s e hits) := by
  unfold State.flowFit
  repeat' first | with_reducible assumption | with_reducible apply State.set_keeps hP | with_reducible apply State.inc_keeps hP | with_reducible apply State.took_keeps hP | with_reducible apply State.setCv_keeps hP | with_reducible apply State.tapCorner_keeps hP | with_reducible apply State.readPixels_keeps hP | split | dsimp only | intro _

theorem execFlowFit_keeps {P : State → Prop} (hP : Stable P) (e : Fin 8) (hits : List MemHit) {s t : State} (h : execFlowFit e hits s = .next t) (hs : P s) : P t := by
  unfold execFlowFit at h
  obtain rfl := Host.Outcome.next.inj h
  repeat' first | with_reducible assumption | with_reducible apply keeps_clocked | with_reducible apply State.flowFit_keeps hP | split | dsimp only | intro _

theorem execStaleSweepVisit_keeps {P : State → Prop} (hP : Stable P) (p : Fin 8) (x : Nat) (y : Nat) (hits : List MemHit) {s t : State} (h : execStaleSweepVisit p x y hits s = .next t) (hs : P s) : P t := by
  unfold execStaleSweepVisit at h
  obtain rfl := Host.Outcome.next.inj h
  repeat' first | with_reducible assumption | with_reducible apply keeps_clocked | with_reducible apply State.add_keeps hP | with_reducible apply State.writeEntry_keeps hP | with_reducible apply State.readPixel_keeps hP | split | dsimp only | intro _

theorem execRegionInit_keeps {P : State → Prop} (hP : Stable P) (p : Fin 8) {s t : State} (h : execRegionInit p s = .next t) (hs : P s) : P t := by
  unfold execRegionInit at h
  obtain rfl := Host.Outcome.next.inj h
  repeat' first | with_reducible assumption | with_reducible apply keeps_clocked | with_reducible apply State.setCv_keeps hP | split | dsimp only | intro _

theorem State.newRegion_keeps {P : State → Prop} (hP : Stable P) (s : State) (p : Nat) (hk : P s) : P (State.newRegion s p) := by
  unfold State.newRegion
  repeat' first | with_reducible assumption | with_reducible apply keeps_when | with_reducible apply State.setCv_keeps hP | split | dsimp only | intro _

theorem execCanvasStaleMark_keeps {P : State → Prop} (hP : Stable P) {s t : State} (h : execCanvasStaleMark s = .next t) (hs : P s) : P t := by
  unfold execCanvasStaleMark at h
  obtain rfl := Host.Outcome.next.inj h
  repeat' first | with_reducible assumption | with_reducible apply keeps_clocked | with_reducible apply State.setCv_keeps hP | split | with_reducible refine keeps_with_ctl hP ?_ | dsimp only | intro _

theorem State.writeRegion_keeps {P : State → Prop} (hP : Stable P) (s : State) (p half v : Nat) (hk : P s) : P (State.writeRegion s p half v) := by
  unfold State.writeRegion
  repeat' first | with_reducible assumption | with_reducible apply keeps_when | with_reducible apply State.set_keeps hP | with_reducible apply State.newRegion_keeps hP | split | dsimp only | intro _

theorem State.scanTile_keeps {P : State → Prop} (hP : Stable P) (s : State) (e n p tx ty : Nat) (hits : List MemHit) (hk : P s) : P (State.scanTile s e n p tx ty hits) := by
  unfold State.scanTile
  repeat' first | with_reducible assumption | with_reducible apply keeps_each | with_reducible apply keeps_foldl | with_reducible apply State.add_keeps hP | with_reducible apply State.markDirty_keeps hP | with_reducible apply State.schedule_keeps hP | with_reducible apply State.readPixels_keeps hP | split | dsimp only | intro _

theorem State.clearSlot_keeps {P : State → Prop} (hP : Stable P) (s : State) (e slot : Nat) (hk : P s) : P (State.clearSlot s e slot) := by
  unfold State.clearSlot
  repeat' first | with_reducible assumption | with_reducible apply State.setCv_keeps hP | split | dsimp only | intro _

theorem State.scanSlot_keeps {P : State → Prop} (hP : Stable P) (s : State) (e n : Nat) (hits : List MemHit) (hk : P s) : P (State.scanSlot s e n hits) := by
  unfold State.scanSlot
  repeat' first | with_reducible assumption | with_reducible apply keeps_each | with_reducible apply State.scanTile_keeps hP | with_reducible apply State.clearSlot_keeps hP | split | dsimp only | intro _

end Sys2Proof.Machine
end

