-- ==== Sys2Proof/Laws/KeepsDense.lean ====
section
/-! SUPPORT. Every operation of Machine/Dense.lean keeps every stable property. -/

set_option linter.unusedTactic false
set_option linter.unreachableTactic false

namespace Sys2Proof.Machine

theorem State.setTns_keeps {P : State → Prop} (hP : Stable P) (s : State) (d : Dense) (hk : P s) : P (State.setTns s d) := by
  unfold State.setTns
  repeat' first | with_reducible assumption | split | with_reducible refine keeps_with_tns hP ?_ | dsimp only | intro _

theorem State.modifyWork_keeps {P : State → Prop} (hP : Stable P) (s : State) (f : ConfigSet → ConfigSet) (hk : P s) : P (State.modifyWork s f) := by
  unfold State.modifyWork
  repeat' first | with_reducible assumption | split | with_reducible refine keeps_with_active hP ?_ | with_reducible refine keeps_with_shadow hP ?_ | dsimp only | intro _

theorem State.setLayer_keeps {P : State → Prop} (hP : Stable P) (s : State) (i : Nat) (l : LayerSt) (hk : P s) : P (State.setLayer s i l) := by
  unfold State.setLayer
  repeat' first | with_reducible assumption | with_reducible apply State.set_keeps hP | with_reducible apply State.modifyWork_keeps hP | split | dsimp only | intro _

theorem State.checkWord_keeps {P : State → Prop} (hP : Stable P) (s : State) (l : LayerSt) (h : MemHit) (hk : P s) : P (State.checkWord s l h).1 := by
  unfold State.checkWord
  repeat' first | with_reducible assumption | with_reducible apply State.took_keeps hP | with_reducible apply State.eccRead_keeps hP | split | dsimp only | intro _

theorem State.readLayer_keeps {P : State → Prop} (hP : Stable P) (s : State) (hits : List MemHit) (i : Nat) (hk : P s) : P (State.readLayer s hits i) := by
  unfold State.readLayer
  repeat' first | with_reducible assumption | with_reducible apply keeps_each | with_reducible apply State.setLayer_keeps hP | with_reducible apply State.checkWord_keeps hP | split | dsimp only | intro _

theorem State.sawNan_keeps {P : State → Prop} (hP : Stable P) (s : State) (i : Nat) (hk : P s) : P (State.sawNan s i) := by
  unfold State.sawNan
  repeat' first | with_reducible assumption | with_reducible apply State.setFlag_keeps hP | with_reducible apply State.setTns_keeps hP | split | dsimp only | intro _

theorem State.endUnit_keeps {P : State → Prop} (hP : Stable P) (s : State) (hk : P s) : P (State.endUnit s) := by
  unfold State.endUnit
  repeat' first | with_reducible assumption | with_reducible apply State.set_keeps hP | with_reducible apply State.setFlag_keeps hP | with_reducible apply State.setTns_keeps hP | split | dsimp only | intro _

theorem State.evalStatus_keeps {P : State → Prop} (hP : Stable P) (s : State) (i : Nat) (e : Eval) (hk : P s) : P (State.evalStatus s i e) := by
  unfold State.evalStatus
  repeat' first | with_reducible assumption | with_reducible apply keeps_when | with_reducible apply State.setFlag_keeps hP | with_reducible apply State.count_keeps hP | with_reducible apply State.sawNan_keeps hP | split | dsimp only | intro _

theorem State.countSlots_keeps {P : State → Prop} (hP : Stable P) (s : State) (i n skipped : Nat) (hk : P s) : P (State.countSlots s i n skipped) := by
  unfold State.countSlots
  repeat' first | with_reducible assumption | with_reducible apply State.count_keeps hP | split | dsimp only | intro _

theorem State.showTaint_keeps {P : State → Prop} (hP : Stable P) (s : State) (hk : P s) : P (State.showTaint s) := by
  unfold State.showTaint
  repeat' first | with_reducible assumption | with_reducible apply State.setFlag_keeps hP | split | dsimp only | intro _

theorem State.taintAll_keeps {P : State → Prop} (hP : Stable P) (s : State) (n : Nat) (hk : P s) : P (State.taintAll s n) := by
  unfold State.taintAll
  repeat' first | with_reducible assumption | with_reducible apply keeps_each | with_reducible apply State.setTns_keeps hP | with_reducible apply State.setLayer_keeps hP | with_reducible apply State.showTaint_keeps hP | split | dsimp only | intro _

theorem State.change_keeps {P : State → Prop} (hP : Stable P) (s : State) (p i new : Nat) (poison : Bool) (hk : P s) : P (State.change s p i new poison) := by
  unfold State.change
  repeat' first | with_reducible assumption | with_reducible apply State.set_keeps hP | with_reducible apply State.modifyWork_keeps hP | with_reducible apply State.setLayer_keeps hP | split | dsimp only | intro _

theorem State.produce_keeps {P : State → Prop} (hP : Stable P) (s : State) (p i new : Nat) (poison : Bool) (hk : P s) : P (State.produce s p i new poison) := by
  unfold State.produce
  repeat' first | with_reducible assumption | with_reducible apply State.set_keeps hP | with_reducible apply State.setLayer_keeps hP | with_reducible apply State.change_keeps hP | split | dsimp only | intro _

theorem State.receive_keeps {P : State → Prop} (hP : Stable P) (s : State) (k : DeltaPacket) (hk : P s) : P (State.receive s k) := by
  unfold State.receive
  repeat' first | with_reducible assumption | with_reducible apply State.inc_keeps hP | with_reducible apply State.setLayer_keeps hP | split | dsimp only | intro _

theorem State.countAbsorbed_keeps {P : State → Prop} (hP : Stable P) (s : State) (i : Nat) (hk : P s) : P (State.countAbsorbed s i) := by
  unfold State.countAbsorbed
  repeat' first | with_reducible assumption | with_reducible apply State.add_keeps hP | with_reducible apply State.count_keeps hP | split | dsimp only | intro _

theorem State.storePass_keeps {P : State → Prop} (hP : Stable P) (s : State) (i o : Nat) (r : PassOut) (hk : P s) : P (State.storePass s i o r) := by
  unfold State.storePass
  repeat' first | with_reducible assumption | with_reducible apply keeps_when | with_reducible apply State.set_keeps hP | with_reducible apply State.setFlag_keeps hP | with_reducible apply State.setLayer_keeps hP | with_reducible apply State.sawNan_keeps hP | with_reducible apply State.countSlots_keeps hP | split | dsimp only | intro _

theorem State.deltaPass_keeps {P : State → Prop} (hP : Stable P) (s : State) (i lv : Nat) (hk : P s) : P (State.deltaPass s i lv) := by
  unfold State.deltaPass
  repeat' first | with_reducible assumption | with_reducible apply keeps_each | with_reducible apply State.setLayer_keeps hP | with_reducible apply State.countAbsorbed_keeps hP | with_reducible apply State.storePass_keeps hP | split | dsimp only | intro _

theorem execDeltaPacket_keeps {P : State → Prop} (hP : Stable P) (i : Nat) (pass parity : Bool) (hits : List MemHit) {s t : State} (h : execDeltaPacket i pass parity hits s = .next t) (hs : P s) : P t := by
  unfold execDeltaPacket at h
  obtain rfl := Host.Outcome.next.inj h
  repeat' first | with_reducible assumption | with_reducible apply keeps_when | with_reducible apply keeps_clocked | with_reducible apply State.parityCheck_keeps hP | with_reducible apply State.pass_keeps hP | with_reducible apply State.modifyWork_keeps hP | with_reducible apply State.readLayer_keeps hP | with_reducible apply State.receive_keeps hP | with_reducible apply State.deltaPass_keeps hP | split | dsimp only | intro _

theorem State.fillDone_keeps {P : State → Prop} (hP : Stable P) (s : State) (hk : P s) : P (State.fillDone s) := by
  unfold State.fillDone
  repeat' first | with_reducible assumption | with_reducible apply State.modifyWork_keeps hP | split | dsimp only | intro _

theorem State.fillAll_keeps {P : State → Prop} (hP : Stable P) (s : State) (hk : P s) : P (State.fillAll s) := by
  unfold State.fillAll
  repeat' first | with_reducible assumption | with_reducible apply State.modifyWork_keeps hP | split | dsimp only | intro _

theorem State.evalMark_keeps {P : State → Prop} (hP : Stable P) (s : State) (i o : Nat) (hk : P s) : P (State.evalMark s i o) := by
  unfold State.evalMark
  repeat' first | with_reducible assumption | with_reducible apply State.setLayer_keeps hP | with_reducible apply State.evalStatus_keeps hP | with_reducible apply State.produce_keeps hP | split | dsimp only | intro _

theorem State.recomputePend_keeps {P : State → Prop} (hP : Stable P) (s : State) (i : Nat) (hk : P s) : P (State.recomputePend s i) := by
  unfold State.recomputePend
  repeat' first | with_reducible assumption | with_reducible apply keeps_each | with_reducible apply State.setLayer_keeps hP | with_reducible apply State.evalStatus_keeps hP | with_reducible apply State.produce_keeps hP | with_reducible apply State.countAbsorbed_keeps hP | split | dsimp only | intro _

theorem State.evaluateLayer_keeps {P : State → Prop} (hP : Stable P) (s : State) (i n : Nat) (hk : P s) : P (State.evaluateLayer s i n) := by
  unfold State.evaluateLayer
  repeat' first | with_reducible assumption | with_reducible apply keeps_each | with_reducible apply State.deltaPass_keeps hP | with_reducible apply State.evalMark_keeps hP | with_reducible apply State.recomputePend_keeps hP | split | dsimp only | intro _

theorem execLayerEvaluation_keeps {P : State → Prop} (hP : Stable P) (l n : Nat) (hits : List MemHit) {s t : State} (h : execLayerEvaluation l n hits s = .next t) (hs : P s) : P t := by
  unfold execLayerEvaluation at h
  obtain rfl := Host.Outcome.next.inj h
  repeat' first | with_reducible assumption | with_reducible apply keeps_clocked | with_reducible apply State.readLayer_keeps hP | with_reducible apply State.fillDone_keeps hP | with_reducible apply State.evaluateLayer_keeps hP | split | dsimp only | intro _

theorem State.convertElem_keeps {P : State → Prop} (hP : Stable P) (s : State) (i x y : Nat) (pol : Bool) (u : Nat) (hits : List MemHit) (hk : P s) : P (State.convertElem s i x y pol u hits) := by
  unfold State.convertElem
  repeat' first | with_reducible assumption | with_reducible apply keeps_each | with_reducible apply State.inc_keeps hP | with_reducible apply State.took_keeps hP | with_reducible apply State.checkEntry_keeps hP | with_reducible apply State.produce_keeps hP | split | dsimp only | intro _

theorem State.convertTile_keeps {P : State → Prop} (hP : Stable P) (s : State) (t : ConvTile) (u : Nat) (hits : List MemHit) (hk : P s) : P (State.convertTile s t u hits) := by
  unfold State.convertTile
  repeat' first | with_reducible assumption | with_reducible apply keeps_each | with_reducible apply State.readLayer_keeps hP | with_reducible apply State.convertElem_keeps hP | split | dsimp only | intro _

theorem State.convertTiles_keeps {P : State → Prop} (hP : Stable P) (s : State) (n : Nat) (hits : List MemHit) (l : Nat) (hk : P s) : P (State.convertTiles s n hits l) := by
  fun_induction State.convertTiles <;> (repeat' first | with_reducible assumption | with_reducible apply_assumption | with_reducible apply State.setTns_keeps hP | with_reducible apply State.convertTile_keeps hP | split | dsimp only | intro _)

theorem State.setCarried_keeps {P : State → Prop} (hP : Stable P) (s : State) (l : List ConvTile) (hk : P s) : P (State.setCarried s l) := by
  unfold State.setCarried
  repeat' first | with_reducible assumption | with_reducible apply State.modifyWork_keeps hP | split | dsimp only | intro _

theorem State.abandonSlices_keeps {P : State → Prop} (hP : Stable P) (s : State) (hk : P s) : P (State.abandonSlices s) := by
  unfold State.abandonSlices
  repeat' first | with_reducible assumption | with_reducible apply State.add_keeps hP | with_reducible apply State.setTns_keeps hP | split | dsimp only | intro _

theorem State.startIssue_keeps {P : State → Prop} (hP : Stable P) (s : State) (hk : P s) : P (State.startIssue s) := by
  unfold State.startIssue
  repeat' first | with_reducible assumption | split | with_reducible refine keeps_with_pwr hP ?_ | dsimp only | intro _

theorem State.beginTick_keeps {P : State → Prop} (hP : Stable P) (s : State) (n : Nat) (hk : P s) : P (State.beginTick s n) := by
  unfold State.beginTick
  repeat' first | with_reducible assumption | with_reducible apply keeps_when | with_reducible apply State.setTns_keeps hP | with_reducible apply State.taintAll_keeps hP | with_reducible apply State.setCarried_keeps hP | with_reducible apply State.abandonSlices_keeps hP | with_reducible apply State.startIssue_keeps hP | split | dsimp only | intro _

theorem State.convertSome_keeps {P : State → Prop} (hP : Stable P) (s : State) (n : Nat) (hits : List MemHit) (k : Nat) (hk : P s) : P (State.convertSome s n hits k) := by
  unfold State.convertSome
  repeat' first | with_reducible assumption | with_reducible apply State.fillDone_keeps hP | with_reducible apply State.convertTiles_keeps hP | split | dsimp only | intro _

theorem execTickWorkReady_keeps {P : State → Prop} (hP : Stable P) (tiles : Nat) (hits : List MemHit) {s t : State} (h : execTickWorkReady tiles hits s = .next t) (hs : P s) : P t := by
  unfold execTickWorkReady at h
  obtain rfl := Host.Outcome.next.inj h
  repeat' first | with_reducible assumption | with_reducible apply keeps_clocked | with_reducible apply State.beginTick_keeps hP | with_reducible apply State.convertSome_keeps hP | split | dsimp only | intro _

theorem State.deliverDirty_keeps {P : State → Prop} (hP : Stable P) (s : State) (e n : Nat) (hk : P s) : P (State.deliverDirty s e n) := by
  unfold State.deliverDirty
  repeat' first | with_reducible assumption | with_reducible apply keeps_when | with_reducible apply State.set_keeps hP | with_reducible apply State.setCv_keeps hP | with_reducible apply State.setTns_keeps hP | with_reducible apply State.abandonSlices_keeps hP | split | dsimp only | intro _

theorem execAgingWheelScan_keeps {P : State → Prop} (hP : Stable P) (e : Fin 8) (hits : List MemHit) {s t : State} (h : execAgingWheelScan e hits s = .next t) (hs : P s) : P t := by
  unfold execAgingWheelScan at h
  obtain rfl := Host.Outcome.next.inj h
  repeat' first | with_reducible assumption | with_reducible apply State.scanSlot_keeps hP | with_reducible apply State.deliverDirty_keeps hP | split | dsimp only | intro _

theorem State.endTick_keeps {P : State → Prop} (hP : Stable P) (s : State) (n : Nat) (r : TickResult) (hk : P s) : P (State.endTick s n r) := by
  unfold State.endTick
  repeat' first | with_reducible assumption | with_reducible apply State.setTns_keeps hP | with_reducible apply State.endUnit_keeps hP | with_reducible apply State.fillAll_keeps hP | split | dsimp only | intro _

theorem State.startSlices_keeps {P : State → Prop} (hP : Stable P) (s : State) (n : Nat) (hk : P s) : P (State.startSlices s n) := by
  unfold State.startSlices
  repeat' first | with_reducible assumption | with_reducible apply State.setTns_keeps hP | split | dsimp only | intro _

theorem State.traceTick_keeps {P : State → Prop} (hP : Stable P) (s : State) (n : Nat) (cut : Bool) (hk : P s) : P (State.traceTick s n cut) := by
  unfold State.traceTick
  repeat' first | with_reducible assumption | with_reducible apply State.trace_keeps hP | split | dsimp only | intro _

theorem execTickComplete_keeps {P : State → Prop} (hP : Stable P) {s t : State} (h : execTickComplete s = .next t) (hs : P s) : P t := by
  unfold execTickComplete at h
  obtain rfl := Host.Outcome.next.inj h
  repeat' first | with_reducible assumption | with_reducible apply keeps_clocked | with_reducible apply State.set_keeps hP | with_reducible apply State.inc_keeps hP | with_reducible apply State.endTick_keeps hP | with_reducible apply State.startSlices_keeps hP | with_reducible apply State.traceTick_keeps hP | split | dsimp only | intro _

theorem execTickCut_keeps {P : State → Prop} (hP : Stable P) {s t : State} (h : execTickCut s = .next t) (hs : P s) : P t := by
  unfold execTickCut at h
  obtain rfl := Host.Outcome.next.inj h
  repeat' first | with_reducible assumption | with_reducible apply keeps_clocked | with_reducible apply State.set_keeps hP | with_reducible apply State.setFlag_keeps hP | with_reducible apply State.inc_keeps hP | with_reducible apply State.condition_keeps hP | with_reducible apply State.setTns_keeps hP | with_reducible apply State.setCarried_keeps hP | with_reducible apply State.beginTick_keeps hP | with_reducible apply State.endTick_keeps hP | with_reducible apply State.traceTick_keeps hP | split | dsimp only | intro _

theorem State.receiveAll_keeps {P : State → Prop} (hP : Stable P) (s : State) (i : Nat) (hk : P s) : P (State.receiveAll s i) := by
  unfold State.receiveAll
  repeat' first | with_reducible assumption | with_reducible apply keeps_each | with_reducible apply State.modifyWork_keeps hP | with_reducible apply State.receive_keeps hP | split | dsimp only | intro _

theorem State.finishLayer_keeps {P : State → Prop} (hP : Stable P) (s : State) (i : Nat) (hk : P s) : P (State.finishLayer s i) := by
  unfold State.finishLayer
  repeat' first | with_reducible assumption | with_reducible apply State.evaluateLayer_keeps hP | with_reducible apply State.receiveAll_keeps hP | split | dsimp only | intro _

theorem execDenseDrain_keeps {P : State → Prop} (hP : Stable P) {s t : State} (h : execDenseDrain s = .next t) (hs : P s) : P t := by
  unfold execDenseDrain at h
  obtain rfl := Host.Outcome.next.inj h
  repeat' first | with_reducible assumption | with_reducible apply keeps_each | with_reducible apply keeps_clocked | with_reducible apply State.inc_keeps hP | with_reducible apply State.setTns_keeps hP | with_reducible apply State.endUnit_keeps hP | with_reducible apply State.fillAll_keeps hP | with_reducible apply State.convertTiles_keeps hP | with_reducible apply State.setCarried_keeps hP | with_reducible apply State.finishLayer_keeps hP | split | dsimp only | intro _

theorem State.refreshElem_keeps {P : State → Prop} (hP : Stable P) (s : State) (i o : Nat) (hk : P s) : P (State.refreshElem s i o) := by
  unfold State.refreshElem
  repeat' first | with_reducible assumption | with_reducible apply keeps_when | with_reducible apply State.set_keeps hP | with_reducible apply State.setFlag_keeps hP | with_reducible apply State.setLayer_keeps hP | with_reducible apply State.sawNan_keeps hP | with_reducible apply State.evalStatus_keeps hP | with_reducible apply State.countSlots_keeps hP | with_reducible apply State.produce_keeps hP | split | dsimp only | intro _

theorem State.refreshSlice_keeps {P : State → Prop} (hP : Stable P) (s : State) (i pos len : Nat) (hk : P s) : P (State.refreshSlice s i pos len) := by
  unfold State.refreshSlice
  repeat' first | with_reducible assumption | with_reducible apply keeps_each | with_reducible apply State.setLayer_keeps hP | with_reducible apply State.showTaint_keeps hP | with_reducible apply State.refreshElem_keeps hP | split | dsimp only | intro _

theorem execRefreshSlice_keeps {P : State → Prop} (hP : Stable P) (hits : List MemHit) {s t : State} (h : execRefreshSlice hits s = .next t) (hs : P s) : P t := by
  unfold execRefreshSlice at h
  obtain rfl := Host.Outcome.next.inj h
  repeat' first | with_reducible assumption | with_reducible apply keeps_clocked | with_reducible apply State.inc_keeps hP | with_reducible apply State.setTns_keeps hP | with_reducible apply State.readLayer_keeps hP | with_reducible apply State.endUnit_keeps hP | with_reducible apply State.fillAll_keeps hP | with_reducible apply State.refreshSlice_keeps hP | split | dsimp only | intro _

theorem State.reportMismatch_keeps {P : State → Prop} (hP : Stable P) (s : State) (i o : Nat) (hk : P s) : P (State.reportMismatch s i o) := by
  unfold State.reportMismatch
  repeat' first | with_reducible assumption | with_reducible apply keeps_when | with_reducible apply State.set_keeps hP | with_reducible apply State.setFlag_keeps hP | with_reducible apply State.inc_keeps hP | with_reducible apply State.fault_keeps hP | split | dsimp only | intro _

theorem execCheckSlice_keeps {P : State → Prop} (hP : Stable P) (hits : List MemHit) {s t : State} (h : execCheckSlice hits s = .next t) (hs : P s) : P t := by
  unfold execCheckSlice at h
  obtain rfl := Host.Outcome.next.inj h
  repeat' first | with_reducible assumption | with_reducible apply keeps_each | with_reducible apply keeps_clocked | with_reducible apply State.inc_keeps hP | with_reducible apply State.setTns_keeps hP | with_reducible apply State.readLayer_keeps hP | with_reducible apply State.endUnit_keeps hP | with_reducible apply State.fillAll_keeps hP | with_reducible apply State.refreshElem_keeps hP | with_reducible apply State.reportMismatch_keeps hP | split | dsimp only | intro _

end Sys2Proof.Machine
end

