-- ==== Sys2Proof/Laws/KeepsFabric.lean ====
section
/-! SUPPORT. Every operation of Machine/Fabric.lean keeps every stable property. -/

set_option linter.unusedTactic false
set_option linter.unreachableTactic false

namespace Sys2Proof.Machine

theorem State.setFab_keeps {P : State → Prop} (hP : Stable P) (s : State) (v : Fabric) (hk : P s) : P (State.setFab s v) := by
  unfold State.setFab
  repeat' first | with_reducible assumption | split | with_reducible refine keeps_with_fab hP ?_ | dsimp only | intro _

theorem State.setFabSet_keeps {P : State → Prop} (hP : Stable P) (s : State) (k : Nat) (v : FabSet) (hk : P s) : P (State.setFabSet s k v) := by
  unfold State.setFabSet
  repeat' first | with_reducible assumption | split | with_reducible refine keeps_with_active hP ?_ | with_reducible refine keeps_with_fab hP ?_ | with_reducible refine keeps_with_shadow hP ?_ | dsimp only | intro _

theorem State.checkFabWord_keeps {P : State → Prop} (hP : Stable P) (s : State) (f : FabSet) (mem : Nat) (h : MemHit) (hk : P s) : P (State.checkFabWord s f mem h).1 := by
  unfold State.checkFabWord
  repeat' first | with_reducible assumption | with_reducible apply keeps_when | with_reducible apply State.setFlag_keeps hP | with_reducible apply State.took_keeps hP | with_reducible apply State.eccRead_keeps hP | split | dsimp only | intro _

theorem State.readCore_keeps {P : State → Prop} (hP : Stable P) (s : State) (k c : Nat) (hits : List MemHit) (hk : P s) : P (State.readCore s k c hits) := by
  unfold State.readCore
  repeat' first | with_reducible assumption | with_reducible apply keeps_each | with_reducible apply State.setFabSet_keeps hP | with_reducible apply State.checkFabWord_keeps hP | split | dsimp only | intro _

theorem State.setCore_keeps {P : State → Prop} (hP : Stable P) (s : State) (c : Nat) (v : CoreFab) (hk : P s) : P (State.setCore s c v) := by
  unfold State.setCore
  repeat' first | with_reducible assumption | with_reducible apply State.set_keeps hP | with_reducible apply State.setFab_keeps hP | split | dsimp only | intro _

theorem State.setWindow_keeps {P : State → Prop} (hP : Stable P) (s : State) (k : Nat) (w : Window) (hk : P s) : P (State.setWindow s k w) := by
  unfold State.setWindow
  repeat' first | with_reducible assumption | with_reducible apply State.set_keeps hP | with_reducible apply State.setFab_keeps hP | split | dsimp only | intro _

theorem State.sendMarks_keeps {P : State → Prop} (hP : Stable P) (s : State) (e : Nat) (hk : P s) : P (State.sendMarks s e) := by
  unfold State.sendMarks
  repeat' first | with_reducible assumption | with_reducible apply State.set_keeps hP | with_reducible apply State.setFab_keeps hP | split | dsimp only | intro _

theorem State.shed_keeps {P : State → Prop} (hP : Stable P) (s : State) (c k : Nat) (cnt : Fld) (hk : P s) : P (State.shed s c k cnt) := by
  unfold State.shed
  repeat' first | with_reducible assumption | with_reducible apply State.inc_keeps hP | with_reducible apply State.count_keeps hP | with_reducible apply State.condition_keeps hP | with_reducible apply State.setWindow_keeps hP | split | dsimp only | intro _

theorem State.inputAt_keeps {P : State → Prop} (hP : Stable P) (s : State) (f : Spike) (hk : P s) : P (State.inputAt s f) := by
  unfold State.inputAt
  repeat' first | with_reducible assumption | with_reducible apply State.inc_keeps hP | with_reducible apply State.buffer_keeps hP | with_reducible apply State.setFab_keeps hP | with_reducible apply State.setCore_keeps hP | with_reducible apply State.shed_keeps hP | split | dsimp only | intro _

theorem State.injectSpike_keeps {P : State → Prop} (hP : Stable P) (s : State) (e : Nat) (v : EngineEvent) (hk : P s) : P (State.injectSpike s e v) := by
  unfold State.injectSpike
  repeat' first | with_reducible assumption | with_reducible apply keeps_each | with_reducible apply State.inc_keeps hP | with_reducible apply State.source_keeps hP | with_reducible apply State.inputAt_keeps hP | split | dsimp only | intro _

theorem State.readRoute_keeps {P : State → Prop} (hP : Stable P) (s : State) (e k src : Nat) (hits : List MemHit) (hk : P s) : P (State.readRoute s e k src hits) := by
  unfold State.readRoute
  repeat' first | with_reducible assumption | with_reducible apply keeps_each | with_reducible apply State.setFabSet_keeps hP | with_reducible apply State.checkFabWord_keeps hP | split | dsimp only | intro _

theorem execInputSpikeInjection_keeps {P : State → Prop} (hP : Stable P) (e : Fin 8) (parity : Bool) (hits : List MemHit) {s t : State} (h : execInputSpikeInjection e parity hits s = .next t) (hs : P s) : P t := by
  unfold execInputSpikeInjection at h
  obtain rfl := Host.Outcome.next.inj h
  repeat' first | with_reducible assumption | with_reducible apply keeps_clocked | with_reducible apply State.set_keeps hP | with_reducible apply State.parityCheck_keeps hP | with_reducible apply State.sendMarks_keeps hP | with_reducible apply State.injectSpike_keeps hP | with_reducible apply State.readRoute_keeps hP | split | with_reducible refine keeps_with_cv hP ?_ | dsimp only | intro _

theorem State.countFire_keeps {P : State → Prop} (hP : Stable P) (s : State) (k : Nat) (r : Route) (payload : Int) (poison : Bool) (hk : P s) : P (State.countFire s k r payload poison) := by
  unfold State.countFire
  repeat' first | with_reducible assumption | with_reducible apply State.set_keeps hP | with_reducible apply State.setWindow_keeps hP | split | dsimp only | intro _

theorem State.loomFire_keeps {P : State → Prop} (hP : Stable P) (s : State) (r : Route) (f : LoomFire) (hk : P s) : P (State.loomFire s r f) := by
  unfold State.loomFire
  repeat' first | with_reducible assumption | with_reducible apply State.set_keeps hP | with_reducible apply State.setFab_keeps hP | split | dsimp only | intro _

theorem State.traceSpike_keeps {P : State → Prop} (hP : Stable P) (s : State) (c src stamp : Nat) (payload : Int) (hk : P s) : P (State.traceSpike s c src stamp payload) := by
  unfold State.traceSpike
  repeat' first | with_reducible assumption | with_reducible apply keeps_when | with_reducible apply State.set_keeps hP | with_reducible apply State.setTrace_keeps hP | with_reducible apply State.trace_keeps hP | split | dsimp only | intro _

theorem State.fire_keeps {P : State → Prop} (hP : Stable P) (s : State) (k0 c ix us : Nat) (payload : Int) (poison : Bool) (hk : P s) : P (State.fire s k0 c ix us payload poison) := by
  unfold State.fire
  repeat' first | with_reducible assumption | with_reducible apply keeps_each | with_reducible apply keeps_when | with_reducible apply State.inc_keeps hP | with_reducible apply State.count_keeps hP | with_reducible apply State.source_keeps hP | with_reducible apply State.setFab_keeps hP | with_reducible apply State.countFire_keeps hP | with_reducible apply State.loomFire_keeps hP | with_reducible apply State.traceSpike_keeps hP | split | dsimp only | intro _

theorem State.setContext_keeps {P : State → Prop} (hP : Stable P) (s : State) (k c ix : Nat) (x : Context) (hk : P s) : P (State.setContext s k c ix x) := by
  unfold State.setContext
  repeat' first | with_reducible assumption | with_reducible apply State.setFabSet_keeps hP | split | dsimp only | intro _

theorem State.testContext_keeps {P : State → Prop} (hP : Stable P) (s : State) (k c ix us : Nat) (x0 : Context) (hk : P s) : P (State.testContext s k c ix us x0).1 := by
  unfold State.testContext
  repeat' first | with_reducible assumption | with_reducible apply State.fire_keeps hP | with_reducible apply State.setContext_keeps hP | split | dsimp only | intro _

theorem State.integrate_keeps {P : State → Prop} (hP : Stable P) (s : State) (k c ix a : Nat) (late : Bool) (v : Int) (drawn : Bool) (hk : P s) : P (State.integrate s k c ix a late v drawn) := by
  unfold State.integrate
  repeat' first | with_reducible assumption | with_reducible apply keeps_when | with_reducible apply State.setFlag_keeps hP | with_reducible apply State.inc_keeps hP | with_reducible apply State.count_keeps hP | with_reducible apply State.setWindow_keeps hP | with_reducible apply State.setContext_keeps hP | with_reducible apply State.testContext_keeps hP | split | dsimp only | intro _

theorem State.arrive_keeps {P : State → Prop} (hP : Stable P) (s : State) (f : Spike) (hk : P s) : P (State.arrive s f) := by
  unfold State.arrive
  repeat' first | with_reducible assumption | with_reducible apply keeps_each | with_reducible apply State.inc_keeps hP | with_reducible apply State.source_keeps hP | with_reducible apply State.integrate_keeps hP | split | dsimp only | intro _

theorem State.injects_keeps {P : State → Prop} (hP : Stable P) (s : State) (c : Nat) (hk : P s) : P (State.injects s c).1 := by
  unfold State.injects
  repeat' first | with_reducible assumption | split | with_reducible refine keeps_with_err hP ?_ | dsimp only | intro _

theorem State.dropFlight_keeps {P : State → Prop} (hP : Stable P) (s : State) (i : Nat) (hk : P s) : P (State.dropFlight s i) := by
  unfold State.dropFlight
  repeat' first | with_reducible assumption | with_reducible apply State.setFab_keeps hP | split | dsimp only | intro _

theorem State.deliverSpike_keeps {P : State → Prop} (hP : Stable P) (s : State) (i : Nat) (f : Spike) (hk : P s) : P (State.deliverSpike s i f) := by
  unfold State.deliverSpike
  repeat' first | with_reducible assumption | with_reducible apply keeps_when | with_reducible apply State.set_keeps hP | with_reducible apply State.inc_keeps hP | with_reducible apply State.setFab_keeps hP | with_reducible apply State.arrive_keeps hP | with_reducible apply State.injects_keeps hP | with_reducible apply State.dropFlight_keeps hP | split | with_reducible refine keeps_with_err hP ?_ | dsimp only | intro _

theorem execSpikeArrival_keeps {P : State → Prop} (hP : Stable P) (i : Nat) (parity : Bool) (hits : List MemHit) {s t : State} (h : execSpikeArrival i parity hits s = .next t) (hs : P s) : P t := by
  unfold execSpikeArrival at h
  obtain rfl := Host.Outcome.next.inj h
  repeat' first | with_reducible assumption | with_reducible apply State.inc_keeps hP | with_reducible apply State.parityCheck_keeps hP | with_reducible apply State.readCore_keeps hP | with_reducible apply State.dropFlight_keeps hP | with_reducible apply State.deliverSpike_keeps hP | split | dsimp only | intro _

theorem execInstantClose_keeps {P : State → Prop} (hP : Stable P) (c : Fin 64) (hits : List MemHit) {s t : State} (h : execInstantClose c hits s = .next t) (hs : P s) : P t := by
  unfold execInstantClose at h
  obtain rfl := Host.Outcome.next.inj h
  repeat' first | with_reducible assumption | with_reducible apply keeps_each | with_reducible apply keeps_clocked | with_reducible apply State.readCore_keeps hP | with_reducible apply State.setCore_keeps hP | with_reducible apply State.testContext_keeps hP | split | dsimp only | intro _

theorem State.readContext_keeps {P : State → Prop} (hP : Stable P) (s : State) (c ix : Nat) (hits : List MemHit) (hk : P s) : P (State.readContext s c ix hits) := by
  unfold State.readContext
  repeat' first | with_reducible assumption | with_reducible apply keeps_each | with_reducible apply State.checkFabWord_keeps hP | split | with_reducible refine keeps_with_active hP ?_ | with_reducible refine keeps_with_fab hP ?_ | with_reducible refine keeps_with_shadow hP ?_ | dsimp only | intro _

theorem execContextAgeSweep_keeps {P : State → Prop} (hP : Stable P) (c : Fin 64) (ix : Nat) (hits : List MemHit) {s t : State} (h : execContextAgeSweep c ix hits s = .next t) (hs : P s) : P t := by
  unfold execContextAgeSweep at h
  obtain rfl := Host.Outcome.next.inj h
  repeat' first | with_reducible assumption | with_reducible apply State.add_keeps hP | with_reducible apply State.readContext_keeps hP | split | with_reducible refine keeps_with_active_shadow hP ?_ | dsimp only | intro _

theorem State.ageAll_keeps {P : State → Prop} (hP : Stable P) (s : State) (hk : P s) : P (State.ageAll s) := by
  unfold State.ageAll
  repeat' first | with_reducible assumption | split | with_reducible refine keeps_with_active_shadow hP ?_ | with_reducible refine keeps_with_fab hP ?_ | dsimp only | intro _

theorem State.showShed_keeps {P : State → Prop} (hP : Stable P) (s : State) (c : Nat) (b : Bool) (hk : P s) : P (State.showShed s c b) := by
  unfold State.showShed
  repeat' first | with_reducible assumption | with_reducible apply State.set_keeps hP | with_reducible apply State.setFlag_keeps hP | split | dsimp only | intro _

theorem execStepStart_keeps {P : State → Prop} (hP : Stable P) (c : Fin 64) {s t : State} (h : execStepStart c s = .next t) (hs : P s) : P t := by
  unfold execStepStart at h
  obtain rfl := Host.Outcome.next.inj h
  repeat' first | with_reducible assumption | with_reducible apply keeps_each | with_reducible apply keeps_when | with_reducible apply keeps_clocked | with_reducible apply State.set_keeps hP | with_reducible apply State.inc_keeps hP | with_reducible apply State.trace_keeps hP | with_reducible apply State.buffer_keeps hP | with_reducible apply State.setFab_keeps hP | with_reducible apply State.setCore_keeps hP | with_reducible apply State.setWindow_keeps hP | with_reducible apply State.shed_keeps hP | with_reducible apply State.showShed_keeps hP | split | dsimp only | intro _

theorem State.serveWindow_keeps {P : State → Prop} (hP : Stable P) (s : State) (f q j addr len : Nat) (hk : P s) : P (State.serveWindow s f q j addr len) := by
  unfold State.serveWindow
  repeat' first | with_reducible assumption | with_reducible apply State.post_keeps hP | with_reducible apply State.complete_keeps hP | split | dsimp only | intro _

theorem State.serveReads_keeps {P : State → Prop} (hP : Stable P) (s : State) (j : Nat) (hk : P s) : P (State.serveReads s j) := by
  unfold State.serveReads
  repeat' first | with_reducible assumption | with_reducible apply keeps_each | with_reducible apply State.complete_keeps hP | with_reducible apply State.serveWindow_keeps hP | split | dsimp only | intro _

theorem State.abortReads_keeps {P : State → Prop} (hP : Stable P) (s : State) (b : Nat) (hk : P s) : P (State.abortReads s b) := by
  unfold State.abortReads
  repeat' first | with_reducible assumption | with_reducible apply keeps_each | with_reducible apply State.complete_keeps hP | split | dsimp only | intro _

theorem State.endWindow_keeps {P : State → Prop} (hP : Stable P) (s : State) (j : Nat) (hk : P s) : P (State.endWindow s j) := by
  unfold State.endWindow
  repeat' first | with_reducible assumption | with_reducible apply keeps_when | with_reducible apply State.hand_keeps hP | with_reducible apply State.setFab_keeps hP | with_reducible apply State.serveReads_keeps hP | split | dsimp only | intro _

theorem execWindowEnd_keeps {P : State → Prop} (hP : Stable P) {s t : State} (h : execWindowEnd s = .next t) (hs : P s) : P t := by
  unfold execWindowEnd at h
  obtain rfl := Host.Outcome.next.inj h
  repeat' first | with_reducible assumption | with_reducible apply State.endWindow_keeps hP | split | dsimp only | intro _

theorem execReadWindow_keeps {P : State → Prop} (hP : Stable P) (f : Fin 8) (q : Fin 4) {s t : State} (h : execReadWindow f q s = .next t) (hs : P s) : P t := by
  unfold execReadWindow at h
  obtain rfl := Host.Outcome.next.inj h
  repeat' first | with_reducible assumption | with_reducible apply keeps_clocked | with_reducible apply State.complete_keeps hP | with_reducible apply State.begin_keeps hP | with_reducible apply State.serveWindow_keeps hP | split | dsimp only | intro _

theorem execLoomingHandover_keeps {P : State → Prop} (hP : Stable P) {s t : State} (h : execLoomingHandover s = .next t) (hs : P s) : P t := by
  unfold execLoomingHandover at h
  obtain rfl := Host.Outcome.next.inj h
  repeat' first | with_reducible assumption | with_reducible apply keeps_when | with_reducible apply State.add_keeps hP | with_reducible apply State.took_keeps hP | with_reducible apply State.setFab_keeps hP | split | dsimp only | intro _

theorem State.setReflex_keeps {P : State → Prop} (hP : Stable P) (s : State) (r : Nat) (v : Reflex) (hk : P s) : P (State.setReflex s r v) := by
  unfold State.setReflex
  repeat' first | with_reducible assumption | with_reducible apply State.set_keeps hP | with_reducible apply State.setFab_keeps hP | split | dsimp only | intro _

theorem State.activate_keeps {P : State → Prop} (hP : Stable P) (s : State) (r : Nat) (hk : P s) : P (State.activate s r) := by
  unfold State.activate
  repeat' first | with_reducible assumption | with_reducible apply keeps_when | with_reducible apply State.setFlag_keeps hP | with_reducible apply State.inc_keeps hP | with_reducible apply State.condition_keeps hP | with_reducible apply State.setReflex_keeps hP | split | dsimp only | intro _

theorem State.reflexAt_keeps {P : State → Prop} (hP : Stable P) (s : State) (r : Nat) (f : ReflexFire) (hk : P s) : P (State.reflexAt s r f) := by
  unfold State.reflexAt
  repeat' first | with_reducible assumption | with_reducible apply keeps_when | with_reducible apply State.set_keeps hP | with_reducible apply State.setReflex_keeps hP | with_reducible apply State.activate_keeps hP | split | dsimp only | intro _

theorem execReflexFire_keeps {P : State → Prop} (hP : Stable P) (parity : Bool) {s t : State} (h : execReflexFire parity s = .next t) (hs : P s) : P t := by
  unfold execReflexFire at h
  obtain rfl := Host.Outcome.next.inj h
  repeat' first | with_reducible assumption | with_reducible apply keeps_clocked | with_reducible apply State.parityCheck_keeps hP | with_reducible apply State.reflexAt_keeps hP | split | with_reducible refine keeps_with_fab hP ?_ | dsimp only | intro _

theorem State.clearReflex_keeps {P : State → Prop} (hP : Stable P) (s : State) (r : Nat) (hk : P s) : P (State.clearReflex s r) := by
  unfold State.clearReflex
  repeat' first | with_reducible assumption | with_reducible apply State.setReflex_keeps hP | split | dsimp only | intro _

theorem execReflexHoldExpiry_keeps {P : State → Prop} (hP : Stable P) (r : Fin 2) {s t : State} (h : execReflexHoldExpiry r s = .next t) (hs : P s) : P t := by
  unfold execReflexHoldExpiry at h
  obtain rfl := Host.Outcome.next.inj h
  repeat' first | with_reducible assumption | with_reducible apply keeps_clocked | with_reducible apply State.setFlag_keeps hP | split | dsimp only | intro _

theorem State.writeReflexStat_keeps {P : State → Prop} (hP : Stable P) (s : State) (r v : Nat) (hk : P s) : P (State.writeReflexStat s r v) := by
  unfold State.writeReflexStat
  repeat' first | with_reducible assumption | with_reducible apply keeps_when | with_reducible apply State.setFlag_keeps hP | split | dsimp only | intro _

theorem execClear_keeps {P : State → Prop} (hP : Stable P) (r : Fin 2) {s t : State} (h : execClear r s = .next t) (hs : P s) : P t := by
  unfold execClear at h
  obtain rfl := Host.Outcome.next.inj h
  repeat' first | with_reducible assumption | with_reducible apply State.bus_keeps hP | with_reducible apply State.writeReflexStat_keeps hP | split | dsimp only | intro _

theorem State.flushWindow_keeps {P : State → Prop} (hP : Stable P) (s : State) (hk : P s) : P (State.flushWindow s) := by
  unfold State.flushWindow
  repeat' first | with_reducible assumption | with_reducible apply keeps_when | with_reducible apply State.endWindow_keeps hP | split | dsimp only | intro _

theorem State.startFabric_keeps {P : State → Prop} (hP : Stable P) (s : State) (n : Nat) (hk : P s) : P (State.startFabric s n) := by
  unfold State.startFabric
  repeat' first | with_reducible assumption | with_reducible apply State.setFab_keeps hP | with_reducible apply State.shed_keeps hP | with_reducible apply State.flushWindow_keeps hP | split | dsimp only | intro _

theorem execFabricHalt_keeps {P : State → Prop} (hP : Stable P) {s t : State} (h : execFabricHalt s = .next t) (hs : P s) : P t := by
  unfold execFabricHalt at h
  obtain rfl := Host.Outcome.next.inj h
  repeat' first | with_reducible assumption | with_reducible apply State.add_keeps hP | with_reducible apply State.buffer_keeps hP | with_reducible apply State.setFab_keeps hP | with_reducible apply State.abortReads_keeps hP | split | dsimp only | intro _

theorem State.joinCores_keeps {P : State → Prop} (hP : Stable P) (s : State) (b : Nat) (hk : P s) : P (State.joinCores s b) := by
  unfold State.joinCores
  repeat' first | with_reducible assumption | with_reducible apply keeps_each | with_reducible apply State.setCore_keeps hP | split | dsimp only | intro _

theorem State.leaveCores_keeps {P : State → Prop} (hP : Stable P) (s : State) (b : Nat) (hk : P s) : P (State.leaveCores s b) := by
  unfold State.leaveCores
  repeat' first | with_reducible assumption | with_reducible apply keeps_each | with_reducible apply State.inc_keeps hP | with_reducible apply State.setCore_keeps hP | split | dsimp only | intro _

theorem execFabricSetChange_keeps {P : State → Prop} (hP : Stable P) {s t : State} (h : execFabricSetChange s = .next t) (hs : P s) : P t := by
  unfold execFabricSetChange at h
  obtain rfl := Host.Outcome.next.inj h
  repeat' first | with_reducible assumption | with_reducible apply keeps_when | with_reducible apply State.setFab_keeps hP | with_reducible apply State.joinCores_keeps hP | with_reducible apply State.leaveCores_keeps hP | split | dsimp only | intro _

end Sys2Proof.Machine
end

