-- ==== Sys2Proof/Laws/KeepsFilter.lean ====
section
/-! SUPPORT. Every operation of Machine/Filter.lean keeps every stable property. -/

set_option linter.unusedTactic false
set_option linter.unreachableTactic false

namespace Sys2Proof.Machine

theorem State.setFlt_keeps {P : State → Prop} (hP : Stable P) (s : State) (v : Filter) (hk : P s) : P (State.setFlt s v) := by
  unfold State.setFlt
  repeat' first | with_reducible assumption | split | with_reducible refine keeps_with_flt hP ?_ | dsimp only | intro _

theorem State.setChan_keeps {P : State → Prop} (hP : Stable P) (s : State) (n : Nat) (c : Channel) (hk : P s) : P (State.setChan s n c) := by
  unfold State.setChan
  repeat' first | with_reducible assumption | with_reducible apply State.set_keeps hP | with_reducible apply State.setFlt_keeps hP | split | dsimp only | intro _

theorem State.fltRunWrite_keeps {P : State → Prop} (hP : Stable P) (s : State) (hk : P s) : P (State.fltRunWrite s) := by
  unfold State.fltRunWrite
  repeat' first | with_reducible assumption | with_reducible apply State.setFlag_keeps hP | split | dsimp only | intro _

theorem State.cfgErr_keeps {P : State → Prop} (hP : Stable P) (s : State) (hk : P s) : P (State.cfgErr s) := by
  unfold State.cfgErr
  repeat' first | with_reducible assumption | with_reducible apply State.setFlag_keeps hP | split | dsimp only | intro _

theorem State.deliver_keeps {P : State → Prop} (hP : Stable P) (s : State) (x : Sample) (hk : P s) : P (State.deliver s x) := by
  unfold State.deliver
  repeat' first | with_reducible assumption | split | with_reducible refine keeps_with_ftu hP ?_ | dsimp only | intro _

theorem State.countSat_keeps {P : State → Prop} (hP : Stable P) (s : State) (n : Nat) (b : Bool) (hk : P s) : P (State.countSat s n b) := by
  unfold State.countSat
  repeat' first | with_reducible assumption | with_reducible apply keeps_when | with_reducible apply State.inc_keeps hP | with_reducible apply State.setChan_keeps hP | split | dsimp only | intro _

theorem State.thrRecord_keeps {P : State → Prop} (hP : Stable P) (s : State) (n : Nat) (w release unsettled poison : Bool) (instant value minN lvl : Nat) (hk : P s) : P (State.thrRecord s n w release unsettled poison instant value minN lvl) := by
  unfold State.thrRecord
  repeat' first | with_reducible assumption | with_reducible apply keeps_when | with_reducible apply State.inc_keeps hP | with_reducible apply State.hand_keeps hP | split | dsimp only | intro _

theorem State.thrOut_keeps {P : State → Prop} (hP : Stable P) (s : State) (hk : P s) : P (State.thrOut s) := by
  unfold State.thrOut
  repeat' first | with_reducible assumption | with_reducible apply State.setFlag_keeps hP | split | dsimp only | intro _

theorem State.moveThr_keeps {P : State → Prop} (hP : Stable P) (s : State) (n : Nat) (w : Bool) (instant value : Nat) (poison : Bool) (hk : P s) : P (State.moveThr s n w instant value poison) := by
  unfold State.moveThr
  repeat' first | with_reducible assumption | with_reducible apply keeps_when | with_reducible apply State.setFlag_keeps hP | with_reducible apply State.raise_keeps hP | with_reducible apply State.setChan_keeps hP | with_reducible apply State.thrRecord_keeps hP | split | dsimp only | intro _

theorem State.releaseThr_keeps {P : State → Prop} (hP : Stable P) (s : State) (n : Nat) (w : Bool) (hk : P s) : P (State.releaseThr s n w) := by
  unfold State.releaseThr
  repeat' first | with_reducible assumption | with_reducible apply State.setFlag_keeps hP | with_reducible apply State.took_keeps hP | with_reducible apply State.setChan_keeps hP | with_reducible apply State.thrRecord_keeps hP | split | dsimp only | intro _

theorem State.setSettled_keeps {P : State → Prop} (hP : Stable P) (s : State) (n : Nat) (b : Bool) (hk : P s) : P (State.setSettled s n b) := by
  unfold State.setSettled
  repeat' first | with_reducible assumption | with_reducible apply State.set_keeps hP | with_reducible apply State.setFlag_keeps hP | split | dsimp only | intro _

theorem State.restart_keeps {P : State → Prop} (hP : Stable P) (s : State) (n : Nat) (hk : P s) : P (State.restart s n) := by
  unfold State.restart
  repeat' first | with_reducible assumption | with_reducible apply State.set_keeps hP | with_reducible apply State.inc_keeps hP | with_reducible apply State.setChan_keeps hP | with_reducible apply State.thrOut_keeps hP | with_reducible apply State.releaseThr_keeps hP | with_reducible apply State.setSettled_keeps hP | split | dsimp only | intro _

theorem State.startChan_keeps {P : State → Prop} (hP : Stable P) (s : State) (n : Nat) (hk : P s) : P (State.startChan s n) := by
  unfold State.startChan
  repeat' first | with_reducible assumption | with_reducible apply State.setChan_keeps hP | with_reducible apply State.restart_keeps hP | split | dsimp only | intro _

theorem State.restartAll_keeps {P : State → Prop} (hP : Stable P) (s : State) (hk : P s) : P (State.restartAll s) := by
  unfold State.restartAll
  repeat' first | with_reducible assumption | with_reducible apply keeps_each | with_reducible apply State.startChan_keeps hP | split | dsimp only | intro _

theorem State.readCoef_keeps {P : State → Prop} (hP : Stable P) (s : State) (n : Nat) (bad : Bool) (hk : P s) : P (State.readCoef s n bad) := by
  unfold State.readCoef
  repeat' first | with_reducible assumption | with_reducible apply keeps_when | with_reducible apply State.setFlag_keeps hP | with_reducible apply State.setChan_keeps hP | split | dsimp only | intro _

theorem State.compute_keeps {P : State → Prop} (hP : Stable P) (s : State) (n : Nat) (bad : Bool) (hk : P s) : P (State.compute s n bad) := by
  unfold State.compute
  repeat' first | with_reducible assumption | with_reducible apply keeps_when | with_reducible apply State.inc_keeps hP | with_reducible apply State.count_keeps hP | with_reducible apply State.setChan_keeps hP | with_reducible apply State.deliver_keeps hP | with_reducible apply State.countSat_keeps hP | with_reducible apply State.thrOut_keeps hP | with_reducible apply State.moveThr_keeps hP | with_reducible apply State.readCoef_keeps hP | split | dsimp only | intro _

theorem State.computeBefore_keeps {P : State → Prop} (hP : Stable P) (s : State) (n stamp : Nat) (bad : Bool) (l : Nat) (hk : P s) : P (State.computeBefore s n stamp bad l) := by
  fun_induction State.computeBefore <;> (repeat' first | with_reducible assumption | with_reducible apply_assumption | with_reducible apply State.compute_keeps hP | split | dsimp only | intro _)

theorem execResamplerTimeout_keeps {P : State → Prop} (hP : Stable P) (n : Fin 32) (perr : Bool) {s t : State} (h : execResamplerTimeout n perr s = .next t) (hs : P s) : P t := by
  unfold execResamplerTimeout at h
  obtain rfl := Host.Outcome.next.inj h
  repeat' first | with_reducible assumption | with_reducible apply keeps_clocked | with_reducible apply State.compute_keeps hP | split | dsimp only | intro _

theorem State.pass_keeps {P : State → Prop} (hP : Stable P) (s : State) (n stamp : Nat) (x : Int) (hk : P s) : P (State.pass s n stamp x) := by
  unfold State.pass
  repeat' first | with_reducible assumption | with_reducible apply State.setChan_keeps hP | with_reducible apply State.countSat_keeps hP | split | dsimp only | intro _

theorem State.rawSample_keeps {P : State → Prop} (hP : Stable P) (s : State) (n stamp : Nat) (x : Int) (perr : Nat) (hk : P s) : P (State.rawSample s n stamp x perr) := by
  unfold State.rawSample
  repeat' first | with_reducible assumption | with_reducible apply keeps_when | with_reducible apply State.set_keeps hP | with_reducible apply State.setChan_keeps hP | with_reducible apply State.setSettled_keeps hP | with_reducible apply State.restart_keeps hP | with_reducible apply State.readCoef_keeps hP | with_reducible apply State.computeBefore_keeps hP | with_reducible apply State.pass_keeps hP | split | dsimp only | intro _

theorem State.source_keeps {P : State → Prop} (hP : Stable P) (s : State) (src stamp : Nat) (x : Int) (perr : Nat) (hk : P s) : P (State.source s src stamp x perr) := by
  unfold State.source
  repeat' first | with_reducible assumption | with_reducible apply keeps_each | with_reducible apply State.rawSample_keeps hP | split | dsimp only | intro _

theorem State.enableChan_keeps {P : State → Prop} (hP : Stable P) (s : State) (n : Nat) (hk : P s) : P (State.enableChan s n) := by
  unfold State.enableChan
  repeat' first | with_reducible assumption | with_reducible apply State.set_keeps hP | with_reducible apply State.cfgErr_keeps hP | with_reducible apply State.startChan_keeps hP | split | dsimp only | intro _

theorem State.writeChanBit_keeps {P : State → Prop} (hP : Stable P) (s : State) (n : Nat) (on : Bool) (hk : P s) : P (State.writeChanBit s n on) := by
  unfold State.writeChanBit
  repeat' first | with_reducible assumption | with_reducible apply State.set_keeps hP | with_reducible apply State.enableChan_keeps hP | split | dsimp only | intro _

theorem execChannelEnable_keeps {P : State → Prop} (hP : Stable P) (n : Fin 32) {s t : State} (h : execChannelEnable n s = .next t) (hs : P s) : P t := by
  unfold execChannelEnable at h
  obtain rfl := Host.Outcome.next.inj h
  repeat' first | with_reducible assumption | with_reducible apply State.bus_keeps hP | with_reducible apply State.writeChanBit_keeps hP | split | dsimp only | intro _

theorem execChannelGapRestart_keeps {P : State → Prop} (hP : Stable P) (n : Fin 32) {s t : State} (h : execChannelGapRestart n s = .next t) (hs : P s) : P t := by
  unfold execChannelGapRestart at h
  obtain rfl := Host.Outcome.next.inj h
  repeat' first | with_reducible assumption | with_reducible apply keeps_clocked | with_reducible apply State.restart_keeps hP | split | dsimp only | intro _

theorem State.setSrc_keeps {P : State → Prop} (hP : Stable P) (s : State) (n v : Nat) (hk : P s) : P (State.setSrc s n v) := by
  unfold State.setSrc
  repeat' first | with_reducible assumption | with_reducible apply keeps_when | with_reducible apply State.set_keeps hP | with_reducible apply State.restart_keeps hP | split | dsimp only | intro _

theorem State.setImu_keeps {P : State → Prop} (hP : Stable P) (s : State) (i : Nat) (v : Imu) (hk : P s) : P (State.setImu s i v) := by
  unfold State.setImu
  repeat' first | with_reducible assumption | with_reducible apply State.set_keeps hP | with_reducible apply State.setFlt_keeps hP | split | dsimp only | intro _

theorem State.writeImuCfg_keeps {P : State → Prop} (hP : Stable P) (s : State) (i v : Nat) (hk : P s) : P (State.writeImuCfg s i v) := by
  unfold State.writeImuCfg
  repeat' first | with_reducible assumption | with_reducible apply State.set_keeps hP | with_reducible apply State.setFlag_keeps hP | with_reducible apply State.fltRunWrite_keeps hP | with_reducible apply State.cfgErr_keeps hP | split | dsimp only | intro _

theorem execImuEnable_keeps {P : State → Prop} (hP : Stable P) (i : Fin 2) (v : Word) {s t : State} (h : execImuEnable i v s = .next t) (hs : P s) : P t := by
  unfold execImuEnable at h
  obtain rfl := Host.Outcome.next.inj h
  repeat' first | with_reducible assumption | with_reducible apply State.bus_keeps hP | with_reducible apply State.writeImuCfg_keeps hP | split | dsimp only | intro _

theorem State.startRead_keeps {P : State → Prop} (hP : Stable P) (s : State) (i t : Nat) (latched : Option Nat) (hk : P s) : P (State.startRead s i t latched) := by
  unfold State.startRead
  repeat' first | with_reducible assumption | with_reducible apply State.setImu_keeps hP | split | dsimp only | intro _

theorem execDrdyEdge_keeps {P : State → Prop} (hP : Stable P) (i : Fin 2) (held : Nat) {s t : State} (h : execDrdyEdge i held s = .next t) (hs : P s) : P t := by
  unfold execDrdyEdge at h
  obtain rfl := Host.Outcome.next.inj h
  repeat' first | with_reducible assumption | with_reducible apply State.inc_keeps hP | with_reducible apply State.setImu_keeps hP | with_reducible apply State.startRead_keeps hP | split | dsimp only | intro _

theorem execImuReadComplete_keeps {P : State → Prop} (hP : Stable P) (i : Fin 2) (data : List Byte) (perr : Nat) {s t : State} (h : execImuReadComplete i data perr s = .next t) (hs : P s) : P t := by
  unfold execImuReadComplete at h
  obtain rfl := Host.Outcome.next.inj h
  repeat' first | with_reducible assumption | with_reducible apply keeps_each | with_reducible apply keeps_clocked | with_reducible apply State.source_keeps hP | with_reducible apply State.setImu_keeps hP | with_reducible apply State.startRead_keeps hP | split | dsimp only | intro _

theorem State.writeXferCtl_keeps {P : State → Prop} (hP : Stable P) (s : State) (i v : Nat) (hk : P s) : P (State.writeXferCtl s i v) := by
  unfold State.writeXferCtl
  repeat' first | with_reducible assumption | with_reducible apply keeps_when | with_reducible apply State.set_keeps hP | with_reducible apply State.setFlag_keeps hP | with_reducible apply State.setImu_keeps hP | split | dsimp only | intro _

theorem execImuXfer_keeps {P : State → Prop} (hP : Stable P) (i : Fin 2) (v : Word) {s t : State} (h : execImuXfer i v s = .next t) (hs : P s) : P t := by
  unfold execImuXfer at h
  obtain rfl := Host.Outcome.next.inj h
  repeat' first | with_reducible assumption | with_reducible apply State.bus_keeps hP | with_reducible apply State.writeXferCtl_keeps hP | split | dsimp only | intro _

theorem execImuXferDone_keeps {P : State → Prop} (hP : Stable P) (i : Fin 2) (data : List Byte) {s t : State} (h : execImuXferDone i data s = .next t) (hs : P s) : P t := by
  unfold execImuXferDone at h
  obtain rfl := Host.Outcome.next.inj h
  repeat' first | with_reducible assumption | with_reducible apply keeps_clocked | with_reducible apply State.set_keeps hP | with_reducible apply State.setFlag_keeps hP | with_reducible apply State.setImu_keeps hP | split | dsimp only | intro _

theorem State.setEnc_keeps {P : State → Prop} (hP : Stable P) (s : State) (e : Nat) (v : Encoder) (hk : P s) : P (State.setEnc s e v) := by
  unfold State.setEnc
  repeat' first | with_reducible assumption | with_reducible apply State.set_keeps hP | with_reducible apply State.setFlt_keeps hP | split | dsimp only | intro _

theorem execEncoderTransition_keeps {P : State → Prop} (hP : Stable P) (e : Fin 8) (a b : Bool) (held : Nat) {s t : State} (h : execEncoderTransition e a b held s = .next t) (hs : P s) : P t := by
  unfold execEncoderTransition at h
  obtain rfl := Host.Outcome.next.inj h
  repeat' first | with_reducible assumption | with_reducible apply keeps_clocked | with_reducible apply State.add_keeps hP | with_reducible apply State.inc_keeps hP | with_reducible apply State.setEnc_keeps hP | split | dsimp only | intro _

theorem execEncoderSample_keeps {P : State → Prop} (hP : Stable P) (e : Fin 8) (perr : Nat) {s t : State} (h : execEncoderSample e perr s = .next t) (hs : P s) : P t := by
  unfold execEncoderSample at h
  obtain rfl := Host.Outcome.next.inj h
  repeat' first | with_reducible assumption | with_reducible apply State.source_keeps hP | with_reducible apply State.setEnc_keeps hP | split | dsimp only | intro _

theorem State.writeEncCfg_keeps {P : State → Prop} (hP : Stable P) (s : State) (v : Nat) (hk : P s) : P (State.writeEncCfg s v) := by
  unfold State.writeEncCfg
  repeat' first | with_reducible assumption | with_reducible apply keeps_each | with_reducible apply State.set_keeps hP | with_reducible apply State.setEnc_keeps hP | split | dsimp only | intro _

theorem State.setCan_keeps {P : State → Prop} (hP : Stable P) (s : State) (c receive transmit : Nat) (hk : P s) : P (State.setCan s c receive transmit) := by
  unfold State.setCan
  repeat' first | with_reducible assumption | with_reducible apply State.set_keeps hP | split | dsimp only | intro _

theorem State.setCanPort_keeps {P : State → Prop} (hP : Stable P) (s : State) (c : Nat) (v : CanPort) (hk : P s) : P (State.setCanPort s c v) := by
  unfold State.setCanPort
  repeat' first | with_reducible assumption | with_reducible apply State.set_keeps hP | with_reducible apply State.setFlt_keeps hP | split | dsimp only | intro _

theorem State.canSends_keeps {P : State → Prop} (hP : Stable P) (s : State) (c : Nat) (x : CanSent) (hk : P s) : P (State.canSends s c x) := by
  unfold State.canSends
  repeat' first | with_reducible assumption | with_reducible apply keeps_when | with_reducible apply State.setCanPort_keeps hP | split | dsimp only | intro _

theorem State.canRxOk_keeps {P : State → Prop} (hP : Stable P) (s : State) (c : Nat) (hk : P s) : P (State.canRxOk s c) := by
  unfold State.canRxOk
  repeat' first | with_reducible assumption | with_reducible apply State.took_keeps hP | with_reducible apply State.setCan_keeps hP | split | dsimp only | intro _

theorem execCanBusError_keeps {P : State → Prop} (hP : Stable P) (c : Fin 4) (err : CanError) {s t : State} (h : execCanBusError c err s = .next t) (hs : P s) : P t := by
  unfold execCanBusError at h
  obtain rfl := Host.Outcome.next.inj h
  repeat' first | with_reducible assumption | with_reducible apply keeps_clocked | with_reducible apply State.setCan_keeps hP | with_reducible apply State.canSends_keeps hP | with_reducible apply State.canRxOk_keeps hP | split | dsimp only | intro _

theorem execBusOffRecovery_keeps {P : State → Prop} (hP : Stable P) (c : Fin 4) {s t : State} (h : execBusOffRecovery c s = .next t) (hs : P s) : P t := by
  unfold execBusOffRecovery at h
  obtain rfl := Host.Outcome.next.inj h
  repeat' first | with_reducible assumption | with_reducible apply keeps_clocked | with_reducible apply State.set_keeps hP | split | dsimp only | intro _

theorem State.canValue_keeps {P : State → Prop} (hP : Stable P) (s : State) (stamp perr : Nat) (v : CanValue) (hk : P s) : P (State.canValue s stamp perr v) := by
  unfold State.canValue
  repeat' first | with_reducible assumption | with_reducible apply State.deliver_keeps hP | with_reducible apply State.source_keeps hP | split | dsimp only | intro _

theorem State.takeCan_keeps {P : State → Prop} (hP : Stable P) (s : State) (c perr : Nat) (hk : P s) : P (State.takeCan s c perr) := by
  unfold State.takeCan
  repeat' first | with_reducible assumption | with_reducible apply keeps_each | with_reducible apply State.setCanPort_keeps hP | with_reducible apply State.canValue_keeps hP | split | dsimp only | intro _

theorem State.takeCans_keeps {P : State → Prop} (hP : Stable P) (s : State) (c perr : Nat) (l : Nat) (hk : P s) : P (State.takeCans s c perr l) := by
  fun_induction State.takeCans <;> (repeat' first | with_reducible assumption | with_reducible apply_assumption | with_reducible apply State.takeCan_keeps hP | split | dsimp only | intro _)

theorem State.keepFrame_keeps {P : State → Prop} (hP : Stable P) (s : State) (c sof : Nat) (fr : CanFrame) (hk : P s) : P (State.keepFrame s c sof fr) := by
  unfold State.keepFrame
  repeat' first | with_reducible assumption | with_reducible apply State.add_keeps hP | with_reducible apply State.inc_keeps hP | with_reducible apply State.setCanPort_keeps hP | split | dsimp only | intro _

theorem execCanFrame_keeps {P : State → Prop} (hP : Stable P) (c : Fin 4) (sof : Nat) (fr : CanFrame) (taken perr : Nat) {s t : State} (h : execCanFrame c sof fr taken perr s = .next t) (hs : P s) : P t := by
  unfold execCanFrame at h
  obtain rfl := Host.Outcome.next.inj h
  repeat' first | with_reducible assumption | with_reducible apply keeps_clocked | with_reducible apply State.canSends_keeps hP | with_reducible apply State.canRxOk_keeps hP | with_reducible apply State.takeCans_keeps hP | with_reducible apply State.keepFrame_keeps hP | split | dsimp only | intro _

theorem State.gnssSample_keeps {P : State → Prop} (hP : Stable P) (s : State) (o : Origin) (arrived frac : Nat) (vals : List Nat) (hk : P s) : P (State.gnssSample s o arrived frac vals) := by
  unfold State.gnssSample
  repeat' first | with_reducible assumption | with_reducible apply keeps_when | with_reducible apply State.inc_keeps hP | with_reducible apply State.deliver_keeps hP | split | dsimp only | intro _

theorem State.sentence_keeps {P : State → Prop} (hP : Stable P) (s : State) (arrived : Nat) (text : List Byte) (hk : P s) : P (State.sentence s arrived text) := by
  unfold State.sentence
  repeat' first | with_reducible assumption | with_reducible apply State.inc_keeps hP | with_reducible apply State.took_keeps hP | with_reducible apply State.gnssSample_keeps hP | split | dsimp only | intro _

theorem execGnssSentence_keeps {P : State → Prop} (hP : Stable P) (arrived : Nat) (text : List Byte) {s t : State} (h : execGnssSentence arrived text s = .next t) (hs : P s) : P t := by
  unfold execGnssSentence at h
  obtain rfl := Host.Outcome.next.inj h
  repeat' first | with_reducible assumption | with_reducible apply State.sentence_keeps hP | split | dsimp only | intro _

theorem execGnssByte_keeps {P : State → Prop} (hP : Stable P) (b : Byte) {s t : State} (h : execGnssByte b s = .next t) (hs : P s) : P t := by
  unfold execGnssByte at h
  obtain rfl := Host.Outcome.next.inj h
  repeat' first | with_reducible assumption | with_reducible apply State.inc_keeps hP | with_reducible apply State.setFlt_keeps hP | split | dsimp only | intro _

theorem State.popGnss_keeps {P : State → Prop} (hP : Stable P) (s : State) (hk : P s) : P (State.popGnss s) := by
  unfold State.popGnss
  repeat' first | with_reducible assumption | with_reducible apply State.setFlt_keeps hP | split | dsimp only | intro _

theorem State.nextCoef_keeps {P : State → Prop} (hP : Stable P) (s : State) (hk : P s) : P (State.nextCoef s) := by
  unfold State.nextCoef
  repeat' first | with_reducible assumption | with_reducible apply State.add_keeps hP | split | dsimp only | intro _

theorem State.writeCoef_keeps {P : State → Prop} (hP : Stable P) (s : State) (v : Nat) (hk : P s) : P (State.writeCoef s v) := by
  unfold State.writeCoef
  repeat' first | with_reducible assumption | with_reducible apply State.set_keeps hP | with_reducible apply State.setFlt_keeps hP | with_reducible apply State.fltRunWrite_keeps hP | with_reducible apply State.nextCoef_keeps hP | split | dsimp only | intro _

end Sys2Proof.Machine
end

