-- ==== Sys2Proof/Laws/KeepsTime.lean ====
section
/-! SUPPORT. Every operation of Machine/Time.lean keeps every stable property. -/

set_option linter.unusedTactic false
set_option linter.unreachableTactic false

namespace Sys2Proof.Machine

theorem State.advance_keeps {P : State → Prop} (hP : Stable P) (s : State) (n : Nat) (hk : P s) : P (State.advance s n) := by
  unfold State.advance
  dsimp only
  split
  · exact hP.time (fun _ => rfl) hk
  · exact hP.time (fun h => h) hk

theorem State.setSlew_keeps {P : State → Prop} (hP : Stable P) (s : State) (k : Nat) (w : Slew) (hk : P s) : P (State.setSlew s k w) := by
  unfold State.setSlew
  repeat' first | with_reducible assumption | split | with_reducible refine keeps_setTime hP (fun h => h) ?_ | dsimp only | intro _

theorem execSlewIntervalEnd_keeps {P : State → Prop} (hP : Stable P) (k : Fin 3) {s t : State} (h : execSlewIntervalEnd k s = .next t) (hs : P s) : P t := by
  unfold execSlewIntervalEnd at h
  obtain rfl := Host.Outcome.next.inj h
  repeat' first | with_reducible assumption | with_reducible apply State.idleFrom_keeps hP | with_reducible apply State.advance_keeps hP | split | dsimp only | intro _

theorem State.setTpo_keeps {P : State → Prop} (hP : Stable P) (s : State) (p : Nat) (v : Tpo) (hk : P s) : P (State.setTpo s p v) := by
  unfold State.setTpo
  repeat' first | with_reducible assumption | with_reducible apply State.set_keeps hP | split | with_reducible refine keeps_setTime hP (fun h => h) ?_ | dsimp only | intro _

theorem State.placeTpo_keeps {P : State → Prop} (hP : Stable P) (s : State) (p : Nat) (hk : P s) : P (State.placeTpo s p) := by
  unfold State.placeTpo
  repeat' first | with_reducible assumption | with_reducible apply State.setFlag_keeps hP | with_reducible apply State.setTpo_keeps hP | split | dsimp only | intro _

theorem State.writeTpoCfg_keeps {P : State → Prop} (hP : Stable P) (s : State) (p v : Nat) (hk : P s) : P (State.writeTpoCfg s p v) := by
  unfold State.writeTpoCfg
  repeat' first | with_reducible assumption | with_reducible apply State.setFlag_keeps hP | with_reducible apply State.setTpo_keeps hP | with_reducible apply State.placeTpo_keeps hP | split | dsimp only | intro _

theorem execTpoEnable_keeps {P : State → Prop} (hP : Stable P) (p : Fin 4) (v : Word) {s t : State} (h : execTpoEnable p v s = .next t) (hs : P s) : P t := by
  unfold execTpoEnable at h
  obtain rfl := Host.Outcome.next.inj h
  repeat' first | with_reducible assumption | with_reducible apply State.bus_keeps hP | with_reducible apply State.writeTpoCfg_keeps hP | split | dsimp only | intro _

theorem execTpoDisable_keeps {P : State → Prop} (hP : Stable P) (p : Fin 4) (v : Word) {s t : State} (h : execTpoDisable p v s = .next t) (hs : P s) : P t := by
  unfold execTpoDisable at h
  obtain rfl := Host.Outcome.next.inj h
  repeat' first | with_reducible assumption | with_reducible apply State.bus_keeps hP | with_reducible apply State.writeTpoCfg_keeps hP | split | dsimp only | intro _

theorem execTpoEdge_keeps {P : State → Prop} (hP : Stable P) (p : Fin 4) {s t : State} (h : execTpoEdge p s = .next t) (hs : P s) : P t := by
  unfold execTpoEdge at h
  obtain rfl := Host.Outcome.next.inj h
  repeat' first | with_reducible assumption | with_reducible apply keeps_when | with_reducible apply State.raise_keeps hP | with_reducible apply State.setTpo_keeps hP | split | dsimp only | intro _

theorem State.redue_keeps {P : State → Prop} (hP : Stable P) (s : State) (hk : P s) : P (State.redue s) := by
  unfold State.redue
  repeat' first | with_reducible assumption | split | with_reducible refine keeps_with_deferred_obs hP ?_ | dsimp only | intro _

theorem State.retime_keeps {P : State → Prop} (hP : Stable P) (s : State) (hk : P s) : P (State.retime s) := by
  unfold State.retime
  repeat' first | with_reducible assumption | split | with_reducible refine keeps_with_cv_flt hP ?_ | dsimp only | intro _

theorem State.shiftPairs_keeps {P : State → Prop} (hP : Stable P) (s : State) (d : Int) (hk : P s) : P (State.shiftPairs s d) := by
  unfold State.shiftPairs
  repeat' first | with_reducible assumption | with_reducible apply keeps_each | with_reducible apply State.setPort_keeps hP | with_reducible apply State.setRb_keeps hP | split | dsimp only | intro _

theorem State.stepTime_keeps {P : State → Prop} (hP : Stable P) (s : State) (d : Int) (hk : P s) : P (State.stepTime s d) := by
  have h1 : P (s.setTime { s.time with dev := wrapTime (s.time.dev + d), followers := s.time.followers.map fun (f : Nat) => wrapTime ((f : Int) + d) }) :=
    hP.time (fun h => by simp [h]) hk
  dsimp only at h1
  unfold State.stepTime
  dsimp only
  with_reducible apply keeps_with_fab_pwr_ctl_reef_err hP
  repeat' first | with_reducible assumption | with_reducible apply h1 | with_reducible apply State.ageAll_keeps hP | with_reducible apply State.setFlag_keeps hP | with_reducible apply State.inc_keeps hP | with_reducible apply keeps_each | with_reducible apply State.placeTpo_keeps hP | with_reducible apply State.redue_keeps hP | with_reducible apply State.restartAll_keeps hP | with_reducible apply State.retime_keeps hP | with_reducible apply State.set_keeps hP | with_reducible apply State.shiftPairs_keeps hP | with_reducible apply State.clearReflex_keeps hP | intro _

theorem State.adjust_keeps {P : State → Prop} (hP : Stable P) (s : State) (amount : Int) (hk : P s) : P (State.adjust s amount) := by
  unfold State.adjust
  repeat' first | with_reducible assumption | with_reducible apply State.setFlag_keeps hP | with_reducible apply State.setSlew_keeps hP | with_reducible apply State.stepTime_keeps hP | split | dsimp only | intro _

theorem State.writeAdj_keeps {P : State → Prop} (hP : Stable P) (s : State) (rq hi : Nat) (hk : P s) : P (State.writeAdj s rq hi) := by
  unfold State.writeAdj
  repeat' first | with_reducible assumption | with_reducible apply State.joinPair_keeps hP | with_reducible apply State.adjust_keeps hP | split | dsimp only | intro _

theorem execStep_keeps {P : State → Prop} (hP : Stable P) (hi : Word) {s t : State} (h : execStep hi s = .next t) (hs : P s) : P t := by
  unfold execStep at h
  obtain rfl := Host.Outcome.next.inj h
  repeat' first | with_reducible assumption | with_reducible apply State.bus_keeps hP | with_reducible apply State.writeAdj_keeps hP | split | dsimp only | intro _

theorem execSlew_keeps {P : State → Prop} (hP : Stable P) (hi : Word) {s t : State} (h : execSlew hi s = .next t) (hs : P s) : P t := by
  unfold execSlew at h
  obtain rfl := Host.Outcome.next.inj h
  repeat' first | with_reducible assumption | with_reducible apply State.bus_keeps hP | with_reducible apply State.writeAdj_keeps hP | split | dsimp only | intro _

theorem State.writeIncr_keeps {P : State → Prop} (hP : Stable P) (s : State) (rq hi : Nat) (hk : P s) : P (State.writeIncr s rq hi) := by
  unfold State.writeIncr
  repeat' first | with_reducible assumption | with_reducible apply State.set_keeps hP | with_reducible apply State.setFlag_keeps hP | with_reducible apply State.joinPair_keeps hP | split | dsimp only | intro _

theorem execTimIncrWrite_keeps {P : State → Prop} (hP : Stable P) (hi : Word) {s t : State} (h : execTimIncrWrite hi s = .next t) (hs : P s) : P t := by
  unfold execTimIncrWrite at h
  obtain rfl := Host.Outcome.next.inj h
  repeat' first | with_reducible assumption | with_reducible apply State.bus_keeps hP | with_reducible apply State.writeIncr_keeps hP | split | dsimp only | intro _

theorem State.setDom_keeps {P : State → Prop} (hP : Stable P) (s : State) (x v : Nat) (hk : P s) : P (State.setDom s x v) := by
  unfold State.setDom
  repeat' first | with_reducible assumption | split | with_reducible refine keeps_setTime hP (fun h => h) ?_ | dsimp only | intro _

theorem State.writeDomIncr_keeps {P : State → Prop} (hP : Stable P) (s : State) (rq x hi : Nat) (hk : P s) : P (State.writeDomIncr s rq x hi) := by
  unfold State.writeDomIncr
  repeat' first | with_reducible assumption | with_reducible apply keeps_when | with_reducible apply State.set_keeps hP | with_reducible apply State.joinPair_keeps hP | split | dsimp only | intro _

theorem State.adjustDom_keeps {P : State → Prop} (hP : Stable P) (s : State) (x : Nat) (amount : Int) (hk : P s) : P (State.adjustDom s x amount) := by
  unfold State.adjustDom
  repeat' first | with_reducible assumption | with_reducible apply keeps_when | with_reducible apply State.setSlew_keeps hP | with_reducible apply State.stepTime_keeps hP | with_reducible apply State.setDom_keeps hP | split | dsimp only | intro _

theorem State.writeDomAdj_keeps {P : State → Prop} (hP : Stable P) (s : State) (rq x hi : Nat) (hk : P s) : P (State.writeDomAdj s rq x hi) := by
  unfold State.writeDomAdj
  repeat' first | with_reducible assumption | with_reducible apply State.joinPair_keeps hP | with_reducible apply State.adjustDom_keeps hP | split | dsimp only | intro _

theorem execDomainStep_keeps {P : State → Prop} (hP : Stable P) (x : Fin 2) (hi : Word) {s t : State} (h : execDomainStep x hi s = .next t) (hs : P s) : P t := by
  unfold execDomainStep at h
  obtain rfl := Host.Outcome.next.inj h
  repeat' first | with_reducible assumption | with_reducible apply State.bus_keeps hP | with_reducible apply State.writeDomAdj_keeps hP | split | dsimp only | intro _

theorem execDomainSlew_keeps {P : State → Prop} (hP : Stable P) (x : Fin 2) (hi : Word) {s t : State} (h : execDomainSlew x hi s = .next t) (hs : P s) : P t := by
  unfold execDomainSlew at h
  obtain rfl := Host.Outcome.next.inj h
  repeat' first | with_reducible assumption | with_reducible apply State.bus_keeps hP | with_reducible apply State.writeDomAdj_keeps hP | split | dsimp only | intro _

theorem State.writeSel_keeps {P : State → Prop} (hP : Stable P) (s : State) (v : Nat) (hk : P s) : P (State.writeSel s v) := by
  unfold State.writeSel
  repeat' first | with_reducible assumption | with_reducible apply State.set_keeps hP | with_reducible apply State.setFlag_keeps hP | with_reducible apply State.took_keeps hP | split | with_reducible refine keeps_setTime hP (fun h => h) ?_ | refine keeps_setTime hP (fun h => h) ?_ | dsimp only | intro _

theorem execSwitchRequest_keeps {P : State → Prop} (hP : Stable P) (v : Word) {s t : State} (h : execSwitchRequest v s = .next t) (hs : P s) : P t := by
  unfold execSwitchRequest at h
  obtain rfl := Host.Outcome.next.inj h
  repeat' first | with_reducible assumption | with_reducible apply State.bus_keeps hP | with_reducible apply State.writeSel_keeps hP | split | dsimp only | intro _

theorem State.switchTo_keeps {P : State → Prop} (hP : Stable P) (s : State) (dom : Nat) (force : Bool) (d : Int) (hk : P s) : P (State.switchTo s dom force d) := by
  unfold State.switchTo
  repeat' first | with_reducible assumption | with_reducible apply keeps_when | with_reducible apply State.set_keeps hP | with_reducible apply State.setFlag_keeps hP | with_reducible apply State.setInt_keeps hP | with_reducible apply State.inc_keeps hP | split | dsimp only | intro _

theorem execDomainSwitch_keeps {P : State → Prop} (hP : Stable P) {s t : State} (h : execDomainSwitch s = .next t) (hs : P s) : P t := by
  unfold execDomainSwitch at h
  obtain rfl := Host.Outcome.next.inj h
  repeat' first | with_reducible assumption | with_reducible apply State.setFlag_keeps hP | with_reducible apply State.setSlew_keeps hP | with_reducible apply State.stepTime_keeps hP | with_reducible apply State.switchTo_keeps hP | split | with_reducible refine keeps_setTime hP (fun h => h) ?_ | dsimp only | intro _

theorem State.setCaptures_keeps {P : State → Prop} (hP : Stable P) (s : State) (c : Nat) (l : List Nat) (hk : P s) : P (State.setCaptures s c l) := by
  unfold State.setCaptures
  repeat' first | with_reducible assumption | with_reducible apply State.set_keeps hP | split | with_reducible refine keeps_setTime hP (fun h => h) ?_ | dsimp only | intro _

theorem State.capture_keeps {P : State → Prop} (hP : Stable P) (s : State) (c t : Nat) (hk : P s) : P (State.capture s c t) := by
  unfold State.capture
  repeat' first | with_reducible assumption | with_reducible apply keeps_when | with_reducible apply State.set_keeps hP | with_reducible apply State.setFlag_keeps hP | with_reducible apply State.inc_keeps hP | with_reducible apply State.raise_keeps hP | with_reducible apply State.setCaptures_keeps hP | split | with_reducible refine keeps_setTime hP (fun h => h) ?_ | with_reducible refine keeps_with_ftu hP ?_ | dsimp only | intro _

theorem execTciEdge_keeps {P : State → Prop} (hP : Stable P) (c : Fin 4) (rising : Bool) (held : Nat) {s t : State} (h : execTciEdge c rising held s = .next t) (hs : P s) : P t := by
  unfold execTciEdge at h
  obtain rfl := Host.Outcome.next.inj h
  repeat' first | with_reducible assumption | with_reducible apply State.took_keeps hP | with_reducible apply State.wake_keeps hP | with_reducible apply State.capture_keeps hP | split | with_reducible refine keeps_with_reef hP ?_ | dsimp only | intro _

theorem State.readCapLo_keeps {P : State → Prop} (hP : Stable P) (s : State) (rq c : Nat) (hk : P s) : P (State.readCapLo s rq c).1 := by
  unfold State.readCapLo
  repeat' first | with_reducible assumption | with_reducible apply State.setCaptures_keeps hP | split | with_reducible refine keeps_with_latch hP ?_ | dsimp only | intro _

theorem State.setMac_keeps {P : State → Prop} (hP : Stable P) (s : State) (m : Nat) (v : Mac) (hk : P s) : P (State.setMac s m v) := by
  unfold State.setMac
  repeat' first | with_reducible assumption | with_reducible apply State.set_keeps hP | split | with_reducible refine keeps_setTime hP (fun h => h) ?_ | dsimp only | intro _

theorem State.ptpRecord_keeps {P : State → Prop} (hP : Stable P) (s : State) (m : Nat) (tx : Bool) (dom stamp slot : Nat) (frame : List Byte) (hk : P s) : P (State.ptpRecord s m tx dom stamp slot frame) := by
  unfold State.ptpRecord
  repeat' first | with_reducible assumption | with_reducible apply keeps_when | with_reducible apply State.hand_keeps hP | split | dsimp only | intro _

theorem execPtpFrame_keeps {P : State → Prop} (hP : Stable P) (m : Fin 2) (frame : List Byte) {s t : State} (h : execPtpFrame m frame s = .next t) (hs : P s) : P t := by
  unfold execPtpFrame at h
  obtain rfl := Host.Outcome.next.inj h
  repeat' first | with_reducible assumption | with_reducible apply State.inc_keeps hP | with_reducible apply State.ptpRecord_keeps hP | split | dsimp only | intro _

theorem State.writeTxDb_keeps {P : State → Prop} (hP : Stable P) (s : State) (m v : Nat) (hk : P s) : P (State.writeTxDb s m v) := by
  unfold State.writeTxDb
  repeat' first | with_reducible assumption | with_reducible apply State.setMac_keeps hP | split | dsimp only | intro _

theorem execMacTxDoorbell_keeps {P : State → Prop} (hP : Stable P) (m : Fin 2) (v : Word) {s t : State} (h : execMacTxDoorbell m v s = .next t) (hs : P s) : P t := by
  unfold execMacTxDoorbell at h
  obtain rfl := Host.Outcome.next.inj h
  repeat' first | with_reducible assumption | with_reducible apply State.bus_keeps hP | with_reducible apply State.writeTxDb_keeps hP | split | dsimp only | intro _

theorem State.writeTxrCfg_keeps {P : State → Prop} (hP : Stable P) (s : State) (m v : Nat) (hk : P s) : P (State.writeTxrCfg s m v) := by
  unfold State.writeTxrCfg
  repeat' first | with_reducible assumption | with_reducible apply keeps_when | with_reducible apply State.set_keeps hP | with_reducible apply State.setFlag_keeps hP | with_reducible apply State.setMac_keeps hP | split | dsimp only | intro _

theorem State.sendSlot_keeps {P : State → Prop} (hP : Stable P) (s : State) (m : Nat) (slot : List Byte) (hk : P s) : P (State.sendSlot s m slot) := by
  unfold State.sendSlot
  repeat' first | with_reducible assumption | with_reducible apply keeps_when | with_reducible apply State.set_keeps hP | with_reducible apply State.inc_keeps hP | with_reducible apply State.took_keeps hP | with_reducible apply State.setMac_keeps hP | with_reducible apply State.ptpRecord_keeps hP | split | dsimp only | intro _

theorem execTransmitSlot_keeps {P : State → Prop} (hP : Stable P) (m : Fin 2) (slot : List Byte) {s t : State} (h : execTransmitSlot m slot s = .next t) (hs : P s) : P t := by
  unfold execTransmitSlot at h
  obtain rfl := Host.Outcome.next.inj h
  repeat' first | with_reducible assumption | with_reducible apply State.sendSlot_keeps hP | split | dsimp only | intro _

theorem execExportDatagram_keeps {P : State → Prop} (hP : Stable P) (m : Fin 2) {s t : State} (h : execExportDatagram m s = .next t) (hs : P s) : P t := by
  unfold execExportDatagram at h
  obtain rfl := Host.Outcome.next.inj h
  repeat' first | with_reducible assumption | with_reducible apply keeps_when | with_reducible apply State.inc_keeps hP | with_reducible apply State.took_keeps hP | with_reducible apply State.setMac_keeps hP | split | dsimp only | intro _

end Sys2Proof.Machine
end

