-- ==== Sys2Proof/Laws/KeepsImage.lean ====
section
/-! SUPPORT. Every operation of Machine/Image.lean keeps every stable property. -/

set_option linter.unusedTactic false
set_option linter.unreachableTactic false

namespace Sys2Proof.Machine

theorem State.emptyShadow_keeps {P : State → Prop} (hP : Stable P) (s : State) (hk : P s) : P (State.emptyShadow s) := by
  unfold State.emptyShadow
  repeat' first | with_reducible assumption | with_reducible apply State.set_keeps hP | split | with_reducible refine keeps_with_shadow_ctl hP ?_ | dsimp only | intro _

theorem State.startLoad_keeps {P : State → Prop} (hP : Stable P) (s : State) (f q addr len : Nat) (inLpddr : Bool) (img : List Byte) (ecc : Ecc) (hk : P s) : P (State.startLoad s f q addr len inLpddr img ecc) := by
  unfold State.startLoad
  repeat' first | with_reducible assumption | with_reducible apply keeps_when | with_reducible apply State.set_keeps hP | with_reducible apply State.complete_keeps hP | with_reducible apply State.begin_keeps hP | with_reducible apply State.lpddrRead_keeps hP | with_reducible apply State.emptyShadow_keeps hP | split | with_reducible refine keeps_with_ctl hP ?_ | dsimp only | intro _

theorem State.showLoadWait_keeps {P : State → Prop} (hP : Stable P) (s : State) (hk : P s) : P (State.showLoadWait s) := by
  unfold State.showLoadWait
  repeat' first | with_reducible assumption | with_reducible apply State.setFlag_keeps hP | split | dsimp only | intro _

theorem execLoadSet_keeps {P : State → Prop} (hP : Stable P) (f : Fin 8) (q : Fin 4) (img : List Byte) (ecc : Ecc) {s t : State} (h : execLoadSet f q img ecc s = .next t) (hs : P s) : P t := by
  unfold execLoadSet at h
  obtain rfl := Host.Outcome.next.inj h
  repeat' first | with_reducible assumption | with_reducible apply keeps_when | with_reducible apply State.setCur_keeps hP | with_reducible apply State.complete_keeps hP | with_reducible apply State.fetched_keeps hP | with_reducible apply State.accept_keeps hP | with_reducible apply State.stage_keeps hP | with_reducible apply State.startLoad_keeps hP | with_reducible apply State.showLoadWait_keeps hP | split | dsimp only | intro _

theorem State.readSet_keeps {P : State → Prop} (hP : Stable P) (s : State) (c : ConfigSet) (l : List MemHit) (hk : P s) : P (State.readSet s c l).1 := by
  induction l generalizing s c with
  | nil => exact hk
  | cons h hs ih =>
    unfold State.readSet
    dsimp only
    repeat' first | with_reducible assumption | with_reducible apply ih | with_reducible apply State.checkWord_keeps hP | split | dsimp only

theorem execLoadSetComplete_keeps {P : State → Prop} (hP : Stable P) (hits : List MemHit) {s t : State} (h : execLoadSetComplete hits s = .next t) (hs : P s) : P t := by
  unfold execLoadSetComplete at h
  obtain rfl := Host.Outcome.next.inj h
  repeat' first | with_reducible assumption | with_reducible apply keeps_when | with_reducible apply State.set_keeps hP | with_reducible apply State.setFlag_keeps hP | with_reducible apply State.add_keeps hP | with_reducible apply State.completeOwner_keeps hP | with_reducible apply State.readSet_keeps hP | split | with_reducible refine keeps_with_shadow_ctl hP ?_ | dsimp only | intro _

end Sys2Proof.Machine
end

