-- ==== Sys2Proof/Laws/KeepsPower.lean ====
section
/-! SUPPORT. Every operation of Machine/Power.lean keeps every stable property. -/

set_option linter.unusedTactic false
set_option linter.unreachableTactic false

namespace Sys2Proof.Machine

theorem State.setPwr_keeps {P : State → Prop} (hP : Stable P) (s : State) (p : Power) (hk : P s) : P (State.setPwr s p) := by
  unfold State.setPwr
  repeat' first | with_reducible assumption | split | with_reducible refine keeps_with_pwr hP ?_ | dsimp only | intro _

theorem State.showTarget_keeps {P : State → Prop} (hP : Stable P) (s : State) (hk : P s) : P (State.showTarget s) := by
  unfold State.showTarget
  repeat' first | with_reducible assumption | with_reducible apply State.set_keeps hP | split | dsimp only | intro _

theorem State.tracePower_keeps {P : State → Prop} (hP : Stable P) (s : State) (unit k data : Nat) (hk : P s) : P (State.tracePower s unit k data) := by
  unfold State.tracePower
  repeat' first | with_reducible assumption | with_reducible apply State.trace_keeps hP | split | dsimp only | intro _

theorem State.commandVolts_keeps {P : State → Prop} (hP : Stable P) (s : State) (hk : P s) : P (State.commandVolts s) := by
  unfold State.commandVolts
  repeat' first | with_reducible assumption | with_reducible apply State.setPwr_keeps hP | split | dsimp only | intro _

theorem State.switchClock_keeps {P : State → Prop} (hP : Stable P) (s : State) (op : Nat) (hk : P s) : P (State.switchClock s op) := by
  unfold State.switchClock
  repeat' first | with_reducible assumption | with_reducible apply State.set_keeps hP | with_reducible apply State.inc_keeps hP | with_reducible apply State.showTarget_keeps hP | with_reducible apply State.tracePower_keeps hP | split | dsimp only | intro _

theorem execOpStep_keeps {P : State → Prop} (hP : Stable P) {s t : State} (h : execOpStep s = .next t) (hs : P s) : P t := by
  unfold execOpStep at h
  obtain rfl := Host.Outcome.next.inj h
  repeat' first | with_reducible assumption | with_reducible apply State.setPwr_keeps hP | with_reducible apply State.showTarget_keeps hP | with_reducible apply State.commandVolts_keeps hP | with_reducible apply State.switchClock_keeps hP | split | dsimp only | intro _

theorem execVrCheck_keeps {P : State → Prop} (hP : Stable P) (d : Fin 2) (mv : Nat) {s t : State} (h : execVrCheck d mv s = .next t) (hs : P s) : P t := by
  unfold execVrCheck at h
  obtain rfl := Host.Outcome.next.inj h
  repeat' first | with_reducible assumption | with_reducible apply State.setFlag_keeps hP | with_reducible apply State.inc_keeps hP | with_reducible apply State.fault_keeps hP | with_reducible apply State.setPwr_keeps hP | split | dsimp only | intro _

theorem State.setLimiter_keeps {P : State → Prop} (hP : Stable P) (s : State) (r : Nat) (l : Limiter) (hk : P s) : P (State.setLimiter s r l) := by
  unfold State.setLimiter
  repeat' first | with_reducible assumption | with_reducible apply State.set_keeps hP | with_reducible apply State.setPwr_keeps hP | split | dsimp only | intro _

theorem State.stepDuty_keeps {P : State → Prop} (hP : Stable P) (s : State) (d : Nat) (hk : P s) : P (State.stepDuty s d) := by
  unfold State.stepDuty
  repeat' first | with_reducible assumption | with_reducible apply State.set_keeps hP | with_reducible apply State.setPwr_keeps hP | split | dsimp only | intro _

theorem State.showDuty_keeps {P : State → Prop} (hP : Stable P) (s : State) (hk : P s) : P (State.showDuty s) := by
  unfold State.showDuty
  repeat' first | with_reducible assumption | with_reducible apply State.stepDuty_keeps hP | split | dsimp only | intro _

theorem State.rollEnergy_keeps {P : State → Prop} (hP : Stable P) (s : State) (hk : P s) : P (State.rollEnergy s) := by
  unfold State.rollEnergy
  repeat' first | with_reducible assumption | with_reducible apply keeps_each | with_reducible apply State.set_keeps hP | with_reducible apply State.setPwr_keeps hP | split | dsimp only | intro _

theorem State.addEnergy_keeps {P : State → Prop} (hP : Stable P) (s : State) (d e : Nat) (hk : P s) : P (State.addEnergy s d e) := by
  unfold State.addEnergy
  repeat' first | with_reducible assumption | with_reducible apply State.setPwr_keeps hP | split | dsimp only | intro _

theorem State.markThrottled_keeps {P : State → Prop} (hP : Stable P) (s : State) (r : Nat) (hk : P s) : P (State.markThrottled s r) := by
  unfold State.markThrottled
  repeat' first | with_reducible assumption | with_reducible apply State.set_keeps hP | with_reducible apply State.setPwr_keeps hP | split | dsimp only | intro _

theorem State.lifeTrip_keeps {P : State → Prop} (hP : Stable P) (s : State) (r : Nat) (hk : P s) : P (State.lifeTrip s r) := by
  unfold State.lifeTrip
  repeat' first | with_reducible assumption | split | with_reducible refine keeps_with_obs hP ?_ | dsimp only | intro _

theorem State.limit_keeps {P : State → Prop} (hP : Stable P) (s : State) (r sum : Nat) (hk : P s) : P (State.limit s r sum) := by
  unfold State.limit
  repeat' first | with_reducible assumption | with_reducible apply keeps_when | with_reducible apply State.setFlag_keeps hP | with_reducible apply State.inc_keeps hP | with_reducible apply State.tracePower_keeps hP | with_reducible apply State.setLimiter_keeps hP | with_reducible apply State.lifeTrip_keeps hP | split | dsimp only | intro _

theorem State.addMeans_keeps {P : State → Prop} (hP : Stable P) (s : State) (r est meas : Nat) (hk : P s) : P (State.addMeans s r est meas) := by
  unfold State.addMeans
  repeat' first | with_reducible assumption | with_reducible apply State.count_keeps hP | with_reducible apply State.setLimiter_keeps hP | split | dsimp only | intro _

theorem State.shroudSample_keeps {P : State → Prop} (hP : Stable P) (s : State) (r e meas : Nat) (hk : P s) : P (State.shroudSample s r e meas) := by
  unfold State.shroudSample
  repeat' first | with_reducible assumption | with_reducible apply State.set_keeps hP | with_reducible apply State.showTarget_keeps hP | with_reducible apply State.setLimiter_keeps hP | with_reducible apply State.showDuty_keeps hP | with_reducible apply State.addEnergy_keeps hP | with_reducible apply State.markThrottled_keeps hP | with_reducible apply State.limit_keeps hP | with_reducible apply State.addMeans_keeps hP | split | dsimp only | intro _

theorem execShroudSample_keeps {P : State → Prop} (hP : Stable P) (r : Fin 6) (acts : List Nat) (sense : Nat) {s t : State} (h : execShroudSample r acts sense s = .next t) (hs : P s) : P t := by
  unfold execShroudSample at h
  obtain rfl := Host.Outcome.next.inj h
  repeat' first | with_reducible assumption | with_reducible apply State.rollEnergy_keeps hP | with_reducible apply State.addMeans_keeps hP | with_reducible apply State.shroudSample_keeps hP | split | dsimp only | intro _

theorem execEstMismatch_keeps {P : State → Prop} (hP : Stable P) (r : Fin 5) {s t : State} (h : execEstMismatch r s = .next t) (hs : P s) : P t := by
  unfold execEstMismatch at h
  obtain rfl := Host.Outcome.next.inj h
  repeat' first | with_reducible assumption | with_reducible apply State.setFlag_keeps hP | with_reducible apply State.rollEnergy_keeps hP | split | dsimp only | intro _

theorem State.capAction_keeps {P : State → Prop} (hP : Stable P) (s : State) (hk : P s) : P (State.capAction s) := by
  unfold State.capAction
  repeat' first | with_reducible assumption | with_reducible apply State.inc_keeps hP | with_reducible apply State.setPwr_keeps hP | with_reducible apply State.showTarget_keeps hP | with_reducible apply State.tracePower_keeps hP | with_reducible apply State.showDuty_keeps hP | split | dsimp only | intro _

theorem State.capDown_keeps {P : State → Prop} (hP : Stable P) (s : State) (m10 : Nat) (hk : P s) : P (State.capDown s m10) := by
  unfold State.capDown
  repeat' first | with_reducible assumption | with_reducible apply State.set_keeps hP | with_reducible apply State.setFlag_keeps hP | with_reducible apply State.condition_keeps hP | with_reducible apply State.capAction_keeps hP | split | dsimp only | intro _

theorem State.capUp_keeps {P : State → Prop} (hP : Stable P) (s : State) (hk : P s) : P (State.capUp s) := by
  unfold State.capUp
  repeat' first | with_reducible assumption | with_reducible apply State.set_keeps hP | with_reducible apply State.capAction_keeps hP | split | dsimp only | intro _

theorem State.evaluateCap_keeps {P : State → Prop} (hP : Stable P) (s : State) (hk : P s) : P (State.evaluateCap s) := by
  unfold State.evaluateCap
  repeat' first | with_reducible assumption | with_reducible apply State.setFlag_keeps hP | with_reducible apply State.capDown_keeps hP | with_reducible apply State.capUp_keeps hP | split | dsimp only | intro _

theorem execCapEvaluation_keeps {P : State → Prop} (hP : Stable P) {s t : State} (h : execCapEvaluation s = .next t) (hs : P s) : P t := by
  unfold execCapEvaluation at h
  obtain rfl := Host.Outcome.next.inj h
  repeat' first | with_reducible assumption | with_reducible apply State.setPwr_keeps hP | with_reducible apply State.rollEnergy_keeps hP | with_reducible apply State.evaluateCap_keeps hP | split | dsimp only | intro _

theorem State.takeTemps_keeps {P : State → Prop} (hP : Stable P) (s : State) (temps : List Int) (hk : P s) : P (State.takeTemps s temps) := by
  unfold State.takeTemps
  repeat' first | with_reducible assumption | with_reducible apply keeps_each | with_reducible apply State.set_keeps hP | split | dsimp only | intro _

theorem State.thermalChange_keeps {P : State → Prop} (hP : Stable P) (s : State) (hk : P s) : P (State.thermalChange s) := by
  unfold State.thermalChange
  repeat' first | with_reducible assumption | with_reducible apply State.showTarget_keeps hP | with_reducible apply State.tracePower_keeps hP | with_reducible apply State.showDuty_keeps hP | split | dsimp only | intro _

theorem State.lessDuty_keeps {P : State → Prop} (hP : Stable P) (s : State) (hk : P s) : P (State.lessDuty s) := by
  unfold State.lessDuty
  repeat' first | with_reducible assumption | with_reducible apply State.set_keeps hP | split | dsimp only | intro _

theorem State.beginThrottle_keeps {P : State → Prop} (hP : Stable P) (s : State) (hk : P s) : P (State.beginThrottle s) := by
  unfold State.beginThrottle
  repeat' first | with_reducible assumption | with_reducible apply State.set_keeps hP | with_reducible apply State.setFlag_keeps hP | with_reducible apply State.inc_keeps hP | with_reducible apply State.thermalChange_keeps hP | with_reducible apply State.lessDuty_keeps hP | split | dsimp only | intro _

theorem State.throttleMore_keeps {P : State → Prop} (hP : Stable P) (s : State) (hk : P s) : P (State.throttleMore s) := by
  unfold State.throttleMore
  repeat' first | with_reducible assumption | with_reducible apply State.set_keeps hP | with_reducible apply State.thermalChange_keeps hP | with_reducible apply State.lessDuty_keeps hP | split | dsimp only | intro _

theorem State.throttleLess_keeps {P : State → Prop} (hP : Stable P) (s : State) (hk : P s) : P (State.throttleLess s) := by
  unfold State.throttleLess
  repeat' first | with_reducible assumption | with_reducible apply keeps_when | with_reducible apply State.set_keeps hP | with_reducible apply State.setFlag_keeps hP | with_reducible apply State.thermalChange_keeps hP | split | dsimp only | intro _

theorem State.controlThermal_keeps {P : State → Prop} (hP : Stable P) (s : State) (hk : P s) : P (State.controlThermal s) := by
  unfold State.controlThermal
  repeat' first | with_reducible assumption | with_reducible apply State.setPwr_keeps hP | with_reducible apply State.beginThrottle_keeps hP | with_reducible apply State.throttleMore_keeps hP | with_reducible apply State.throttleLess_keeps hP | split | dsimp only | intro _

theorem execThermalControl_keeps {P : State → Prop} (hP : Stable P) (temps : List Int) {s t : State} (h : execThermalControl temps s = .next t) (hs : P s) : P t := by
  unfold execThermalControl at h
  obtain rfl := Host.Outcome.next.inj h
  repeat' first | with_reducible assumption | with_reducible apply State.takeTemps_keeps hP | with_reducible apply State.controlThermal_keeps hP | split | dsimp only | intro _

theorem execRailMeasure_keeps {P : State → Prop} (hP : Stable P) (mv : List Nat) {s t : State} (h : execRailMeasure mv s = .next t) (hs : P s) : P t := by
  unfold execRailMeasure at h
  obtain rfl := Host.Outcome.next.inj h
  repeat' first | with_reducible assumption | with_reducible apply keeps_each | with_reducible apply State.set_keeps hP | with_reducible apply State.rollEnergy_keeps hP | split | dsimp only | intro _

theorem State.stepMargin_keeps {P : State → Prop} (hP : Stable P) (s : State) (d : Nat) (hk : P s) : P (State.stepMargin s d) := by
  unfold State.stepMargin
  repeat' first | with_reducible assumption | with_reducible apply State.set_keeps hP | with_reducible apply State.setPwr_keeps hP | with_reducible apply State.markThrottled_keeps hP | split | dsimp only | intro _

theorem State.setGauze_keeps {P : State → Prop} (hP : Stable P) (s : State) (n : Nat) (hk : P s) : P (State.setGauze s n) := by
  unfold State.setGauze
  repeat' first | with_reducible assumption | with_reducible apply keeps_when | with_reducible apply State.set_keeps hP | with_reducible apply State.setTns_keeps hP | with_reducible apply State.tracePower_keeps hP | with_reducible apply State.stepMargin_keeps hP | split | dsimp only | intro _

theorem State.enterPhase_keeps {P : State → Prop} (hP : Stable P) (s : State) (k : Nat) (hk : P s) : P (State.enterPhase s k) := by
  unfold State.enterPhase
  repeat' first | with_reducible assumption | with_reducible apply State.set_keeps hP | with_reducible apply State.setPwr_keeps hP | with_reducible apply State.showTarget_keeps hP | split | dsimp only | intro _

end Sys2Proof.Machine
end

