-- ==== Sys2Proof/Laws/KeepsDpp.lean ====
section
/-! SUPPORT. Every operation of Machine/Dpp.lean keeps every stable property. -/

set_option linter.unusedTactic false
set_option linter.unreachableTactic false

namespace Sys2Proof.Machine

theorem State.runDpp_keeps {P : State → Prop} (hP : Stable P) (s : State) (die i : Nat) (d : DppDesc) (parity : Bool) (hk : P s) : P (State.runDpp s die i d parity) := by
  unfold State.runDpp
  repeat' first | with_reducible assumption | with_reducible apply keeps_when | with_reducible apply State.setFlag_keeps hP | with_reducible apply State.add_keeps hP | with_reducible apply State.count_keeps hP | with_reducible apply State.setTns_keeps hP | split | dsimp only | intro _

theorem State.readHeads_keeps {P : State → Prop} (hP : Stable P) (s : State) (d : DppDesc) (hits : List MemHit) (hk : P s) : P (State.readHeads s d hits) := by
  unfold State.readHeads
  repeat' first | with_reducible assumption | with_reducible apply keeps_when | with_reducible apply State.readLayer_keeps hP | split | dsimp only | intro _

theorem execDppRun_keeps {P : State → Prop} (hP : Stable P) (die : Fin 2) (parity : Bool) (hits : List MemHit) {s t : State} (h : execDppRun die parity hits s = .next t) (hs : P s) : P t := by
  unfold execDppRun at h
  obtain rfl := Host.Outcome.next.inj h
  repeat' first | with_reducible assumption | with_reducible apply keeps_clocked | with_reducible apply State.parityCheck_keeps hP | with_reducible apply State.runDpp_keeps hP | with_reducible apply State.readHeads_keeps hP | split | dsimp only | intro _

end Sys2Proof.Machine
end

