-- ==== Sys2Proof/Laws/KeepsFusion.lean ====
section
/-! SUPPORT. Every operation of Machine/Fusion.lean keeps every stable property. -/

set_option linter.unusedTactic false
set_option linter.unreachableTactic false

namespace Sys2Proof.Machine

theorem State.setFtu_keeps {P : State → Prop} (hP : Stable P) (s : State) (f : Ftu) (hk : P s) : P (State.setFtu s f) := by
  unfold State.setFtu
  repeat' first | with_reducible assumption | split | with_reducible refine keeps_with_ftu hP ?_ | dsimp only | intro _

theorem State.setSlot_keeps {P : State → Prop} (hP : Stable P) (s : State) (k : Nat) (v : SourceSlot) (hk : P s) : P (State.setSlot s k v) := by
  unfold State.setSlot
  repeat' first | with_reducible assumption | with_reducible apply State.set_keeps hP | with_reducible apply State.setFtu_keeps hP | split | dsimp only | intro _

theorem State.setQuant_keeps {P : State → Prop} (hP : Stable P) (s : State) (q : Nat) (v : Quantity) (hk : P s) : P (State.setQuant s q v) := by
  unfold State.setQuant
  repeat' first | with_reducible assumption | with_reducible apply State.set_keeps hP | with_reducible apply State.setFtu_keeps hP | split | dsimp only | intro _

theorem State.takeIn_keeps {P : State → Prop} (hP : Stable P) (s : State) (ks : List Nat) (x : Sample) (hk : P s) : P (State.takeIn s ks x) := by
  unfold State.takeIn
  repeat' first | with_reducible assumption | with_reducible apply keeps_each | with_reducible apply State.setSlot_keeps hP | split | dsimp only | intro _

theorem State.intake_keeps {P : State → Prop} (hP : Stable P) (r : State × Intake) (x : Sample) (hk : P r.1) : P (State.intake r x).1 := by
  unfold State.intake
  repeat' first | with_reducible assumption | with_reducible apply State.setFlag_keeps hP | with_reducible apply State.inc_keeps hP | with_reducible apply State.took_keeps hP | with_reducible apply State.takeIn_keeps hP | with_reducible apply keeps_each | with_reducible apply State.setSlot_keeps hP | split | dsimp only | intro _

theorem State.takeVisual_keeps {P : State → Prop} (hP : Stable P) (s : State) (n : Nat) (hk : P s) : P (State.takeVisual s n) := by
  unfold State.takeVisual
  repeat' first | with_reducible assumption | with_reducible apply keeps_each | with_reducible apply State.arrive_keeps hP | with_reducible apply State.setSlot_keeps hP | split | with_reducible refine keeps_with_cv hP ?_ | dsimp only | intro _

theorem State.countExtrap_keeps {P : State → Prop} (hP : Stable P) (s : State) (n : Nat) (hk : P s) : P (State.countExtrap s n) := by
  unfold State.countExtrap
  repeat' first | with_reducible assumption | with_reducible apply State.add_keeps hP | split | dsimp only | intro _

theorem State.runTests_keeps {P : State → Prop} (hP : Stable P) (s : State) (hk : P s) : P (State.runTests s) := by
  unfold State.runTests
  repeat' first | with_reducible assumption | with_reducible apply keeps_each | with_reducible apply keeps_foldl | with_reducible apply State.setSlot_keeps hP | split | dsimp only | intro _

theorem State.decideMode_keeps {P : State → Prop} (hP : Stable P) (s : State) (hk : P s) : P (State.decideMode s) := by
  unfold State.decideMode
  repeat' first | with_reducible assumption | with_reducible apply State.setFlag_keeps hP | with_reducible apply State.setFtu_keeps hP | split | dsimp only | intro _

theorem State.maskGroup_keeps {P : State → Prop} (hP : Stable P) (s : State) (q g : Nat) (hk : P s) : P (State.maskGroup s q g) := by
  unfold State.maskGroup
  repeat' first | with_reducible assumption | with_reducible apply keeps_each | with_reducible apply State.setSlot_keeps hP | split | dsimp only | intro _

theorem State.readmit_keeps {P : State → Prop} (hP : Stable P) (s : State) (q : Nat) (hk : P s) : P (State.readmit s q) := by
  unfold State.readmit
  repeat' first | with_reducible assumption | with_reducible apply keeps_each | with_reducible apply State.setSlot_keeps hP | split | dsimp only | intro _

theorem State.stepContradiction_keeps {P : State → Prop} (hP : Stable P) (s : State) (q : Nat) (hk : P s) : P (State.stepContradiction s q) := by
  unfold State.stepContradiction
  repeat' first | with_reducible assumption | with_reducible apply State.setFlag_keeps hP | with_reducible apply State.inc_keeps hP | with_reducible apply State.condition_keeps hP | with_reducible apply State.setQuant_keeps hP | split | dsimp only | intro _

theorem State.testQuantity_keeps {P : State → Prop} (hP : Stable P) (s : State) (n q : Nat) (hk : P s) : P (State.testQuantity s n q) := by
  unfold State.testQuantity
  repeat' first | with_reducible assumption | with_reducible apply State.inc_keeps hP | with_reducible apply State.setQuant_keeps hP | with_reducible apply State.maskGroup_keeps hP | with_reducible apply State.readmit_keeps hP | with_reducible apply State.stepContradiction_keeps hP | split | dsimp only | intro _

theorem State.showSlots_keeps {P : State → Prop} (hP : Stable P) (s : State) (n : Nat) (hk : P s) : P (State.showSlots s n) := by
  unfold State.showSlots
  repeat' first | with_reducible assumption | with_reducible apply keeps_each | with_reducible apply keeps_when | with_reducible apply State.set_keeps hP | with_reducible apply State.setFlag_keeps hP | with_reducible apply State.inc_keeps hP | with_reducible apply State.setSlot_keeps hP | split | dsimp only | intro _

theorem State.monitors_keeps {P : State → Prop} (hP : Stable P) (s : State) (n : Nat) (hk : P s) : P (State.monitors s n) := by
  unfold State.monitors
  repeat' first | with_reducible assumption | with_reducible apply State.took_keeps hP | with_reducible apply State.runTests_keeps hP | with_reducible apply State.testQuantity_keeps hP | with_reducible apply State.showSlots_keeps hP | split | dsimp only | intro _

end Sys2Proof.Machine
end

