-- ==== Sys2Proof/Laws/KeepsTrack.lean ====
section
/-! SUPPORT. Every operation of Machine/Track.lean keeps every stable property. -/

set_option linter.unusedTactic false
set_option linter.unreachableTactic false

namespace Sys2Proof.Machine

theorem State.setMoment_keeps {P : State → Prop} (hP : Stable P) (s : State) (m : Moment) (hk : P s) : P (State.setMoment s m) := by
  unfold State.setMoment
  repeat' first | with_reducible assumption | with_reducible apply State.setFtu_keeps hP | split | dsimp only | intro _

theorem State.innovations_keeps {P : State → Prop} (hP : Stable P) (s : State) (n : Nat) (hk : P s) : P (State.innovations s n) := by
  unfold State.innovations
  repeat' first | with_reducible assumption | with_reducible apply keeps_each | with_reducible apply State.took_keeps hP | with_reducible apply State.setSlot_keeps hP | split | dsimp only | intro _

theorem State.carryClones_keeps {P : State → Prop} (hP : Stable P) (s : State) (hk : P s) : P (State.carryClones s) := by
  unfold State.carryClones
  repeat' first | with_reducible assumption | with_reducible apply State.took_keeps hP | with_reducible apply State.setMoment_keeps hP | split | dsimp only | intro _

theorem State.egoStep_keeps {P : State → Prop} (hP : Stable P) (s : State) (n : Nat) (hk : P s) : P (State.egoStep s n) := by
  unfold State.egoStep
  repeat' first | with_reducible assumption | with_reducible apply State.took_keeps hP | with_reducible apply State.setMoment_keeps hP | with_reducible apply State.carryClones_keeps hP | split | dsimp only | intro _

theorem State.cloneUpdate_keeps {P : State → Prop} (hP : Stable P) (s : State) (poison : Bool) (hk : P s) : P (State.cloneUpdate s poison) := by
  unfold State.cloneUpdate
  repeat' first | with_reducible assumption | with_reducible apply State.took_keeps hP | with_reducible apply State.setMoment_keeps hP | with_reducible apply State.carryClones_keeps hP | split | dsimp only | intro _

theorem State.birth_keeps {P : State → Prop} (hP : Stable P) (taken : List Nat) (s : State) (d : Projected) (hk : P s) : P (State.birth taken s d) := by
  unfold State.birth
  repeat' first | with_reducible assumption | with_reducible apply State.inc_keeps hP | with_reducible apply State.setMoment_keeps hP | split | dsimp only | intro _

theorem State.trackStep_keeps {P : State → Prop} (hP : Stable P) (s : State) (n : Nat) (valid own : Bool) (ds : List Projected) (hk : P s) : P (State.trackStep s n valid own ds).1 := by
  unfold State.trackStep
  repeat' first | with_reducible assumption | with_reducible apply keeps_each | with_reducible apply keeps_when | with_reducible apply State.setFlag_keeps hP | with_reducible apply State.add_keeps hP | with_reducible apply State.took_keeps hP | with_reducible apply State.count_keeps hP | with_reducible apply State.setMoment_keeps hP | with_reducible apply State.birth_keeps hP | split | dsimp only | intro _

theorem State.cloneStep_keeps {P : State → Prop} (hP : Stable P) (s : State) (n : Nat) (hk : P s) : P (State.cloneStep s n) := by
  unfold State.cloneStep
  repeat' first | with_reducible assumption | with_reducible apply State.setMoment_keeps hP | split | dsimp only | intro _

theorem State.sendFeatures_keeps {P : State → Prop} (hP : Stable P) (s : State) (hk : P s) : P (State.sendFeatures s) := by
  unfold State.sendFeatures
  repeat' first | with_reducible assumption | with_reducible apply State.setMoment_keeps hP | split | dsimp only | intro _

theorem State.trackConf_keeps {P : State → Prop} (hP : Stable P) (s : State) (d : Nat) (hk : P s) : P (State.trackConf s d) := by
  unfold State.trackConf
  repeat' first | with_reducible assumption | with_reducible apply State.add_keeps hP | with_reducible apply State.setMoment_keeps hP | split | dsimp only | intro _

theorem State.runInstant_keeps {P : State → Prop} (hP : Stable P) (s : State) (x : Instant) (own : Option Nat) (hk : P s) : P (State.runInstant s x own).1 := by
  unfold State.runInstant
  repeat' first | with_reducible assumption | with_reducible apply keeps_when | with_reducible apply State.add_keeps hP | with_reducible apply State.setFtu_keeps hP | with_reducible apply State.countExtrap_keeps hP | with_reducible apply State.monitors_keeps hP | with_reducible apply State.innovations_keeps hP | with_reducible apply State.egoStep_keeps hP | with_reducible apply State.cloneUpdate_keeps hP | with_reducible apply State.trackStep_keeps hP | with_reducible apply State.cloneStep_keeps hP | with_reducible apply State.sendFeatures_keeps hP | with_reducible apply State.trackConf_keeps hP | split | dsimp only | intro _

theorem State.replay_keeps {P : State → Prop} (hP : Stable P) (s : State) (stamp : Nat) (hk : P s) : P (State.replay s stamp) := by
  unfold State.replay
  repeat' first | with_reducible assumption | with_reducible apply keeps_each | with_reducible apply State.add_keeps hP | with_reducible apply State.inc_keeps hP | with_reducible apply State.setFtu_keeps hP | with_reducible apply State.setMoment_keeps hP | with_reducible apply State.runInstant_keeps hP | split | dsimp only | intro _

theorem State.sendRecord_keeps {P : State → Prop} (hP : Stable P) (s : State) (r : Rec) (hk : P s) : P (State.sendRecord s r) := by
  unfold State.sendRecord
  repeat' first | with_reducible assumption | with_reducible apply keeps_each | with_reducible apply State.hand_keeps hP | with_reducible apply State.setMac_keeps hP | split | dsimp only | intro _

theorem State.tracePass_keeps {P : State → Prop} (hP : Stable P) (s : State) (n : Nat) (r : Rec) (hk : P s) : P (State.tracePass s n r) := by
  unfold State.tracePass
  repeat' first | with_reducible assumption | with_reducible apply State.trace_keeps hP | split | dsimp only | intro _

theorem State.stepDecim_keeps {P : State → Prop} (hP : Stable P) (s : State) (n : Nat) (hk : P s) : P (State.stepDecim s n) := by
  unfold State.stepDecim
  repeat' first | with_reducible assumption | with_reducible apply State.setFtu_keeps hP | split | dsimp only | intro _

theorem State.passOver_keeps {P : State → Prop} (hP : Stable P) (s : State) (n : Nat) (hk : P s) : P (State.passOver s n) := by
  unfold State.passOver
  repeat' first | with_reducible assumption | with_reducible apply State.setTns_keeps hP | with_reducible apply State.setFab_keeps hP | with_reducible apply State.setFtu_keeps hP | split | dsimp only | intro _

theorem State.fusionPass_keeps {P : State → Prop} (hP : Stable P) (s : State) (n : Nat) (hk : P s) : P (State.fusionPass s n) := by
  unfold State.fusionPass
  repeat' first | with_reducible assumption | with_reducible apply keeps_foldl | with_reducible apply keeps_when | with_reducible apply State.inc_keeps hP | with_reducible apply State.setFtu_keeps hP | with_reducible apply State.intake_keeps hP | with_reducible apply State.takeVisual_keeps hP | with_reducible apply State.decideMode_keeps hP | with_reducible apply State.runInstant_keeps hP | with_reducible apply State.replay_keeps hP | with_reducible apply State.sendRecord_keeps hP | with_reducible apply State.tracePass_keeps hP | with_reducible apply State.passOver_keeps hP | split | with_reducible apply keeps_foldl_pair | dsimp only | intro _

theorem execFusionPass_keeps {P : State → Prop} (hP : Stable P) {s t : State} (h : execFusionPass s = .next t) (hs : P s) : P t := by
  unfold execFusionPass at h
  obtain rfl := Host.Outcome.next.inj h
  repeat' first | with_reducible assumption | with_reducible apply State.takeVisual_keeps hP | with_reducible apply State.stepDecim_keeps hP | with_reducible apply State.passOver_keeps hP | with_reducible apply State.fusionPass_keeps hP | split | dsimp only | intro _

theorem execResidualReturn_keeps {P : State → Prop} (hP : Stable P) (id : Nat) {s t : State} (h : execResidualReturn id s = .next t) (hs : P s) : P t := by
  unfold execResidualReturn at h
  obtain rfl := Host.Outcome.next.inj h
  repeat' first | with_reducible assumption | with_reducible apply State.setMoment_keeps hP | split | dsimp only | intro _

theorem State.startFtu_keeps {P : State → Prop} (hP : Stable P) (s : State) (n : Nat) (hk : P s) : P (State.startFtu s n) := by
  unfold State.startFtu
  repeat' first | with_reducible assumption | with_reducible apply keeps_each | with_reducible apply State.set_keeps hP | with_reducible apply State.setFlag_keeps hP | with_reducible apply State.setFtu_keeps hP | split | dsimp only | intro _

end Sys2Proof.Machine
end

