-- ==== Sys2Proof/Laws/KeepsControl.lean ====
section
/-! SUPPORT. Every operation of Machine/Control.lean keeps every stable property. -/

set_option linter.unusedTactic false
set_option linter.unreachableTactic false

namespace Sys2Proof.Machine

theorem State.setCtl_keeps {P : State → Prop} (hP : Stable P) (s : State) (c : Control) (hk : P s) : P (State.setCtl s c) := by
  unfold State.setCtl
  repeat' first | with_reducible assumption | split | with_reducible refine keeps_with_ctl hP ?_ | dsimp only | intro _

theorem State.sendCommand_keeps {P : State → Prop} (hP : Stable P) (s : State) (opcode f tick : Nat) (hk : P s) : P (State.sendCommand s opcode f tick) := by
  unfold State.sendCommand
  repeat' first | with_reducible assumption | with_reducible apply keeps_foldl | with_reducible apply State.inc_keeps hP | with_reducible apply State.trace_keeps hP | with_reducible apply State.setCtl_keeps hP | split | dsimp only | intro _

theorem State.hopPassed_keeps {P : State → Prop} (hP : Stable P) (s : State) (hk : P s) : P (State.hopPassed s) := by
  unfold State.hopPassed
  repeat' first | with_reducible assumption | split | with_reducible refine keeps_with_err hP ?_ | dsimp only | intro _

theorem execCommandMessage_keeps {P : State → Prop} (hP : Stable P) (die : Fin 5) (parity : Bool) {s t : State} (h : execCommandMessage die parity s = .next t) (hs : P s) : P t := by
  unfold execCommandMessage at h
  obtain rfl := Host.Outcome.next.inj h
  repeat' first | with_reducible assumption | with_reducible apply keeps_clocked | with_reducible apply State.parityCheck_keeps hP | with_reducible apply State.setCtl_keeps hP | with_reducible apply State.hopPassed_keeps hP | split | dsimp only | intro _

theorem State.refuseSet_keeps {P : State → Prop} (hP : Stable P) (s : State) (f q : Nat) (d : Done × Bool) (hk : P s) : P (State.refuseSet s f q d) := by
  unfold State.refuseSet
  repeat' first | with_reducible assumption | with_reducible apply keeps_when | with_reducible apply State.setFlag_keeps hP | with_reducible apply State.complete_keeps hP | split | dsimp only | intro _

theorem State.startCheck_keeps {P : State → Prop} (hP : Stable P) (s : State) (f q : Nat) {t : State} (hk : P s) (ht : State.startCheck s f q = some t) : P t := by
  unfold State.startCheck at ht
  try dsimp only at ht
  repeat' split at ht
  all_goals first | (obtain rfl := Option.some.inj ht; repeat' first | with_reducible assumption | with_reducible apply State.complete_keeps hP | with_reducible apply State.setFlag_keeps hP | with_reducible apply State.took_keeps hP) | (obtain ⟨d, _, rfl⟩ := Option.map_eq_some_iff.mp ht; exact State.refuseSet_keeps hP _ _ _ _ hk)

theorem execStart_keeps {P : State → Prop} (hP : Stable P) (f : Fin 8) (q : Fin 4) {s t : State} (h : execStart f q s = .next t) (hs : P s) : P t := by
  unfold execStart at h
  obtain rfl := Host.Outcome.next.inj h
  repeat' first | with_reducible assumption | with_reducible apply State.set_keeps hP | with_reducible apply State.begin_keeps hP | with_reducible apply State.accept_keeps hP | with_reducible apply State.setCtl_keeps hP | with_reducible apply State.sendCommand_keeps hP | split | refine State.startCheck_keeps hP _ _ _ ?_ (by with_reducible assumption) | dsimp only | intro _

theorem State.releaseHold_keeps {P : State → Prop} (hP : Stable P) (s : State) (hk : P s) : P (State.releaseHold s) := by
  unfold State.releaseHold
  repeat' first | with_reducible assumption | with_reducible apply State.setFlag_keeps hP | with_reducible apply State.hold_keeps hP | with_reducible apply State.setCtl_keeps hP | split | dsimp only | intro _

theorem State.startDense_keeps {P : State → Prop} (hP : Stable P) (s : State) (n : Nat) (hk : P s) : P (State.startDense s n) := by
  unfold State.startDense
  repeat' first | with_reducible assumption | with_reducible apply State.setTns_keeps hP | split | dsimp only | intro _

theorem execRunBegins_keeps {P : State → Prop} (hP : Stable P) {s t : State} (h : execRunBegins s = .next t) (hs : P s) : P t := by
  unfold execRunBegins at h
  obtain rfl := Host.Outcome.next.inj h
  repeat' first | with_reducible assumption | with_reducible apply State.set_keeps hP | with_reducible apply State.completeOwner_keeps hP | with_reducible apply State.setFlt_keeps hP | with_reducible apply State.startFabric_keeps hP | with_reducible apply State.startFtu_keeps hP | with_reducible apply State.setCtl_keeps hP | with_reducible apply State.releaseHold_keeps hP | with_reducible apply State.startDense_keeps hP | split | dsimp only | intro _

theorem State.swapCheck_keeps {P : State → Prop} (hP : Stable P) (s : State) (f q : Nat) {t : State} (hk : P s) (ht : State.swapCheck s f q = some t) : P t := by
  unfold State.swapCheck at ht
  try dsimp only at ht
  repeat' split at ht
  all_goals first | (obtain rfl := Option.some.inj ht; repeat' first | with_reducible assumption | with_reducible apply State.complete_keeps hP | with_reducible apply State.setFlag_keeps hP | with_reducible apply State.took_keeps hP) | (obtain ⟨d, _, rfl⟩ := Option.map_eq_some_iff.mp ht; exact State.refuseSet_keeps hP _ _ _ _ hk)

theorem execSwapSet_keeps {P : State → Prop} (hP : Stable P) (f : Fin 8) (q : Fin 4) {s t : State} (h : execSwapSet f q s = .next t) (hs : P s) : P t := by
  unfold execSwapSet at h
  obtain rfl := Host.Outcome.next.inj h
  repeat' first | with_reducible assumption | with_reducible apply State.set_keeps hP | with_reducible apply State.setFlag_keeps hP | with_reducible apply State.begin_keeps hP | with_reducible apply State.accept_keeps hP | with_reducible apply State.setTns_keeps hP | with_reducible apply State.setFab_keeps hP | with_reducible apply State.setCtl_keeps hP | with_reducible apply State.sendCommand_keeps hP | split | refine State.swapCheck_keeps hP _ _ _ ?_ (by with_reducible assumption) | dsimp only | intro _

theorem State.settleSwap_keeps {P : State → Prop} (hP : Stable P) (s : State) (taken : Bool) (hk : P s) : P (State.settleSwap s taken) := by
  unfold State.settleSwap
  repeat' first | with_reducible assumption | with_reducible apply State.setFlag_keeps hP | with_reducible apply State.setTns_keeps hP | with_reducible apply State.setFab_keeps hP | with_reducible apply State.setCtl_keeps hP | split | dsimp only | intro _

theorem State.exchangeSets_keeps {P : State → Prop} (hP : Stable P) (s : State) (hk : P s) : P (State.exchangeSets s) := by
  unfold State.exchangeSets
  repeat' first | with_reducible assumption | with_reducible apply State.set_keeps hP | with_reducible apply State.showTaint_keeps hP | split | with_reducible refine keeps_with_active_shadow_err hP ?_ | dsimp only | intro _

theorem State.swapPhase_keeps {P : State → Prop} (hP : Stable P) (s : State) (hk : P s) : P (State.swapPhase s) := by
  unfold State.swapPhase
  repeat' first | with_reducible assumption | with_reducible apply State.set_keeps hP | with_reducible apply State.showTarget_keeps hP | with_reducible apply State.enterPhase_keeps hP | split | dsimp only | intro _

theorem execSwapTakesEffect_keeps {P : State → Prop} (hP : Stable P) {s t : State} (h : execSwapTakesEffect s = .next t) (hs : P s) : P t := by
  unfold execSwapTakesEffect at h
  obtain rfl := Host.Outcome.next.inj h
  repeat' first | with_reducible assumption | with_reducible apply State.inc_keeps hP | with_reducible apply State.completeOwner_keeps hP | with_reducible apply State.setTns_keeps hP | with_reducible apply State.settleSwap_keeps hP | with_reducible apply State.exchangeSets_keeps hP | with_reducible apply State.swapPhase_keeps hP | split | dsimp only | intro _

theorem State.urgentDone_keeps {P : State → Prop} (hP : Stable P) (s : State) (f : Nat) (hk : P s) : P (State.urgentDone s f) := by
  unfold State.urgentDone
  repeat' first | with_reducible assumption | with_reducible apply State.setFlag_keeps hP | with_reducible apply State.raise_keeps hP | split | dsimp only | intro _

theorem State.tellStopper_keeps {P : State → Prop} (hP : Stable P) (s : State) (t : Nat) (l : Stopper) (hk : P s) : P (State.tellStopper s t l) := by
  unfold State.tellStopper
  repeat' first | with_reducible assumption | with_reducible apply State.complete_keeps hP | with_reducible apply State.urgentDone_keeps hP | split | dsimp only | intro _

theorem State.reportTick_keeps {P : State → Prop} (hP : Stable P) (s : State) (a : Asker) (t : Nat) (hk : P s) : P (State.reportTick s a t) := by
  unfold State.reportTick
  repeat' first | with_reducible assumption | with_reducible apply State.set_keeps hP | split | dsimp only | intro _

theorem State.addHold_keeps {P : State → Prop} (hP : Stable P) (s : State) (full : Bool) (t : Nat) (hk : P s) : P (State.addHold s full t) := by
  unfold State.addHold
  repeat' first | with_reducible assumption | with_reducible apply State.setFlag_keeps hP | with_reducible apply State.setCtl_keeps hP | split | dsimp only | intro _

theorem State.doomSwap_keeps {P : State → Prop} (hP : Stable P) (s : State) (t : Nat) (hk : P s) : P (State.doomSwap s t) := by
  unfold State.doomSwap
  repeat' first | with_reducible assumption | with_reducible apply State.setCtl_keeps hP | split | dsimp only | intro _

theorem State.newStop_keeps {P : State → Prop} (hP : Stable P) (s : State) (a : Asker) (full : Bool) (t : Nat) (hk : P s) : P (State.newStop s a full t) := by
  unfold State.newStop
  repeat' first | with_reducible assumption | with_reducible apply State.set_keeps hP | with_reducible apply State.setFlag_keeps hP | with_reducible apply State.setCtl_keeps hP | with_reducible apply State.sendCommand_keeps hP | with_reducible apply State.reportTick_keeps hP | with_reducible apply State.addHold_keeps hP | with_reducible apply State.doomSwap_keeps hP | split | dsimp only | intro _

theorem State.joinStop_keeps {P : State → Prop} (hP : Stable P) (s : State) (a : Asker) (full : Bool) (hk : P s) : P (State.joinStop s a full) := by
  unfold State.joinStop
  repeat' first | with_reducible assumption | with_reducible apply keeps_when | with_reducible apply State.add_keeps hP | with_reducible apply State.setCtl_keeps hP | with_reducible apply State.sendCommand_keeps hP | with_reducible apply State.reportTick_keeps hP | with_reducible apply State.addHold_keeps hP | split | dsimp only | intro _

theorem State.restop_keeps {P : State → Prop} (hP : Stable P) (s : State) (a : Asker) (full : Bool) (hk : P s) : P (State.restop s a full) := by
  unfold State.restop
  repeat' first | with_reducible assumption | with_reducible apply keeps_each | with_reducible apply keeps_when | with_reducible apply State.add_keeps hP | with_reducible apply State.sendCommand_keeps hP | with_reducible apply State.tellStopper_keeps hP | with_reducible apply State.reportTick_keeps hP | with_reducible apply State.addHold_keeps hP | split | dsimp only | intro _

theorem State.acceptStop_keeps {P : State → Prop} (hP : Stable P) (s : State) (a : Asker) (full : Bool) (hk : P s) : P (State.acceptStop s a full) := by
  unfold State.acceptStop
  repeat' first | with_reducible assumption | with_reducible apply State.set_keeps hP | with_reducible apply State.setFab_keeps hP | with_reducible apply State.setCtl_keeps hP | with_reducible apply State.newStop_keeps hP | with_reducible apply State.joinStop_keeps hP | with_reducible apply State.restop_keeps hP | split | dsimp only | intro _

theorem execStop_keeps {P : State → Prop} (hP : Stable P) (f : Fin 8) (q : Fin 4) {s t : State} (h : execStop f q s = .next t) (hs : P s) : P t := by
  unfold execStop at h
  obtain rfl := Host.Outcome.next.inj h
  repeat' first | with_reducible assumption | with_reducible apply State.begin_keeps hP | with_reducible apply State.accept_keeps hP | with_reducible apply State.acceptStop_keeps hP | split | dsimp only | intro _

theorem State.urgentWrite_keeps {P : State → Prop} (hP : Stable P) (s : State) (f v : Nat) (hk : P s) : P (State.urgentWrite s f v) := by
  unfold State.urgentWrite
  repeat' first | with_reducible assumption | with_reducible apply State.setFlag_keeps hP | with_reducible apply State.acceptStop_keeps hP | split | dsimp only | intro _

theorem execUrgentStop_keeps {P : State → Prop} (hP : Stable P) (f : Fin 8) (size : Nat) (v : Word) {s t : State} (h : execUrgentStop f size v s = .next t) (hs : P s) : P t := by
  unfold execUrgentStop at h
  obtain rfl := Host.Outcome.next.inj h
  repeat' first | with_reducible assumption | with_reducible apply State.doorbell_keeps hP | with_reducible apply State.urgentWrite_keeps hP | split | dsimp only | intro _

theorem State.takeHold_keeps {P : State → Prop} (hP : Stable P) (s : State) (hk : P s) : P (State.takeHold s) := by
  unfold State.takeHold
  repeat' first | with_reducible assumption | with_reducible apply State.setFlag_keeps hP | with_reducible apply State.hold_keeps hP | with_reducible apply State.setCtl_keeps hP | split | dsimp only | intro _

theorem State.abortSwap_keeps {P : State → Prop} (hP : Stable P) (s : State) (hk : P s) : P (State.abortSwap s) := by
  unfold State.abortSwap
  repeat' first | with_reducible assumption | with_reducible apply State.completeOwner_keeps hP | with_reducible apply State.settleSwap_keeps hP | split | dsimp only | intro _

theorem State.endCancelled_keeps {P : State → Prop} (hP : Stable P) (s : State) (hk : P s) : P (State.endCancelled s) := by
  unfold State.endCancelled
  repeat' first | with_reducible assumption | with_reducible apply keeps_each | with_reducible apply State.set_keeps hP | with_reducible apply State.completeOwner_keeps hP | with_reducible apply State.abortReads_keeps hP | with_reducible apply State.setCtl_keeps hP | with_reducible apply State.tellStopper_keeps hP | split | dsimp only | intro _

theorem execStopBoundary_keeps {P : State → Prop} (hP : Stable P) {s t : State} (h : execStopBoundary s = .next t) (hs : P s) : P t := by
  unfold execStopBoundary at h
  obtain rfl := Host.Outcome.next.inj h
  repeat' first | with_reducible assumption | with_reducible apply State.setFlt_keeps hP | with_reducible apply State.setCtl_keeps hP | with_reducible apply State.takeHold_keeps hP | with_reducible apply State.abortSwap_keeps hP | with_reducible apply State.endCancelled_keeps hP | split | dsimp only | intro _

theorem execCutComplete_keeps {P : State → Prop} (hP : Stable P) {s t : State} (h : execCutComplete s = .next t) (hs : P s) : P t := by
  unfold execCutComplete at h
  obtain rfl := Host.Outcome.next.inj h
  repeat' first | with_reducible assumption | with_reducible apply keeps_each | with_reducible apply State.set_keeps hP | with_reducible apply State.inc_keeps hP | with_reducible apply State.setTns_keeps hP | with_reducible apply State.abortReads_keeps hP | with_reducible apply State.setFtu_keeps hP | with_reducible apply State.setCtl_keeps hP | with_reducible apply State.tellStopper_keeps hP | split | dsimp only | intro _

theorem execSetPhase_keeps {P : State → Prop} (hP : Stable P) (f : Fin 8) (q : Fin 4) {s t : State} (h : execSetPhase f q s = .next t) (hs : P s) : P t := by
  unfold execSetPhase at h
  obtain rfl := Host.Outcome.next.inj h
  repeat' first | with_reducible assumption | with_reducible apply State.complete_keeps hP | with_reducible apply State.begin_keeps hP | with_reducible apply State.accept_keeps hP | with_reducible apply State.setCtl_keeps hP | with_reducible apply State.sendCommand_keeps hP | split | dsimp only | intro _

theorem execPhaseTakesEffect_keeps {P : State → Prop} (hP : Stable P) {s t : State} (h : execPhaseTakesEffect s = .next t) (hs : P s) : P t := by
  unfold execPhaseTakesEffect at h
  obtain rfl := Host.Outcome.next.inj h
  repeat' first | with_reducible assumption | with_reducible apply State.completeOwner_keeps hP | with_reducible apply State.enterPhase_keeps hP | with_reducible apply State.setCtl_keeps hP | split | dsimp only | intro _

theorem execFwUpdate_keeps {P : State → Prop} (hP : Stable P) (f : Fin 8) (q : Fin 4) (img : List Byte) {s t : State} (h : execFwUpdate f q img s = .next t) (hs : P s) : P t := by
  unfold execFwUpdate at h
  obtain rfl := Host.Outcome.next.inj h
  repeat' first | with_reducible assumption | with_reducible apply State.complete_keeps hP | with_reducible apply State.begin_keeps hP | with_reducible apply State.accept_keeps hP | with_reducible apply State.setCtl_keeps hP | split | dsimp only | intro _

theorem execFwUpdateDone_keeps {P : State → Prop} (hP : Stable P) (f : Fin 8) (q : Fin 4) {s t : State} (h : execFwUpdateDone f q s = .next t) (hs : P s) : P t := by
  unfold execFwUpdateDone at h
  obtain rfl := Host.Outcome.next.inj h
  repeat' first | with_reducible assumption | with_reducible apply State.complete_keeps hP | with_reducible apply State.setCtl_keeps hP | split | dsimp only | intro _

theorem State.failOperand_keeps {P : State → Prop} (hP : Stable P) (s : State) (f q : Nat) (poisoned : Bool) (hk : P s) : P (State.failOperand s f q poisoned) := by
  unfold State.failOperand
  repeat' first | with_reducible assumption | with_reducible apply State.setFlag_keeps hP | with_reducible apply State.complete_keeps hP | split | dsimp only | intro _

theorem State.failLoad_keeps {P : State → Prop} (hP : Stable P) (s : State) (f q : Nat) (poisoned : Bool) (hk : P s) : P (State.failLoad s f q poisoned) := by
  unfold State.failLoad
  repeat' first | with_reducible assumption | with_reducible apply keeps_when | with_reducible apply State.accept_keeps hP | with_reducible apply State.emptyShadow_keeps hP | with_reducible apply State.showLoadWait_keeps hP | with_reducible apply State.failOperand_keeps hP | split | dsimp only | intro _

theorem State.failFirmware_keeps {P : State → Prop} (hP : Stable P) (s : State) (f q : Nat) (poisoned : Bool) (hk : P s) : P (State.failFirmware s f q poisoned) := by
  unfold State.failFirmware
  repeat' first | with_reducible assumption | with_reducible apply keeps_when | with_reducible apply State.accept_keeps hP | with_reducible apply State.setCtl_keeps hP | with_reducible apply State.failOperand_keeps hP | split | dsimp only | intro _

theorem execOperandReadFail_keeps {P : State → Prop} (hP : Stable P) (hL : Stores P) (f : Fin 8) (q : Fin 4) (poisoned : Bool) {s t : State} (h : execOperandReadFail f q poisoned s = .next t) (hs : P s) : P t := by
  unfold execOperandReadFail at h
  obtain rfl := Host.Outcome.next.inj h
  repeat' first | with_reducible assumption | with_reducible apply State.took_keeps hP | with_reducible apply State.failOperand_keeps hP | with_reducible apply State.failLoad_keeps hP | with_reducible apply State.failFirmware_keeps hP | split | with_reducible refine hL.lpddr (fun h => Memory.wf_writeBytes h _ _) ?_ | dsimp only | intro _

end Sys2Proof.Machine
end

