-- ==== Sys2Proof/Laws/KeepsReef.lean ====
section
/-! SUPPORT. Every operation of Machine/Reef.lean keeps every stable property. -/

set_option linter.unusedTactic false
set_option linter.unreachableTactic false

namespace Sys2Proof.Machine

theorem State.setReef_keeps {P : State → Prop} (hP : Stable P) (s : State) (r : Reef) (hk : P s) : P (State.setReef s r) := by
  unfold State.setReef
  repeat' first | with_reducible assumption | split | with_reducible refine keeps_with_reef hP ?_ | dsimp only | intro _

theorem State.setReady_keeps {P : State → Prop} (hP : Stable P) (s : State) (b : Bool) (hk : P s) : P (State.setReady s b) := by
  unfold State.setReady
  repeat' first | with_reducible assumption | with_reducible apply keeps_each | with_reducible apply State.setFlag_keeps hP | split | dsimp only | intro _

theorem State.drainCans_keeps {P : State → Prop} (hP : Stable P) (s : State) (hk : P s) : P (State.drainCans s) := by
  unfold State.drainCans
  repeat' first | with_reducible assumption | with_reducible apply keeps_each | with_reducible apply State.takeCans_keeps hP | split | dsimp only | intro _

theorem State.idleCycle_keeps {P : State → Prop} (hP : Stable P) (s : State) (hk : P s) : P (State.idleCycle s) := by
  unfold State.idleCycle
  repeat' first | with_reducible assumption | with_reducible apply State.idleFrom_keeps hP | with_reducible apply State.advance_keeps hP | with_reducible apply State.drainCans_keeps hP | split | dsimp only | intro _

theorem State.enterReef_keeps {P : State → Prop} (hP : Stable P) (s : State) (n cycles : Nat) (hk : P s) : P (State.enterReef s n cycles) := by
  unfold State.enterReef
  repeat' first | with_reducible assumption | with_reducible apply State.setReef_keeps hP | with_reducible apply State.setReady_keeps hP | split | with_reducible refine keeps_with_phase hP ?_ | dsimp only | intro _

theorem execIdle1Expiry_keeps {P : State → Prop} (hP : Stable P) {s t : State} (h : execIdle1Expiry s = .next t) (hs : P s) : P t := by
  unfold execIdle1Expiry at h
  obtain rfl := Host.Outcome.next.inj h
  repeat' first | with_reducible assumption | with_reducible apply State.enterReef_keeps hP | split | dsimp only | intro _

theorem execIdle2Expiry_keeps {P : State → Prop} (hP : Stable P) (l12 : Bool) {s t : State} (h : execIdle2Expiry l12 s = .next t) (hs : P s) : P t := by
  unfold execIdle2Expiry at h
  obtain rfl := Host.Outcome.next.inj h
  repeat' first | with_reducible assumption | with_reducible apply State.enterReef_keeps hP | split | dsimp only | intro _

theorem State.copyLifetime_keeps {P : State → Prop} (hP : Stable P) (s : State) (ok : Bool) (hk : P s) : P (State.copyLifetime s ok) := by
  unfold State.copyLifetime
  repeat' first | with_reducible assumption | with_reducible apply State.set_keeps hP | with_reducible apply State.setFlag_keeps hP | split | with_reducible refine keeps_with_obs hP ?_ | dsimp only | intro _

theorem execIdle3Expiry_keeps {P : State → Prop} (hP : Stable P) {s t : State} (h : execIdle3Expiry s = .next t) (hs : P s) : P t := by
  unfold execIdle3Expiry at h
  obtain rfl := Host.Outcome.next.inj h
  repeat' first | with_reducible assumption | with_reducible apply State.took_keeps hP | split | with_reducible refine keeps_with_obs hP ?_ | with_reducible refine keeps_with_phase_reef hP ?_ | dsimp only | intro _

theorem State.railsDown_keeps {P : State → Prop} (hP : Stable P) (s : State) (hk : P s) : P (State.railsDown s) := by
  unfold State.railsDown
  repeat' first | with_reducible assumption | with_reducible apply keeps_when | with_reducible apply State.set_keeps hP | with_reducible apply State.setFlag_keeps hP | with_reducible apply State.setReef_keeps hP | with_reducible apply State.copyLifetime_keeps hP | split | dsimp only | intro _

theorem execReefEntryDone_keeps {P : State → Prop} (hP : Stable P) {s t : State} (h : execReefEntryDone s = .next t) (hs : P s) : P t := by
  unfold execReefEntryDone at h
  obtain rfl := Host.Outcome.next.inj h
  repeat' first | with_reducible assumption | with_reducible apply State.beginExit_keeps hP | with_reducible apply State.setReef_keeps hP | with_reducible apply State.railsDown_keeps hP | split | with_reducible refine keeps_with_phase hP ?_ | dsimp only | intro _

theorem execWake_keeps {P : State → Prop} (hP : Stable P) (w : WakeSource) {s t : State} (h : execWake w s = .next t) (hs : P s) : P t := by
  unfold execWake at h
  obtain rfl := Host.Outcome.next.inj h
  repeat' first | with_reducible assumption | with_reducible apply State.wake_keeps hP | split | dsimp only | intro _

theorem State.loseFields_keeps {P : State → Prop} (hP : Stable P) (s : State) (mask : Nat) (hk : P s) : P (State.loseFields s mask) := by
  unfold State.loseFields
  repeat' first | with_reducible assumption | split | with_reducible refine hP.regs (fun h => SMap.sorted_filter _ h) ?_ | dsimp only | intro _

theorem State.loseSampled_keeps {P : State → Prop} (hP : Stable P) (s : State) (resumed sram : Bool) (hk : P s) : P (State.loseSampled s resumed sram) := by
  unfold State.loseSampled
  repeat' first | with_reducible assumption | with_reducible apply State.trace_keeps hP | split | with_reducible refine keeps_with_time_host_ing_cv_tns_fab_flt_ftu_pwr_ctl_obs_err hP (fun h => h) rfl ?_ | dsimp only | intro _

theorem State.loseSetup_keeps {P : State → Prop} (hP : Stable P) (s : State) (hk : P s) : P (State.loseSetup s) := keeps_with_deferred_time_active_shadow_flt_obs_err hP (fun _ => rfl) hk

theorem State.loseRings_keeps {P : State → Prop} (hP : Stable P) (s : State) (hk : P s) : P (State.loseRings s) := by
  unfold State.loseRings
  repeat' first | with_reducible assumption | split | with_reducible refine keeps_with_latch_host hP rfl ?_ | dsimp only | intro _

theorem State.loseLpddr_keeps {P : State → Prop} (hP : Stable P) (hE : Empties P) (s : State) (hk : P s) : P (State.loseLpddr s) := hP.obs (v := { s.obs with dump := none }) (hE.lpddr hk)

theorem State.loseAll_keeps {P : State → Prop} (hP : Stable P) (hE : Empties P) (s : State) (sram : Bool) (mask : Nat) (causes : List Nat) (readyAt : Nat) (hk : P s) : P (State.loseAll s sram mask causes readyAt) := by
  unfold State.loseAll
  dsimp only
  with_reducible apply keeps_with_phase_reef hP
  repeat' first | with_reducible assumption | with_reducible apply State.loseLpddr_keeps hP hE | with_reducible apply State.loseRings_keeps hP | with_reducible apply State.loseSetup_keeps hP | with_reducible apply State.loseSampled_keeps hP | with_reducible apply State.loseFields_keeps hP

theorem State.reset60_keeps {P : State → Prop} (hP : Stable P) (hE : Empties P) (hR : Restarts P) (s : State) (cause place : Nat) (hk : P s) : P (State.reset60 s cause place) := by
  unfold State.reset60
  dsimp only
  exact State.setReef_keeps hP _ _ (State.loseAll_keeps hP hE _ _ _ _ _ (hR.resume hk))

theorem execWarmReset_keeps {P : State → Prop} (hP : Stable P) (hE : Empties P) (hR : Restarts P) (resetN : Bool) (held : Nat) {s t : State} (h : execWarmReset resetN held s = .next t) (hs : P s) : P t := by
  unfold execWarmReset at h
  obtain rfl := Host.Outcome.next.inj h
  repeat' first | with_reducible assumption | with_reducible apply State.reset60_keeps hP hE hR | split | dsimp only | intro _

theorem execWatchdogReset_keeps {P : State → Prop} (hP : Stable P) (hE : Empties P) (hR : Restarts P) {s t : State} (h : execWatchdogReset s = .next t) (hs : P s) : P t := by
  unfold execWatchdogReset at h
  obtain rfl := Host.Outcome.next.inj h
  repeat' first | with_reducible assumption | with_reducible apply State.reset60_keeps hP hE hR | split | dsimp only | intro _

theorem State.writeSoftReset_keeps {P : State → Prop} (hP : Stable P) (hS : SoftResets P) (s : State) (v : Nat) (hk : P s) : P (State.writeSoftReset s v) := hS.soft v hk

theorem execSoftReset_keeps {P : State → Prop} (hP : Stable P) (hS : SoftResets P) (key : Word) {s t : State} (h : execSoftReset key s = .next t) (hs : P s) : P t := by
  unfold execSoftReset at h
  obtain rfl := Host.Outcome.next.inj h
  repeat' first | with_reducible assumption | with_reducible apply State.bus_keeps hP | with_reducible apply State.writeSoftReset_keeps hP hS | split | dsimp only | intro _

theorem State.powerUp_keeps {P : State → Prop} (hP : Stable P) (hR : Restarts P) (s : State) (hk : P s) : P (State.powerUp s) := hR.powerUp hk

theorem execPor_keeps {P : State → Prop} (hP : Stable P) (hR : Restarts P) (straps : BitVec 3) (testEn : Bool) (gib : Nat) {s t : State} (h : execPor straps testEn gib s = .next t) (hs : P s) : P t := by
  unfold execPor at h
  obtain rfl := Host.Outcome.next.inj h
  repeat' first | with_reducible assumption | with_reducible apply State.set_keeps hP | with_reducible apply State.took_keeps hP | with_reducible apply State.powerUp_keeps hP hR | split | with_reducible refine keeps_with_phase_reef hP ?_ | dsimp only | intro _

theorem execAonPowerLoss_keeps {P : State → Prop} (hP : Stable P) (hR : Restarts P) {s t : State} (h : execAonPowerLoss s = .next t) (hs : P s) : P t := by
  unfold execAonPowerLoss at h
  obtain rfl := Host.Outcome.next.inj h
  repeat' first | with_reducible assumption | with_reducible apply State.powerUp_keeps hP hR | split | with_reducible refine keeps_with_phase_reef hP ?_ | dsimp only | intro _

theorem State.orphan_keeps {P : State → Prop} (hP : Stable P) (s : State) (f q : Nat) (hk : P s) : P (State.orphan s f q) := by
  unfold State.orphan
  repeat' first | with_reducible assumption | with_reducible apply keeps_when | with_reducible apply State.setCur_keeps hP | with_reducible apply State.stage_keeps hP | split | dsimp only | intro _

theorem State.losePage_keeps {P : State → Prop} (hP : Stable P) (s : State) (f : Nat) (hk : P s) : P (State.losePage s f) := by
  unfold State.losePage
  repeat' first | with_reducible assumption | split | with_reducible refine hP.regs (fun h => SMap.sorted_filter _ h) ?_ | dsimp only | intro _

theorem State.flrNow_keeps {P : State → Prop} (hP : Stable P) (s : State) (f : Nat) (hk : P s) : P (State.flrNow s f) := by
  unfold State.flrNow
  dsimp only
  with_reducible apply State.setReef_keeps hP
  refine keeps_with_latch_host_obs hP rfl ?_
  repeat' first | with_reducible assumption | with_reducible apply State.losePage_keeps hP | with_reducible apply State.setCtl_keeps hP | with_reducible apply keeps_each | with_reducible apply State.orphan_keeps hP | intro _

theorem execFlr_keeps {P : State → Prop} (hP : Stable P) (f : Fin 8) {s t : State} (h : execFlr f s = .next t) (hs : P s) : P t := by
  unfold execFlr at h
  obtain rfl := Host.Outcome.next.inj h
  repeat' first | with_reducible assumption | with_reducible apply State.bus_keeps hP | with_reducible apply State.flrNow_keeps hP | split | dsimp only | intro _

theorem State.recordPage_keeps {P : State → Prop} (hP : Stable P) (s : State) (mask f : Nat) (hk : P s) : P (State.recordPage s mask f) := by
  unfold State.recordPage
  repeat' first | with_reducible assumption | with_reducible apply State.set_keeps hP | with_reducible apply State.inc_keeps hP | split | dsimp only | intro _

theorem State.recordLoss_keeps {P : State → Prop} (hP : Stable P) (s : State) (causes : List Nat) (mask : Nat) (fns : List Nat) (hk : P s) : P (State.recordLoss s causes mask fns) := by
  unfold State.recordLoss
  repeat' first | with_reducible assumption | with_reducible apply keeps_each | with_reducible apply keeps_when | with_reducible apply State.set_keeps hP | with_reducible apply State.inc_keeps hP | with_reducible apply State.recordPage_keeps hP | split | dsimp only | intro _

theorem State.trainLpddr_keeps {P : State → Prop} (hP : Stable P) (s : State) (hk : P s) : P (State.trainLpddr s) := by
  unfold State.trainLpddr
  repeat' first | with_reducible assumption | with_reducible apply State.set_keeps hP | with_reducible apply State.setFlag_keeps hP | split | dsimp only | intro _

theorem State.bootMainstay_keeps {P : State → Prop} (hP : Stable P) (s : State) (hk : P s) : P (State.bootMainstay s) := by
  unfold State.bootMainstay
  repeat' first | with_reducible assumption | with_reducible apply keeps_foldl | with_reducible apply State.setFlag_keeps hP | with_reducible apply State.setReef_keeps hP | split | with_reducible refine keeps_with_obs hP ?_ | dsimp only | intro _

theorem State.trainLink_keeps {P : State → Prop} (hP : Stable P) (s : State) (hk : P s) : P (State.trainLink s) := by
  unfold State.trainLink
  repeat' first | with_reducible assumption | with_reducible apply State.set_keeps hP | with_reducible apply State.took_keeps hP | split | with_reducible refine keeps_with_host hP rfl ?_ | dsimp only | intro _

theorem State.forward_keeps {P : State → Prop} (hP : Stable P) (s : State) (d : Nat) (hk : P s) : P (State.forward s d) := hP.time (fun _ => rfl) hk

theorem State.leaveReef2_keeps {P : State → Prop} (hP : Stable P) (s : State) (hk : P s) : P (State.leaveReef2 s) := by
  unfold State.leaveReef2
  repeat' first | with_reducible assumption | with_reducible apply keeps_each | with_reducible apply State.set_keeps hP | with_reducible apply State.setFlag_keeps hP | with_reducible apply State.ageAll_keeps hP | with_reducible apply State.placeTpo_keeps hP | with_reducible apply State.retime_keeps hP | with_reducible apply State.capture_keeps hP | with_reducible apply State.loseFields_keeps hP | with_reducible apply State.loseSampled_keeps hP | with_reducible apply State.forward_keeps hP | split | with_reducible refine keeps_with_ctl_reef hP ?_ | dsimp only | intro _

theorem State.leaveReef3_keeps {P : State → Prop} (hP : Stable P) (hE : Empties P) (s : State) (hk : P s) : P (State.leaveReef3 s) := by
  unfold State.leaveReef3
  repeat' first | with_reducible assumption | with_reducible apply State.loseAll_keeps hP hE | with_reducible apply State.trainLpddr_keeps hP | with_reducible apply State.bootMainstay_keeps hP | with_reducible apply State.trainLink_keeps hP | split | dsimp only | intro _

theorem State.becomeReady_keeps {P : State → Prop} (hP : Stable P) (s : State) (hk : P s) : P (State.becomeReady s) := by
  unfold State.becomeReady
  repeat' first | with_reducible assumption | with_reducible apply keeps_each | with_reducible apply State.setFlag_keeps hP | with_reducible apply State.touch_keeps hP | with_reducible apply State.setReady_keeps hP | with_reducible apply State.recordLoss_keeps hP | split | with_reducible refine keeps_with_phase hP ?_ | with_reducible refine keeps_with_phase_reef hP ?_ | dsimp only | intro _

theorem State.showWake_keeps {P : State → Prop} (hP : Stable P) (s : State) (n : Nat) (m : WakeMark) (hk : P s) : P (State.showWake s n m) := by
  unfold State.showWake
  repeat' first | with_reducible assumption | with_reducible apply State.set_keeps hP | split | dsimp only | intro _

theorem State.comeReady_keeps {P : State → Prop} (hP : Stable P) (hE : Empties P) (s : State) {t : State} (hk : P s) (ht : State.comeReady s = some t) : P t := by
  unfold State.comeReady at ht
  try dsimp only at ht
  repeat' split at ht
  all_goals first | cases ht; done | skip
  all_goals obtain rfl := Option.some.inj ht
  all_goals repeat' first | with_reducible assumption | with_reducible apply State.showWake_keeps hP | with_reducible apply State.becomeReady_keeps hP | with_reducible apply State.trainLink_keeps hP | with_reducible apply State.bootMainstay_keeps hP | with_reducible apply State.trainLpddr_keeps hP | with_reducible apply State.leaveReef2_keeps hP | with_reducible apply State.leaveReef3_keeps hP hE | with_reducible apply keeps_each | with_reducible apply State.setFlag_keeps hP | with_reducible apply State.recordLoss_keeps hP | with_reducible apply State.setReef_keeps hP | intro _

theorem State.checkRails_keeps {P : State → Prop} (hP : Stable P) (s : State) (mv : List Nat) (ddr : Bool) (hk : P s) : P (State.checkRails s mv ddr) := by
  unfold State.checkRails
  repeat' first | with_reducible assumption | with_reducible apply State.setReef_keeps hP | split | with_reducible refine keeps_with_phase_reef hP ?_ | dsimp only | intro _

end Sys2Proof.Machine
end

