-- ==== Sys2Proof/Laws/KeepsErrors.lean ====
section
/-! SUPPORT. Every operation of Machine/Errors.lean keeps every stable property. -/

set_option linter.unusedTactic false
set_option linter.unreachableTactic false

namespace Sys2Proof.Machine

theorem State.setErr_keeps {P : State → Prop} (hP : Stable P) (s : State) (e : Errors) (hk : P s) : P (State.setErr s e) := by
  unfold State.setErr
  repeat' first | with_reducible assumption | split | with_reducible refine keeps_with_err hP ?_ | dsimp only | intro _

theorem State.flushRing_keeps {P : State → Prop} (hP : Stable P) (s : State) (f r : Nat) (hk : P s) : P (State.flushRing s f r) := by
  unfold State.flushRing
  repeat' first | with_reducible assumption | with_reducible apply keeps_each | with_reducible apply State.streamWrite_keeps hP | split | dsimp only | intro _

theorem State.flushStaged_keeps {P : State → Prop} (hP : Stable P) (s : State) (hk : P s) : P (State.flushStaged s) := by
  unfold State.flushStaged
  repeat' first | with_reducible assumption | with_reducible apply keeps_each | with_reducible apply State.flushRing_keeps hP | split | dsimp only | intro _

theorem State.dropOutputs_keeps {P : State → Prop} (hP : Stable P) (s : State) (hk : P s) : P (State.dropOutputs s) := by
  unfold State.dropOutputs
  repeat' first | with_reducible assumption | with_reducible apply keeps_each | with_reducible apply State.setFlag_keeps hP | split | with_reducible refine keeps_setTime hP (fun h => h) ?_ | refine keeps_setTime hP (fun h => h) ?_ | dsimp only | intro _

theorem State.reportFatal_keeps {P : State → Prop} (hP : Stable P) (s : State) (source die unit detail : Nat) (hk : P s) : P (State.reportFatal s source die unit detail) := by
  unfold State.reportFatal
  repeat' first | with_reducible assumption | with_reducible apply State.inc_keeps hP | with_reducible apply State.stage_keeps hP | with_reducible apply State.source_keeps hP | with_reducible apply State.flushRing_keeps hP | split | dsimp only | intro _

theorem State.failDescriptors_keeps {P : State → Prop} (hP : Stable P) (s : State) (hk : P s) : P (State.failDescriptors s) := by
  unfold State.failDescriptors
  repeat' first | with_reducible assumption | with_reducible apply keeps_each | with_reducible apply State.raise_keeps hP | with_reducible apply State.complete_keeps hP | split | dsimp only | intro _

theorem State.settleHost_keeps {P : State → Prop} (hP : Stable P) (s : State) (source die unit detail : Nat) (hk : P s) : P (State.settleHost s source die unit detail) := by
  unfold State.settleHost
  repeat' first | with_reducible assumption | with_reducible apply State.stageAll_keeps hP | with_reducible apply State.source_keeps hP | with_reducible apply State.flushStaged_keeps hP | with_reducible apply State.reportFatal_keeps hP | with_reducible apply State.failDescriptors_keeps hP | split | dsimp only | intro _

theorem State.haltDevice_keeps {P : State → Prop} (hP : Stable P) (s : State) (source die unit detail : Nat) (hk : P s) : P (State.haltDevice s source die unit detail) := by
  unfold State.haltDevice
  repeat' first | with_reducible assumption | with_reducible apply keeps_when | with_reducible apply State.source_keeps hP | with_reducible apply State.dropOutputs_keeps hP | with_reducible apply State.settleHost_keeps hP | split | with_reducible refine keeps_with_halted hP ?_ | dsimp only | intro _

theorem State.markWindow_keeps {P : State → Prop} (hP : Stable P) (s : State) (hk : P s) : P (State.markWindow s) := by
  unfold State.markWindow
  repeat' first | with_reducible assumption | with_reducible apply State.setFab_keeps hP | split | dsimp only | intro _

theorem State.discardTo_keeps {P : State → Prop} (hP : Stable P) (s : State) (d : Nat) (hk : P s) : P (State.discardTo s d) := by
  unfold State.discardTo
  repeat' first | with_reducible assumption | with_reducible apply State.add_keeps hP | split | with_reducible refine keeps_with_active_shadow_fab hP ?_ | dsimp only | intro _

theorem State.loseLoad_keeps {P : State → Prop} (hP : Stable P) (s : State) (d : Nat) (hk : P s) : P (State.loseLoad s d) := by
  unfold State.loseLoad
  repeat' first | with_reducible assumption | with_reducible apply State.set_keeps hP | with_reducible apply State.completeOwner_keeps hP | with_reducible apply State.emptyShadow_keeps hP | with_reducible apply State.showLoadWait_keeps hP | split | dsimp only | intro _

theorem State.loseSwap_keeps {P : State → Prop} (hP : Stable P) (s : State) (d : Nat) (hk : P s) : P (State.loseSwap s d) := by
  unfold State.loseSwap
  repeat' first | with_reducible assumption | with_reducible apply State.completeOwner_keeps hP | with_reducible apply State.settleSwap_keeps hP | split | dsimp only | intro _

theorem State.endFetches_keeps {P : State → Prop} (hP : Stable P) (s : State) (o : Done) (hk : P s) : P (State.endFetches s o) := by
  unfold State.endFetches
  repeat' first | with_reducible assumption | with_reducible apply keeps_each | with_reducible apply State.complete_keeps hP | split | dsimp only | intro _

theorem State.loseDumpPart_keeps {P : State → Prop} (hP : Stable P) (s : State) (d : Nat) (hk : P s) : P (State.loseDumpPart s d) := by
  unfold State.loseDumpPart
  repeat' first | with_reducible assumption | with_reducible apply State.endFetches_keeps hP | split | with_reducible refine keeps_with_obs hP ?_ | dsimp only | intro _

theorem State.loseCompute_keeps {P : State → Prop} (hP : Stable P) (s : State) (d : Nat) (hk : P s) : P (State.loseCompute s d) := by
  unfold State.loseCompute
  repeat' first | with_reducible assumption | with_reducible apply State.markWindow_keeps hP | with_reducible apply State.discardTo_keeps hP | with_reducible apply State.loseLoad_keeps hP | with_reducible apply State.loseSwap_keeps hP | split | dsimp only | intro _

theorem State.dropQueue_keeps {P : State → Prop} (hP : Stable P) (s : State) (p : Nat) (hk : P s) : P (State.dropQueue s p) := by
  unfold State.dropQueue
  repeat' first | with_reducible assumption | with_reducible apply State.add_keeps hP | with_reducible apply State.setPort_keeps hP | with_reducible apply State.waterMarks_keeps hP | split | dsimp only | intro _

theorem State.loseTap_keeps {P : State → Prop} (hP : Stable P) (s : State) (e : Nat) (c : Bool) (hk : P s) : P (State.loseTap s e c) := by
  unfold State.loseTap
  repeat' first | with_reducible assumption | with_reducible apply keeps_each | with_reducible apply State.stage_keeps hP | with_reducible apply State.setTap_keeps hP | split | dsimp only | intro _

theorem State.loseTrace_keeps {P : State → Prop} (hP : Stable P) (s : State) (hk : P s) : P (State.loseTrace s) := by
  unfold State.loseTrace
  repeat' first | with_reducible assumption | with_reducible apply State.set_keeps hP | with_reducible apply State.setTrace_keeps hP | with_reducible apply State.trace_keeps hP | split | dsimp only | intro _

theorem State.loseMemory_keeps {P : State → Prop} (hP : Stable P) (s : State) (d : Nat) (hk : P s) : P (State.loseMemory s d) := by
  unfold State.loseMemory
  repeat' first | with_reducible assumption | with_reducible apply keeps_each | with_reducible apply State.setCv_keeps hP | with_reducible apply State.dropQueue_keeps hP | with_reducible apply State.loseTap_keeps hP | with_reducible apply State.loseTrace_keeps hP | split | with_reducible refine keeps_with_ing hP ?_ | dsimp only | intro _

theorem State.enterMode_keeps {P : State → Prop} (hP : Stable P) (s : State) (m : Nat) (hk : P s) : P (State.enterMode s m) := by
  unfold State.enterMode
  repeat' first | with_reducible assumption | with_reducible apply State.set_keeps hP | with_reducible apply State.setErr_keeps hP | split | dsimp only | intro _

theorem State.takeOffline_keeps {P : State → Prop} (hP : Stable P) (s : State) (d : Nat) (hk : P s) : P (State.takeOffline s d) := by
  unfold State.takeOffline
  repeat' first | with_reducible assumption | with_reducible apply State.enterMode_keeps hP | with_reducible apply State.set_keeps hP | with_reducible apply State.setErr_keeps hP | with_reducible apply State.loseDumpPart_keeps hP | with_reducible apply State.loseCompute_keeps hP | with_reducible apply State.loseMemory_keeps hP | split | dsimp only | intro _

theorem State.applyFatal_keeps {P : State → Prop} (hP : Stable P) (s : State) (cls : FaultClass) (source die unit detail : Nat) (hk : P s) : P (State.applyFatal s cls source die unit detail) := by
  unfold State.applyFatal
  repeat' first | with_reducible assumption | with_reducible apply State.source_keeps hP | with_reducible apply State.haltDevice_keeps hP | with_reducible apply State.takeOffline_keeps hP | split | dsimp only | intro _

theorem State.hangActs_keeps {P : State → Prop} (hP : Stable P) (s : State) (die unit : Nat) (hk : P s) : P (State.hangActs s die unit) := by
  unfold State.hangActs
  repeat' first | with_reducible assumption | with_reducible apply State.applyFatal_keeps hP | split | dsimp only | intro _

theorem State.serveDump_keeps {P : State → Prop} (hP : Stable P) (s : State) (f q : Nat) (d : Dump) (eccs : List Ecc) (l : Op) (hk : P s) : P (State.serveDump s f q d eccs l) := by
  unfold State.serveDump
  repeat' first | with_reducible assumption | with_reducible apply State.took_keeps hP | with_reducible apply State.post_keeps hP | with_reducible apply State.complete_keeps hP | with_reducible apply State.copyRead_keeps hP | with_reducible apply State.readChunks_keeps hP | with_reducible apply State.beginWriter_keeps hP | split | dsimp only | intro _

theorem State.serveFetches_keeps {P : State → Prop} (hP : Stable P) (s : State) (d : Dump) (eccs : List Ecc) (hk : P s) : P (State.serveFetches s d eccs) := by
  unfold State.serveFetches
  repeat' first | with_reducible assumption | with_reducible apply keeps_each | with_reducible apply State.serveDump_keeps hP | split | dsimp only | intro _

theorem execDumpFetch_keeps {P : State → Prop} (hP : Stable P) (f : Fin 8) (q : Fin 4) (eccs : List Ecc) {s t : State} (h : execDumpFetch f q eccs s = .next t) (hs : P s) : P t := by
  unfold execDumpFetch at h
  obtain rfl := Host.Outcome.next.inj h
  repeat' first | with_reducible assumption | with_reducible apply keeps_clocked | with_reducible apply State.complete_keeps hP | with_reducible apply State.begin_keeps hP | with_reducible apply State.serveDump_keeps hP | split | dsimp only | intro _

theorem State.finishDump_keeps {P : State → Prop} (hP : Stable P) (s : State) (eccs : List Ecc) (hk : P s) : P (State.finishDump s eccs) := by
  unfold State.finishDump
  repeat' first | with_reducible assumption | with_reducible apply keeps_each | with_reducible apply State.set_keeps hP | with_reducible apply State.setFlag_keeps hP | with_reducible apply State.hangActs_keeps hP | with_reducible apply State.serveFetches_keeps hP | split | dsimp only | intro _

theorem State.fatal_keeps {P : State → Prop} (hP : Stable P) (s : State) (source die unit detail : Nat) (hk : P s) : P (State.fatal s source die unit detail) := by
  unfold State.fatal
  repeat' first | with_reducible assumption | with_reducible apply State.fault_keeps hP | with_reducible apply State.source_keeps hP | with_reducible apply State.applyFatal_keeps hP | with_reducible apply State.finishDump_keeps hP | split | dsimp only | intro _

theorem State.deviceFatal_keeps {P : State → Prop} (hP : Stable P) (s : State) (source die unit : Nat) (hk : P s) : P (State.deviceFatal s source die unit) := by
  unfold State.deviceFatal
  repeat' first | with_reducible assumption | with_reducible apply State.fault_keeps hP | with_reducible apply State.source_keeps hP | with_reducible apply State.haltDevice_keeps hP | split | dsimp only | intro _

theorem State.setLink_keeps {P : State → Prop} (hP : Stable P) (s : State) (l : Nat) (v : Link) (hk : P s) : P (State.setLink s l v) := by
  unfold State.setLink
  repeat' first | with_reducible assumption | with_reducible apply State.set_keeps hP | with_reducible apply State.setErr_keeps hP | split | dsimp only | intro _

theorem State.traceLink_keeps {P : State → Prop} (hP : Stable P) (s : State) (l kind : Nat) (hk : P s) : P (State.traceLink s l kind) := by
  unfold State.traceLink
  repeat' first | with_reducible assumption | with_reducible apply State.trace_keeps hP | split | dsimp only | intro _

theorem State.injectedFlit_keeps {P : State → Prop} (hP : Stable P) (s : State) (l : Nat) (hk : P s) : P (State.injectedFlit s l) := by
  unfold State.injectedFlit
  repeat' first | with_reducible assumption | with_reducible apply keeps_when | with_reducible apply State.set_keeps hP | split | dsimp only | intro _

theorem State.linkRetry_keeps {P : State → Prop} (hP : Stable P) (s : State) (l : Nat) (hk : P s) : P (State.linkRetry s l) := by
  unfold State.linkRetry
  repeat' first | with_reducible assumption | with_reducible apply State.inc_keeps hP | with_reducible apply State.fault_keeps hP | with_reducible apply State.setLink_keeps hP | with_reducible apply State.traceLink_keeps hP | with_reducible apply State.injectedFlit_keeps hP | split | dsimp only | intro _

theorem execVejanRetry_keeps {P : State → Prop} (hP : Stable P) (l : Fin 7) {s t : State} (h : execVejanRetry l s = .next t) (hs : P s) : P t := by
  unfold execVejanRetry at h
  obtain rfl := Host.Outcome.next.inj h
  repeat' first | with_reducible assumption | with_reducible apply keeps_clocked | with_reducible apply State.linkRetry_keeps hP | split | dsimp only | intro _

theorem State.lifeRetrain_keeps {P : State → Prop} (hP : Stable P) (s : State) (l : Nat) (hk : P s) : P (State.lifeRetrain s l) := by
  unfold State.lifeRetrain
  repeat' first | with_reducible assumption | split | with_reducible refine keeps_with_obs hP ?_ | dsimp only | intro _

theorem execRetrainComplete_keeps {P : State → Prop} (hP : Stable P) (l : Fin 7) {s t : State} (h : execRetrainComplete l s = .next t) (hs : P s) : P t := by
  unfold execRetrainComplete at h
  obtain rfl := Host.Outcome.next.inj h
  repeat' first | with_reducible assumption | with_reducible apply keeps_clocked | with_reducible apply State.inc_keeps hP | with_reducible apply State.fault_keeps hP | with_reducible apply State.setLink_keeps hP | with_reducible apply State.traceLink_keeps hP | with_reducible apply State.lifeRetrain_keeps hP | split | dsimp only | intro _

theorem execRetrainTimeout_keeps {P : State → Prop} (hP : Stable P) (l : Fin 7) {s t : State} (h : execRetrainTimeout l s = .next t) (hs : P s) : P t := by
  unfold execRetrainTimeout at h
  obtain rfl := Host.Outcome.next.inj h
  repeat' first | with_reducible assumption | with_reducible apply keeps_clocked | with_reducible apply State.fatal_keeps hP | with_reducible apply State.setLink_keeps hP | split | dsimp only | intro _

theorem execHalyardHopRetry_keeps {P : State → Prop} (hP : Stable P) {s t : State} (h : execHalyardHopRetry s = .next t) (hs : P s) : P t := by
  unfold execHalyardHopRetry at h
  obtain rfl := Host.Outcome.next.inj h
  repeat' first | with_reducible assumption | with_reducible apply keeps_clocked | with_reducible apply State.inc_keeps hP | with_reducible apply State.setErr_keeps hP | with_reducible apply State.deviceFatal_keeps hP | split | dsimp only | intro _

theorem State.writeDieReset_keeps {P : State → Prop} (hP : Stable P) (s : State) (v : Nat) (hk : P s) : P (State.writeDieReset s v) := by
  unfold State.writeDieReset
  repeat' first | with_reducible assumption | with_reducible apply keeps_each | with_reducible apply State.setErr_keeps hP | split | with_reducible refine keeps_with_obs hP ?_ | dsimp only | intro _

theorem execDieReset_keeps {P : State → Prop} (hP : Stable P) (v : Word) {s t : State} (h : execDieReset v s = .next t) (hs : P s) : P t := by
  unfold execDieReset at h
  obtain rfl := Host.Outcome.next.inj h
  repeat' first | with_reducible assumption | with_reducible apply State.bus_keeps hP | with_reducible apply State.writeDieReset_keeps hP | split | dsimp only | intro _

theorem State.dieBack_keeps {P : State → Prop} (hP : Stable P) (s : State) (d : Nat) (hk : P s) : P (State.dieBack s d) := by
  unfold State.dieBack
  repeat' first | with_reducible assumption | with_reducible apply keeps_when | with_reducible apply State.set_keeps hP | with_reducible apply State.setErr_keeps hP | split | dsimp only | intro _

theorem execDieResetDone_keeps {P : State → Prop} (hP : Stable P) (d : Fin 4) (pass : Bool) {s t : State} (h : execDieResetDone d pass s = .next t) (hs : P s) : P t := by
  unfold execDieResetDone at h
  obtain rfl := Host.Outcome.next.inj h
  repeat' first | with_reducible assumption | with_reducible apply keeps_clocked | with_reducible apply State.pass_keeps hP | with_reducible apply State.setErr_keeps hP | with_reducible apply State.fatal_keeps hP | with_reducible apply State.dieBack_keeps hP | split | dsimp only | intro _

theorem State.storePoison_keeps {P : State → Prop} (hP : Stable P) (s : State) (shadow : Bool) (l : MemWord) (hk : P s) : P (State.storePoison s shadow l) := by
  unfold State.storePoison
  repeat' first | with_reducible assumption | with_reducible apply State.set_keeps hP | with_reducible apply State.took_keeps hP | with_reducible apply State.setCv_keeps hP | split | with_reducible refine keeps_with_active hP ?_ | with_reducible refine keeps_with_shadow hP ?_ | dsimp only | intro _

theorem execScrubVisit_keeps {P : State → Prop} (hP : Stable P) (m : MemKind) (addr : Nat) (shadow : Bool) (hit : MemHit) {s t : State} (h : execScrubVisit m addr shadow hit s = .next t) (hs : P s) : P t := by
  unfold execScrubVisit at h
  obtain rfl := Host.Outcome.next.inj h
  repeat' first | with_reducible assumption | with_reducible apply keeps_when | with_reducible apply keeps_clocked | with_reducible apply State.eccRead_keeps hP | with_reducible apply State.storePoison_keeps hP | split | dsimp only | intro _

theorem execThermtrip_keeps {P : State → Prop} (hP : Stable P) (sensor : Nat) (temp : Int) {s t : State} (h : execThermtrip sensor temp s = .next t) (hs : P s) : P t := by
  unfold execThermtrip at h
  obtain rfl := Host.Outcome.next.inj h
  repeat' first | with_reducible assumption | with_reducible apply State.set_keeps hP | with_reducible apply State.setFlag_keeps hP | with_reducible apply State.deviceFatal_keeps hP | split | dsimp only | intro _

theorem execProgressWatchdogExpiry_keeps {P : State → Prop} (hP : Stable P) (die : Fin 5) (unit : Nat) (reasons : List Nat) (idleNs : Nat) {s t : State} (h : execProgressWatchdogExpiry die unit reasons idleNs s = .next t) (hs : P s) : P t := by
  unfold execProgressWatchdogExpiry at h
  obtain rfl := Host.Outcome.next.inj h
  repeat' first | with_reducible assumption | with_reducible apply keeps_clocked | with_reducible apply State.setFlag_keeps hP | with_reducible apply State.inc_keeps hP | with_reducible apply State.condition_keeps hP | with_reducible apply State.fault_keeps hP | with_reducible apply State.source_keeps hP | with_reducible apply State.hangActs_keeps hP | split | with_reducible refine keeps_with_obs hP ?_ | dsimp only | intro _

theorem execSnapshotCapture_keeps {P : State → Prop} (hP : Stable P) (die : Fin 5) (units : List UnitSnap) (eccs : List Ecc) {s t : State} (h : execSnapshotCapture die units eccs s = .next t) (hs : P s) : P t := by
  unfold execSnapshotCapture at h
  obtain rfl := Host.Outcome.next.inj h
  repeat' first | with_reducible assumption | with_reducible apply keeps_clocked | with_reducible apply State.finishDump_keeps hP | split | with_reducible refine keeps_with_obs hP ?_ | dsimp only | intro _

theorem State.writeSvc_keeps {P : State → Prop} (hP : Stable P) (s : State) (v : Nat) (hk : P s) : P (State.writeSvc s v) := by
  unfold State.writeSvc
  repeat' first | with_reducible assumption | with_reducible apply State.enterMode_keeps hP | with_reducible apply State.set_keeps hP | split | dsimp only | intro _

theorem execServiceModeWrite_keeps {P : State → Prop} (hP : Stable P) (v : Word) {s t : State} (h : execServiceModeWrite v s = .next t) (hs : P s) : P t := by
  unfold execServiceModeWrite at h
  obtain rfl := Host.Outcome.next.inj h
  repeat' first | with_reducible assumption | with_reducible apply State.bus_keeps hP | with_reducible apply State.writeSvc_keeps hP | split | dsimp only | intro _

end Sys2Proof.Machine
end

