-- ==== Sys2Proof/Laws/KeepsDebug.lean ====
section
/-! SUPPORT. Every operation of Machine/Debug.lean keeps every stable property. -/

set_option linter.unusedTactic false
set_option linter.unreachableTactic false

namespace Sys2Proof.Machine

theorem execConfigure_keeps {P : State → Prop} (hP : Stable P) (f : Fin 8) (q : Fin 4) {s t : State} (h : execConfigure f q s = .next t) (hs : P s) : P t := by
  unfold execConfigure at h
  obtain rfl := Host.Outcome.next.inj h
  repeat' first | with_reducible assumption | with_reducible apply keeps_clocked | with_reducible apply State.set_keeps hP | with_reducible apply State.setFlag_keeps hP | with_reducible apply State.complete_keeps hP | with_reducible apply State.setTrace_keeps hP | with_reducible apply State.trace_keeps hP | split | dsimp only | intro _

theorem execArm_keeps {P : State → Prop} (hP : Stable P) (f : Fin 8) (q : Fin 4) {s t : State} (h : execArm f q s = .next t) (hs : P s) : P t := by
  unfold execArm at h
  obtain rfl := Host.Outcome.next.inj h
  repeat' first | with_reducible assumption | with_reducible apply keeps_clocked | with_reducible apply State.set_keeps hP | with_reducible apply State.complete_keeps hP | with_reducible apply State.setTrace_keeps hP | with_reducible apply State.trace_keeps hP | split | dsimp only | intro _

theorem State.ignoreTrigger_keeps {P : State → Prop} (hP : Stable P) (s : State) (hk : P s) : P (State.ignoreTrigger s) := by
  unfold State.ignoreTrigger
  repeat' first | with_reducible assumption | with_reducible apply State.inc_keeps hP | split | dsimp only | intro _

theorem execTrigger_keeps {P : State → Prop} (hP : Stable P) (f : Fin 8) (q : Fin 4) {s t : State} (h : execTrigger f q s = .next t) (hs : P s) : P t := by
  unfold execTrigger at h
  obtain rfl := Host.Outcome.next.inj h
  repeat' first | with_reducible assumption | with_reducible apply keeps_clocked | with_reducible apply State.complete_keeps hP | with_reducible apply State.trigger_keeps hP | with_reducible apply State.ignoreTrigger_keeps hP | split | dsimp only | intro _

theorem State.freezeTrace_keeps {P : State → Prop} (hP : Stable P) (s : State) (hk : P s) : P (State.freezeTrace s) := by
  unfold State.freezeTrace
  repeat' first | with_reducible assumption | with_reducible apply State.set_keeps hP | with_reducible apply State.post_keeps hP | with_reducible apply State.setTrace_keeps hP | with_reducible apply State.trace_keeps hP | split | dsimp only | intro _

theorem execDisarm_keeps {P : State → Prop} (hP : Stable P) (f : Fin 8) (q : Fin 4) {s t : State} (h : execDisarm f q s = .next t) (hs : P s) : P t := by
  unfold execDisarm at h
  obtain rfl := Host.Outcome.next.inj h
  repeat' first | with_reducible assumption | with_reducible apply keeps_clocked | with_reducible apply State.complete_keeps hP | with_reducible apply State.freezeTrace_keeps hP | split | dsimp only | intro _

theorem execDrain_keeps {P : State → Prop} (hP : Stable P) (f : Fin 8) (q : Fin 4) (eccs : List Ecc) {s t : State} (h : execDrain f q eccs s = .next t) (hs : P s) : P t := by
  unfold execDrain at h
  obtain rfl := Host.Outcome.next.inj h
  repeat' first | with_reducible assumption | with_reducible apply keeps_clocked | with_reducible apply State.complete_keeps hP | with_reducible apply State.trace_keeps hP | with_reducible apply State.traceRead_keeps hP | with_reducible apply State.readChunks_keeps hP | with_reducible apply State.beginWriter_keeps hP | split | dsimp only | intro _

theorem execHardwareTrigger_keeps {P : State → Prop} (hP : Stable P) (k : Fin 9) {s t : State} (h : execHardwareTrigger k s = .next t) (hs : P s) : P t := by
  unfold execHardwareTrigger at h
  obtain rfl := Host.Outcome.next.inj h
  repeat' first | with_reducible assumption | with_reducible apply State.setTrace_keeps hP | with_reducible apply State.trace_keeps hP | with_reducible apply State.trigger_keeps hP | with_reducible apply State.ignoreTrigger_keeps hP | split | dsimp only | intro _

theorem State.setFifo_keeps {P : State → Prop} (hP : Stable P) (s : State) (d : Nat) (v : TraceFifo) (hk : P s) : P (State.setFifo s d v) := by
  unfold State.setFifo
  repeat' first | with_reducible assumption | with_reducible apply State.set_keeps hP | with_reducible apply State.setTrace_keeps hP | with_reducible apply State.trace_keeps hP | split | dsimp only | intro _

theorem State.gapEntry_keeps {P : State → Prop} (hP : Stable P) (s : State) (d : Nat) (hk : P s) : P (State.gapEntry s d) := by
  unfold State.gapEntry
  repeat' first | with_reducible assumption | with_reducible apply State.inc_keeps hP | with_reducible apply State.setFifo_keeps hP | split | dsimp only | intro _

theorem State.useQuota_keeps {P : State → Prop} (hP : Stable P) (s : State) (hk : P s) : P (State.useQuota s) := by
  unfold State.useQuota
  repeat' first | with_reducible assumption | with_reducible apply State.post_keeps hP | with_reducible apply State.setTrace_keeps hP | with_reducible apply State.trace_keeps hP | with_reducible apply State.freezeTrace_keeps hP | split | dsimp only | intro _

theorem execTraceFifoDrain_keeps {P : State → Prop} (hP : Stable P) (die : Fin 5) {s t : State} (h : execTraceFifoDrain die s = .next t) (hs : P s) : P t := by
  unfold execTraceFifoDrain at h
  obtain rfl := Host.Outcome.next.inj h
  repeat' first | with_reducible assumption | with_reducible apply keeps_clocked | with_reducible apply State.traceWrite_keeps hP | with_reducible apply State.setFifo_keeps hP | with_reducible apply State.gapEntry_keeps hP | with_reducible apply State.useQuota_keeps hP | split | dsimp only | intro _

theorem State.exportOne_keeps {P : State → Prop} (hP : Stable P) (s : State) (d k : Nat) (hk : P s) : P (State.exportOne s d k) := by
  unfold State.exportOne
  repeat' first | with_reducible assumption | with_reducible apply State.trace_keeps hP | split | dsimp only | intro _

theorem execCounterExport_keeps {P : State → Prop} (hP : Stable P) {s t : State} (h : execCounterExport s = .next t) (hs : P s) : P t := by
  unfold execCounterExport at h
  obtain rfl := Host.Outcome.next.inj h
  repeat' first | with_reducible assumption | with_reducible apply keeps_each | with_reducible apply keeps_clocked | with_reducible apply State.setTrace_keeps hP | with_reducible apply State.trace_keeps hP | with_reducible apply State.exportOne_keeps hP | split | dsimp only | intro _

theorem State.ingestEntry_keeps {P : State → Prop} (hP : Stable P) (s : State) (p : Nat) (hk : P s) : P (State.ingestEntry s p) := by
  unfold State.ingestEntry
  repeat' first | with_reducible assumption | with_reducible apply State.inc_keeps hP | with_reducible apply State.trace_keeps hP | split | dsimp only | intro _

theorem State.ingestTrace_keeps {P : State → Prop} (hP : Stable P) (s : State) (n : Nat) (hk : P s) : P (State.ingestTrace s n) := by
  unfold State.ingestTrace
  repeat' first | with_reducible assumption | with_reducible apply keeps_each | with_reducible apply State.setTrace_keeps hP | with_reducible apply State.trace_keeps hP | with_reducible apply State.ingestEntry_keeps hP | split | dsimp only | intro _

theorem State.requestSnap_keeps {P : State → Prop} (hP : Stable P) (s : State) (who : Nat) (hk : P s) : P (State.requestSnap s who) := by
  unfold State.requestSnap
  repeat' first | with_reducible assumption | split | with_reducible refine keeps_with_obs hP ?_ | dsimp only | intro _

theorem State.latchAll_keeps {P : State → Prop} (hP : Stable P) (s : State) (n : Nat) (hk : P s) : P (State.latchAll s n) := by
  unfold State.latchAll
  repeat' first | with_reducible assumption | with_reducible apply keeps_each | with_reducible apply State.set_keeps hP | split | dsimp only | intro _

theorem State.latchPage_keeps {P : State → Prop} (hP : Stable P) (s : State) (f n : Nat) (hk : P s) : P (State.latchPage s f n) := by
  unfold State.latchPage
  repeat' first | with_reducible assumption | with_reducible apply keeps_each | with_reducible apply State.set_keeps hP | split | dsimp only | intro _

theorem State.takeSnaps_keeps {P : State → Prop} (hP : Stable P) (s : State) (n : Nat) (hk : P s) : P (State.takeSnaps s n) := by
  unfold State.takeSnaps
  repeat' first | with_reducible assumption | with_reducible apply keeps_each | with_reducible apply State.latchAll_keeps hP | with_reducible apply State.latchPage_keeps hP | split | with_reducible refine keeps_with_obs hP ?_ | dsimp only | intro _

theorem execSnap_keeps {P : State → Prop} (hP : Stable P) (page : Option (Fin 8)) {s t : State} (h : execSnap page s = .next t) (hs : P s) : P t := by
  unfold execSnap at h
  obtain rfl := Host.Outcome.next.inj h
  repeat' first | with_reducible assumption | with_reducible apply State.bus_keeps hP | with_reducible apply State.requestSnap_keeps hP | split | dsimp only | intro _

theorem State.releaseDump_keeps {P : State → Prop} (hP : Stable P) (s : State) (hk : P s) : P (State.releaseDump s) := by
  unfold State.releaseDump
  repeat' first | with_reducible assumption | with_reducible apply State.set_keeps hP | with_reducible apply State.setFlag_keeps hP | split | with_reducible refine keeps_with_obs hP ?_ | dsimp only | intro _

theorem execRelease_keeps {P : State → Prop} (hP : Stable P) {s t : State} (h : execRelease s = .next t) (hs : P s) : P t := by
  unfold execRelease at h
  obtain rfl := Host.Outcome.next.inj h
  repeat' first | with_reducible assumption | with_reducible apply State.bus_keeps hP | with_reducible apply State.releaseDump_keeps hP | split | dsimp only | intro _

theorem execSurroundings_keeps {P : State → Prop} (hP : Stable P) (f : Fin 8) (q : Fin 4) (m : Measurement) {s t : State} (h : execSurroundings f q m s = .next t) (hs : P s) : P t := by
  unfold execSurroundings at h
  obtain rfl := Host.Outcome.next.inj h
  repeat' first | with_reducible assumption | with_reducible apply keeps_clocked | with_reducible apply State.took_keeps hP | with_reducible apply State.beginWriter_keeps hP | split | dsimp only | intro _

theorem execLifetimeSample_keeps {P : State → Prop} (hP : Stable P) {s t : State} (h : execLifetimeSample s = .next t) (hs : P s) : P t := by
  unfold execLifetimeSample at h
  obtain rfl := Host.Outcome.next.inj h
  repeat' first | with_reducible assumption | with_reducible apply keeps_foldl | split | with_reducible refine keeps_with_obs hP ?_ | dsimp only | intro _

theorem execLifetimeCopyWrite_keeps {P : State → Prop} (hP : Stable P) (ok : Bool) {s t : State} (h : execLifetimeCopyWrite ok s = .next t) (hs : P s) : P t := by
  unfold execLifetimeCopyWrite at h
  obtain rfl := Host.Outcome.next.inj h
  repeat' first | with_reducible assumption | with_reducible apply State.copyLifetime_keeps hP | split | dsimp only | intro _

theorem State.readLif_keeps {P : State → Prop} (hP : Stable P) (s : State) (hk : P s) : P (State.readLif s).1 := by
  unfold State.readLif
  repeat' first | with_reducible assumption | with_reducible apply State.set_keeps hP | split | dsimp only | intro _

end Sys2Proof.Machine
end

