-- ==== Sys2Proof/Laws/KeepsFlags.lean ====
section
/-! SUPPORT. Every operation of Machine/Flags.lean keeps every stable property. -/

set_option linter.unusedTactic false
set_option linter.unreachableTactic false

namespace Sys2Proof.Machine

theorem State.writeField_keeps {P : State → Prop} (hP : Stable P) (s : State) (lo v : Nat) (f : FieldSpec) (hk : P s) : P (State.writeField s lo v f) := by
  unfold State.writeField
  repeat' first | with_reducible assumption | with_reducible apply State.set_keeps hP | split | dsimp only | intro _

theorem State.writeFields_keeps {P : State → Prop} (hP : Stable P) (s : State) (lo : Nat) (fs : List FieldSpec) (v : Nat) (hk : P s) : P (State.writeFields s lo fs v) := by
  unfold State.writeFields
  repeat' first | with_reducible assumption | with_reducible apply keeps_each | with_reducible apply State.writeField_keeps hP | split | dsimp only | intro _

theorem State.writeStopped_keeps {P : State → Prop} (hP : Stable P) (s : State) (flag : Fld) (act : State → State) (hk : P s) (kact : ∀ t, P t → P (act t)) : P (State.writeStopped s flag act) := by
  unfold State.writeStopped
  repeat' first | with_reducible assumption | with_reducible apply kact | with_reducible apply State.setFlag_keeps hP | split | dsimp only | intro _

end Sys2Proof.Machine
end

