-- ==== Sys2Proof/Laws/KeepsRegAccess.lean ====
section
/-! SUPPORT. Every operation of Machine/RegAccess.lean keeps every stable property. -/

set_option linter.unusedTactic false
set_option linter.unreachableTactic false

namespace Sys2Proof.Machine

theorem State.defer_keeps {P : State → Prop} (hP : Stable P) (s : State) (due : Boundary) (lo v : Nat) (hk : P s) : P (State.defer s due lo v) := by
  unfold State.defer
  repeat' first | with_reducible assumption | split | with_reducible refine keeps_with_deferred hP ?_ | dsimp only | intro _

theorem State.deferTick_keeps {P : State → Prop} (hP : Stable P) (s : State) (lo v : Nat) (hk : P s) : P (State.deferTick s lo v) := by
  unfold State.deferTick
  repeat' first | with_reducible assumption | with_reducible apply State.defer_keeps hP | split | dsimp only | intro _

theorem State.deferStep_keeps {P : State → Prop} (hP : Stable P) (s : State) (lo v : Nat) (hk : P s) : P (State.deferStep s lo v) := by
  unfold State.deferStep
  repeat' first | with_reducible assumption | with_reducible apply State.defer_keeps hP | split | dsimp only | intro _

theorem State.takeReflexCfg_keeps {P : State → Prop} (hP : Stable P) (s : State) (r lo v : Nat) (hk : P s) : P (State.takeReflexCfg s r lo v) := by
  unfold State.takeReflexCfg
  repeat' first | with_reducible assumption | with_reducible apply keeps_when | with_reducible apply State.writeFields_keeps hP | with_reducible apply State.clearReflex_keeps hP | split | dsimp only | intro _

theorem State.takeDeferred_keeps {P : State → Prop} (hP : Stable P) (s : State) (d : Deferred) (hk : P s) : P (State.takeDeferred s d) := by
  unfold State.takeDeferred
  repeat' first | with_reducible assumption | with_reducible apply State.writeFields_keeps hP | with_reducible apply State.setSrc_keeps hP | with_reducible apply State.takeReflexCfg_keeps hP | split | dsimp only | intro _

theorem State.takeDue_keeps {P : State → Prop} (hP : Stable P) (s : State) (due : Boundary → Bool) (hk : P s) : P (State.takeDue s due) := by
  unfold State.takeDue
  repeat' first | with_reducible assumption | with_reducible apply keeps_each | with_reducible apply State.takeDeferred_keeps hP | split | with_reducible refine keeps_with_deferred hP ?_ | dsimp only | intro _

theorem State.writeHif_keeps {P : State → Prop} (hP : Stable P) (s : State) (lo : Nat) (fs : List FieldSpec) (v : Nat) (hk : P s) : P (State.writeHif s lo fs v) := by
  unfold State.writeHif
  repeat' first | with_reducible assumption | with_reducible apply State.set_keeps hP | with_reducible apply State.writeFields_keeps hP | with_reducible apply State.writeSvc_keeps hP | split | dsimp only | intro _

theorem State.writeMgt_keeps {P : State → Prop} (hP : Stable P) (hS : SoftResets P) (s : State) (lo : Nat) (fs : List FieldSpec) (v : Nat) (hk : P s) : P (State.writeMgt s lo fs v) := by
  unfold State.writeMgt
  repeat' first | with_reducible assumption | with_reducible apply State.writeFields_keeps hP | with_reducible apply State.writeStopped_keeps hP | with_reducible apply State.writeSoftReset_keeps hP hS | with_reducible apply State.writeDieReset_keeps hP | split | dsimp only | intro _

theorem State.writePwrCtl_keeps {P : State → Prop} (hP : Stable P) (s : State) (lo : Nat) (fs : List FieldSpec) (v : Nat) (hk : P s) : P (State.writePwrCtl s lo fs v) := by
  unfold State.writePwrCtl
  repeat' first | with_reducible assumption | with_reducible apply keeps_when | with_reducible apply State.writeFields_keeps hP | with_reducible apply State.commandVolts_keeps hP | split | dsimp only | intro _

theorem State.writePwr_keeps {P : State → Prop} (hP : Stable P) (s : State) (lo : Nat) (fs : List FieldSpec) (v : Nat) (hk : P s) : P (State.writePwr s lo fs v) := by
  unfold State.writePwr
  repeat' first | with_reducible assumption | with_reducible apply State.writeFields_keeps hP | with_reducible apply State.writeStopped_keeps hP | with_reducible apply State.writePwrCtl_keeps hP | split | dsimp only | intro _

theorem State.writeMac_keeps {P : State → Prop} (hP : Stable P) (s : State) (m o lo : Nat) (fs : List FieldSpec) (v : Nat) (hk : P s) : P (State.writeMac s m o lo fs v) := by
  unfold State.writeMac
  repeat' first | with_reducible assumption | with_reducible apply State.writeFields_keeps hP | with_reducible apply State.ringErr_keeps hP | with_reducible apply State.writeTxDb_keeps hP | with_reducible apply State.writeTxrCfg_keeps hP | split | dsimp only | intro _

theorem State.writeTpo_keeps {P : State → Prop} (hP : Stable P) (s : State) (p o lo : Nat) (fs : List FieldSpec) (v : Nat) (hk : P s) : P (State.writeTpo s p o lo fs v) := by
  unfold State.writeTpo
  repeat' first | with_reducible assumption | with_reducible apply State.writeFields_keeps hP | with_reducible apply State.writeTpoCfg_keeps hP | split | dsimp only | intro _

theorem State.writeTim_keeps {P : State → Prop} (hP : Stable P) (s : State) (lo : Nat) (fs : List FieldSpec) (v : Nat) (hk : P s) : P (State.writeTim s lo fs v) := by
  unfold State.writeTim
  repeat' first | with_reducible assumption | with_reducible apply State.writeFields_keeps hP | with_reducible apply State.writeSel_keeps hP | with_reducible apply State.writeMac_keeps hP | with_reducible apply State.writeTpo_keeps hP | split | dsimp only | intro _

theorem State.writeIngCtl_keeps {P : State → Prop} (hP : Stable P) (s : State) (v : Nat) (hk : P s) : P (State.writeIngCtl s v) := by
  unfold State.writeIngCtl
  repeat' first | with_reducible assumption | with_reducible apply keeps_each | with_reducible apply State.writePortBit_keeps hP | split | dsimp only | intro _

theorem State.writeGeom_keeps {P : State → Prop} (hP : Stable P) (s : State) (p lo : Nat) (fs : List FieldSpec) (v : Nat) (hk : P s) : P (State.writeGeom s p lo fs v) := by
  unfold State.writeGeom
  repeat' first | with_reducible assumption | with_reducible apply keeps_when | with_reducible apply State.writeFields_keeps hP | with_reducible apply State.newRegion_keeps hP | split | dsimp only | intro _

theorem State.writePort_keeps {P : State → Prop} (hP : Stable P) (s : State) (p o lo : Nat) (fs : List FieldSpec) (v : Nat) (hk : P s) : P (State.writePort s p o lo fs v) := by
  unfold State.writePort
  repeat' first | with_reducible assumption | with_reducible apply State.writeFields_keeps hP | with_reducible apply State.writeStopped_keeps hP | with_reducible apply State.writePortCfg_keeps hP | with_reducible apply State.writeCci_keeps hP | with_reducible apply State.writeFi_keeps hP | with_reducible apply State.writeGeom_keeps hP | split | dsimp only | intro _

theorem State.writeIng_keeps {P : State → Prop} (hP : Stable P) (s : State) (lo : Nat) (fs : List FieldSpec) (v : Nat) (hk : P s) : P (State.writeIng s lo fs v) := by
  unfold State.writeIng
  repeat' first | with_reducible assumption | with_reducible apply State.writeFields_keeps hP | with_reducible apply State.writeStopped_keeps hP | with_reducible apply State.writeIngCtl_keeps hP | with_reducible apply State.writePort_keeps hP | split | dsimp only | intro _

theorem State.writeSrf_keeps {P : State → Prop} (hP : Stable P) (s : State) (lo : Nat) (fs : List FieldSpec) (v : Nat) (hk : P s) : P (State.writeSrf s lo fs v) := by
  unfold State.writeSrf
  repeat' first | with_reducible assumption | with_reducible apply State.writeFields_keeps hP | with_reducible apply State.writeStopped_keeps hP | with_reducible apply State.writeRegion_keeps hP | with_reducible apply State.deferTick_keeps hP | split | dsimp only | intro _

theorem State.writeTns_keeps {P : State → Prop} (hP : Stable P) (s : State) (lo : Nat) (fs : List FieldSpec) (v : Nat) (hk : P s) : P (State.writeTns s lo fs v) := by
  unfold State.writeTns
  repeat' first | with_reducible assumption | with_reducible apply keeps_when | with_reducible apply State.setFlag_keeps hP | with_reducible apply State.writeFields_keeps hP | with_reducible apply State.writeStopped_keeps hP | with_reducible apply State.setTns_keeps hP | with_reducible apply State.deferTick_keeps hP | split | dsimp only | intro _

theorem State.writeStep_keeps {P : State → Prop} (hP : Stable P) (s : State) (fs : List FieldSpec) (v : Nat) (hk : P s) : P (State.writeStep s fs v) := by
  unfold State.writeStep
  repeat' first | with_reducible assumption | with_reducible apply State.writeFields_keeps hP | with_reducible apply State.clearReflex_keeps hP | split | with_reducible refine keeps_with_deferred hP ?_ | dsimp only | intro _

theorem State.writeFab_keeps {P : State → Prop} (hP : Stable P) (s : State) (lo : Nat) (fs : List FieldSpec) (v : Nat) (hk : P s) : P (State.writeFab s lo fs v) := by
  unfold State.writeFab
  repeat' first | with_reducible assumption | with_reducible apply State.writeFields_keeps hP | with_reducible apply State.writeStopped_keeps hP | with_reducible apply State.writeReflexStat_keeps hP | with_reducible apply State.deferStep_keeps hP | with_reducible apply State.writeStep_keeps hP | split | dsimp only | intro _

theorem State.writeChEn_keeps {P : State → Prop} (hP : Stable P) (s : State) (v : Nat) (hk : P s) : P (State.writeChEn s v) := by
  unfold State.writeChEn
  repeat' first | with_reducible assumption | with_reducible apply keeps_each | with_reducible apply State.writeChanBit_keeps hP | split | dsimp only | intro _

theorem State.writeOff_keeps {P : State → Prop} (hP : Stable P) (s : State) (on : Bool) (act : State → State) (hk : P s) (kact : ∀ t, P t → P (act t)) : P (State.writeOff s on act) := by
  unfold State.writeOff
  repeat' first | with_reducible assumption | with_reducible apply kact | with_reducible apply State.fltRunWrite_keeps hP | split | dsimp only | intro _

theorem State.writeImu_keeps {P : State → Prop} (hP : Stable P) (s : State) (i o lo : Nat) (fs : List FieldSpec) (v : Nat) (hk : P s) : P (State.writeImu s i o lo fs v) := by
  unfold State.writeImu
  repeat' first | with_reducible assumption | with_reducible apply State.writeFields_keeps hP | with_reducible apply State.writeImuCfg_keeps hP | with_reducible apply State.writeXferCtl_keeps hP | with_reducible apply State.writeOff_keeps hP | split | dsimp only | intro _

theorem State.writeChannel_keeps {P : State → Prop} (hP : Stable P) (s : State) (n o lo : Nat) (fs : List FieldSpec) (v : Nat) (hk : P s) : P (State.writeChannel s n o lo fs v) := by
  unfold State.writeChannel
  repeat' first | with_reducible assumption | with_reducible apply State.writeFields_keeps hP | with_reducible apply State.setSrc_keeps hP | with_reducible apply State.deferTick_keeps hP | with_reducible apply State.writeOff_keeps hP | split | dsimp only | intro _

theorem State.writeFlt_keeps {P : State → Prop} (hP : Stable P) (s : State) (lo : Nat) (fs : List FieldSpec) (v : Nat) (hk : P s) : P (State.writeFlt s lo fs v) := by
  unfold State.writeFlt
  repeat' first | with_reducible assumption | with_reducible apply State.writeFields_keeps hP | with_reducible apply State.writeEncCfg_keeps hP | with_reducible apply State.writeCoef_keeps hP | with_reducible apply State.writeChEn_keeps hP | with_reducible apply State.writeOff_keeps hP | with_reducible apply State.writeImu_keeps hP | with_reducible apply State.writeChannel_keeps hP | split | dsimp only | intro _

theorem State.writeFtu_keeps {P : State → Prop} (hP : Stable P) (s : State) (lo : Nat) (fs : List FieldSpec) (v : Nat) (hk : P s) : P (State.writeFtu s lo fs v) := by
  unfold State.writeFtu
  repeat' first | with_reducible assumption | with_reducible apply State.writeFields_keeps hP | with_reducible apply State.writeStopped_keeps hP | split | dsimp only | intro _

theorem State.writeDbg_keeps {P : State → Prop} (hP : Stable P) (s : State) (lo : Nat) (fs : List FieldSpec) (v : Nat) (hk : P s) : P (State.writeDbg s lo fs v) := by
  unfold State.writeDbg
  repeat' first | with_reducible assumption | with_reducible apply keeps_when | with_reducible apply State.writeFields_keeps hP | with_reducible apply State.requestSnap_keeps hP | with_reducible apply State.releaseDump_keeps hP | split | dsimp only | intro _

theorem State.writeErr_keeps {P : State → Prop} (hP : Stable P) (s : State) (lo : Nat) (fs : List FieldSpec) (v : Nat) (hk : P s) : P (State.writeErr s lo fs v) := by
  unfold State.writeErr
  repeat' first | with_reducible assumption | with_reducible apply keeps_when | with_reducible apply State.setFlag_keeps hP | with_reducible apply State.writeFields_keeps hP | with_reducible apply State.setErr_keeps hP | split | dsimp only | intro _

theorem State.unmask_keeps {P : State → Prop} (hP : Stable P) (s : State) (f v : Nat) (hk : P s) : P (State.unmask s f v) := by
  unfold State.unmask
  repeat' first | with_reducible assumption | with_reducible apply State.set_keeps hP | with_reducible apply State.raise_keeps hP | split | dsimp only | intro _

theorem State.writeRing_keeps {P : State → Prop} (hP : Stable P) (s : State) (k : RingKind) (f i o lo : Nat) (fs : List FieldSpec) (v : Nat) (hk : P s) : P (State.writeRing s k f i o lo fs v) := by
  unfold State.writeRing
  repeat' first | with_reducible assumption | with_reducible apply State.writeFields_keeps hP | with_reducible apply State.ringErr_keeps hP | with_reducible apply State.ringCfg_keeps hP | split | dsimp only | intro _

theorem State.writeFn_keeps {P : State → Prop} (hP : Stable P) (s : State) (f o lo : Nat) (fs : List FieldSpec) (v : Nat) (hk : P s) : P (State.writeFn s f o lo fs v) := by
  unfold State.writeFn
  repeat' first | with_reducible assumption | with_reducible apply keeps_when | with_reducible apply State.writeFields_keeps hP | with_reducible apply State.requestSnap_keeps hP | with_reducible apply State.unmask_keeps hP | with_reducible apply State.writeRing_keeps hP | split | dsimp only | intro _

theorem State.writeReg_keeps {P : State → Prop} (hP : Stable P) (hS : SoftResets P) (s : State) (lo : Nat) (fs : List FieldSpec) (v : Nat) (hk : P s) : P (State.writeReg s lo fs v) := by
  unfold State.writeReg
  repeat' first | with_reducible assumption | with_reducible apply State.writeFields_keeps hP | with_reducible apply State.writeHif_keeps hP | with_reducible apply State.writeMgt_keeps hP hS | with_reducible apply State.writePwr_keeps hP | with_reducible apply State.writeTim_keeps hP | with_reducible apply State.writeIng_keeps hP | with_reducible apply State.writeSrf_keeps hP | with_reducible apply State.writeTns_keeps hP | with_reducible apply State.writeFab_keeps hP | with_reducible apply State.writeFlt_keeps hP | with_reducible apply State.writeFtu_keeps hP | with_reducible apply State.writeDbg_keeps hP | with_reducible apply State.writeErr_keeps hP | with_reducible apply State.writeFn_keeps hP | split | dsimp only | intro _

theorem State.consume_keeps {P : State → Prop} (hP : Stable P) (s : State) (lo : Nat) (fs : List FieldSpec) (hk : P s) : P (State.consume s lo fs) := by
  unfold State.consume
  repeat' first | with_reducible assumption | with_reducible apply keeps_each | with_reducible apply State.set_keeps hP | with_reducible apply State.setFlt_keeps hP | split | dsimp only | intro _

theorem State.takeLatch_keeps {P : State → Prop} (hP : Stable P) (s : State) (key now : Nat) (hk : P s) : P (State.takeLatch s key now).1 := by
  unfold State.takeLatch
  repeat' first | with_reducible assumption | split | with_reducible refine keeps_with_latch hP ?_ | dsimp only | intro _

theorem State.putLatch_keeps {P : State → Prop} (hP : Stable P) (s : State) (key v : Nat) (hk : P s) : P (State.putLatch s key v) := by
  unfold State.putLatch
  repeat' first | with_reducible assumption | split | with_reducible refine keeps_with_latch hP ?_ | dsimp only | intro _

theorem State.latchHigh_keeps {P : State → Prop} (hP : Stable P) (s : State) (rq lo v : Nat) (fs : List FieldSpec) (hk : P s) : P (State.latchHigh s rq lo v fs) := by
  unfold State.latchHigh
  repeat' first | with_reducible assumption | with_reducible apply keeps_when | with_reducible apply State.putLatch_keeps hP | split | dsimp only | intro _

theorem State.readWord_keeps {P : State → Prop} (hP : Stable P) (s : State) (rq a : Nat) (keep : Bool) (hk : P s) : P (State.readWord s rq a keep).1 := by
  unfold State.readWord
  repeat' first | with_reducible assumption | with_reducible apply keeps_when | with_reducible apply State.nextCoef_keeps hP | with_reducible apply State.readCapLo_keeps hP | with_reducible apply State.readLif_keeps hP | with_reducible apply State.consume_keeps hP | with_reducible apply State.takeLatch_keeps hP | with_reducible apply State.latchHigh_keeps hP | split | dsimp only | intro _

theorem State.writeWord_keeps {P : State → Prop} (hP : Stable P) (hS : SoftResets P) (s : State) (rq a v : Nat) (hk : P s) : P (State.writeWord s rq a v) := by
  unfold State.writeWord
  repeat' first | with_reducible assumption | with_reducible apply State.joinPair_keeps hP | with_reducible apply State.writeAdj_keeps hP | with_reducible apply State.writeIncr_keeps hP | with_reducible apply State.writeDomIncr_keeps hP | with_reducible apply State.writeDomAdj_keeps hP | with_reducible apply State.writeReg_keeps hP hS | split | with_reducible refine keeps_with_latch hP ?_ | dsimp only | intro _

theorem State.writeAct_keeps {P : State → Prop} (hP : Stable P) (hS : SoftResets P) (s : State) (f : Nat) (page : Bool) (off size v : Nat) (hk : P s) : P (State.writeAct s f page off size v) := by
  unfold State.writeAct
  repeat' first | with_reducible assumption | with_reducible apply State.writeWord_keeps hP hS | split | dsimp only | intro _

theorem State.answer_keeps {P : State → Prop} (hP : Stable P) (s : State) (l : List Nat) (hk : P s) : P (State.answer s l) := by
  unfold State.answer
  repeat' first | with_reducible assumption | split | with_reducible refine keeps_with_host hP rfl ?_ | dsimp only | intro _

theorem State.readAct_keeps {P : State → Prop} (hP : Stable P) (s : State) (f : Nat) (page : Bool) (off size : Nat) (hk : P s) : P (State.readAct s f page off size) := by
  unfold State.readAct
  repeat' first | with_reducible assumption | with_reducible apply State.readWord_keeps hP | with_reducible apply State.answer_keeps hP | split | dsimp only | intro _

theorem State.replayHeld_keeps {P : State → Prop} (hP : Stable P) (hS : SoftResets P) (s : State) (l : Held) (hk : P s) : P (State.replayHeld s l) := by
  unfold State.replayHeld
  repeat' first | with_reducible assumption | with_reducible apply State.sqDoorbell_keeps hP | with_reducible apply State.cqDoorbell_keeps hP | with_reducible apply State.strDoorbell_keeps hP | with_reducible apply State.packet_keeps hP | with_reducible apply State.longPacket_keeps hP | with_reducible apply State.urgentWrite_keeps hP | with_reducible apply State.flrNow_keeps hP | with_reducible apply State.writeAct_keeps hP hS | with_reducible apply State.readAct_keeps hP | split | dsimp only | intro _

theorem State.pcieWrite_keeps {P : State → Prop} (hP : Stable P) (hS : SoftResets P) (s : State) (f : Nat) (page : Bool) (off size v : Nat) (hk : P s) : P (State.pcieWrite s f page off size v) := by
  unfold State.pcieWrite
  repeat' first | with_reducible assumption | with_reducible apply State.bus_keeps hP | with_reducible apply State.doorbell_keeps hP | with_reducible apply State.writeAct_keeps hP hS | with_reducible apply State.replayHeld_keeps hP hS | split | dsimp only | intro _

theorem State.pcieRead_keeps {P : State → Prop} (hP : Stable P) (s : State) (f : Nat) (page : Bool) (off size : Nat) (hk : P s) : P (State.pcieRead s f page off size) := by
  unfold State.pcieRead
  repeat' first | with_reducible assumption | with_reducible apply State.bus_keeps hP | with_reducible apply State.readAct_keeps hP | split | dsimp only | intro _

theorem execRegisterWrite_keeps {P : State → Prop} (hP : Stable P) (hS : SoftResets P) (f : Fin 8) (sp : Space) (off : Nat) (size : Nat) (v : BitVec 64) {s t : State} (h : execRegisterWrite f sp off size v s = .next t) (hs : P s) : P t := by
  unfold execRegisterWrite at h
  obtain rfl := Host.Outcome.next.inj h
  repeat' first | with_reducible assumption | with_reducible apply State.pcieWrite_keeps hP hS | split | dsimp only | intro _

theorem execLoWrite_keeps {P : State → Prop} (hP : Stable P) (hS : SoftResets P) (f : Fin 8) (sp : Space) (off : Nat) (v : Word) {s t : State} (h : execLoWrite f sp off v s = .next t) (hs : P s) : P t := by
  unfold execLoWrite at h
  obtain rfl := Host.Outcome.next.inj h
  repeat' first | with_reducible assumption | with_reducible apply State.pcieWrite_keeps hP hS | split | dsimp only | intro _

theorem execHiWrite_keeps {P : State → Prop} (hP : Stable P) (hS : SoftResets P) (f : Fin 8) (sp : Space) (off : Nat) (v : Word) {s t : State} (h : execHiWrite f sp off v s = .next t) (hs : P s) : P t := by
  unfold execHiWrite at h
  obtain rfl := Host.Outcome.next.inj h
  repeat' first | with_reducible assumption | with_reducible apply State.pcieWrite_keeps hP hS | split | dsimp only | intro _

theorem execLoRead_keeps {P : State → Prop} (hP : Stable P) (f : Fin 8) (sp : Space) (off : Nat) (size : Nat) {s t : State} (h : execLoRead f sp off size s = .next t) (hs : P s) : P t := by
  unfold execLoRead at h
  obtain rfl := Host.Outcome.next.inj h
  repeat' first | with_reducible assumption | with_reducible apply State.pcieRead_keeps hP | split | dsimp only | intro _

theorem execRcRead_keeps {P : State → Prop} (hP : Stable P) (f : Fin 8) (sp : Space) (off : Nat) {s t : State} (h : execRcRead f sp off s = .next t) (hs : P s) : P t := by
  unfold execRcRead at h
  obtain rfl := Host.Outcome.next.inj h
  repeat' first | with_reducible assumption | with_reducible apply State.pcieRead_keeps hP | split | dsimp only | intro _

theorem execCapLoRead_keeps {P : State → Prop} (hP : Stable P) (c : Fin 4) {s t : State} (h : execCapLoRead c s = .next t) (hs : P s) : P t := by
  unfold execCapLoRead at h
  obtain rfl := Host.Outcome.next.inj h
  repeat' first | with_reducible assumption | with_reducible apply State.pcieRead_keeps hP | split | dsimp only | intro _

theorem execGnssRxRead_keeps {P : State → Prop} (hP : Stable P) {s t : State} (h : execGnssRxRead s = .next t) (hs : P s) : P t := by
  unfold execGnssRxRead at h
  obtain rfl := Host.Outcome.next.inj h
  repeat' first | with_reducible assumption | with_reducible apply State.pcieRead_keeps hP | split | dsimp only | intro _

theorem execCoefDataAccess_keeps {P : State → Prop} (hP : Stable P) (hS : SoftResets P) (wr : Option Word) {s t : State} (h : execCoefDataAccess wr s = .next t) (hs : P s) : P t := by
  unfold execCoefDataAccess at h
  obtain rfl := Host.Outcome.next.inj h
  repeat' first | with_reducible assumption | with_reducible apply State.pcieWrite_keeps hP hS | with_reducible apply State.pcieRead_keeps hP | split | dsimp only | intro _

theorem execLifDataRead_keeps {P : State → Prop} (hP : Stable P) {s t : State} (h : execLifDataRead s = .next t) (hs : P s) : P t := by
  unfold execLifDataRead at h
  obtain rfl := Host.Outcome.next.inj h
  repeat' first | with_reducible assumption | with_reducible apply State.pcieRead_keeps hP | split | dsimp only | intro _

end Sys2Proof.Machine
end

