-- ==== Sys2Proof/Laws/KeepsI2c.lean ====
section
/-! SUPPORT. Every operation of Machine/I2c.lean keeps every stable property. -/

set_option linter.unusedTactic false
set_option linter.unreachableTactic false

namespace Sys2Proof.Machine

theorem State.i2cReply_keeps {P : State → Prop} (hP : Stable P) (s : State) (b : List Byte) (hk : P s) : P (State.i2cReply s b) := by
  unfold State.i2cReply
  repeat' first | with_reducible assumption | with_reducible apply State.setReef_keeps hP | split | dsimp only | intro _

theorem State.i2cNack_keeps {P : State → Prop} (hP : Stable P) (s : State) (hk : P s) : P (State.i2cNack s) := by
  unfold State.i2cNack
  repeat' first | with_reducible assumption | with_reducible apply State.setReef_keeps hP | split | dsimp only | intro _

theorem State.i2cStatusNow_keeps {P : State → Prop} (hP : Stable P) (s : State) (hk : P s) : P (State.i2cStatusNow s) := by
  unfold State.i2cStatusNow
  repeat' first | with_reducible assumption | with_reducible apply State.i2cReply_keeps hP | split | dsimp only | intro _

theorem State.i2cStopNow_keeps {P : State → Prop} (hP : Stable P) (s : State) (full : Bool) (hk : P s) : P (State.i2cStopNow s full) := by
  unfold State.i2cStopNow
  repeat' first | with_reducible assumption | with_reducible apply State.acceptStop_keeps hP | with_reducible apply State.i2cReply_keeps hP | with_reducible apply State.i2cNack_keeps hP | split | dsimp only | intro _

theorem State.i2cRegReadNow_keeps {P : State → Prop} (hP : Stable P) (s : State) (off : Nat) (hk : P s) : P (State.i2cRegReadNow s off) := by
  unfold State.i2cRegReadNow
  repeat' first | with_reducible assumption | with_reducible apply State.readWord_keeps hP | with_reducible apply State.i2cReply_keeps hP | with_reducible apply State.i2cNack_keeps hP | split | dsimp only | intro _

theorem State.i2cRegWriteNow_keeps {P : State → Prop} (hP : Stable P) (hS : SoftResets P) (s : State) (off v : Nat) (hk : P s) : P (State.i2cRegWriteNow s off v) := by
  unfold State.i2cRegWriteNow
  repeat' first | with_reducible assumption | with_reducible apply keeps_when | with_reducible apply State.writeWord_keeps hP hS | with_reducible apply State.i2cReply_keeps hP | with_reducible apply State.i2cNack_keeps hP | split | dsimp only | intro _

theorem State.i2cDumpInfoNow_keeps {P : State → Prop} (hP : Stable P) (s : State) (hk : P s) : P (State.i2cDumpInfoNow s) := by
  unfold State.i2cDumpInfoNow
  repeat' first | with_reducible assumption | with_reducible apply State.took_keeps hP | with_reducible apply State.source_keeps hP | with_reducible apply State.i2cReply_keeps hP | split | dsimp only | intro _

theorem State.i2cDumpReadNow_keeps {P : State → Prop} (hP : Stable P) (s : State) (off : Nat) (ecc : Ecc) (hk : P s) : P (State.i2cDumpReadNow s off ecc) := by
  unfold State.i2cDumpReadNow
  repeat' first | with_reducible assumption | with_reducible apply State.took_keeps hP | with_reducible apply State.copyRead_keeps hP | with_reducible apply State.i2cReply_keeps hP | with_reducible apply State.i2cNack_keeps hP | split | dsimp only | intro _

theorem State.i2cLifeReadNow_keeps {P : State → Prop} (hP : Stable P) (s : State) (off : Nat) (hk : P s) : P (State.i2cLifeReadNow s off) := by
  unfold State.i2cLifeReadNow
  repeat' first | with_reducible assumption | with_reducible apply State.took_keeps hP | with_reducible apply State.i2cReply_keeps hP | with_reducible apply State.i2cNack_keeps hP | split | dsimp only | intro _

theorem State.serveI2c_keeps {P : State → Prop} (hP : Stable P) (hS : SoftResets P) (s : State) (c : I2cCommand) (hk : P s) : P (State.serveI2c s c) := by
  unfold State.serveI2c
  repeat' first | with_reducible assumption | with_reducible apply State.i2cNack_keeps hP | with_reducible apply State.i2cStatusNow_keeps hP | with_reducible apply State.i2cStopNow_keeps hP | with_reducible apply State.i2cRegReadNow_keeps hP | with_reducible apply State.i2cRegWriteNow_keeps hP hS | with_reducible apply State.i2cDumpInfoNow_keeps hP | with_reducible apply State.i2cDumpReadNow_keeps hP | with_reducible apply State.i2cLifeReadNow_keeps hP | split | dsimp only | intro _

theorem State.i2cWaits_keeps {P : State → Prop} (hP : Stable P) (s : State) (n : Nat) (c : I2cCommand) (hk : P s) : P (State.i2cWaits s n c) := by
  unfold State.i2cWaits
  repeat' first | with_reducible assumption | with_reducible apply State.setReef_keeps hP | with_reducible apply State.i2cNack_keeps hP | split | dsimp only | intro _

theorem State.i2c_keeps {P : State → Prop} (hP : Stable P) (hS : SoftResets P) (s : State) (c : I2cCommand) (hk : P s) : P (State.i2c s c) := by
  unfold State.i2c
  repeat' first | with_reducible assumption | with_reducible apply State.touch_keeps hP | with_reducible apply State.wake_keeps hP | with_reducible apply State.i2cNack_keeps hP | with_reducible apply State.serveI2c_keeps hP hS | with_reducible apply State.i2cWaits_keeps hP | split | dsimp only | intro _

theorem execI2cAddressMatch_keeps {P : State → Prop} (hP : Stable P) (hS : SoftResets P) {s t : State} (h : execI2cAddressMatch s = .next t) (hs : P s) : P t := by
  unfold execI2cAddressMatch at h
  obtain rfl := Host.Outcome.next.inj h
  repeat' first | with_reducible assumption | with_reducible apply State.touch_keeps hP | with_reducible apply State.wake_keeps hP | with_reducible apply State.setReef_keeps hP | with_reducible apply State.i2cNack_keeps hP | with_reducible apply State.i2c_keeps hP hS | split | dsimp only | intro _

theorem execStatus_keeps {P : State → Prop} (hP : Stable P) (hS : SoftResets P) {s t : State} (h : execStatus s = .next t) (hs : P s) : P t := by
  unfold execStatus at h
  obtain rfl := Host.Outcome.next.inj h
  repeat' first | with_reducible assumption | with_reducible apply State.i2c_keeps hP hS | split | dsimp only | intro _

theorem execI2cStop_keeps {P : State → Prop} (hP : Stable P) (hS : SoftResets P) (operand : Byte) {s t : State} (h : execI2cStop operand s = .next t) (hs : P s) : P t := by
  unfold execI2cStop at h
  obtain rfl := Host.Outcome.next.inj h
  repeat' first | with_reducible assumption | with_reducible apply State.i2c_keeps hP hS | split | dsimp only | intro _

theorem execRegRead_keeps {P : State → Prop} (hP : Stable P) (hS : SoftResets P) (off : Word) {s t : State} (h : execRegRead off s = .next t) (hs : P s) : P t := by
  unfold execRegRead at h
  obtain rfl := Host.Outcome.next.inj h
  repeat' first | with_reducible assumption | with_reducible apply State.i2c_keeps hP hS | split | dsimp only | intro _

theorem execRegWrite_keeps {P : State → Prop} (hP : Stable P) (hS : SoftResets P) (off : Word) (v : Word) {s t : State} (h : execRegWrite off v s = .next t) (hs : P s) : P t := by
  unfold execRegWrite at h
  obtain rfl := Host.Outcome.next.inj h
  repeat' first | with_reducible assumption | with_reducible apply State.i2c_keeps hP hS | split | dsimp only | intro _

theorem execDumpInfo_keeps {P : State → Prop} (hP : Stable P) (hS : SoftResets P) {s t : State} (h : execDumpInfo s = .next t) (hs : P s) : P t := by
  unfold execDumpInfo at h
  obtain rfl := Host.Outcome.next.inj h
  repeat' first | with_reducible assumption | with_reducible apply State.i2c_keeps hP hS | split | dsimp only | intro _

theorem execDumpRead_keeps {P : State → Prop} (hP : Stable P) (hS : SoftResets P) (off : Word) (ecc : Ecc) {s t : State} (h : execDumpRead off ecc s = .next t) (hs : P s) : P t := by
  unfold execDumpRead at h
  obtain rfl := Host.Outcome.next.inj h
  repeat' first | with_reducible assumption | with_reducible apply State.i2c_keeps hP hS | split | dsimp only | intro _

theorem execLifeRead_keeps {P : State → Prop} (hP : Stable P) (hS : SoftResets P) (off : Nat) {s t : State} (h : execLifeRead off s = .next t) (hs : P s) : P t := by
  unfold execLifeRead at h
  obtain rfl := Host.Outcome.next.inj h
  repeat' first | with_reducible assumption | with_reducible apply State.i2c_keeps hP hS | split | dsimp only | intro _

end Sys2Proof.Machine
end

