-- ==== Sys2Proof/Laws/KeepsBoundary.lean ====
section
/-! SUPPORT. Every operation of Machine/Boundary.lean keeps every stable property. -/

set_option linter.unusedTactic false
set_option linter.unreachableTactic false

namespace Sys2Proof.Machine

theorem State.markTick_keeps {P : State → Prop} (hP : Stable P) (s : State) (n : Nat) (hk : P s) : P (State.markTick s n) := by
  unfold State.markTick
  repeat' first | with_reducible assumption | with_reducible apply State.setGauze_keeps hP | with_reducible apply State.setCtl_keeps hP | with_reducible apply State.takeHold_keeps hP | with_reducible apply State.ingestTrace_keeps hP | with_reducible apply State.takeSnaps_keeps hP | with_reducible apply State.takeDue_keeps hP | split | dsimp only | intro _

theorem State.waitMark_keeps {P : State → Prop} (hP : Stable P) (s : State) (n : Nat) (hk : P s) : P (State.waitMark s n) := by
  unfold State.waitMark
  repeat' first | with_reducible assumption | with_reducible apply State.add_keeps hP | with_reducible apply State.took_keeps hP | with_reducible apply State.setCtl_keeps hP | split | dsimp only | intro _

theorem execTickBoundaryMark_keeps {P : State → Prop} (hP : Stable P) {s t : State} (h : execTickBoundaryMark s = .next t) (hs : P s) : P t := by
  unfold execTickBoundaryMark at h
  obtain rfl := Host.Outcome.next.inj h
  repeat' first | with_reducible assumption | with_reducible apply State.markTick_keeps hP | with_reducible apply State.waitMark_keeps hP | split | dsimp only | intro _

theorem execStepBoundary_keeps {P : State → Prop} (hP : Stable P) {s t : State} (h : execStepBoundary s = .next t) (hs : P s) : P t := by
  unfold execStepBoundary at h
  obtain rfl := Host.Outcome.next.inj h
  repeat' first | with_reducible assumption | with_reducible apply keeps_each | with_reducible apply State.sendMarks_keeps hP | with_reducible apply State.takeDue_keeps hP | split | dsimp only | intro _

theorem State.release_keeps {P : State → Prop} (hP : Stable P) (hS : SoftResets P) (s : State) (h : Held) (hk : P s) : P (State.release s h) := by
  unfold State.release
  repeat' first | with_reducible assumption | with_reducible apply State.hold_keeps hP | with_reducible apply State.replayHeld_keeps hP hS | split | dsimp only | intro _

theorem State.releaseAll_keeps {P : State → Prop} (hP : Stable P) (hS : SoftResets P) (s : State) (hk : P s) : P (State.releaseAll s) := by
  unfold State.releaseAll
  repeat' first | with_reducible assumption | with_reducible apply keeps_each | with_reducible apply State.setReef_keeps hP | with_reducible apply State.serveI2c_keeps hP hS | with_reducible apply State.release_keeps hP hS | split | with_reducible refine keeps_with_host hP rfl ?_ | dsimp only | intro _

theorem State.catchUp_keeps {P : State → Prop} (hP : Stable P) (s : State) (was : Phase) (hk : P s) : P (State.catchUp s was) := by
  unfold State.catchUp
  repeat' first | with_reducible assumption | with_reducible apply State.setCtl_keeps hP | split | dsimp only | intro _

theorem execReady_keeps {P : State → Prop} (hP : Stable P) (hE : Empties P) (hS : SoftResets P) (mv : List Nat) (ddr : Bool) {s t : State} (h : execReady mv ddr s = .next t) (hs : P s) : P t := by
  unfold execReady at h
  obtain rfl := Host.Outcome.next.inj h
  repeat' first | with_reducible assumption | with_reducible apply State.checkRails_keeps hP | with_reducible apply State.releaseAll_keeps hP hS | with_reducible apply State.catchUp_keeps hP | split | refine State.comeReady_keeps hP hE _ ?_ (by with_reducible assumption) | dsimp only | intro _

end Sys2Proof.Machine
end

