-- ==== Sys2Proof/Laws/Exec.lean ====
section
/-! SUPPORT. Every command keeps every property that the elementary updates keep. -/

namespace Sys2Proof.Machine

/-- What a write to MGT_SOFT_RESET is made of. -/
theorem softResets_of {P : State → Prop} (hP : Stable P) (hE : Empties P) (hR : Restarts P) : SoftResets P :=
  ⟨fun {s} v hs => by
    unfold State.writeSoftReset
    split
    · exact State.set_keeps hP _ _ _ (State.set_keeps hP _ _ _ (State.reset60_keeps hP hE hR _ _ _ hs))
    · exact hs⟩

/-- A command keeps a stable property that survives the loss of LPDDR5X's content and a soft reset; one that writes LPDDR5X, a property that survives that; a reset, one that survives a restart. -/
theorem exec_keeps {P : State → Prop} (hP : Stable P) (hE : Empties P) (hS : SoftResets P) {c : Instr} {s t : State}
    (hL : (∃ f q d, c = .lpddrWriteDone f q d) ∨ (∃ f q b, c = .operandReadFail f q b) → Stores P)
    (hR : (∃ b n, c = .warmReset b n) ∨ c = .watchdogReset ∨ (∃ a b g, c = .por a b g) ∨ c = .aonPowerLoss → Restarts P)
    (h : exec c s = .next t) (hs : P s) : P t := by
  cases c with
  | nop f q => exact execNop_keeps hP _ _ h hs
  | loadSet f q img ecc => exact execLoadSet_keeps hP _ _ _ _ h hs
  | loadSetComplete hits => exact execLoadSetComplete_keeps hP _ h hs
  | swapSet f q => exact execSwapSet_keeps hP _ _ h hs
  | swapTakesEffect => exact execSwapTakesEffect_keeps hP h hs
  | start f q => exact execStart_keeps hP _ _ h hs
  | runBegins => exact execRunBegins_keeps hP h hs
  | stop f q => exact execStop_keeps hP _ _ h hs
  | stopBoundary => exact execStopBoundary_keeps hP h hs
  | cutComplete => exact execCutComplete_keeps hP h hs
  | setPhase f q => exact execSetPhase_keeps hP _ _ h hs
  | phaseTakesEffect => exact execPhaseTakesEffect_keeps hP h hs
  | readWindow f q => exact execReadWindow_keeps hP _ _ h hs
  | configure f q => exact execConfigure_keeps hP _ _ h hs
  | arm f q => exact execArm_keeps hP _ _ h hs
  | trigger f q => exact execTrigger_keeps hP _ _ h hs
  | disarm f q => exact execDisarm_keeps hP _ _ h hs
  | drain f q eccs => exact execDrain_keeps hP _ _ _ h hs
  | dumpFetch f q eccs => exact execDumpFetch_keeps hP _ _ _ h hs
  | fence f q => exact execFence_keeps hP _ _ h hs
  | fenceRelease f q => exact execFenceRelease_keeps hP _ _ h hs
  | surroundings f q m => exact execSurroundings_keeps hP _ _ _ h hs
  | fwUpdate f q img => exact execFwUpdate_keeps hP _ _ _ h hs
  | lpddrWrite f q => exact execLpddrWrite_keeps hP _ _ h hs
  | operandReadFail f q poisoned => exact execOperandReadFail_keeps hP (hL (.inr ⟨_, _, _, rfl⟩)) _ _ _ h hs
  | sqDoorbell f j size v => exact execSqDoorbell_keeps hP _ _ _ _ h hs
  | cqDoorbell f j size v => exact execCqDoorbell_keeps hP _ _ _ _ h hs
  | streamDoorbell f r size v => exact execStreamDoorbell_keeps hP _ _ _ _ h hs
  | urgentStop f size v => exact execUrgentStop_keeps hP _ _ _ h hs
  | descriptorFetch f q res => exact execDescriptorFetch_keeps hP _ _ _ h hs
  | recordStaging parity => exact execRecordStaging_keeps hP _ h hs
  | streamRecordWrite f r ecc => exact execStreamRecordWrite_keeps hP _ _ _ h hs
  | streamIrqTimeout f r => exact execStreamIrqTimeout_keeps hP _ _ h hs
  | ringEnable k f j v => exact execRingEnable_keeps hP _ _ _ _ h hs
  | ringDisable f r v => exact execRingDisable_keeps hP _ _ _ h hs
  | lossAck f v => exact execLossAck_keeps hP _ _ h hs
  | flr f => exact execFlr_keeps hP _ h hs
  | i2cAddressMatch => exact execI2cAddressMatch_keeps hP hS h hs
  | status => exact execStatus_keeps hP hS h hs
  | i2cStop operand => exact execI2cStop_keeps hP hS _ h hs
  | regRead off => exact execRegRead_keeps hP hS _ h hs
  | regWrite off v => exact execRegWrite_keeps hP hS _ _ h hs
  | dumpInfo => exact execDumpInfo_keeps hP hS h hs
  | dumpRead off ecc => exact execDumpRead_keeps hP hS _ _ h hs
  | lifeRead off => exact execLifeRead_keeps hP hS _ h hs
  | registerWrite f sp off size v => exact execRegisterWrite_keeps hP hS _ _ _ _ _ h hs
  | loWrite f sp off v => exact execLoWrite_keeps hP hS _ _ _ _ h hs
  | hiWrite f sp off v => exact execHiWrite_keeps hP hS _ _ _ _ h hs
  | loRead f sp off size => exact execLoRead_keeps hP _ _ _ _ h hs
  | rcRead f sp off => exact execRcRead_keeps hP _ _ _ h hs
  | capLoRead c => exact execCapLoRead_keeps hP _ h hs
  | gnssRxRead => exact execGnssRxRead_keeps hP h hs
  | coefDataAccess wr => exact execCoefDataAccess_keeps hP hS _ h hs
  | lifDataRead => exact execLifDataRead_keeps hP h hs
  | portEnable p => exact execPortEnable_keeps hP _ h hs
  | portDisable p => exact execPortDisable_keeps hP _ h hs
  | retrain p v => exact execRetrain_keeps hP _ _ h hs
  | cciGo p v => exact execCciGo_keeps hP _ _ h hs
  | cciTransactionEnd p nack data => exact execCciTransactionEnd_keeps hP _ _ _ h hs
  | imuEnable j v => exact execImuEnable_keeps hP _ _ h hs
  | imuXfer j v => exact execImuXfer_keeps hP _ _ h hs
  | channelEnable n => exact execChannelEnable_keeps hP _ h hs
  | clear r => exact execClear_keeps hP _ h hs
  | snap page => exact execSnap_keeps hP _ h hs
  | release => exact execRelease_keeps hP h hs
  | softReset key => exact execSoftReset_keeps hP hS _ h hs
  | dieReset v => exact execDieReset_keeps hP _ h hs
  | dieResetDone d pass => exact execDieResetDone_keeps hP _ _ h hs
  | serviceModeWrite v => exact execServiceModeWrite_keeps hP _ h hs
  | step hi => exact execStep_keeps hP _ h hs
  | slew hi => exact execSlew_keeps hP _ h hs
  | timIncrWrite hi => exact execTimIncrWrite_keeps hP _ h hs
  | domainStep x hi => exact execDomainStep_keeps hP _ _ h hs
  | domainSlew x hi => exact execDomainSlew_keeps hP _ _ h hs
  | switchRequest v => exact execSwitchRequest_keeps hP _ h hs
  | domainSwitch => exact execDomainSwitch_keeps hP h hs
  | tpoEnable p v => exact execTpoEnable_keeps hP _ _ h hs
  | tpoDisable p v => exact execTpoDisable_keeps hP _ _ h hs
  | tpoEdge p => exact execTpoEdge_keeps hP _ h hs
  | macTxDoorbell m v => exact execMacTxDoorbell_keeps hP _ _ h hs
  | transmitSlot m slot => exact execTransmitSlot_keeps hP _ _ h hs
  | ptpFrame m frame => exact execPtpFrame_keeps hP _ _ h hs
  | exportDatagram m => exact execExportDatagram_keeps hP _ h hs
  | tciEdge c rising held => exact execTciEdge_keeps hP _ _ _ h hs
  | rebaseEstimate p => exact execRebaseEstimate_keeps hP _ h hs
  | firstTripleCommit p => exact execFirstTripleCommit_keeps hP _ h hs
  | linkTraining p ok gear loss => exact execLinkTraining_keeps hP _ _ _ _ h hs
  | capabilityRead p ack data => exact execCapabilityRead_keeps hP _ _ _ h hs
  | linkLoss p => exact execLinkLoss_keeps hP _ h hs
  | cameraCurrentSample p code => exact execCameraCurrentSample_keeps hP _ _ h hs
  | longPacket p pkt => exact execLongPacket_keeps hP _ _ h hs
  | rebaseCycle bad => exact execRebaseCycle_keeps hP _ h hs
  | surfaceUpdate e hits parity => exact execSurfaceUpdate_keeps hP _ _ _ h hs
  | flowFit e hits => exact execFlowFit_keeps hP _ _ h hs
  | staleSweepVisit p x y hits => exact execStaleSweepVisit_keeps hP _ _ _ _ h hs
  | agingWheelScan e hits => exact execAgingWheelScan_keeps hP _ _ h hs
  | tapRecordClose e corner => exact execTapRecordClose_keeps hP _ _ h hs
  | regionInit p => exact execRegionInit_keeps hP _ h hs
  | canvasStaleMark => exact execCanvasStaleMark_keeps hP h hs
  | tickBoundaryMark => exact execTickBoundaryMark_keeps hP h hs
  | commandMessage die parity => exact execCommandMessage_keeps hP _ _ h hs
  | tickWorkReady tiles hits => exact execTickWorkReady_keeps hP _ _ h hs
  | deltaPacket j pass parity hits => exact execDeltaPacket_keeps hP _ _ _ _ h hs
  | layerEvaluation l n hits => exact execLayerEvaluation_keeps hP _ _ _ h hs
  | tickComplete => exact execTickComplete_keeps hP h hs
  | tickCut => exact execTickCut_keeps hP h hs
  | denseDrain => exact execDenseDrain_keeps hP h hs
  | checkSlice hits => exact execCheckSlice_keeps hP _ h hs
  | refreshSlice hits => exact execRefreshSlice_keeps hP _ h hs
  | dppRun die parity hits => exact execDppRun_keeps hP _ _ _ h hs
  | inputSpikeInjection e parity hits => exact execInputSpikeInjection_keeps hP _ _ _ h hs
  | spikeArrival j parity hits => exact execSpikeArrival_keeps hP _ _ _ h hs
  | instantClose c hits => exact execInstantClose_keeps hP _ _ h hs
  | stepStart c => exact execStepStart_keeps hP _ h hs
  | contextAgeSweep c ix hits => exact execContextAgeSweep_keeps hP _ _ _ h hs
  | windowEnd => exact execWindowEnd_keeps hP h hs
  | loomingHandover => exact execLoomingHandover_keeps hP h hs
  | reflexFire parity => exact execReflexFire_keeps hP _ h hs
  | reflexHoldExpiry r => exact execReflexHoldExpiry_keeps hP _ h hs
  | fabricHalt => exact execFabricHalt_keeps hP h hs
  | fabricSetChange => exact execFabricSetChange_keeps hP h hs
  | drdyEdge j held => exact execDrdyEdge_keeps hP _ _ h hs
  | imuReadComplete j data perr => exact execImuReadComplete_keeps hP _ _ _ h hs
  | encoderTransition e a b held => exact execEncoderTransition_keeps hP _ _ _ _ h hs
  | encoderSample e perr => exact execEncoderSample_keeps hP _ _ h hs
  | canFrame c sof fr taken perr => exact execCanFrame_keeps hP _ _ _ _ _ h hs
  | busOffRecovery c => exact execBusOffRecovery_keeps hP _ h hs
  | gnssSentence arrived text => exact execGnssSentence_keeps hP _ _ h hs
  | gnssByte b => exact execGnssByte_keeps hP _ h hs
  | resamplerTimeout n perr => exact execResamplerTimeout_keeps hP _ _ h hs
  | channelGapRestart n => exact execChannelGapRestart_keeps hP _ h hs
  | fusionPass => exact execFusionPass_keeps hP h hs
  | residualReturn id => exact execResidualReturn_keeps hP _ h hs
  | shroudSample r acts sense => exact execShroudSample_keeps hP _ _ _ h hs
  | estMismatch r => exact execEstMismatch_keeps hP _ h hs
  | opStep => exact execOpStep_keeps hP h hs
  | vrCheck d mv => exact execVrCheck_keeps hP _ _ h hs
  | capEvaluation => exact execCapEvaluation_keeps hP h hs
  | thermalControl temps => exact execThermalControl_keeps hP _ h hs
  | thermtrip sensor temp => exact execThermtrip_keeps hP _ _ h hs
  | railMeasure mv => exact execRailMeasure_keeps hP _ h hs
  | idle1Expiry => exact execIdle1Expiry_keeps hP h hs
  | idle2Expiry l12 => exact execIdle2Expiry_keeps hP _ h hs
  | idle3Expiry => exact execIdle3Expiry_keeps hP h hs
  | reefEntryDone => exact execReefEntryDone_keeps hP h hs
  | wake w => exact execWake_keeps hP _ h hs
  | ready mv ddr => exact execReady_keeps hP hE hS _ _ h hs
  | por straps testEn gib => exact execPor_keeps hP (hR (.inr (.inr (.inl ⟨_, _, _, rfl⟩)))) _ _ _ h hs
  | warmReset resetN held => exact execWarmReset_keeps hP hE (hR (.inl ⟨_, _, rfl⟩)) _ _ h hs
  | watchdogReset => exact execWatchdogReset_keeps hP hE (hR (.inr (.inl rfl))) h hs
  | scrubVisit m addr shadow hit => exact execScrubVisit_keeps hP _ _ _ _ h hs
  | vejanRetry l => exact execVejanRetry_keeps hP _ h hs
  | retrainComplete l => exact execRetrainComplete_keeps hP _ h hs
  | retrainTimeout l => exact execRetrainTimeout_keeps hP _ h hs
  | halyardHopRetry => exact execHalyardHopRetry_keeps hP h hs
  | progressWatchdogExpiry die unit reasons idleNs => exact execProgressWatchdogExpiry_keeps hP _ _ _ _ h hs
  | snapshotCapture die units eccs => exact execSnapshotCapture_keeps hP _ _ _ h hs
  | hardwareTrigger k => exact execHardwareTrigger_keeps hP _ h hs
  | traceFifoDrain die => exact execTraceFifoDrain_keeps hP _ h hs
  | counterExport => exact execCounterExport_keeps hP h hs
  | lifetimeSample => exact execLifetimeSample_keeps hP h hs
  | lifetimeCopyWrite ok => exact execLifetimeCopyWrite_keeps hP _ h hs
  | stepBoundary => exact execStepBoundary_keeps hP h hs
  | canBusError c err => exact execCanBusError_keeps hP _ _ h hs
  | aonPowerLoss => exact execAonPowerLoss_keeps hP (hR (.inr (.inr (.inr rfl)))) h hs
  | slewIntervalEnd k => exact execSlewIntervalEnd_keeps hP _ h hs
  | lpddrWriteDone f q data => exact execLpddrWriteDone_keeps hP (hL (.inl ⟨_, _, _, rfl⟩)) _ _ _ h hs
  | fwUpdateDone f q => exact execFwUpdateDone_keeps hP _ _ h hs
  | imuXferDone j data => exact execImuXferDone_keeps hP _ _ h hs

end Sys2Proof.Machine
end

