-- ==== Sys2Proof/Laws/Windows.lean ====
section
/-! SUPPORT. What serving READ_WINDOW descriptors and ending a window leave alone. -/

namespace Sys2Proof.Machine

/-- From `s` to `t` nothing of what SameRest names has changed, nor any BAR0 register. -/
structure ServeOnly (s t : State) : Prop where
  rest : SameRest s t
  bar0 : ∀ x : Fld, x.inBar0 → t.get x = s.get x

theorem ServeOnly.refl (s : State) : ServeOnly s s := ⟨SameRest.refl s, fun _ _ => rfl⟩

theorem ServeOnly.trans {s t u : State} (a : ServeOnly s t) (b : ServeOnly t u) : ServeOnly s u :=
  ⟨a.rest.trans b.rest, fun x hx => (b.bar0 x hx).trans (a.bar0 x hx)⟩

theorem serveOnly_complete (s : State) (f q : Nat) (o : Done) : ServeOnly s (s.complete f q o) :=
  ⟨State.complete_rest s f q o, fun _ hx => State.complete_get_bar0 s f q o hx⟩

theorem serveOnly_post (s : State) (f a : Nat) (ro : Bool) (b : List Byte) : ServeOnly s (s.post f a ro b) :=
  ⟨sameRest_post s f a ro b, fun _ _ => rfl⟩

theorem serveOnly_each {α : Type} {s : State} {f : State → α → State} (l : List α) (hf : ∀ t x, ServeOnly t (f t x)) : ServeOnly s (s.each l f) :=
  State.each_keeps (fun t => ServeOnly s t) (fun t x h => h.trans (hf t x)) (ServeOnly.refl s)

theorem serveOnly_serveWindow (s : State) (f q j a n : Nat) : ServeOnly s (s.serveWindow f q j a n) := by
  unfold State.serveWindow
  split
  · exact ServeOnly.refl s
  · dsimp only
    split
    · exact serveOnly_complete _ _ _ _
    · exact (serveOnly_post _ _ _ _ _).trans (serveOnly_complete _ _ _ _)

theorem serveOnly_serveReads (s : State) (j : Nat) : ServeOnly s (s.serveReads j) := by
  refine serveOnly_each _ fun t w => ?_
  split
  · exact serveOnly_serveWindow _ _ _ _ _ _
  · split
    · exact serveOnly_complete _ _ _ _
    · exact ServeOnly.refl t

theorem serveOnly_abortReads (s : State) (b : Nat) : ServeOnly s (s.abortReads b) := by
  refine serveOnly_each _ fun t w => ?_
  split
  · exact serveOnly_complete _ _ _ _
  · exact ServeOnly.refl t

/-- The state in which a window has ended and no READ_WINDOW has been served yet. -/
def State.keptWindow (s : State) (j : Nat) : State :=
  let r := s.windowRecord j
  let kept := (s.fab.kept ++ [⟨j, r⟩])
  let s1 := s.setFab { s.fab with kept := kept.drop (kept.length - 8), windows := SMap.del j s.fab.windows, winNext := j + 1 }
  s1.when (s.flag R.fabWinDestEn) fun s => s.hand (s.get R.fabWinDestFunc) (s.get R.fabWinDestRing) r

theorem State.endWindow_eq (s : State) (j : Nat) : s.endWindow j = (s.keptWindow j).serveReads j := rfl

/-- Ending a window keeps run control, the dense path, the FTU, time, and every BAR0 register. -/
theorem State.endWindow_frame (s : State) (j : Nat) :
    (s.endWindow j).ctl = s.ctl ∧ (s.endWindow j).tns = s.tns ∧ (s.endWindow j).ftu = s.ftu ∧ (s.endWindow j).flt = s.flt
      ∧ (s.endWindow j).time = s.time ∧ (s.endWindow j).fab.running = s.fab.running ∧ (s.endWindow j).fab.halt = s.fab.halt
      ∧ ∀ x : Fld, x.inBar0 → (s.endWindow j).get x = s.get x := by
  have h := serveOnly_serveReads (s.keptWindow j) j
  have k : (s.keptWindow j).ctl = s.ctl ∧ (s.keptWindow j).tns = s.tns ∧ (s.keptWindow j).ftu = s.ftu ∧ (s.keptWindow j).flt = s.flt
      ∧ (s.keptWindow j).time = s.time ∧ (s.keptWindow j).fab.running = s.fab.running ∧ (s.keptWindow j).fab.halt = s.fab.halt
      ∧ ∀ x : Fld, x.inBar0 → (s.keptWindow j).get x = s.get x := by
    unfold State.keptWindow State.when
    dsimp only
    split
    · exact ⟨rfl, rfl, rfl, rfl, rfl, rfl, rfl, fun _ _ => rfl⟩
    · exact ⟨rfl, rfl, rfl, rfl, rfl, rfl, rfl, fun _ _ => rfl⟩
  rw [State.endWindow_eq]
  exact ⟨h.rest.ctl.trans k.1, h.rest.tns.trans k.2.1, h.rest.ftu.trans k.2.2.1, h.rest.flt.trans k.2.2.2.1, h.rest.time.trans k.2.2.2.2.1,
    (congrArg Fabric.running h.rest.fab).trans k.2.2.2.2.2.1, (congrArg Fabric.halt h.rest.fab).trans k.2.2.2.2.2.2.1,
    fun x hx => (h.bar0 x hx).trans (k.2.2.2.2.2.2.2 x hx)⟩

/-- The same of a window left open by a stop, ended before a run begins. -/
theorem State.flushWindow_frame (s : State) :
    s.flushWindow.ctl = s.ctl ∧ s.flushWindow.tns = s.tns ∧ s.flushWindow.ftu = s.ftu ∧ s.flushWindow.flt = s.flt ∧ s.flushWindow.time = s.time
      ∧ ∀ x : Fld, x.inBar0 → s.flushWindow.get x = s.get x := by
  unfold State.flushWindow State.when
  split
  · have ⟨a, b, c, d, e, _, _, g⟩ := State.endWindow_frame s s.fab.winNext
    exact ⟨a, b, c, d, e, g⟩
  · exact ⟨rfl, rfl, rfl, rfl, rfl, fun _ _ => rfl⟩

end Sys2Proof.Machine
end

