-- ==== Sys2Proof/Machine/Pins.lean ====
section
/-! DEFINITION. The output pins as the state shows them: levels, where they float, and the pull that then holds them (R232, R237, R373, R407, R419, R425, R497). -/

namespace Sys2Proof.Machine

/-- The output pins whose level the spec gives as a function of the state (R222, R232, R237, R257, R373, R407, R419). -/
inductive Pin where
  | reflex (r : Fin 2) | thrOut | tpo (p : Fin 4) | imuCsN (i : Fin 2) | canTx (c : Fin 4) | thermtripN | pen (k : Fin 6)
  deriving DecidableEq, Repr

/-- The other outputs of R425: while driven, their level follows the bits of a transfer, an instant that no command shows. -/
inductive BusPin where
  | imuSclk (i : Fin 2) | imuMosi (i : Fin 2) | mdc | mdio | qspiCsN | ddrResetN | ddrCk | ddrCs
  deriving DecidableEq, Repr

/-- Whether the outputs of the IOD are driven: not in REEF2, REEF3 and Off, nor from the rise of their supply until ready (R425, R497). [DEDUCED, log entry 146] -/
def State.drives (s : State) : Bool :=
  match s.phase with
  | .sail => true
  | .entering n _ _ => decide (n ≤ 2)
  | .reef n => n == 1
  | .exiting n _ _ => n == 1
  | .boot _ => !s.reef.causes.contains 7 && !s.reef.causes.contains 2
  | .off => false

/-- An output with an active level: driven, or floating (none). -/
def State.output (s : State) (active : Bool) (activeHigh : Fld) : Option Bool :=
  if s.drives then some (active == s.flag activeHigh) else none

/-- A power-enable output (R415, R419, R420, R425): asserted in order from the wake of REEF3 or the oscillator's start after a POR, released in the reverse order; a reset leaves the sequence alone. [DEDUCED, log entry 146] -/
def State.powerEnable (s : State) (k : Nat) : Option Bool := if s.supplied then some (s.reef.rails.pen s.time.clk k) else none

/-- The level of an output pin; none where it floats (R425). THERMTRIP_N is driven low by a trip while VDDIO_33 is on; a CAN output rests recessive. -/
def State.pin (s : State) : Pin → Option Bool
  | .reflex r => s.output (s.flag (R.fabReflexStatAsserted r)) (R.fabReflexCfgActiveHigh r)
  | .thrOut => s.output (s.flag R.fltThrOutLevel) R.fltThrOutActiveHigh
  | .tpo p => s.output (s.tpo p).fall.isSome (R.timTpoCfgActiveHigh p)
  | .imuCsN i => if s.drives then some ((s.imu i).reading.isNone && !s.flag (R.fltImuXferCtlBusy i)) else none
  | .canTx _ => if s.drives then some true else none
  | .thermtripN => if s.railOn 0 && s.flag R.pwrThermStatusTrip then some false else none
  | .pen k => s.powerEnable k

/-- The level that the pull of R425 gives a floating pin: the inactive or safe one. -/
def State.pull (s : State) : Pin → Bool
  | .reflex r => !s.flag (R.fabReflexCfgActiveHigh r)
  | .thrOut => !s.flag R.fltThrOutActiveHigh
  | .tpo p => !s.flag (R.timTpoCfgActiveHigh p)
  | .imuCsN _ | .canTx _ | .thermtripN => true
  | .pen _ => false

/-- The level seen on the board. -/
def State.boardLevel (s : State) (p : Pin) : Bool := (s.pin p).getD (s.pull p)

/-- Whether the device comes up, from a reset or out of REEF3, with its outputs not yet released to it (R497). -/
def State.comesUp (s : State) : Bool :=
  match s.phase with
  | .boot _ => !s.drives
  | .exiting n _ _ => n == 3
  | _ => false

/-- Whether a bus output floats (R425, R497): the memory outputs in REEF3, Off and until ready; the flash's until Mainstay boots. -/
def State.busFloats (s : State) : BusPin → Bool
  | .ddrResetN | .ddrCk | .ddrCs => !s.railOn 2 || s.comesUp
  | .qspiCsN => !(s.drives || s.mainstayBoots)
  | _ => !s.drives

/-- The level that the pull of R425 gives a floating bus output. -/
def BusPin.pull : BusPin → Bool
  | .qspiCsN => true
  | _ => false

end Sys2Proof.Machine
end

