-- ==== Sys2Proof/WellFormed.lean ====
section
/-! DEFINITION. Which commands are well formed: what the types leave open of the operands' ranges. -/

namespace Sys2Proof

/-- Sizes of a PCIe write or read of up to 8 bytes. -/
def sizeOk (size : Nat) : Bool := decide (1 ≤ size) && decide (size ≤ 8)

/-- Whether an access of a window lies inside it (R291, R292, R511): PF BAR0 is PF0's. -/
def windowOk (f : Nat) (sp : Space) (off : Nat) : Bool :=
  match sp with
  | .bar0 => f == 0 && decide (off < 0x1000000)
  | .page => decide (off < 0x10000)

/-- A 4-byte access, aligned, inside its window. -/
def wordOk (f : Nat) (sp : Space) (off : Nat) : Bool := windowOk f sp off && off % 4 == 0

/-- A completed read returns what was asked for. -/
def fetchOk (n : Nat) : FetchResult → Bool
  | .ok b => b.length == n
  | .poisoned | .failed => true

/-- A long packet's header fields in their widths (R39). -/
def Packet.ok (k : Packet) : Bool := decide (k.vc < 32) && decide (k.dt < 64) && decide (k.payload.length < 65536)

/-- A CAN frame's identifier and data length (R237, R239). -/
def CanFrame.ok (fr : CanFrame) : Bool :=
  decide (fr.id < (if fr.ext then 2 ^ 29 else 2 ^ 11))
    && (!fr.remote || (!fr.fd && fr.data.isEmpty))
    && (if fr.fd then [0, 1, 2, 3, 4, 5, 6, 7, 8, 12, 16, 20, 24, 32, 48, 64].contains fr.data.length else decide (fr.data.length ≤ 8))

/-- A measurement names the eight rails, five dies and two PHYs (R485). -/
def Measurement.ok (m : Measurement) : Bool :=
  m.railMv.length == 8 && m.rail10mA.length == 8 && m.tj.length == 5 && decide (m.pcie < 2 ^ 16) && m.phys.length == 2

/-- A queue of a snapshot in the widths of R481. -/
def QueueSnap.ok (x : QueueSnap) : Bool :=
  decide (x.queue < 2 ^ 16) && decide (x.occupancy < 2 ^ 16) && decide (x.held < 2 ^ 16) && decide (x.owed < 2 ^ 16) && decide (x.head0 < 2 ^ 64)
    && decide (x.head1 < 2 ^ 64)

/-- A unit of a snapshot in the widths of R481: a kind of its table, a code of R477, 64 events. -/
def UnitSnap.ok (u : UnitSnap) : Bool :=
  decide (u.index < 2 ^ 16) && decide (1 ≤ u.kind) && decide (u.kind ≤ 16) && decide (u.wait < 12) && decide (u.waitOn < 2 ^ 27)
    && decide (u.idleUs < 2 ^ 32) && decide (u.queues.length < 2 ^ 16) && u.queues.all QueueSnap.ok && u.events.length == 64

/-- Whether a command's operands lie in their ranges. -/
def Instr.wf : Instr → Bool
  | .sqDoorbell _ _ size _ | .cqDoorbell _ _ size _ | .streamDoorbell _ _ size _ | .urgentStop _ size _ => sizeOk size
  | .descriptorFetch _ _ res => fetchOk 64 res
  | .ringEnable k _ i _ => k == .str || decide (i.val < 4)
  | .surroundings _ _ m => m.ok
  | .lifeRead off => decide (off < 2 ^ 16)
  | .registerWrite f sp off size _ => windowOk f sp off && sizeOk size
  | .loWrite f sp off _ | .hiWrite f sp off _ | .rcRead f sp off => wordOk f sp off
  | .loRead f sp off size => windowOk f sp off && sizeOk size
  | .transmitSlot _ slot => slot.length == 2048
  | .ptpFrame _ frame => decide (14 ≤ frame.length)
  | .linkTraining _ _ gear loss => decide (gear ≤ 5) && decide (loss < 1024)
  | .capabilityRead _ _ data => data.length == 16
  | .longPacket _ pkt => pkt.ok
  | .staleSweepVisit _ x y _ => decide (x < 2048) && decide (y < 1536)
  | .imuReadComplete _ data _ => decide (data.length ≤ 24)
  | .imuXferDone _ data => decide (data.length ≤ 8)
  | .canFrame _ _ fr _ _ => fr.ok
  | .snapshotCapture _ units _ => units.all UnitSnap.ok
  | .progressWatchdogExpiry _ unit reasons _ => decide (unit < 2 ^ 27) && !reasons.isEmpty && reasons.all fun r => decide (r < 12)
  | .thermtrip sensor _ => decide (sensor < 44)
  | .railMeasure mv => mv.length == 8
  | .ready mv _ => mv.length == 12
  | .thermalControl temps => temps.length == 44
  | .por _ _ gib => decide (4 ≤ gib) && decide (gib ≤ 64)
  | .scrubVisit m addr _ _ => decide (addr < (match m with | .core => 2 ^ 27 | .cluster => 2 ^ 26 | .bolt => 2 ^ 28))
  | .nop .. | .loadSet .. | .loadSetComplete _ | .swapSet .. | .swapTakesEffect | .start .. | .runBegins | .stop .. | .stopBoundary
  | .cutComplete | .setPhase .. | .phaseTakesEffect | .readWindow .. | .configure .. | .arm .. | .trigger .. | .disarm .. | .drain ..
  | .dumpFetch .. | .fence .. | .fenceRelease .. | .fwUpdate .. | .lpddrWrite .. | .operandReadFail .. | .recordStaging _
  | .streamRecordWrite .. | .streamIrqTimeout .. | .ringDisable .. | .lossAck .. | .flr _ | .i2cAddressMatch | .status | .i2cStop _
  | .regRead _ | .regWrite .. | .dumpInfo | .dumpRead .. | .capLoRead _ | .gnssRxRead | .coefDataAccess _ | .lifDataRead
  | .portEnable _ | .portDisable _ | .retrain .. | .cciGo .. | .cciTransactionEnd .. | .imuEnable .. | .imuXfer .. | .channelEnable _
  | .clear _ | .snap _ | .release | .softReset _ | .dieReset _ | .dieResetDone .. | .serviceModeWrite _ | .step _ | .slew _
  | .timIncrWrite _ | .domainStep .. | .domainSlew .. | .switchRequest _ | .domainSwitch | .tpoEnable .. | .tpoDisable .. | .tpoEdge _
  | .macTxDoorbell .. | .exportDatagram _ | .tciEdge .. | .rebaseEstimate _ | .firstTripleCommit _ | .linkLoss _
  | .cameraCurrentSample .. | .rebaseCycle _ | .surfaceUpdate .. | .flowFit .. | .agingWheelScan .. | .tapRecordClose .. | .regionInit _
  | .canvasStaleMark | .tickBoundaryMark | .commandMessage .. | .tickWorkReady .. | .deltaPacket .. | .layerEvaluation .. | .tickComplete
  | .tickCut | .denseDrain | .checkSlice _ | .refreshSlice _ | .dppRun .. | .inputSpikeInjection .. | .spikeArrival .. | .instantClose ..
  | .stepStart _ | .contextAgeSweep .. | .windowEnd | .loomingHandover | .reflexFire _ | .reflexHoldExpiry _ | .fabricHalt
  | .fabricSetChange | .drdyEdge .. | .encoderTransition .. | .encoderSample .. | .busOffRecovery _ | .gnssSentence .. | .gnssByte _
  | .resamplerTimeout .. | .channelGapRestart _ | .fusionPass | .residualReturn .. | .shroudSample .. | .estMismatch .. | .opStep
  | .vrCheck .. | .capEvaluation | .idle1Expiry | .idle2Expiry _ | .idle3Expiry | .reefEntryDone | .wake _ | .warmReset ..
  | .watchdogReset | .vejanRetry _ | .retrainComplete _ | .retrainTimeout _ | .halyardHopRetry
  | .hardwareTrigger _ | .traceFifoDrain _ | .counterExport | .lifetimeSample | .lifetimeCopyWrite _
  | .stepBoundary | .canBusError .. | .aonPowerLoss | .slewIntervalEnd _ | .lpddrWriteDone .. | .fwUpdateDone .. => true

end Sys2Proof
end

