-- ==== Sys2Proof/Tests/Slice0.lean ====
section
/-! SUPPORT. Small tests: ill-formed commands refused, states that meet the hypotheses of the statements, and values worked out from the spec. -/

namespace Sys2Proof.Tests

open Sys2Proof.Machine

/-! ### States for tests -/

/-- A device in SAIL with the given register fields. -/
def sail (l : List (Fld × Nat)) : State := l.foldl (fun s x => s.set x.1 x.2) { State.reset with phase := .sail, reef := { State.reset.reef with rails := .up, causes := [], classes := 0 } }

/-- Zero bytes. -/
def zeros (n : Nat) : List Byte := List.replicate n 0

/-- A descriptor of an operation. -/
def desc (op : Op) (st : Stage) : Desc := { cid := 7, irq := false, op := op, stage := st, cq := 0, head := 1 }

/-- Ring 0 of PF0 has fetched an operation, at the head of the device-wide queue; its completion ring is enabled. -/
def ring (op : Op) (st : Stage) (l : List (Fld × Nat)) : State :=
  ((sail ([(R.fnCqCfgEn 0 0, 1), (R.fnCqCfgSizeLog2 0 0, 4)] ++ l)).setCur 0 0 (some (desc op st))).when (st == .fetched) fun s =>
    { s with host := { s.host with wide := [(0, 0)] } }

/-- Device time in ns. -/
def atNs (s : State) (ns : Nat) : State := { s with time := { s.time with dev := ns * 2 ^ 32 } }

/-! ### Ill-formed commands -/

theorem test_wf_doorbell_size : (Instr.sqDoorbell 0 0 0 1).wf = false ∧ (Instr.cqDoorbell 0 0 9 1).wf = false := by decide
theorem test_wf_fetch_length : (Instr.descriptorFetch 0 0 (.ok (zeros 63))).wf = false := by decide
theorem test_wf_ring_number : (Instr.ringEnable .sq 0 4 0).wf = false ∧ (Instr.ringEnable .str 0 7 0).wf = true := by decide
theorem test_wf_measurement : (Instr.surroundings 0 0 ⟨[], [], [], 0, []⟩).wf = false := by decide
theorem test_wf_life_offset : (Instr.lifeRead 65536).wf = false := by decide
theorem test_wf_window : (Instr.registerWrite 1 .bar0 0 4 0).wf = false ∧ (Instr.registerWrite 0 .page 0x10000 4 0).wf = false := by decide
theorem test_wf_word : (Instr.loWrite 0 .bar0 2 0).wf = false ∧ (Instr.hiWrite 0 .bar0 0x1000000 0).wf = false
    ∧ (Instr.rcRead 3 .page 5).wf = false ∧ (Instr.loRead 0 .page 0 0).wf = false := by decide
theorem test_wf_slot : (Instr.transmitSlot 0 (zeros 64)).wf = false := by decide
theorem test_wf_frame : (Instr.ptpFrame 0 (zeros 13)).wf = false := by decide
theorem test_wf_training : (Instr.linkTraining 0 true 6 0).wf = false ∧ (Instr.linkTraining 0 true 5 1024).wf = false := by decide
theorem test_wf_capability : (Instr.capabilityRead 0 true (zeros 15)).wf = false := by decide
theorem test_wf_packet : (Instr.longPacket 0 ⟨true, 32, 0, [], true⟩).wf = false ∧ (Instr.longPacket 0 ⟨true, 0, 64, [], true⟩).wf = false := by decide
theorem test_wf_sweep : (Instr.staleSweepVisit 0 2048 0 []).wf = false ∧ (Instr.staleSweepVisit 0 0 1536 []).wf = false := by decide
theorem test_wf_imu : (Instr.imuReadComplete 0 (zeros 25) 0).wf = false ∧ (Instr.imuXferDone 0 (zeros 9)).wf = false := by decide
theorem test_wf_can : (Instr.canFrame 0 0 ⟨false, 2048, false, false, [], false⟩ 0 0).wf = false ∧ (Instr.canFrame 0 0 ⟨true, 0, true, false, zeros 9, false⟩ 0 0).wf = false := by decide
theorem test_wf_thermal : (Instr.thermtrip 44 0).wf = false ∧ (Instr.thermalControl []).wf = false := by decide
theorem test_wf_rails : (Instr.railMeasure []).wf = false ∧ (Instr.ready [] true).wf = false := by decide
theorem test_wf_por : (Instr.por 0 false 3).wf = false ∧ (Instr.por 0 false 65).wf = false ∧ (Instr.por 0 false 4).wf = true := by decide
theorem test_wf_scrub : (Instr.scrubVisit .cluster (2 ^ 26) false ⟨.other, .ok⟩).wf = false := by decide

/-! ### Witnesses: states and operands that meet the hypotheses of the statements -/

/-! #### The machine, time and rings -/

theorem witness_StepRunsFrontCommand : ({ State.reset with pending := [.rebaseCycle 0, .opStep] } : State).pending = .rebaseCycle 0 :: [.opStep] := rfl
theorem witness_StepKeepsInv : (sail []).Inv ∧ ∃ t, step (sail []) = .next t := ⟨⟨by decide, by decide, by decide, by decide⟩, ⟨_, rfl⟩⟩
theorem witness_HaltLastsUntilReset : ∃ t, ({ sail [] with halted := true } : State).halted = true ∧ exec (.rebaseCycle 0) { sail [] with halted := true } = .next t := ⟨_, rfl, rfl⟩
theorem witness_LpddrChangesOnlyByLpddrWrite : ∃ t, exec (.rebaseCycle 0) (sail []) = .next t ∧ (∀ f q d, Instr.rebaseCycle 0 ≠ .lpddrWriteDone f q d)
    ∧ ∀ f q b, Instr.rebaseCycle 0 ≠ .operandReadFail f q b := ⟨_, rfl, by simp, by simp⟩
theorem witness_TimePassesAndSlewIsSpent : (sail []).pending = [] ∧ (sail []).timeRuns = true ∧ (sail []).time.slew.left = 0 ∧ (sail []).time.slew.rem = 0
    ∧ (∀ c : Fin 4, ((sail []).can c).fifo = []) ∧ State.reset.timeRuns = false ∧ (0 : Nat) < ({ rem := 5, per := 2, left := 2 } : Slew).left := by decide

/-- PF0 READY with its rings of 16 entries enabled. -/
def rings : State := sail ([(R.fnStatusReady 0, 1), (R.fnSqCfgEn 0 0, 1), (R.fnSqCfgSizeLog2 0 0, 4), (R.fnCqCfgEn 0 0, 1), (R.fnCqCfgSizeLog2 0 0, 4),
  (R.fnStrCfgEn 0 0, 1), (R.fnStrCfgSizeLog2 0 0, 18), (R.fnCqTailTail 0 0, 3), (R.fnStrWrWr 0 0, 128)])

theorem witness_DoorbellsMoveIndices : rings.linkUp = true ∧ rings.ready 0 = true ∧ rings.flag (R.fnSqCfgEn 0 0) = true ∧ (15 : Nat) < rings.sqSize 0 0
    ∧ rings.flag (R.fnCqCfgEn 0 0) = true ∧ (3 : Nat) < rings.cqSize 0 0
    ∧ (3 + rings.cqSize 0 0 - (rings.cq 0 0).head) % rings.cqSize 0 0 ≤ (rings.get (R.fnCqTailTail 0 0) + rings.cqSize 0 0 - (rings.cq 0 0).head) % rings.cqSize 0 0
    ∧ rings.flag (R.fnStrCfgEn 0 0) = true ∧ (128 : Nat) < rings.strSize 0 0 ∧ 128 % 64 = 0
    ∧ (128 + rings.strSize 0 0 - (rings.str 0 0).rd) % rings.strSize 0 0 ≤ (rings.get (R.fnStrWrWr 0 0) + rings.strSize 0 0 - (rings.str 0 0).rd) % rings.strSize 0 0 := by decide
theorem witness_DoorbellsMoveIndices_refused : rings.flag (R.fnCqCfgEn 0 1) = false ∧ rings.cqSize 0 0 ≤ 16
    ∧ (rings.get (R.fnCqTailTail 0 0) + rings.cqSize 0 0 - (rings.cq 0 0).head) % rings.cqSize 0 0 < (4 + rings.cqSize 0 0 - (rings.cq 0 0).head) % rings.cqSize 0 0 := by decide
theorem witness_DoorbellsWaitForReady : (sail []).linkUp = true ∧ (sail []).ready 0 = false := by decide
theorem witness_CompletionWritesEntry : (ring .nop .fetched []).cur 0 0 = some (desc .nop .fetched) ∧ (desc .nop .fetched).cq < 4 ∧ (desc .nop .fetched).cqGone = false
    ∧ (ring .nop .fetched []).flag (R.fnCqCfgEn 0 (desc .nop .fetched).cq) = true ∧ (ring .nop .fetched []).awake = true
    ∧ (ring .nop .fetched []).fetchedOp 0 0 = some .nop := by decide

/-- PF0's submission ring 0 has one descriptor to fetch. -/
def toFetch (l : List (Fld × Nat)) : State := (l.foldl (fun s x => s.set x.1 x.2) rings).setSq 0 0 { tail := 1 }

theorem witness_DescriptorFetchOutcomes : (toFetch [(R.fnLossAckAck 0, 1)]).awake = true ∧ (toFetch [(R.fnLossAckAck 0, 1)]).canFetch 0 0 = true
    ∧ (toFetch [(R.fnLossAckAck 0, 1)]).screen 0 (zeros 64) = none ∧ parseOp (zeros 64) = .nop
    ∧ (toFetch [(R.fnLossAckAck 0, 1)]).screen 0 (0x0D :: zeros 63) = some (.bad 1) := by decide +kernel
theorem witness_StateLostHandshake : (toFetch []).awake = true ∧ (toFetch []).canFetch 0 0 = true
    ∧ (toFetch []).get (R.fnLossAckAck 0) ≠ (toFetch []).get (R.fnLossEpochEpoch 0) := by decide
theorem witness_FenceWaitsForEarlierWork_fetch : (toFetch [(R.fnLossAckAck 0, 1)]).screen 0 (9 :: zeros 63) = none ∧ leAt (9 :: zeros 63) 0 1 = 9 := by decide +kernel
theorem witness_FenceWaitsForEarlierWork : (ring (.fence true) .fetched []).awake = true ∧ (ring (.fence true) .fetched []).cur 0 0 = some (desc (.fence true) .fetched)
    ∧ (desc (.fence true) .fetched).waitRings = [] ∧ (desc (.fence true) .fetched).waitRecords = []
    ∧ ({ desc (.fence true) .running with waitRings := [1] } : Desc).waitRings ≠ []
    ∧ ((ring (.fence true) .running []).setCur 0 1 (some (desc .nop .running))).cur 0 1 = some (desc .nop .running) := by decide
theorem witness_LpddrWriteCopiesRange : (ring (.lpddrWrite 0 64 64) .fetched [(R.dbgLpddrRsvAddr, 128)]).fetchedOp 0 0 = some (.lpddrWrite 0 64 64)
    ∧ 64 + 64 ≤ (ring (.lpddrWrite 0 64 64) .fetched [(R.dbgLpddrRsvAddr, 128)]).get R.dbgLpddrRsvAddr
    ∧ (ring (.lpddrWrite 0 64 64) .fetched [(R.dbgLpddrRsvAddr, 127)]).get R.dbgLpddrRsvAddr < 64 + 64
    ∧ (ring (.lpddrWrite 0 64 64) .running []).runningOp 0 0 = some (.lpddrWrite 0 64 64) ∧ (ring (.lpddrWrite 0 64 64) .running []).cur 0 4 = none
    ∧ (zeros 64).length = 64 := by decide
theorem witness_FirmwareUpdateReplacesFlash : (ring (.fwUpdate 0 64) .fetched []).wideOp 0 0 = some (.fwUpdate 0 64)
    ∧ (ring (.fwUpdate 0 64) .running []).runningOp 0 0 = some (.fwUpdate 0 64) ∧ (ring (.fwUpdate 0 64) .running []).cur 0 4 = none
    ∧ ({ ring (.fwUpdate 0 64) .running [] with ctl := { newFirmware := some (zeros 64) } } : State).ctl.newFirmware = some (zeros 64) := by decide
/-- The firmware check is free, so one of the two cases holds. -/
theorem witness_FirmwareUpdateReplacesFlash_check : Config.firmwareOk (zeros 64) = true ∨ Config.firmwareOk (zeros 64) = false := by
  cases Config.firmwareOk (zeros 64) <;> simp

/-! #### Run control -/

/-- An empty configuration set. -/
def set0 : ConfigSet := { id := 5 }

/-- The same state with sets in both places. -/
def withSets (s : State) (a b : Option ConfigSet) : State := { s with active := a, shadow := b }

theorem witness_StartEntersStarting : (withSets (ring .start .fetched []) (some set0) none).awake = true
    ∧ (withSets (ring .start .fetched []) (some set0) none).wideOp 0 0 = some .start ∧ (withSets (ring .start .fetched []) (some set0) none).msdLost = false
    ∧ (withSets (ring .start .fetched []) (some set0) none).stopped = true ∧ (withSets (ring .start .fetched []) (some set0) none).active = some set0
    ∧ (withSets (ring .start .fetched []) (some set0) none).flag R.hifSetsSwapPending = false
    ∧ (withSets (ring .start .fetched []) (some set0) none).edgesBad = false ∧ (withSets (ring .start .fetched []) (some set0) none).setFault set0 = none
    ∧ (ring .start .fetched [(R.hifRunState, 2)]).stopped = false ∧ (ring .start .fetched []).active = none
    ∧ (withSets (ring .start .fetched [(R.hifSetsSwapPending, 1)]) (some set0) none).flag R.hifSetsSwapPending = true
    ∧ (withSets (ring .start .fetched [(R.ingCtlPortEn, 1)]) (some set0) none).regionsBad = true := by decide
theorem witness_StartEntersStarting_regions : (withSets (ring .start .fetched []) (some set0) none).regionsBad = false := by
  have h : placesOf (some set0) ++ placesOf none ++ (withSets (ring .start .fetched []) (some set0) none).traceRingSpace = [] := by decide
  have g : (withSets (ring .start .fetched []) (some set0) none).regionsOverlap = false
      ∧ ((List.range 8).any fun p => (withSets (ring .start .fetched []) (some set0) none).regionOn p && (List.range 2).any fun m =>
          (decide (((withSets (ring .start .fetched []) (some set0) none).regionTiles p m).1 < ((withSets (ring .start .fetched []) (some set0) none).regionTiles p m).2)
            && decide (98304 < ((withSets (ring .start .fetched []) (some set0) none).regionTiles p m).2))) = false
      ∧ ((List.range 8).any fun p => bit ((withSets (ring .start .fetched []) (some set0) none).get R.ingCtlPortEn) p
          && !(withSets (ring .start .fetched []) (some set0) none).regionOn p) = false := by decide
  show (_ || _ || _ || overlap _ (placesOf (some set0) ++ placesOf none ++ _)) = false
  rw [h, g.1, g.2.1, g.2.2]
  simp [overlap]
theorem witness_RunBeginsAtFirstTick : (sail [(R.hifRunState, 1), (R.hifRunTickTick, 4)]).get R.hifRunState = 1
    ∧ (sail [(R.hifRunState, 1), (R.hifRunTickTick, 4)]).ctl.cancelled = false
    ∧ (atNs (sail [(R.hifRunState, 1), (R.hifRunTickTick, 4)]) 100000).markHeld 4 = true := by decide
theorem witness_SwapExchangesSets : (withSets (ring .swapSet .fetched []) (some set0) (some set0)).wideOp 0 0 = some .swapSet
    ∧ (withSets (ring .swapSet .fetched []) (some set0) (some set0)).shadow = some set0
    ∧ (withSets (ring .swapSet .fetched []) (some set0) (some set0)).setOffline set0 = false
    ∧ (withSets (ring .swapSet .fetched []) (some set0) (some set0)).setFault set0 = none
    ∧ (withSets (ring .swapSet .fetched []) (some set0) none).active.isSome = true
    ∧ (ring .swapSet .fetched []).get R.hifSetsShadow = 0
    ∧ (ring .swapSet .fetched [(R.hifSetsSwapPending, 1)]).flag R.hifSetsSwapPending = true
    ∧ (ring .swapSet .fetched [(R.errOfflineDies, 1)]).setOffline { set0 with useCd0 := true } = true
    ∧ (ring .swapSet .fetched [(R.errOfflineDies, 1)]).msdLost = false
    ∧ (atNs (sail []) 25000).markHeld 1 = true
    ∧ phaseValid (List.replicate 128 0xFF) 0 = true ∧ phaseValid [] 0 = false := by decide
theorem witness_StopWhileRunning : (ring (.stop true) .fetched [(R.hifRunState, 2)]).run = 2 ∧ (ring (.stop true) .fetched [(R.hifRunState, 2)]).wideOp 0 0 = some (.stop true)
    ∧ (sail [(R.hifRunState, 2), (R.fnStatusReady 0, 1)]).ready 0 = true ∧ (sail [(R.hifRunState, 2), (R.fnStatusReady 0, 1)]).privilege 0 1 = true
    ∧ bit 3 0 = true ∧ bit 3 1 = true ∧ (sail [(R.hifRunState, 2), (R.mgtI2cStopEn, 1)]).phase = .sail ∧ (sail [(R.hifRunState, 2), (R.mgtI2cStopEn, 1)]).halted = false
    ∧ (sail [(R.hifRunState, 2), (R.mgtI2cStopEn, 1)]).flag R.mgtI2cStopEn = true := by decide
theorem witness_StopElsewhere : (ring (.stop false) .fetched []).run = 0 ∧ (ring (.stop true) .fetched [(R.hifRunLastFull, 1)]).flag R.hifRunLastFull = true
    ∧ (ring (.stop false) .fetched [(R.hifRunState, 1)]).run = 1 ∧ (ring (.stop false) .fetched [(R.hifRunState, 1)]).ctl.cancelled = false
    ∧ (ring (.stop false) .fetched [(R.hifRunState, 3)]).run = 3 ∧ (sail [(R.fnStatusReady 3, 1)]).ready 3 = true
    ∧ (sail [(R.fnStatusReady 3, 1), (R.hifPrivFn, 0)]).privilege 3 1 = false ∧ (sail [(R.mgtI2cStopEn, 0)]).flag R.mgtI2cStopEn = false := by decide
/-- A stop at tick 1, its boundary reached. -/
def stopping (c : Control) : State := { atNs (sail [(R.hifRunState, 3), (R.hifStopTickTick, 1)]) 25000 with ctl := c }
theorem witness_StopTakesEffect : (stopping {}).markHeld ((stopping {}).get R.hifStopTickTick) = true ∧ (stopping {}).run = 3
    ∧ (stopping { holdAt := some 1 }).reached (1 * 25000) = true ∧ (stopping { swap := some ⟨none, 1, true⟩ }).ctl.swap = some ⟨none, 1, true⟩
    ∧ (stopping { atBoundary := true, stops := [.ring 0 0] }).cutDone 1 = true
    ∧ (stopping { atBoundary := true, stops := [.urgent 0] }).ctl.stops = [.urgent 0]
    ∧ ((stopping { cancelled := true, start := some (0, 0), stops := [.ring 0 1] }).set R.hifRunState 1).run = 1 := by decide
theorem witness_SetPhaseWaitsForBoundary : (withSets (ring (.setPhase 0) .fetched []) (some { set0 with phases := List.replicate 128 0xFF }) none).wideOp 0 0 = some (.setPhase 0)
    ∧ phaseValid (List.replicate 128 0xFF) 0 = true ∧ (ring (.setPhase 0) .fetched []).active = none
    ∧ (stopping { phases := [⟨none, 1, 0⟩] }).markHeld 1 = true := by decide
/-! #### Configuration sets, windows, trace and dumps -/

/-- A header of an image of 64 bytes whose magic number is wrong. -/
theorem witness_LoadSetLoadsShadow : (ring (.loadSet 0 64 false) .fetched []).awake = true
    ∧ (ring (.loadSet 0 64 false) .fetched []).wideOp 0 0 = some (.loadSet 0 64 false) ∧ (ring (.loadSet 0 64 false) .fetched []).cur 0 4 = none
    ∧ (ring (.loadSet 0 64 false) .fetched []).offline 2 = false ∧ (ring (.loadSet 0 64 false) .fetched []).offline 3 = false
    ∧ (ring (.loadSet 0 64 false) .fetched []).loadBusy = false ∧ (ring (.loadSet 0 64 false) .fetched [(R.hifSetsShadow, 1)]).loadBusy = true
    ∧ headerOk (zeros 64) 64 = false
    ∧ (ring (.loadSet 0 64 true) .fetched [(R.dbgLpddrRsvAddr, 64), (R.mgtDdrEccOn, 1)]).wideOp 0 0 = some (.loadSet 0 64 true)
    ∧ 0 + 64 ≤ (ring (.loadSet 0 64 true) .fetched [(R.dbgLpddrRsvAddr, 64), (R.mgtDdrEccOn, 1)]).get R.dbgLpddrRsvAddr
    ∧ (ring (.loadSet 0 64 true) .fetched [(R.dbgLpddrRsvAddr, 64), (R.mgtDdrEccOn, 1)]).flag R.mgtDdrEccOn = true
    ∧ (ring (.loadSet 0 64 true) .fetched [(R.dbgLpddrRsvAddr, 63)]).get R.dbgLpddrRsvAddr < 0 + 64 := by decide
theorem witness_LoadSetLoadsShadow_header (s : State) : s.checkImage (zeros 64) 64 = .error (.bad 0x04) := by
  have h : headerOk (zeros 64) 64 = false := by decide
  simp [State.checkImage, h]
/-- The case of an image that passes: the placement of its regions is free, so the check's answer is stated, not computed. -/
theorem witness_LoadSetLoadsShadow_cases (img : List Byte) (s : State) : (∃ c, s.checkImage img 64 = .ok c) ∨ ∃ d, s.checkImage img 64 = .error d := by
  cases s.checkImage img 64 <;> simp
theorem witness_LoadSetLoadsShadow_complete : ({ sail [] with ctl := { load := some ⟨some (0, 0), set0⟩ } } : State).awake = true
    ∧ ({ sail [] with ctl := { load := some ⟨some (0, 0), set0⟩ } } : State).ctl.load = some ⟨some (0, 0), set0⟩ := by decide
/-- A READ_WINDOW of window j. -/
def reading (j n : Nat) : State :=
  { ring (.readWindow j 0 n) .fetched [] with fab := { kept := [⟨3, { type := 2, index := 3, payload := zeros 40 }⟩], winNext := 4 } }
theorem witness_ReadWindowOutcomes : (reading 3 48).awake = true ∧ (reading 3 48).fetchedOp 0 0 = some (.readWindow 3 0 48)
    ∧ ((reading 3 48).fab.kept.find? fun k => k.index == 3) = some ⟨3, { type := 2, index := 3, payload := zeros 40 }⟩
    ∧ ({ type := 2, index := 3, payload := zeros 40 } : Rec).copyBytes.length = 48
    ∧ (reading 3 47).fetchedOp 0 0 = some (.readWindow 3 0 47)
    ∧ (∀ k ∈ (reading 5 48).fab.kept, k.index ≠ 5) ∧ (atNs (reading 5 48) (1000000000000)).currentWindow > 5
    ∧ (reading 5 48).currentWindow ≤ 5 ∧ (reading 5 48).stopped = true ∧ ((reading 5 48).set R.hifRunState 2).stopped = false := by decide
/-- A fabric that has passed its first window. -/
def windowed (l : List (Fld × Nat)) : State := { atNs (sail l) 1000000000 with fab := { running := false, halt := some 4000 } }
theorem witness_WindowEndKeepsRecord : (windowed []).awake = true ∧ (windowed []).windowEnded = true
    ∧ (windowed [(R.fabWinDestEn, 1)]).windowEnded = true ∧ (windowed [(R.fabWinDestEn, 1)]).flag R.fabWinDestEn = true
    ∧ (windowed [(R.fabWinDestEn, 0)]).flag R.fabWinDestEn = false := by decide
/-- A TRACE_CTL with action a in a trace state st. -/
def tracing (a st : Nat) (inL : Bool) (p z : Nat) (l : List (Fld × Nat)) (e : List TraceEntry) : State :=
  let s := ring (.trace a inL 0 3 p z) .fetched ((R.dbgTraceStateState, st) :: l)
  { s with obs := { s.obs with trace := { s.obs.trace with quota := 1, sizeMib := 1, ring := e, conditions := 511, post := 1 } } }
/-- A trace entry. -/
def entry0 : TraceEntry := ⟨9, 7, 0, 0, 0, 0⟩
theorem witness_TraceControlMovesStates : (tracing 0 1 false 0 1 [] []).awake = true
    ∧ (tracing 0 1 false 0 1 [] []).fetchedOp 0 0 = some (.trace 0 false 0 3 0 1) ∧ (tracing 0 2 false 0 1 [] []).get R.dbgTraceStateState = 2
    ∧ (tracing 0 3 true 32767 1024 [] []).fetchedOp 0 0 = some (.trace 0 true 0 3 32767 1024) ∧ (tracing 0 3 true 32767 1024 [] []).get R.dbgTraceStateState = 3
    ∧ (tracing 1 0 false 0 1 [] []).fetchedOp 0 0 = some (.trace 1 false 0 3 0 1) ∧ (tracing 1 0 false 0 1 [] []).get R.dbgTraceStateState = 0
    ∧ (tracing 2 1 false 0 1 [] []).fetchedOp 0 0 = some (.trace 2 false 0 3 0 1) ∧ 0 < (tracing 2 1 false 0 1 [] []).obs.trace.quota
    ∧ 0 < (tracing 2 1 false 0 1 [] []).obs.trace.sizeMib ∧ (tracing 2 3 false 0 1 [] []).get R.dbgTraceStateState ≠ 1
    ∧ (tracing 3 2 false 0 1 [] []).fetchedOp 0 0 = some (.trace 3 false 0 3 0 1)
    ∧ (tracing 4 3 false 0 1 [(R.fnStrCfgEn 0 0, 1)] [entry0]).fetchedOp 0 0 = some (.trace 4 false 0 3 0 1)
    ∧ (tracing 4 3 false 0 1 [(R.fnStrCfgEn 0 0, 1)] [entry0]).flag (R.fnStrCfgEn 0 0) = true
    ∧ (tracing 4 3 false 0 1 [(R.fnStrCfgEn 0 0, 1)] [entry0]).obs.trace.ring ≠ [] ∧ (tracing 4 3 false 0 1 [] []).flag (R.fnStrCfgEn 0 0) = false := by decide
/-- Die 4's trace FIFO holds one entry, n were lost. -/
def drainable (st n : Nat) : State :=
  let s := sail [(R.dbgTraceStateState, st), (R.dbgOpcCtlExportEn, 1)]
  { s with obs := { s.obs with trace := { s.obs.trace with
      quota := 2, sizeMib := 1, conditions := 511, post := 2, sources := 128, fifo := [(4, ⟨[entry0], n, 1, 5⟩)] } } }
theorem witness_TraceCaptures : bit (drainable 1 0).obs.trace.conditions 8 = true ∧ (drainable 1 0).get R.dbgTraceStateState = 1
    ∧ 0 < (drainable 1 0).obs.trace.quota ∧ 0 < (drainable 1 0).obs.trace.sizeMib ∧ (drainable 3 0).get R.dbgTraceStateState ≠ 1
    ∧ (drainable 1 0).awake = true ∧ ((drainable 1 0).fifo 4).entries = entry0 :: [] ∧ (drainable 1 0).obs.trace.ring.length < (drainable 1 0).obs.trace.capacity
    ∧ ((drainable 1 0).fifo 4).lost = 0 ∧ 0 < ((drainable 1 1).fifo 4).lost
    ∧ (drainable 2 0).get R.dbgTraceStateState = 2 ∧ 1 < (drainable 2 0).obs.trace.post
    ∧ (tracing 4 2 false 0 1 [] []).obs.trace.post = 1
    ∧ (atNs (drainable 1 0) (25000 * 65535)).flag R.dbgOpcCtlExportEn = true
    ∧ (atNs (drainable 1 0) (25000 * 65535)).obs.trace.exportAt + max 1 (min 65535 ((atNs (drainable 1 0) (25000 * 65535)).get R.dbgOpcCtlExportTicks)) ≤ (atNs (drainable 1 0) (25000 * 65535)).tick
    ∧ bit (drainable 1 0).obs.trace.sources 7 = true ∧ (drainable 1 0).fifo 0 = {} := by decide
/-- A dump whose dies in l have still to be captured. -/
def dump0 (l : List Nat) : Dump := { mode := 0, source := 0x0D, die := 1, unit := 2, time := 0, waiting := l, hung := [(1, 2)] }
/-- The hang snapshot enabled and a dump present. -/
def dumping (op : Op) (o : Option Dump) (l : List (Fld × Nat)) : State :=
  let s := ring op .fetched ((R.dbgHangEn, 1) :: l)
  { s with obs := { s.obs with dump := o } }
theorem witness_HangSnapshotTaken : (dumping .nop none []).awake = true ∧ (dumping .nop none []).dieOff 4 = false ∧ (dumping .nop none []).flag R.dbgHangEn = true
    ∧ (dumping .nop none []).obs.dump = none ∧ (dumping .nop (some (dump0 [4])) []).obs.dump = some (dump0 [4]) ∧ (dump0 [4]).waiting ≠ [] ∧ (dump0 []).waiting = []
    ∧ (0 : Nat) ∈ (dump0 [0, 4]).waiting ∧ (∃ k ∈ (dump0 [0, 4]).waiting, k ≠ 0) ∧ (∀ k ∈ (dump0 [4]).waiting, k = 4)
    ∧ (dumping .nop (some (dump0 [4])) [(R.dbgDumpStatusBusy, 1)]).flag R.dbgDumpStatusBusy = true
    ∧ (∀ w ∈ ([1, 7] : List Nat), 1 ≤ w ∧ w ≤ 7) ∧ (∃ w ∈ ([8] : List Nat), w < 1 ∨ 7 < w)
    ∧ 1000 * max 100 (min 65535 ((dumping .nop none []).get R.dbgHangTimeoutUs)) ≤ 65535000
    ∧ 99999 < 1000 * max 100 (min 65535 ((dumping .nop none []).get R.dbgHangTimeoutUs)) := by decide
theorem witness_DumpFetchAndRelease : (dumping (.dumpFetch 0 64 0 true 7) none []).fetchedOp 0 0 = some (.dumpFetch 0 64 0 true 7)
    ∧ (dumping (.dumpFetch 0 64 0 true 7) none []).flag (R.fnStrCfgEn 0 7) = false
    ∧ (dumping (.dumpFetch 0 64 0 true 7) (some (dump0 [])) [(R.fnStrCfgEn 0 7, 1)]).flag (R.fnStrCfgEn 0 7) = true
    ∧ (dumping (.dumpFetch 0 64 0 false 0) (some (dump0 [1])) []).fetchedOp 0 0 = some (.dumpFetch 0 64 0 false 0)
    ∧ 0 < (dump0 []).bytes.length ∧ (dump0 []).bytes.length ≤ 4096
    ∧ (sail []).served = true ∧ (sail []).phase = .sail ∧ (28 : Word).toNat % 32 ≠ 0 ∧ (0 : Word).toNat % 32 = 0
    ∧ ([Ecc.uncorrectable] : List Ecc).headD .ok = .uncorrectable ∧ ([] : List Ecc).headD .ok = .ok ∧ (sail [(R.mgtDdrEccOn, 1)]).flag R.mgtDdrEccOn = true := by decide +kernel
/-- Lifetime records with one copy kept. -/
def living (l : List (Fld × Nat)) : State :=
  let s := sail l
  { s with time := { s.time with clk := 250000000 }, obs := { s.obs with flash := [(7, { seq := 41 })], flashNext := 8, lifeDue := true } }
theorem witness_LifetimeRecords : (ring (.surroundings 0) .fetched []).fetchedOp 0 0 = some (.surroundings 0)
    ∧ (ring (.surroundings 0) .fetched []).flag (R.fnStrCfgEn 0 0) = false ∧ (ring (.surroundings 0) .fetched [(R.fnStrCfgEn 0 0, 1)]).flag (R.fnStrCfgEn 0 0) = true
    ∧ (living []).mainstay = true ∧ (living []).obs.sampleAt + 250000000 ≤ (living []).time.clk ∧ (living []).obs.lifeDue = true
    ∧ (living []).served = true ∧ (living []).phase = .sail ∧ newestCopy (living []).obs.flash = some (7, { seq := 41 })
    ∧ 8160 % 32 = 0 ∧ (8160 : Nat) < 8192 := by decide

/-! #### Stream rings -/

/-- Ring 0 of PF0 of 256 KiB at wr, with what is staged, and a record handed over. -/
def stream (wr rd : Nat) (st : List Staged) (l : List (Fld × Nat)) : State :=
  let s := sail ([(R.fnStrCfgEn 0 0, 1), (R.fnStrCfgSizeLog2 0 0, 18), (R.fnStrWrWr 0 0, wr)] ++ l)
  let s := s.setStr 0 0 { rd := rd, staged := st, irqFirst := some 0 }
  { s with host := { s.host with handed := [⟨0, 0, { type := 1, payload := zeros 56 }⟩] } }
/-- A record of 64 bytes, and one that the remaining room cannot take. -/
def small : Staged := { id := 0, record := { type := 4, payload := zeros 56 } }
/-- A GAP record that is open. -/
def gapped : Staged := { id := 1, record := { type := 0x0B, gap := some ⟨1, 1, 0⟩ }, isOpen := true }
theorem witness_RecordsReachStaging : (stream 0 0 [] []).awake = true ∧ (stream 0 0 [] []).host.handed = ⟨0, 0, { type := 1, payload := zeros 56 }⟩ :: []
    ∧ ((stream 0 0 [] []).set (R.fnStrCfgEn 0 0) 0).flag (R.fnStrCfgEn 0 0) = false ∧ (stream 0 0 [] []).flag (R.fnStrCfgEn 0 0) = true
    ∧ stagedBytes ((stream 0 0 [] []).str 0 0).staged + 64 + 64 * 10 ≤ 2 ^ 20
    ∧ addToGap 1 [gapped] ≠ none ∧ addToGap 1 [small] = none := by decide
theorem padded_zeros (t n : Nat) : ({ type := t, payload := zeros n } : Rec).padded = ceilDiv (8 + n) 64 * 64 := by simp [Rec.padded, zeros]
/-- Where staging holds 1 MiB, 64 bytes more do not fit. -/
theorem witness_RecordsReachStaging_full : ∃ st : List Staged, ¬(stagedBytes st + 64 + 64 * 10 ≤ 2 ^ 20) := by
  refine ⟨[⟨0, { type := 4, payload := zeros (2 ^ 20 - 8) }, false⟩], ?_⟩
  simp only [stagedBytes, List.map_cons, List.map_nil, List.sum_cons, List.sum_nil, padded_zeros]
  decide
theorem witness_StagedRecordIsWritten : (stream 0 0 [small] []).awake = true ∧ ((stream 0 0 [small] []).str 0 0).staged = small :: []
    ∧ (stream 0 0 [small] []).strSize 0 0 = 2 ^ 18 ∧ small.record.padded = 64
    ∧ (stream (2 ^ 18 - 64) 0 [small] []).get (R.fnStrWrWr 0 0) + small.record.padded = 2 ^ 18
    ∧ ((stream 0 64 [small] []).str 0 0).rd = 64 ∧ (64 + 2 ^ 18 - 0) % 2 ^ 18 < small.record.padded + 64
    ∧ ({ small with record := { type := 4, payload := zeros 120 } } : Staged).record.padded = 128
    ∧ ((stream 0 0 [] []).str 0 0).irqFirst = some 0 ∧ (stream 0 0 [] [(R.fnStrIrqCount 0 0, 1), (R.fnStrIrqTimeUs 0 0, 1)]).get (R.fnStrIrqCount 0 0) ≠ 0
    ∧ 0 + 1000 * (stream 0 0 [] [(R.fnStrIrqTimeUs 0 0, 1)]).get (R.fnStrIrqTimeUs 0 0) ≤ (atNs (stream 0 0 [] []) 1000).now
    ∧ (atNs (stream 0 0 [] []) 999).now < 0 + 1000 * (stream 0 0 [] [(R.fnStrIrqTimeUs 0 0, 1)]).get (R.fnStrIrqTimeUs 0 0)
    ∧ (sail [(R.fnMsixCtlMask 0 0, 1)]).flag (R.fnMsixCtlMask 0 0) = true ∧ (sail [(R.fnMsixCtlMask 0 0, 0)]).flag (R.fnMsixCtlMask 0 0) = false := by decide
theorem witness_RingConfiguration : (sail []).served = true ∧ (sail [(R.fnSqCfgEn 0 0, 1)]).flag (ringEn .sq 0 0) = true ∧ bit (0x80000004 : Word).toNat 31 = true
    ∧ bits (3 : Word).toNat 0 5 < 4 ∧ bits (0x80000010 : Word).toNat 0 5 = 16 ∧ bits (0x80000012 : Word).toNat 0 5 = 18 ∧ bits (0x8000001E : Word).toNat 0 5 = 30
    ∧ (sail []).flag (R.fnSqCfgEn 0 3) = false ∧ (sail []).flag (R.fnCqCfgEn 7 3) = false ∧ (sail []).flag (R.fnStrCfgEn 7 7) = false
    ∧ (stream 0 0 [] []).flag (R.fnStrCfgEn 0 0) = true ∧ bit (0x12 : Word).toNat 31 = false := by decide

/-! #### The I2C target and register access -/

theorem witness_I2cTargetServes : (sail []).phase = .sail ∧ (0x14 : Word).toNat % 4 = 0 ∧ (0x14 : Word).toNat < 0x1000000
    ∧ (0xFFFFFF : Word).toNat % 4 ≠ 0 ∧ 0x1000000 ≤ (0x1000000 : Word).toNat ∧ 0x100000 ≤ (0x100000 : Word).toNat ∧ regAt 0xFFFFC = none
    ∧ ({ sail [] with phase := .reef 3 } : State).phase = .reef 3 ∧ (sail [(R.mgtI2cStretchEn, 1)]).flag R.mgtI2cStretchEn = true
    ∧ (sail [(R.mgtI2cStretchEn, 0)]).flag R.mgtI2cStretchEn = false := by decide
theorem witness_RegisterAccessForms : (sail []).served = true ∧ windowAt 0 (inPage .bar0) 0xFFFFC = some 0xFFFFC ∧ regAt 0xFFFFC = none
    ∧ inPage .bar0 = false ∧ windowAt 1 (inPage .page) 0x100 = some 0x1010100 ∧ doorbellAt 1 0x100 0 = none
    ∧ ¬(2 = 4 ∧ 0xFFFFC % 4 = 0) ∧ ¬(2 = 8 ∧ 0xFFFFC % 8 = 0 ∧ ∃ h, regAt 0xFFFFC = some h ∧ h.spec.pair = true ∧ h.hi = false)
    ∧ (regAt 0x100018).any (fun h => h.spec.pair && !h.hi) = true := by
  refine ⟨by decide, by decide, by decide, by decide, by decide, by decide, by decide, fun h => absurd h.1 (by decide), by decide⟩
theorem witness_RegisterAccessEffects : (sail []).served = true ∧ (regAt 0x100020).any (fun h => !h.spec.pair) = true
    ∧ ({ sail [] with latch := { rd := [(latchKey 0 0x100018, 5)] } } : State).latch.rd = [(latchKey 0 0x100018, 5)]
    ∧ SMap.find? (latchKey 0 0x100018) [(latchKey 0 0x100018, (5 : Word))] = some 5
    ∧ SMap.find? (latchKey 0 0x100018) (sail []).latch.rd = none
    ∧ ({ sail [] with time := { tci := [(3, [8, 9])] } } : State).captures 3 = 8 :: [9] ∧ (sail []).captures 3 = []
    ∧ ({ sail [] with flt := { gnss := [36] } } : State).flt.gnss = 36 :: [] ∧ (sail []).flt.gnss = []
    ∧ (sail []).coefUsed ((sail []).get R.fltCoefAddrAddr) = false
    ∧ (sail [(R.fltChEnEn, 1), (R.fltChFirTaps 0, 8)]).coefUsed ((sail []).get R.fltCoefAddrAddr) = true := by decide
/-! #### Sensor ingest -/

/-- The same state with port 0 so. -/
def withPort (s : State) (q : Port) : State := { s with ing := { s.ing with port := [(0, q)] } }
theorem witness_PortTrainingAndEnable : (sail []).served = true ∧ (sail []).stopped = true ∧ (sail []).portOn 7 = false ∧ (sail [(R.ingCtlPortEn, 128)]).portOn 7 = true
    ∧ (sail [(R.hifRunState, 2)]).stopped = false ∧ bit (0x400 : Word).toNat 10 = true ∧ bits (0x408 : Word).toNat 3 4 ≠ (sail []).get (R.ingPortCfgVc 0)
    ∧ (sail []).awake = true ∧ ((withPort (sail []) { training := true }).port 0).training = true ∧ ((withPort (sail []) { trained := true }).port 0).trained = true
    ∧ ((sail []).port 0).trained = false := by decide
theorem witness_CameraControlAndCurrent : bit (0x40000000 : Word).toNat 30 = true ∧ (sail [(R.ingPortCciCtlBusy 7, 1)]).flag (R.ingPortCciCtlBusy 7) = true
    ∧ (sail []).flag (R.ingPortCciCtlBusy 0) = false ∧ ((withPort (sail [(R.ingPortCciCtlBusy 0, 1)]) { cciRead := true, cciLen := 1 }).port 0).cciRead = true
    ∧ ((sail []).port 0).cciRead = false ∧ ((withPort (sail []) { capWait := true }).port 0).capWait = true
    ∧ (sail [(R.ingPortCapCfgEn 0, 1)]).flag (R.ingPortCapCfgEn 0) = true ∧ leAt (zeros 11 ++ [1, 0, 0, 0, 0]) 11 1 = 1
    ∧ (sail [(R.ingCtlPortEn, 1)]).portOn 0 = true ∧ (sail []).portOn 0 = false
    ∧ (sail [(R.ingPortIsnsCfgOver10ma 0, 3), (R.ingPortIsnsCfgUnder10ma 0, 1)]).get (R.ingPortIsnsCfgOver10ma 0) ≠ 0
    ∧ 10 * (sail [(R.ingPortIsnsCfgOver10ma 0, 3)]).get (R.ingPortIsnsCfgOver10ma 0) < 4095 * 8 / (1 * 1000) ∧ (4095 * 2 / 1000 : Nat) < 10 * 1 := by decide
/-- Port 0 has two bins for its estimate at 100 ms. -/
def estimating (l : List (Nat × StampPair)) : State :=
  let s := atNs (sail [(R.ingCtlPortEn, 1), (R.ingPortRbCtlValid 0, 1)]) 100000000
  { s with time := { s.time with rb := [(0, { bins := l })] } }
theorem witness_RebaseTriplesCommitted : ((withPort (sail []) { first := .pair ⟨9, 8⟩ }).port 0).first = .pair ⟨9, 8⟩
    ∧ ((withPort (sail [(R.timRbQualLocked 0, 1)]) { first := .pair ⟨9, 8⟩ }).lastBins 0).length < 50 ∧ (sail [(R.timRbQualLocked 0, 1)]).flag (R.timRbQualLocked 0) = true
    ∧ (estimating []).portOn 0 = true ∧ (estimating []).flag (R.ingPortRbCtlValid 0) = true ∧ ((estimating []).rb 0).lastFit + 100000000 ≤ (estimating []).now
    ∧ ((((estimating [(0, ⟨1, 1000⟩), (1, ⟨10001, 10001000⟩)]).rb 0).bins.filter fun b => decide (100000000 / 10000000 < b.1 + 100)).getLast?
        = some (1, ⟨10001, 10001000⟩))
    ∧ (((estimating [(0, ⟨1, 1000⟩)]).rb 0).bins.filter fun b => decide (100000000 / 10000000 < b.1 + 100)).length < 2 := by decide
/-- A port that is trained and has AE64 mapped to data type 30H and CT32 to 32H, 4 × 4 pixels. -/
def receiving (q : Port) (l : List (Fld × Nat)) : State :=
  withPort (sail ([(R.ingPortDtEnAe64 0, 1), (R.ingPortDtDtAe64 0, 0x30), (R.ingPortDtEnCt32 0, 1), (R.ingPortDtDtCt32 0, 0x32), (R.ingPortGeomWidthM1 0, 3),
    (R.ingPortGeomHeightM1 0, 3)] ++ l)) { q with trained := true }
/-- A long packet of one AE64 word at pixel (x, 3). -/
def ae64 (x : Nat) : Packet := ⟨true, 0, 0x30, leBytes (0xAE00000000000000 + 3 * 2 ^ 43 + x * 2 ^ 32 + 7) 8, true⟩
theorem witness_LongPacketsAreDecoded : (sail []).phase = .sail ∧ (sail []).halted = false ∧ ((sail []).port 0).trained = false
    ∧ ((receiving {} []).port 0).trained = true ∧ (ae64 3).hdrOk = true ∧ (ae64 3).vc = (receiving {} []).get (R.ingPortCfgVc 0)
    ∧ (receiving {} []).layoutOf 0 0x30 = some .ae64 ∧ (receiving {} []).layoutOf 0 0x32 = some .ct32 ∧ (receiving {} []).layoutOf 0 0x33 = none
    ∧ (receiving {} []).get R.hifSvcMode ≠ 2 ∧ ((receiving {} []).port 0).fiHeld = none
    ∧ bit (0x11 : BitVec 32).toNat 0 = true ∧ bits (0x11 : BitVec 32).toNat 1 3 = 0
    ∧ bits (0xAE00180300000007 : BitVec 64).toNat 56 8 = 0xAE ∧ (receiving {} []).get (R.ingPortGeomWidthM1 0) = 3
    ∧ (3 : Nat) < bits (0xAE00180400000007 : BitVec 64).toNat 32 11
    ∧ (receiving {} []).offline 2 = false ∧ (receiving {} []).offline 3 = false ∧ (receiving {} [(R.ingPortBufShedding 0, 1), (R.ingPortCfgShed 0, 1)]).flag (R.ingPortBufShedding 0) = true
    ∧ (receiving {} [(R.ingPortBufShedding 0, 1), (R.ingPortCfgShed 0, 1)]).flag (R.ingPortCfgShed 0) = true ∧ (receiving {} []).flag (R.ingPortBufShedding 0) = false
    ∧ ((receiving {} []).port 0).queue.length < 524288 ∧ (receiving {} [(R.ingPortBufHeld 0, 1)]).flag (R.ingPortBufHeld 0) = true
    ∧ (receiving {} []).heldHead 0 = false
    ∧ ({ receiving { queue := [⟨2000, 1, 1, true, false⟩] } [(R.ingPortRbCtlValid 0, 1)] with ctl := { hold := some 0 } } : State).heldHead 0 = true
    ∧ (receiving {} [(R.hifRunState, 2)]).direct 0 ⟨7, 3, 3, false, false⟩ = true ∧ (receiving { queue := [⟨2000, 1, 1, true, false⟩] } []).direct 0 ⟨7, 3, 3, false, false⟩ = false := by decide +kernel
theorem witness_LongPacketsAreDecoded_full (e : Event) : 524288 ≤ ((receiving { queue := List.replicate 524288 e } []).port 0).queue.length := by
  have h : ((receiving { queue := List.replicate 524288 e } []).port 0).queue = List.replicate 524288 e := rfl
  rw [h, List.length_replicate]
/-- Port 0 has one event, 2 ms of sensor time after the anchor; its triple gives 1,000 ns a microsecond from device time 0. -/
def rebasing (ns : Nat) (l : List (Fld × Nat)) : State :=
  atNs (withPort (sail ([(R.ingPortRbCtlValid 0, 1), (R.ingPortRbRateRate 0, 1000 * 2 ^ 32), (R.ingPortLimitLeadUs 0, 100), (R.ingPortLimitAgeMs 0, 1)] ++ l))
    { queue := [⟨2000, 1, 1, true, false⟩] }) ns
theorem witness_RebaseCommitsOrDiscards : (rebasing 2000000 []).awake = true ∧ (rebasing 2000000 []).ctl.staleMark = false ∧ (rebasing 2000000 []).ctl.lateMark = none
    ∧ ((rebasing 2000000 []).port 0).queue = [⟨2000, 1, 1, true, false⟩] ∧ ((rebasing 2000000 []).port 0).path = []
    ∧ (∀ r : Fin 8, r ≠ 0 → ((rebasing 2000000 []).port r).queue = [] ∧ ((rebasing 2000000 []).port r).path = [])
    ∧ ((withPort (rebasing 2000000 []) { path := [⟨2000, 1, 1, true, false⟩] }).port 0).path = [⟨2000, 1, 1, true, false⟩]
    ∧ (rebasing 0 [(R.ingPortRbCtlValid 0, 0)]).flag (R.ingPortRbCtlValid 0) = false ∧ (rebasing 0 []).flag (R.ingPortRbCtlValid 0) = true
    ∧ wrapDiff 32 2000 ((rebasing 0 []).get (R.ingPortRbAnchorAnchor 0)) = 2000
    ∧ (((rebasing 0 []).get (R.ingPortRbOfsOfs 0) : Int) + (2000 * ((rebasing 0 []).get (R.ingPortRbRateRate 0) : Int)).fdiv (2 ^ 32)) = 2000000
    ∧ (rebasing 3000001 []).now = 3000001 ∧ max 1 (min 4000 ((rebasing 0 []).get (R.ingPortLimitAgeMs 0))) * 1000000 = 1000000
    ∧ min ((rebasing 0 []).get (R.ingPortLimitLeadUs 0)) 1000 * 1000 = 100000
    ∧ bit (rebasing 0 []).cv.inits 0 = false ∧ ((rebasing 0 []).words (engineOf 1 1)).length < (rebasing 0 []).ing.pool
    ∧ ({ rebasing 0 [] with ing := { pool := 0 } } : State).ing.pool ≤ (({ rebasing 0 [] with ing := { pool := 0 } } : State).words 0).length
    ∧ ({ rebasing 0 [] with ctl := { hold := some 80 } } : State).ctl.hold = some 80 ∧ ((80 : Nat) * 25000 : Int) ≤ 2000000
    ∧ ({ rebasing 2000000 [] with ctl := { holdAt := some 80 } } : State).ctl.holdAt = some 80 ∧ 80 * 25000 ≤ (rebasing 2000000 []).now
    ∧ (2000000 : Int) < ((81 : Nat) * 25000 : Int) := by decide

/-! #### Auxiliary inputs and filter channels -/

/-- The filter side with channel 0 reading IMU 0's first element. -/
def filtering (i : Imu) (c : Channel) (l : List (Fld × Nat)) : State :=
  let s := sail ([(R.fltChEnEn, 1), (R.fltChSrcSrc 0, 0x10), (R.fltImuCfgEn 0, 1)] ++ l)
  { s with flt := { s.flt with imu := [(0, i)], chan := [(0, c)] } }
theorem witness_ImuMastersRead : (sail [(R.fltImuCfgEn 0, 1)]).flag (R.fltImuCfgEn 0) = true ∧ (sail []).flag (R.fltImuCfgEn 0) = false
    ∧ bit (0x140001 : Word).toNat 0 = true
    ∧ ((∀ e : Fin 6, bits ((sail []).get (R.fltImuOfsOfs 0)) (5 * e) 5 + (if bit (0x140001 : Word).toNat 2 then 3 else 2) ≤ bits (0x140001 : Word).toNat 16 5)
      ∧ (sail []).get (R.fltImuOfs6Ofs6 0) + (if bit (0x140001 : Word).toNat 2 then 3 else 2) ≤ bits (0x140001 : Word).toNat 16 5)
    ∧ ¬((sail []).get (R.fltImuOfs6Ofs6 0) + (if bit (0x10001 : Word).toNat 2 then 3 else 2) ≤ bits (0x10001 : Word).toNat 16 5)
    ∧ bit (0x40000000 : Word).toNat 30 = true ∧ (sail [(R.fltImuXferCtlBusy 1, 1), (R.fltImuXferCtlLen 1, 8)]).flag (R.fltImuXferCtlBusy 1) = true
    ∧ (zeros 8).length = (sail [(R.fltImuXferCtlBusy 1, 1), (R.fltImuXferCtlLen 1, 8)]).get (R.fltImuXferCtlLen 1)
    ∧ ((filtering {} {} []).imu 0).reading = none ∧ ((filtering { reading := some 5 } {} []).imu 0).reading = some 5
    ∧ ((filtering { reading := some 5 } {} []).imu 0).latched = none ∧ ((filtering { reading := some 5, latched := some 6 } {} []).imu 0).latched = some 6
    ∧ (filtering { reading := some 5 } {} []).chanOn 0 = true ∧ (filtering { reading := some 5 } {} []).get (R.fltChSrcSrc 0) = 0x10
    ∧ (sail []).filterNs (drdyFilter 0) ≤ 10000 ∧ 0 < (sail []).filterNs (drdyFilter 1)
    ∧ (∀ k : Fin 32, k ≠ 0 → (filtering { reading := some 5 } {} []).chanOn k = false) := by decide
theorem witness_FilterChannelsRun : (sail []).chanOn 0 = false ∧ (sail [(R.fltChSrcSrc 0, 0x10)]).srcOk ((sail [(R.fltChSrcSrc 0, 0x10)]).get (R.fltChSrcSrc 0)) = true
    ∧ (sail [(R.fltChSrcSrc 0, 0x10), (R.fltChNomNomNs 0, 25000), (R.fltChCicRate 0, 10)]).get (R.fltChNomNomNs 0)
        * (sail [(R.fltChSrcSrc 0, 0x10), (R.fltChNomNomNs 0, 25000), (R.fltChCicRate 0, 10)]).get (R.fltChCicRate 0) ≤ 250000
    ∧ (sail [(R.fltChSrcSrc 0, 0x10), (R.fltChNomNomNs 0, 25000), (R.fltChCicRate 0, 10)]).macsOk [0] = true
    ∧ (sail [(R.fltChSrcSrc 0, 0x17)]).srcOk ((sail [(R.fltChSrcSrc 0, 0x17)]).get (R.fltChSrcSrc 0)) = false
    ∧ (filtering {} {} []).chanOn 0 = true ∧ ((256 * (filtering {} { next := 4 } []).now : Nat) : Int) < (filtering {} { next := 4 } []).evalAt 0 4
    ∧ (atNs (filtering {} { next := 4 } []) 200000).evalAt 0 4 + (256 * (filtering {} { next := 4 } []).get (R.fltChRsWaitNs 0) : Nat)
        ≤ ((256 * (atNs (filtering {} { next := 4 } []) 200000).now : Nat) : Int)
    ∧ (filtering {} { next := 4 } []).settleLen 0 ≤ ((filtering {} { next := 4, raw := 100000 } []).chan 0).raw
    ∧ ((filtering {} { next := 4 } []).chan 0).raw < (filtering {} { next := 4 } []).settleLen 0
    ∧ (filtering {} { lastRaw := some 9 } []).flt.stopAt = some 0 ∧ ((filtering {} { lastRaw := some 9 } []).chan 0).lastRaw = some 9
    ∧ 9 + 2 * (filtering {} {} []).get (R.fltChNomNomNs 0) + (filtering {} {} []).get (R.fltChRsWaitNs 0) < (atNs (filtering {} { lastRaw := some 9 } []) 1000000000).now
    ∧ (filtering {} { lastRaw := some 9 } []).now ≤ 9 := by decide
/-- Encoder 7 enabled, its inputs at a and b; CAN 3 enabled with filter 63 and map 31; GNSS enabled. -/
def auxiliary (a b : Bool) (l : List (Fld × Nat)) : State :=
  let s := sail ([(R.fltEncCfgEn, 128), (R.fltCanCfgEn 3, 1), (R.fltCanfMaskEn 63, 1), (R.fltCanfIdCtrl 63, 3), (R.fltSigCfgEn 31, 1), (R.fltSigCfgFilter 31, 63),
    (R.fltSigCfgLenM1 31, 15), (R.fltGnssCfgEn, 1)] ++ l)
  { s with flt := { s.flt with enc := [(7, { a := a, b := b })] } }
theorem witness_AuxiliaryInputsAreTaken : (auxiliary true false []).encOn 7 = true ∧ ((auxiliary true false []).enc 7).a = true ∧ ((auxiliary true false []).enc 7).b = false
    ∧ (auxiliary true false []).encOn 0 = false ∧ ((auxiliary true false []).enc 7).us < (atNs (auxiliary true false []) 1000).now / 1000
    ∧ (auxiliary true false [(R.fltChEnEn, 1), (R.fltChSrcSrc 0, 0x27)]).chanOn 0 = true
    ∧ (auxiliary true false [(R.fltChEnEn, 1), (R.fltChSrcSrc 0, 0x27)]).get (R.fltChSrcSrc 0) = 0x20 + 7
    ∧ (auxiliary true false []).canOn 3 = true ∧ (∀ f : Fin 64, (sail []).canMatch f 3 ⟨false, 0, false, false, [], false⟩ = false)
    ∧ ((auxiliary true false []).can 3).fifo = [] ∧ (auxiliary true false []).filterNs R.mgtPad5Filt ≤ 10000 ∧ 0 < (auxiliary true false []).filterNs R.mgtPad5Filt
    ∧ 32 ≤ (({ auxiliary true false [] with flt := { (auxiliary true false []).flt with can := [(3, { fifo := List.replicate 32 ⟨0, []⟩ })] } } : State).can 3).fifo.length
    ∧ (auxiliary true false []).canMatch 63 3 ⟨false, 0, false, false, [1, 2], false⟩ = true
    ∧ (∀ g : Fin 64, g < 63 → (auxiliary true false []).canMatch g 3 ⟨false, 0, false, false, [1, 2], false⟩ = false)
    ∧ (auxiliary true false []).flag (R.fltSigCfgEn 31) = true ∧ (auxiliary true false []).get (R.fltSigCfgFilter 31) = 63
    ∧ (∀ k : Fin 32, k ≠ 31 → (auxiliary true false []).flag (R.fltSigCfgEn k) = false) ∧ 8 * 2 = 0 + 16
    ∧ (auxiliary true false [(R.fltSigDestDirect 31, 1)]).flag (R.fltSigDestDirect 31) = true
    ∧ (auxiliary true false []).flag (R.fltCanCfgEn 3) = true ∧ (auxiliary true false [(R.fltCanCfgListen 3, 1)]).flag (R.fltCanCfgListen 3) = true ∧ (auxiliary true false []).get (R.fltCanStatState 3) ≠ 2
    ∧ 256 ≤ (auxiliary true false [(R.fltCanStatTec 3, 248)]).get (R.fltCanStatTec 3) + 8
    ∧ (auxiliary true false [(R.fltCanStatState 3, 2)]).get (R.fltCanStatState 3) = 2
    ∧ (auxiliary true false []).flag R.fltGnssCfgEn = true ∧ (auxiliary true false []).flag R.fltGnssCfgRaw = false
    ∧ (auxiliary true false [(R.fltGnssCfgRaw, 1)]).flag R.fltGnssCfgRaw = true ∧ sentenceBody [] = none ∧ (auxiliary true false []).flt.gnss.length < 1024 := by decide
/-- The sentence "$GPRMC,000000,A,,,,,0,0" with its checksum and line end, in ASCII. -/
def rmcText : List Byte :=
  [36, 71, 80, 82, 77, 67, 44, 48, 48, 48, 48, 48, 48, 44, 65, 44, 44, 44, 44, 44, 48, 44, 48, 42, 48, 65, 13, 10]
theorem witness_AuxiliaryInputsAreTaken_sentence : (sentenceBody rmcText).map (fun b => ((splitAtByte 44 b).getD 0 [], (splitAtByte 44 b).getD 1 []))
    = some ([71, 80, 82, 77, 67], [48, 48, 48, 48, 48, 48]) := by decide
theorem witness_AuxiliaryInputsAreTaken_fields : (utcFraction [48, 48, 48, 48, 48, 48] 6).isSome = true
    ∧ (rmcValues (fun n => ([[71, 80, 82, 77, 67], [48, 48, 48, 48, 48, 48], [65], [], [], [], [], [48], [48]] : List (List Byte)).getD n []) 0).isSome = true
    ∧ ({ sail [] with time := { edges := [(0, [100])] } } : State).time.edges = [(0, [100])]
    ∧ (([100] : List Nat).find? fun p => decide (p ≤ 1000000100) && decide (1000000100 ≤ p + 10 ^ 9)) = some 100 := by
  refine ⟨rfl, rfl, rfl, by decide⟩
/-! #### Control registers, resets and time -/

theorem witness_ControlRegisterWrites : (sail []).served = true ∧ ((sail []).obs.snaps.any fun x => x.1 == 0) = false
    ∧ (sail []).get R.errOfflineDies = 0 ∧ bits (2 : Word).toNat 0 2 ≠ 3 ∧ (sail [(R.errOfflineDies, 1)]).get R.errOfflineDies ≠ 0
    ∧ (sail [(R.fabReflexCfgLatch 1, 1)]).flag (R.fabReflexCfgLatch 1) = true ∧ (sail [(R.fabReflexCfgLatch 1, 0)]).flag (R.fabReflexCfgLatch 1) = false
    ∧ (sail [(R.hifSvcMode, 3), (R.errOfflineDies, 8)]).get R.hifSvcMode = 3
    ∧ (∀ d : Fin 4, bit (8 : Word).toNat d = true → (sail [(R.hifSvcMode, 3), (R.errOfflineDies, 8)]).dieOff d = true)
    ∧ (∃ d : Fin 4, bit (1 : Word).toNat d = true ∧ (sail [(R.hifSvcMode, 3), (R.errOfflineDies, 8)]).dieOff d = false)
    ∧ SMap.find? 3 ({ sail [] with err := { dieResets := [(3, 5000000)] } } : State).err.dieResets = some 5000000
    ∧ (sail []).time.clk < 5000000 ∧ 0 ≤ (sail []).time.clk := by decide
theorem witness_ResetsLoseTheirClasses : (sail []).phase = .sail ∧ (0x10005A5A : Word).toNat % 2 ^ 16 = 0x5A5A ∧ (sail []).halted = false
    ∧ (0x5A5B : Word).toNat % 2 ^ 16 ≠ 0x5A5A ∧ ({ sail [] with phase := .reef 3 } : State).phase = .reef 3 ∧ State.reset.phase = .boot 18750000
    ∧ (sail []).reef.rails = .up ∧ State.reset.reef.rails ≠ .up ∧ (sail []).filterNs R.mgtPad11Filt < 20000
    ∧ (∃ x : Fld, classOfKey x.key = .w) ∧ (∃ x : Fld, classOfKey x.key = .f) ∧ (∃ x : Fld, classOfKey x.key = .s) ∧ (∃ x : Fld, classOfKey x.key = .a)
    ∧ ∃ x : Fld, classOfKey x.key = .l :=
  ⟨rfl, rfl, rfl, by decide, rfl, rfl, rfl, by decide, by decide, ⟨R.hifSvcMode, by decide⟩, ⟨R.fnSqCfgEn 0 0, by decide⟩, ⟨R.hifRunState, by decide⟩, ⟨R.mgtAlarmNs, by decide⟩,
    ⟨R.lifSeqSeq, by decide⟩⟩
theorem witness_DeviceTimeIsAdjusted : (sail []).served = true ∧ (sail []).get R.timStatusFollowing = 0 ∧ (sail []).flag R.timAdjCtlMode = false
    ∧ (sail []).stopped = true ∧ (sail [(R.hifRunState, 2)]).stopped = false ∧ (sail [(R.timAdjCtlMode, 1)]).flag R.timAdjCtlMode = true
    ∧ (sail [(R.timStatusFollowing, 2)]).get R.timStatusFollowing ≠ 0
    ∧ ({ sail [] with latch := { wr := [(latchKey 0 0x300018, 5)] } } : State).latch.wr = [(latchKey 0 0x300018, 5)] := by decide
theorem witness_DomainsStepSlewSwitch : (sail []).served = true ∧ (sail [(R.timDomAdjCtlMode 1, 1)]).flag (R.timDomAdjCtlMode 1) = true
    ∧ (sail []).flag (R.timDomAdjCtlMode 1) = false ∧ (sail []).get R.timStatusFollowing ≠ (1 : Fin 2).val + 1
    ∧ (sail [(R.timStatusFollowing, 2)]).get R.timStatusFollowing = (1 : Fin 2).val + 1 ∧ (sail [(R.hifRunState, 2)]).stopped = false ∧ (sail []).stopped = true
    ∧ (sail [(R.timStatusSwitchPending, 1)]).flag R.timStatusSwitchPending = true ∧ (sail []).flag R.timStatusSwitchPending = false ∧ bits (0x12 : Word).toNat 0 2 ≠ 3
    ∧ (sail []).timeRuns = true ∧ ({ sail [] with time := { switch := some (2, true), domB := 2 ^ 32 * 10 ^ 8 } } : State).time.switch = some (2, true)
    ∧ (sail []).get R.timSwitchTickTick * 25000 ≤ (sail []).now ∧ (((2 ^ 32 * 10 ^ 8 : Nat) : Int) - 0).natAbs > (sail []).get R.timSwitchSlewSlewUs * 2 ^ 32
    ∧ (0 : Int).natAbs ≤ (sail []).get R.timSwitchSlewSlewUs * 2 ^ 32 := by decide

/-! #### The Canvas -/

/-- Port 0 of 4 × 4 pixels in the Canvas; entries, event words and waiting events. -/
def canvas (c : Canvas) (w : List Nat) (ns : Nat) : State :=
  let s := atNs (sail [(R.ingPortGeomWidthM1 0, 3), (R.ingPortGeomHeightM1 0, 3), (R.srfRegionB0En 0, 1), (R.fnStrCfgEn 0 0, 1)]) ns
  { s with cv := c, ing := { s.ing with words := [(0, w)] } }
theorem witness_SurfaceEnginesApplyEvents : (canvas {} [2 ^ 46 + 5] 5000).awake = true ∧ (canvas {} [2 ^ 46 + 5] 5000).words 0 = [2 ^ 46 + 5]
    ∧ ((canvas {} [2 ^ 46 + 5] 5000).pixel 0 0 0).stale true = true
    ∧ ((pixelOf 0).stale true = false ∧ wrapDiff 24 5 ((pixelOf 9).stamp true) ≤ 0 ∨ wrapDiff 24 5 ((pixelOf 9).stamp false) ≤ 0)
    ∧ (canvas {} [] 0).hotOff < (canvas {} [] 0).hotOn
    ∧ SMap.get (canvas { fits := [(0, [⟨2 ^ 46 + 5, false, 5000, false⟩])] } [] 0).cv.fits [] 0 = ⟨2 ^ 46 + 5, false, 5000, false⟩ :: []
    ∧ (canvas {} [] 0).routeOpen (dieOfEngine 0) = true ∧ ({ canvas {} [] 0 with err := { link := [(0, { retrain := some 0 })] } } : State).routeOpen (dieOfEngine 0) = false
    ∧ (∀ q ∈ (canvas {} [] 0).near 0 0 0 (innerCircle ++ outerCircle), (canvas {} [] 0).entryBad ((canvas {} [] 0).pixelKey 0 q.1 q.2) .ok = false)
    ∧ (canvas {} [] 0).entryBad 0 .uncorrectable = true := by decide
theorem witness_CanvasIsSweptAndScanned : ((canvas {} [] 0).regionOn 0 = true ∧ 3 < (canvas {} [] 0).width 0 ∧ 3 < (canvas {} [] 0).height 0)
    ∧ ¬((sail []).regionOn 0 = true) ∧ 4000000 ≤ ofInt 24 (((canvas {} [] 4000000000).nowUs : Int) - 0)
    ∧ (canvas {} [] 0).offline (dieOfEngine 7) = false ∧ ((canvas {} [] 25000).scanTick 0 + 1) * 25000 ≤ (canvas {} [] 25000).now
    ∧ ((canvas {} [] 0).tap 0 true).closed = none
    ∧ ((canvas { taps := [(1, { filling := { entries := [[]] } })] } [] 10000).tap 0 true).filling.entries ≠ []
    ∧ ((canvas { taps := [(1, { filling := { entries := [[]] } })] } [] 10000).tap 0 true).filling.first + 10000 ≤ 10000
    ∧ (canvas {} [] 0).flag (R.fnStrCfgEn ((canvas {} [] 0).get R.srfTapFunc) ((canvas {} [] 0).get R.srfTapRing)) = true
    ∧ ((canvas {} [] 0).str 0 0).admits 0 64 = true ∧ (sail []).flag (R.fnStrCfgEn 0 0) = false
    ∧ bit (canvas { inits := 128 } [] 0).cv.inits 7 = true ∧ bit (canvas {} [] 0).cv.inits 7 = false
    ∧ ({ sail [] with ctl := { staleMark := true } } : State).ctl.staleMark = true ∧ (sail []).ctl.staleMark = false := by decide
/-- The staging of a ring that holds 1 MiB admits nothing more. -/
theorem witness_CanvasIsSweptAndScanned_full : ({ staged := [⟨0, { type := 4, payload := zeros (2 ^ 20 - 8) }, false⟩] } : Str).admits 0 64 = false := by
  simp only [Str.admits, stagedBytes, List.map_cons, List.map_nil, List.sum_cons, List.sum_nil, padded_zeros]
  decide

/-! #### The dense path -/

/-- A run at tick 0, in device time ns; the dense path at d, port, set and control as given. -/
def dense (run ns : Nat) (d : Dense) (c : ConfigSet) (l : List (Fld × Nat)) : State :=
  { atNs (sail ([(R.hifRunState, run), (R.ingPortGeomWidthM1 0, 3), (R.ingPortGeomHeightM1 0, 3), (R.srfRegionB0En 0, 1)] ++ l)) ns with tns := d, active := some c }
/-- A layer of the set: an input layer whose descriptor is all zero but for its dimensions. -/
def layer0 : LayerSt := { desc := zeros 96, outW := 4, outH := 4, act := List.replicate 16 0, acc := List.replicate 16 0, edges := [{ producer := 0, copy := [3, 4] }] }
/-- A delta packet. -/
def delta0 : DeltaPacket := { producer := 0, consumer := 0, edge := 0, elem := 1, old := 4, new := 9 }
theorem witness_DenseTicksRunInOrder_marks : ((dense 2 25000 {} set0 []).ctl.marked + 1) * 25000 ≤ (dense 2 25000 {} set0 []).now ∧ (dense 2 25000 {} set0 []).retraining = false
    ∧ (dense 2 24999 {} set0 []).now < ((dense 2 24999 {} set0 []).ctl.marked + 1) * 25000
    ∧ ({ dense 2 25000 {} set0 [] with err := { link := [(6, { retrain := some 24000 })] } } : State).retraining = true
    ∧ (dense 2 25000 {} set0 []).ctl.lateMark ≠ some 1 ∧ ({ dense 2 25000 {} set0 [] with ctl := { lateMark := some 1, holdAt := some 1 } } : State).ctl.lateMark = some 1
    ∧ ({ dense 2 25000 {} set0 [] with ctl := { holdAt := some 1 } } : State).ctl.holdAt = some 1 := by decide
theorem witness_DenseTicksRunInOrder_ready : (dense 2 25000 { next := some 0, delivered := [(0, 255)] } set0 []).tns.next = some 0
    ∧ ((0 + 1) * 25000 ≤ (dense 2 25000 { next := some 0, delivered := [(0, 255)] } set0 []).now ∧ (dense 2 25000 {} set0 []).offline 2 = false
      ∧ (dense 2 25000 {} set0 []).offline 3 = false ∧ SMap.get (dense 2 25000 { next := some 0, delivered := [(0, 255)] } set0 []).tns.delivered 0 0 = 255
      ∧ (dense 2 25000 {} set0 []).late 0 = false)
    ∧ SMap.get (dense 2 25000 { next := some 0, delivered := [(0, 127)] } set0 []).tns.delivered 0 0 ≠ 255
    ∧ (dense 2 25000 { next := some 0 } set0 []).memOpen = true
    ∧ ({ dense 2 25000 {} set0 [] with err := { link := [(1, { retrain := some 24000 })] } } : State).memOpen = false := by decide
theorem witness_DenseTicksRunInOrder_tile :
    let s := dense 2 25000 { next := some 0, working := true, todo := [⟨0, 0, 0, 0, 0, true⟩] } { set0 with layers := [layer0] } []
    s.tns.todo = ⟨0, 0, 0, 0, 0, true⟩ :: [] ∧ s.cv.inits = 0 ∧ s.memOpen = true ∧ ({ s with cv := { inits := 1 } } : State).cv.inits ≠ 0 ∧ s.layers.length = 1 ∧ (s.layer 0).canvasSel.length ≤ (s.layer 0).outC ∧ s.width 0 ≤ (s.layer 0).outW := by decide
theorem witness_DenseTicksRunInOrder_end : (dense 2 25000 { next := some 0, working := true } set0 []).workDone = true
    ∧ (dense 2 25000 { next := some 0, working := true } set0 []).now ≤ (dense 2 25000 { next := some 0, working := true } set0 []).deadline 0
    ∧ (dense 2 1000000 { next := some 0, working := true, todo := [⟨0, 0, 0, 0, 0, true⟩] } set0 []).workDone = false
    ∧ (dense 2 1000000 { next := some 0, working := true, todo := [⟨0, 0, 0, 0, 0, true⟩] } set0 []).deadline 0 ≤ 1000000
    ∧ (dense 2 1000000 {} set0 []).run = 2
    ∧ (dense 3 1000000 { next := some 1, carry := true } set0 [(R.hifStopTickTick, 1)]).mustDrain = true
    ∧ (dense 3 1000000 { next := some 1 } set0 [(R.hifStopTickTick, 1)]).mustDrain = false := by decide
/-- The same with one packet on its way and one layer. -/
def packets (l : List (Fld × Nat)) : State :=
  dense 2 25000 { next := some 0, working := true, check := { running := true }, refresh := { running := true } }
    { set0 with layers := [layer0], packets := [delta0, delta0] } l
theorem witness_DenseWorkIsDone : (packets []).awake = true ∧ (packets []).packets[0]? = some delta0 ∧ (packets []).mayArrive 0 delta0 = true
    ∧ (packets []).mayArrive 1 delta0 = false ∧ (packets []).offline ((packets []).layer 0).die = false ∧ (packets [(R.errOfflineDies, 3)]).offline ((packets []).layer 0).die = true
    ∧ ((packets []).layer 0).edges[0]? = some { producer := 0, copy := [3, 4] } ∧ 0 < (packets []).layers.length
    ∧ (packets []).tns.check.running = true ∧ (packets []).tns.refresh.running = true ∧ (sail []).tns.check.running = false
    ∧ ((packets []).sweepAt (packets []).tns.refresh (packets []).refreshes).1 < (packets []).layers.length := by decide
theorem witness_DenseWorkIsDone_layer : (packets []).live 0 = true ∧ (packets []).heardAll 0 = false
    ∧ (dense 2 25000 { next := some 0, working := true } { set0 with layers := [layer0] } []).heardAll 0 = true
    ∧ (dense 2 25000 { next := some 0, working := true } { set0 with layers := [layer0] } []).producersDone 0 = true ∧ (dense 2 0 {} set0 []).nextDpp 0 = none := by decide

/-! #### The spike fabric -/

/-- Neuron 5 of core 0 in class 1, with an entry for source 70 and one synapse of weight 3 on it. -/
def fabSet0 (x : Context) : FabSet :=
  { classes := [(1, { theta := 10, reset := 1, leak := List.replicate 256 0x8000 })], ctx := [(5, x)], first := [(0, 2 ^ 31)], maps := [(0, { en := true, posEn := true, payPos := 2 })],
    routes := [(0, { mask := 1 })] }
/-- The fabric running on it in step 0 at ns. -/
def spiking (ns : Nat) (x : Context) (f : Fabric) (l : List (Fld × Nat)) : State :=
  { atNs (sail l) ns with fab := { f with running := true }, active := some { set0 with useCd0 := true, useCd1 := true, fab := fabSet0 x } }
theorem witness_SpikesReachNeuronsAndSteps_injection :
    let s := { spiking 3000 {} { core := [(0, { step := some 0 })] } [] with cv := { spikes := [(0, [⟨2 ^ 46, false, 2000, false⟩])] } }
    SMap.get s.cv.spikes [] 0 = ⟨2 ^ 46, false, 2000, false⟩ :: [] ∧ s.inputOpen 0 = true ∧ ({ s with err := { link := [(0, { retrain := some 0 })] } } : State).inputOpen 0 = false ∧ s.stepRuns 0 = true ∧ (SMap.get (s.fabSet 0).maps {} 0).takes true = true
      ∧ (SMap.get (s.fabSet 0).routes {} 0).mask ≠ 0 ∧ s.offline (dieOfEngine 0) = false ∧ s.offline (dieOfCore 0) = false ∧ (s.core 0).shed = false
      ∧ (s.core 0).step = some 0 ∧ (SMap.get (s.fabSet 0).maps {} 1).takes true = false
      ∧ ((spiking 3000 {} {} []).core 0).buffer.length < 32768 ∧ (∀ j, ((spiking 3000 {} {} []).core 0).step = some j → j < 0) := by
  refine ⟨rfl, by decide, by decide, by decide, by decide, by decide, by decide, by decide, by decide, by decide, by decide, by decide, fun j h => ?_⟩
  have : ((spiking 3000 {} {} []).core 0).step = none := by decide
  rw [this] at h; cases h
/-- A spike to core 0. -/
def spike0 : Spike := { core := 0, source := 70, stamp := 7, payload := 2 }
theorem witness_SpikesReachNeuronsAndSteps_arrival :
    let s := spiking 9000 { pf := true, last := 9, cls := 1 } { flight := [spike0, spike0] } []
    s.fab.flight[0]? = some spike0 ∧ s.spikeMayArrive 0 spike0 = true ∧ s.spikeMayArrive 1 spike0 = false ∧ s.offline (dieOfCore 0) = false
      ∧ (spiking 0 {} { flight := [spike0] } [(R.errOfflineDies, 1)]).offline (dieOfCore 0) = true ∧ s.get R.hifSvcMode ≠ 2
      ∧ s.context 0 0 5 = some { pf := true, last := 9, cls := 1 } ∧ ¬ 0 < wrapDiff 16 7 9 ∧ spike0.poison = false
      ∧ (match (s.fabSet 0).lookup 0 69 with | some e => (s.fabSet 0).synapses 0 e | none => []) = []
      ∧ (s.fabSet 0).isBad (.cls 0 1) = false ∧ s.timeRuns = true ∧ s.powered (dieOfCore 0) = true := by decide
theorem witness_SpikesReachNeuronsAndSteps_close :
    let s := spiking 5000 { pf := true, last := 1, cls := 1, acc := 10 } { core := [(0, { step := some 0 })] } []
    s.mayClose 0 = true ∧ s.pendingAt 0 0 1 = [(0 * 2 ^ 17 + 5, { pf := true, last := 1, cls := 1, acc := 10 })] ∧ ((s.fabSet 0).cls 0 1).theta = 10
      ∧ s.stepRuns (s.stepOf 2) = true ∧ s.inActive (s.stepOf 2) = s.inActive 0 ∧ (spiking 5000 {} {} []).mayClose 0 = false
      ∧ (spiking 5000 {} { halt := some 0 } []).stepRuns 0 = false := by decide
theorem witness_SpikesReachNeuronsAndSteps_start : (spiking 5000 {} {} []).mayStart 0 ((spiking 5000 {} {} []).nextCoreStep 0) = true
    ∧ (spiking 5000 {} {} []).late 0 = false ∧ (spiking 0 {} { first := 1 } []).mayStart 0 1 = false
    ∧ max 1 ((spiking 0 {} {} []).get R.fabSlipLimit) < (spiking (10 ^ 9) {} {} []).slip 0 ∧ (spiking 5000 {} {} []).offline (dieOfCore 63) = false
    ∧ (spiking 5000 {} {} [(R.errOfflineDies, 2)]).offline (dieOfCore 63) = true ∧ (spiking 5000 {} {} []).offline (dieOfEngine 7) = false
    ∧ SMap.get (spiking 5000 {} {} []).cv.spikes [] 7 = [] := by decide
theorem witness_FabricOutputsAndHalts :
    let s := spiking 1000000 {} { first := 1, halt := some 1, swaps := [(1, true)], reflexQ := [⟨2, 0⟩] } [(R.fabReflexCfgEn 1, 1), (R.fabReflexCfgGroup 1, 2)]
    s.fab.reflexQ = ⟨2, 0⟩ :: [] ∧ s.flag (R.fabReflexCfgEn 1) = true ∧ s.get (R.fabReflexCfgGroup 1) = 2 ∧ (s.reflex 1).newest ≤ 0 + 63
      ∧ s.flag (R.fabReflexCfgEn 0) = false ∧ s.fab.halt = some 1 ∧ s.fab.running = true ∧ 1 * s.stepNs ≤ s.now ∧ 1 ≤ s.fab.first ∧ s.fab.swaps = (1, true) :: []
      ∧ (spiking 0 {} { halt := some 1 } []).now < 1 * (spiking 0 {} {} []).stepNs
      ∧ (sail [(R.fabReflexStatAsserted 1, 1), (R.fabReflexCfgLatch 1, 0)]).flag (R.fabReflexStatAsserted 1) = true
      ∧ (dense 2 1000000 { next := some 0 } set0 []).inRun 0 = true ∧ (dense 2 1000000 { next := some 0 } set0 []).deadline 0 ≤ 1000000
      ∧ (sail []).inRun 0 = false ∧ (dense 2 0 { next := some 0 } set0 []).now < (dense 2 0 { next := some 0 } set0 []).deadline 0 := by decide

/-! #### Fusion, power and reef states -/

/-- The FTU before its pass of tick n, with one track. -/
def fusing (n ns : Nat) (l : List (Fld × Nat)) : State :=
  { dense 2 ns { next := some (n + 1) } { set0 with useCd0 := true, useCd1 := true } l with
    ftu := { next := some n, cur := { tracks := [{ id := 4, port := 0, cls := 0, vec := [], cov := [], conf := 1, sent := some (zeros 16) }] } } }
theorem witness_FusionPassesRun : (fusing 0 1000000 []).awake = true ∧ (fusing 0 1000000 []).ftu.next = some 0 ∧ (fusing 0 1000000 []).passDue 0 = true
    ∧ (fusing 0 0 []).passDue 0 = false ∧ (fusing 0 1000000 [(R.ftuDestEn, 1)]).flag R.ftuDestEn = true
    ∧ (3 % 2 ^ (if 3 % 2 ^ max (fusing 3 1000000 []).ftu.decim 1 = 0 then 1 else 1) : Nat) ≠ 0
    ∧ (fusing 0 0 []).powered (dieOfCore ((fusing 0 0 []).get R.ftuModelCore)) = true
    ∧ (((fusing 0 0 []).ftu.cur.tracks.find? fun x => x.id == 4).bind (·.sent)).isSome = true
    ∧ (((fusing 0 0 []).ftu.cur.tracks.find? fun x => x.id == 5).bind (·.sent)).isSome = false := by decide
theorem witness_PowerIsControlled : (sail []).awake = true ∧ (sail []).limitA 0 * 4 * 1000000 < 4 * 10 ^ 9 ∧ ((sail []).limiter 4).duty ≤ 64
    ∧ ((sail []).limiter 4).releasing = false ∧ (sail []).pwr.ms = (sail []).now / 1000000 ∧ (sail []).pwr.ms < (atNs (sail []) 1000000).now / 1000000
    ∧ (let s : State := { sail [] with pwr := { limiter := [(0, { estMean := 40, measMean := 10 })] } }
       s.getIn R.pwrShroudCfgTolPct 1 100 * (s.rollEnergy.limiter 0).measMean < 100 * (((s.rollEnergy.limiter 0).estMean : Int) - (s.rollEnergy.limiter 0).measMean).natAbs)
    ∧ 100 * (((sail []).rollEnergy.limiter 0).estMean - ((sail []).rollEnergy.limiter 0).measMean) ≤ (sail []).getIn R.pwrShroudCfgTolPct 1 100 * ((sail []).rollEnergy.limiter 0).measMean
    ∧ (sail [(R.pwrOpCurrent, 4)]).get R.pwrOpCurrent < (sail []).pwr.voltOp ∧ (sail []).pwr.voltOp ≤ (sail [(R.pwrOpCurrent, 5)]).get R.pwrOpCurrent
    ∧ ({ sail [] with pwr := { voltOp := 4 } } : State).pwr.voltOp ≤ (sail [(R.pwrOpCurrent, 4)]).get R.pwrOpCurrent
    ∧ (sail [(R.pwrOpCurrent, 4)]).get R.pwrOpCurrent < min (sail []).phaseEntry.1 (min ((sail [(R.pwrOpCurrent, 5), (R.pwrOpCapBound, 7)]).get R.pwrOpCapBound) ((sail [(R.pwrOpThermBound, 7)]).get R.pwrOpThermBound))
    ∧ (sail []).now < ({ sail [] with pwr := { opReady := 10000 } } : State).pwr.opReady ∧ 1 ∈ ({ sail [] with pwr := { vrWait := [0, 1] } } : State).pwr.vrWait
    ∧ (sail []).railOn (penOfDie (dieOfSensor 43)) = true ∧ State.reset.railOn (penOfDie (dieOfSensor 0)) = false
    ∧ min (sail [(R.pwrOpCapBound, 2)]).phaseEntry.1 (min ((sail [(R.pwrOpCapBound, 2)]).get R.pwrOpCapBound) ((sail []).get R.pwrOpThermBound))
        ≠ (sail [(R.pwrOpCapBound, 2), (R.pwrOpCurrent, 7)]).get R.pwrOpCurrent
    ∧ (sail []).pwr.opReady ≤ (sail []).now ∧ (sail []).volts 0 + 25 < 2000 ∧ (sail []).volts 1 ≤ (sail []).volts 1 + 25
    ∧ (sail [(R.pwrCapCapW, 60)]).capW ≠ 0 ∧ (sail []).pwr.evalMs ≠ some 0 ∧ (sail []).rollEnergy.msEnergy 0 ≤ (sail []).capW * 10 ^ 12
    ∧ (sail [(R.pwrCapCapW, 60)]).capW * 10 ^ 12
        < ({ sail [] with pwr := { energy := [(0, 10 ^ 15)] } } : State).rollEnergy.msEnergy 0 + 10 ^ 15
    ∧ ((sail []).throt : Int) ≤ 127 ∧ (sail [(R.pwrThermStatusThrottling, 1)]).flag R.pwrThermStatusThrottling = true
    ∧ ({ atNs (sail []) 1000000 with pwr := { hotSince := some 0 } } : State).pwr.hotSince = some 0
    ∧ ({ atNs (sail []) 10000000 with pwr := { coolSince := some 0 } } : State).pwr.coolSince = some 0 ∧ (sail []).mainstay = true := by decide
/-- The same state in phase p at reference cycle clk. -/
def inPhase (s : State) (p : Phase) (clk : Nat) : State := { s with phase := p, time := { s.time with clk := clk } }
theorem witness_ReefStatesAndLinks_idle : (atNs (sail [(R.mgtIdle1Us, 10)]) 10000).get R.mgtIdle1Us ≠ 0 ∧ (atNs (sail [(R.mgtIdle1Us, 10)]) 10000).block = 0
    ∧ (atNs (sail [(R.mgtIdle1Us, 10)]) 10000).reef.idleAt + 1000 * max 10 ((sail [(R.mgtIdle1Us, 10)]).get R.mgtIdle1Us) * 2 ^ 32 ≤ (atNs (sail [(R.mgtIdle1Us, 10)]) 10000).time.dev
    ∧ (inPhase (atNs (sail [(R.mgtIdle1Us, 10), (R.mgtIdle2Ms, 1)]) 1000000) (.reef 1) 0).phase = .reef 1
    ∧ 1000000 * (sail [(R.mgtIdle2Ms, 1)]).get R.mgtIdle2Ms ≤ (atNs (sail []) 1000000).now
    ∧ (sail [(R.mgtIdle3S, 1), (R.mgtIdle3LinkOk, 1)]).get R.mgtIdle3S ≠ 0 ∧ (sail [(R.mgtIdle3S, 1), (R.mgtIdle3LinkOk, 1)]).get R.mgtIdle3LinkOk ≠ 0
    ∧ 250000000 * min 3600 ((sail [(R.mgtIdle3S, 1)]).get R.mgtIdle3S) ≤ (inPhase (sail []) (.reef 2) 250000000).time.clk
    ∧ (inPhase (sail []) (.entering 3 9 (some ⟨5, 0⟩)) 9).phase = .entering 3 9 (some ⟨5, 0⟩) ∧ (inPhase (sail []) (.entering 3 9 none) 8).time.clk < 9 := by decide
theorem witness_ReefStatesAndLinks_wake : bit ((sail [(R.ingCtlPortEn, 1), (R.mgtWakeEnPort, 1)]).get R.ingCtlPortEn) 0 = true
    ∧ bit ((sail [(R.ingCtlPortEn, 1), (R.mgtWakeEnPort, 1)]).get R.mgtWakeEnPort) 0 = true ∧ (sail [(R.timTciCfgEn 3, 1)]).get (R.timTciCfgEn 3) ≠ 0
    ∧ bit ((sail [(R.mgtWakeEnTci, 8)]).get R.mgtWakeEnTci) 3 = true ∧ (sail [(R.mgtAlarmCtlEn, 1)]).get R.mgtAlarmCtlEn ≠ 0
    ∧ (sail []).reef.since ≤ (sail [(R.mgtAlarmNs, 5)]).get R.mgtAlarmNs ∧ (sail [(R.mgtAlarmNs, 5)]).get R.mgtAlarmNs ≤ (atNs (sail []) 5).now := by decide
theorem witness_ReefStatesAndLinks_ready : State.reset.host.held = [] ∧ State.reset.reef.served = [] ∧ State.reset.reef.flr = [] ∧ State.reset.phase = .boot 18750000
    ∧ (inPhase State.reset (.boot 18750000) 18750000).time.clk = 18750000 ∧ State.reset.reef.testEn = false
    ∧ ({ State.reset with reef := { causes := [4], classes := 0xE } } : State).reef.causes = [4]
    ∧ (inPhase (sail []) (.exiting 2 60000 ⟨4, 0⟩) 60000).reef.rails = .up ∧ (inPhase (sail []) (.exiting 2 60000 ⟨4, 0⟩) 60000).reef.causes = []
    ∧ (inPhase (sail []) (.exiting 2 60000 ⟨4, 0⟩) 60000).reef.classes = 0 ∧ (sail []).reef.merged = false
    ∧ State.reset.reef.rails = .rising 0 ∧ 0 + 3000000 ≤ (inPhase State.reset (.boot 18750000) 18750000).time.clk ∧ failedPen (railTable.map (·.1)) true = none
    ∧ ({ sail [] with reef := { flr := [(7, 0)], causes := [] } } : State).reef.flr = [(7, 0)] := by decide
theorem witness_ReefStatesAndLinks_rails : (inPhase (sail []) (.exiting 3 18750000 ⟨5, 0⟩) 3000000).phase = .exiting 3 18750000 ⟨5, 0⟩
    ∧ 18750000 ≤ (inPhase (sail []) (.exiting 3 18750000 ⟨5, 0⟩) 3000000).time.clk + 15750000 ∧ State.reset.time.clk + 15750000 < 18750000
    ∧ failedPen (railTable.map (·.1)) false = some 2 ∧ (inPhase (sail []) (.exiting 3 18750000 ⟨5, 0⟩) 3000000).time.clk < 1 + 3000000
    ∧ State.reset.reef.causes = [7] ∧ (inPhase (sail []) (.reef 3) 0).phase = .reef 3 := by decide
theorem witness_ReefStatesAndLinks_links : ((sail []).link 6).retrain = none ∧ (({ sail [] with err := { link := [(6, { retrain := some 5 })] } } : State).link 6).retrain = some 5
    ∧ (atNs (sail []) 10004).now < 5 + 10000 ∧ 5 + 10000 ≤ (atNs (sail []) 10005).now
    ∧ ((atNs (sail []) 9).now :: (({ sail [] with err := { link := [(6, { retries := [1, 2, 3, 4, 5, 6, 7] })] } } : State).link 6).retries.filter fun a => decide (9 < a + 1000000)).length = 8
    ∧ (sail []).err.hopFails < 3 ∧ 3 ≤ ({ sail [] with err := { hopFails := 3 } } : State).err.hopFails
    ∧ (sail [(R.errOfflineDies, 15)]).dieOff (dieOfMem .bolt 0) = true ∧ (sail []).dieOff (dieOfMem .bolt 0) = false
    ∧ (sail []).wordBad false (.canvas 5) = false ∧ ({ sail [] with cv := { bad := [(5, true)] } } : State).wordBad false (.canvas 5) = true
    ∧ ({ sail [] with reef := { rails := .falling 0 (some 3) } } : State).reef.rails = .falling 0 (some 3) := by decide

/-! #### Pulses, captures and MACs -/

theorem witness_PulsesAndCapturesRun : bit (1 : Word).toNat 0 = true ∧ (sail [(R.timTpoCfgEn 3, 1)]).flag (R.timTpoCfgEn 3) = true ∧ (sail []).flag (R.timTpoCfgEn 3) = false
    ∧ 0 < (sail [(R.timTpoPeriodPeriod 0, 1)]).get (R.timTpoPeriodPeriod 0) * 2 ^ 32 ∧ (sail []).get (R.timTpoPeriodPeriod 0) * 2 ^ 32 = 0
    ∧ (sail []).time.dev ≤ (sail []).get (R.timTpoStartStart 0) * 2 ^ 32 ∧ (sail []).get (R.timTpoStartStart 0) * 2 ^ 32 < (atNs (sail []) 1).time.dev
    ∧ (sail []).timeRuns = true ∧ (({ sail [] with time := { tpo := [(0, ⟨1, true, some 0⟩)] } } : State).tpo 0).fall = some 0
    ∧ (({ sail [] with time := { tpo := [(0, ⟨0, true, none⟩)] } } : State).tpo 0).armed = true
    ∧ (sail [(R.timTciCfgEn 3, 1)]).flag (R.timTciCfgEn 3) = true ∧ true ≠ (sail [(R.timTciCfgEn 3, 1)]).flag (R.timTciCfgFalling 3)
    ∧ ((sail []).captures 3).length < 16 ∧ 16 ≤ (({ sail [] with time := { tci := [(3, List.range 16)] } } : State).captures 3).length
    ∧ (inPhase (sail []) (.reef 2) 0).phase = .reef 2 := by decide
/-- MAC 1 enabled with its transmit ring. -/
def mac1 (l : List (Fld × Nat)) (q : Mac) : State :=
  let s := sail ([(R.timMacCfgEn 1, 1), (R.timMacTxrCfgEn 1, 1), (R.timMacTxrCfgSizeLog2 1, 4)] ++ l)
  { s with time := { s.time with mac := [(1, q)] } }
/-- A Sync message over Ethernet, to be stamped in one step from device time; its slot. -/
def sync : List Byte := zeros 12 ++ [0x88, 0xF7] ++ zeros 44
theorem witness_MacsSendAndReceive : (mac1 [] {}).flag (R.timMacTxrCfgEn 1) = true ∧ bits (15 : Word).toNat 0 12 < (mac1 [] {}).txSize 1
    ∧ ¬(bits (16 : Word).toNat 0 12 < (mac1 [] {}).txSize 1) ∧ (mac1 [] { tail := 1 }).flag (R.timMacCfgEn 1) = true
    ∧ (mac1 [] { tail := 1 }).get (R.timMacTxHeadHead 1) ≠ ((mac1 [] { tail := 1 }).mac 1).tail ∧ (mac1 [] {}).get (R.timMacTxHeadHead 1) = ((mac1 [] {}).mac 1).tail
    ∧ ptpAt [319] sync = some 14 ∧ ptpType sync 14 = 0 ∧ udpAt sync = none ∧ 14 + 44 ≤ sync.length ∧ sync.length ≤ maxFrame sync
    ∧ ptpAt [319, 320] (zeros 64) = none ∧ (mac1 [(R.timMacRxDestEn 1, 1)] {}).flag (R.timMacRxDestEn 1) = true ∧ (mac1 [] {}).flag (R.timMacRxDestEn 1) = false
    ∧ (sail []).flag (R.timMacCfgEn 1) = false ∧ ((mac1 [] {}).mac 1).exports = [] ∧ ((mac1 [] { exports := [{ type := 1 }] }).mac 1).exports = { type := 1 } :: [] := by decide
/-! ### Values that the spec works out -/

/-- 00_scope.md: a SWAP_SET accepted at 1,000,021,300 ns takes effect at tick 40,002. -/
theorem test_effective_tick : effectiveTick (1000021300 * 2 ^ 32) = 40002 := by decide
/-- 12_time_synchronization.md: a switch accepted at 5,000,003,200 ns waits for tick 200,001. -/
theorem test_switch_tick : effectiveTick (5000003200 * 2 ^ 32) = 200001 := by decide
/-- 02_sensor_ingest.md: a loss of 14.2 dB at 1.10 dB/m and 1.0 dB of connectors is 1,200 cm. -/
theorem test_coax_length : (match exec (.linkTraining 5 true 3 142)
      { sail [(R.ingCoaxCoef0Coef, 110), (R.ingCoaxCoef0Conn, 10), (R.ingPortCfgCoaxClass 5, 0)] with ing := { port := [(5, { training := true })] } } with
    | .next t => t.get (R.ingPortLinkLenCm 5)
    | _ => 0) = 1200 := by decide
/-- 02_sensor_ingest.md: the stamp 305,419,861 µs rebases to 2,000,012,810 ns. -/
theorem test_rebase : rebase 305400000 1980151500 0x000003E804000000 305419861 = 2000012810 := by decide
/-- 03_canvas_surface_engines.md: the outer and inner ages of the corner example pass; with age 28 at inner index 12 the test fails. -/
theorem test_corner : cornerTest [24, 28, 28, 28, 24, 460, 460, 460, 420, 460, 460, 460, 420, 460, 460, 460]
      [28, 32, 32, 32, 32, 28, 500, 500, 500, 500, 460, 500, 500, 500, 500, 460, 500, 500, 500, 500] = true
    ∧ circlePasses [24, 28, 28, 28, 24, 460, 460, 460, 420, 460, 460, 460, 28, 460, 460, 460] [3, 4, 5, 6, 10, 11, 12, 13] = false := by decide
/-- 03_canvas_surface_engines.md: the ticks in which a stamp of 2,000,012 µs crosses the default edges. -/
theorem test_crossings : ([50, 100, 200, 400, 800, 1600, 6400].map fun e => crossingTick 2000012 e) = [80002, 80004, 80008, 80016, 80032, 80064, 80256]
    ∧ (sail []).edges = [50, 100, 200, 400, 800, 1600, 6400] := by decide
/-- 04_tensor_engines_arithmetic.md: r is 65 for S = 47,213 and −65 for S = −47,213. -/
theorem test_requant : requant 47213 1518500250 40 = 65 ∧ requant (-47213) 1518500250 40 = -65 := by decide
/-- 06_layer_operators.md: the taps of the EDGE example read x0 x0 x0 x1 x2, x0 x0 x1 x2 x2 and x0 x1 x2 x2 x2. -/
theorem test_edge_taps : ([0, 1, 2].map fun ox => (List.range 5).map fun k => (tapCoord ox 1 2 k 1 3).1) = [[0, 0, 0, 1, 2], [0, 0, 1, 2, 2], [0, 1, 2, 2, 2]] := by decide
/-- 06_layer_operators.md: lengths 3, 1, none (GEOM_EMPTY) and 3 of the two width examples. -/
theorem test_axis_length : axisLen 3 2 2 5 1 1 = some 3 ∧ axisLen 3 1 1 5 1 1 = some 1 ∧ axisLen 3 1 0 5 1 1 = none ∧ axisLen 10 0 0 2 1 4 = some 3 := by decide
/-- 08_inertial_filter_chain.md: μ = 0.475 gives the phase 15. -/
theorem test_resampler_phase :
    ({ sail [] with flt := { chan := [(0, { hist := [⟨1999875000, 0⟩], spNum := 250000 })] } } : State).phaseOf 0 (256 * 1999993750) = (15, false) := by decide
/-- 18_register_map.md: each agent's own latch completes its alarm write. -/
theorem test_alarm_latches : (match exec (.loWrite 0 .bar0 0x100018 0x2A05F200) (sail []) with
    | .next a => match exec (.regWrite 0x018 0x1000) a with
      | .next b => match exec (.regWrite 0x01C 0) b with
        | .next c => match exec (.hiWrite 0 .bar0 0x10001C 1) c with
          | .next d => (c.get R.mgtAlarmNs, d.get R.mgtAlarmNs)
          | _ => (0, 0)
        | _ => (0, 0)
      | _ => (0, 0)
    | _ => (0, 0)) = (0x1000, 5000000000) := by decide
/-- Readings of the 12 rails at their nominal values but for the first rail behind PEN3, which reads 0. -/
def failing : List Nat := railTable.zipIdx.map fun x => if (railTable.take x.2).all (fun y => y.2 != 3) && x.1.2 == 3 then 0 else x.1.1
/-- 14_reef_states_reset_retention.md: at 12 ms of an exit from REEF3 a failing rail behind PEN3 leaves the device in REEF3; the next match begins again. -/
theorem test_rail_check : (match exec (.ready failing true) { inPhase (sail []) (.exiting 3 18750000 ⟨5, 0⟩) 3000000 with reef := { rails := .rising 0 } } with
    | .next a => match exec .reefEntryDone { a with time := { a.time with clk := 4250000 } } with
      | .next b => match exec .i2cAddressMatch b with
        | .next c => (a.phase, b.get R.mgtPwrseqFailPen, b.get R.mgtPwrseqSeqFail, b.phase, c.phase)
        | _ => (.off, 0, 0, .off, .off)
      | _ => (.off, 0, 0, .off, .off)
    | _ => (.off, 0, 0, .off, .off)) = (.entering 3 4250000 none, 3, 1, .reef 3, .exiting 3 23000000 ⟨5, 0⟩) := by decide
/-- 14_reef_states_reset_retention.md: at 4 ms of an exit from REEF3 PEN2 is asserted and PEN3 is not, and REFLEX0 floats; in SAIL REFLEX0 rests low. -/
theorem test_pins : ([.pen 2, .pen 3, .reflex 0].map ({ inPhase (sail []) (.exiting 3 18750000 ⟨5, 0⟩) 1000000 with reef := { rails := .rising 0 } } : State).pin) = [some true, some false, none]
    ∧ (sail []).pin (.reflex 0) = some false := by decide
/-- The fabric of that example in step 641. -/
def firing : State :=
  { spiking 20000000 {} { core := [(0, { step := some 641, closed := 16039 })] } [] with active := some { set0 with useCd0 := true, fab := { classes := [(1, { theta := 1000, reset := 1, graded := true })], ctx := [(5, { pf := true, last := 16040, cls := 1, acc := 1030, old := false })], routes := [(5, { mask := 1 })] } } }
/-- 07_spike_fabric.md: the close of instant 16,040 with ACC = 1,030 fires with payload 30 stamped 16,041, and ACC becomes 30. -/
theorem test_close_fires : (match exec (.instantClose 0 []) firing with
    | .next t => (t.fab.flight.map fun f => (f.stamp, f.payload), (t.context 641 0 5).map (·.acc))
    | _ => ([], none)) = ([(16041, 30)], some 30) := by decide
end Sys2Proof.Tests
end

section
/-! SUPPORT and OBLIGATIONS. Run control: START, SWAP_SET and the three ways to stop (R323, R324, R346–R350, R424). -/

namespace Sys2Proof.Machine

/-! ### Registers kept -/

theorem State.keepsRegs_refl (s : State) (ks : List Nat) : s.keepsRegs s ks := fun _ _ => rfl

theorem State.keepsRegs.trans {s t u : State} {ks : List Nat} (a : s.keepsRegs t ks) (b : t.keepsRegs u ks) : s.keepsRegs u ks :=
  fun x hx => (b x hx).trans (a x hx)

theorem State.keepsRegs.mono {s t : State} {ks ls : List Nat} (a : s.keepsRegs t ks) (h : ks ⊆ ls) : s.keepsRegs t ls :=
  fun x hx => a x fun hk => hx (h hk)

/-- A write of a listed field keeps every field that is not listed. -/
theorem State.keepsRegs.set {s t : State} {ks : List Nat} (a : s.keepsRegs t ks) {f : Fld} (h : f.key ∈ ks) (v : Nat) : s.keepsRegs (t.set f v) ks :=
  fun x hx => (State.get_set_other t (f := f) (g := x) (fun e => hx (e ▸ h)) v).trans (a x hx)

theorem State.keepsRegs.setFlag {s t : State} {ks : List Nat} (a : s.keepsRegs t ks) {f : Fld} (h : f.key ∈ ks) (b : Bool) :
    s.keepsRegs (t.setFlag f b) ks := a.set h _

theorem State.keepsRegs_cons {s t : State} {k : Nat} {ks : List Nat} (h : ∀ x : Fld, x.key ≠ k → x.key ∉ ks → t.get x = s.get x) :
    s.keepsRegs t (k :: ks) := fun x hx => by
  rw [List.mem_cons, not_or] at hx
  exact h x hx.1 hx.2

theorem State.flag_of_get {s t : State} {x : Fld} (h : t.get x = s.get x) : t.flag x = s.flag x := by
  unfold State.flag; rw [h]

theorem State.flag_setFlag_same (s : State) (f : Fld) (b : Bool) (h : 1 ≤ f.width) : (s.setFlag f b).flag f = b := by
  rw [State.flag, State.get_setFlag_same s f b h]
  cases b <;> rfl

/-! ### A device-wide command accepted (R338) -/

/-- Acceptance takes the command off the device-wide queue and changes nothing else that a refusal could. -/
theorem State.accept_refusal (s : State) : s.accept.host.wide = s.host.wide.tail ∧ s.accept.ctl = s.ctl ∧ s.keepsRegs s.accept [] :=
  ⟨rfl, rfl, fun _ _ => rfl⟩

@[simp] theorem State.accept_msdLost (s : State) : s.accept.msdLost = s.msdLost := (rfl)
@[simp] theorem State.accept_stopped (s : State) : s.accept.stopped = s.stopped := (rfl)
@[simp] theorem State.accept_flag (s : State) (x : Fld) : s.accept.flag x = s.flag x := (rfl)
@[simp] theorem State.accept_regionsBad (s : State) : s.accept.regionsBad = s.regionsBad := (rfl)
@[simp] theorem State.accept_edgesBad (s : State) : s.accept.edgesBad = s.edgesBad := (rfl)
@[simp] theorem State.accept_setOffline (s : State) (c : ConfigSet) : s.accept.setOffline c = s.setOffline c := (rfl)
@[simp] theorem State.accept_setFault (s : State) (c : ConfigSet) : s.accept.setFault c = s.setFault c := (rfl)

/-! ### START (R347) -/

/-- START accepted with first tick `n`. -/
def State.startAt (s : State) (f q n : Nat) : State :=
  let s1 := (((s.set R.hifRunState runStarting).set R.hifRunTickTick n).sendCommand 0x03 f n).begin f q
  s1.setCtl { s1.ctl with start := some (f, q), cancelled := false, atBoundary := false }

theorem exec_start_refused {s t : State} {f : Fin 8} {q : Fin 4} (ha : s.awake = true) (hw : s.wideOp f q = some .start)
    (hc : s.accept.startCheck f q = some t) : exec (.start f q) s = .next t := by
  change execStart f q s = _
  simp [execStart, hw, ha, hc]

theorem exec_start_accepted {s : State} {f : Fin 8} {q : Fin 4} (ha : s.awake = true) (hw : s.wideOp f q = some .start)
    (hc : s.accept.startCheck f q = none) : exec (.start f q) s = .next (s.accept.startAt f q (effectiveTick s.time.dev)) := by
  change execStart f q s = _
  simp [execStart, hw, ha, hc, State.startAt]

/-- START accepted: STARTING with first tick `n`, the descriptor runs, the message is on its way. -/
theorem State.startAt_spec {s : State} {f q : Nat} (h : s.fetchedOp f q = some .start) (n : Nat) :
    (s.startAt f q n).get R.hifRunState = 1 ∧ (s.startAt f q n).get R.hifRunTickTick = n % 2 ^ 64
      ∧ (s.startAt f q n).get R.cntHalCmd = (s.get R.cntHalCmd + 1) % 2 ^ 32
      ∧ (s.startAt f q n).runningOp f q = some .start ∧ (s.startAt f q n).ctl.start = some (f, q)
      ∧ (s.startAt f q n).ctl.cancelled = false ∧ (s.startAt f q n).host.wide = s.host.wide
      ∧ (s.startAt f q n).host.mem = s.host.mem ∧ (s.startAt f q n).lpddr = s.lpddr
      ∧ s.keepsRegs (s.startAt f q n) [R.hifRunState.key, R.hifRunTickTick.key, R.cntHalCmd.key, R.cntTraceDrop.key] := by
  obtain ⟨w, hw, hget, hcmd, -, hop, hwide, hmem, hlp, -⟩ :=
    State.sendBegin_spec (v := (s.set R.hifRunState runStarting).set R.hifRunTickTick n) (f := f) (q := q) (by simpa using h) 0x03 n
  have e : s.startAt f q n = w.setCtl { w.ctl with start := some (f, q), cancelled := false, atBoundary := false } := by
    rw [← hw]; rfl
  rw [e]
  refine ⟨?_, ?_, ?_, hop, rfl, rfl, hwide, hmem, hlp, fun x hx => ?_⟩
  · rw [State.get_setCtl, hget _ (by decide), State.get_set_other _ (by decide), State.get_set_same]; rfl
  · rw [State.get_setCtl, hget _ (by decide), State.get_set_same]; rfl
  · rw [State.get_setCtl, hcmd, State.get_set_other _ (by decide), State.get_set_other _ (by decide)]
  · simp only [List.mem_cons, List.not_mem_nil, or_false, not_or] at hx
    obtain ⟨hrun, htick, hcnt, hdrop⟩ := hx
    rw [State.get_setCtl, hget x (by simp [hcnt, hdrop]), State.get_set_other _ htick, State.get_set_other _ hrun]

/-- Settles O17: START's checks branch by branch, and what an accepted START does. -/
theorem startEntersStarting : Obligations.StartEntersStarting := by
  intro f q s ha hw hm
  obtain ⟨hwide, hctl, hk⟩ := s.accept_refusal
  refine ⟨fun c hs hc hp hr he hf => ?accepted, fun hs => ?notStopped, fun hs hc => ?noSet, fun c hs hc hp => ?swapPending,
    fun c hs hc hp hr => ?regionsBad⟩
  case accepted =>
    have hck : s.accept.startCheck f q = none := by simp [State.startCheck, hm, hs, hc, hp, hr, he, hf]
    obtain ⟨hrun, htick, hcmd, hop, hst, hcan, hwide, hmem, hlp, hk⟩ :=
      State.startAt_spec (s := s.accept) (f := f) (q := q) (State.wideOp_some hw).2 (effectiveTick s.time.dev)
    have hb := effectiveTick_bounds s.time.dev
    exact ⟨_, _, exec_start_accepted ha hw hck, hb.1, hb.2, hrun, htick, hcmd, hop, hst, hcan, hwide, hmem, hlp, hk⟩
  case notStopped => exact ⟨s.accept, exec_start_refused ha hw (by simp [State.startCheck, hm, hs, Done.bad]), hwide, hctl, hk⟩
  case noSet => exact ⟨s.accept, exec_start_refused ha hw (by simp [State.startCheck, hm, hs, hc, Done.bad]), hwide, hctl, hk⟩
  case swapPending => exact ⟨s.accept, exec_start_refused ha hw (by simp [State.startCheck, hm, hs, hc, hp, Done.bad]), hwide, hctl, hk⟩
  case regionsBad =>
    exact ⟨s.accept.setFlag R.srfStatusRegionErr true, exec_start_refused ha hw (by simp [State.startCheck, hm, hs, hc, hp, hr]), hwide, hctl,
      State.flag_setFlag_same _ _ _ (by decide), (hk.mono (List.nil_subset _)).setFlag (by simp) true⟩

/-! ### SWAP_SET (R349, R350) -/

/-- The swap that ring `q` of function `f` asked for is noted for tick `n` and step `k`, in run control, the fabric and the dense path. -/
def State.noteSwap (s : State) (f q n k : Nat) : State :=
  let s1 := s.setCtl { s.ctl with swap := some { owner := some (f, q), tick := n } }
  (s1.setFab { s1.fab with swaps := s1.fab.swaps ++ [(k, false)] }).setTns { s1.tns with swaps := s1.tns.swaps ++ [(n, false)] }

/-- SWAP_SET accepted for tick `n`. -/
def State.swapAt (s : State) (f q n : Nat) : State :=
  ((((s.set R.hifSwapTickTick n).setFlag R.hifSetsSwapPending true).sendCommand 0x02 f n).begin f q).noteSwap f q n (s.stepAtTick n)

theorem exec_swapSet_refused {s t : State} {f : Fin 8} {q : Fin 4} (ha : s.awake = true) (hw : s.wideOp f q = some .swapSet)
    (hc : s.accept.swapCheck f q = some t) : exec (.swapSet f q) s = .next t := by
  change execSwapSet f q s = _
  simp [execSwapSet, hw, ha, hc]

theorem exec_swapSet_accepted {s : State} {f : Fin 8} {q : Fin 4} (ha : s.awake = true) (hw : s.wideOp f q = some .swapSet)
    (hc : s.accept.swapCheck f q = none) : exec (.swapSet f q) s = .next (s.accept.swapAt f q (effectiveTick s.time.dev)) := by
  change execSwapSet f q s = _
  simp only [execSwapSet, hw, ha, hc]
  rfl

/-- SWAP_SET accepted: the swap is pending for tick `n`, the sets stand where they stood. -/
theorem State.swapAt_spec {s : State} {f q : Nat} (h : s.fetchedOp f q = some .swapSet) (n : Nat) :
    (s.swapAt f q n).get R.hifSwapTickTick = n % 2 ^ 64 ∧ (s.swapAt f q n).flag R.hifSetsSwapPending = true
      ∧ (s.swapAt f q n).runningOp f q = some .swapSet ∧ (s.swapAt f q n).ctl.swap = some { owner := some (f, q), tick := n }
      ∧ (s.swapAt f q n).active = s.active ∧ (s.swapAt f q n).shadow = s.shadow ∧ (s.swapAt f q n).host.wide = s.host.wide
      ∧ s.keepsRegs (s.swapAt f q n) [R.hifSwapTickTick.key, R.hifSetsSwapPending.key, R.cntHalCmd.key, R.cntTraceDrop.key] := by
  obtain ⟨w, hw, hget, -, -, hop, hwide, -, -, -, -, -, -, hact, hsha⟩ :=
    State.sendBegin_spec (v := (s.set R.hifSwapTickTick n).setFlag R.hifSetsSwapPending true) (f := f) (q := q) (by simpa using h) 0x02 n
  have e : s.swapAt f q n = w.noteSwap f q n (s.stepAtTick n) := by rw [State.swapAt, hw]
  have hg : ∀ x, (w.noteSwap f q n (s.stepAtTick n)).get x = w.get x := fun _ => rfl
  rw [e]
  refine ⟨?_, ?_, hop, rfl, hact, hsha, hwide, fun x hx => ?_⟩
  · rw [hg, hget _ (by decide), State.get_setFlag_other _ (by decide), State.get_set_same]; rfl
  · rw [State.flag_of_get ((hg _).trans (hget _ (by decide))), State.flag_setFlag_same _ _ _ (by decide)]
  · simp only [List.mem_cons, List.not_mem_nil, or_false, not_or] at hx
    obtain ⟨htick, hpend, hcnt, hdrop⟩ := hx
    rw [hg, hget x (by simp [hcnt, hdrop]), State.get_setFlag_other _ hpend, State.get_set_other _ htick]

/-- What a swap leaves alone: sensors, Canvas, fusion, time, LPDDR5X and the host side (R350). -/
structure SwapFrame (s t : State) : Prop where
  ing : t.ing = s.ing
  cv : t.cv = s.cv
  ftu : t.ftu = s.ftu
  time : t.time = s.time
  lpddr : t.lpddr = s.lpddr
  host : t.host = s.host

theorem SwapFrame.trans {s t u : State} (a : SwapFrame s t) (b : SwapFrame t u) : SwapFrame s u :=
  ⟨b.ing.trans a.ing, b.cv.trans a.cv, b.ftu.trans a.ftu, b.time.trans a.time, b.lpddr.trans a.lpddr, b.host.trans a.host⟩

/-- The sets exchanged: the places, and the registers that show them. -/
theorem State.exchangeSets_spec (s : State) :
    s.exchangeSets.active = s.shadow ∧ s.exchangeSets.shadow = s.active ∧ SwapFrame s s.exchangeSets
      ∧ (∀ c, s.shadow = some c → s.exchangeSets.get R.hifSetActiveIdImageId = c.id % 2 ^ 32 ∧ s.exchangeSets.get R.hifSetsActive = 2)
      ∧ s.keepsRegs s.exchangeSets [R.hifSetsActive.key, R.hifSetsShadow.key, R.hifSetsActiveDies.key, R.hifSetsShadowDies.key,
          R.hifSetActiveIdImageId.key, R.hifSetShadowIdImageId.key, R.tnsGauzeTaintAny.key] := by
  refine ⟨rfl, rfl, by constructor <;> simp [State.exchangeSets, State.showTaint, State.setFlag], fun c hc => ⟨?_, ?_⟩, ?_⟩
  · simp only [State.exchangeSets, State.showTaint]
    rw [State.get_setFlag_other _ (by decide), State.get_set_other _ (by decide), State.get_set_same, hc]; rfl
  · simp only [State.exchangeSets, State.showTaint]
    rw [State.get_setFlag_other _ (by decide), State.get_set_other _ (by decide), State.get_set_other _ (by decide),
      State.get_set_other _ (by decide), State.get_set_other _ (by decide), State.get_set_other _ (by decide), State.get_set_same, hc]
    rfl
  · unfold State.exchangeSets State.showTaint
    refine .setFlag (.set (.set (.set (.set (.set (.set (fun _ _ => rfl) ?_ _) ?_ _) ?_ _) ?_ _) ?_ _) ?_ _) ?_ _
    all_goals decide

/-- A pending swap settled: SWAP_PENDING falls, and run control holds no swap. -/
theorem State.settleSwap_spec (s : State) (taken : Bool) :
    (s.settleSwap taken).active = s.active ∧ (s.settleSwap taken).shadow = s.shadow ∧ SwapFrame s (s.settleSwap taken)
      ∧ (s.settleSwap taken).flag R.hifSetsSwapPending = false ∧ (s.settleSwap taken).ctl.swap = none
      ∧ s.keepsRegs (s.settleSwap taken) [R.hifSetsSwapPending.key] := by
  have hg : ∀ x, (s.settleSwap taken).get x = (s.setFlag R.hifSetsSwapPending false).get x := fun _ => rfl
  exact ⟨rfl, rfl, by constructor <;> rfl, (State.flag_of_get (hg _)).trans (State.flag_setFlag_same _ _ _ (by decide)), rfl,
    fun x hx => (hg x).trans ((s.keepsRegs_refl _).setFlag (f := R.hifSetsSwapPending) (by simp) false x hx)⟩

/-- The phase after a swap (R391): kept where it is valid in the new active set, 0 where not. -/
theorem State.swapPhase_spec (s : State) :
    s.swapPhase.active = s.active ∧ s.swapPhase.shadow = s.shadow ∧ SwapFrame s s.swapPhase ∧ s.swapPhase.ctl = s.ctl
      ∧ (∀ c, s.active = some c →
          (phaseValid c.phases (s.get R.pwrPhasePhase) = true → s.swapPhase.get R.pwrPhasePhase = s.get R.pwrPhasePhase)
          ∧ (phaseValid c.phases (s.get R.pwrPhasePhase) = false → s.swapPhase.get R.pwrPhasePhase = 0))
      ∧ s.keepsRegs s.swapPhase [R.pwrPhasePhase.key, R.pwrOpTarget.key] := by
  have target : ∀ t : State, t.showTarget.get R.pwrPhasePhase = t.get R.pwrPhasePhase := fun t => State.get_set_other t (by decide) _
  have enter : (s.enterPhase 0).get R.pwrPhasePhase = 0 := by
    rw [State.enterPhase, target, State.get_setPwr, State.get_set_same]; rfl
  have keeps : ∀ t : State, s.keepsRegs t [R.pwrPhasePhase.key, R.pwrOpTarget.key] →
      s.keepsRegs t.showTarget [R.pwrPhasePhase.key, R.pwrOpTarget.key] := fun t h => h.set (by decide) _
  have reset : s.keepsRegs (s.set R.pwrPhasePhase 0) [R.pwrPhasePhase.key, R.pwrOpTarget.key] := (s.keepsRegs_refl _).set (by decide) 0
  unfold State.swapPhase
  split
  · next c hc =>
    split
    · next hv =>
      refine ⟨rfl, rfl, by constructor <;> rfl, rfl, fun d hd => ?_, keeps s (s.keepsRegs_refl _)⟩
      cases hc.symm.trans hd
      exact ⟨fun _ => target s, fun h => by simp [hv] at h⟩
    · next hv =>
      refine ⟨rfl, rfl, by constructor <;> rfl, rfl, fun d hd => ?_, keeps _ fun x hx => reset x hx⟩
      cases hc.symm.trans hd
      exact ⟨fun h => absurd h hv, fun _ => enter⟩
  · next hc => exact ⟨rfl, rfl, by constructor <;> rfl, rfl, fun d hd => by simp [hc] at hd, keeps _ reset⟩

/-- A swap taken: sets, registers and phase, and its count. -/
def State.swapCounted (s : State) : State := ((s.exchangeSets.settleSwap true).swapPhase).inc R.cntSwap

/-- A swap of tick `n` has been taken: what SWAP_TAKES_EFFECT makes of the state before the completion. -/
def State.swapTaken (s : State) (n : Nat) : State :=
  s.swapCounted.setTns { s.swapCounted.tns with whole := s.swapCounted.tns.whole ++ (if s.swapCounted.tns.next.isSome then [n] else []) }

theorem exec_swapTakesEffect_of {s : State} {w : PendingSwap} (ha : s.awake = true) (hw : s.ctl.swap = some w) (hn : w.aborted = false)
    (hm : s.markHeld w.tick = true) :
    exec .swapTakesEffect s = .next ((s.swapTaken w.tick).completeOwner w.owner (.okay w.tick)) := by
  change execSwapTakesEffect s = _
  simp only [execSwapTakesEffect, hw, ha, hn, hm]
  rfl

theorem State.swapTaken_spec (s : State) (n : Nat) :
    (s.swapTaken n).active = s.shadow ∧ (s.swapTaken n).shadow = s.active ∧ SwapFrame s (s.swapTaken n)
      ∧ (s.swapTaken n).flag R.hifSetsSwapPending = false ∧ (s.swapTaken n).ctl.swap = none
      ∧ (s.swapTaken n).get R.cntSwap = (s.get R.cntSwap + 1) % 2 ^ 32
      ∧ (∀ c, s.shadow = some c → (s.swapTaken n).get R.hifSetActiveIdImageId = c.id % 2 ^ 32 ∧ (s.swapTaken n).get R.hifSetsActive = 2
          ∧ (phaseValid c.phases (s.get R.pwrPhasePhase) = true → (s.swapTaken n).get R.pwrPhasePhase = s.get R.pwrPhasePhase)
          ∧ (phaseValid c.phases (s.get R.pwrPhasePhase) = false → (s.swapTaken n).get R.pwrPhasePhase = 0))
      ∧ s.keepsRegs (s.swapTaken n) [R.hifSetsActive.key, R.hifSetsShadow.key, R.hifSetsActiveDies.key, R.hifSetsShadowDies.key,
          R.hifSetActiveIdImageId.key, R.hifSetShadowIdImageId.key, R.hifSetsSwapPending.key, R.cntSwap.key, R.pwrPhasePhase.key,
          R.pwrOpTarget.key, R.tnsGauzeTaintAny.key] := by
  obtain ⟨xact, xsha, xf, xset, xk⟩ := State.exchangeSets_spec s
  obtain ⟨yact, ysha, yf, ypend, yswap, yk⟩ := State.settleSwap_spec s.exchangeSets true
  obtain ⟨zact, zsha, zf, zctl, zphase, zk⟩ := State.swapPhase_spec (s.exchangeSets.settleSwap true)
  have hg : ∀ x, (s.swapTaken n).get x = (((s.exchangeSets.settleSwap true).swapPhase).inc R.cntSwap).get x := fun _ => rfl
  have hset : ∀ x : Fld, x.key ∉ [R.pwrPhasePhase.key, R.pwrOpTarget.key, R.cntSwap.key, R.hifSetsSwapPending.key] →
      (s.swapTaken n).get x = s.exchangeSets.get x := fun x hx => by
    simp only [List.mem_cons, List.not_mem_nil, or_false, not_or] at hx
    obtain ⟨hphase, htarget, hcnt, hpend⟩ := hx
    rw [hg, State.inc, State.add, State.get_set_other _ hcnt, zk x (by simp [hphase, htarget]), yk x (by simp [hpend])]
  have hold : (s.exchangeSets.settleSwap true).get R.pwrPhasePhase = s.get R.pwrPhasePhase := (yk _ (by decide)).trans (xk _ (by decide))
  have hphase : (s.swapTaken n).get R.pwrPhasePhase = (s.exchangeSets.settleSwap true).swapPhase.get R.pwrPhasePhase :=
    (hg _).trans (State.get_set_other _ (by decide) _)
  have frame : SwapFrame ((s.exchangeSets.settleSwap true).swapPhase) (s.swapTaken n) := by constructor <;> rfl
  refine ⟨zact.trans (yact.trans xact), zsha.trans (ysha.trans xsha), xf.trans (yf.trans (zf.trans frame)), ?_,
    (congrArg Control.swap zctl).trans yswap, ?_, fun c hc => ?_, ?_⟩
  · refine (State.flag_of_get ?_).trans ypend
    exact (hg _).trans ((State.get_set_other _ (by decide) _).trans (zk _ (by decide)))
  · rw [hg, State.inc, State.add, State.get_set_same, zk _ (by decide), yk _ (by decide), xk _ (by decide)]; rfl
  · obtain ⟨hid, hready⟩ := xset c hc
    obtain ⟨hvalid, hinvalid⟩ := zphase c (yact.trans (xact.trans hc))
    rw [hold] at hvalid hinvalid
    rw [hset _ (by decide), hset _ (by decide), hphase]
    exact ⟨hid, hready, hvalid, hinvalid⟩
  · intro x hx
    refine (hg x).trans (State.keepsRegs.set (f := R.cntSwap) ((xk.mono ?_).trans ((yk.mono ?_).trans (zk.mono ?_))) ?_ _ x hx)
    all_goals decide

/-- Settles O19: SWAP_SET's checks branch by branch, and the swap taken at its boundary. -/
theorem swapExchangesSets : Obligations.SwapExchangesSets := by
  refine ⟨fun f q c s ha hw hm hc hp ho hf => ?accepted, fun f q s ha hw hm => ?refused, fun w s ha hw hn hm => ?taken⟩
  case accepted =>
    have hck : s.accept.swapCheck f q = none := by simp [State.swapCheck, hm, hc, hp, ho, hf]
    obtain ⟨htick, hpend, hop, hswap, hact, hsha, hwide, hk⟩ :=
      State.swapAt_spec (s := s.accept) (f := f) (q := q) (State.wideOp_some hw).2 (effectiveTick s.time.dev)
    have hb := effectiveTick_bounds s.time.dev
    exact ⟨_, _, exec_swapSet_accepted ha hw hck, hb.1, hb.2, htick, hpend, hop, hswap, hact, hsha, hwide, hk⟩
  case refused =>
    obtain ⟨-, hctl, hk⟩ := s.accept_refusal
    refine ⟨fun hc hi => ⟨s.accept, exec_swapSet_refused ha hw ?notReady, hctl, rfl, rfl, hk⟩,
      fun hc hi hs => ⟨s.accept, exec_swapSet_refused ha hw ?noSet, hctl, rfl, rfl, hk⟩,
      fun c hc hp => ⟨s.accept, exec_swapSet_refused ha hw ?swapPending, hctl, rfl, rfl, hk⟩,
      fun c hc hp ho => ⟨s.accept, exec_swapSet_refused ha hw ?dieOffline, hctl, rfl, rfl, hk⟩⟩
    case notReady => simp [State.swapCheck, hm, hc, Option.isSome_iff_ne_none.mp hi]
    case noSet => simp [State.swapCheck, hm, hc, hi, hs, Done.bad, setEmpty]
    case swapPending => simp [State.swapCheck, hm, hc, hp, Done.bad]
    case dieOffline => simp [State.swapCheck, hm, hc, hp, ho]
  case taken =>
    obtain ⟨hact, hsha, hf, hpend, hswap, hcnt, hset, hk⟩ := State.swapTaken_spec s w.tick
    exact ⟨_, exec_swapTakesEffect_of ha hw hn hm, hact, hsha, hpend, hswap, hcnt, hset, hf.ing, hf.cv, hf.ftu, hf.time, hf.lpddr, hf.host, hk⟩

/-! ### Three ways to stop a running device (R323, R324, R346, R424) -/

/-- A STOP descriptor accepted while RUNNING, and begun. -/
theorem exec_stop_of {s : State} {f : Fin 8} {q : Fin 4} {full : Bool} (ha : s.awake = true) (hw : s.wideOp f q = some (.stop full)) :
    exec (.stop f q) s = .next ((s.accept.begin f q).acceptStop (.ring f q) full) := by
  change execStop f q s = _
  simp [execStop, hw, ha]

/-- An urgent doorbell of a READY function with the privilege stops. -/
theorem exec_urgentStop_of {s : State} {f : Fin 8} {v : Word} (hl : s.linkUp = true) (hr : s.ready f = true) (hh : s.halted = false)
    (hp : s.privilege f 1 = true) (hv : bit v.toNat 0 = true) :
    exec (.urgentStop f 4 v) s = .next (s.touch.acceptStop (.urgent f) (bit v.toNat 1)) := by
  change execUrgentStop f 4 v s = _
  have hp' : s.touch.privilege f 1 = true := hp
  simp [execUrgentStop, State.doorbell, State.urgentWrite, hl, hr, hh, hp', hv]

theorem leAt_singleton (b : Byte) : leAt [b] 0 1 = b.toNat := by simp [leAt, slice, leNat]

/-- An I²C STOP in SAIL stops, where STOP_EN allows it, and returns T. -/
theorem exec_i2cStop_of {s : State} {op : Byte} (hs : s.phase = .sail) (hh : s.halted = false) (he : s.flag R.mgtI2cStopEn = true) :
    exec (.i2cStop op) s = .next ((s.touch.acceptStop .i2c (bit op.toNat 0)).i2cReply
      (leBytes ((s.touch.acceptStop .i2c (bit op.toNat 0)).get R.hifStopTickTick) 8)) := by
  change execI2cStop op s = _
  have he' : s.touch.flag R.mgtI2cStopEn = true := he
  simp [execI2cStop, State.i2c, hs, i2cStop, State.serveI2c, State.i2cStopNow, he', hh, leAt_singleton]

/-- Settles O20: each of the three ways is one and the same accepted stop. -/
theorem stopWhileRunning : Obligations.StopWhileRunning := by
  intro s full hrun
  have hb := effectiveTick_bounds s.time.dev
  refine ⟨effectiveTick s.time.dev, hb.1, hb.2, fun f q ha hw => ?stop, fun f v hl hr hh hp hv hfull => ?urgent,
    fun op hs hh he hfull => ?i2c⟩
  case stop =>
    obtain ⟨d, hd, -, -⟩ := State.fetchedOp_some (s := s.accept) (State.wideOp_some hw).2
    obtain ⟨-, bget, bctl, bmem, bwide, blp, btime, -⟩ := State.begin_spec hd
    have hop : (s.accept.begin f q).runningOp f q = some (.stop full) := State.begin_running (State.wideOp_some hw).2
    have bstep : (s.accept.begin f q).stepNs = s.stepNs := by unfold State.stepNs State.getIn; rw [bget]; rfl
    obtain ⟨t, ht, htick, hlast, -, hhold, hstops, h3, hhalt, hsq, hwide, hmem, hlp, -, hk⟩ :=
      State.acceptStop_running (s.accept.begin f q) (.ring f q) full ((bget _).trans hrun)
    rw [btime] at htick hhold hhalt
    rw [bctl] at hhold hstops
    rw [bstep] at hhalt
    refine ⟨t, (exec_stop_of ha hw).trans (by rw [ht]), ?_, hstops, hwide.trans bwide, h3, htick, hlast, hhold, hhalt, hmem.trans bmem,
      hlp.trans blp, State.keepsRegs_cons fun x hrun hstop => (hk x hrun hstop).trans (bget x)⟩
    rw [← hop]; unfold State.runningOp; rw [State.cur_of_sq hsq]
  case urgent =>
    obtain ⟨t, ht, htick, hlast, hurg, hhold, hstops, h3, hhalt, -, -, hmem, hlp, -, hk⟩ :=
      State.acceptStop_running s.touch (.urgent f) full hrun
    exact ⟨t, (exec_urgentStop_of hl hr hh hp hv).trans (by rw [hfull, ht]), hstops, hurg f rfl, h3, htick, hlast, hhold, hhalt, hmem, hlp,
      State.keepsRegs_cons hk⟩
  case i2c =>
    obtain ⟨t, ht, htick, hlast, -, hhold, hstops, h3, hhalt, -, -, hmem, hlp, -, hk⟩ :=
      State.acceptStop_running s.touch .i2c full hrun
    exact ⟨t.i2cReply _, (exec_i2cStop_of hs hh he).trans (by rw [hfull, ht, htick]; rfl), hstops.trans (List.append_nil _), rfl, rfl, h3,
      htick, hlast, hhold, hhalt, hmem, hlp, State.keepsRegs_cons hk⟩

end Sys2Proof.Machine
end

section
/-! SUPPORT and OBLIGATION. Register accesses of PF0 over BAR0: what a 4-byte write and a 4-byte read do (R7, R512–R516). -/

namespace Sys2Proof.Machine

/-! ### The register table (R511, R512) -/

/-- A register found stands in its block's table, with a word at the address. -/
theorem findReg_spec {a : Nat} {l : List RegSpec} {h : RegHit} (hf : findReg a l = some h) : h.spec ∈ l ∧ h.spec.locate a = some (h.lo, h.hi) := by
  induction l with
  | nil => cases hf
  | cons r rs ih =>
    unfold findReg at hf
    split at hf
    · next lo hi hloc => cases hf; exact ⟨List.mem_cons_self, hloc⟩
    · obtain ⟨hm, hl⟩ := ih hf
      exact ⟨List.mem_cons_of_mem _ hm, hl⟩

/-- The LO word of a hit that is no HI half stands at the address itself; only a pair has a HI half. -/
theorem RegSpec.locate_some {r : RegSpec} {a lo : Nat} {hi : Bool} (h : r.locate a = some (lo, hi)) :
    (hi = false → lo = a) ∧ (r.pair = false → hi = false) := by
  unfold RegSpec.locate at h
  grind

/-- A register that is not repeated and no pair stands at its base address only. -/
theorem RegSpec.locate_single {r : RegSpec} {a lo : Nat} {hi : Bool} (hn : r.n = 1) (hn2 : r.n2 = 1) (hp : r.pair = false)
    (h : r.locate a = some (lo, hi)) : a = r.base := by
  simp only [RegSpec.locate, hn, hn2, hp] at h
  grind

/-- A 4-byte register of the MGT block: its row, its address, no HI half. -/
theorem regAt_mgt {a : Nat} {h : RegHit} (h1 : 0x100000 ≤ a) (h2 : a < 0x200000) (hr : regAt a = some h) (hp : h.spec.pair = false) :
    h.spec ∈ tableMgt ∧ h.lo = a ∧ h.hi = false ∧ (h.spec.n = 1 → h.spec.n2 = 1 → a = h.spec.base) := by
  have ht : tableOf a = tableMgt := by
    have : a / 0x100000 = 1 := by omega
    simp [tableOf, this]
  obtain ⟨hm, hloc⟩ := findReg_spec hr
  have hhi := (RegSpec.locate_some hloc).2 hp
  exact ⟨ht ▸ hm, (RegSpec.locate_some hloc).1 hhi, hhi, fun hn hn2 => RegSpec.locate_single hn hn2 hp hloc⟩

/-- Rows of the MGT table: not repeated, fields apart, no W1S and no RC field, and WO fields in the two reset registers only. -/
theorem tableMgt_rows : ∀ r ∈ tableMgt, r.n = 1 ∧ r.n2 = 1 ∧ (r.fields.map (·.lo)).Nodup
    ∧ (∀ f ∈ r.fields, f.acc ≠ .w1s ∧ f.acc ≠ .rc) ∧ (r.base = 0x100024 ∨ r.base = 0x100028 ∨ ∀ f ∈ r.fields, f.acc ≠ .wo) := by
  decide

/-! ### Fields written by access code (R7, R516) -/

/-- A field's part of a written value leaves every other field. -/
theorem State.writeField_get_other (s : State) (lo v : Nat) (f : FieldSpec) {x : Fld} (h : x.key ≠ (f.at lo).key) :
    (s.writeField lo v f).get x = s.get x := by
  unfold State.writeField
  split
  case h_1 | h_2 | h_3 => exact State.get_set_other s h _
  all_goals rfl

/-- What a field holds after a write depends on what that field held before, and on nothing else. -/
theorem State.writeField_get_congr {s t : State} (lo v : Nat) (f : FieldSpec) (h : t.get (f.at lo) = s.get (f.at lo)) :
    (t.writeField lo v f).get (f.at lo) = (s.writeField lo v f).get (f.at lo) := by
  cases hf : f.acc <;> simp [State.writeField, hf, h]

/-- What a field of the register holds after the write: an RW field the value's bits, a W1C field its bits but those written as 1. -/
theorem State.writeField_get (s : State) (lo v : Nat) (f : FieldSpec) (hs : f.acc ≠ .w1s) :
    (s.writeField lo v f).get (f.at lo) = match f.acc with
      | .rw => bits v f.lo f.width
      | .w1c => s.get (f.at lo) &&& (2 ^ f.width - 1 - bits v f.lo f.width)
      | _ => s.get (f.at lo) := by
  have hw : (f.at lo).width = f.width := rfl
  cases hf : f.acc
  case rw => simp [State.writeField, hf, hw, bits]
  case w1c =>
    have hpos : 0 < 2 ^ f.width := Nat.two_pow_pos _
    have hle : s.get (f.at lo) &&& (2 ^ f.width - 1 - bits v f.lo f.width) < 2 ^ f.width :=
      lt_of_le_of_lt Nat.and_le_right (by omega)
    simp [State.writeField, hf, hw, Nat.mod_eq_of_lt hle]
  case w1s => exact absurd hf hs
  all_goals simp [State.writeField, hf]

theorem State.writeFields_get_other (s : State) (lo v : Nat) {fs : List FieldSpec} {x : Fld} (h : ∀ f ∈ fs, x.key ≠ (f.at lo).key) :
    (s.writeFields lo fs v).get x = s.get x := by
  induction fs generalizing s with
  | nil => rfl
  | cons f fs ih =>
    exact (ih (s.writeField lo v f) fun g hg => h g (List.mem_cons_of_mem _ hg)).trans
      (s.writeField_get_other lo v f (h f List.mem_cons_self))

/-- A register write gives each field what its own part of the value gives it. -/
theorem State.writeFields_get (s : State) (lo v : Nat) {fs : List FieldSpec} (hn : (fs.map (·.lo)).Nodup) {g : FieldSpec} (hg : g ∈ fs) :
    (s.writeFields lo fs v).get (g.at lo) = (s.writeField lo v g).get (g.at lo) := by
  have hkey : ∀ {a b : FieldSpec}, a.lo ≠ b.lo → (a.at lo).key ≠ (b.at lo).key := fun h e => by
    simp only [Fld.key, FieldSpec.at] at e; omega
  induction fs generalizing s with
  | nil => cases hg
  | cons f fs ih =>
    rw [List.map_cons, List.nodup_cons] at hn
    have hne : ∀ x ∈ fs, x.lo ≠ f.lo := fun x hx e => hn.1 (e ▸ List.mem_map_of_mem hx)
    change ((s.writeField lo v f).writeFields lo fs v).get (g.at lo) = _
    rcases List.mem_cons.mp hg with rfl | hm
    · exact State.writeFields_get_other _ _ _ fun x hx => hkey (hne x hx).symm
    · rw [ih _ hn.2 hm]
      exact State.writeField_get_congr lo v g (State.writeField_get_other _ _ _ _ (hkey (hne g hm)))

/-- Without WO fields a register reads as its fields, each in its place. -/
theorem State.stored_eq_sum (s : State) (lo : Nat) {fs : List FieldSpec} (h : ∀ f ∈ fs, f.acc ≠ .wo) :
    s.stored lo fs = (fs.map fun f => s.get (f.at lo) * 2 ^ f.lo).sum := by
  refine congrArg List.sum (List.map_congr_left fun f hf => ?_)
  cases ha : f.acc <;> simp_all [State.readField]

/-! ### Accesses over BAR0 (R293, R513) -/

/-- An aligned 4-byte write of PF0 to BAR0 acts on its word. -/
theorem State.pcieWrite_bar0 {s : State} (h : s.served = true) {a : Nat} (ha : a < 0x1000000) (h4 : a % 4 = 0) (v : Word) :
    s.pcieWrite 0 false a 4 v.toNat = s.touch.writeWord 0 a v.toNat := by
  have hv : v.toNat % 4294967296 = v.toNat := Nat.mod_eq_of_lt v.isLt
  simp [State.pcieWrite, State.bus, h, State.writeAct, windowAt, ha, servedWords, h4, hv]

/-- An aligned 4-byte read of PF0 from BAR0 answers its word. -/
theorem State.pcieRead_bar0 {s : State} (h : s.served = true) {a : Nat} (ha : a < 0x1000000) (h4 : a % 4 = 0) :
    s.pcieRead 0 false a 4 = (s.touch.readWord 0 a false).1.answer [(s.touch.readWord 0 a false).2] := by
  simp [State.pcieRead, State.bus, h, State.readAct, windowAt, ha, servedWords, h4]

/-! ### Words written (R514) -/

theorem State.writeWord_plain {a : Nat} {h : RegHit} (hr : regAt a = some h) (hp : h.spec.pair = false) (hhi : h.hi = false) (s : State) (rq v : Nat) :
    s.writeWord rq a v = s.writeReg a h.spec.fields v := by
  simp [State.writeWord, hr, hp, hhi]

/-- A register of the MGT block without a meaning of its own takes a write field by field. -/
theorem State.writeReg_mgt (s : State) {a : Nat} (h1 : 0x100000 ≤ a) (h2 : a < 0x200000) (h3 : a ≠ 0x100024) (h4 : a ≠ 0x100028) (h5 : a ≠ 0x100140)
    (fs : List FieldSpec) (v : Nat) : s.writeReg a fs v = s.writeFields a fs v := by
  have hb : a / 0x100000 = 1 := by omega
  simp [State.writeReg, hb, State.writeMgt, h3, h4, h5]

/-! ### Words read (R515) -/

/-- Addresses whose reads have no meaning of their own: no fraction of a time counter, no capture, not the lifetime data. -/
def commonRead (a : Nat) : Bool :=
  !(decide (fracOf (a - 8) = a) && decide (8 ≤ a)) && !(decide (0x300380 ≤ a) && decide (a < 0x3003C0) && decide (a % 0x10 = 4)) && decide (a ≠ 0xB00004)

/-- The state behind a read of LO word `a`: the high half latched, RC fields taken, the coefficient address moved on. -/
def State.afterRead (s : State) (rq a : Nat) (h : RegHit) : State :=
  let v := s.view a h.spec.fields
  ((s.when h.spec.pair fun s => s.latchHigh rq a v h.spec.fields).consume a h.spec.fields).when (a == 0x800018) (·.nextCoef)

theorem State.readWord_common {a : Nat} {h : RegHit} (hr : regAt a = some h) (hlo : h.lo = a) (hhi : h.hi = false) (hc : commonRead a = true)
    (s : State) (rq : Nat) : s.readWord rq a false = (s.afterRead rq a h, s.view a h.spec.fields % 2 ^ 32) := by
  simp only [commonRead, Bool.and_eq_true, Bool.not_eq_true', Bool.and_eq_false_iff, decide_eq_false_iff_not, decide_eq_true_eq] at hc
  obtain ⟨⟨hfrac, hcap⟩, hlif⟩ := hc
  have hfrac' : ¬(fracOf (a - 8) = a ∧ 8 ≤ a) := by tauto
  have hcap' : ¬(0x300380 ≤ a ∧ a < 0x3003C0 ∧ a % 0x10 = 4) := by tauto
  simp only [State.readWord, hr, hlo, hhi, hlif, hfrac']
  simp [hcap', State.when_true, State.afterRead]

/-- A HI half is given out as latched, or as it stands where nothing is latched. -/
theorem State.readWord_hi {a : Nat} {h : RegHit} (hr : regAt a = some h) (hhi : h.hi = true) (s : State) (rq : Nat) (keep : Bool) :
    s.readWord rq a keep = s.takeLatch (latchKey rq h.lo) (s.view h.lo h.spec.fields / 2 ^ 32 % 2 ^ 32) := by
  simp [State.readWord, hr, hhi]

theorem ofNat_mod_word (n : Nat) : BitVec.ofNat 32 (n % 2 ^ 32) = BitVec.ofNat 32 n := by
  apply BitVec.eq_of_toNat_eq; simp

/-- A word returned to the host is its value cut to 32 bits. -/
theorem State.answer_word (s : State) (n : Nat) : (s.answer [n % 2 ^ 32]).host.rdata = [BitVec.ofNat 32 n] :=
  congrArg (fun w => [w]) (ofNat_mod_word n)

@[simp] theorem State.putLatch_rd (s : State) (k v : Nat) : (s.putLatch k v).latch.rd = SMap.put k (BitVec.ofNat 32 v) s.latch.rd := (rfl)

/-- A latched HI half is given out once. -/
theorem State.takeLatch_some {s : State} {k : Nat} {w : Word} (h : SMap.find? k s.latch.rd = some w) (now : Nat) :
    (s.takeLatch k now).2 = w.toNat ∧ SMap.find? k (s.takeLatch k now).1.latch.rd = none := by
  unfold State.takeLatch
  rw [h]
  exact ⟨rfl, SMap.find?_del_same _ _⟩

theorem State.takeLatch_none {s : State} {k : Nat} (h : SMap.find? k s.latch.rd = none) (now : Nat) : s.takeLatch k now = (s, now) := by
  simp [State.takeLatch, h]

/-- A read takes nothing from a register without RC fields. -/
theorem State.consume_of_noRc (s : State) {lo : Nat} {fs : List FieldSpec} (hl : lo ≠ 0x800024) (h : ∀ f ∈ fs, f.acc ≠ .rc) : s.consume lo fs = s := by
  have he : fs.filter (fun f => f.acc == .rc) = [] := List.filter_eq_nil_iff.mpr fun f hf => by simp [h f hf]
  simp [State.consume, hl, he, State.each_nil]

/-- The state behind a read of a register without RC fields, which is no pair and not the coefficient data, is the state before. -/
theorem State.afterRead_plain (s : State) (rq : Nat) {a : Nat} {h : RegHit} (hp : h.spec.pair = false) (hg : a ≠ 0x800024) (hc : a ≠ 0x800018)
    (hrc : ∀ f ∈ h.spec.fields, f.acc ≠ .rc) : s.afterRead rq a h = s := by
  rw [State.afterRead, State.when_false _ hp, State.consume_of_noRc _ hg hrc, State.when_false _ (by simpa using hc)]

/-- The state behind a read of the LO half of a pair without RC fields: the high half latched. -/
theorem State.afterRead_pair (s : State) (rq : Nat) {a : Nat} {h : RegHit} (hp : h.spec.pair = true) (hg : a ≠ 0x800024) (hc : a ≠ 0x800018)
    (hrc : ∀ f ∈ h.spec.fields, f.acc ≠ .rc) : s.afterRead rq a h = s.latchHigh rq a (s.view a h.spec.fields) h.spec.fields := by
  rw [State.afterRead, State.when_true _ hp, State.consume_of_noRc _ hg hrc, State.when_false _ (by simpa using hc)]

/-- A register of the MGT block other than MGT_REEF_STATUS reads as it is stored. -/
theorem State.view_mgt (s : State) {a : Nat} (h1 : 0x100000 ≤ a) (h2 : a < 0x200000) (h3 : a ≠ 0x10000C) (fs : List FieldSpec) :
    s.view a fs = s.stored a fs := by
  unfold State.view
  repeat rw [if_neg (by omega)]

theorem commonRead_mgt {a : Nat} (h1 : 0x100000 ≤ a) (h2 : a < 0x200000) : commonRead a = true := by
  have hf : fracOf (a - 8) ≠ a := by unfold fracOf; split_ifs <;> omega
  have hc : ¬ 0x300380 ≤ a := by omega
  have hl : a ≠ 0xB00004 := by omega
  simp [commonRead, hf, hc, hl]

/-! ### Plain MGT registers (R7) -/

/-- A 4-byte write to a plain MGT register writes its fields. -/
theorem State.writeWord_mgt (s : State) {a : Nat} {h : RegHit} (h1 : 0x100000 ≤ a) (h2 : a < 0x200000) (hr : regAt a = some h)
    (hp : h.spec.pair = false) (h3 : a ≠ 0x100024) (h4 : a ≠ 0x100028) (h5 : a ≠ 0x100140) (rq v : Nat) :
    s.writeWord rq a v = s.writeFields a h.spec.fields v := by
  obtain ⟨-, -, hhi, -⟩ := regAt_mgt h1 h2 hr hp
  rw [State.writeWord_plain hr hp hhi, State.writeReg_mgt s h1 h2 h3 h4 h5]

/-- A 4-byte read of a plain MGT register answers its fields and takes nothing. -/
theorem State.readWord_mgt (s : State) {a : Nat} {h : RegHit} (h1 : 0x100000 ≤ a) (h2 : a < 0x200000) (hr : regAt a = some h)
    (hp : h.spec.pair = false) (h3 : a ≠ 0x10000C) (h4 : a ≠ 0x100024) (h5 : a ≠ 0x100028) (rq : Nat) :
    s.readWord rq a false = (s, (h.spec.fields.map fun g => s.get (g.at a) * 2 ^ g.lo).sum % 2 ^ 32) := by
  obtain ⟨hm, hlo, hhi, hbase⟩ := regAt_mgt h1 h2 hr hp
  obtain ⟨hn, hn2, -, hacc, hwo⟩ := tableMgt_rows _ hm
  have hwo' : ∀ f ∈ h.spec.fields, f.acc ≠ .wo := by
    have ha := hbase hn hn2
    rcases hwo with e | e | e
    · exact absurd (ha.trans e) h4
    · exact absurd (ha.trans e) h5
    · exact e
  rw [State.readWord_common hr hlo hhi (commonRead_mgt h1 h2),
    State.afterRead_plain s rq hp (by omega) (by omega) fun f hf => (hacc f hf).2, State.view_mgt s h1 h2 h3, State.stored_eq_sum s a hwo']

/-! ### A pair (R514, R515): MGT_ALARM -/

/-- The fields of MGT_ALARM. -/
def alarmFields : List FieldSpec := [⟨0, 64, .rw, 0, .a⟩]

theorem regAt_alarm_lo : ∃ h, regAt 0x100018 = some h ∧ h.lo = 0x100018 ∧ h.hi = false ∧ h.spec.pair = true ∧ h.spec.fields = alarmFields :=
  ⟨_, rfl, rfl, rfl, rfl, rfl⟩

theorem regAt_alarm_hi : ∃ h, regAt 0x10001C = some h ∧ h.lo = 0x100018 ∧ h.hi = true ∧ h.spec.pair = true ∧ h.spec.fields = alarmFields :=
  ⟨_, rfl, rfl, rfl, rfl, rfl⟩

theorem State.view_alarm (s : State) : s.view 0x100018 alarmFields = s.get R.mgtAlarmNs := by
  rw [State.view_mgt s (by decide) (by decide) (by decide)]
  exact Nat.mul_one _

/-- A write to ALARM's LO half is latched. -/
theorem State.writeWord_alarm_lo (s : State) (rq : Nat) (v : Word) :
    s.writeWord rq 0x100018 v.toNat = { s with latch := { s.latch with wr := SMap.put (latchKey rq 0x100018) v s.latch.wr } } := by
  obtain ⟨h, hr, -, hhi, hp, hf⟩ := regAt_alarm_lo
  have hw : h.spec.writable = true := by rw [RegSpec.writable, hf]; rfl
  simp [State.writeWord, hr, hhi, hp, hw]

/-- A write to ALARM's HI half joins the latched LO half. -/
theorem State.writeWord_alarm_hi (s : State) (rq v : Nat) :
    s.writeWord rq 0x10001C v = (s.joinPair rq 0x100018 (s.get R.mgtAlarmNs) v).1.writeFields 0x100018 alarmFields
      (s.joinPair rq 0x100018 (s.get R.mgtAlarmNs) v).2 := by
  obtain ⟨h, hr, hlo, hhi, hp, hf⟩ := regAt_alarm_hi
  have hw : h.spec.writable = true := by rw [RegSpec.writable, hf]; rfl
  simp [State.writeWord, hr, hlo, hhi, hp, hw, hf, State.view_alarm, State.writeReg_mgt]

/-- The pair joined: LO from the latch or the register, and the latch emptied. -/
theorem State.joinPair_spec (s : State) (rq lo cur hi : Nat) :
    (s.joinPair rq lo cur hi).2 = (match SMap.find? (latchKey rq lo) s.latch.wr with | some w => w.toNat | none => cur % 2 ^ 32) + 2 ^ 32 * hi
      ∧ SMap.find? (latchKey rq lo) (s.joinPair rq lo cur hi).1.latch.wr = none
      ∧ (∀ k, k ≠ latchKey rq lo → SMap.find? k (s.joinPair rq lo cur hi).1.latch.wr = SMap.find? k s.latch.wr)
      ∧ ∀ x, (s.joinPair rq lo cur hi).1.get x = s.get x := by
  unfold State.joinPair
  cases h : SMap.find? (latchKey rq lo) s.latch.wr with
  | some w => exact ⟨rfl, SMap.find?_del_same _ _, fun k hk => SMap.find?_del_ne hk _, fun _ => rfl⟩
  | none => exact ⟨rfl, h, fun _ _ => rfl, fun _ => rfl⟩

theorem bits_zero_mod (v w : Nat) : bits v 0 w % 2 ^ w = v % 2 ^ w := by simp [bits]

/-- The value written to ALARM. -/
theorem State.writeFields_alarm (s : State) (v : Nat) : s.writeFields 0x100018 alarmFields v = s.set R.mgtAlarmNs (bits v 0 64) := rfl

theorem State.readWord_alarm_lo (s : State) :
    s.readWord 0 0x100018 false = (s.putLatch (latchKey 0 0x100018) (s.get R.mgtAlarmNs / 2 ^ 32), s.get R.mgtAlarmNs % 2 ^ 32) := by
  obtain ⟨h, hr, hlo, hhi, hp, hf⟩ := regAt_alarm_lo
  rw [State.readWord_common hr hlo hhi (by decide), State.afterRead_pair s 0 hp (by decide) (by decide) (by rw [hf]; decide), hf, State.view_alarm]
  rfl

theorem State.readWord_alarm_hi (s : State) :
    s.readWord 0 0x10001C false = s.takeLatch (latchKey 0 0x100018) (s.get R.mgtAlarmNs / 2 ^ 32 % 2 ^ 32) := by
  obtain ⟨h, hr, hlo, hhi, -, hf⟩ := regAt_alarm_hi
  rw [State.readWord_hi hr hhi, hlo, hf, State.view_alarm]

/-! ### Reads with a meaning of their own (R7, R245, R261, R377, R383) -/

/-- A LO read of the time counter latches the high half of the whole ns, and the fraction. -/
theorem State.readWord_time (s : State) :
    s.readWord 0 0x300000 false = ((s.putLatch (latchKey 0 0x300000) (s.time.dev / 2 ^ 32 / 2 ^ 32)).putLatch (latchKey 0 0x300008) (s.time.dev % 2 ^ 32),
      s.time.dev / 2 ^ 32 % 2 ^ 32) := by
  obtain ⟨h, hr, hlo, hhi, hp, hf⟩ : ∃ h, regAt 0x300000 = some h ∧ h.lo = 0x300000 ∧ h.hi = false ∧ h.spec.pair = true
    ∧ h.spec.fields = [⟨0, 64, .ro, 0, .w⟩] := ⟨_, rfl, rfl, rfl, rfl, rfl⟩
  rw [State.readWord_common hr hlo hhi (by decide), State.afterRead_pair s 0 hp (by decide) (by decide) (by rw [hf]; decide), hf]
  rfl

/-- The fields of FAB_STATUS. -/
def fabStatusFields : List FieldSpec := [⟨0, 8, .rc, 0, .s⟩, ⟨8, 1, .ro, 0, .s⟩, ⟨16, 1, .w1c, 0, .s⟩, ⟨17, 1, .w1c, 0, .s⟩, ⟨18, 1, .w1c, 0, .s⟩]

theorem State.view_fabStatus (s : State) : s.view 0x700080 fabStatusFields = s.get R.fabStatusSlipMax + 2 ^ 8 * s.get R.fabStatusShedding
    + 2 ^ 16 * s.get R.fabStatusRunWrite + 2 ^ 17 * s.get R.fabStatusPoison + 2 ^ 18 * s.get R.fabStatusFold := by
  have hv : s.view 0x700080 fabStatusFields = s.stored 0x700080 fabStatusFields := rfl
  have hl : (fabStatusFields.map fun f => s.get (f.at 0x700080) * 2 ^ f.lo) = [s.get R.fabStatusSlipMax * 2 ^ 0, s.get R.fabStatusShedding * 2 ^ 8,
      s.get R.fabStatusRunWrite * 2 ^ 16, s.get R.fabStatusPoison * 2 ^ 17, s.get R.fabStatusFold * 2 ^ 18] := rfl
  have hsum : ∀ a b c d e : Nat, [a, b, c, d, e].sum = a + (b + (c + (d + e))) := by simp
  rw [hv, State.stored_eq_sum s _ (by decide), hl, hsum]
  ring

/-- A read of FAB_STATUS answers its five fields and clears SLIP_MAX, its RC field. -/
theorem State.readWord_fabStatus (s : State) :
    s.readWord 0 0x700080 false = (s.set R.fabStatusSlipMax 0, (s.get R.fabStatusSlipMax + 2 ^ 8 * s.get R.fabStatusShedding
      + 2 ^ 16 * s.get R.fabStatusRunWrite + 2 ^ 17 * s.get R.fabStatusPoison + 2 ^ 18 * s.get R.fabStatusFold) % 2 ^ 32) := by
  obtain ⟨h, hr, hlo, hhi, hp, hf⟩ : ∃ h, regAt 0x700080 = some h ∧ h.lo = 0x700080 ∧ h.hi = false ∧ h.spec.pair = false
    ∧ h.spec.fields = fabStatusFields := ⟨_, rfl, rfl, rfl, rfl, rfl⟩
  rw [State.readWord_common hr hlo hhi (by decide), hf, State.view_fabStatus, State.afterRead, State.when_false _ hp,
    State.when_false _ (by decide), hf]
  rfl

/-- A read of a capture's LO half answers what the capture FIFO gives. -/
theorem State.readWord_capture (s : State) (c : Fin 4) : s.readWord 0 (R.timTciCapStamp c).addr false = s.readCapLo 0 c := by
  have hr : ∀ c : Fin 4, ∃ h, regAt (R.timTciCapStamp c).addr = some h ∧ h.hi = false := by
    intro c; fin_cases c <;> exact ⟨_, rfl, rfl⟩
  have ha : ∀ c : Fin 4, ¬(fracOf ((R.timTciCapStamp c).addr - 8) = (R.timTciCapStamp c).addr ∧ 8 ≤ (R.timTciCapStamp c).addr)
      ∧ (0x300380 ≤ (R.timTciCapStamp c).addr ∧ (R.timTciCapStamp c).addr < 0x3003C0 ∧ (R.timTciCapStamp c).addr % 0x10 = 4)
      ∧ ((R.timTciCapStamp c).addr - 0x300380) / 0x10 = c := by decide
  obtain ⟨h, hreg, hhi⟩ := hr c
  obtain ⟨hfrac, hcap, hidx⟩ := ha c
  simp [State.readWord, hreg, hhi, hfrac, hcap, hidx]

/-- The fields of the GNSS receive register. -/
def gnssFields : List FieldSpec := [⟨0, 8, .rc, 0, .s⟩, ⟨8, 1, .rc, 0, .s⟩]

/-- The oldest GNSS byte shows with its VALID bit; an empty FIFO shows 0. -/
theorem State.view_gnss (s : State) :
    (∀ b l, s.flt.gnss = b :: l → s.view 0x800024 gnssFields = b.toNat + 256) ∧ (s.flt.gnss = [] → s.view 0x800024 gnssFields = 0) := by
  constructor
  · intro b l h; simp [State.view, h]
  · intro h; simp [State.view, h]

/-- A read of the GNSS receive register takes the oldest byte. -/
theorem State.readWord_gnss (s : State) : s.readWord 0 0x800024 false = (s.popGnss, s.view 0x800024 gnssFields % 2 ^ 32) := by
  obtain ⟨h, hr, hlo, hhi, hp, hf⟩ : ∃ h, regAt 0x800024 = some h ∧ h.lo = 0x800024 ∧ h.hi = false ∧ h.spec.pair = false ∧ h.spec.fields = gnssFields :=
    ⟨_, rfl, rfl, rfl, rfl, rfl⟩
  rw [State.readWord_common hr hlo hhi (by decide), State.afterRead, State.when_false _ hp, State.when_false _ (by decide), hf]
  rfl

theorem regAt_coefData : ∃ h, regAt 0x800018 = some h ∧ h.lo = 0x800018 ∧ h.hi = false ∧ h.spec.pair = false
    ∧ h.spec.fields = [⟨0, 16, .rw, 0, .w⟩] := ⟨_, rfl, rfl, rfl, rfl, rfl⟩

/-- A read of the coefficient data answers the addressed coefficient and moves the address on. -/
theorem State.readWord_coef (s : State) :
    s.readWord 0 0x800018 false = (s.nextCoef, SMap.get s.flt.coef 0 (s.get R.fltCoefAddrAddr) % 2 ^ 32) := by
  obtain ⟨h, hr, hlo, hhi, hp, hf⟩ := regAt_coefData
  rw [State.readWord_common hr hlo hhi (by decide), State.afterRead, State.when_false _ hp,
    State.consume_of_noRc s (by decide) (by rw [hf]; decide), State.when_true _ (by decide), hf]
  rfl

/-- A write of the coefficient data is a coefficient write. -/
theorem State.writeWord_coef (s : State) (rq v : Nat) : s.writeWord rq 0x800018 v = s.writeCoef v := by
  obtain ⟨h, hr, -, hhi, hp, -⟩ := regAt_coefData
  rw [State.writeWord_plain hr hp hhi]
  rfl

/-! ### What the accesses do -/

/-- A 4-byte write of PF0 to BAR0, as any of the commands that write there. -/
theorem exec_write_bar0 {s : State} (h : s.served = true) {a : Nat} (ha : a < 0x1000000) (h4 : a % 4 = 0) (v : Word) :
    exec (.registerWrite 0 .bar0 a 4 (v.setWidth 64)) s = .next (s.touch.writeWord 0 a v.toNat)
      ∧ exec (.loWrite 0 .bar0 a v) s = .next (s.touch.writeWord 0 a v.toNat)
      ∧ exec (.hiWrite 0 .bar0 a v) s = .next (s.touch.writeWord 0 a v.toNat) := by
  have hv : (v.setWidth 64).toNat = v.toNat := BitVec.toNat_setWidth_of_le (by decide)
  rw [← State.pcieWrite_bar0 h ha h4 v]
  refine ⟨?_, rfl, rfl⟩
  change Host.Outcome.next (s.pcieWrite 0 false a 4 (v.setWidth 64).toNat) = _
  rw [hv]

/-- A 4-byte read of PF0 from BAR0, where the word read is known. -/
theorem exec_read_bar0 {s t : State} (h : s.served = true) {a n : Nat} (ha : a < 0x1000000) (h4 : a % 4 = 0)
    (hr : s.touch.readWord 0 a false = (t, n)) :
    exec (.loRead 0 .bar0 a 4) s = .next (t.answer [n]) ∧ exec (.rcRead 0 .bar0 a) s = .next (t.answer [n]) := by
  have e := State.pcieRead_bar0 h ha h4
  rw [hr] at e
  exact ⟨congrArg Host.Outcome.next e, congrArg Host.Outcome.next e⟩

/-- The data commands of the filter chain come down to the words behind them (R245, R261). -/
theorem exec_gnssRxRead_eq {s : State} (h : s.served = true) :
    exec .gnssRxRead s = .next (s.touch.popGnss.answer [s.touch.view 0x800024 gnssFields % 2 ^ 32]) :=
  (exec_read_bar0 h (by decide) (by decide) s.touch.readWord_gnss).1

theorem exec_coefDataAccess_read {s : State} (h : s.served = true) :
    exec (.coefDataAccess none) s = .next (s.touch.nextCoef.answer [SMap.get s.flt.coef 0 (s.get R.fltCoefAddrAddr) % 2 ^ 32]) :=
  (exec_read_bar0 h (by decide) (by decide) s.touch.readWord_coef).1

theorem exec_coefDataAccess_write {s : State} (h : s.served = true) (v : Word) :
    exec (.coefDataAccess (some v)) s = .next (s.touch.writeCoef v.toNat) :=
  ((exec_write_bar0 h (by decide) (by decide) v).2.1).trans (congrArg _ (s.touch.writeWord_coef 0 v.toNat))

/-- A plain MGT register, written and read. -/
theorem mgt_access {a : Nat} {h : RegHit} (v : Word) {s : State} (hs : s.served = true) (h1 : 0x100000 ≤ a) (h2 : a < 0x200000) (h4 : a % 4 = 0)
    (hr : regAt a = some h) (hp : h.spec.pair = false) (hreef : a ≠ 0x10000C) (hsoft : a ≠ 0x100024) (hdie : a ≠ 0x100028) (hpad : a ≠ 0x100140) :
    exec (.registerWrite 0 .bar0 a 4 (v.setWidth 64)) s = .next (s.touch.writeFields a h.spec.fields v.toNat)
      ∧ exec (.loRead 0 .bar0 a 4) s = .next (s.touch.answer [(h.spec.fields.map fun g => s.get (g.at a) * 2 ^ g.lo).sum % 2 ^ 32]) := by
  refine ⟨(exec_write_bar0 hs (by omega) h4 v).1.trans ?_, (exec_read_bar0 hs (by omega) h4 ?_).1⟩
  · rw [State.writeWord_mgt s.touch h1 h2 hr hp hsoft hdie hpad]
  · rw [State.readWord_mgt s.touch h1 h2 hr hp hreef hsoft hdie]; rfl

/-- A capture read: the oldest stamp, its high half latched, the FIFO and its count behind it. -/
theorem State.readCapLo_cons {s : State} {c x : Nat} {l : List Nat} (h : s.captures c = x :: l) (rq : Nat) :
    s.readCapLo rq c = ((s.setCaptures c l).putLatch (latchKey rq (R.timTciCapStamp c).addr) (x / 2 ^ 32), x % 2 ^ 32) := by
  simp only [State.readCapLo, h, State.putLatch]

theorem State.readCapLo_nil {s : State} {c : Nat} (h : s.captures c = []) (rq : Nat) :
    s.readCapLo rq c = (s.putLatch (latchKey rq (R.timTciCapStamp c).addr) 0, 0) := by
  simp only [State.readCapLo, h, State.putLatch]
  rfl

/-- CAP_LO_READ, where what the capture FIFO gives is known. -/
theorem exec_capLoRead_of {s t : State} (h : s.served = true) (c : Fin 4) {n : Nat} (hr : s.touch.readCapLo 0 c = (t, n)) :
    exec (.capLoRead c) s = .next (t.answer [n]) := by
  have ha : ∀ c : Fin 4, (R.timTciCapStamp c).addr < 0x1000000 ∧ (R.timTciCapStamp c).addr % 4 = 0 := by decide
  exact (exec_read_bar0 h (ha c).1 (ha c).2 ((s.touch.readWord_capture c).trans hr)).1

theorem State.captures_setCaptures (s : State) (c : Nat) (l : List Nat) : (s.setCaptures c l).captures c = l := SMap.get_set_same _ _ _ _

/-- A coefficient write: the coefficient that no enabled channel uses, or the RUN_WRITE flag (R260); the address moves on. -/
theorem State.writeCoef_spec (s : State) (v : Nat) :
    (s.coefUsed (s.get R.fltCoefAddrAddr) = false → s.writeCoef v = (s.setFlt { s.flt with coef := SMap.set s.flt.coef 0 (s.get R.fltCoefAddrAddr) (v % 65536) }).nextCoef)
      ∧ (s.coefUsed (s.get R.fltCoefAddrAddr) = true → s.writeCoef v = s.fltRunWrite.nextCoef) := by
  constructor <;> intro h <;> simp [State.writeCoef, h]

theorem State.nextCoef_get (s : State) : s.nextCoef.get R.fltCoefAddrAddr = (s.get R.fltCoefAddrAddr + 1) % 2 ^ 12 := State.get_set_same _ _ _

theorem State.keepsRegs_nextCoef (s : State) {ks : List Nat} (h : R.fltCoefAddrAddr.key ∈ ks) : s.keepsRegs s.nextCoef ks :=
  (s.keepsRegs_refl ks).set h _

/-- Settles O37: each access comes down to its word, and the word's lemma says what it does. -/
theorem registerAccessEffects : Obligations.RegisterAccessEffects := by
  refine ⟨fun a h v s hs h1 h2 h4 hr hp hreef hsoft hdie hpad => ?mgt, fun v s hs => ⟨?alarmLoWrite, ?alarmHiWrite⟩,
    fun s hs => ⟨?alarmLoRead, fun w hw => ?alarmHiLatched, fun hw => ?alarmHiRead, ?timeRead, ?fabStatusRead, fun c x l hc => ?captureRead,
      fun c hc => ?captureEmpty, fun b l hb => ?gnssRead, fun hb => ?gnssEmpty, ?coefRead, fun v hu => ?coefWrite, fun v hu => ?coefIgnored⟩⟩
  case mgt =>
    obtain ⟨hw, hrd⟩ := mgt_access v hs h1 h2 h4 hr hp hreef hsoft hdie hpad
    obtain ⟨-, -, hnodup, hacc, -⟩ := tableMgt_rows _ (regAt_mgt h1 h2 hr hp).1
    exact ⟨⟨_, hw, fun g hg => (s.touch.writeFields_get a v.toNat hnodup hg).trans (s.touch.writeField_get a v.toNat g (hacc g hg).1),
      fun x hx => s.touch.writeFields_get_other a v.toNat hx⟩, _, hrd, fun _ _ => rfl, s.touch.answer_word _⟩
  case alarmLoWrite =>
    exact ⟨_, ((exec_write_bar0 hs (by decide) (by decide) v).2.1).trans (congrArg _ (s.touch.writeWord_alarm_lo 0 v)),
      SMap.find?_put_same _ _ _, fun _ _ => rfl⟩
  case alarmHiWrite =>
    obtain ⟨hval, hnone, hother, hget⟩ := State.joinPair_spec s.touch 0 0x100018 (s.get R.mgtAlarmNs) v.toNat
    refine ⟨_, ((exec_write_bar0 hs (by decide) (by decide) v).2.2).trans (congrArg _ (s.touch.writeWord_alarm_hi 0 v.toNat)),
      hnone, ?_, hother, fun x hx => ?_⟩
    · exact (State.get_set_same _ R.mgtAlarmNs _).trans ((bits_zero_mod _ 64).trans (congrArg (· % 2 ^ 64) hval))
    · rw [State.get_touch, State.writeFields_alarm, State.get_set_other _ (by simpa using hx), hget, State.get_touch]
  case alarmLoRead =>
    exact ⟨_, (exec_read_bar0 hs (by decide) (by decide) s.touch.readWord_alarm_lo).1, State.answer_word _ _, SMap.find?_put_same _ _ _, fun _ _ => rfl⟩
  case alarmHiLatched =>
    obtain ⟨hval, hnone⟩ := State.takeLatch_some (s := s.touch) hw (s.get R.mgtAlarmNs / 2 ^ 32 % 2 ^ 32)
    refine ⟨_, (exec_read_bar0 hs (by decide) (by decide) s.touch.readWord_alarm_hi).1, ?_, hnone⟩
    exact (congrArg (fun n => [BitVec.ofNat 32 n]) hval).trans (by rw [BitVec.ofNat_toNat, BitVec.setWidth_eq])
  case alarmHiRead =>
    have hread := s.touch.readWord_alarm_hi.trans (State.takeLatch_none (s := s.touch) hw _)
    exact ⟨_, (exec_read_bar0 hs (by decide) (by decide) hread).1, State.answer_word _ _⟩
  case timeRead =>
    refine ⟨_, (exec_read_bar0 hs (by decide) (by decide) s.touch.readWord_time).1, State.answer_word _ _, ?_, ?_, fun _ _ => rfl⟩
    · rw [State.answer_latch, State.putLatch_rd, SMap.find?_put_ne (by decide), State.putLatch_rd, SMap.find?_put_same, State.touch_time,
        Nat.div_div_eq_div_mul]
      rfl
    · rw [State.answer_latch, State.putLatch_rd, SMap.find?_put_same, ofNat_mod_word, State.touch_time]
  case fabStatusRead =>
    exact ⟨_, (exec_read_bar0 hs (by decide) (by decide) s.touch.readWord_fabStatus).2, State.get_set_same s.touch R.fabStatusSlipMax 0,
      State.answer_word _ _, (s.touch.keepsRegs_refl _).set (f := R.fabStatusSlipMax) (by simp) 0⟩
  case captureRead =>
    exact ⟨_, exec_capLoRead_of hs c (State.readCapLo_cons (s := s.touch) hc 0), State.answer_word _ _, s.touch.captures_setCaptures c l,
      State.get_set_same _ _ _, SMap.find?_put_same _ _ _, fun x hx => State.get_set_other (s.touch.setTime _) (by simpa using hx) _⟩
  case captureEmpty =>
    exact ⟨_, exec_capLoRead_of hs c (State.readCapLo_nil (s := s.touch) hc 0), rfl, fun _ _ => rfl⟩
  case gnssRead =>
    refine ⟨_, exec_gnssRxRead_eq hs, ?_, congrArg List.tail hb, fun _ _ => rfl⟩
    rw [State.answer_word, s.touch.view_gnss.1 b l hb]
  case gnssEmpty =>
    refine ⟨_, exec_gnssRxRead_eq hs, ?_, fun _ _ => rfl⟩
    rw [State.answer_word, s.touch.view_gnss.2 hb]
    rfl
  case coefRead =>
    exact ⟨_, exec_coefDataAccess_read hs, State.answer_word _ _, s.touch.nextCoef_get, rfl, s.touch.keepsRegs_nextCoef (by simp)⟩
  case coefWrite =>
    exact ⟨_, (exec_coefDataAccess_write hs v).trans (congrArg _ ((s.touch.writeCoef_spec _).1 hu)), SMap.get_set_same _ _ _ _,
      State.nextCoef_get _, State.keepsRegs_nextCoef _ (by simp)⟩
  case coefIgnored =>
    have hk := (s.touch.keepsRegs_refl [R.fltStatusRunWrite.key, R.fltCoefAddrAddr.key]).setFlag (f := R.fltStatusRunWrite) (by simp) true
    refine ⟨_, (exec_coefDataAccess_write hs v).trans (congrArg _ ((s.touch.writeCoef_spec _).2 hu)), rfl, ?_,
      hk.trans (State.keepsRegs_nextCoef _ (by simp))⟩
    exact (State.get_set_other _ (by decide) _).trans (State.get_setFlag_same _ _ _ (by decide))

end Sys2Proof.Machine
end

section
/-! SUPPORT and OBLIGATIONS. The invariant of a well-formed state, and the passing of time with its slews (R21, R22, R358, R361, R363, R511). -/

namespace Sys2Proof.Machine

/-! ### The invariant kept by the elementary updates -/

/-- Inv speaks of four parts of the state alone. -/
theorem State.Inv.congr {s t : State} (h : s.Inv) (hl : t.lpddr = s.lpddr) (hr : t.regs = s.regs) (hm : t.host.mem = s.host.mem)
    (ht : t.time = s.time) : t.Inv :=
  ⟨hl ▸ h.lpddr, hr ▸ h.regs, hm ▸ h.mem, ht ▸ h.followers⟩

theorem SMap.sorted_foldl_put {α β : Type} (key : β → Nat) (val : β → α) {l : List β} {m : SMap α} (hm : SMap.sorted m = true) :
    SMap.sorted (l.foldl (fun m b => SMap.put (key b) (val b) m) m) = true := by
  induction l generalizing m with
  | nil => exact hm
  | cons b l ih => exact ih (SMap.sorted_put _ _ hm)

/-- Bytes written to host memory leave it in key order. -/
theorem State.post_mem_sorted {s : State} (h : SMap.sorted s.host.mem = true) (f a : Nat) (ro : Bool) (bs : List Byte) :
    SMap.sorted (s.post f a ro bs).host.mem = true :=
  SMap.sorted_foldl_put (fun b : Byte × Nat => f * 2 ^ 64 + (a + b.2) % 2 ^ 64) (·.1) h

theorem stable_inv : Stable State.Inv where
  set f v h := ⟨h.lpddr, State.set_sorted h.regs f v, h.mem, h.followers⟩
  took _ h := h.congr rfl rfl rfl rfl
  regs hv h := ⟨h.lpddr, hv h.regs, h.mem, h.followers⟩
  time hv h := ⟨h.lpddr, h.regs, h.mem, hv h.followers⟩
  host hv h := h.congr rfl rfl hv rfl
  mem f a ro bs h := ⟨h.lpddr, h.regs, State.post_mem_sorted h.mem f a ro bs, h.followers⟩
  halt h := h.congr rfl rfl rfl rfl
  phase h := h.congr rfl rfl rfl rfl
  latch h := h.congr rfl rfl rfl rfl
  deferred h := h.congr rfl rfl rfl rfl
  ing h := h.congr rfl rfl rfl rfl
  cv h := h.congr rfl rfl rfl rfl
  active h := h.congr rfl rfl rfl rfl
  shadow h := h.congr rfl rfl rfl rfl
  tns h := h.congr rfl rfl rfl rfl
  fab h := h.congr rfl rfl rfl rfl
  flt h := h.congr rfl rfl rfl rfl
  ftu h := h.congr rfl rfl rfl rfl
  pwr h := h.congr rfl rfl rfl rfl
  ctl h := h.congr rfl rfl rfl rfl
  reef h := h.congr rfl rfl rfl rfl
  obs h := h.congr rfl rfl rfl rfl
  err h := h.congr rfl rfl rfl rfl

theorem stores_inv : Stores State.Inv := ⟨fun hv h => ⟨hv h.lpddr, h.regs, h.mem, h.followers⟩⟩

theorem empties_inv : Empties State.Inv := ⟨fun h => ⟨rfl, h.regs, h.mem, h.followers⟩⟩

/-- Power-up empties LPDDR5X, keeps a part of the register map in its order and host memory, and starts every counter at 0. -/
theorem restarts_inv : Restarts State.Inv where
  resume h := h.congr rfl rfl rfl rfl
  powerUp h := ⟨rfl, SMap.sorted_filter _ h.regs, h.mem, rfl⟩

theorem exec_keeps_inv {c : Instr} {s t : State} (h : exec c s = .next t) (hs : s.Inv) : t.Inv :=
  exec_keeps stable_inv empties_inv (softResets_of stable_inv empties_inv restarts_inv) (fun _ => stores_inv) (fun _ => restarts_inv) h hs

/-- Settles O3: an idle cycle and every command are made of updates that keep Inv. -/
theorem stepKeepsInv : Obligations.StepKeepsInv := by
  intro s t hs h
  unfold step at h
  split at h
  next => exact Host.Outcome.next.inj h ▸ State.idleCycle_keeps stable_inv s hs
  next => exact exec_keeps_inv h (hs.congr rfl rfl rfl rfl)

/-! ### A slew engine over some cycles (R361) -/

/-- Inside its interval an engine adds what it takes off the remainder. -/
theorem Slew.run_inside {w : Slew} {n : Nat} (h : n < w.left) :
    (w.run n).2.rem + (w.run n).1 = w.rem ∧ (w.run n).2.left + n = w.left := by
  have hrun : w.run n = (w.per * n, { w with rem := w.rem - w.per * n, left := w.left - n }) := if_pos h
  rw [hrun]
  exact ⟨Int.sub_add_cancel _ _, Nat.sub_add_cancel h.le⟩

/-- Past its interval an engine has added the whole remainder and is at rest. -/
theorem Slew.run_past {w : Slew} {n : Nat} (h : w.left ≤ n) : w.run n = (w.rem, {}) := if_neg h.not_gt

/-! ### Time passes (R21, R22, R358, R363) -/

theorem wrapTime_cast (t : Int) : (wrapTime t : Int) = t % 2 ^ 96 := Int.toNat_of_nonneg (Int.emod_nonneg _ (by decide))

/-- A counter that has gained the increments of `n` cycles and an engine's remainder, in its range. -/
theorem wrapTime_gain (c n i : Nat) (r : Int) : (wrapTime (c + (n * i : Nat) + r) : Int) = (c + n * i + r) % 2 ^ 96 := by
  rw [wrapTime_cast, Nat.cast_mul]

/-- Cycles that pass change the time side alone, and count. -/
theorem State.advance_eq_setTime (s : State) (n : Nat) : ∃ v, s.advance n = s.setTime v ∧ v.clk = s.time.clk + n := by
  unfold State.advance
  split
  · exact ⟨_, rfl, rfl⟩
  · exact ⟨_, rfl, rfl⟩

theorem State.advance_dev_stopped {s : State} (h : s.timeRuns = false) (n : Nat) : (s.advance n).time.dev = s.time.dev := by
  simp [State.advance, h]

/-- Device time over cycles past its slew's interval: the increments and the remainder gained, the engine at rest, the followers at the master's count. -/
theorem State.advance_dev_past {s : State} (h : s.timeRuns = true) {n : Nat} (hn : s.time.slew.left ≤ n) :
    (s.advance n).time.slew = {}
      ∧ ((s.advance n).time.dev : Int) = (s.time.dev + n * s.incr R.timIncrIncr + s.time.slew.rem) % 2 ^ 96
      ∧ (s.advance n).time.followers = List.replicate 4 (s.advance n).time.dev := by
  rw [← wrapTime_gain]
  simp [State.advance, h, Slew.run_past hn]

/-- The same for domain A. -/
theorem State.advance_domA_past {s : State} (h : s.timeRuns = true) {n : Nat} (hn : s.time.slewA.left ≤ n) :
    (s.advance n).time.slewA = {}
      ∧ ((s.advance n).time.domA : Int) = (s.time.domA + n * s.incr (R.timDomIncrIncr 0) + s.time.slewA.rem) % 2 ^ 96 := by
  rw [← wrapTime_gain]
  simp [State.advance, h, Slew.run_past hn]

/-- The same for domain B. -/
theorem State.advance_domB_past {s : State} (h : s.timeRuns = true) {n : Nat} (hn : s.time.slewB.left ≤ n) :
    (s.advance n).time.slewB = {}
      ∧ ((s.advance n).time.domB : Int) = (s.time.domB + n * s.incr (R.timDomIncrIncr 1) + s.time.slewB.rem) % 2 ^ 96 := by
  rw [← wrapTime_gain]
  simp [State.advance, h, Slew.run_past hn]

/-- The IDLE1 timer is all that idling touches beside what has passed (R412). -/
theorem State.idleFrom_spec (s t : State) :
    (s.idleFrom t).time = t.time ∧ (s.idleFrom t).pending = t.pending ∧ (s.idleFrom t).regs = t.regs ∧ (s.idleFrom t).lpddr = t.lpddr := by
  unfold State.idleFrom
  split
  · exact ⟨rfl, rfl, rfl, rfl⟩
  · exact ⟨rfl, rfl, rfl, rfl⟩

/-- Cycles of the reference clock that pass idly change no register, no LPDDR5X byte and nothing of the queue. -/
theorem State.idleFrom_advance_spec (s u : State) (n : Nat) :
    (s.idleFrom (u.advance n)).time = (u.advance n).time ∧ (s.idleFrom (u.advance n)).time.clk = u.time.clk + n
      ∧ (s.idleFrom (u.advance n)).pending = u.pending ∧ (∀ g : Fld, (s.idleFrom (u.advance n)).get g = u.get g)
      ∧ (s.idleFrom (u.advance n)).lpddr = u.lpddr := by
  obtain ⟨v, hv, hclk⟩ := u.advance_eq_setTime n
  obtain ⟨htime, hpending, hregs, hlpddr⟩ := s.idleFrom_spec (u.advance n)
  rw [hv] at htime hpending hregs hlpddr ⊢
  exact ⟨htime, htime ▸ hclk, hpending, State.get_of_regs hregs, hlpddr⟩

/-! ### One idle cycle, and the end of a slew's interval -/

theorem State.each_of_fixed {α : Type} {s : State} {l : List α} {f : State → α → State} (h : ∀ x ∈ l, f s x = s) : s.each l f = s := by
  induction l with
  | nil => rfl
  | cons x l ih => rw [State.each_cons, h x List.mem_cons_self, ih fun y hy => h y (List.mem_cons_of_mem x hy)]

/-- Where no CAN frame waits, none leaves its FIFO. -/
theorem State.drainCans_of_empty {s : State} (h : s.awake = true → ∀ c : Fin 4, (s.can c).fifo = []) : s.drainCans = s := by
  unfold State.drainCans
  split
  next ha =>
    refine State.each_of_fixed fun c hc => ?_
    have hfifo : (s.can c).fifo = [] := h ha ⟨c, List.mem_range.1 hc⟩
    rw [hfifo]
    rfl
  next => rfl

/-- On an empty queue, with no CAN frame waiting, one cycle passes (log entry 3). -/
theorem step_of_empty_queue {s : State} (hp : s.pending = []) (hcan : s.awake = true → ∀ c : Fin 4, (s.can c).fifo = []) :
    step s = .next (s.idleFrom (s.advance 1)) := by
  have hstep : step s = .next s.idleCycle := by rw [step, hp]
  rw [hstep, State.idleCycle, State.drainCans_of_empty hcan]

/-- SLEW_INTERVAL_END while the time clock runs: the rest of the engine's interval passes, and no register changes. -/
theorem exec_slewIntervalEnd_spec {s : State} (h : s.timeRuns = true) (k : Fin 3) :
    ∃ t : State, exec (.slewIntervalEnd k) s = .next t ∧ t.time = (s.advance (s.slewOf k).left).time
      ∧ t.time.clk = s.time.clk + (s.slewOf k).left ∧ s.keepsRegs t [] := by
  obtain ⟨htime, hclk, -, hget, -⟩ := s.idleFrom_advance_spec s (s.slewOf k).left
  exact ⟨_, congrArg Host.Outcome.next (if_pos h), htime, hclk, fun x _ => hget x⟩

/-- One cycle of device time with its engine at rest. -/
theorem State.advance_one_dev {s : State} (h : s.timeRuns = true) (hl : s.time.slew.left = 0) (hr : s.time.slew.rem = 0) :
    (s.advance 1).time.dev = (s.time.dev + s.incr R.timIncrIncr) % 2 ^ 96 := by
  obtain ⟨-, hdev, -⟩ := State.advance_dev_past h (n := 1) (by omega)
  rw [hr] at hdev
  omega

/-- Settles O8: what passes is `advance`, whose slew engines run to the end of their interval or stay inside it. -/
theorem timePassesAndSlewIsSpent : Obligations.TimePassesAndSlewIsSpent := by
  refine ⟨fun s hp hcan => ?idle, fun s h => ⟨?device, ?domainA, ?domainB, fun n w hn => Slew.run_inside hn⟩⟩
  case idle =>
    obtain ⟨htime, hclk, hpending, hget, hlpddr⟩ := s.idleFrom_advance_spec s 1
    refine ⟨_, step_of_empty_queue hp hcan, hclk, hpending.trans hp, hget, hlpddr, fun hoff => ?_, fun hon hl hr => ?_⟩
    · exact htime ▸ State.advance_dev_stopped hoff 1
    · obtain ⟨-, -, hfollow⟩ := State.advance_dev_past hon (n := 1) (by omega)
      exact htime ▸ ⟨State.advance_one_dev hon hl hr, hfollow⟩
  case device =>
    obtain ⟨t, ht, htime, hclk, hregs⟩ := exec_slewIntervalEnd_spec h 0
    obtain ⟨hslew, hdev, hfollow⟩ := State.advance_dev_past h (n := s.time.slew.left) le_rfl
    exact ⟨t, ht, htime ▸ hslew, hclk, htime ▸ hdev, htime ▸ hfollow, hregs⟩
  case domainA =>
    obtain ⟨t, ht, htime, -, hregs⟩ := exec_slewIntervalEnd_spec h 1
    obtain ⟨hslew, hdom⟩ := State.advance_domA_past h (n := s.time.slewA.left) le_rfl
    exact ⟨t, ht, htime ▸ hslew, htime ▸ hdom, hregs⟩
  case domainB =>
    obtain ⟨t, ht, htime, -, hregs⟩ := exec_slewIntervalEnd_spec h 2
    obtain ⟨hslew, hdom⟩ := State.advance_domB_past h (n := s.time.slewB.left) le_rfl
    exact ⟨t, ht, htime ▸ hslew, htime ▸ hdom, hregs⟩

end Sys2Proof.Machine
end

section
/-! SUPPORT and OBLIGATION. Ports and their links: enabled, disabled, trained and lost (R65, R66, R74, R75). -/

namespace Sys2Proof.Machine

/-! ### Ports and fields under the updates of ingest -/

@[simp] theorem State.port_setPort (s : State) (p : Nat) (v : Port) : (s.setPort p v).port p = v := SMap.get_set_same _ _ _ _

theorem State.port_setPort_other (s : State) {p r : Nat} (h : r ≠ p) (v : Port) : (s.setPort p v).port r = s.port r := SMap.get_set_ne h _ _ _ _

theorem State.port_of_ing {s t : State} (h : t.ing = s.ing) (p : Nat) : t.port p = s.port p := by unfold State.port; rw [h]

theorem State.get_inc_same (s : State) (f : Fld) : (s.inc f).get f = (s.get f + 1) % 2 ^ f.width := State.get_set_same _ _ _

theorem State.get_inc_other (s : State) {f g : Fld} (h : g.key ≠ f.key) : (s.inc f).get g = s.get g := State.get_set_other s h _

theorem State.keepsRegs.inc {s t : State} {ks : List Nat} (a : s.keepsRegs t ks) {f : Fld} (h : f.key ∈ ks) : s.keepsRegs (t.inc f) ks := a.set h _

theorem State.keepsRegs.when {s t : State} {ks : List Nat} (a : s.keepsRegs t ks) (c : Bool) {f : State → State} (h : s.keepsRegs (f t) ks) :
    s.keepsRegs (t.when c f) ks := by
  cases c
  · exact a
  · exact h

/-- A part of the state that a step keeps, the step under a condition keeps. -/
theorem State.when_same {α : Type} {s : State} {f : State → State} (part : State → α) (h : part (f s) = part s) (c : Bool) :
    part (s.when c f) = part s := by
  cases c
  · rfl
  · exact h

theorem State.keepsRegs.setPort {s t : State} {ks : List Nat} (a : s.keepsRegs t ks) (p : Nat) (v : Port) : s.keepsRegs (t.setPort p v) ks := a

theorem State.get_of_flag_false {s : State} {f : Fld} (h : s.flag f = false) : s.get f = 0 := by simpa [State.flag] using h

theorem State.bus_served {s : State} (h : s.served = true) (m : Held) (act : State → State) : s.bus m act = act s.touch := if_pos h

@[simp] theorem State.touch_stopped (s : State) : s.touch.stopped = s.stopped := (rfl)
@[simp] theorem State.touch_portOn (s : State) (p : Nat) : s.touch.portOn p = s.portOn p := (rfl)

/-! ### Links -/

/-- Everything a fall of UP does: CNT_LINKDOWN counts it where UP stood. -/
theorem State.dropUp_spec (s : State) (p : Fin 8) :
    (s.dropUp p).get (R.ingPortLinkUp p) = 0
      ∧ (s.dropUp p).get (R.ingCntLinkdown p) =
          (if s.flag (R.ingPortLinkUp p) then (s.get (R.ingCntLinkdown p) + 1) % 2 ^ 32 else s.get (R.ingCntLinkdown p))
      ∧ (s.dropUp p).ing = s.ing ∧ s.keepsRegs (s.dropUp p) [(R.ingPortLinkUp p).key, (R.ingCntLinkdown p).key] := by
  have hne : (R.ingPortLinkUp p).key ≠ (R.ingCntLinkdown p).key := by decide +revert
  unfold State.dropUp
  split
  next hup =>
    refine ⟨?_, ?_, rfl, ((s.keepsRegs_refl _).setFlag (f := R.ingPortLinkUp p) (by simp) _).inc (f := R.ingCntLinkdown p) (by simp)⟩
    · rw [State.get_inc_other _ hne, State.get_setFlag_same _ _ _ le_rfl]
      rfl
    · rw [State.get_inc_same, State.get_setFlag_other _ hne.symm]
      rfl
  next hdown => exact ⟨State.get_of_flag_false (by simpa using hdown), rfl, rfl, s.keepsRegs_refl _⟩

/-- A training begins: UP falls, and the port trains without a time base. -/
theorem State.train_spec (s : State) (p : Fin 8) (fails : Nat) :
    (s.train p fails).get (R.ingPortLinkUp p) = 0
      ∧ (s.train p fails).get (R.ingCntLinkdown p) =
          (if s.flag (R.ingPortLinkUp p) then (s.get (R.ingCntLinkdown p) + 1) % 2 ^ 32 else s.get (R.ingCntLinkdown p))
      ∧ (s.train p fails).port p = { s.port p with tb := none, trained := false, training := true, fails := fails, capWait := false }
      ∧ (∀ r : Fin 8, r ≠ p → (s.train p fails).port r = s.port r)
      ∧ s.keepsRegs (s.train p fails) [(R.ingPortLinkUp p).key, (R.ingCntLinkdown p).key] := by
  obtain ⟨hup, hcnt, hing, hk⟩ := s.dropUp_spec p
  unfold State.train
  dsimp only
  rw [State.port_of_ing hing]
  exact ⟨hup, hcnt, State.port_setPort _ _ _,
    fun r hr => (State.port_setPort_other _ (Fin.val_ne_of_ne hr) _).trans (State.port_of_ing hing r), hk.setPort _ _⟩

/-- What PORT_EN's bit of a port writes before its link changes. -/
def State.writeEn (s : State) (p : Nat) (on : Bool) : State := s.set R.ingCtlPortEn (setBit (s.get R.ingCtlPortEn) p on)

/-- A port enabled, before it trains: no triple is valid. -/
def State.untripled (s : State) (p : Nat) : State := (s.writeEn p true).setFlag (R.ingPortRbCtlValid p) false

theorem State.enablePort_eq (s : State) (p : Nat) :
    s.enablePort p = ((s.untripled p).train p 0).setPort p { ((s.untripled p).train p 0).port p with first := .training } := rfl

theorem State.disablePort_eq (s : State) (p : Nat) :
    s.disablePort p = ((s.writeEn p false).dropUp p).setPort p
      { ((s.writeEn p false).dropUp p).port p with trained := false, training := false, capWait := false, first := .idle } := rfl

theorem State.writeEn_spec (s : State) (p : Fin 8) (on : Bool) :
    (s.writeEn p on).get R.ingCtlPortEn = setBit (s.get R.ingCtlPortEn) p on % 2 ^ 8 ∧ (s.writeEn p on).ing = s.ing
      ∧ s.keepsRegs (s.writeEn p on) [R.ingCtlPortEn.key] :=
  ⟨State.get_set_same _ _ _, rfl, (s.keepsRegs_refl _).set (by simp) _⟩

theorem State.untripled_spec (s : State) (p : Fin 8) :
    (s.untripled p).get R.ingCtlPortEn = setBit (s.get R.ingCtlPortEn) p true % 2 ^ 8 ∧ (s.untripled p).get (R.ingPortRbCtlValid p) = 0
      ∧ (s.untripled p).ing = s.ing ∧ s.keepsRegs (s.untripled p) [R.ingCtlPortEn.key, (R.ingPortRbCtlValid p).key] := by
  have hne : R.ingCtlPortEn.key ≠ (R.ingPortRbCtlValid p).key := by decide +revert
  obtain ⟨hen, hing, hk⟩ := s.writeEn_spec p true
  exact ⟨(State.get_setFlag_other _ hne _).trans hen, State.get_setFlag_same _ _ _ le_rfl, hing, (hk.mono (by simp)).setFlag (by simp) _⟩

/-- PORT_EN set for a port: it trains, without a triple. -/
theorem State.enablePort_spec (s : State) (p : Fin 8) :
    (s.enablePort p).get R.ingCtlPortEn = setBit (s.get R.ingCtlPortEn) p true % 2 ^ 8
      ∧ (s.enablePort p).get (R.ingPortLinkUp p) = 0 ∧ (s.enablePort p).get (R.ingPortRbCtlValid p) = 0
      ∧ (s.enablePort p).get (R.ingCntLinkdown p) =
          (if s.flag (R.ingPortLinkUp p) then (s.get (R.ingCntLinkdown p) + 1) % 2 ^ 32 else s.get (R.ingCntLinkdown p))
      ∧ (s.enablePort p).port p =
          { s.port p with tb := none, trained := false, training := true, fails := 0, capWait := false, first := .training }
      ∧ (∀ r : Fin 8, r ≠ p → (s.enablePort p).port r = s.port r)
      ∧ s.keepsRegs (s.enablePort p)
          [R.ingCtlPortEn.key, (R.ingPortLinkUp p).key, (R.ingPortRbCtlValid p).key, (R.ingCntLinkdown p).key] := by
  have hlink : R.ingCtlPortEn.key ∉ [(R.ingPortLinkUp p).key, (R.ingCntLinkdown p).key]
      ∧ (R.ingPortRbCtlValid p).key ∉ [(R.ingPortLinkUp p).key, (R.ingCntLinkdown p).key]
      ∧ (R.ingPortLinkUp p).key ∉ [R.ingCtlPortEn.key, (R.ingPortRbCtlValid p).key]
      ∧ (R.ingCntLinkdown p).key ∉ [R.ingCtlPortEn.key, (R.ingPortRbCtlValid p).key] := by decide +revert
  obtain ⟨hne, hnv, hnu, hnc⟩ := hlink
  obtain ⟨hen, hvalid, hing, hu⟩ := s.untripled_spec p
  obtain ⟨hdown, hcnt, hport, hother, hk⟩ := (s.untripled p).train_spec p 0
  rw [State.flag_of_get (hu _ hnu), hu _ hnc] at hcnt
  rw [State.enablePort_eq]
  simp only [State.get_setPort, State.port_setPort]
  refine ⟨(hk _ hne).trans hen, hdown, (hk _ hnv).trans hvalid, hcnt, ?_, fun r hr => ?_, ?_⟩
  · rw [hport, State.port_of_ing hing]
  · rw [State.port_setPort_other _ (Fin.val_ne_of_ne hr), hother r hr, State.port_of_ing hing]
  · exact ((hu.mono (by simp)).trans (hk.mono (by simp))).setPort _ _

/-- PORT_EN cleared for a port: link and reception stop. -/
theorem State.disablePort_spec (s : State) (p : Fin 8) :
    (s.disablePort p).get R.ingCtlPortEn = setBit (s.get R.ingCtlPortEn) p false % 2 ^ 8
      ∧ (s.disablePort p).get (R.ingPortLinkUp p) = 0
      ∧ (s.disablePort p).get (R.ingCntLinkdown p) =
          (if s.flag (R.ingPortLinkUp p) then (s.get (R.ingCntLinkdown p) + 1) % 2 ^ 32 else s.get (R.ingCntLinkdown p))
      ∧ (s.disablePort p).port p = { s.port p with trained := false, training := false, capWait := false, first := .idle }
      ∧ (∀ r : Fin 8, r ≠ p → (s.disablePort p).port r = s.port r)
      ∧ s.keepsRegs (s.disablePort p) [R.ingCtlPortEn.key, (R.ingPortLinkUp p).key, (R.ingCntLinkdown p).key] := by
  have hlink : R.ingCtlPortEn.key ∉ [(R.ingPortLinkUp p).key, (R.ingCntLinkdown p).key]
      ∧ (R.ingPortLinkUp p).key ∉ [R.ingCtlPortEn.key] ∧ (R.ingCntLinkdown p).key ∉ [R.ingCtlPortEn.key] := by decide +revert
  obtain ⟨hne, hnu, hnc⟩ := hlink
  obtain ⟨hen, hing, hu⟩ := s.writeEn_spec p false
  obtain ⟨hdown, hcnt, hing', hk⟩ := (s.writeEn p false).dropUp_spec p
  rw [State.flag_of_get (hu _ hnu), hu _ hnc] at hcnt
  rw [State.disablePort_eq]
  simp only [State.get_setPort, State.port_setPort]
  refine ⟨(hk _ hne).trans hen, hdown, hcnt, ?_, fun r hr => ?_, ?_⟩
  · rw [State.port_of_ing (hing'.trans hing)]
  · rw [State.port_setPort_other _ (Fin.val_ne_of_ne hr), State.port_of_ing (hing'.trans hing)]
  · exact ((hu.mono (by simp)).trans (hk.mono (by simp))).setPort _ _

/-! ### Writes of PORT_EN and of a port's configuration -/

theorem exec_portEnable_stopped {s : State} {p : Fin 8} (hs : s.served = true) (h : s.stopped = true) (hp : s.portOn p = false) :
    exec (.portEnable p) s = .next (s.touch.enablePort p) := by
  change execPortEnable p s = _
  rw [execPortEnable, State.bus_served hs, if_pos (by simpa using h), State.writePortBit, if_neg (by simpa using hp)]
  rfl

theorem exec_portDisable_stopped {s : State} {p : Fin 8} (hs : s.served = true) (h : s.stopped = true) (hp : s.portOn p = true) :
    exec (.portDisable p) s = .next (s.touch.disablePort p) := by
  change execPortDisable p s = _
  rw [execPortDisable, State.bus_served hs, if_pos (by simpa using h), State.writePortBit, if_neg (by simpa using hp)]
  rfl

theorem exec_portBit_running {s : State} (p : Fin 8) (hs : s.served = true) (h : s.stopped = false) :
    exec (.portEnable p) s = .next s.touch.ingRunWrite ∧ exec (.portDisable p) s = .next s.touch.ingRunWrite := by
  have hrun : ¬s.touch.stopped = true := by simpa using h
  constructor
  · change execPortEnable p s = _
    rw [execPortEnable, State.bus_served hs, if_neg hrun]
  · change execPortDisable p s = _
    rw [execPortDisable, State.bus_served hs, if_neg hrun]

theorem State.ingRunWrite_spec (s : State) :
    s.ingRunWrite.get R.ingStatusRunWrite = 1 ∧ s.ingRunWrite.ing = s.ing ∧ s.keepsRegs s.ingRunWrite [R.ingStatusRunWrite.key] :=
  ⟨State.get_setFlag_same _ _ _ le_rfl, rfl, (s.keepsRegs_refl _).setFlag (by simp) _⟩

/-- The fields of ING_PORTn_CFG written while STOPPED. -/
def State.setPortCfg (s : State) (p v : Nat) : State :=
  (((s.set (R.ingPortCfgGearMax p) (bits v 0 3)).set (R.ingPortCfgVc p) (bits v 3 4)).set (R.ingPortCfgShed p) (bits v 7 1)).set
    (R.ingPortCfgCoaxClass p) (bits v 8 2)

theorem bits_mod (v lo w : Nat) : bits v lo w % 2 ^ w = bits v lo w := Nat.mod_mod _ _

theorem State.setPortCfg_spec (s : State) (p : Fin 8) (v : Nat) :
    (s.setPortCfg p v).get (R.ingPortCfgGearMax p) = bits v 0 3 ∧ (s.setPortCfg p v).get (R.ingPortCfgVc p) = bits v 3 4
      ∧ (s.setPortCfg p v).get (R.ingPortCfgShed p) = bits v 7 1 ∧ (s.setPortCfg p v).get (R.ingPortCfgCoaxClass p) = bits v 8 2
      ∧ (s.setPortCfg p v).ing = s.ing
      ∧ s.keepsRegs (s.setPortCfg p v) [(R.ingPortCfgGearMax p).key, (R.ingPortCfgVc p).key, (R.ingPortCfgShed p).key, (R.ingPortCfgCoaxClass p).key] := by
  unfold State.setPortCfg
  refine ⟨?gear, ?vc, ?shed, (State.get_set_same _ _ _).trans (bits_mod v 8 2), rfl, ?frame⟩
  case frame => exact ((((s.keepsRegs_refl _).set (by simp) _).set (by simp) _).set (by simp) _).set (by simp) _
  all_goals
    simp (disch := clear * - p; decide +revert) only [State.get_set_other, State.get_set_same]
    exact bits_mod v _ _

/-- A write of ING_PORTn_CFG before the port trains: the fields while STOPPED, RUN_WRITE for a changed field otherwise. -/
def State.cfgWritten (s : State) (p v : Nat) : State :=
  if s.stopped then s.setPortCfg p v
  else
    let same := bits v 0 3 == s.get (R.ingPortCfgGearMax p) && bits v 3 4 == s.get (R.ingPortCfgVc p)
      && bits v 7 1 == s.get (R.ingPortCfgShed p) && bits v 8 2 == s.get (R.ingPortCfgCoaxClass p)
    s.when (!same) (·.ingRunWrite)

theorem State.cfgWritten_stopped {s : State} (h : s.stopped = true) (p v : Nat) : s.cfgWritten p v = s.setPortCfg p v := if_pos h

/-- Outside STOPPED a write of ING_PORTn_CFG sets RUN_WRITE at most, and does where VC would change. -/
theorem State.cfgWritten_running {s : State} (h : s.stopped = false) (p : Fin 8) (v : Nat) :
    (s.cfgWritten p v).ing = s.ing ∧ s.keepsRegs (s.cfgWritten p v) [R.ingStatusRunWrite.key]
      ∧ (bits v 3 4 ≠ s.get (R.ingPortCfgVc p) → (s.cfgWritten p v).get R.ingStatusRunWrite = 1) := by
  obtain ⟨hset, hing, hk⟩ := s.ingRunWrite_spec
  unfold State.cfgWritten
  rw [if_neg (by simp [h])]
  refine ⟨State.when_same State.ing hing _, (s.keepsRegs_refl _).when _ hk, fun hvc => ?_⟩
  rw [State.when_true _ (by simp [hvc]), hset]

/-- The link of a port is no part of its configuration. -/
theorem State.cfgWritten_spec (s : State) (p : Fin 8) (v : Nat) :
    (s.cfgWritten p v).ing = s.ing ∧ (s.cfgWritten p v).get (R.ingPortLinkUp p) = s.get (R.ingPortLinkUp p)
      ∧ (s.cfgWritten p v).get (R.ingCntLinkdown p) = s.get (R.ingCntLinkdown p) := by
  cases h : s.stopped
  case true =>
    obtain ⟨-, -, -, -, hing, hk⟩ := s.setPortCfg_spec p v
    rw [State.cfgWritten_stopped h]
    exact ⟨hing, hk _ (by clear * - p; decide +revert), hk _ (by clear * - p; decide +revert)⟩
  case false =>
    obtain ⟨hing, hk, -⟩ := State.cfgWritten_running h p v
    exact ⟨hing, hk _ (by clear * - p; decide +revert), hk _ (by clear * - p; decide +revert)⟩

theorem exec_retrain_of {s : State} {p : Fin 8} {v : Word} (hs : s.served = true) (hp : s.portOn p = true) (hv : bit v.toNat 10 = true) :
    exec (.retrain p v) s = .next ((s.touch.cfgWritten p v.toNat).train p 0) := by
  change execRetrain p v s = _
  rw [execRetrain, State.bus_served hs, State.writePortCfg, if_pos (by simp [hv, hp])]
  rfl

/-! ### A training ends -/

theorem gearMax_le (v : Nat) : gearMax v ≤ 5 := by
  unfold gearMax
  split <;> omega

/-- The loss and the length it gives. -/
theorem State.measureLoss_spec (s : State) (p : Fin 8) (loss : Nat) :
    (s.measureLoss p loss).get (R.ingPortLinkLoss p) = min 1023 loss
      ∧ (s.measureLoss p loss).get (R.ingPortLinkLenCm p) =
          (let c := coaxCoef (s.get (R.ingPortCfgCoaxClass p))
           if s.get c.1 = 0 then 0 else min 16383 (1000 * (min 1023 loss - s.get c.2) / s.get c.1))
      ∧ (s.measureLoss p loss).ing = s.ing ∧ s.keepsRegs (s.measureLoss p loss) [(R.ingPortLinkLoss p).key, (R.ingPortLinkLenCm p).key] := by
  have hne : (R.ingPortLinkLoss p).key ≠ (R.ingPortLinkLenCm p).key := by decide +revert
  unfold State.measureLoss
  refine ⟨?loss, ?length, rfl, ((s.keepsRegs_refl _).set (by simp) _).set (by simp) _⟩
  case loss =>
    rw [State.get_set_other _ hne, State.get_set_same]
    exact Nat.mod_eq_of_lt (by change _ < 2 ^ 10; omega)
  case length =>
    rw [State.get_set_same, lenCm]
    refine Nat.mod_eq_of_lt ?_
    change _ < 2 ^ 14
    split <;> omega

theorem exec_linkTraining_of {s : State} (ha : s.awake = true) (p : Fin 8) (ok : Bool) (gear loss : Nat) :
    exec (.linkTraining p ok gear loss) s = .next (s.trainingEnds p ok gear loss) :=
  congrArg Host.Outcome.next (State.clocked_awake ha _)

theorem exec_linkLoss_of {s : State} (ha : s.awake = true) (p : Fin 8) :
    exec (.linkLoss p) s = .next (if (s.port p).trained then s.train p 0 else s) :=
  congrArg Host.Outcome.next (State.clocked_awake ha _)

/-- A training that ends well: the port is trained, with a gear of 1 to 5. -/
theorem State.trainingEnds_ok {s : State} {p : Fin 8} (h : (s.port p).training = true) (gear loss : Nat) :
    ∃ g first, 1 ≤ g ∧ g ≤ 5 ∧ s.trainingEnds p true gear loss = ((s.measureLoss p loss).set (R.ingPortLinkGear p) g).setPort p
      { s.port p with training := false, trained := true, fails := 0, capWait := true, tb := none, first := first } := by
  have hle := gearMax_le (s.get (R.ingPortCfgGearMax p))
  unfold State.trainingEnds
  rw [if_neg (by simp [h]), if_pos rfl]
  exact ⟨max 1 (min gear (gearMax (s.get (R.ingPortCfgGearMax p)))), _, by omega, by omega, rfl⟩

theorem State.trainingEnds_failed {s : State} {p : Fin 8} (h : (s.port p).training = true) (gear loss : Nat) :
    s.trainingEnds p false gear loss = (s.measureLoss p loss).setPort p
      { s.port p with training := decide ((s.port p).fails + 1 < 3), fails := (s.port p).fails + 1 } := by
  unfold State.trainingEnds
  rw [if_neg (by simp [h]), if_neg Bool.false_ne_true]

/-- Settles O38: what a training begun or ended does to a port, carried through each command that begins or ends one. -/
theorem portTrainingAndEnable : Obligations.PortTrainingAndEnable := by
  refine ⟨fun p s hs => ⟨fun h hp => ?enable, fun h hp => ?disable, fun h => ?running, fun v hp hv => ?retrain⟩,
    fun p gear loss s ha ht => ⟨?trained, ?failed⟩, fun p s ha => ⟨fun ht => ?lost, fun ht => ?untrained⟩⟩
  case enable =>
    obtain ⟨hen, hup, hvalid, hcnt, hport, hother, hk⟩ := s.touch.enablePort_spec p
    refine ⟨_, exec_portEnable_stopped hs h hp, ?_⟩
    rw [hport]
    exact ⟨hen, hup, hvalid, rfl, rfl, rfl, rfl, rfl, rfl, hcnt, hother, hk⟩
  case disable =>
    obtain ⟨hen, hup, hcnt, hport, hother, hk⟩ := s.touch.disablePort_spec p
    refine ⟨_, exec_portDisable_stopped hs h hp, ?_⟩
    rw [hport]
    exact ⟨hen, hup, rfl, rfl, rfl, hcnt, hother, hk⟩
  case running =>
    obtain ⟨hon, hoff⟩ := exec_portBit_running p hs h
    have hrun := s.touch.ingRunWrite_spec
    exact ⟨⟨_, hon, hrun⟩, ⟨_, hoff, hrun⟩⟩
  case retrain =>
    obtain ⟨hing, hflag, hcount⟩ := s.touch.cfgWritten_spec p v.toNat
    obtain ⟨hup, hcnt, hport, -, hk⟩ := (s.touch.cfgWritten p v.toNat).train_spec p 0
    rw [State.flag_of_get hflag, hcount] at hcnt
    rw [State.port_of_ing hing] at hport
    refine ⟨_, exec_retrain_of hs hp hv, hup, ?_⟩
    rw [hport]
    refine ⟨rfl, rfl, rfl, rfl, rfl, hcnt, fun hrun => ?_, fun hrun hvc => ?_, fun hstop => ?_⟩
    · obtain ⟨-, hu, -⟩ := State.cfgWritten_running (s := s.touch) hrun p v.toNat
      exact (hu.mono (by simp)).trans (hk.mono (by simp))
    · obtain ⟨-, -, hset⟩ := State.cfgWritten_running (s := s.touch) hrun p v.toNat
      exact (hk _ (by clear * - p; decide +revert)).trans (hset hvc)
    · obtain ⟨hgear, hvc, hshed, hclass, -⟩ := s.touch.setPortCfg_spec p v.toNat
      rw [State.cfgWritten_stopped (s := s.touch) hstop] at hk ⊢
      exact ⟨(hk _ (by clear * - p; decide +revert)).trans hgear, (hk _ (by clear * - p; decide +revert)).trans hvc,
        (hk _ (by clear * - p; decide +revert)).trans hshed, (hk _ (by clear * - p; decide +revert)).trans hclass⟩
  case trained =>
    obtain ⟨g, first, hg1, hg5, hends⟩ := State.trainingEnds_ok ht gear loss
    obtain ⟨hloss, hlen, hing, hk⟩ := s.measureLoss_spec p loss
    have hgear : g % 2 ^ (R.ingPortLinkGear p).width = g := Nat.mod_eq_of_lt (by change g < 2 ^ 3; omega)
    refine ⟨_, (exec_linkTraining_of ha p true gear loss).trans (congrArg _ hends), ?_⟩
    simp only [State.get_setPort, State.port_setPort, State.get_set_same, hgear]
    refine ⟨trivial, trivial, trivial, trivial, ?_, ?_, hg1, hg5, fun r hr => ?_, (((hk.mono (by simp)).set (by simp) _).setPort _ _)⟩
    · exact (State.get_set_other _ (by clear * - p; decide +revert) _).trans hloss
    · exact (State.get_set_other _ (by clear * - p; decide +revert) _).trans hlen
    · exact (State.port_setPort_other _ (Fin.val_ne_of_ne hr) _).trans (State.port_of_ing hing r)
  case failed =>
    obtain ⟨hloss, -, -, hk⟩ := s.measureLoss_spec p loss
    refine ⟨_, (exec_linkTraining_of ha p false gear loss).trans (congrArg _ (State.trainingEnds_failed ht gear loss)), ?_⟩
    rw [State.port_setPort]
    exact ⟨rfl, rfl, decide_eq_true_iff, hloss, hk.setPort _ _⟩
  case lost =>
    obtain ⟨hup, hcnt, hport, -, hk⟩ := s.train_spec p 0
    refine ⟨_, (exec_linkLoss_of ha p).trans (congrArg _ (if_pos ht)), hup, ?_⟩
    rw [hport]
    exact ⟨rfl, rfl, rfl, rfl, rfl, hcnt, hk⟩
  case untrained => exact (exec_linkLoss_of ha p).trans (congrArg _ (if_neg (by simp [ht])))

end Sys2Proof.Machine
end

section
/-! SUPPORT and OBLIGATION. Camera control transactions, capability reads and the camera feed current (R67–R70). -/

namespace Sys2Proof.Machine

/-! ### Camera control transactions (R70) -/

/-- The fields of ING_PORTn_CCI_CTL that a write sets for the next transaction. -/
def State.setCci (s : State) (p v : Nat) : State :=
  ((((s.set (R.ingPortCciCtlDev p) (bits v 0 7)).set (R.ingPortCciCtlRead p) (bits v 7 1)).set (R.ingPortCciCtlReg p) (bits v 8 16)).set
    (R.ingPortCciCtlLenM1 p) (bits v 24 2)).set (R.ingPortCciCtlReg16 p) (bits v 26 1)

/-- A transaction begun with what `v` asks for. -/
def State.startCci (s : State) (p v : Nat) : State :=
  (s.setFlag (R.ingPortCciCtlBusy p) true).setPort p { s.port p with cciRead := bit v 7, cciLen := bits v 24 2 }

theorem State.setCci_spec (s : State) (p : Fin 8) (v : Nat) :
    (s.setCci p v).get (R.ingPortCciCtlDev p) = bits v 0 7 ∧ (s.setCci p v).get (R.ingPortCciCtlRead p) = bits v 7 1
      ∧ (s.setCci p v).get (R.ingPortCciCtlReg p) = bits v 8 16 ∧ (s.setCci p v).get (R.ingPortCciCtlLenM1 p) = bits v 24 2
      ∧ (s.setCci p v).get (R.ingPortCciCtlReg16 p) = bits v 26 1 ∧ (s.setCci p v).ing = s.ing
      ∧ s.keepsRegs (s.setCci p v) [(R.ingPortCciCtlDev p).key, (R.ingPortCciCtlRead p).key, (R.ingPortCciCtlReg p).key,
          (R.ingPortCciCtlLenM1 p).key, (R.ingPortCciCtlReg16 p).key] := by
  unfold State.setCci
  refine ⟨?dev, ?read, ?reg, ?len, (State.get_set_same _ _ _).trans (bits_mod v 26 1), rfl, ?frame⟩
  case frame => exact (((((s.keepsRegs_refl _).set (by simp) _).set (by simp) _).set (by simp) _).set (by simp) _).set (by simp) _
  all_goals
    simp (disch := clear * - p; decide +revert) only [State.get_set_other, State.get_set_same]
    exact bits_mod v _ _

theorem State.startCci_spec (s : State) (p : Fin 8) (v : Nat) :
    (s.startCci p v).get (R.ingPortCciCtlBusy p) = 1
      ∧ (s.startCci p v).port p = { s.port p with cciRead := bit v 7, cciLen := bits v 24 2 }
      ∧ (∀ r : Fin 8, r ≠ p → (s.startCci p v).port r = s.port r) ∧ s.keepsRegs (s.startCci p v) [(R.ingPortCciCtlBusy p).key] :=
  ⟨State.get_setFlag_same s (R.ingPortCciCtlBusy p) true le_rfl, State.port_setPort _ _ _, fun _ hr => State.port_setPort_other _ (Fin.val_ne_of_ne hr) _,
    ((s.keepsRegs_refl _).setFlag (f := R.ingPortCciCtlBusy p) (by simp) true).setPort _ _⟩

theorem exec_cciGo_eq {s : State} (hs : s.served = true) (p : Fin 8) (v : Word) : exec (.cciGo p v) s = .next (s.touch.writeCci p v.toNat) := by
  change execCciGo p v s = _
  rw [execCciGo, State.bus_served hs]

theorem State.writeCci_busy {s : State} {p v : Nat} (hg : bit v 30 = true) (hb : s.flag (R.ingPortCciCtlBusy p) = true) : s.writeCci p v = s := by
  unfold State.writeCci
  rw [if_pos (by simp [hg, hb])]

theorem State.writeCci_go {s : State} {p v : Nat} (hg : bit v 30 = true) (hb : s.flag (R.ingPortCciCtlBusy p) = false) :
    s.writeCci p v = (s.setCci p v).startCci p v := by
  unfold State.writeCci
  rw [if_neg (by simp [hb]), State.when_true _ hg]
  rfl

theorem State.writeCci_fields {s : State} {p v : Nat} (hg : bit v 30 = false) : s.writeCci p v = s.setCci p v := by
  unfold State.writeCci
  rw [if_neg (by simp [hg]), State.when_false _ hg]
  rfl

/-- The transaction of a port ends: BUSY falls, NACK is known. -/
def State.cciEnded (s : State) (p : Nat) (nack : Bool) : State :=
  (s.setFlag (R.ingPortCciCtlBusy p) false).setFlag (R.ingPortCciCtlNack p) nack

/-- The bytes that an acknowledged read brought. -/
def State.cciTaken (s : State) (p : Nat) (data : Word) : State :=
  s.set (R.ingPortCciDataData p) (data.toNat % 2 ^ (8 * ((s.port p).cciLen + 1)))

theorem exec_cciTransactionEnd_of {s : State} (ha : s.awake = true) {p : Fin 8} (hb : s.flag (R.ingPortCciCtlBusy p) = true) (nack : Bool) (data : Word) :
    exec (.cciTransactionEnd p nack data) s = .next ((s.cciEnded p nack).when ((s.port p).cciRead && !nack) fun t => t.cciTaken p data) := by
  change execCciTransactionEnd p nack data s = _
  rw [execCciTransactionEnd, State.clocked_awake ha, if_pos hb]
  rfl

theorem State.cciEnded_spec (s : State) (p : Fin 8) (nack : Bool) :
    (s.cciEnded p nack).get (R.ingPortCciCtlBusy p) = 0 ∧ (s.cciEnded p nack).get (R.ingPortCciCtlNack p) = b2n nack
      ∧ (s.cciEnded p nack).ing = s.ing ∧ s.keepsRegs (s.cciEnded p nack) [(R.ingPortCciCtlBusy p).key, (R.ingPortCciCtlNack p).key] := by
  have hne : (R.ingPortCciCtlBusy p).key ≠ (R.ingPortCciCtlNack p).key := by decide +revert
  exact ⟨(State.get_setFlag_other _ hne _).trans (State.get_setFlag_same _ _ _ le_rfl), State.get_setFlag_same _ _ _ le_rfl, rfl,
    ((s.keepsRegs_refl _).setFlag (by simp) _).setFlag (by simp) _⟩

theorem State.cciTaken_spec (s : State) (p : Fin 8) (data : Word) :
    (s.cciTaken p data).get (R.ingPortCciDataData p) = data.toNat % 2 ^ (8 * ((s.port p).cciLen + 1)) % 2 ^ 32
      ∧ s.keepsRegs (s.cciTaken p data) [(R.ingPortCciDataData p).key] :=
  ⟨State.get_set_same _ _ _, (s.keepsRegs_refl _).set (by simp) _⟩

/-! ### Capability reads (R69) -/

theorem leNat_lt (l : List Byte) : leNat l < 256 ^ l.length := by
  induction l with
  | nil => decide
  | cons b l ih =>
    have hb := b.isLt
    rw [leNat, List.length_cons, Nat.pow_succ]
    omega

theorem leAt_lt (l : List Byte) (ofs n : Nat) : leAt l ofs n < 256 ^ n :=
  (leNat_lt _).trans_le (Nat.pow_le_pow_right (by decide) (by simp [slice]))

/-- CAP0–CAP3 as a capability read brought them. -/
def State.setCaps (s : State) (p : Nat) (data : List Byte) : State :=
  s.each (List.range 4) fun s i => s.set (R.ingPortCapCap p i) (leAt data (4 * i) 4)

theorem State.setCaps_spec (s : State) (p : Fin 8) (data : List Byte) :
    (∀ i : Fin 4, (s.setCaps p data).get (R.ingPortCapCap p i) = leAt data (4 * i) 4) ∧ (s.setCaps p data).ing = s.ing
      ∧ s.keepsRegs (s.setCaps p data) [(R.ingPortCapCap p 0).key, (R.ingPortCapCap p 1).key, (R.ingPortCapCap p 2).key, (R.ingPortCapCap p 3).key] := by
  have hchain : s.setCaps p data = (((s.set (R.ingPortCapCap p 0) (leAt data 0 4)).set (R.ingPortCapCap p 1) (leAt data 4 4)).set
    (R.ingPortCapCap p 2) (leAt data 8 4)).set (R.ingPortCapCap p 3) (leAt data 12 4) := rfl
  have hword : ∀ ofs, leAt data ofs 4 % 2 ^ 32 = leAt data ofs 4 := fun ofs => Nat.mod_eq_of_lt (leAt_lt data ofs 4)
  have hget : (s.setCaps p data).get (R.ingPortCapCap p 0) = leAt data 0 4 ∧ (s.setCaps p data).get (R.ingPortCapCap p 1) = leAt data 4 4
      ∧ (s.setCaps p data).get (R.ingPortCapCap p 2) = leAt data 8 4 ∧ (s.setCaps p data).get (R.ingPortCapCap p 3) = leAt data 12 4 := by
    simp (disch := clear * - p; decide +revert) only [hchain, State.get_set_other, State.get_set_same]
    exact ⟨hword 0, hword 4, hword 8, hword 12⟩
  obtain ⟨h0, h1, h2, h3⟩ := hget
  refine ⟨fun i => match i with | 0 => h0 | 1 => h1 | 2 => h2 | 3 => h3, rfl, ?_⟩
  rw [hchain]
  exact ((((s.keepsRegs_refl _).set (by simp) _).set (by simp) _).set (by simp) _).set (by simp) _

/-- What a capability read leaves in the link register and the port. -/
def State.capsKnown (s : State) (p : Nat) (valid : Bool) : State :=
  (((s.setFlag (R.ingPortLinkCapValid p) valid).setFlag (R.ingPortLinkUp p) true).setPort p { s.port p with capWait := false }).lifeCable p

theorem State.capsKnown_spec (s : State) (p : Fin 8) (valid : Bool) :
    (s.capsKnown p valid).get (R.ingPortLinkUp p) = 1 ∧ (s.capsKnown p valid).get (R.ingPortLinkCapValid p) = b2n valid
      ∧ ((s.capsKnown p valid).port p).capWait = false
      ∧ s.keepsRegs (s.capsKnown p valid) [(R.ingPortLinkUp p).key, (R.ingPortLinkCapValid p).key] := by
  have hne : (R.ingPortLinkCapValid p).key ≠ (R.ingPortLinkUp p).key := by decide +revert
  have hget : ∀ x, (s.capsKnown p valid).get x = ((s.setFlag (R.ingPortLinkCapValid p) valid).setFlag (R.ingPortLinkUp p) true).get x := fun _ => rfl
  have hport : (s.capsKnown p valid).port p = { s.port p with capWait := false } := State.port_setPort _ _ _
  refine ⟨?_, ?_, by rw [hport], fun x hx => (hget x).trans ?_⟩
  · rw [hget, State.get_setFlag_same _ _ _ le_rfl]
    rfl
  · rw [hget, State.get_setFlag_other _ hne, State.get_setFlag_same _ _ _ le_rfl]
  · exact ((s.keepsRegs_refl _).setFlag (by simp) _).setFlag (by simp) _ x hx

/-- A capability read acts while it is waited for: it brings CAP0–CAP3 where it is enabled and acknowledged. -/
theorem exec_capabilityRead_of {s : State} (ha : s.awake = true) {p : Fin 8} (hw : (s.port p).capWait = true) (ack : Bool) (data : List Byte) :
    exec (.capabilityRead p ack data) s = .next
      ((s.when (s.flag (R.ingPortCapCfgEn p) && ack) fun s => s.setCaps p data).capsKnown p
        (s.flag (R.ingPortCapCfgEn p) && ack && leAt data 11 1 == 0x01)) := by
  change execCapabilityRead p ack data s = _
  rw [execCapabilityRead, State.clocked_awake ha, State.capabilityRead, if_neg (by simp [hw])]
  cases h : s.flag (R.ingPortCapCfgEn p) && ack
  · rfl
  · rfl

/-! ### Camera feed current (R67, R68) -/

/-- The codes kept after a sample: the last 16. -/
def State.codesWith (s : State) (p code : Nat) : List Nat :=
  ((s.port p).codes ++ [code]).drop ((s.port p).codes.length + 1 - 16)

/-- The current that kept codes give: their mean, where there are 16. -/
def State.meanMa (s : State) (p : Nat) (l : List Nat) : Nat :=
  if l.length = 16 then l.sum * s.get (R.ingPortIsnsCfgScaleUa p) / (16 * 1000) else s.freeValue % 2 ^ 16

/-- A sample taken, before the thresholds are looked at. -/
def State.sampled (s : State) (p : Nat) (l : List Nat) : State :=
  ((s.took (if l.length = 16 then 0 else 1)).setPort p { s.port p with codes := l }).set (R.ingPortIsnsCurMa p) (s.meanMa p l)

/-- A flag set where `c` holds. -/
def State.alarm (s : State) (f : Fld) (c : Bool) : State := s.when c fun s => s.setFlag f true

theorem State.alarm_spec (s : State) (f : Fld) (c : Bool) (hw : 1 ≤ f.width) :
    (s.alarm f c).get f = (if c then 1 else s.get f) ∧ (s.alarm f c).ing = s.ing ∧ s.keepsRegs (s.alarm f c) [f.key] := by
  refine ⟨?_, State.when_same State.ing rfl c, (s.keepsRegs_refl _).when c ((s.keepsRegs_refl _).setFlag (by simp) _)⟩
  cases c
  · rfl
  · exact State.get_setFlag_same s f true hw

/-- Whether a current of `ma` mA lies above the threshold OVER_10MA of an enabled port. -/
def State.overCond (s : State) (p ma : Nat) : Bool :=
  s.portOn p && s.get (R.ingPortIsnsCfgOver10ma p) != 0 && decide (10 * s.get (R.ingPortIsnsCfgOver10ma p) < ma)

/-- Whether it lies below the threshold UNDER_10MA. -/
def State.underCond (s : State) (p ma : Nat) : Bool :=
  s.portOn p && s.get (R.ingPortIsnsCfgUnder10ma p) != 0 && decide (ma < 10 * s.get (R.ingPortIsnsCfgUnder10ma p))

/-- A sample taken, and the thresholds looked at. -/
def State.judged (s : State) (p : Nat) (l : List Nat) : State :=
  ((s.sampled p l).alarm (R.ingPortIsnsOver p) (s.overCond p (s.meanMa p l))).alarm (R.ingPortIsnsUnder p) (s.underCond p (s.meanMa p l))

theorem exec_cameraCurrentSample_eq {s : State} (ha : s.awake = true) (p : Fin 8) (code : BitVec 12) :
    exec (.cameraCurrentSample p code) s = .next (s.judged p (s.codesWith p code.toNat)) := by
  have hlen : ((s.port p).codes ++ [code.toNat]).length = (s.port p).codes.length + 1 := by simp
  change execCameraCurrentSample p code s = _
  rw [execCameraCurrentSample, State.clocked_awake ha]
  dsimp only
  rw [hlen]
  rfl

theorem State.sampled_spec (s : State) (p : Fin 8) (l : List Nat) :
    (s.sampled p l).port p = { s.port p with codes := l } ∧ (s.sampled p l).get (R.ingPortIsnsCurMa p) = s.meanMa p l % 2 ^ 16
      ∧ s.keepsRegs (s.sampled p l) [(R.ingPortIsnsCurMa p).key] := by
  have htaken : s.keepsRegs ((s.took (if l.length = 16 then 0 else 1)).setPort p { s.port p with codes := l }) [(R.ingPortIsnsCurMa p).key] :=
    fun _ _ => rfl
  exact ⟨State.port_setPort _ _ _, State.get_set_same _ _ _, htaken.set (f := R.ingPortIsnsCurMa p) (by simp) _⟩

/-- A sample's mean and what it raises. -/
theorem State.judged_spec (s : State) (p : Fin 8) (l : List Nat) :
    (s.judged p l).get (R.ingPortIsnsCurMa p) = s.meanMa p l % 2 ^ 16 ∧ (s.judged p l).port p = { s.port p with codes := l }
      ∧ (s.judged p l).get (R.ingPortIsnsOver p) = (if s.overCond p (s.meanMa p l) then 1 else s.get (R.ingPortIsnsOver p))
      ∧ (s.judged p l).get (R.ingPortIsnsUnder p) = (if s.underCond p (s.meanMa p l) then 1 else s.get (R.ingPortIsnsUnder p))
      ∧ s.keepsRegs (s.judged p l) [(R.ingPortIsnsCurMa p).key, (R.ingPortIsnsOver p).key, (R.ingPortIsnsUnder p).key] := by
  have hkeys : (R.ingPortIsnsCurMa p).key ∉ [(R.ingPortIsnsOver p).key] ∧ (R.ingPortIsnsCurMa p).key ∉ [(R.ingPortIsnsUnder p).key]
      ∧ (R.ingPortIsnsOver p).key ∉ [(R.ingPortIsnsUnder p).key] ∧ (R.ingPortIsnsUnder p).key ∉ [(R.ingPortIsnsOver p).key]
      ∧ (R.ingPortIsnsOver p).key ∉ [(R.ingPortIsnsCurMa p).key] ∧ (R.ingPortIsnsUnder p).key ∉ [(R.ingPortIsnsCurMa p).key] := by decide +revert
  obtain ⟨hmo, hmu, hou, huo, hom, hum⟩ := hkeys
  obtain ⟨hport, hma, hk⟩ := s.sampled_spec p l
  obtain ⟨hover, hoing, ho⟩ := (s.sampled p l).alarm_spec (R.ingPortIsnsOver p) (s.overCond p (s.meanMa p l)) le_rfl
  obtain ⟨hunder, huing, hu⟩ := ((s.sampled p l).alarm (R.ingPortIsnsOver p) (s.overCond p (s.meanMa p l))).alarm_spec
    (R.ingPortIsnsUnder p) (s.underCond p (s.meanMa p l)) le_rfl
  rw [hk _ hom] at hover
  rw [ho _ huo, hk _ hum] at hunder
  exact ⟨((hu _ hmu).trans (ho _ hmo)).trans hma, (State.port_of_ing (huing.trans hoing) p).trans hport, (hu _ hou).trans hover, hunder,
    ((hk.mono (by simp)).trans (ho.mono (by simp))).trans (hu.mono (by simp))⟩

/-- Settles O39: each command's updates read back, branch by branch of what it finds. -/
theorem cameraControlAndCurrent : Obligations.CameraControlAndCurrent := by
  refine ⟨fun p v s hs => ⟨fun hg hb => ?busy, fun hg hb => ?go, fun hg => ?fields⟩, fun p nack data s ha hb => ?ended,
    fun p ack data s ha hw => ?caps, fun p code s ha => ?current⟩
  case busy => exact (exec_cciGo_eq hs p v).trans (congrArg _ (State.writeCci_busy hg hb))
  case go =>
    obtain ⟨hdev, hread, hreg, hlen, hreg16, hing, hu⟩ := s.touch.setCci_spec p v.toNat
    obtain ⟨hbusy, hport, hother, hk⟩ := (s.touch.setCci p v.toNat).startCci_spec p v.toNat
    refine ⟨_, (exec_cciGo_eq hs p v).trans (congrArg _ (State.writeCci_go hg hb)), hbusy, ?_⟩
    rw [hport]
    refine ⟨(hk _ ?_).trans hdev, (hk _ ?_).trans hread, (hk _ ?_).trans hreg, (hk _ ?_).trans hlen, (hk _ ?_).trans hreg16, rfl, rfl,
      fun r hr => (hother r hr).trans (State.port_of_ing hing r), (hu.mono (by simp)).trans (hk.mono (by simp))⟩
    all_goals clear * - p; decide +revert
  case fields => exact ⟨_, (exec_cciGo_eq hs p v).trans (congrArg _ (State.writeCci_fields hg)), s.touch.setCci_spec p v.toNat⟩
  case ended =>
    obtain ⟨hbusy, hnack, hing, hk⟩ := s.cciEnded_spec p nack
    obtain ⟨hdata, hd⟩ := (s.cciEnded p nack).cciTaken_spec p data
    rw [State.port_of_ing hing] at hdata
    have hw := ((s.cciEnded p nack).keepsRegs_refl [(R.ingPortCciDataData p).key]).when ((s.port p).cciRead && !nack) (f := fun t => t.cciTaken p data) hd
    refine ⟨_, exec_cciTransactionEnd_of ha hb nack data, (hw _ ?_).trans hbusy, (hw _ ?_).trans hnack, fun hr hn => ?_, fun hrn => ?_,
      (hk.mono (by simp)).trans (hw.mono (by simp))⟩
    · clear * - p; decide +revert
    · clear * - p; decide +revert
    · rw [State.when_true _ (by simp [hr, hn]), hdata]
    · rw [State.when_false _ (by rcases hrn with h | h <;> simp [h]), hk _ (by clear * - p; decide +revert)]
  case caps =>
    obtain ⟨hcap, hing, hk⟩ := s.setCaps_spec p data
    have hu := (s.keepsRegs_refl _).when (s.flag (R.ingPortCapCfgEn p) && ack) (f := fun s => s.setCaps p data) hk
    obtain ⟨hup, hvalid, hwait, hv⟩ := (s.when (s.flag (R.ingPortCapCfgEn p) && ack) fun s => s.setCaps p data).capsKnown_spec p
      (s.flag (R.ingPortCapCfgEn p) && ack && leAt data 11 1 == 0x01)
    refine ⟨_, exec_capabilityRead_of ha hw ack data, hup, hwait, ?_, fun hen hack i => (hv _ ?_).trans ?_, (hu.mono (by simp)).trans (hv.mono (by simp))⟩
    · rw [hvalid]
      simp [b2n, and_assoc]
    · clear * - p i; decide +revert
    · rw [State.when_true _ (by simp [hen, hack]), hcap]
  case current =>
    obtain ⟨hma, hport, hover, hunder, hk⟩ := s.judged_spec p (s.codesWith p code.toNat)
    refine ⟨_, s.meanMa p (s.codesWith p code.toNat), exec_cameraCurrentSample_eq ha p code, congrArg Port.codes hport, hma, fun hn => ?_, fun hf => if_pos hf,
      fun hp h0 hlt => ?_, fun hp h0 hlt => ?_, fun h => ?_, fun h => ?_, hk⟩
    · exact (if_neg hn).trans_lt (Nat.mod_lt _ (by decide))
    · rw [hover, if_pos (by simp [State.overCond, hp, h0, hlt])]
    · rw [hunder, if_pos (by simp [State.underCond, hp, h0, hlt])]
    · rw [hover, if_neg (by rcases h with h | h | h <;> simp [State.overCond, h])]
    · rw [hunder, if_neg (by rcases h with h | h | h <;> simp [State.underCond, h])]

end Sys2Proof.Machine
end

section
/-! SUPPORT and OBLIGATION. Rebase triples: the first one of a port, and the line fitted every 100 ms (R52, R379–R381). -/

namespace Sys2Proof.Machine

/-! ### A line commits as the new triple -/

/-- Whether a line of spread `sp` over `n` kept pairs counts as locked. -/
def State.lineLocks (s : State) (p sp n : Nat) : Bool := decide (50 ≤ n) && decide (sp ≤ s.get (R.timRbCfgLockNs p))

/-- The triple and its quality as a line sets them, before a loss of lock is counted. -/
def State.lineSet (s : State) (p anchor ofs rate sp : Nat) (locked : Bool) : State :=
  (((s.commitTriple p anchor ofs rate).set (R.timRbQualSpreadNs p) (min 65535 sp)).setInt (R.timRbQualPpm p) (ratePpm rate)).setFlag
    (R.timRbQualLocked p) locked

theorem State.commitLine_eq (s : State) (p anchor ofs rate : Nat) (bins : SMap StampPair) :
    s.commitLine p anchor ofs rate bins =
      (s.lineSet p anchor ofs rate (spread anchor ofs rate (bins.map (·.2)))
        (s.lineLocks p (spread anchor ofs rate (bins.map (·.2))) bins.length)).when
        (s.flag (R.timRbQualLocked p) && !s.lineLocks p (spread anchor ofs rate (bins.map (·.2))) bins.length) (·.inc R.cntRbUnlock) := rfl

theorem State.lineSet_spec (s : State) (p : Fin 8) (anchor ofs rate sp : Nat) (locked : Bool) :
    (s.lineSet p anchor ofs rate sp locked).get (R.ingPortRbAnchorAnchor p) = anchor % 2 ^ 32
      ∧ (s.lineSet p anchor ofs rate sp locked).get (R.ingPortRbOfsOfs p) = ofs % 2 ^ 64
      ∧ (s.lineSet p anchor ofs rate sp locked).get (R.ingPortRbRateRate p) = rate % 2 ^ 64
      ∧ (s.lineSet p anchor ofs rate sp locked).get (R.ingPortRbCtlValid p) = 1
      ∧ (s.lineSet p anchor ofs rate sp locked).get (R.timRbQualSpreadNs p) = min 65535 sp
      ∧ (s.lineSet p anchor ofs rate sp locked).get (R.timRbQualPpm p) = ofInt 14 (ratePpm rate) % 2 ^ 14
      ∧ (s.lineSet p anchor ofs rate sp locked).get (R.timRbQualLocked p) = b2n locked
      ∧ (s.lineSet p anchor ofs rate sp locked).ing = s.ing ∧ (s.lineSet p anchor ofs rate sp locked).time = s.time
      ∧ s.keepsRegs (s.lineSet p anchor ofs rate sp locked) [(R.ingPortRbAnchorAnchor p).key, (R.ingPortRbOfsOfs p).key, (R.ingPortRbRateRate p).key,
          (R.ingPortRbCtlValid p).key, (R.timRbQualSpreadNs p).key, (R.timRbQualPpm p).key, (R.timRbQualLocked p).key] := by
  have hsp : min 65535 sp % 2 ^ 16 = min 65535 sp := Nat.mod_eq_of_lt (by omega)
  unfold State.lineSet State.commitTriple State.setInt
  refine ⟨?anchor, ?ofs, ?rate, ?valid, ?spread, ?ppm, State.get_setFlag_same _ _ _ le_rfl, rfl, rfl, ?frame⟩
  case frame =>
    exact (((((((s.keepsRegs_refl _).set (by simp) _).set (by simp) _).set (by simp) _).setFlag (by simp) _).set (by simp) _).set (by simp) _).setFlag
      (by simp) _
  all_goals simp (disch := clear * - p; decide +revert) only [State.get_set_other, State.get_set_same, State.get_setFlag_other]
  case anchor | ofs | rate | ppm => rfl
  case valid => exact State.get_setFlag_same _ (R.ingPortRbCtlValid p) true le_rfl
  case spread => exact hsp

/-- From `s` to `t` a line of spread `sp` over `n` kept pairs has been committed as the triple of port `p`. -/
structure LineCommitted (s t : State) (p : Fin 8) (a o r sp n : Nat) : Prop where
  anchor : t.get (R.ingPortRbAnchorAnchor p) = a % 2 ^ 32
  ofs : t.get (R.ingPortRbOfsOfs p) = o % 2 ^ 64
  rate : t.get (R.ingPortRbRateRate p) = r % 2 ^ 64
  valid : t.get (R.ingPortRbCtlValid p) = 1
  spread : t.get (R.timRbQualSpreadNs p) = min 65535 sp
  ppm : t.get (R.timRbQualPpm p) = ofInt 14 (ratePpm r) % 2 ^ 14
  locked : t.get (R.timRbQualLocked p) = b2n (s.lineLocks p sp n)
  unlock : s.flag (R.timRbQualLocked p) = true → s.lineLocks p sp n = false → t.get R.cntRbUnlock = (s.get R.cntRbUnlock + 1) % 2 ^ 32
  ing : t.ing = s.ing
  time : t.time = s.time
  keeps : s.keepsRegs t [(R.ingPortRbAnchorAnchor p).key, (R.ingPortRbOfsOfs p).key, (R.ingPortRbRateRate p).key, (R.ingPortRbCtlValid p).key,
    (R.timRbQualSpreadNs p).key, (R.timRbQualPpm p).key, (R.timRbQualLocked p).key, R.cntRbUnlock.key]

theorem State.commitLine_spec (s : State) (p : Fin 8) (anchor ofs rate : Nat) (bins : SMap StampPair) :
    LineCommitted s (s.commitLine p anchor ofs rate bins) p anchor ofs rate (spread anchor ofs rate (bins.map (·.2))) bins.length := by
  have hunlock : R.cntRbUnlock.key ∉ [(R.ingPortRbAnchorAnchor p).key, (R.ingPortRbOfsOfs p).key, (R.ingPortRbRateRate p).key,
    (R.ingPortRbCtlValid p).key, (R.timRbQualSpreadNs p).key, (R.timRbQualPpm p).key, (R.timRbQualLocked p).key] := by decide +revert
  rw [State.commitLine_eq]
  generalize spread anchor ofs rate (bins.map (·.2)) = sp
  obtain ⟨hanchor, hofs, hrate, hvalid, hspread, hppm, hlocked, hing, htime, hk⟩ :=
    s.lineSet_spec p anchor ofs rate sp (s.lineLocks p sp bins.length)
  have hcnt := (State.keepsRegs_refl (s.lineSet p anchor ofs rate sp (s.lineLocks p sp bins.length)) [R.cntRbUnlock.key]).when
    (s.flag (R.timRbQualLocked p) && !s.lineLocks p sp bins.length) (f := (·.inc R.cntRbUnlock)) (((State.keepsRegs_refl _ _)).inc (by simp))
  simp only [List.mem_cons, List.not_mem_nil, or_false, not_or] at hunlock
  obtain ⟨ha, ho, hr, hv, hs, hp, hl⟩ := hunlock
  constructor
  case anchor => exact (hcnt _ (by simp [Ne.symm ha])).trans hanchor
  case ofs => exact (hcnt _ (by simp [Ne.symm ho])).trans hofs
  case rate => exact (hcnt _ (by simp [Ne.symm hr])).trans hrate
  case valid => exact (hcnt _ (by simp [Ne.symm hv])).trans hvalid
  case spread => exact (hcnt _ (by simp [Ne.symm hs])).trans hspread
  case ppm => exact (hcnt _ (by simp [Ne.symm hp])).trans hppm
  case locked => exact (hcnt _ (by simp [Ne.symm hl])).trans hlocked
  case unlock =>
    intro hf hn
    rw [State.when_true _ (by simp [hf, hn]), State.get_inc_same, hk _ (by simp [ha, ho, hr, hv, hs, hp, hl])]
    rfl
  case ing => exact (State.when_same State.ing rfl _).trans hing
  case time => exact (State.when_same State.time rfl _).trans htime
  case keeps => exact (hk.mono (by simp)).trans (hcnt.mono (by simp))

theorem State.lineLocks_iff (s : State) (p sp n : Nat) : s.lineLocks p sp n = true ↔ 50 ≤ n ∧ sp ≤ s.get (R.timRbCfgLockNs p) := by
  simp [State.lineLocks]

theorem b2n_eq_one (b : Bool) : b2n b = 1 ↔ b = true := by cases b <;> decide

theorem b2n_eq_zero (b : Bool) : b2n b = 0 ↔ b = false := by cases b <;> decide

/-! ### The two ways to a triple -/

theorem exec_firstTripleCommit_of {s : State} (ha : s.awake = true) {p : Fin 8} {x : StampPair} (hx : (s.port p).first = .pair x) :
    exec (.firstTripleCommit p) s = .next ((s.commitLine p x.s x.t (1000 * 2 ^ 32) (s.lastBins p)).setPort p
      { (s.commitLine p x.s x.t (1000 * 2 ^ 32) (s.lastBins p)).port p with first := .idle }) := by
  change execFirstTripleCommit p s = _
  rw [execFirstTripleCommit, State.clocked_awake ha, hx]

/-- The estimator of a port whose kept pairs are those of the last second, as it stands after an estimate. -/
def State.estimated (s : State) (p : Nat) : State := s.setRb p { bins := s.lastBins p, lastFit := s.now }

theorem State.estimated_rb (s : State) (p : Nat) : (s.estimated p).rb p = { bins := s.lastBins p, lastFit := s.now } := SMap.get_set_same _ _ _ _

theorem State.rebaseEstimate_line {s : State} {p : Nat} (hon : s.portOn p = true) (hv : s.flag (R.ingPortRbCtlValid p) = true)
    (ht : (s.rb p).lastFit + 100000000 ≤ s.now) {last : Nat × StampPair} (hlast : (s.lastBins p).getLast? = some last)
    (h2 : 2 ≤ (s.lastBins p).length) :
    s.rebaseEstimate p = (s.estimated p).commitLine p last.2.s ((Config.fitLine ((s.lastBins p).map fun b => (b.2.s, b.2.t))).1 % 2 ^ 64)
      ((Config.fitLine ((s.lastBins p).map fun b => (b.2.s, b.2.t))).2 % 2 ^ 64) (s.lastBins p) := by
  have hpairs : ((s.lastBins p).map (·.2)).map (fun x => (x.s, x.t)) = (s.lastBins p).map fun b => (b.2.s, b.2.t) := List.map_map
  unfold State.rebaseEstimate
  dsimp only
  rw [if_neg (by simp [hon, hv, State.reached, ht]), hlast, List.length_map, hpairs]
  exact if_neg (by omega)

theorem State.rebaseEstimate_few {s : State} {p : Nat} (hon : s.portOn p = true) (hv : s.flag (R.ingPortRbCtlValid p) = true)
    (ht : (s.rb p).lastFit + 100000000 ≤ s.now) (h2 : (s.lastBins p).length < 2) : s.rebaseEstimate p = s.estimated p := by
  unfold State.rebaseEstimate
  dsimp only
  rw [if_neg (by simp [hon, hv, State.reached, ht]), List.length_map]
  split
  · rfl
  · exact if_pos h2

/-- The largest residual is the spread. -/
theorem spread_eq_foldl_max (anchor ofs rate : Nat) (bins : SMap StampPair) :
    spread anchor ofs rate (bins.map (·.2)) = (bins.map fun b => ((b.2.t : Int) - rebase anchor ofs rate b.2.s).natAbs).foldl max 0 := by
  rw [spread, List.foldl_map, List.foldl_map]

/-- Settles O40: both ways to a triple commit a line, and what a committed line does is said once. -/
theorem rebaseTriplesCommitted : Obligations.RebaseTriplesCommitted := by
  refine ⟨fun p x s ha hx => ?first, fun p s ha hon hv ht => ⟨fun last hlast h2 => ?line, fun h2 => ?few⟩⟩
  case first =>
    have h := s.commitLine_spec p x.s x.t (1000 * 2 ^ 32) (s.lastBins p)
    refine ⟨_, exec_firstTripleCommit_of ha hx, h.anchor, h.ofs, h.rate, h.valid, congrArg Port.first (State.port_setPort _ _ _), h.ppm,
      fun hl => ?_, fun hn hl => ?_, h.keeps.setPort _ _⟩
    · rw [State.get_setPort, h.locked, b2n_eq_one, State.lineLocks_iff] at hl
      exact hl.1
    · have hun : s.lineLocks p (spread x.s x.t (1000 * 2 ^ 32) ((s.lastBins p).map (·.2))) (s.lastBins p).length = false := by
        simp [State.lineLocks, hn]
      exact ⟨h.locked.trans ((b2n_eq_zero _).2 hun), h.unlock hl hun⟩
  case line =>
    have h := (s.estimated p).commitLine_spec p last.2.s ((Config.fitLine ((s.lastBins p).map fun b => (b.2.s, b.2.t))).1 % 2 ^ 64)
      ((Config.fitLine ((s.lastBins p).map fun b => (b.2.s, b.2.t))).2 % 2 ^ 64) (s.lastBins p)
    rw [spread_eq_foldl_max] at h
    refine ⟨_, (congrArg Host.Outcome.next (State.clocked_awake ha _)).trans (congrArg _ (State.rebaseEstimate_line hon hv ht hlast h2)),
      h.anchor, h.ofs.trans (Nat.mod_mod _ _), h.rate.trans (Nat.mod_mod _ _), h.valid, h.spread, ?_, fun hl hz => ?_, ?_, h.keeps⟩
    · rw [h.locked, b2n_eq_one]
      exact State.lineLocks_iff _ _ _ _
    · exact h.unlock hl ((b2n_eq_zero _).1 (h.locked.symm.trans hz))
    · unfold State.rb
      rw [h.time]
      exact congrArg Rebaser.lastFit (s.estimated_rb p)
  case few =>
    exact ⟨_, (congrArg Host.Outcome.next (State.clocked_awake ha _)).trans (congrArg _ (State.rebaseEstimate_few hon hv ht h2)),
      congrArg Rebaser.lastFit (s.estimated_rb p), fun _ _ => rfl⟩

end Sys2Proof.Machine
end

section
/-! SUPPORT. The tests of the rebase stage: what they read, and what keeps it (R28, R51–R56, R59, R60). -/

namespace Sys2Proof.Machine

/-! ### What the tests read -/

/-- The register fields that the tests of port `p` read. -/
def testFields (p : Nat) : List Fld :=
  [R.ingPortRbCtlValid p, R.ingPortRbAnchorAnchor p, R.ingPortRbOfsOfs p, R.ingPortRbRateRate p, R.ingPortLimitAgeMs p, R.ingPortLimitLeadUs p]

/-- Everything that the tests of port `p` read is in `t` as it is in `s`. -/
structure SameTests (s t : State) (p : Nat) : Prop where
  fields : ∀ x ∈ testFields p, t.get x = s.get x
  ctl : t.ctl = s.ctl
  cv : t.cv = s.cv
  dev : t.time.dev = s.time.dev
  words : t.ing.words = s.ing.words
  pool : t.ing.pool = s.ing.pool

variable {s t u : State} {p : Nat}

theorem SameTests.trans (a : SameTests s t p) (b : SameTests t u p) : SameTests s u p :=
  ⟨fun x hx => (b.fields x hx).trans (a.fields x hx), b.ctl.trans a.ctl, b.cv.trans a.cv, b.dev.trans a.dev, b.words.trans a.words, b.pool.trans a.pool⟩

theorem SameTests.now (h : SameTests s t p) : t.now = s.now := congrArg (· / 2 ^ 32) h.dev

theorem SameTests.holdT (h : SameTests s t p) : t.holdT = s.holdT := by unfold State.holdT State.reached; rw [h.ctl, h.now]

theorem SameTests.rebased (h : SameTests s t p) (stamp : Nat) : t.rebased p stamp = s.rebased p stamp := by
  unfold State.rebased
  rw [h.fields _ (by simp [testFields]), h.fields _ (by simp [testFields]), h.fields _ (by simp [testFields])]

/-- The same tests come to the same end. -/
theorem SameTests.headCase (h : SameTests s t p) (e : Event) : t.headCase p e = s.headCase p e := by
  have hvalid : t.flag (R.ingPortRbCtlValid p) = s.flag (R.ingPortRbCtlValid p) := State.flag_of_get (h.fields _ (by simp [testFields]))
  have hage : t.getIn (R.ingPortLimitAgeMs p) 1 4000 = s.getIn (R.ingPortLimitAgeMs p) 1 4000 := by
    unfold State.getIn
    rw [h.fields _ (by simp [testFields])]
  have hlead : t.get (R.ingPortLimitLeadUs p) = s.get (R.ingPortLimitLeadUs p) := h.fields _ (by simp [testFields])
  have hwords : ∀ g, t.words g = s.words g := fun g => by unfold State.words; rw [h.words]
  unfold State.headCase
  rw [hvalid, h.rebased, h.holdT, h.now, hage, hlead, h.cv, h.pool, hwords]

theorem Port.head?_congr {v w : Port} (hp : w.path = v.path) (hq : w.queue = v.queue) : w.head? = v.head? := by unfold Port.head?; rw [hp, hq]

theorem SameTests.heldHead (h : SameTests s t p) (hhead : (t.port p).head? = (s.port p).head?) : t.heldHead p = s.heldHead p := by
  unfold State.heldHead
  rw [hhead]
  cases (s.port p).head? with
  | none => rfl
  | some e => dsimp only; rw [h.headCase]

/-! ### What keeps it -/

/-- Fields outside the tests may change. -/
theorem SameTests.of_keepsRegs {ks : List Nat} (hk : s.keepsRegs t ks) (hf : ∀ x ∈ testFields p, x.key ∉ ks) (hctl : t.ctl = s.ctl) (hcv : t.cv = s.cv)
    (hdev : t.time.dev = s.time.dev) (hwords : t.ing.words = s.ing.words) (hpool : t.ing.pool = s.ing.pool) : SameTests s t p :=
  ⟨fun x hx => hk x (hf x hx), hctl, hcv, hdev, hwords, hpool⟩

theorem State.condition_eq (s : State) (k : Nat) : ∃ v, s.condition k = s.setTrace v := by
  unfold State.condition
  split
  · exact ⟨_, rfl⟩
  · exact ⟨s.obs.trace, rfl⟩

/-- What the water marks of a port leave alone, and SHEDDING where it was not set. -/
structure Marked (s t : State) (p : Fin 8) : Prop where
  ing : t.ing = s.ing
  ctl : t.ctl = s.ctl
  cv : t.cv = s.cv
  time : t.time = s.time
  keeps : s.keepsRegs t [(R.ingPortBufOcc p).key, (R.ingPortBufShedding p).key]
  shedding : s.flag (R.ingPortBufShedding p) = false → (t.get (R.ingPortBufShedding p) = 1 ↔ s.hwm p * 65536 < s.occupancy p)

theorem State.waterMarks_spec (s : State) (p : Fin 8) : Marked s (s.waterMarks p) p := by
  have hne : (R.ingPortBufShedding p).key ≠ (R.ingPortBufOcc p).key := by decide +revert
  have hocc : s.keepsRegs (s.set (R.ingPortBufOcc p) (s.occupancy p / 256)) [(R.ingPortBufOcc p).key, (R.ingPortBufShedding p).key] :=
    (s.keepsRegs_refl _).set (by simp) _
  unfold State.waterMarks
  dsimp only
  split
  next hover =>
    obtain ⟨v, hv⟩ := ((s.set (R.ingPortBufOcc p) (s.occupancy p / 256)).setFlag (R.ingPortBufShedding p) true).condition_eq 3
    rw [hv]
    simp only [Bool.and_eq_true, decide_eq_true_eq] at hover
    exact ⟨rfl, rfl, rfl, rfl, hocc.setFlag (f := R.ingPortBufShedding p) (by simp) true,
      fun _ => iff_of_true (State.get_setFlag_same _ (R.ingPortBufShedding p) true le_rfl) hover.2⟩
  next hover =>
    split
    next hunder =>
      simp only [Bool.and_eq_true, State.shedding] at hunder
      exact ⟨rfl, rfl, rfl, rfl, hocc.setFlag (f := R.ingPortBufShedding p) (by simp) false, fun h => by simp [h] at hunder⟩
    next hunder =>
      refine ⟨rfl, rfl, rfl, rfl, hocc, fun h => ?_⟩
      rw [State.get_set_other _ hne, State.get_of_flag_false h]
      simpa [State.shedding, h] using hover

end Sys2Proof.Machine
end

section
/-! SUPPORT and OBLIGATION. Long packets and the events they code (R39–R49, R60–R63). -/

namespace Sys2Proof.Machine

/-! ### What decoding has changed before an event is placed -/

/-- From `s` to `t` nothing has changed that the placing of an event from port `p` looks at, and no register but CNT_IN. -/
structure SameIntake (s t : State) (p : Nat) : Prop where
  keeps : s.keepsRegs t [(R.ingCntIn p).key]
  tests : SameTests s t p
  phase : t.phase = s.phase
  halted : t.halted = s.halted
  err : t.err = s.err
  path : (t.port p).path = (s.port p).path
  queue : (t.port p).queue = (s.port p).queue

variable {s t u : State} {p : Fin 8}

theorem sameIntake_touch (s : State) (p : Nat) : SameIntake s s.touch p :=
  ⟨fun _ _ => rfl, ⟨fun _ _ => rfl, rfl, rfl, rfl, rfl, rfl⟩, rfl, rfl, rfl, rfl, rfl⟩

theorem SameIntake.first {p : Nat} (h : SameIntake s t p) (v : FirstTriple) : SameIntake s (t.setPort p { t.port p with first := v }) p :=
  ⟨h.keeps.setPort _ _, h.tests.trans ⟨fun _ _ => rfl, rfl, rfl, rfl, rfl, rfl⟩, h.phase, h.halted, h.err,
    (congrArg Port.path (State.port_setPort _ _ _)).trans h.path, (congrArg Port.queue (State.port_setPort _ _ _)).trans h.queue⟩

theorem SameIntake.setRb {p : Nat} (h : SameIntake s t p) (v : Rebaser) : SameIntake s (t.setRb p v) p :=
  ⟨h.keeps, h.tests.trans ⟨fun _ _ => rfl, rfl, rfl, rfl, rfl, rfl⟩, h.phase, h.halted, h.err, h.path, h.queue⟩

theorem SameIntake.ite {p : Nat} {c : Prop} [Decidable c] (ht : SameIntake s t p) (hu : SameIntake s u p) : SameIntake s (if c then t else u) p := by
  split
  · exact ht
  · exact hu

theorem SameIntake.takePair {p : Nat} (h : SameIntake s t p) (stamp last : Nat) : SameIntake s (t.takePair p stamp last) p := by
  unfold State.takePair
  refine SameIntake.ite (SameIntake.setRb ?_ _) ?_
  all_goals
    split
    · exact h.first _
    · exact h

theorem State.takePair_get (s : State) (p stamp last : Nat) (x : Fld) : (s.takePair p stamp last).get x = s.get x := by
  have hfirst : ∀ a b : State, a.get x = s.get x → ∀ c : Bool, b.get x = a.get x → (if c then b else a).get x = s.get x := fun a b ha c hb => by
    cases c
    · exact ha
    · exact hb.trans ha
  unfold State.takePair
  refine hfirst _ _ ?_ _ rfl
  split
  · rfl
  · rfl

/-- The register fields that decide where an event of port `p` goes. -/
def intakeFields (p : Nat) : List Fld :=
  [R.ingPortGeomWidthM1 p, R.ingPortGeomHeightM1 p, R.errOfflineDies, R.ingPortBufShedding p, R.ingPortCfgShed p, R.ingPortWmHwm p] ++ testFields p

/-- None of them is CNT_IN. -/
theorem intakeFields_apart (p : Fin 8) : ∀ x ∈ intakeFields p, x.key ∉ [(R.ingCntIn p).key] := by decide +revert

/-- Nor is any counter of what becomes of an event. -/
theorem intakeCounters_apart (p : Fin 8) :
    (R.ingCntRange p).key ≠ (R.ingCntIn p).key ∧ (R.ingCntShed p).key ≠ (R.ingCntIn p).key
      ∧ (R.ingCntHoldDrop p).key ≠ (R.ingCntIn p).key ∧ (R.ingCntOvf p).key ≠ (R.ingCntIn p).key := by decide +revert

theorem SameIntake.get (h : SameIntake s t p) {x : Fld} (hx : x ∈ intakeFields p) : t.get x = s.get x := h.keeps x (intakeFields_apart p x hx)

theorem SameIntake.incIn (h : SameIntake s t p) : SameIntake s (t.inc (R.ingCntIn p)) p := by
  have hf : ∀ x ∈ testFields p, x.key ∉ [(R.ingCntIn p).key] := fun x hx => intakeFields_apart p x (List.mem_append_right _ hx)
  exact ⟨h.keeps.inc (by simp), h.tests.trans (.of_keepsRegs ((t.keepsRegs_refl _).inc (by simp)) hf rfl rfl rfl rfl rfl), h.phase, h.halted, h.err,
    h.path, h.queue⟩

/-! ### Where a decoded event goes -/

/-- An event counted in CNT_IN is out of range, discarded with its MSD, shed, passed on or buffered. -/
def State.placed (s : State) (p : Nat) (e : Event) : State :=
  if s.get (R.ingPortGeomWidthM1 p) < e.x ∨ s.getIn (R.ingPortGeomHeightM1 p) 0 1535 < e.y then s.inc (R.ingCntRange p)
  else if s.offline dieMsd0 || s.offline dieMsd1 then (s.inc (R.ingCntDieDrop p)).inc R.cntDieDiscard
  else if s.shedding p && s.flag (R.ingPortCfgShed p) then ((s.inc (R.ingCntShed p)).count dieIod 18 1).condition 3
  else if s.direct p e then s.setPort p { s.port p with path := (s.port p).path ++ [e] }
  else s.buffer p e

theorem State.decoded_eq (s : State) (p : Nat) (e : Event) : s.decoded p e = (s.inc (R.ingCntIn p)).placed p e := rfl

/-- An event outside the sensor (R49). -/
def State.outside (s : State) (p : Nat) (e : Event) : Prop :=
  s.get (R.ingPortGeomWidthM1 p) < e.x ∨ min 1535 (s.get (R.ingPortGeomHeightM1 p)) < e.y

theorem SameIntake.direct (h : SameIntake s t p) (e : Event) : t.direct p e = s.direct p e := by
  unfold State.direct State.rebases State.awake State.served
  dsimp only
  rw [h.queue, h.path, h.tests.headCase, h.tests.ctl, h.halted, h.phase]

theorem SameIntake.heldHead (h : SameIntake s t p) : t.heldHead p = s.heldHead p := h.tests.heldHead (Port.head?_congr h.path h.queue)

theorem SameIntake.offline (h : SameIntake s t p) (d : Nat) : t.offline d = s.offline d := by
  unfold State.offline State.dieOff
  rw [h.err, h.get (by simp [intakeFields])]

theorem SameIntake.outside_iff (h : SameIntake s t p) (e : Event) :
    (t.get (R.ingPortGeomWidthM1 p) < e.x ∨ t.getIn (R.ingPortGeomHeightM1 p) 0 1535 < e.y) ↔ s.outside p e := by
  rw [State.outside, State.getIn, Nat.zero_max, h.get (by simp [intakeFields]), h.get (by simp [intakeFields])]

theorem SameIntake.shed_eq (h : SameIntake s t p) :
    (t.shedding p && t.flag (R.ingPortCfgShed p)) = (s.flag (R.ingPortBufShedding p) && s.flag (R.ingPortCfgShed p)) := by
  rw [State.shedding, State.flag_of_get (h.get (by simp [intakeFields])), State.flag_of_get (h.get (by simp [intakeFields]))]

theorem SameIntake.placed_outside (h : SameIntake s t p) {e : Event} (ho : s.outside p e) : t.placed p e = t.inc (R.ingCntRange p) :=
  if_pos ((h.outside_iff e).2 ho)

section
variable (h : SameIntake s t p) {e : Event} (hin : ¬s.outside p e) (h2 : s.offline 2 = false) (h3 : s.offline 3 = false)
include h hin h2 h3

theorem SameIntake.placed_inside :
    t.placed p e = if s.flag (R.ingPortBufShedding p) && s.flag (R.ingPortCfgShed p) then ((t.inc (R.ingCntShed p)).count dieIod 18 1).condition 3
      else if s.direct p e then t.setPort p { t.port p with path := (t.port p).path ++ [e] } else t.buffer p e := by
  unfold State.placed
  rw [if_neg (mt (h.outside_iff e).1 hin), h.offline, h.offline, if_neg (by simp [dieMsd0, dieMsd1, h2, h3]), h.shed_eq, h.direct]

theorem SameIntake.placed_shed (hs : s.flag (R.ingPortBufShedding p) = true) (hc : s.flag (R.ingPortCfgShed p) = true) :
    t.placed p e = ((t.inc (R.ingCntShed p)).count dieIod 18 1).condition 3 := by
  rw [h.placed_inside hin h2 h3, if_pos (by simp [hs, hc])]

variable (hs : s.flag (R.ingPortBufShedding p) = false ∨ s.flag (R.ingPortCfgShed p) = false)
include hs

theorem SameIntake.placed_direct (hd : s.direct p e = true) : t.placed p e = t.setPort p { t.port p with path := (t.port p).path ++ [e] } := by
  rw [h.placed_inside hin h2 h3, if_neg (by rcases hs with hs | hs <;> simp [hs]), if_pos hd]

theorem SameIntake.placed_buffer (hd : s.direct p e = false) : t.placed p e = t.buffer p e := by
  rw [h.placed_inside hin h2 h3, if_neg (by rcases hs with hs | hs <;> simp [hs]), if_neg (by simp [hd])]

end

theorem State.direct_empty {p : Nat} {e : Event} (h : s.direct p e = true) : (s.port p).queue = [] := by
  simp only [State.direct, Bool.and_eq_true, List.isEmpty_iff] at h
  exact h.1.1.1

/-- An event put at the end of the burst buffer. -/
def State.queued (s : State) (p : Nat) (e : Event) : State := s.setPort p { s.port p with queue := (s.port p).queue ++ [e] }

theorem State.buffer_room {p : Nat} (h : (s.port p).queue.length < 524288) (e : Event) :
    s.buffer p e = (s.queued p e).waterMarks p :=
  if_neg (by simp only [burstBytes, State.occupancy, eventBytes]; omega)

theorem State.buffer_full {p : Nat} (h : 524288 ≤ (s.port p).queue.length) (e : Event) :
    s.buffer p e = ((s.inc (if s.heldHead p then R.ingCntHoldDrop p else R.ingCntOvf p)).count dieIod 18 1).condition 3 :=
  if_pos (by simp only [burstBytes, State.occupancy, eventBytes]; omega)

/-- A counted loss of an event: its counter, and nothing else of the ingest side or the registers. -/
theorem State.lost_spec (s : State) (f : Fld) :
    (((s.inc f).count dieIod 18 1).condition 3).get f = (s.get f + 1) % 2 ^ f.width
      ∧ (((s.inc f).count dieIod 18 1).condition 3).ing = s.ing ∧ s.keepsRegs (((s.inc f).count dieIod 18 1).condition 3) [f.key] := by
  obtain ⟨v, hv⟩ := ((s.inc f).count dieIod 18 1).condition_eq 3
  rw [hv]
  exact ⟨s.get_inc_same f, rfl, fun x hx => s.get_inc_other (by simpa using hx)⟩

/-- An event counted in `f` beside CNT_IN. -/
theorem SameIntake.counted (h : SameIntake s u p) {f : Fld} (hf : f.key ≠ (R.ingCntIn p).key) {n : Nat} (hc : t.get f = (u.get f + 1) % n)
    (hk : u.keepsRegs t [f.key]) :
    t.get (R.ingCntIn p) = u.get (R.ingCntIn p) ∧ t.get f = (s.get f + 1) % n ∧ s.keepsRegs t [(R.ingCntIn p).key, f.key] :=
  ⟨hk _ (by simpa using hf.symm), by rw [hc, h.keeps f (by simpa using hf)], (h.keeps.mono (by simp)).trans (hk.mono (by simp))⟩

/-- An event that the burst buffer takes: the newest of its queue. -/
theorem SameIntake.buffer_room (h : SameIntake s u p) (hroom : (s.port p).queue.length < 524288) (e : Event) :
    (u.buffer p e).get (R.ingCntIn p) = u.get (R.ingCntIn p) ∧ ((u.buffer p e).port p).queue = (s.port p).queue ++ [e]
      ∧ (s.flag (R.ingPortBufShedding p) = false → ((u.buffer p e).get (R.ingPortBufShedding p) = 1 ↔
          max 1 (min 63 (s.get (R.ingPortWmHwm p))) * 65536 < 8 * ((s.port p).queue.length + 1)))
      ∧ s.keepsRegs (u.buffer p e) [(R.ingCntIn p).key, (R.ingPortBufOcc p).key, (R.ingPortBufShedding p).key] := by
  have hin : ∀ q : Fin 8, (R.ingCntIn q).key ∉ [(R.ingPortBufOcc q).key, (R.ingPortBufShedding q).key] := by decide
  have hport : (u.queued p e).port p = { u.port p with queue := (u.port p).queue ++ [e] } := State.port_setPort _ _ _
  have hget : ∀ x, (u.queued p e).get x = u.get x := fun _ => rfl
  have hocc : (u.queued p e).occupancy p = 8 * ((s.port p).queue.length + 1) := by
    rw [State.occupancy, hport, h.queue, List.length_append]
    rfl
  have hhwm : (u.queued p e).hwm p = max 1 (min 63 (s.get (R.ingPortWmHwm p))) := by
    rw [State.hwm, State.getIn, hget, h.get (by simp [intakeFields])]
  obtain ⟨hing, -, -, -, hk, hshed⟩ := (u.queued p e).waterMarks_spec p
  rw [hocc, hhwm, State.flag_of_get ((hget _).trans (h.get (by simp [intakeFields])))] at hshed
  rw [State.buffer_room (by rw [h.queue]; exact hroom)]
  refine ⟨hk _ (hin p), ?_, hshed, (h.keeps.mono (by simp)).trans (hk.mono (by simp))⟩
  rw [State.port_of_ing hing, hport, h.queue]

/-! ### Payloads -/

theorem leNat_leBytes (v n : Nat) : leNat (leBytes v n) = v % 256 ^ n := by
  induction n generalizing v with
  | zero => simp [leBytes, leNat, Nat.mod_one]
  | succ n ih =>
    rw [leBytes, leNat, ih, BitVec.toNat_ofNat]
    exact ((congrArg (v % ·) Nat.pow_succ').trans Nat.mod_mul).symm

/-- The word that its own bytes spell. -/
theorem leAt_leBytes {v n : Nat} (h : v < 256 ^ n) : leAt (leBytes v n) 0 n = v := by
  have hlen := leBytes_length v n
  rw [leAt, slice, List.drop_zero, List.take_of_length_le hlen.le, leNat_leBytes, Nat.mod_eq_of_lt h]

/-- The event that an AE64 word codes (R42). -/
abbrev ae64Event (w : Nat) : Event := ⟨bits w 0 32, bits w 32 11, bits w 43 11, bit w 54, false⟩

/-- A packet of one AE64 event gives its pair and the event. -/
theorem State.packet_ae64 {p : Nat} {k : Packet} (hc : k.crcOk = true) {w : BitVec 64} (hp : k.payload = leBytes w.toNat 8)
    (ht : bits w.toNat 56 8 = 0xAE) (last : Nat) :
    s.packet p .ae64 k last = (s.takePair p (bits w.toNat 0 32) last).decoded p (ae64Event w.toNat) := by
  have hw : leAt (leBytes w.toNat 8) 0 8 = w.toNat := leAt_leBytes w.isLt
  have hlen : (leBytes w.toNat 8).length = 8 := leBytes_length _ _
  have hnew : newestStamp .ae64 (s.port p).tb (leBytes w.toNat 8) = some (bits w.toNat 0 32) := by
    simp [newestStamp, hlen, hw, ht]
  have hdec : ∀ u : State, u.decodeAe64 p (leBytes w.toNat 8) = u.decoded p (ae64Event w.toNat) := fun u => by
    rw [State.decodeAe64, hlen, State.when_false _ (c := 8 % 8 != 0) rfl]
    change (if bits (leAt (leBytes w.toNat 8) 0 8) 56 8 = 0xAE then _ else _) = _
    rw [hw, if_pos ht]
  unfold State.packet
  rw [if_neg (by simp [hc]), hp, hnew]
  exact hdec _

theorem word32_marker {w : Nat} (h0 : bit w 0 = true) (h1 : bits w 1 3 = 0) : word32 w = .marker (bits w 4 28) := by
  have hne : w ≠ 0xFFFFFFFF := by
    rintro rfl
    exact absurd h1 (by decide)
  rw [word32, if_neg hne, if_neg (by simp [h0]), if_pos h1]

/-- A packet of one time base word moves the time base. -/
theorem State.packet_marker {p : Nat} {k : Packet} (hc : k.crcOk = true) {w : BitVec 32} (hp : k.payload = leBytes w.toNat 4)
    (h0 : bit w.toNat 0 = true) (h1 : bits w.toNat 1 3 = 0) (last : Nat) :
    s.packet p .ct32 k last = s.marker p (bits w.toNat 4 28) := by
  have hw : leAt (leBytes w.toNat 4) 0 4 = w.toNat := leAt_leBytes w.isLt
  have hlen : (leBytes w.toNat 4).length = 4 := leBytes_length _ _
  have hwords : words32 (leBytes w.toNat 4) = [w.toNat] := by simp [words32, hlen, hw]
  have hmark := word32_marker h0 h1
  have hnew : newestStamp .ct32 (s.port p).tb (leBytes w.toNat 4) = none := by
    simp [newestStamp, hwords, newestCt32, hmark]
  unfold State.packet
  rw [if_neg (by simp [hc]), hp, hnew]
  dsimp only
  rw [hwords, hlen, State.when_false _ (c := 4 % 4 != 0) rfl, State.decodeCt32, hmark]
  rfl

/-- What a failed payload CRC leaves: a count, and a lost time base for the layouts that need one. -/
def State.crcFailed (s : State) (p : Nat) (l : Layout) : State :=
  (s.inc (R.ingCntCrc p)).when (l != .ae64) fun s => s.setPort p { s.port p with tb := none }

theorem State.crcFailed_spec (s : State) (p : Fin 8) (l : Layout) :
    (s.crcFailed p l).get (R.ingCntCrc p) = (s.get (R.ingCntCrc p) + 1) % 2 ^ 32
      ∧ ((s.crcFailed p l).port p).tb = (if l = .ae64 then (s.port p).tb else none) ∧ ((s.crcFailed p l).port p).queue = (s.port p).queue
      ∧ s.keepsRegs (s.crcFailed p l) [(R.ingCntCrc p).key] := by
  have hk := (s.keepsRegs_refl [(R.ingCntCrc p).key]).inc (f := R.ingCntCrc p) (by simp)
  unfold State.crcFailed
  by_cases hl : l = .ae64
  · rw [State.when_false _ (by simp [hl]), if_pos hl]
    exact ⟨s.get_inc_same _, rfl, rfl, hk⟩
  · rw [State.when_true _ (by simp [hl]), if_neg hl, State.port_setPort]
    exact ⟨s.get_inc_same _, rfl, rfl, hk.setPort _ _⟩

theorem State.packet_badCrc {p : Nat} {k : Packet} (hc : k.crcOk = false) (l : Layout) (last : Nat) :
    s.packet p l k last = s.crcFailed p l := by
  unfold State.packet
  rw [if_pos (by simp [hc])]
  rfl

/-! ### The way of a packet to the decoder -/

theorem exec_longPacket_of (h : s.phase = .sail) (p : Fin 8) (k : Packet) : exec (.longPacket p k) s = .next (s.touch.longPacket p k s.now) := by
  change execLongPacket p k s = _
  rw [execLongPacket, h]

theorem State.longPacket_untrained {p : Nat} (h : (s.port p).trained = false) (k : Packet) (last : Nat) : s.longPacket p k last = s := by
  unfold State.longPacket
  rw [if_pos (by simp [h])]

section
variable {p : Nat} {k : Packet} (ht : (s.port p).trained = true) (hh : s.halted = false)
include ht hh

theorem State.longPacket_badHeader (hk : k.hdrOk = false) (last : Nat) :
    s.longPacket p k last = (s.inc (R.ingCntCrc p)).setPort p { s.port p with tb := none } := by
  unfold State.longPacket
  rw [if_neg (by simp [ht, hh]), if_pos (by simp [hk])]

theorem State.longPacket_unmapped (hk : k.hdrOk = true) (hu : k.vc ≠ s.get (R.ingPortCfgVc p) ∨ s.layoutOf p k.dt = none) (last : Nat) :
    s.longPacket p k last = s.unmapped p k := by
  unfold State.longPacket
  rw [if_neg (by simp [ht, hh]), if_neg (by simp [hk])]
  split
  next => rfl
  next hvc => rw [hu.resolve_left hvc]

/-- A packet that the port takes, with no injection armed or held. -/
theorem State.longPacket_taken (hk : k.hdrOk = true) (hvc : k.vc = s.get (R.ingPortCfgVc p)) {l : Layout} (hl : s.layoutOf p k.dt = some l)
    (hm : s.get R.hifSvcMode ≠ 2) (hf : (s.port p).fiHeld = none) (last : Nat) : s.longPacket p k last = s.packet p l k last := by
  unfold State.longPacket State.inject
  rw [if_neg (by simp [ht, hh]), if_neg (by simp [hk]), if_neg (by simp [hvc]), hl]
  dsimp only
  rw [hf]
  exact if_pos (by simp [State.testMode, hm])

end

theorem State.unmapped_spec (s : State) (p : Fin 8) (k : Packet) :
    (s.unmapped p k).get (R.ingCntUnmapped p) = (s.get (R.ingCntUnmapped p) + 1) % 2 ^ 32 ∧ (s.unmapped p k).ing = s.ing
      ∧ (s.unmapped p k).get (R.ingCntCrc p) = (if k.crcOk then s.get (R.ingCntCrc p) else (s.get (R.ingCntCrc p) + 1) % 2 ^ 32)
      ∧ s.keepsRegs (s.unmapped p k) [(R.ingCntUnmapped p).key, (R.ingCntCrc p).key] := by
  have hne : (R.ingCntUnmapped p).key ≠ (R.ingCntCrc p).key := by decide +revert
  have hk := (s.keepsRegs_refl [(R.ingCntUnmapped p).key, (R.ingCntCrc p).key]).inc (f := R.ingCntUnmapped p) (by simp)
  unfold State.unmapped
  cases hc : k.crcOk
  · refine ⟨?_, rfl, ?_, hk.inc (f := R.ingCntCrc p) (by simp)⟩
    · exact (State.get_inc_other _ hne).trans (s.get_inc_same _)
    · exact (State.get_inc_same _ _).trans (by rw [s.get_inc_other hne.symm]; rfl)
  · exact ⟨s.get_inc_same _, rfl, s.get_inc_other hne.symm, hk⟩

/-- A taken packet of one AE64 event leaves the event to be placed, counted in CNT_IN. -/
theorem exec_longPacket_ae64 (hs : s.phase = .sail) (hh : s.halted = false) (ht : (s.port p).trained = true) {k : Packet} (hk : k.hdrOk = true)
    (hvc : k.vc = s.get (R.ingPortCfgVc p)) (hl : s.layoutOf p k.dt = some .ae64) (hm : s.get R.hifSvcMode ≠ 2) (hf : (s.port p).fiHeld = none)
    (hc : k.crcOk = true) {w : BitVec 64} (hp : k.payload = leBytes w.toNat 8) (htag : bits w.toNat 56 8 = 0xAE) :
    ∃ u : State, exec (.longPacket p k) s = .next (u.placed p (ae64Event w.toNat)) ∧ SameIntake s u p
      ∧ u.get (R.ingCntIn p) = (s.get (R.ingCntIn p) + 1) % 2 ^ 32 := by
  refine ⟨(s.touch.takePair p (bits w.toNat 0 32) s.now).inc (R.ingCntIn p), ?_, ((sameIntake_touch s p).takePair _ _).incIn, ?_⟩
  · rw [exec_longPacket_of hs, State.longPacket_taken (s := s.touch) ht hh hk hvc hl hm hf, State.packet_ae64 hc hp htag, State.decoded_eq]
  · rw [State.get_inc_same, State.takePair_get]
    rfl

/-- Settles O41: the way of a packet to its decoder, and for an AE64 word the place of its event. -/
theorem longPacketsAreDecoded : Obligations.LongPacketsAreDecoded := by
  intro p k s hs hh
  refine ⟨fun ht => ?untrained, fun ht => ⟨fun hk => ?badHeader, fun hk hu => ?unmapped, fun l hk hvc hl hm hf =>
    ⟨fun hc => ?badCrc, fun w hct hc hp h0 h1 => ?marker, fun w hae hc hp htag => ?event⟩⟩⟩
  case untrained => rw [exec_longPacket_of hs, State.longPacket_untrained (s := s.touch) ht]
  case badHeader =>
    have hport : ∀ v, ((s.touch.inc (R.ingCntCrc p)).setPort p v).port p = v := fun v => State.port_setPort _ _ _
    refine ⟨_, (exec_longPacket_of hs p k).trans (congrArg _ (State.longPacket_badHeader (s := s.touch) ht hh hk s.now)), s.touch.get_inc_same _, ?_⟩
    rw [hport]
    exact ⟨rfl, rfl, ((s.touch.keepsRegs_refl _).inc (by simp)).setPort _ _⟩
  case unmapped =>
    exact ⟨_, (exec_longPacket_of hs p k).trans (congrArg _ (State.longPacket_unmapped (s := s.touch) ht hh hk hu s.now)), s.touch.unmapped_spec p k⟩
  case badCrc =>
    exact ⟨_, (exec_longPacket_of hs p k).trans (congrArg _ ((State.longPacket_taken (s := s.touch) ht hh hk hvc hl hm hf s.now).trans
      (State.packet_badCrc hc l s.now))), s.touch.crcFailed_spec p l⟩
  case marker =>
    subst hct
    have hrun := (exec_longPacket_of hs p k).trans (congrArg Host.Outcome.next
      ((State.longPacket_taken (s := s.touch) ht hh hk hvc hl hm hf s.now).trans (State.packet_marker hc hp h0 h1 s.now)))
    have hport : (s.touch.marker p (bits w.toNat 4 28)).port p = { s.port p with tb := some (bits w.toNat 4 28) } := State.port_setPort _ _ _
    refine ⟨_, hrun, ?_⟩
    rw [hport]
    exact ⟨rfl, rfl, (s.touch.keepsRegs_refl []).setPort _ _⟩
  case event =>
    subst hae
    obtain ⟨hrange, hshed, hdrop, hovf⟩ := intakeCounters_apart p
    obtain ⟨u, hrun, hu, hin⟩ := exec_longPacket_ae64 hs hh ht hk hvc hl hm hf hc hp htag
    refine ⟨fun hout => ?outside, fun hout h2 h3 => ⟨fun hsh hcfg => ?shed, fun hsh hd => ?direct, fun hsh hd hroom => ?room, fun hsh hfull => ?full⟩⟩
    case outside =>
      rw [hu.placed_outside hout] at hrun
      obtain ⟨hcin, hcnt, hk⟩ := hu.counted hrange (u.get_inc_same _) ((u.keepsRegs_refl _).inc (f := R.ingCntRange p) (by simp))
      exact ⟨_, hrun, hcin.trans hin, hcnt, hu.queue, hk⟩
    case shed =>
      rw [hu.placed_shed hout h2 h3 hsh hcfg] at hrun
      obtain ⟨hlost, hing, hkeep⟩ := u.lost_spec (R.ingCntShed p)
      obtain ⟨hcin, hcnt, hk⟩ := hu.counted hshed hlost hkeep
      exact ⟨_, hrun, hcin.trans hin, hcnt, (congrArg Port.queue (State.port_of_ing hing p)).trans hu.queue, hk⟩
    case direct =>
      rw [hu.placed_direct hout h2 h3 hsh hd] at hrun
      refine ⟨_, hrun, hin, ?_⟩
      rw [State.port_setPort]
      exact ⟨congrArg (· ++ _) hu.path, hu.queue, hu.keeps.setPort _ _⟩
    case room =>
      rw [hu.placed_buffer hout h2 h3 hsh hd] at hrun
      obtain ⟨hcin, hqueue, hmark, hk⟩ := hu.buffer_room hroom (ae64Event w.toNat)
      exact ⟨_, hrun, hcin.trans hin, hqueue, hmark, hk⟩
    case full =>
      have hd : s.direct p (ae64Event w.toNat) = false := by
        refine Bool.eq_false_iff.2 fun hd => ?_
        rw [State.direct_empty hd] at hfull
        exact absurd hfull (by decide)
      rw [hu.placed_buffer hout h2 h3 hsh hd, State.buffer_full (by rw [hu.queue]; exact hfull), hu.heldHead] at hrun
      cases hheld : s.heldHead p
      case true =>
        rw [if_pos hheld] at hrun
        obtain ⟨hlost, hing, hkeep⟩ := u.lost_spec (R.ingCntHoldDrop p)
        obtain ⟨-, hcnt, hk⟩ := hu.counted hdrop hlost hkeep
        exact ⟨_, hrun, (congrArg Port.queue (State.port_of_ing hing p)).trans hu.queue, fun _ => hcnt, fun h => absurd h (by simp), hk.mono (by simp)⟩
      case false =>
        rw [if_neg (by simp [hheld])] at hrun
        obtain ⟨hlost, hing, hkeep⟩ := u.lost_spec (R.ingCntOvf p)
        obtain ⟨-, hcnt, hk⟩ := hu.counted hovf hlost hkeep
        exact ⟨_, hrun, (congrArg Port.queue (State.port_of_ing hing p)).trans hu.queue, fun h => absurd h (by simp), fun _ => hcnt, hk.mono (by simp)⟩

end Sys2Proof.Machine
end

section
/-! SUPPORT and OBLIGATION. The rebase stage: the tests of a head event, and a cycle with one event waiting (R51–R59, R436). -/

namespace Sys2Proof.Machine

variable {s t u w : State} {p : Fin 8} {e : Event}

/-! ### What the tests say (R53, R54) -/

/-- The hold in force. -/
theorem State.holdT_eq_some (s : State) (T : Nat) :
    s.holdT = some T ↔ s.ctl.hold = some T ∨ (s.ctl.hold = none ∧ s.ctl.holdAt = some T ∧ T * 25000 ≤ s.now) := by
  unfold State.holdT
  cases s.ctl.hold with
  | some H => simp
  | none =>
    cases s.ctl.holdAt with
    | none => simp
    | some A =>
      have hA : s.reached (A * tickNs) = true ↔ A * 25000 ≤ s.now := decide_eq_true_iff
      by_cases h : A * 25000 ≤ s.now
      · simp only [hA.2 h, if_true, Option.some.injEq, reduceCtorEq, true_and, false_or]
        exact ⟨fun hT => ⟨hT, hT ▸ h⟩, fun hT => hT.1⟩
      · simp only [mt hA.1 h, if_false, Option.some.injEq, reduceCtorEq, true_and, false_or, false_iff, not_and]
        exact fun hT => hT ▸ h

/-- Whether a hold keeps an event of device time `d` back. -/
def State.holds (s : State) (d : Int) : Bool := match s.holdT with | some T => decide ((T * tickNs : Int) ≤ d) | none => false

theorem State.holds_of {T : Nat} {d : Int} (hT : s.holdT = some T) (hd : (T * 25000 : Int) ≤ d) : s.holds d = true := by
  rw [State.holds, hT]
  exact decide_eq_true hd

theorem State.not_holds_of {d : Int} (h : ∀ T, s.holdT = some T → d < (T * 25000 : Int)) : s.holds d = false := by
  rw [State.holds]
  split
  next T hT => exact decide_eq_false (not_le.2 (h T hT))
  next => rfl

theorem State.headCase_invalid (h : s.flag (R.ingPortRbCtlValid p) = false) (e : Event) : s.headCase p e = .discard (R.ingCntStale p) :=
  if_pos (by simp [h])

/-- The oldest device time that port `p` takes. -/
def State.oldest (s : State) (p : Nat) : Int := (s.now : Int) - (s.getIn (R.ingPortLimitAgeMs p) 1 4000 * 1000000 : Nat)

/-- The latest device time that port `p` takes. -/
def State.latest (s : State) (p : Nat) : Int := (s.now : Int) + (min (s.get (R.ingPortLimitLeadUs p)) 1000 * 1000 : Nat)

section
variable (hv : s.flag (R.ingPortRbCtlValid p) = true)
include hv

/-- The tests of an event under a valid triple, in their order. -/
theorem State.headCase_valid (e : Event) :
    s.headCase p e = if s.holds (s.rebased p e.stamp) then .held
      else if s.rebased p e.stamp < s.oldest p then .discard (R.ingCntStale p)
      else if s.latest p < s.rebased p e.stamp then .discard (R.ingCntFuture p)
      else if bit s.cv.inits p then .noCredit
      else if s.ing.pool ≤ (s.words (engineOf e.x e.y)).length then .noCredit
      else if (s.now : Int) < s.rebased p e.stamp then .accept (s.now : Int) true else .accept (s.rebased p e.stamp) false := by
  unfold State.headCase
  rw [if_neg (by simp [hv])]
  rfl

theorem State.headCase_held (h : s.holds (s.rebased p e.stamp) = true) : s.headCase p e = .held := by
  rw [State.headCase_valid hv, if_pos h]

variable (hh : s.holds (s.rebased p e.stamp) = false)
include hh

theorem State.headCase_stale (h : s.rebased p e.stamp < s.oldest p) : s.headCase p e = .discard (R.ingCntStale p) := by
  rw [State.headCase_valid hv, if_neg (by simp [hh]), if_pos h]

variable (hold : s.oldest p ≤ s.rebased p e.stamp)
include hold

theorem State.headCase_future (h : s.latest p < s.rebased p e.stamp) : s.headCase p e = .discard (R.ingCntFuture p) := by
  rw [State.headCase_valid hv, if_neg (by simp [hh]), if_neg hold.not_gt, if_pos h]

variable (hlead : s.rebased p e.stamp ≤ s.latest p)
include hlead

theorem State.headCase_noCredit (h : bit s.cv.inits p = true ∨ s.ing.pool ≤ (s.words (engineOf e.x e.y)).length) : s.headCase p e = .noCredit := by
  rw [State.headCase_valid hv, if_neg (by simp [hh]), if_neg hold.not_gt, if_neg hlead.not_gt]
  split
  next => rfl
  next hi => exact if_pos (h.resolve_left hi)

theorem State.headCase_accept (hi : bit s.cv.inits p = false) (hc : (s.words (engineOf e.x e.y)).length < s.ing.pool) :
    s.headCase p e = .accept (if (s.now : Int) < s.rebased p e.stamp then (s.now : Int) else s.rebased p e.stamp)
      (decide ((s.now : Int) < s.rebased p e.stamp)) := by
  rw [State.headCase_valid hv, if_neg (by simp [hh]), if_neg hold.not_gt, if_neg hlead.not_gt, if_neg (by simp [hi]), if_neg hc.not_ge]
  split
  next h => rw [decide_eq_true h]
  next h => rw [decide_eq_false h]

end

/-! ### The events that wait at a port (R60) -/

/-- The events of a port, oldest first: its path, then its burst buffer. -/
def Port.waiting (v : Port) : List Event := v.path ++ v.queue

theorem Port.head?_eq (v : Port) : v.head? = v.waiting.head? := by
  unfold Port.head? Port.waiting
  cases v.path <;> rfl

theorem Port.waiting_nil {v : Port} (h : v.waiting = []) : v.queue = [] ∧ v.path = [] := (List.append_eq_nil_iff.1 h).symm

/-- From `s` to `t` events have moved at port `p` alone. -/
structure PortMoved (s t : State) (p : Fin 8) : Prop where
  others : ∀ r : Nat, r ≠ p → t.port r = s.port r
  words : t.ing.words = s.ing.words
  pool : t.ing.pool = s.ing.pool
  ctl : t.ctl = s.ctl
  cv : t.cv = s.cv
  time : t.time = s.time
  keeps : s.keepsRegs t [(R.ingPortBufOcc p).key, (R.ingPortBufShedding p).key]

theorem testFields_apart (p : Fin 8) : ∀ x ∈ testFields p, x.key ∉ [(R.ingPortBufOcc p).key, (R.ingPortBufShedding p).key] := by decide +revert

theorem PortMoved.tests (h : PortMoved s t p) : SameTests s t p :=
  .of_keepsRegs h.keeps (testFields_apart p) h.ctl h.cv (congrArg _ h.time) h.words h.pool

theorem portMoved_refl (s : State) (p : Fin 8) : PortMoved s s p := ⟨fun _ _ => rfl, rfl, rfl, rfl, rfl, rfl, fun _ _ => rfl⟩

theorem portMoved_setPort (s : State) (p : Fin 8) (v : Port) : PortMoved s (s.setPort p v) p :=
  ⟨fun _ hr => State.port_setPort_other _ hr _, rfl, rfl, rfl, rfl, rfl, fun _ _ => rfl⟩

theorem PortMoved.marked (h : PortMoved s t p) : PortMoved s (t.waterMarks p) p :=
  have m := t.waterMarks_spec p
  ⟨fun r hr => (State.port_of_ing m.ing r).trans (h.others r hr), (congrArg _ m.ing).trans h.words, (congrArg _ m.ing).trans h.pool, m.ctl.trans h.ctl,
    m.cv.trans h.cv, m.time.trans h.time, h.keeps.trans m.keeps⟩

/-- The port after its queue was replaced and marked. -/
theorem State.port_setPort_marked (s : State) (p : Fin 8) (v : Port) : ((s.setPort p v).waterMarks p).port p = v :=
  (State.port_of_ing ((s.setPort p v).waterMarks_spec p).ing p).trans (State.port_setPort _ _ _)

/-- The head leaves. -/
theorem State.popHead_spec (s : State) (p : Fin 8) : PortMoved s (s.popHead p) p ∧ ((s.popHead p).port p).waiting = (s.port p).waiting.tail := by
  unfold State.popHead Port.waiting
  dsimp only
  split
  next hp =>
    rw [State.port_setPort, hp]
    exact ⟨portMoved_setPort s p _, rfl⟩
  next hp =>
    rw [State.port_setPort_marked, hp]
    exact ⟨(portMoved_setPort s p _).marked, rfl⟩

/-- What is left of the path enters the burst buffer. -/
theorem State.settlePath_spec (s : State) (p : Fin 8) :
    PortMoved s (s.settlePath p) p ∧ ((s.settlePath p).port p).path = [] ∧ ((s.settlePath p).port p).queue = (s.port p).waiting := by
  unfold State.settlePath Port.waiting
  dsimp only
  split
  next hp =>
    rw [List.isEmpty_iff] at hp
    exact ⟨portMoved_refl s p, hp, by rw [hp]; rfl⟩
  next hp =>
    rw [State.port_setPort_marked]
    exact ⟨(portMoved_setPort s p _).marked, rfl, rfl⟩

theorem State.settlePath_of_empty {r : Nat} (h : (s.port r).path = []) : s.settlePath r = s := if_pos (by simp [h])

/-! ### One head offered (R59) -/

theorem State.takeHead_none {q : Nat} (h : (s.port q).waiting = []) (b : Bool) : s.takeHead q b = (s, false) := by
  unfold State.takeHead
  rw [Port.head?_eq, h]
  rfl

theorem State.takeHead_untaken {q : Nat} (h : (s.port q).waiting = [e]) (hc : (s.headCase q e).taken = false) (b : Bool) :
    s.takeHead q b = (s, false) := by
  unfold State.takeHead
  rw [Port.head?_eq, h]
  dsimp only [List.head?_cons]
  split
  next hd => simp [hd, HeadCase.taken] at hc
  next => rfl
  next => rfl
  next hd => simp [hd, HeadCase.taken] at hc

theorem State.takeHead_discard {q : Nat} (h : (s.port q).waiting = [e]) {c : Fld} (hc : s.headCase q e = .discard c) (b : Bool) :
    s.takeHead q b = (((s.parityCheck b dieIod q).inc c).popHead q, true) := by
  unfold State.takeHead
  rw [Port.head?_eq, h]
  dsimp only [List.head?_cons]
  rw [hc]

theorem State.takeHead_accept {q : Nat} (h : (s.port q).waiting = [e]) {d : Int} {clamp : Bool} (hc : s.headCase q e = .accept d clamp) (b : Bool) :
    s.takeHead q b = (((s.parityCheck b dieIod q).commit q { e with poison := e.poison || b } d clamp).popHead q, true) := by
  unfold State.takeHead
  rw [Port.head?_eq, h]
  dsimp only [List.head?_cons]
  rw [hc]

/-! ### A cycle over ports of which none or one gives a head (R59) -/

/-- The next cycle begins at the port after `p`. -/
def State.turned (s : State) (p : Nat) : State := { s with ing := { s.ing with rr := (p + 1) % 8 } }

theorem State.serve_idle {bad n : Nat} {l : List Nat} (h : ∀ q ∈ l, s.takeHead q (bit bad q) = (s, false)) : (s.serve bad n l).1 = s := by
  induction l generalizing n with
  | nil => rfl
  | cons q l ih =>
    unfold State.serve
    split
    next => rfl
    next =>
      rw [h q List.mem_cons_self]
      exact ih fun r hr => h r (List.mem_cons_of_mem q hr)

theorem State.serve_one {bad n q : Nat} {a b : List Nat} (hn : n ≠ 0) (ha : ∀ r ∈ a, s.takeHead r (bit bad r) = (s, false))
    (hq : s.takeHead q (bit bad q) = (w, true)) (hb : ∀ r ∈ b, (w.turned q).takeHead r (bit bad r) = (w.turned q, false)) :
    (s.serve bad n (a ++ q :: b)).1 = w.turned q := by
  induction a with
  | nil =>
    rw [List.nil_append, State.serve, if_neg hn, hq]
    exact State.serve_idle hb
  | cons r a ih =>
    rw [List.cons_append, State.serve, if_neg hn, ha r List.mem_cons_self]
    exact ih fun x hx => ha x (List.mem_cons_of_mem r hx)

theorem robin_lt {r q : Nat} (h : q ∈ robin r) : q < 8 := by
  obtain ⟨i, -, rfl⟩ := List.mem_map.1 h
  exact Nat.mod_lt _ (by decide)

theorem mem_robin (r : Nat) (p : Fin 8) : p.val ∈ robin r := by
  have hp := p.isLt
  exact List.mem_map.2 ⟨(p + 8 - r % 8) % 8, List.mem_range.2 (Nat.mod_lt _ (by decide)), by omega⟩

/-- Where only port `p` has anything in its path, the end of a cycle settles that path. -/
theorem State.each_settlePath (h : ∀ r : Nat, r < 8 → r ≠ p → (s.port r).path = []) : s.each (List.range 8) State.settlePath = s.settlePath p := by
  obtain ⟨a, b, hab, hpa⟩ := List.eq_append_cons_of_mem (List.mem_range.2 p.isLt)
  have hlt : ∀ r ∈ a ++ p.val :: b, r < 8 := fun r hr => List.mem_range.1 (hab ▸ hr)
  obtain ⟨hmoved, hpath, -⟩ := s.settlePath_spec p
  have ha : s.each a State.settlePath = s := State.each_of_fixed fun r hr =>
    State.settlePath_of_empty (h r (hlt r (by simp [hr])) fun hrp => hpa (hrp ▸ hr))
  have hb : (s.settlePath p).each b State.settlePath = s.settlePath p := State.each_of_fixed fun r hr => by
    refine State.settlePath_of_empty ?_
    by_cases hrp : r = p
    · rw [hrp, hpath]
    · rw [hmoved.others r hrp, h r (hlt r (by simp [hr])) hrp]
  calc s.each (List.range 8) State.settlePath
      = ((s.each a State.settlePath).settlePath p).each b State.settlePath := by rw [hab]; exact List.foldl_append
    _ = s.settlePath p := by rw [ha, hb]

/-- One event waits, at port `p`. -/
structure Lone (s : State) (p : Fin 8) (e : Event) : Prop where
  here : (s.port p).waiting = [e]
  others : ∀ r : Nat, r < 8 → r ≠ p → (s.port r).waiting = []

theorem exec_rebaseCycle_of (h : s.rebases = true) (bad : Nat) :
    exec (.rebaseCycle bad) s = .next (((s.serve bad 12 (robin s.ing.rr ++ robin s.ing.rr)).1).each (List.range 8) State.settlePath) := by
  change execRebaseCycle bad s = _
  rw [execRebaseCycle, State.rebaseCycle, if_neg (by simp [h])]

/-- A cycle that leaves the one event where it is moves it to the burst buffer at most. -/
theorem exec_rebaseCycle_untaken (hr : s.rebases = true) (h : Lone s p e) (hc : (s.headCase p e).taken = false) (bad : Nat) :
    exec (.rebaseCycle bad) s = .next (s.settlePath p) := by
  have hidle : ∀ q ∈ robin s.ing.rr ++ robin s.ing.rr, s.takeHead q (bit bad q) = (s, false) := fun q hq => by
    by_cases hqp : q = p
    · exact hqp ▸ State.takeHead_untaken h.here hc _
    · exact State.takeHead_none (h.others q ((List.mem_append.1 hq).elim robin_lt robin_lt) hqp) _
  rw [exec_rebaseCycle_of hr, State.serve_idle hidle, State.each_settlePath fun r hr8 hrp => (Port.waiting_nil (h.others r hr8 hrp)).2]

/-- A cycle that takes the one event ends with nothing waiting. -/
theorem exec_rebaseCycle_taken (hr : s.rebases = true) (h : Lone s p e) {bad : Nat} (ht : s.takeHead p (bit bad p) = (w, true))
    (hw : ∀ r : Nat, r < 8 → (w.port r).waiting = []) : exec (.rebaseCycle bad) s = .next (w.turned p) := by
  obtain ⟨a, b, hab, hpa⟩ := List.eq_append_cons_of_mem (List.mem_append_left (robin s.ing.rr) (mem_robin s.ing.rr p))
  have hlt : ∀ r ∈ a ++ p.val :: b, r < 8 := fun r hr => (List.mem_append.1 (hab ▸ hr)).elim robin_lt robin_lt
  have hidle : ∀ r ∈ a, s.takeHead r (bit bad r) = (s, false) := fun r hr =>
    State.takeHead_none (h.others r (hlt r (by simp [hr])) fun hrp => hpa (hrp ▸ hr)) _
  have hrest : ∀ r ∈ b, (w.turned p).takeHead r (bit bad r) = (w.turned p, false) := fun r hr =>
    State.takeHead_none (s := w.turned p) (hw r (hlt r (by simp [hr]))) _
  rw [exec_rebaseCycle_of hr, hab, State.serve_one (by decide) hidle ht hrest,
    State.each_of_fixed fun r hr => State.settlePath_of_empty (s := w.turned p) (Port.waiting_nil (hw r (List.mem_range.1 hr))).2]

/-! ### What a taken event leaves (R54, R55, R57, R436) -/

/-- The parity check of a queue word counts its failure, and is quiet beside. -/
theorem State.parityCheck_spec (s : State) (b : Bool) (die unit : Nat) :
    (b = true → (s.parityCheck b die unit).get R.cntParity = (s.get R.cntParity + 1) % 2 ^ 32) ∧ (s.parityCheck b die unit).ing = s.ing
      ∧ (s.parityCheck b die unit).time = s.time ∧ s.keepsRegs (s.parityCheck b die unit) (R.cntParity.key :: faultKeys) := by
  cases b
  case false => exact ⟨fun h => absurd h (by decide), rfl, rfl, s.keepsRegs_refl _⟩
  case true =>
    have hq := quiet_fault (Quiet.refl (s.inc R.cntParity)) .contained 0x04 die unit 0
    refine ⟨fun _ => (hq.regs _ (by decide)).trans (s.get_inc_same _), hq.ing, hq.time, fun x hx => ?_⟩
    rw [List.mem_cons, not_or] at hx
    exact (hq.regs x hx.2).trans (s.get_inc_other hx.1)

/-- Neither the water marks nor the parity check touch the counters of what becomes of a head. -/
theorem rebaseCounters_apart (p : Fin 8) : ∀ x ∈ [R.ingCntStale p, R.ingCntFuture p, R.ingCntCommit p, R.ingCntClamp p, R.ingCntLate p],
    x.key ∉ R.cntParity.key :: faultKeys ∧ x.key ∉ [(R.ingPortBufOcc p).key, (R.ingPortBufShedding p).key] ∧ R.cntParity.key ≠ x.key := by
  decide +revert

theorem cntParity_apart (p : Fin 8) : R.cntParity.key ∉ [(R.ingPortBufOcc p).key, (R.ingPortBufShedding p).key] := by decide +revert

theorem shedFields_apart (p : Fin 8) : ∀ x ∈ [R.ingPortBufShedding p, R.ingPortCfgShed p], x.key ∉ R.cntParity.key :: faultKeys := by decide +revert

/-- Once the one event has left, nothing waits. -/
theorem Lone.popped (h : Lone s p e) (ht : ∀ q, t.port q = s.port q) (r : Nat) (hr : r < 8) : ((t.popHead p).port r).waiting = [] := by
  obtain ⟨hmoved, hwait⟩ := t.popHead_spec p
  by_cases hrp : r = p
  · rw [hrp, hwait, ht, h.here]
    rfl
  · rw [hmoved.others r hrp, ht, h.others r hr hrp]

/-- The one event discarded, counted in `c`. -/
theorem exec_rebaseCycle_discard (hr : s.rebases = true) (h : Lone s p e) {c : Fld} (hc : s.headCase p e = .discard c)
    (hmem : c ∈ [R.ingCntStale p, R.ingCntFuture p, R.ingCntCommit p, R.ingCntClamp p, R.ingCntLate p]) (bad : Nat) :
    ∃ u : State, exec (.rebaseCycle bad) s = .next u
      ∧ ((u.port p).queue = [] ∧ (u.port p).path = [] ∧ (bit bad p = true → u.get R.cntParity = (s.get R.cntParity + 1) % 2 ^ 32))
      ∧ u.get c = (s.get c + 1) % 2 ^ c.width ∧ u.ing.words = s.ing.words := by
  obtain ⟨hfault, hmark, hne⟩ := rebaseCounters_apart p c hmem
  obtain ⟨hpar, hing, -, hk⟩ := s.parityCheck_spec (bit bad p) dieIod p
  obtain ⟨hmoved, -⟩ := ((s.parityCheck (bit bad p) dieIod p).inc c).popHead_spec p
  have hpop := h.popped (t := (s.parityCheck (bit bad p) dieIod p).inc c) (State.port_of_ing hing)
  obtain ⟨hqueue, hpath⟩ := Port.waiting_nil (hpop p p.isLt)
  refine ⟨_, exec_rebaseCycle_taken hr h (State.takeHead_discard h.here hc _) hpop, ⟨hqueue, hpath, fun hb => ?_⟩, ?_, hmoved.words.trans (congrArg _ hing)⟩
  · exact ((hmoved.keeps _ (cntParity_apart p)).trans (State.get_inc_other _ hne)).trans (hpar hb)
  · exact ((hmoved.keeps _ hmark).trans (State.get_inc_same _ _)).trans (by rw [hk _ hfault])

/-- A counter that counts where `c` holds. -/
theorem State.incWhen_spec (s : State) (f : Fld) (c : Bool) :
    (s.when c (·.inc f)).get f = (if c then (s.get f + 1) % 2 ^ f.width else s.get f) ∧ (s.when c (·.inc f)).ing = s.ing
      ∧ s.keepsRegs (s.when c (·.inc f)) [f.key] := by
  refine ⟨?_, State.when_same State.ing rfl c, (s.keepsRegs_refl _).when c ((s.keepsRegs_refl _).inc (by simp))⟩
  cases c
  · rfl
  · exact s.get_inc_same f

/-- The counters of an accepted event. -/
def State.accepted (s : State) (p : Nat) (clamp late : Bool) : State :=
  ((s.inc (R.ingCntCommit p)).when clamp (·.inc (R.ingCntClamp p))).when late (·.inc (R.ingCntLate p))

theorem State.accepted_spec (s : State) (p : Fin 8) (clamp late : Bool) :
    (s.accepted p clamp late).get (R.ingCntCommit p) = (s.get (R.ingCntCommit p) + 1) % 2 ^ 32
      ∧ (s.accepted p clamp late).get (R.ingCntClamp p) = (if clamp then (s.get (R.ingCntClamp p) + 1) % 2 ^ 32 else s.get (R.ingCntClamp p))
      ∧ (s.accepted p clamp late).get (R.ingCntLate p) = (if late then (s.get (R.ingCntLate p) + 1) % 2 ^ 32 else s.get (R.ingCntLate p))
      ∧ (s.accepted p clamp late).ing = s.ing
      ∧ s.keepsRegs (s.accepted p clamp late) [(R.ingCntCommit p).key, (R.ingCntClamp p).key, (R.ingCntLate p).key] := by
  have hkeys : (R.ingCntCommit p).key ≠ (R.ingCntClamp p).key ∧ (R.ingCntCommit p).key ≠ (R.ingCntLate p).key
      ∧ (R.ingCntClamp p).key ≠ (R.ingCntLate p).key := by decide +revert
  obtain ⟨hcc, hcl, hll⟩ := hkeys
  obtain ⟨hclamp, hing, hk⟩ := (s.inc (R.ingCntCommit p)).incWhen_spec (R.ingCntClamp p) clamp
  obtain ⟨hlate, hing', hk'⟩ := ((s.inc (R.ingCntCommit p)).when clamp (·.inc (R.ingCntClamp p))).incWhen_spec (R.ingCntLate p) late
  rw [s.get_inc_other hcc.symm] at hclamp
  rw [hk _ (by simpa using hll.symm), s.get_inc_other hcl.symm] at hlate
  refine ⟨?_, (hk' _ (by simpa using hll)).trans hclamp, hlate, hing'.trans hing, ?_⟩
  · exact ((hk' _ (by simpa using hcl)).trans (hk _ (by simpa using hcc))).trans (s.get_inc_same _)
  · exact (((s.keepsRegs_refl _).inc (by simp)).trans (hk.mono (by simp))).trans (hk'.mono (by simp))

theorem State.commit_get (s : State) (p : Nat) (e : Event) (d : Int) (clamp : Bool) (x : Fld) :
    (s.commit p e d clamp).get x = (s.accepted p clamp (decide (d < ((s.tick * 25000 : Nat) : Int)))).get x := rfl

/-- An accepted event's word is the newest on its way to the engine of its pixel; no port changes. -/
theorem State.commit_spec (s : State) (p : Fin 8) (e : Event) (d : Int) (clamp : Bool) :
    (∀ q, (s.commit p e d clamp).port q = s.port q)
      ∧ (s.commit p e d clamp).words (engineOf e.x e.y) = s.words (engineOf e.x e.y)
          ++ [eventWord d e p (s.flag (R.ingPortBufShedding p) && !s.flag (R.ingPortCfgShed p)) (decide (d < ((s.tick * 25000 : Nat) : Int)))] := by
  obtain ⟨-, -, -, hing, -⟩ := s.accepted_spec p clamp (decide (d < ((s.tick * 25000 : Nat) : Int)))
  refine ⟨fun q => ?_, ?_⟩
  · exact State.port_of_ing hing q
  · exact (SMap.get_set_same _ _ _ _).trans (congrArg (· ++ _) (congrArg (fun i : Ingest => SMap.get i.words [] (engineOf e.x e.y)) hing))

/-- The one event accepted with device time `d`. -/
theorem exec_rebaseCycle_accept (hr : s.rebases = true) (h : Lone s p e) {d : Int} {clamp : Bool} (hc : s.headCase p e = .accept d clamp) (bad : Nat) :
    ∃ u : State, exec (.rebaseCycle bad) s = .next u
      ∧ ((u.port p).queue = [] ∧ (u.port p).path = [] ∧ (bit bad p = true → u.get R.cntParity = (s.get R.cntParity + 1) % 2 ^ 32))
      ∧ u.get (R.ingCntCommit p) = (s.get (R.ingCntCommit p) + 1) % 2 ^ 32
      ∧ u.words (engineOf e.x e.y) = s.words (engineOf e.x e.y)
          ++ [eventWord d { e with poison := e.poison || bit bad p } p (s.flag (R.ingPortBufShedding p) && !s.flag (R.ingPortCfgShed p))
              (decide (d < ((s.tick * 25000 : Nat) : Int)))]
      ∧ u.get (R.ingCntClamp p) = (if clamp then (s.get (R.ingCntClamp p) + 1) % 2 ^ 32 else s.get (R.ingCntClamp p))
      ∧ u.get (R.ingCntLate p) = (if d < ((s.tick * 25000 : Nat) : Int) then (s.get (R.ingCntLate p) + 1) % 2 ^ 32 else s.get (R.ingCntLate p)) := by
  obtain ⟨hpar, hing, htime, hk⟩ := s.parityCheck_spec (bit bad p) dieIod p
  generalize hv : s.parityCheck (bit bad p) dieIod p = v at hpar hing htime hk
  obtain ⟨hport, hwords⟩ := v.commit_spec p { e with poison := e.poison || bit bad p } d clamp
  obtain ⟨hcommit, hclamp, hlate, -, hcounts⟩ := v.accepted_spec p clamp (decide (d < ((v.tick * 25000 : Nat) : Int)))
  obtain ⟨hmoved, -⟩ := (v.commit p { e with poison := e.poison || bit bad p } d clamp).popHead_spec p
  have hpop := h.popped (t := v.commit p { e with poison := e.poison || bit bad p } d clamp) fun q => (hport q).trans (State.port_of_ing hing q)
  obtain ⟨hqueue, hpath⟩ := Port.waiting_nil (hpop p p.isLt)
  have htake := State.takeHead_accept h.here hc (bit bad p)
  rw [hv] at htake
  have hread : ∀ x : Fld, x.key ∉ [(R.ingPortBufOcc p).key, (R.ingPortBufShedding p).key] →
      ((v.commit p { e with poison := e.poison || bit bad p } d clamp).popHead p |>.turned p).get x
        = (v.accepted p clamp (decide (d < ((v.tick * 25000 : Nat) : Int)))).get x := fun x hx => (hmoved.keeps x hx).trans (State.commit_get _ _ _ _ _ _)
  have htick : v.tick = s.tick := by rw [State.tick, State.tick, State.now, State.now, htime]
  rw [htick] at hwords hlate hread hclamp hcommit hcounts
  obtain ⟨hcf, hcm, hcp⟩ := rebaseCounters_apart p (R.ingCntCommit p) (by simp)
  obtain ⟨hmf, hmm, hmp⟩ := rebaseCounters_apart p (R.ingCntClamp p) (by simp)
  obtain ⟨hlf, hlm, hlp⟩ := rebaseCounters_apart p (R.ingCntLate p) (by simp)
  refine ⟨_, exec_rebaseCycle_taken hr h htake hpop, ⟨hqueue, hpath, fun hb => ?parity⟩, ?commit, ?word, ?clamp, ?late⟩
  case parity => rw [hread _ (cntParity_apart p), hcounts _ (by simp [hcp, hmp, hlp]), hpar hb]
  case commit => rw [hread _ hcm, hcommit, hk _ hcf]
  case clamp => rw [hread _ hmm, hclamp, hk _ hmf]
  case late =>
    rw [hread _ hlm, hlate, hk _ hlf]
    simp only [decide_eq_true_eq]
  case word =>
    have hshed : ∀ x ∈ [R.ingPortBufShedding p, R.ingPortCfgShed p], v.flag x = s.flag x := fun x hx => State.flag_of_get (hk x (shedFields_apart p x hx))
    rw [hshed _ (by simp), hshed _ (by simp), State.words, State.words, hing] at hwords
    exact (congrArg (fun m => SMap.get m [] (engineOf e.x e.y)) hmoved.words).trans hwords

/-- Settles O42: a cycle with one event waiting does what the event's test says, and each test is said once. -/
theorem rebaseCommitsOrDiscards : Obligations.RebaseCommitsOrDiscards := by
  intro p e inPath bad s ha hst hlm hpath hq hoth d dt age lead g t inForce gone stays
  have hhalt : s.halted = false := by
    simp only [State.awake, Bool.and_eq_true, Bool.not_eq_true'] at ha
    exact ha.2
  have hr : s.rebases = true := by simp [State.rebases, hst, hlm, hhalt, ha]
  have h : Lone s p e := by
    refine ⟨by cases inPath <;> simp [Port.waiting, hpath, hq], fun r hr hrp => ?_⟩
    obtain ⟨hqueue, hpath⟩ := hoth ⟨r, hr⟩ fun he => hrp (congrArg Fin.val he)
    exact List.append_eq_nil_iff.2 ⟨hpath, hqueue⟩
  obtain ⟨hmoved, hsettled, hkept⟩ := s.settlePath_spec p
  have hstays : stays (s.settlePath p) := ⟨hkept.trans h.here, hsettled, hmoved.words⟩
  have huntaken : (s.headCase p e).taken = false → exec (.rebaseCycle bad) s = .next (s.settlePath p) := fun hc =>
    exec_rebaseCycle_untaken hr h hc bad
  have hforce : ∀ T, inForce T ↔ s.holdT = some T := fun T => (s.holdT_eq_some T).symm
  refine ⟨fun hv => ?invalid, fun hv => ⟨fun T hT hd => ?held, fun hfree => ?free⟩⟩
  case invalid => exact exec_rebaseCycle_discard hr h (State.headCase_invalid hv e) (by simp) bad
  case held =>
    have hc : s.headCase p e = .held := State.headCase_held hv (State.holds_of ((hforce T).1 hT) hd)
    refine ⟨_, huntaken (by rw [hc]; rfl), hstays, ?_⟩
    have hhead : ((s.settlePath p).port p).head? = (s.port p).head? := by
      rw [Port.head?_eq, Port.head?_eq, Port.waiting, hsettled, hkept]
      rfl
    rw [hmoved.tests.heldHead hhead, State.heldHead, Port.head?_eq, h.here]
    dsimp only [List.head?_cons]
    rw [hc]
    rfl
  case free =>
    have hh : s.holds (s.rebased p e.stamp) = false := State.not_holds_of fun T hT => hfree T ((hforce T).2 hT)
    refine ⟨fun hstale => ?stale, fun hold hfuture => ?future, fun hold hlead hi => ?initialised,
      fun hold hlead hi => ⟨fun hroom => ?accepted, fun hfull => ?noCredit⟩⟩
    case stale => exact exec_rebaseCycle_discard hr h (State.headCase_stale hv hh hstale) (by simp) bad
    case future => exact exec_rebaseCycle_discard hr h (State.headCase_future hv hh hold hfuture) (by simp) bad
    case initialised => exact ⟨_, huntaken (by rw [State.headCase_noCredit hv hh hold hlead (.inl hi)]; rfl), hstays⟩
    case noCredit => exact ⟨_, huntaken (by rw [State.headCase_noCredit hv hh hold hlead (.inr hfull)]; rfl), hstays⟩
    case accepted =>
      obtain ⟨u, hu, hgone, hcommit, hword, hclamp, hlate⟩ := exec_rebaseCycle_accept hr h (State.headCase_accept hv hh hold hlead hi hroom) bad
      simp only [decide_eq_true_eq] at hclamp
      exact ⟨u, hu, hgone, hcommit, hword, hclamp, hlate⟩

end Sys2Proof.Machine
end

section
/-! SUPPORT and OBLIGATION. The stream ring writer: a staged record in host memory, its interrupts (R313, R315–R318, R322, R443). -/

namespace Sys2Proof.Machine

/-! ### The bytes of a record (R313) -/

theorem recHeader_length (type : Nat) (gen poison error : Bool) (len seq : Nat) : (recHeader type gen poison error len seq).length = 8 :=
  leBytes_length _ _

theorem idleWords_length (n : Nat) : (idleWords n).length = 8 * n := by
  induction n with
  | zero => rfl
  | succ n ih => rw [idleWords, List.length_append, leBytes_length, ih]; omega

/-- A record's body is filled to whole words. -/
theorem Rec.body_length (x : Rec) : x.body.length = (match x.gap with | some _ => 16 | none => ceilDiv x.payload.length 8 * 8) := by
  unfold Rec.body
  cases x.gap with
  | some g => simp [leBytes_length]
  | none =>
    simp only [List.length_append, List.length_replicate, ceilDiv]
    omega

/-- Body and idle words stand between the header and the padded end. -/
theorem Rec.filled_length (x : Rec) : (x.body ++ idleWords (x.padded / 8 - x.units)).length + 8 = x.padded := by
  rw [List.length_append, idleWords_length, Rec.units, Rec.body_length]
  unfold Rec.padded ceilDiv
  cases x.gap with
  | some g => simp
  | none => dsimp only; omega

/-- A poisoned read changes no length of a record. -/
theorem Rec.sizes_of_payload (x : Rec) {l : List Byte} (h : l.length = x.payload.length) (b : Bool) :
    ({ x with poison := b, payload := l } : Rec).padded = x.padded ∧ ({ x with poison := b, payload := l } : Rec).units = x.units := by
  constructor
  · unfold Rec.padded; rw [h]
  · unfold Rec.units; rw [Rec.body_length, Rec.body_length, h]

theorem freeBytes_length (i n : Nat) : (freeBytes i n).length = n := by
  induction n generalizing i with
  | zero => rfl
  | succ n ih => simp [freeBytes, ih]

/-! ### Host memory under further writes -/

/-- Bytes that a write does not reach stay in host memory. -/
theorem State.hostHas.post {s : State} {f a b : Nat} {bs cs : List Byte} (h : s.hostHas f a bs) (ro : Bool)
    (hd : ∀ i, i < bs.length → ∀ j, j < cs.length → (a + i) % 2 ^ 64 ≠ (b + j) % 2 ^ 64) : (s.post f b ro cs).hostHas f a bs := fun i hi => by
  rw [State.post_hostByte_other s f b ro cs f (a + i) fun j hj he => hd i hi j hj (Nat.add_left_cancel he)]
  exact h i hi

/-! ### Interrupts under a condition -/

theorem State.raiseWhen_spec (s : State) (c : Bool) (f : Nat) (v : State → Nat) :
    (s.when c fun s => s.raise f (v s)).host.mem = s.host.mem ∧ (s.when c fun s => s.raise f (v s)).host.str = s.host.str
      ∧ s.keepsRegs (s.when c fun s => s.raise f (v s)) [(R.fnMsixPbaPending f).key] := by
  obtain ⟨hmem, -, -, hstr, -, -, -, -, -, -, hregs⟩ := s.raise_frame f (v s)
  exact ⟨State.when_same (f := fun s => s.raise f (v s)) (fun u => u.host.mem) hmem c,
    State.when_same (f := fun s => s.raise f (v s)) (fun u => u.host.str) hstr c,
    (s.keepsRegs_refl _).when c fun x hx => hregs x (by simpa using hx)⟩

theorem State.str_of_host {s t : State} (h : t.host.str = s.host.str) (f r : Nat) : t.str f r = s.str f r := by
  unfold State.str; rw [h]

/-! ### One record written at WR (R317, R318) -/

/-- The register fields that the writer of ring `r` reads. -/
def strRead (f r : Nat) : List Fld := [R.fnStrBaseBase f r, R.fnStrCfgSizeLog2 f r, R.fnStrCfgEn f r, R.fnStrIrqCount f r]

/-- The register fields that the writer of ring `r` writes. -/
def strWritten (f r : Nat) : List Nat :=
  [(R.fnStrWrWr f r).key, (R.fnStrSeqSeq f r).key, (R.fnStrStageOcc f r).key, (R.fnMsixPbaPending f).key, R.cntWin.key]

theorem strRead_apart (f : Nat) {r : Nat} (hr : r < 8) : ∀ x ∈ strRead f r, x.key ∉ strWritten f r := by
  simp only [strRead, List.forall_mem_cons]
  simp only [strWritten, List.mem_cons, List.not_mem_nil, or_false, not_or, Fld.key, R.fnStrBaseBase, R.fnStrCfgSizeLog2, R.fnStrCfgEn,
    R.fnStrIrqCount, R.fnStrWrWr, R.fnStrSeqSeq, R.fnStrStageOcc, R.fnMsixPbaPending, R.cntWin]
  refine ⟨?_, ?_, ?_, ?_, fun _ h => h.elim⟩ <;> omega

theorem strWritten_nodup (f r : Nat) : (strWritten f r).Nodup := by
  simp only [strWritten, Fld.key, R.fnStrWrWr, R.fnStrSeqSeq, R.fnStrStageOcc, R.fnMsixPbaPending, R.cntWin, List.nodup_cons, List.mem_cons,
    List.not_mem_nil, or_false, not_or, not_false_eq_true, List.nodup_nil, and_true]
  omega

/-- The offset behind a record of `z` bytes written at WR. -/
def State.nextWr (s : State) (f r z : Nat) : Nat := if s.get (R.fnStrWrWr f r) + z = s.strSize f r then 0 else s.get (R.fnStrWrWr f r) + z

/-- GEN behind a record of `z` bytes written at WR. -/
def State.nextGen (s : State) (f r z : Nat) : Bool := if s.get (R.fnStrWrWr f r) + z = s.strSize f r then !(s.str f r).gen else (s.str f r).gen

/-- The header that a record of `z` bytes takes at WR. -/
def State.headerOf (s : State) (f r : Nat) (x : Rec) (z : Nat) : List Byte :=
  recHeader x.type (s.str f r).gen x.poison x.error (if x.type = 0x0F then z / 8 else x.units) (s.get (R.fnStrSeqSeq f r))

/-- The three writes of a record to host memory: the placeholder behind it, the payload, the header. -/
def State.postRecord (s : State) (f r : Nat) (x : Rec) (z : Nat) : State :=
  ((s.post f (s.get (R.fnStrBaseBase f r) + s.nextWr f r z) true (recHeader 0 (!s.nextGen f r z) false false 0 0)).post f
    (s.get (R.fnStrBaseBase f r) + s.get (R.fnStrWrWr f r) + 8) true (x.body ++ idleWords (z / 8 - x.units))).post f
      (s.get (R.fnStrBaseBase f r) + s.get (R.fnStrWrWr f r)) false (s.headerOf f r x z)

/-- The record written, before its error interrupt: WR, SEQ and GEN moved on. -/
def State.movedOn (s : State) (f r : Nat) (x : Rec) (z : Nat) : State :=
  (((s.postRecord f r x z).set (R.fnStrWrWr f r) (s.nextWr f r z)).set (R.fnStrSeqSeq f r) (s.get (R.fnStrSeqSeq f r) + 1)).setStr f r
    { s.str f r with gen := s.nextGen f r z }

theorem State.writeRecord_eq (s : State) (f r : Nat) (x : Rec) (z : Nat) :
    s.writeRecord f r x z = (s.movedOn f r x z).when x.error fun s => s.raise f (s.get (R.fnVecErr f)) := by
  simp only [State.writeRecord, State.movedOn, State.postRecord, State.nextWr, State.nextGen, State.headerOf, beq_iff_eq]

/-- What one record written leaves: its bytes in host memory, and WR, SEQ and GEN moved on. -/
structure RecordWritten (s t : State) (f r : Nat) (x : Rec) (z : Nat) : Prop where
  header : t.hostHas f (s.get (R.fnStrBaseBase f r) + s.get (R.fnStrWrWr f r)) (s.headerOf f r x z)
  body : t.hostHas f (s.get (R.fnStrBaseBase f r) + s.get (R.fnStrWrWr f r) + 8) (x.body ++ idleWords (z / 8 - x.units))
  wr : t.get (R.fnStrWrWr f r) = s.nextWr f r z % 2 ^ 30
  seq : t.get (R.fnStrSeqSeq f r) = (s.get (R.fnStrSeqSeq f r) + 1) % 2 ^ 32
  str : t.str f r = { s.str f r with gen := s.nextGen f r z }
  regs : s.keepsRegs t [(R.fnStrWrWr f r).key, (R.fnStrSeqSeq f r).key, (R.fnMsixPbaPending f).key]
  mem : t.host.mem = (s.postRecord f r x z).host.mem

theorem State.movedOn_spec (s : State) (f r : Nat) (x : Rec) {z : Nat} (hz : (x.body ++ idleWords (z / 8 - x.units)).length + 16 ≤ 2 ^ 64) :
    RecordWritten s (s.movedOn f r x z) f r x z := by
  have hws : (R.fnStrWrWr f r).key ≠ (R.fnStrSeqSeq f r).key := by simp only [Fld.key, R.fnStrWrWr, R.fnStrSeqSeq]; omega
  have hhead : (s.headerOf f r x z).length = 8 := recHeader_length ..
  have hmem : (s.movedOn f r x z).host.mem = (s.postRecord f r x z).host.mem := rfl
  refine ⟨State.hostHas_of_mem hmem ?header, State.hostHas_of_mem hmem ?body, ?wr, ?seq, State.str_setStr _ _ _ _, ?regs, hmem⟩
  case header =>
    unfold State.postRecord
    exact State.post_hostHas _ _ _ _ _ (by rw [hhead]; omega)
  case body =>
    unfold State.postRecord
    exact (State.post_hostHas _ _ _ _ _ (by omega)).post false fun i hi j hj => by rw [hhead] at hj; omega
  case wr => exact (State.get_set_other _ hws _).trans (State.get_set_same _ _ _)
  case seq => exact State.get_set_same _ _ _
  case regs =>
    have hpost : s.keepsRegs (s.postRecord f r x z) [(R.fnStrWrWr f r).key, (R.fnStrSeqSeq f r).key, (R.fnMsixPbaPending f).key] := fun y _ => by
      simp only [State.postRecord, State.get_post]
    exact (hpost.set (f := R.fnStrWrWr f r) List.mem_cons_self (s.nextWr f r z)).set (f := R.fnStrSeqSeq f r)
      (List.mem_cons_of_mem _ List.mem_cons_self) (s.get (R.fnStrSeqSeq f r) + 1)

theorem State.writeRecord_spec (s : State) (f r : Nat) (x : Rec) {z : Nat} (hz : (x.body ++ idleWords (z / 8 - x.units)).length + 16 ≤ 2 ^ 64) :
    RecordWritten s (s.writeRecord f r x z) f r x z := by
  obtain ⟨header, body, wr, seq, str, regs, mem⟩ := s.movedOn_spec f r x hz
  obtain ⟨hmem, hstr, hregs⟩ := (s.movedOn f r x z).raiseWhen_spec x.error f (fun s => s.get (R.fnVecErr f))
  have hwp : (R.fnStrWrWr f r).key ∉ [(R.fnMsixPbaPending f).key] := by simp only [List.mem_singleton, Fld.key, R.fnStrWrWr, R.fnMsixPbaPending]; omega
  have hsp : (R.fnStrSeqSeq f r).key ∉ [(R.fnMsixPbaPending f).key] := by simp only [List.mem_singleton, Fld.key, R.fnStrSeqSeq, R.fnMsixPbaPending]; omega
  rw [State.writeRecord_eq]
  exact ⟨State.hostHas_of_mem hmem header, State.hostHas_of_mem hmem body, (hregs _ hwp).trans wr, (hregs _ hsp).trans seq,
    (State.str_of_host hstr f r).trans str, regs.trans (hregs.mono (by simp)), hmem.trans mem⟩

/-! ### What follows a record: staging, fences, interrupts, CNT_WIN (R218, R304, R322) -/

/-- The FENCE bookkeeping of a record changes descriptors only. -/
theorem State.releaseRecord_frame (s : State) (f id : Nat) :
    (s.releaseRecord f id).regs = s.regs ∧ (s.releaseRecord f id).host.mem = s.host.mem ∧ (s.releaseRecord f id).host.str = s.host.str := by
  refine State.each_keeps (fun t => t.regs = s.regs ∧ t.host.mem = s.host.mem ∧ t.host.str = s.host.str) (fun t i h => ?_) ⟨rfl, rfl, rfl⟩
  split
  · split <;> exact h
  · exact h

/-- The count of records since the last interrupt, one record later (R322). -/
def nextIrqCount (count had : Nat) : Nat := if count = 0 then had else if count ≤ had + 1 then 0 else had + 1

/-- The interrupt rule counts the record, and sends or holds an interrupt at most. -/
theorem State.countIrq_spec (s : State) (f r : Nat) :
    (s.countIrq f r).host.mem = s.host.mem ∧ s.keepsRegs (s.countIrq f r) [(R.fnMsixPbaPending f).key]
      ∧ ∃ first, (s.countIrq f r).str f r =
          { s.str f r with irqCount := nextIrqCount (s.get (R.fnStrIrqCount f r)) (s.str f r).irqCount, irqFirst := first } := by
  unfold State.countIrq nextIrqCount
  dsimp only
  split
  next => exact ⟨rfl, s.keepsRegs_refl _, _, rfl⟩
  next =>
    split
    next =>
      obtain ⟨hmem, -, -, hstr, -, -, -, -, -, -, hregs⟩ :=
        (s.setStr f r { s.str f r with irqCount := 0, irqFirst := none }).raise_frame f (s.get (R.fnStrCfgVec f r))
      exact ⟨hmem, fun x hx => hregs x (by simpa using hx), none, (State.str_of_host hstr f r).trans (State.str_setStr _ _ _ _)⟩
    next => exact ⟨rfl, s.keepsRegs_refl _, _, State.str_setStr _ _ _ _⟩

/-- A written record leaves staging, its fences and the counts of its ring. -/
def State.settleRecord (s : State) (f r : Nat) (x : Staged) (l : List Staged) : State :=
  (((s.setStaged f r l).releaseRecord f x.id).countIrq f r).when (x.record.type == 0x02) fun s => s.inc R.cntWin

theorem State.writeStaged_eq (s : State) (f r : Nat) (x : Staged) (l : List Staged) :
    s.writeStaged f r x l = ((s.writeRecord f r x.record x.record.padded).settleRecord f r x l).writersGoOn f r
      (((s.writeRecord f r x.record x.record.padded).settleRecord f r x l).lastSeq f r) := rfl

theorem State.settleRecord_spec (s : State) (f r : Nat) (x : Staged) (l : List Staged) :
    (s.settleRecord f r x l).host.mem = s.host.mem
      ∧ s.keepsRegs (s.settleRecord f r x l) [(R.fnStrStageOcc f r).key, (R.fnMsixPbaPending f).key, R.cntWin.key]
      ∧ (s.settleRecord f r x l).get (R.fnStrStageOcc f r) = stagedBytes l % 2 ^ 21
      ∧ (s.settleRecord f r x l).get R.cntWin = (if x.record.type = 2 then (s.get R.cntWin + 1) % 2 ^ 32 else s.get R.cntWin)
      ∧ ∃ first, (s.settleRecord f r x l).str f r =
          { s.str f r with staged := l, irqCount := nextIrqCount (s.get (R.fnStrIrqCount f r)) (s.str f r).irqCount, irqFirst := first } := by
  have hn := strWritten_nodup f r
  simp only [strWritten, List.nodup_cons, List.mem_cons, List.not_mem_nil, or_false, not_or] at hn
  obtain ⟨-, -, ⟨hop, how⟩, hpw, -⟩ := hn
  have hir : (R.fnStrIrqCount f r).key ≠ (R.fnStrStageOcc f r).key := by simp only [Fld.key, R.fnStrIrqCount, R.fnStrStageOcc]; omega
  obtain ⟨hregs, hmem, hstr⟩ := (s.setStaged f r l).releaseRecord_frame f x.id
  obtain ⟨hmem', hirq, first, hstr'⟩ := ((s.setStaged f r l).releaseRecord f x.id).countIrq_spec f r
  have hget (y : Fld) (h : y.key ≠ (R.fnStrStageOcc f r).key) : ((s.setStaged f r l).releaseRecord f x.id).get y = s.get y :=
    (State.get_of_regs hregs y).trans (State.get_set_other _ h _)
  have hwin (u : State) (y : Fld) (h : y.key ≠ R.cntWin.key) : (u.when (x.record.type == 0x02) fun s => s.inc R.cntWin).get y = u.get y :=
    State.when_same (f := fun s => s.inc R.cntWin) (fun u => u.get y) (State.get_inc_other u h) _
  have hset : ((s.setStaged f r l).releaseRecord f x.id).str f r = { s.str f r with staged := l } :=
    (State.str_of_host hstr f r).trans (State.str_setStr s f r _)
  have hhost : (s.settleRecord f r x l).host = (((s.setStaged f r l).releaseRecord f x.id).countIrq f r).host :=
    State.when_same (f := fun s => s.inc R.cntWin) (fun u => u.host) rfl _
  refine ⟨?mem, fun y hy => ?regs, ?occ, ?win, first, ?str⟩
  case mem => exact (congrArg (·.mem) hhost).trans (hmem'.trans (hmem.trans rfl))
  case regs =>
    simp only [List.mem_cons, List.not_mem_nil, or_false, not_or] at hy
    obtain ⟨hyo, hyp, hyw⟩ := hy
    exact (hwin _ y hyw).trans ((hirq y (by simpa using hyp)).trans (hget y hyo))
  case occ =>
    refine (hwin _ _ how).trans ((hirq _ (by simpa using hop)).trans ((State.get_of_regs hregs _).trans ?_))
    exact State.get_set_same _ _ _
  case win =>
    have hcnt : (((s.setStaged f r l).releaseRecord f x.id).countIrq f r).get R.cntWin = s.get R.cntWin :=
      (hirq _ (by simpa using Ne.symm hpw)).trans (hget _ (Ne.symm how))
    rw [← hcnt]
    unfold State.settleRecord State.when
    simp only [beq_iff_eq]
    split
    · exact State.get_inc_same _ _
    · rfl
  case str =>
    refine (State.str_of_host (congrArg (·.str) hhost) f r).trans (hstr'.trans ?_)
    rw [hset, hget _ hir]

/-- What a staged record leaves once it is written. -/
structure StagedWritten (s v : State) (f r : Nat) (x : Staged) (l : List Staged) : Prop where
  header : v.hostHas f (s.get (R.fnStrBaseBase f r) + s.get (R.fnStrWrWr f r)) (s.headerOf f r x.record x.record.padded)
  body : v.hostHas f (s.get (R.fnStrBaseBase f r) + s.get (R.fnStrWrWr f r) + 8)
    (x.record.body ++ idleWords (x.record.padded / 8 - x.record.units))
  wr : v.get (R.fnStrWrWr f r) = s.nextWr f r x.record.padded % 2 ^ 30
  seq : v.get (R.fnStrSeqSeq f r) = (s.get (R.fnStrSeqSeq f r) + 1) % 2 ^ 32
  gen : (v.str f r).gen = s.nextGen f r x.record.padded
  staged : (v.str f r).staged = l
  occ : v.get (R.fnStrStageOcc f r) = stagedBytes l % 2 ^ 21
  irq : (v.str f r).irqCount = nextIrqCount (s.get (R.fnStrIrqCount f r)) (s.str f r).irqCount
  win : v.get R.cntWin = (if x.record.type = 2 then (s.get R.cntWin + 1) % 2 ^ 32 else s.get R.cntWin)
  regs : s.keepsRegs v (strWritten f r)
  mem : v.host.mem = (s.postRecord f r x.record x.record.padded).host.mem

theorem State.stagedWritten (s : State) (f : Nat) {r : Nat} (hr : r < 8) (x : Staged) (l : List Staged) (hz : x.record.padded ≤ 2 ^ 31) :
    StagedWritten s ((s.writeRecord f r x.record x.record.padded).settleRecord f r x l) f r x l := by
  have hn := strWritten_nodup f r
  simp only [strWritten, List.nodup_cons, List.mem_cons, List.not_mem_nil, or_false, not_or] at hn
  obtain ⟨⟨-, hwo, hwp, hww⟩, ⟨hso, hsp, hsw⟩, -, hpw, -⟩ := hn
  have hlen := x.record.filled_length
  obtain ⟨header, body, wr, seq, str, regs, mem⟩ := s.writeRecord_spec f r x.record (z := x.record.padded) (by omega)
  obtain ⟨hmem, hregs, hocc, hwin, first, hstr⟩ := (s.writeRecord f r x.record x.record.padded).settleRecord_spec f r x l
  have hirq : (R.fnStrIrqCount f r).key ∉ strWritten f r := strRead_apart f hr _ (by simp [strRead])
  have hsub : [(R.fnStrWrWr f r).key, (R.fnStrSeqSeq f r).key, (R.fnMsixPbaPending f).key] ⊆ strWritten f r := by simp [strWritten]
  refine ⟨State.hostHas_of_mem hmem header, State.hostHas_of_mem hmem body, (hregs _ ?_).trans wr, (hregs _ ?_).trans seq, ?gen, ?staged, hocc, ?irq,
    hwin.trans ?win, (regs.mono hsub).trans (hregs.mono (by simp [strWritten])), hmem.trans mem⟩
  · simp only [List.mem_cons, List.not_mem_nil, or_false, not_or]
    exact ⟨hwo, hwp, hww⟩
  · simp only [List.mem_cons, List.not_mem_nil, or_false, not_or]
    exact ⟨hso, hsp, hsw⟩
  case gen => rw [hstr, str]
  case staged => rw [hstr]
  case irq => rw [hstr, str, regs _ fun h => hirq (hsub h)]
  case win =>
    rw [regs R.cntWin ?_]
    simp only [List.mem_cons, List.not_mem_nil, or_false, not_or]
    exact ⟨Ne.symm hww, Ne.symm hsw, Ne.symm hpw⟩

/-! ### STREAM_RECORD_WRITE, branch by branch (R315, R316) -/

theorem State.strFree_eq {s : State} {f r : Nat} (hw : s.get (R.fnStrWrWr f r) < s.strSize f r) (hr : (s.str f r).rd < s.strSize f r) :
    s.strFree f r = if (s.str f r).rd = s.get (R.fnStrWrWr f r) then s.strSize f r
      else ((s.str f r).rd + s.strSize f r - s.get (R.fnStrWrWr f r)) % s.strSize f r := by
  unfold State.strFree
  dsimp only
  by_cases h : (s.str f r).rd = s.get (R.fnStrWrWr f r)
  · simp [h]
  · have hne : ((s.str f r).rd + s.strSize f r - s.get (R.fnStrWrWr f r)) % s.strSize f r ≠ 0 := by
      rcases Nat.lt_or_gt_of_ne h with hlt | hgt
      · rw [Nat.mod_eq_of_lt (by omega)]; omega
      · rw [show (s.str f r).rd + s.strSize f r - s.get (R.fnStrWrWr f r) = (s.str f r).rd - s.get (R.fnStrWrWr f r) + s.strSize f r by omega,
          Nat.add_mod_right, Nat.mod_eq_of_lt (by omega)]
        omega
    rw [if_neg hne, if_neg h]

section
variable {s : State} {f r : Fin 8} {x : Staged} {l : List Staged} (ha : s.awake = true) (hs : (s.str f r).staged = x :: l)
  (hen : s.flag (R.fnStrCfgEn f r) = true)
include ha hs hen

theorem exec_streamRecordWrite_fits (hfit : x.record.padded ≤ s.strSize f r - s.get (R.fnStrWrWr f r)) (hroom : x.record.padded + 64 ≤ s.strFree f r)
    (ecc : Ecc) : exec (.streamRecordWrite f r ecc) s =
      .next ((((s.copyRead ecc).took x.record.payload.length).writeStaged f r (s.readStaged x ecc) l).closeTaps) := by
  change Host.Outcome.next (s.clocked (s.streamWrite f r ecc)) = _
  rw [State.clocked_awake ha, State.streamWrite, hs]
  simp [hen, hfit, hroom]

theorem exec_streamRecordWrite_fills (hfit : s.strSize f r - s.get (R.fnStrWrWr f r) < x.record.padded)
    (hroom : s.strSize f r - s.get (R.fnStrWrWr f r) + x.record.padded + 64 ≤ s.strFree f r) (ecc : Ecc) :
    exec (.streamRecordWrite f r ecc) s = .next (((((((s.copyRead ecc).took x.record.payload.length).writeRecord f r idleRec
      (s.strSize f r - s.get (R.fnStrWrWr f r))).countIrq f r).writeStaged f r (s.readStaged x ecc) l).closeTaps)) := by
  change Host.Outcome.next (s.clocked (s.streamWrite f r ecc)) = _
  rw [State.clocked_awake ha, State.streamWrite, hs]
  simp [hen, Nat.not_le.2 hfit, hroom]

/-- Without room for the record nothing is written, whatever its read would find. -/
theorem exec_streamRecordWrite_full (hfit : x.record.padded ≤ s.strSize f r - s.get (R.fnStrWrWr f r)) (hroom : s.strFree f r < x.record.padded + 64)
    (ecc : Ecc) : exec (.streamRecordWrite f r ecc) s = .next s := by
  change Host.Outcome.next (s.clocked (s.streamWrite f r ecc)) = _
  rw [State.clocked_awake ha, State.streamWrite, hs]
  simp [hen, hfit, Nat.not_le.2 hroom]

/-- Without room for the record behind an IDLE record nothing is written either. -/
theorem exec_streamRecordWrite_noFill (hfit : s.strSize f r - s.get (R.fnStrWrWr f r) < x.record.padded)
    (hroom : s.strFree f r < s.strSize f r - s.get (R.fnStrWrWr f r) + x.record.padded + 64) (ecc : Ecc) :
    exec (.streamRecordWrite f r ecc) s = .next s := by
  change Host.Outcome.next (s.clocked (s.streamWrite f r ecc)) = _
  rw [State.clocked_awake ha, State.streamWrite, hs]
  simp [hen, Nat.not_le.2 hfit, Nat.not_le.2 hroom]

end


/-! ### The record read from staging (R443, R444) -/

@[simp] theorem State.copyRead_ok (s : State) : s.copyRead .ok = s := by
  unfold State.copyRead State.lpddrCheck
  split <;> rfl

@[simp] theorem State.readStaged_ok (s : State) (x : Staged) : s.readStaged x .ok = x := rfl

/-- An uncorrectable error found in the staging memory is counted, and is quiet beside. -/
theorem State.copyRead_uncorrectable {s : State} (h : s.flag R.mgtDdrEccOn = true) : Quiet (s.inc R.cntEccUncorr) (s.copyRead .uncorrectable) := by
  unfold State.copyRead State.lpddrCheck
  simp only [h, Bool.not_true, Bool.false_eq_true, ↓reduceIte]
  exact quiet_fault (Quiet.refl _) _ _ _ _ _

/-- The record as an uncorrectable read delivers it. -/
theorem State.readStaged_uncorrectable {s : State} (h : s.flag R.mgtDdrEccOn = true) (x : Staged) : s.readStaged x .uncorrectable =
    { x with record := { x.record with poison := true, payload := freeBytes s.free x.record.payload.length } } := by
  simp [State.readStaged, State.lpddrPoison, h]

/-! ### Where the record ends -/

theorem State.nextWr_eq {s : State} {f r z : Nat} (h : s.get (R.fnStrWrWr f r) + z ≤ s.strSize f r) :
    s.nextWr f r z = (s.get (R.fnStrWrWr f r) + z) % s.strSize f r := by
  unfold State.nextWr
  split
  next he => rw [he, Nat.mod_self]
  next he => rw [Nat.mod_eq_of_lt (by omega)]

theorem idleRec_length (n : Nat) : (idleRec.body ++ idleWords (n / 8 - idleRec.units)).length = 8 * (n / 8 - 1) := by
  have hbody : idleRec.body = [] := rfl
  simp [Rec.units, hbody, idleWords_length]

/-- A record written over the ring's first bytes leaves the bytes that stand behind its placeholder. -/
theorem State.hostHas.postRecord {s : State} {f r wr z : Nat} {bs : List Byte} {x : Rec}
    (h : s.hostHas f (s.get (R.fnStrBaseBase f r) + wr) bs) (h0 : s.get (R.fnStrWrWr f r) = 0) (hn : s.nextWr f r z = z)
    (hlen : (x.body ++ idleWords (z / 8 - x.units)).length + 8 = z) (hlo : z + 8 ≤ wr) (hhi : wr + bs.length ≤ 2 ^ 63) :
    (s.postRecord f r x z).hostHas f (s.get (R.fnStrBaseBase f r) + wr) bs := by
  unfold State.postRecord
  refine ((h.post _ fun i hi j hj => ?place).post _ fun i hi j hj => ?body).post _ fun i hi j hj => ?header
  case place => rw [recHeader_length] at hj; omega
  case body => omega
  case header => rw [State.headerOf, recHeader_length] at hj; omega

/-- The fields that the writer of a ring reads and writes are none that a fault or the ECC counter writes. -/
theorem strFields_low {f r : Nat} : ∀ x ∈ R.fnStrWrWr f r :: R.fnStrSeqSeq f r :: strRead f r, x.key ∉ R.cntEccUncorr.key :: faultKeys := by
  intro x hx hk
  have hlow : ∀ k ∈ R.cntEccUncorr.key :: faultKeys, k < 0x1000000 * 64 := by decide
  have hhigh : ∀ x ∈ R.fnStrWrWr f r :: R.fnStrSeqSeq f r :: strRead f r, 0x1000000 * 64 ≤ x.key := by
    simp only [strRead, List.forall_mem_cons]
    simp only [Fld.key, R.fnStrWrWr, R.fnStrSeqSeq, R.fnStrBaseBase, R.fnStrCfgSizeLog2, R.fnStrCfgEn, R.fnStrIrqCount]
    refine ⟨?_, ?_, ?_, ?_, ?_, ?_, fun _ h => nomatch h⟩ <;> omega
  have := hlow _ hk
  have := hhigh _ hx
  omega

theorem cntEccUncorr_apart (f r : Nat) : R.cntEccUncorr.key ∉ strWritten f r := by
  simp only [strWritten, List.mem_cons, List.not_mem_nil, or_false, not_or, Fld.key, R.cntEccUncorr, R.fnStrWrWr, R.fnStrSeqSeq, R.fnStrStageOcc,
    R.fnMsixPbaPending, R.cntWin]
  omega

/-! ### A poisoned record, and a record behind an IDLE record -/

section
variable {s : State} {f r : Fin 8} {x : Staged} {l : List Staged} (ha : s.awake = true) (hs : (s.str f r).staged = x :: l)
  (hen : s.flag (R.fnStrCfgEn f r) = true)
include ha hs hen

/-- A record whose read from LPDDR5X fails is written with its poison mark. -/
theorem exec_streamRecordWrite_poisoned (hecc : s.flag R.mgtDdrEccOn = true) (hz : x.record.padded ≤ 2 ^ 31)
    (hfit : x.record.padded ≤ s.strSize f r - s.get (R.fnStrWrWr f r)) (hroom : x.record.padded + 64 ≤ s.strFree f r) :
    ∃ v : State, exec (.streamRecordWrite f r .uncorrectable) s = .next (v.writersGoOn f r (v.lastSeq f r)).closeTaps
      ∧ v.hostHas f (s.get (R.fnStrBaseBase f r) + s.get (R.fnStrWrWr f r)) (recHeader x.record.type (s.str f r).gen true x.record.error
          (if x.record.type = 0x0F then x.record.padded / 8 else x.record.units) (s.get (R.fnStrSeqSeq f r)))
      ∧ (v.str f r).staged = l ∧ v.get R.cntEccUncorr = (s.get R.cntEccUncorr + 1) % 2 ^ 32 := by
  have hq := State.copyRead_uncorrectable hecc
  have hget (y : Fld) (hy : y ∈ R.fnStrWrWr f r :: R.fnStrSeqSeq f r :: strRead f r) : (s.copyRead .uncorrectable).get y = s.get y := by
    have := strFields_low y hy
    rw [List.mem_cons, not_or] at this
    exact (hq.regs y this.2).trans (State.get_inc_other s this.1)
  obtain ⟨hsize, hunits⟩ := x.record.sizes_of_payload (freeBytes_length s.free x.record.payload.length) true
  obtain ⟨header, -, -, -, -, staged, -, -, -, regs, -⟩ := ((s.copyRead .uncorrectable).took x.record.payload.length).stagedWritten f r.isLt
    { x with record := { x.record with poison := true, payload := freeBytes s.free x.record.payload.length } } l (hsize.trans_le hz)
  refine ⟨_, ?exec, ?header, staged, ?count⟩
  case exec => rw [exec_streamRecordWrite_fits ha hs hen hfit hroom, State.readStaged_uncorrectable hecc, State.writeStaged_eq]
  case count =>
    rw [regs _ (cntEccUncorr_apart f r)]
    exact (hq.regs _ (by decide)).trans (State.get_inc_same _ _)
  case header =>
    have hgen : ((s.copyRead .uncorrectable).took x.record.payload.length).str f r = s.str f r := State.str_of_host hq.str f r
    have haddr : ((s.copyRead .uncorrectable).took x.record.payload.length).get (R.fnStrBaseBase f r)
        + ((s.copyRead .uncorrectable).took x.record.payload.length).get (R.fnStrWrWr f r)
        = s.get (R.fnStrBaseBase f r) + s.get (R.fnStrWrWr f r) := congrArg₂ (· + ·) (hget _ (by simp [strRead])) (hget _ (by simp))
    rw [haddr, State.headerOf, hgen, State.get_took, hget (R.fnStrSeqSeq f r) (by simp)] at header
    rw [← hsize, ← hunits]
    exact header

/-- The ring after an IDLE record has filled its end: WR stands at offset 0, a generation later. -/
def State.idleWritten (s : State) (f r : Nat) : State := (s.writeRecord f r idleRec (s.strSize f r - s.get (R.fnStrWrWr f r))).countIrq f r

omit ha hs hen in
theorem State.idleWritten_spec (hsz : s.strSize f r ≤ 2 ^ 30) (hwr : s.get (R.fnStrWrWr f r) < s.strSize f r) :
    (s.idleWritten f r).hostHas f (s.get (R.fnStrBaseBase f r) + s.get (R.fnStrWrWr f r))
        (recHeader 0x0F (s.str f r).gen false false ((s.strSize f r - s.get (R.fnStrWrWr f r)) / 8) (s.get (R.fnStrSeqSeq f r)))
      ∧ (s.idleWritten f r).get (R.fnStrWrWr f r) = 0 ∧ (s.idleWritten f r).get (R.fnStrSeqSeq f r) = (s.get (R.fnStrSeqSeq f r) + 1) % 2 ^ 32
      ∧ ((s.idleWritten f r).str f r).gen = !(s.str f r).gen ∧ ∀ y ∈ strRead f r, (s.idleWritten f r).get y = s.get y := by
  have hwrap : s.nextWr f r (s.strSize f r - s.get (R.fnStrWrWr f r)) = 0 := if_pos (by omega)
  have hturn : s.nextGen f r (s.strSize f r - s.get (R.fnStrWrWr f r)) = !(s.str f r).gen := if_pos (by omega)
  obtain ⟨header, -, wr, seq, str, regs, -⟩ := s.writeRecord_spec f r idleRec (z := s.strSize f r - s.get (R.fnStrWrWr f r))
    (by rw [idleRec_length]; omega)
  obtain ⟨hmem, hirq, first, hstr⟩ := (s.writeRecord f r idleRec (s.strSize f r - s.get (R.fnStrWrWr f r))).countIrq_spec f r
  have hn := strWritten_nodup f r
  simp only [strWritten, List.nodup_cons, List.mem_cons, List.not_mem_nil, or_false, not_or] at hn
  obtain ⟨⟨-, -, hwp, -⟩, ⟨-, hsp, -⟩, -⟩ := hn
  refine ⟨State.hostHas_of_mem hmem header, ?_, (hirq _ (by simpa using hsp)).trans seq, ?_, fun y hy => ?_⟩
  · exact (hirq _ (by simpa using hwp)).trans (wr.trans (congrArg (· % 2 ^ 30) hwrap))
  · rw [State.idleWritten, hstr, str]
    exact hturn
  · have hy := strRead_apart f r.isLt y hy
    simp only [strWritten, List.mem_cons, not_or] at hy
    obtain ⟨hyw, hys, -, hyp, -⟩ := hy
    exact (hirq y (by simpa using hyp)).trans (regs y (by simp [hyw, hys, hyp]))

/-- An IDLE record fills the end of the ring, and the record stands behind it at offset 0. -/
theorem exec_streamRecordWrite_idle (hsz : s.strSize f r ≤ 2 ^ 30) (hwr : s.get (R.fnStrWrWr f r) < s.strSize f r)
    (hfit : s.strSize f r - s.get (R.fnStrWrWr f r) < x.record.padded)
    (hroom : s.strSize f r - s.get (R.fnStrWrWr f r) + x.record.padded + 64 ≤ s.strFree f r) (hfree : s.strFree f r ≤ s.strSize f r) :
    ∃ v : State, exec (.streamRecordWrite f r .ok) s = .next (v.writersGoOn f r (v.lastSeq f r)).closeTaps
      ∧ v.hostHas f (s.get (R.fnStrBaseBase f r) + s.get (R.fnStrWrWr f r))
          (recHeader 0x0F (s.str f r).gen false false ((s.strSize f r - s.get (R.fnStrWrWr f r)) / 8) (s.get (R.fnStrSeqSeq f r)))
      ∧ v.get (R.fnStrWrWr f r) = x.record.padded % 2 ^ 30 ∧ v.get (R.fnStrSeqSeq f r) = (s.get (R.fnStrSeqSeq f r) + 2) % 2 ^ 32
      ∧ (v.str f r).gen = !(s.str f r).gen ∧ (v.str f r).staged = l := by
  obtain ⟨header, hwr0, hseq, hgen, hkeep⟩ := (s.took x.record.payload.length).idleWritten_spec (f := f) (r := r) hsz hwr
  set u := (s.took x.record.payload.length).idleWritten f r with hu
  have hbase : u.get (R.fnStrBaseBase f r) = s.get (R.fnStrBaseBase f r) := hkeep _ (by simp [strRead])
  have hsize : u.strSize f r = s.strSize f r := congrArg (2 ^ ·) (hkeep _ (by simp [strRead]))
  have hend : u.get (R.fnStrWrWr f r) + x.record.padded ≠ u.strSize f r := by omega
  have hnext : u.nextWr f r x.record.padded = x.record.padded := by rw [State.nextWr, if_neg hend, hwr0, Nat.zero_add]
  obtain ⟨-, -, wr, seq, gen, staged, -, -, -, -, mem⟩ := u.stagedWritten f r.isLt x l (by omega)
  refine ⟨_, ?exec, State.hostHas_of_mem mem ?header, wr.trans (by rw [hnext]), ?seq, ?gen, staged⟩
  case exec =>
    rw [exec_streamRecordWrite_fills ha hs hen hfit hroom, State.copyRead_ok, State.readStaged_ok, State.writeStaged_eq]
    rfl
  case header =>
    rw [State.get_took, ← hbase] at header
    rw [← hbase]
    exact header.postRecord hwr0 hnext x.record.filled_length (by rw [State.get_took]; omega) (by rw [recHeader_length, State.get_took]; omega)
  case seq =>
    rw [seq, hseq, State.get_took]
    omega
  case gen =>
    rw [gen, State.nextGen, if_neg hend, hgen]
    rfl

end

theorem State.strFree_le {s : State} {f r : Nat} (hw : s.get (R.fnStrWrWr f r) < s.strSize f r) : s.strFree f r ≤ s.strSize f r := by
  unfold State.strFree
  dsimp only
  split
  · exact le_rfl
  · exact (Nat.mod_lt _ (by omega)).le

/-! ### STREAM_IRQ_TIMEOUT (R322) -/

/-- A message sent changes no register. -/
theorem State.raise_sends_keeps {s : State} {f v : Nat} (h : s.flag (R.fnMsixCtlMask f v) = false) : s.keepsRegs (s.raise f v) [] := fun x _ => by
  simp only [State.raise, h]
  rfl

theorem exec_streamIrqTimeout_due {s : State} {f r : Fin 8} {t0 : Nat} (ha : s.awake = true) (hfirst : (s.str f r).irqFirst = some t0)
    (hcount : s.get (R.fnStrIrqCount f r) ≠ 0) (hdue : t0 + 1000 * s.get (R.fnStrIrqTimeUs f r) ≤ s.now) :
    exec (.streamIrqTimeout f r) s =
      .next ((s.setStr f r { s.str f r with irqCount := 0, irqFirst := none }).raise f (s.get (R.fnStrCfgVec f r))) := by
  change Host.Outcome.next (s.clocked _) = _
  rw [State.clocked_awake ha]
  simp [hfirst, hcount, State.reached, hdue]

theorem exec_streamIrqTimeout_early {s : State} {f r : Fin 8} {t0 : Nat} (ha : s.awake = true) (hfirst : (s.str f r).irqFirst = some t0)
    (hearly : s.now < t0 + 1000 * s.get (R.fnStrIrqTimeUs f r)) : exec (.streamIrqTimeout f r) s = .next s := by
  change Host.Outcome.next (s.clocked _) = _
  rw [State.clocked_awake ha]
  simp [hfirst, State.reached, Nat.not_le.2 hearly]

/-- Settles O33: the writer's branches by room, and the interrupt rule's time. -/
theorem stagedRecordIsWritten : Obligations.StagedRecordIsWritten := by
  refine ⟨fun f r x l s ha hst hen hsz hwr => ?write, fun f r t0 s ha hfirst hcount => ⟨fun hdue => ?due, fun hearly => ?early⟩⟩
  case write =>
    extract_lets size wr base z room count seq
    have hfree (hrd : (s.str f r).rd < size) : s.strFree f r = room := State.strFree_eq hwr hrd
    refine ⟨fun hfit hroom hrd => ?fits, fun hfit hroom hrd hecc => ?poisoned, fun hfit hroom hrd e => ?full, fun hfit hroom hrd => ?fills,
      fun hfit hroom hrd e => ?noFill⟩
    case fits =>
      have hnext := State.nextWr_eq (s := s) (f := f) (r := r) hfit
      obtain ⟨header, body, wr', seq', gen, staged, occ, irq, win, regs, -⟩ :=
        (s.took x.record.payload.length).stagedWritten f r.isLt x l (by omega)
      refine ⟨_, ?_, header, body, wr'.trans (congrArg (· % 2 ^ 30) hnext), seq', gen, staged, occ, irq, win, regs⟩
      rw [exec_streamRecordWrite_fits ha hst hen (by omega) (hroom.trans_eq (hfree hrd).symm), State.copyRead_ok, State.readStaged_ok, State.writeStaged_eq]
    case poisoned =>
      exact exec_streamRecordWrite_poisoned ha hst hen hecc (by omega) (by omega) (hroom.trans_eq (hfree hrd).symm)
    case full => exact exec_streamRecordWrite_full ha hst hen (by omega) ((hfree hrd).trans_lt hroom) e
    case fills =>
      exact exec_streamRecordWrite_idle ha hst hen hsz hwr (by omega) (hroom.trans_eq (hfree hrd).symm) (State.strFree_le hwr)
    case noFill => exact exec_streamRecordWrite_noFill ha hst hen (by omega) ((hfree hrd).trans_lt hroom) e
  case due =>
    obtain ⟨-, -, -, hstr, -, -, -, -, -, -, hregs⟩ :=
      (s.setStr f r { s.str f r with irqCount := 0, irqFirst := none }).raise_frame f (s.get (R.fnStrCfgVec f r))
    have hring := (State.str_of_host hstr f r).trans (State.str_setStr s f r _)
    refine ⟨_, exec_streamIrqTimeout_due ha hfirst hcount hdue, by rw [hring], by rw [hring],
      fun hmask => ⟨State.raise_sends _ f _ hmask, State.raise_sends_keeps hmask⟩, fun hmask => ?_⟩
    obtain ⟨hhost, hpend⟩ := State.raise_holds (s.setStr f r { s.str f r with irqCount := 0, irqFirst := none }) f _ hmask
    exact ⟨congrArg (·.msix) hhost, hpend, fun y hy => hregs y (by simpa using hy)⟩
  case early => exact exec_streamIrqTimeout_early ha hfirst hearly

end Sys2Proof.Machine
end

section
/-! SUPPORT. The Canvas beside its entries: what surface engines change as they read entries, and what taps change (R102–R104, R439–R441). -/

namespace Sys2Proof.Machine

/-! ### What a surface engine leaves alone -/

/-- From `s` to `t` neither time, memory, input, sets nor the dense path has changed, and no register field but those whose keys are listed. -/
structure Aside (ks : List Nat) (s t : State) : Prop where
  regs : s.keepsRegs t ks
  time : t.time = s.time
  lpddr : t.lpddr = s.lpddr
  ing : t.ing = s.ing
  active : t.active = s.active
  tns : t.tns = s.tns

variable {s t u : State} {ks ls : List Nat}

theorem Aside.refl (ks : List Nat) (s : State) : Aside ks s s := ⟨s.keepsRegs_refl ks, rfl, rfl, rfl, rfl, rfl⟩

theorem Aside.trans (a : Aside ks s t) (b : Aside ks t u) : Aside ks s u :=
  ⟨a.regs.trans b.regs, b.time.trans a.time, b.lpddr.trans a.lpddr, b.ing.trans a.ing, b.active.trans a.active, b.tns.trans a.tns⟩

theorem Aside.mono (a : Aside ks s t) (h : ks ⊆ ls) : Aside ls s t := ⟨a.regs.mono h, a.time, a.lpddr, a.ing, a.active, a.tns⟩

theorem Aside.set (a : Aside ks s t) {f : Fld} (h : f.key ∈ ks) (v : Nat) : Aside ks s (t.set f v) :=
  ⟨a.regs.set h v, a.time, a.lpddr, a.ing, a.active, a.tns⟩

theorem Aside.inc (a : Aside ks s t) {f : Fld} (h : f.key ∈ ks) : Aside ks s (t.inc f) := a.set h _

theorem Aside.setCv (a : Aside ks s t) (c : Canvas) : Aside ks s (t.setCv c) := ⟨a.regs, a.time, a.lpddr, a.ing, a.active, a.tns⟩

theorem Aside.obs (a : Aside ks s t) (v : Observe) : Aside ks s { t with obs := v } := ⟨a.regs, a.time, a.lpddr, a.ing, a.active, a.tns⟩

theorem Aside.host (a : Aside ks s t) (v : HostSide) : Aside ks s { t with host := v } := ⟨a.regs, a.time, a.lpddr, a.ing, a.active, a.tns⟩

theorem Aside.when (a : Aside ks s t) (c : Bool) {f : State → State} (h : Aside ks s (f t)) : Aside ks s (t.when c f) := by
  cases c
  · exact a
  · exact h

theorem Aside.of_quiet (h : Quiet s t) (hk : faultKeys ⊆ ks) : Aside ks s t :=
  ⟨fun x hx => h.regs x fun hf => hx (hk hf), h.time, h.lpddr, h.ing, h.active, h.tns⟩

theorem Aside.get (a : Aside ks s t) {x : Fld} (h : x.key ∉ ks) : t.get x = s.get x := a.regs x h

theorem Aside.now (a : Aside ks s t) : t.now = s.now := congrArg (fun v : TimeState => v.dev / 2 ^ 32) a.time

/-! ### Where a port's pixels stand (R73, R77) -/

/-- The register fields that place the pixels of port `p`. -/
def placeFields (p : Nat) : List Fld :=
  [R.ingPortGeomWidthM1 p, R.ingPortGeomHeightM1 p, R.srfRegionB0Base p, R.srfRegionB1Base p, R.srfRegionB0En p]

section
variable {p : Nat} (h : ∀ x ∈ placeFields p, t.get x = s.get x)
include h

theorem State.width_congr : t.width p = s.width p := congrArg (· + 1) (h _ (by simp [placeFields]))

theorem State.height_congr : t.height p = s.height p := by
  unfold State.height State.getIn
  rw [h (R.ingPortGeomHeightM1 p) (by simp [placeFields])]

theorem State.pixelKey_congr (x y : Nat) : t.pixelKey p x y = s.pixelKey p x y := by
  unfold State.pixelKey State.tilesX
  rw [State.width_congr h, h (R.srfRegionB0Base p) (by simp [placeFields]), h (R.srfRegionB1Base p) (by simp [placeFields])]

theorem State.near_congr (x y : Nat) (l : List (Int × Int)) : t.near p x y l = s.near p x y l := by
  unfold State.near
  rw [State.width_congr h, State.height_congr h]

theorem State.tilePixels_congr (tx ty : Nat) : t.tilePixels p tx ty = s.tilePixels p tx ty := by
  unfold State.tilePixels
  rw [State.width_congr h, State.height_congr h]

end

/-! ### Entries as an engine reads them (R439, R441) -/

/-- The register fields that the check of an entry may change. -/
def eccKeys : List Nat := R.cntEccCorr.key :: R.cntEccUncorr.key :: faultKeys

/-- The register fields that reading entries may change. -/
def readKeys : List Nat := R.cntCanvasReinit.key :: eccKeys

theorem placeFields_read {p : Nat} (hp : p < 8) : ∀ x ∈ placeFields p, x.key ∉ readKeys := by
  have h : ∀ p : Fin 8, ∀ x ∈ placeFields p, x.key ∉ readKeys := by decide
  exact h ⟨p, hp⟩

theorem State.eccRead_aside (s : State) (e : Ecc) (die mem detail : Nat) :
    Aside eccKeys s (s.eccRead e die mem detail) ∧ (s.eccRead e die mem detail).cv = s.cv := by
  have hf : faultKeys ⊆ eccKeys := fun k hk => by simp [eccKeys, hk]
  cases e
  case ok => exact ⟨Aside.refl _ _, rfl⟩
  case single =>
    have hq := quiet_fault (Quiet.refl (({ s with obs := { s.obs with life := { s.obs.life with ecc := SMap.upd s.obs.life.ecc 0 mem (· + 1) } } } :
      State).inc R.cntEccCorr)) .corrected 0x01 die mem detail
    exact ⟨(((Aside.refl _ s).obs _).inc (by simp [eccKeys])).trans (Aside.of_quiet hq hf), hq.cv⟩
  case uncorrectable =>
    have hq := quiet_fault (Quiet.refl (s.inc R.cntEccUncorr)) .contained 0x02 die mem detail
    exact ⟨((Aside.refl _ s).inc (by simp [eccKeys])).trans (Aside.of_quiet hq hf), hq.cv⟩

theorem State.checkEntry_aside (s : State) (k : Nat) (ecc : Ecc) : Aside eccKeys s (s.checkEntry k ecc) ∧ (s.checkEntry k ecc).cv = s.cv := by
  unfold State.checkEntry
  split
  · exact ⟨Aside.refl _ _, rfl⟩
  · exact s.eccRead_aside _ _ _ _

/-- An entry initialised as it is read: its new value, its mark of a poisoned word gone, counted. -/
theorem State.reinit_spec (s : State) (e p x y k : Nat) :
    Aside readKeys s (s.reinit e p x y k) ∧ (s.reinit e p x y k).get R.cntCanvasReinit = (s.get R.cntCanvasReinit + 1) % 2 ^ 32
      ∧ ∃ l d, (s.reinit e p x y k).cv =
          { s.cv with entries := SMap.set s.cv.entries entryInit k entryInit, recent := l, dirty := d, bad := SMap.del k s.cv.bad } := by
  have hq := quiet_fault (Quiet.refl (((((s.setCv { s.cv with bad := SMap.del k s.cv.bad }).writeEntry e k entryInit).markDirty s.tick p x y true).markDirty
    s.tick p x y false).inc R.cntCanvasReinit)) .contained 0x03 (dieOfEngine e) e k
  refine ⟨(((Aside.refl _ s).setCv _).inc (by simp [readKeys])).trans (Aside.of_quiet hq fun k hk => by simp [readKeys, eccKeys, hk]),
    (hq.regs _ (by decide)).trans (State.get_inc_same _ _), _, _, hq.cv⟩

theorem SMap.get_del_same {α : Type} (m : SMap α) (d : α) (k : Nat) : SMap.get (SMap.del k m) d k = d := by
  simp [SMap.get, SMap.find?_del_same]

theorem SMap.get_del_ne {α : Type} {k j : Nat} (h : j ≠ k) (m : SMap α) (d : α) : SMap.get (SMap.del k m) d j = SMap.get m d j := by
  simp [SMap.get, SMap.find?_del_ne h]

/-- From `s` to `t` the entries with keys `ks` were read: those whose read failed are initialised, and of the Canvas only their marks follow. -/
structure Reread (hits : List MemHit) (ks : List Nat) (s t : State) : Prop where
  aside : Aside readKeys s t
  entry : ∀ k, t.entryAt k = if k ∈ ks ∧ s.entryBad k (hitOn hits (.canvas k)) = true then entryInit else s.entryAt k
  bad : ∀ k, SMap.get t.cv.bad false k = (!decide (k ∈ ks) && SMap.get s.cv.bad false k)
  rest : ∃ m l d b, t.cv = { s.cv with entries := m, recent := l, dirty := d, bad := b }

variable {hits : List MemHit}

/-- A check that finds nothing bad leaves the Canvas alone. -/
theorem State.readPixel_good {e p : Nat} {q : Nat × Nat} (h : s.entryBad (s.pixelKey p q.1 q.2) (hitOn hits (.canvas (s.pixelKey p q.1 q.2))) = false) :
    Aside eccKeys s (s.readPixel e p hits q) ∧ (s.readPixel e p hits q).cv = s.cv := by
  unfold State.readPixel
  dsimp only
  rw [State.when_false _ h]
  exact s.checkEntry_aside _ _

theorem State.entryAt_congr (h : t.cv.entries = s.cv.entries) (k : Nat) : t.entryAt k = s.entryAt k := by unfold State.entryAt; rw [h]

theorem State.entryBad_congr (h : t.cv.bad = s.cv.bad) (k : Nat) (ecc : Ecc) : t.entryBad k ecc = s.entryBad k ecc := by unfold State.entryBad; rw [h]

theorem State.readPixel_bad {e p : Nat} {q : Nat × Nat} (h : s.entryBad (s.pixelKey p q.1 q.2) (hitOn hits (.canvas (s.pixelKey p q.1 q.2))) = true) :
    Reread hits [s.pixelKey p q.1 q.2] s (s.readPixel e p hits q)
      ∧ (s.readPixel e p hits q).get R.cntCanvasReinit = (s.get R.cntCanvasReinit + 1) % 2 ^ 32 := by
  unfold State.readPixel
  dsimp only
  rw [State.when_true _ h]
  generalize s.pixelKey p q.1 q.2 = k at h ⊢
  obtain ⟨haside, hcv⟩ := s.checkEntry_aside k (hitOn hits (.canvas k))
  obtain ⟨hre, hcnt, l, d, hrest⟩ := (s.checkEntry k (hitOn hits (.canvas k))).reinit_spec e p q.1 q.2 k
  rw [hcv] at hrest
  refine ⟨⟨(haside.mono fun x hx => by simp [readKeys, hx]).trans hre, fun j => ?entry, fun j => ?bad, _, l, d, _, hrest⟩,
    hcnt.trans (by rw [haside.get (by decide)])⟩
  case entry =>
    unfold State.entryAt
    rw [hrest]
    by_cases hj : j = k
    · subst hj; simp [h]
    · simp [hj, SMap.get_set_ne hj]
  case bad =>
    rw [hrest]
    by_cases hj : j = k
    · subst hj; simp [SMap.get_del_same]
    · simp [hj, SMap.get_del_ne hj]

theorem State.readPixel_reread (s : State) (e p : Nat) (hits : List MemHit) (q : Nat × Nat) :
    Reread hits [s.pixelKey p q.1 q.2] s (s.readPixel e p hits q) := by
  by_cases h : s.entryBad (s.pixelKey p q.1 q.2) (hitOn hits (.canvas (s.pixelKey p q.1 q.2))) = true
  · exact (State.readPixel_bad h).1
  · rw [Bool.not_eq_true] at h
    obtain ⟨haside, hcv⟩ := State.readPixel_good (e := e) h
    refine ⟨haside.mono fun x hx => by simp [readKeys, hx], fun k => ?entry, fun k => ?bad, _, _, _, _, hcv⟩
    case entry =>
      rw [if_neg, State.entryAt_congr (congrArg (·.entries) hcv)]
      rintro ⟨hk, hb⟩
      rw [List.mem_singleton.1 hk, h] at hb
      exact absurd hb (by decide)
    case bad =>
      rw [hcv]
      by_cases hk : k = s.pixelKey p q.1 q.2
      · have : SMap.get s.cv.bad false k = false := by
          rw [State.entryBad, Bool.or_eq_false_iff] at h
          rw [hk, h.1]
        simp [this]
      · simp [hk]

theorem Reread.nil (hits : List MemHit) (s : State) : Reread hits [] s s :=
  ⟨Aside.refl _ _, by simp, by simp, _, _, _, _, rfl⟩

theorem Reread.append {js : List Nat} (a : Reread hits js s t) (b : Reread hits ks t u) : Reread hits (js ++ ks) s u := by
  obtain ⟨m, l, d, c, ha⟩ := a.rest
  obtain ⟨m', l', d', c', hb⟩ := b.rest
  refine ⟨a.aside.trans b.aside, fun k => ?entry, fun k => ?bad, m', l', d', c', by rw [hb, ha]⟩
  case entry =>
    rw [b.entry, a.entry]
    have hbad : t.entryBad k (hitOn hits (.canvas k)) =
        ((!decide (k ∈ js) && SMap.get s.cv.bad false k) || hitOn hits (.canvas k) == .uncorrectable) := by rw [State.entryBad, a.bad]
    rw [hbad]
    simp only [State.entryBad, List.mem_append]
    by_cases hj : k ∈ js <;> by_cases hk : k ∈ ks <;> simp [hj, hk]
    exact fun hu _ => by simp [hu]
  case bad =>
    rw [b.bad, a.bad]
    simp only [List.mem_append]
    by_cases hj : k ∈ js <;> by_cases hk : k ∈ ks <;> simp [hj, hk]

theorem State.readPixels_reread {p : Nat} (hp : p < 8) (s : State) (e : Nat) (hits : List MemHit) (l : List (Nat × Nat)) :
    Reread hits (l.map fun q => s.pixelKey p q.1 q.2) s (s.readPixels e p hits l) := by
  induction l generalizing s with
  | nil => exact Reread.nil hits s
  | cons q l ih =>
    have hq := s.readPixel_reread e p hits q
    have hplace (x : Fld) (hx : x ∈ placeFields p) : (s.readPixel e p hits q).get x = s.get x := hq.aside.get (placeFields_read hp x hx)
    have hl := ih (s.readPixel e p hits q)
    simp only [State.pixelKey_congr hplace] at hl
    exact hq.append hl

/-- Where no read fails, the Canvas stays as it is. -/
theorem State.readPixels_good {p : Nat} (hp : p < 8) (e : Nat) {l : List (Nat × Nat)}
    (h : ∀ q ∈ l, s.entryBad (s.pixelKey p q.1 q.2) (hitOn hits (.canvas (s.pixelKey p q.1 q.2))) = false) :
    Aside eccKeys s (s.readPixels e p hits l) ∧ (s.readPixels e p hits l).cv = s.cv := by
  induction l generalizing s with
  | nil => exact ⟨Aside.refl _ _, rfl⟩
  | cons q l ih =>
    obtain ⟨haside, hcv⟩ := State.readPixel_good (e := e) (h q List.mem_cons_self)
    have hplace (x : Fld) (hx : x ∈ placeFields p) : (s.readPixel e p hits q).get x = s.get x :=
      haside.get fun hk => placeFields_read hp x hx (List.mem_cons_of_mem _ hk)
    obtain ⟨haside', hcv'⟩ := ih (s := s.readPixel e p hits q) fun r hr => by
      rw [State.pixelKey_congr hplace, State.entryBad_congr (congrArg (·.bad) hcv)]
      exact h r (List.mem_cons_of_mem _ hr)
    exact ⟨haside.trans haside', hcv'.trans hcv⟩

/-- Where every check finds nothing at all, reading changes nothing. -/
theorem State.readPixel_clean {e p : Nat} {q : Nat × Nat} (hbad : SMap.get s.cv.bad false (s.pixelKey p q.1 q.2) = false)
    (hok : hitOn hits (.canvas (s.pixelKey p q.1 q.2)) = .ok) : s.readPixel e p hits q = s := by
  unfold State.readPixel State.checkEntry State.entryBad
  dsimp only
  rw [hbad, hok]
  rfl

theorem State.readPixels_clean {e p : Nat} {l : List (Nat × Nat)} (h : ∀ q ∈ l, SMap.get s.cv.bad false (s.pixelKey p q.1 q.2) = false
    ∧ hitOn hits (.canvas (s.pixelKey p q.1 q.2)) = .ok) : s.readPixels e p hits l = s :=
  State.each_of_fixed fun q hq => State.readPixel_clean (h q hq).1 (h q hq).2

/-! ### A record staged for a ring (R319, R320) -/

/-- A ring that is off takes nothing, and counts it. -/
theorem State.stage_off {f r : Nat} (h : s.flag (R.fnStrCfgEn f r) = false) (x : Rec) : s.stage f r x = s.touch.inc (R.fnRingOffCntOff f) := by
  have h' : s.touch.flag (R.fnStrCfgEn f r) = false := h
  unfold State.stage
  dsimp only
  rw [h']
  rfl

/-- What admitting a record leaves staged. -/
def Str.admitted (st : Str) (id : Nat) (x : Rec) : List Staged := closeGaps x.type st.staged ++ [{ id := id, record := x }]

theorem State.stage_admitted {f r : Nat} (h : s.flag (R.fnStrCfgEn f r) = true) {x : Rec} (ha : (s.str f r).admits f x.padded = true) :
    s.stage f r x = (s.touch.setStaged f r ((s.str f r).admitted s.host.nextId x)).countRecord := by
  have h' : s.touch.flag (R.fnStrCfgEn f r) = true := h
  have ha' : (s.touch.str f r).admits f x.padded = true := ha
  unfold State.stage
  dsimp only
  rw [h', ha']
  rfl

theorem State.stage_admitted_str {f r : Nat} (h : s.flag (R.fnStrCfgEn f r) = true) {x : Rec} (ha : (s.str f r).admits f x.padded = true) :
    ((s.stage f r x).str f r).staged = (s.str f r).admitted s.host.nextId x := by
  rw [State.stage_admitted h ha]
  exact congrArg Str.staged (State.str_setStr s.touch f r _)

/-- The register fields that staging a tap record may change. -/
def stageKeys (f r : Nat) : List Nat := [(R.fnRingOffCntOff f).key, (R.fnStrStageOcc f r).key, (R.fnStrGapCntGap f r).key]

theorem Aside.touch (a : Aside ks s t) : Aside ks s t.touch := ⟨a.regs, a.time, a.lpddr, a.ing, a.active, a.tns⟩

theorem Aside.setStaged (a : Aside ks s t) {f r : Nat} (h : (R.fnStrStageOcc f r).key ∈ ks) (l : List Staged) : Aside ks s (t.setStaged f r l) :=
  (a.host _).set h _

/-- Staging a record of a type that no producer counts losses of changes no part but the host side and the idle timer. -/
theorem State.stage_aside (s : State) (f r : Nat) {x : Rec} (h2 : x.type ≠ 2) (h8 : x.type ≠ 8) :
    Aside (stageKeys f r) s (s.stage f r x) ∧ (s.stage f r x).cv = s.cv := by
  have hocc : (R.fnStrStageOcc f r).key ∈ stageKeys f r := by simp [stageKeys]
  unfold State.stage
  dsimp only
  split
  next => exact ⟨(Aside.refl _ s).touch.inc (by simp [stageKeys]), rfl⟩
  next =>
    split
    next => exact ⟨((Aside.refl _ s).touch.setStaged hocc _).host _, rfl⟩
    next =>
      have hgap : (s.touch.inc (R.fnStrGapCntGap f r)).countGap x.type = s.touch.inc (R.fnStrGapCntGap f r) := by simp [State.countGap, h2, h8]
      have hcount : Aside (stageKeys f r) s (s.touch.inc (R.fnStrGapCntGap f r)) := (Aside.refl _ s).touch.inc (by simp [stageKeys])
      rw [hgap]
      split
      next => exact ⟨hcount.setStaged hocc _, rfl⟩
      next => exact ⟨(hcount.setStaged hocc _).host _, rfl⟩

/-! ### Taps (R102–R104) -/

/-- The register fields that the taps of engine `e` may change where their records go to ring `r` of function `f`. -/
def tapKeys (e f r : Nat) : List Nat := (R.srfCntTapDrop e).key :: stageKeys f r

theorem low_notMem_stageKeys {k : Nat} (h : k < 0x1000000 * 64) (f r : Nat) : k ∉ stageKeys f r := by
  simp only [stageKeys, Fld.key, R.fnRingOffCntOff, R.fnStrStageOcc, R.fnStrGapCntGap, List.mem_cons, List.not_mem_nil, or_false, not_or]
  omega

theorem low_notMem_tapKeys {k e : Nat} (h : k < 0x1000000 * 64) (hd : k ≠ (R.srfCntTapDrop e).key) (f r : Nat) : k ∉ tapKeys e f r := by
  rw [tapKeys, List.mem_cons, not_or]
  exact ⟨hd, low_notMem_stageKeys h f r⟩

/-- From `s` to `t` the taps of engine `e` have worked: of the Canvas, only taps and decimators have changed. -/
structure Tapped (e : Nat) (s t : State) : Prop where
  aside : Aside (tapKeys e (s.get R.srfTapFunc) (s.get R.srfTapRing)) s t
  cv : ∃ m d, t.cv = { s.cv with taps := m, decim := d }

variable {e : Nat}

theorem tapTarget_apart (e f r : Nat) : R.srfTapFunc.key ∉ tapKeys e f r ∧ R.srfTapRing.key ∉ tapKeys e f r := by
  refine ⟨low_notMem_tapKeys (by decide) ?_ f r, low_notMem_tapKeys (by decide) ?_ f r⟩ <;>
    simp only [Fld.key, R.srfTapFunc, R.srfTapRing, R.srfCntTapDrop] <;> omega

theorem Tapped.refl (e : Nat) (s : State) : Tapped e s s := ⟨Aside.refl _ _, _, _, rfl⟩

theorem Tapped.trans (a : Tapped e s t) (b : Tapped e t u) : Tapped e s u := by
  obtain ⟨haside, m, d, hcv⟩ := a
  obtain ⟨haside', m', d', hcv'⟩ := b
  obtain ⟨hf, hr⟩ := tapTarget_apart e (s.get R.srfTapFunc) (s.get R.srfTapRing)
  rw [haside.get hf, haside.get hr] at haside'
  exact ⟨haside.trans haside', m', d', by rw [hcv', hcv]⟩

theorem Tapped.setTap (a : Tapped e s t) (i : Nat) (c : Bool) (v : Tap) : Tapped e s (t.setTap i c v) := by
  obtain ⟨haside, m, d, hcv⟩ := a
  exact ⟨haside.setCv _, _, d, by rw [State.setTap, State.setCv_cv, hcv]⟩

theorem TapRecord.rcd_type (x : TapRecord) (e : Nat) (c : Bool) : (x.rcd e c).type ≠ 2 ∧ (x.rcd e c).type ≠ 8 := by
  cases c <;> simp [TapRecord.rcd]

/-- A record of engine `e`'s taps staged where the tap register sends it. -/
theorem State.stage_tapped (s : State) (e i : Nat) (c : Bool) (x : TapRecord) : Tapped e s (s.stage (s.get R.srfTapFunc) (s.get R.srfTapRing) (x.rcd i c)) := by
  obtain ⟨h2, h8⟩ := x.rcd_type i c
  obtain ⟨haside, hcv⟩ := s.stage_aside (s.get R.srfTapFunc) (s.get R.srfTapRing) h2 h8
  exact ⟨haside.mono (List.subset_cons_self _ _), _, _, hcv⟩

theorem State.passTap_tapped (s : State) (e : Nat) (c : Bool) : Tapped e s (s.passTap e c) := by
  unfold State.passTap
  dsimp only
  split
  · exact Tapped.refl e s
  · split
    · exact ((Tapped.refl e s).setTap e c _).trans (State.stage_tapped _ e e c _)
    · exact Tapped.refl e s

theorem State.closeTap_tapped (s : State) (e : Nat) (c : Bool) : Tapped e s (s.closeTap e c) := by
  have hpass := s.passTap_tapped e c
  unfold State.closeTap
  dsimp only
  split
  · exact (hpass.setTap e c _).trans (State.passTap_tapped _ e c)
  · exact hpass

theorem State.tapEntry_tapped (s : State) (e : Nat) (c : Bool) (b : List Byte) (poison : Bool) : Tapped e s (s.tapEntry e c b poison) := by
  have hclose := s.closeTap_tapped e c
  unfold State.tapEntry
  dsimp only
  split
  · exact (hclose.setTap e c _).trans (State.closeTap_tapped _ e c)
  · obtain ⟨haside, m, d, hcv⟩ := hclose.setTap e c { (s.closeTap e c).tap e c with dropped := min 0xFFFFFFFF (((s.closeTap e c).tap e c).dropped + 1) }
    exact ⟨haside.inc (by simp [tapKeys]), m, d, hcv⟩

theorem State.decimate_tapped (s : State) (e k d : Nat) : Tapped e s (s.decimate k d).1 := ⟨(Aside.refl _ s).setCv _, _, _, rfl⟩

theorem State.tapEvent_tapped (s : State) (e p w : Nat) (poison : Bool) : Tapped e s (s.tapEvent e p w poison) := by
  unfold State.tapEvent
  dsimp only
  split
  · split
    · exact (s.decimate_tapped e _ _).trans (State.tapEntry_tapped _ e _ _ _)
    · exact s.decimate_tapped e _ _
  · exact Tapped.refl e s

theorem State.tapCorner_tapped (s : State) (e w : Nat) (corner : Bool) (flow : Option (Nat × Nat)) (poison : Bool) :
    Tapped e s (s.tapCorner e w corner flow poison) := by
  unfold State.tapCorner
  dsimp only
  split
  · split
    · exact (s.decimate_tapped e _ _).trans (State.tapEntry_tapped _ e _ _ _)
    · exact s.decimate_tapped e _ _
  · exact Tapped.refl e s

end Sys2Proof.Machine
end

section
/-! SUPPORT and OBLIGATION. A surface engine applies an event and completes a flow fit (R80, R85, R89, R90, R92, R93). -/

namespace Sys2Proof.Machine

variable {s t u : State} {ks : List Nat}

/-! ### Entries and their fields (R76) -/

/-- A pixel whose fields fit their entry reads back from it. -/
theorem pixelOf_entry {p : Pixel} (hpos : p.pos < 2 ^ 24) (hneg : p.neg < 2 ^ 24) (hact : p.act < 2 ^ 8) : pixelOf p.entry = p := by
  obtain ⟨pos, neg, act, sp, sn, hot, corner⟩ := p
  have hb (b : Bool) : b2n b ≤ 1 := by cases b <;> decide
  have hbit (b : Bool) : (b2n b == 1) = b := by cases b <;> rfl
  have h1 := hb sp
  have h2 := hb sn
  have h3 := hb hot
  have h4 := hb corner
  dsimp only at hpos hneg hact
  simp only [pixelOf, Pixel.entry, bits, bit, Pixel.mk.injEq]
  refine ⟨by omega, by omega, by omega, ?_, ?_, ?_, ?_⟩
  · exact (congrArg (· == 1) (by omega)).trans (hbit sp)
  · exact (congrArg (· == 1) (by omega)).trans (hbit sn)
  · exact (congrArg (· == 1) (by omega)).trans (hbit hot)
  · exact (congrArg (· == 1) (by omega)).trans (hbit corner)

theorem pixelOf_lt (v : Nat) : (pixelOf v).pos < 2 ^ 24 ∧ (pixelOf v).neg < 2 ^ 24 ∧ (pixelOf v).act < 2 ^ 8 :=
  ⟨Nat.mod_lt _ (by decide), Nat.mod_lt _ (by decide), Nat.mod_lt _ (by decide)⟩

/-- ACT after an event, by the age of the newest stamp (R89). -/
theorem nextAct_eq (p : Pixel) (ts half : Nat) :
    nextAct p ts half = min 255 (p.act / 2 ^ (if p.stalePos && p.staleNeg then 8 else min 8 ((if p.stalePos then wrapDiff 24 ts p.neg
      else if p.staleNeg then wrapDiff 24 ts p.pos else min (wrapDiff 24 ts p.pos) (wrapDiff 24 ts p.neg)).toNat / half)) + 1) := by
  unfold nextAct newestAge
  cases p.stalePos <;> cases p.staleNeg <;> rfl

/-! ### An event's word (R27, R436) -/

/-- The poison tag stands above every field of an event word that an engine applies. -/
theorem bits_tagged {lo n : Nat} (h : lo + n ≤ 64) (w : Nat) : bits (w % 2 ^ 64 + 2 ^ 64) lo n = bits w lo n := by
  obtain ⟨d, hd⟩ := Nat.exists_eq_add_of_le h
  have h64 : 2 ^ 64 = 2 ^ lo * (2 ^ n * 2 ^ d) := by rw [hd, pow_add, pow_add, Nat.mul_assoc]
  unfold bits
  rw [h64, Nat.add_div_of_dvd_left ⟨_, rfl⟩, Nat.mul_div_cancel_left _ (by positivity), Nat.mod_mul_right_div_self,
    Nat.add_mul_mod_self_left, Nat.mod_mul_right_mod]

/-! ### What leaves every entry as it is -/

/-- From `s` to `t` no entry of the Canvas and none of their marks have changed, nor anything that `Aside` names. -/
structure Beside (ks : List Nat) (s t : State) : Prop extends Aside ks s t where
  entries : t.cv.entries = s.cv.entries
  bad : t.cv.bad = s.cv.bad

theorem Beside.refl (ks : List Nat) (s : State) : Beside ks s s := ⟨Aside.refl ks s, rfl, rfl⟩

theorem Beside.trans (a : Beside ks s t) (b : Beside ks t u) : Beside ks s u :=
  ⟨a.toAside.trans b.toAside, b.entries.trans a.entries, b.bad.trans a.bad⟩

theorem Beside.mono {ls : List Nat} (a : Beside ks s t) (h : ks ⊆ ls) : Beside ls s t := ⟨a.toAside.mono h, a.entries, a.bad⟩

theorem Beside.inc (a : Beside ks s t) {f : Fld} (h : f.key ∈ ks) : Beside ks s (t.inc f) := ⟨a.toAside.inc h, a.entries, a.bad⟩

theorem Beside.setCv (a : Beside ks s t) {c : Canvas} (he : c.entries = t.cv.entries) (hb : c.bad = t.cv.bad) : Beside ks s (t.setCv c) :=
  ⟨a.toAside.setCv c, he.trans a.entries, hb.trans a.bad⟩

theorem Beside.markDirty (a : Beside ks s t) (n p x y : Nat) (pol : Bool) : Beside ks s (t.markDirty n p x y pol) := a.setCv rfl rfl

theorem Beside.schedule (a : Beside ks s t) (e p tx ty m : Nat) : Beside ks s (t.schedule e p tx ty m) := a.setCv rfl rfl

theorem Beside.count (a : Beside ks s t) (d k n : Nat) : Beside ks s (t.count d k n) := ⟨a.toAside.obs _, a.entries, a.bad⟩

theorem Beside.when (a : Beside ks s t) (c : Bool) {f : State → State} (h : Beside ks s (f t)) : Beside ks s (t.when c f) := by
  cases c
  · exact a
  · exact h

theorem Beside.of_quiet (h : Quiet s t) (hk : faultKeys ⊆ ks) : Beside ks s t :=
  ⟨Aside.of_quiet h hk, congrArg (·.entries) h.cv, congrArg (·.bad) h.cv⟩

theorem Tapped.beside {e : Nat} (a : Tapped e s t) : Beside (tapKeys e (s.get R.srfTapFunc) (s.get R.srfTapRing)) s t := by
  obtain ⟨haside, m, d, hcv⟩ := a
  exact ⟨haside, by rw [hcv], by rw [hcv]⟩

/-! ### The parts of an event's application (R80–R100) -/

/-- Whether an event raises its polarity (R80). -/
def Pixel.raisedBy (p : Pixel) (pol : Bool) (ts : Nat) : Bool := p.stale pol || decide (0 < wrapDiff 24 ts (p.stamp pol))

/-- ACT after an event on pixel `p` (R89). -/
def State.actAfter (s : State) (p : Pixel) (ts : Nat) : Nat := nextAct p ts (s.getIn R.srfHotHalfUs 1 65535)

/-- HOT after an event on pixel `p` (R90). -/
def State.hotAfter (s : State) (p : Pixel) (ts : Nat) : Bool := s.nextHot p.hot (s.actAfter p ts)

/-- Whether an event on pixel `p` is tested for a corner (R85). -/
def State.testsEvent (s : State) (p : Pixel) (pol : Bool) (ts : Nat) : Bool := p.raisedBy pol ts && !s.hotAfter p ts

/-- Pixel `p` after an event, with the outcome of its corner test. -/
def State.pixelAfter (s : State) (p : Pixel) (pol : Bool) (ts : Nat) (corner : Bool) : Pixel :=
  { (if p.raisedBy pol ts then p.raise pol ts else p) with
    act := s.actAfter p ts, hot := s.hotAfter p ts, corner := if s.testsEvent p pol ts then corner else p.corner }

/-- The counters of an applied event. -/
def State.countUpdate (s : State) (e : Nat) (raised corner hot : Bool) : State :=
  ((((s.inc (R.srfCntUpdate e)).when raised fun s => s.inc (R.srfCntRaise e)).when corner fun s =>
    (s.inc (R.srfCntCorner e)).count (dieOfEngine e) 17 1).when hot fun s => s.inc (R.srfCntHotmask e)).count (dieOfEngine e) 16 1

/-- The trace entry of every 2^EVT_DECIM-th event (R473). -/
def State.traceEvent (s : State) (e w : Nat) : State :=
  let n := SMap.get s.obs.trace.evt 0 e
  let t := s.when (s.capturing && n == 0) fun s => s.trace (dieOfEngine e) 6 e 0 (w % 2 ^ 64)
  t.when t.capturing fun s => s.setTrace { s.obs.trace with evt := SMap.set s.obs.trace.evt 0 e ((n + 1) % 2 ^ s.get R.dbgTraceCfgEvtDecim) }

/-- An applied event goes on: to the taps or a flow fit, to the fabric, to the trace. -/
def State.handOn (s : State) (e p w : Nat) (v : EngineEvent) (fit inject : Bool) : State :=
  let t := s.tapEvent e p w v.poison
  ((if fit then t.setCv { t.cv with fits := pushEvent t.cv.fits e v } else t.tapCorner e w v.corner none v.poison).when inject fun s =>
    s.setCv { s.cv with spikes := pushEvent s.cv.spikes e v }).traceEvent e w

/-- Stamp, coordinates, polarity and port of an event word. -/
abbrev wordStamp (w : Nat) : Nat := bits w 0 24
abbrev wordX (w : Nat) : Nat := bits w 24 11
abbrev wordY (w : Nat) : Nat := bits w 35 11
abbrev wordPol (w : Nat) : Bool := bit w 46
abbrev wordPort (w : Nat) : Nat := bits w 47 3

/-- The key of the entry that an event word names. -/
def State.wordKey (s : State) (w : Nat) : Nat := s.pixelKey (wordPort w) (wordX w) (wordY w)

/-- The pixel that an event word names. -/
def State.wordPixel (s : State) (w : Nat) : Pixel := pixelOf (s.entryAt (s.wordKey w))

/-- The pixels of both circles about the pixel that an event word names. -/
def State.wordCircles (s : State) (w : Nat) : List (Nat × Nat) := s.near (wordPort w) (wordX w) (wordY w) (innerCircle ++ outerCircle)

/-- The pixel of an event word after it is applied, with the outcome of its corner test. -/
def State.wordAfter (s : State) (w : Nat) (corner : Bool) : Pixel := s.pixelAfter (s.wordPixel w) (wordPol w) (wordStamp w) corner

/-- The state before the commit: a tested event has read its circles. -/
def State.circlesRead (s : State) (e w : Nat) (hits : List MemHit) : State :=
  s.when (s.testsEvent (s.wordPixel w) (wordPol w) (wordStamp w)) fun s => s.readPixels e (wordPort w) hits (s.wordCircles w)

/-- The commit itself, with its dirty marks and its place on the aging wheel. -/
def State.committed (s t : State) (e w : Nat) (corner : Bool) : State :=
  ((t.took 36).writeEntry e (s.wordKey w) (s.wordAfter w corner).entry).markCommit (wordPort w) (wordX w) (wordY w) (wordPol w) (bit w 50)
    (s.wordPixel w) (s.wordAfter w corner) ((s.wordPixel w).raisedBy (wordPol w) (wordStamp w))

/-- An event's application in its parts; corner, fit and injection are decided on the way. -/
theorem State.apply_parts (s : State) (e w : Nat) (hits : List MemHit) : ∃ (corner fit inject : Bool) (v : EngineEvent), s.apply e w hits =
    ((s.committed (s.circlesRead e w hits) e w corner).countUpdate e ((s.wordPixel w).raisedBy (wordPol w) (wordStamp w)) corner
      (s.hotAfter (s.wordPixel w) (wordStamp w))).handOn e (wordPort w) w v fit inject :=
  ⟨_, _, _, ⟨_, _, _, _⟩, rfl⟩

/-- Marks and schedule of a commit touch no entry. -/
theorem State.markCommit_beside (s : State) (p x y : Nat) (pol coal : Bool) (p0 p1 : Pixel) (raised : Bool) :
    Beside [] s (s.markCommit p x y pol coal p0 p1 raised) := by
  unfold State.markCommit
  extract_lets n e e1 fresh s1 pre moved s2
  have h1 : Beside [] s s1 := by
    unfold s1
    split
    · exact (Beside.refl [] s).setCv rfl rfl
    · split
      · exact (Beside.refl [] s).markDirty ..
      · exact Beside.refl [] s
  have h2 : Beside [] s s2 := h1.when _ ((h1.markDirty ..).markDirty ..)
  split
  · exact h2.schedule ..
  · exact h2

/-- The counters of an applied event of engine `e`. -/
def updateKeys (e : Nat) : List Nat := [(R.srfCntUpdate e).key, (R.srfCntRaise e).key, (R.srfCntCorner e).key, (R.srfCntHotmask e).key]

theorem updateKeys_nodup (e : Nat) : (updateKeys e).Nodup := by
  simp only [updateKeys, Fld.key, R.srfCntUpdate, R.srfCntRaise, R.srfCntCorner, R.srfCntHotmask, List.nodup_cons, List.mem_cons, List.not_mem_nil,
    or_false, not_or, not_false_eq_true, List.nodup_nil, and_true]
  omega

theorem State.countUpdate_spec (s : State) (e : Nat) (raised corner hot : Bool) :
    Beside (updateKeys e) s (s.countUpdate e raised corner hot)
      ∧ (s.countUpdate e raised corner hot).get (R.srfCntUpdate e) = (s.get (R.srfCntUpdate e) + 1) % 2 ^ 32
      ∧ (s.countUpdate e raised corner hot).get (R.srfCntRaise e) =
          (if raised then (s.get (R.srfCntRaise e) + 1) % 2 ^ 32 else s.get (R.srfCntRaise e)) := by
  have hn := updateKeys_nodup e
  simp only [updateKeys, List.nodup_cons, List.mem_cons, List.not_mem_nil, or_false, not_or] at hn
  obtain ⟨⟨hur, huc, huh⟩, ⟨hrc, hrh⟩, -⟩ := hn
  have h1 : Beside (updateKeys e) s (s.inc (R.srfCntUpdate e)) := (Beside.refl _ s).inc (by simp [updateKeys])
  have h2 := h1.when raised (f := fun s => s.inc (R.srfCntRaise e)) (h1.inc (by simp [updateKeys]))
  have h3 := h2.when corner (f := fun s => (s.inc (R.srfCntCorner e)).count (dieOfEngine e) 17 1) ((h2.inc (by simp [updateKeys])).count _ _ _)
  have h4 := h3.when hot (f := fun s => s.inc (R.srfCntHotmask e)) (h3.inc (by simp [updateKeys]))
  have hlater (x : Fld) (hc : x.key ≠ (R.srfCntCorner e).key) (hh : x.key ≠ (R.srfCntHotmask e).key) :
      (s.countUpdate e raised corner hot).get x = ((s.inc (R.srfCntUpdate e)).when raised fun s => s.inc (R.srfCntRaise e)).get x :=
    (State.when_same (f := fun s => s.inc (R.srfCntHotmask e)) (·.get x) (State.get_inc_other _ hh) hot).trans
      (State.when_same (f := fun s => (s.inc (R.srfCntCorner e)).count (dieOfEngine e) 17 1) (·.get x) (State.get_inc_other _ hc) corner)
  obtain ⟨hraise, -, hkeep⟩ := (s.inc (R.srfCntUpdate e)).incWhen_spec (R.srfCntRaise e) raised
  refine ⟨h4.count _ _ _, ?_, ?_⟩
  · exact (hlater _ huc huh).trans ((hkeep _ (by simpa using hur)).trans (State.get_inc_same _ _))
  · rw [hlater _ hrc hrh, hraise, State.get_inc_other _ (Ne.symm hur)]
    rfl

theorem State.traceEvent_beside (s : State) (e w : Nat) : Beside faultKeys s (s.traceEvent e w) :=
  Beside.of_quiet (quiet_when (quiet_when (Quiet.refl s) _ fun _ hu => quiet_trace hu _ _ _ _ _) _ fun _ hu => quiet_setTrace hu _) (List.Subset.refl _)

theorem State.handOn_beside (s : State) (e p w : Nat) (v : EngineEvent) (fit inject : Bool) :
    ∃ f r, Beside (faultKeys ++ tapKeys e f r) s (s.handOn e p w v fit inject) := by
  refine ⟨s.get R.srfTapFunc, s.get R.srfTapRing, ?_⟩
  have htap : Tapped e s (s.tapEvent e p w v.poison) := s.tapEvent_tapped e p w v.poison
  have hgo : Beside (tapKeys e (s.get R.srfTapFunc) (s.get R.srfTapRing)) s
      (if fit then (s.tapEvent e p w v.poison).setCv { (s.tapEvent e p w v.poison).cv with fits := pushEvent (s.tapEvent e p w v.poison).cv.fits e v }
        else (s.tapEvent e p w v.poison).tapCorner e w v.corner none v.poison) := by
    split
    · exact htap.beside.setCv rfl rfl
    · exact (htap.trans (State.tapCorner_tapped _ e w _ _ _)).beside
  have hspike := hgo.when inject (f := fun s => s.setCv { s.cv with spikes := pushEvent s.cv.spikes e v }) (hgo.setCv rfl rfl)
  exact (hspike.mono (List.subset_append_right _ _)).trans
    ((State.traceEvent_beside _ e w).mono (List.subset_append_left _ _))

theorem State.circlesRead_good {e w : Nat} {hits : List MemHit} (h : ∀ q ∈ s.wordCircles w,
    s.entryBad (s.pixelKey (wordPort w) q.1 q.2) (hitOn hits (.canvas (s.pixelKey (wordPort w) q.1 q.2))) = false) :
    Aside eccKeys s (s.circlesRead e w hits) ∧ (s.circlesRead e w hits).cv = s.cv := by
  obtain ⟨haside, hcv⟩ := State.readPixels_good (Nat.mod_lt _ (by decide)) e h
  exact ⟨(Aside.refl _ s).when _ haside, State.when_same (f := fun s => s.readPixels e (wordPort w) hits (s.wordCircles w)) (·.cv) hcv _⟩

/-- The commit writes the one entry. -/
theorem State.committed_spec (s : State) {t : State} (ht : t.cv = s.cv) (e w : Nat) (corner : Bool) :
    Aside [] t (s.committed t e w corner) ∧ (s.committed t e w corner).entryAt (s.wordKey w) = (s.wordAfter w corner).entry
      ∧ (∀ k, k ≠ s.wordKey w → (s.committed t e w corner).entryAt k = s.entryAt k) ∧ (s.committed t e w corner).cv.bad = s.cv.bad := by
  have h := ((t.took 36).writeEntry e (s.wordKey w) (s.wordAfter w corner).entry).markCommit_beside (wordPort w) (wordX w) (wordY w) (wordPol w) (bit w 50)
    (s.wordPixel w) (s.wordAfter w corner) ((s.wordPixel w).raisedBy (wordPol w) (wordStamp w))
  have hentries := h.entries.trans (congrArg (fun c : Canvas => SMap.set c.entries entryInit (s.wordKey w) (s.wordAfter w corner).entry) ht)
  refine ⟨((⟨fun _ _ => rfl, rfl, rfl, rfl, rfl, rfl⟩ : Aside [] t (t.took 36)).setCv _).trans h.toAside, ?_, fun k hk => ?_,
    h.bad.trans (congrArg (·.bad) ht)⟩
  · exact (congrArg (SMap.get · entryInit (s.wordKey w)) hentries).trans (SMap.get_set_same _ _ _ _)
  · exact (congrArg (SMap.get · entryInit k) hentries).trans (SMap.get_set_ne hk _ _ _ _)

/-- The register fields that an event's application by engine `e` may change, where taps go to ring `r` of function `f` and no circle needs rewriting. -/
def applyKeys (e f r : Nat) : List Nat := (eccKeys ++ updateKeys e) ++ tapKeys e f r

theorem notMem_applyKeys {x : Fld} {e : Nat} (h : x.key ∉ eccKeys ++ updateKeys e ++ [(R.srfCntTapDrop e).key]) (hlow : x.key < 0x1000000 * 64)
    (f r : Nat) : x.key ∉ applyKeys e f r := by
  rw [List.mem_append, List.mem_singleton, not_or] at h
  rw [applyKeys, List.mem_append, not_or]
  exact ⟨h.1, low_notMem_tapKeys hlow h.2 f r⟩

/-- The counters of applied and of raising events are none that checks, faults or taps write. -/
theorem updateCounters_apart (e : Fin 8) : ∀ x ∈ [R.srfCntUpdate e, R.srfCntRaise e],
    x.key ∉ eccKeys ∧ x.key ∉ faultKeys ∧ x.key ≠ (R.srfCntTapDrop e).key ∧ x.key < 0x1000000 * 64 := by
  decide +revert

/-- What applying an event does, where no entry of its circles is bad. -/
theorem State.apply_spec {e : Fin 8} {w : Nat} {hits : List MemHit} (h : ∀ q ∈ s.wordCircles w,
    s.entryBad (s.pixelKey (wordPort w) q.1 q.2) (hitOn hits (.canvas (s.pixelKey (wordPort w) q.1 q.2))) = false) :
    ∃ corner f r, Aside (applyKeys e f r) s (s.apply e w hits)
      ∧ (s.apply e w hits).entryAt (s.wordKey w) = (s.wordAfter w corner).entry
      ∧ (∀ k, k ≠ s.wordKey w → (s.apply e w hits).entryAt k = s.entryAt k) ∧ (s.apply e w hits).cv.bad = s.cv.bad
      ∧ (s.apply e w hits).get (R.srfCntUpdate e) = (s.get (R.srfCntUpdate e) + 1) % 2 ^ 32
      ∧ (s.apply e w hits).get (R.srfCntRaise e) =
          (if (s.wordPixel w).raisedBy (wordPol w) (wordStamp w) then (s.get (R.srfCntRaise e) + 1) % 2 ^ 32 else s.get (R.srfCntRaise e)) := by
  obtain ⟨corner, fit, inject, v, happly⟩ := s.apply_parts e w hits
  rw [happly]
  obtain ⟨hread, hcv⟩ := State.circlesRead_good (e := e) h
  obtain ⟨hcommit, hown, hother, hbad⟩ := s.committed_spec hcv e w corner
  obtain ⟨hcount, hupdate, hraise⟩ := (s.committed (s.circlesRead e w hits) e w corner).countUpdate_spec e
    ((s.wordPixel w).raisedBy (wordPol w) (wordStamp w)) corner (s.hotAfter (s.wordPixel w) (wordStamp w))
  obtain ⟨f, r, hgo⟩ := ((s.committed (s.circlesRead e w hits) e w corner).countUpdate e
    ((s.wordPixel w).raisedBy (wordPol w) (wordStamp w)) corner (s.hotAfter (s.wordPixel w) (wordStamp w))).handOn_beside e (wordPort w) w v fit inject
  have hback (x : Fld) (hx : x ∈ [R.srfCntUpdate e, R.srfCntRaise e]) :
      x.key ∉ faultKeys ++ tapKeys e f r ∧ (s.committed (s.circlesRead e w hits) e w corner).get x = s.get x := by
    obtain ⟨hecc, hfault, hdrop, hlow⟩ := updateCounters_apart e x hx
    exact ⟨fun hm => (List.mem_append.1 hm).elim hfault (low_notMem_tapKeys hlow hdrop f r),
      (hcommit.get (List.not_mem_nil)).trans (hread.get hecc)⟩
  obtain ⟨hu, hu'⟩ := hback (R.srfCntUpdate e) (by simp)
  obtain ⟨hr, hr'⟩ := hback (R.srfCntRaise e) (by simp)
  have hsame := hcount.toAside
  refine ⟨corner, f, r, ?_, ?_, fun k hk => ?_, ?_, ?_, ?_⟩
  · refine ((hread.mono ?_).trans (hcommit.mono (List.nil_subset _))).trans ((hsame.mono ?_).trans (hgo.toAside.mono ?_))
    · exact fun x hx => by simp [applyKeys, hx]
    · exact fun x hx => by simp [applyKeys, hx]
    · intro x hx
      rw [List.mem_append] at hx
      rcases hx with hx | hx <;> simp [applyKeys, eccKeys, hx]
  · exact (State.entryAt_congr hgo.entries _).trans ((State.entryAt_congr hcount.entries _).trans hown)
  · exact (State.entryAt_congr hgo.entries k).trans ((State.entryAt_congr hcount.entries k).trans (hother k hk))
  · exact hgo.bad.trans (hcount.bad.trans hbad)
  · rw [hgo.get hu, hupdate, hu']
  · rw [hgo.get hr, hraise, hr']

/-! ### An event's word taken and its own entry read -/

/-- The input queue of engine `e` without its oldest word. -/
def State.wordTaken (s : State) (e : Nat) : State := { s with ing := { s.ing with words := SMap.set s.ing.words [] e (s.words e).tail } }

theorem State.words_wordTaken {e w : Nat} {ws : List Nat} (h : s.words e = w :: ws) : (s.wordTaken e).words e = ws :=
  (SMap.get_set_same _ _ _ _).trans (by rw [h]; rfl)

/-- A word that failed its parity check carries a poison tag (R436). -/
def taggedWord (parity : Bool) (w : Nat) : Nat := if parity then w % 2 ^ 64 + 2 ^ 64 else w

theorem taggedWord_fields (parity : Bool) (w : Nat) : wordStamp (taggedWord parity w) = wordStamp w ∧ wordX (taggedWord parity w) = wordX w
    ∧ wordY (taggedWord parity w) = wordY w ∧ wordPol (taggedWord parity w) = wordPol w ∧ wordPort (taggedWord parity w) = wordPort w := by
  cases parity
  case false => exact ⟨rfl, rfl, rfl, rfl, rfl⟩
  case true =>
    have hpol : (bit (w % 2 ^ 64 + 2 ^ 64) 46) = bit w 46 := congrArg (· == 1) (bits_tagged (lo := 46) (n := 1) (by decide) w)
    exact ⟨bits_tagged (by decide) w, bits_tagged (by decide) w, bits_tagged (by decide) w, hpol, bits_tagged (by decide) w⟩

/-- The state in which an event is applied: its word taken and checked, its own entry read. -/
def State.wordRead (s : State) (e w : Nat) (hits : List MemHit) (parity : Bool) : State :=
  ((s.wordTaken e).parityCheck parity (dieOfEngine e) e).readPixel e (wordPort w) hits (wordX w, wordY w)

theorem State.surfaceUpdate_eq {e w : Nat} {ws : List Nat} (h : s.words e = w :: ws) (hr : s.routeOpen (dieOfEngine e) = true) (hits : List MemHit)
    (parity : Bool) : s.surfaceUpdate e hits parity = (s.wordRead e w hits parity).apply e (taggedWord parity w) hits := by
  obtain ⟨-, hx, hy, -, hp⟩ := taggedWord_fields parity w
  unfold State.surfaceUpdate State.pollWord
  rw [h]
  simp only [hr, Bool.not_true, Bool.or_self, Bool.false_eq_true, ↓reduceIte]
  change State.apply (State.readPixel _ e (wordPort (taggedWord parity w)) hits (wordX (taggedWord parity w), wordY (taggedWord parity w))) e _ hits = _
  rw [hx, hy, hp, State.wordRead, State.wordTaken, h]
  rfl

theorem State.surfaceUpdate_held {e : Nat} (hr : s.routeOpen (dieOfEngine e) = false) (hits : List MemHit) (parity : Bool) :
    s.surfaceUpdate e hits parity = s := by
  unfold State.surfaceUpdate
  simp [hr]

theorem State.parityCheck_quiet (s : State) (b : Bool) (die unit : Nat) :
    Aside (R.cntParity.key :: faultKeys) s (s.parityCheck b die unit) ∧ (s.parityCheck b die unit).cv = s.cv := by
  cases b
  case false => exact ⟨Aside.refl _ s, rfl⟩
  case true =>
    have hq := quiet_fault (Quiet.refl (s.inc R.cntParity)) .contained 0x04 die unit 0
    exact ⟨((Aside.refl _ s).inc List.mem_cons_self).trans (Aside.of_quiet hq (List.subset_cons_self _ _)), hq.cv⟩

/-- The fields that place and judge an event's pixel: no reading and no parity check writes them. -/
theorem placeFields_parity {p : Nat} (hp : p < 8) : ∀ x ∈ placeFields p, x.key ∉ R.cntParity.key :: faultKeys := by
  have h : ∀ p : Fin 8, ∀ x ∈ placeFields p, x.key ∉ R.cntParity.key :: faultKeys := by decide
  exact h ⟨p, hp⟩

theorem wordPort_lt (w : Nat) : wordPort w < 8 := Nat.mod_lt _ (by decide)

/-- The own entry read: initialised where its read fails, and nothing else of the Canvas's entries. -/
theorem State.wordRead_spec (s : State) (e w : Nat) (hits : List MemHit) (parity : Bool) :
    Aside (R.cntParity.key :: readKeys) (s.wordTaken e) (s.wordRead e w hits parity)
      ∧ (∀ k, (s.wordRead e w hits parity).entryAt k =
          if k = s.wordKey w ∧ s.entryBad k (hitOn hits (.canvas k)) = true then entryInit else s.entryAt k)
      ∧ (∀ k, SMap.get (s.wordRead e w hits parity).cv.bad false k = (!decide (k = s.wordKey w) && SMap.get s.cv.bad false k))
      ∧ (parity = true → (s.wordRead e w hits parity).get R.cntParity = (s.get R.cntParity + 1) % 2 ^ 32)
      ∧ (s.entryBad (s.wordKey w) (hitOn hits (.canvas (s.wordKey w))) = true →
          (s.wordRead e w hits parity).get R.cntCanvasReinit = (s.get R.cntCanvasReinit + 1) % 2 ^ 32) := by
  obtain ⟨hcheck, hcv⟩ := (s.wordTaken e).parityCheck_quiet parity (dieOfEngine e) e
  obtain ⟨hparity, -⟩ := (s.wordTaken e).parityCheck_spec parity (dieOfEngine e) e
  set t := (s.wordTaken e).parityCheck parity (dieOfEngine e) e with ht
  have hkey : t.pixelKey (wordPort w) (wordX w) (wordY w) = s.wordKey w :=
    State.pixelKey_congr (s := s) (fun x hx => hcheck.get (placeFields_parity (wordPort_lt w) x hx)) _ _
  have hread := t.readPixel_reread e (wordPort w) hits (wordX w, wordY w)
  obtain ⟨haside, hentry, hbad, -⟩ := hread
  rw [show t.pixelKey (wordPort w) (wordX w, wordY w).1 (wordX w, wordY w).2 = s.wordKey w from hkey] at hentry hbad
  have hbad' (k : Nat) (ecc : Ecc) : t.entryBad k ecc = s.entryBad k ecc := State.entryBad_congr (congrArg (·.bad) hcv) k ecc
  refine ⟨(hcheck.mono ?_).trans (haside.mono (List.subset_cons_self _ _)), fun k => ?_, fun k => ?_, fun hp => ?_, fun hb => ?_⟩
  · exact List.cons_subset_cons _ fun x hx => by simp [readKeys, eccKeys, hx]
  · refine (hentry k).trans ?_
    have hold : t.entryAt k = s.entryAt k := State.entryAt_congr (congrArg (·.entries) hcv) k
    simp only [List.mem_singleton, hbad', hold]
  · refine (hbad k).trans ?_
    rw [hcv]
    simp only [List.mem_singleton]
    rfl
  · exact (haside.get (by decide)).trans (hparity hp)
  · refine (State.readPixel_bad (q := (wordX w, wordY w)) ?_).2.trans ?_
    · rw [show t.pixelKey (wordPort w) (wordX w, wordY w).1 (wordX w, wordY w).2 = s.wordKey w from hkey, hbad']
      exact hb
    · rw [hcheck.get (by decide)]
      rfl

/-! ### The pixel after an event (R80, R85, R89, R90) -/

section
variable {p : Pixel} {pol : Bool} {ts : Nat} (c : Bool)

theorem Pixel.raisedBy_iff : p.raisedBy pol ts = true ↔ p.stale pol = true ∨ 0 < wrapDiff 24 ts (p.stamp pol) := by
  simp [Pixel.raisedBy]

theorem State.pixelAfter_raised (h : p.raisedBy pol ts = true) :
    (s.pixelAfter p pol ts c).stamp pol = ts ∧ (s.pixelAfter p pol ts c).stale pol = false := by
  cases pol <;> simp [State.pixelAfter, h, Pixel.raise, Pixel.stamp, Pixel.stale]

theorem State.pixelAfter_unraised (h : p.raisedBy pol ts = false) :
    (s.pixelAfter p pol ts c).stamp pol = p.stamp pol ∧ (s.pixelAfter p pol ts c).stale pol = false := by
  have hfresh : p.stale pol = false := by
    rw [Pixel.raisedBy, Bool.or_eq_false_iff] at h
    exact h.1
  cases pol <;> simpa [State.pixelAfter, h, Pixel.stamp, Pixel.stale] using hfresh

theorem State.pixelAfter_other :
    (s.pixelAfter p pol ts c).stamp (!pol) = p.stamp (!pol) ∧ (s.pixelAfter p pol ts c).stale (!pol) = p.stale (!pol) := by
  unfold State.pixelAfter
  cases p.raisedBy pol ts <;> cases pol <;> exact ⟨rfl, rfl⟩

theorem State.pixelAfter_untested (h : p.raisedBy pol ts = false ∨ (s.pixelAfter p pol ts c).hot = true) :
    (s.pixelAfter p pol ts c).corner = p.corner := by
  have ht : s.testsEvent p pol ts = false := by
    rcases h with h | h
    · simp [State.testsEvent, h]
    · simp [State.testsEvent, show s.hotAfter p ts = true from h]
  simp [State.pixelAfter, ht]

theorem State.pixelAfter_fits (hpos : p.pos < 2 ^ 24) (hneg : p.neg < 2 ^ 24) (hts : ts < 2 ^ 24) :
    pixelOf (s.pixelAfter p pol ts c).entry = s.pixelAfter p pol ts c := by
  have hact : (s.pixelAfter p pol ts c).act < 2 ^ 8 := Nat.lt_of_le_of_lt (Nat.min_le_left 255 _) (by decide)
  unfold State.pixelAfter at hact ⊢
  cases p.raisedBy pol ts
  case false => exact pixelOf_entry hpos hneg hact
  case true =>
    cases pol
    case false => exact pixelOf_entry hpos hts hact
    case true => exact pixelOf_entry hts hneg hact

end

/-- The fields that place and judge an event's pixel. -/
def judgeFields (p : Nat) : List Fld := placeFields p ++ [R.srfHotHalfUs, R.srfHotHotOn, R.srfHotHotOff]

theorem judgeFields_apart {p : Nat} (hp : p < 8) (e : Fin 8) : ∀ x ∈ judgeFields p, x.key ∉ R.cntParity.key :: readKeys
    ∧ x.key ∉ eccKeys ++ updateKeys e ++ [(R.srfCntTapDrop e).key] ∧ x.key < 0x1000000 * 64 := by
  have h : ∀ p e : Fin 8, ∀ x ∈ judgeFields p, x.key ∉ R.cntParity.key :: readKeys
    ∧ x.key ∉ eccKeys ++ updateKeys e ++ [(R.srfCntTapDrop e).key] ∧ x.key < 0x1000000 * 64 := by decide
  exact h ⟨p, hp⟩ e

/-- HOT after an event follows from ACT by the thresholds of R90. -/
theorem State.pixelAfter_hot {p : Pixel} {pol c : Bool} {ts : Nat} : (s.pixelAfter p pol ts c).hot =
    if s.hotOn ≤ (s.pixelAfter p pol ts c).act then true else if (s.pixelAfter p pol ts c).act ≤ s.hotOff then false else p.hot := rfl

theorem State.pixelAfter_congr (h : ∀ x ∈ [R.srfHotHalfUs, R.srfHotHotOn, R.srfHotHotOff], t.get x = s.get x) (p : Pixel) (pol : Bool) (ts : Nat)
    (c : Bool) : t.pixelAfter p pol ts c = s.pixelAfter p pol ts c := by
  have hact : t.actAfter p ts = s.actAfter p ts := by
    unfold State.actAfter State.getIn
    rw [h R.srfHotHalfUs (by simp)]
  have hon : t.hotOn = s.hotOn := by
    unfold State.hotOn State.getIn
    rw [h R.srfHotHotOn (by simp)]
  have hhot : t.hotAfter p ts = s.hotAfter p ts := by
    unfold State.hotAfter State.nextHot State.hotOff
    rw [hact, hon, h R.srfHotHotOff (by simp)]
  unfold State.pixelAfter State.testsEvent
  rw [hact, hhot]

theorem exec_surfaceUpdate_of (ha : s.awake = true) (e : Fin 8) (hits : List MemHit) (parity : Bool) :
    exec (.surfaceUpdate e hits parity) s = .next (s.surfaceUpdate e hits parity) := by
  change Host.Outcome.next (s.clocked _) = _
  rw [State.clocked_awake ha]

theorem errCounters_apart (e : Fin 8) : ∀ x ∈ [R.cntParity, R.cntCanvasReinit], x.key ∉ eccKeys ++ updateKeys e ++ [(R.srfCntTapDrop e).key] := by
  decide +revert

theorem updateCounters_read (e : Fin 8) : ∀ x ∈ [R.srfCntUpdate e, R.srfCntRaise e], x.key ∉ R.cntParity.key :: readKeys := by
  decide +revert

/-- Everything an applied event does to pixel, Canvas, counters and the rest. -/
theorem State.surfaceUpdate_spec {e : Fin 8} {w : Nat} {ws : List Nat} {hits : List MemHit} (parity : Bool) (hw : s.words e = w :: ws)
    (hr : s.routeOpen (dieOfEngine e) = true) (hgood : ∀ q ∈ s.wordCircles w,
      s.entryBad (s.pixelKey (wordPort w) q.1 q.2) (hitOn hits (.canvas (s.pixelKey (wordPort w) q.1 q.2))) = false) :
    ∃ (was : Pixel) (corner : Bool), was = (if s.entryBad (s.wordKey w) (hitOn hits (.canvas (s.wordKey w))) then pixelOf entryInit else s.wordPixel w)
      ∧ (s.surfaceUpdate e hits parity).pixel (wordPort w) (wordX w) (wordY w) = s.pixelAfter was (wordPol w) (wordStamp w) corner
      ∧ (∀ k, k ≠ s.wordKey w → (s.surfaceUpdate e hits parity).entryAt k = s.entryAt k)
      ∧ (∀ k, SMap.get (s.surfaceUpdate e hits parity).cv.bad false k = (!decide (k = s.wordKey w) && SMap.get s.cv.bad false k))
      ∧ (parity = true → (s.surfaceUpdate e hits parity).get R.cntParity = (s.get R.cntParity + 1) % 2 ^ 32)
      ∧ (s.entryBad (s.wordKey w) (hitOn hits (.canvas (s.wordKey w))) = true →
          (s.surfaceUpdate e hits parity).get R.cntCanvasReinit = (s.get R.cntCanvasReinit + 1) % 2 ^ 32)
      ∧ (s.surfaceUpdate e hits parity).get (R.srfCntUpdate e) = (s.get (R.srfCntUpdate e) + 1) % 2 ^ 32
      ∧ (s.surfaceUpdate e hits parity).get (R.srfCntRaise e) =
          (if was.raisedBy (wordPol w) (wordStamp w) then (s.get (R.srfCntRaise e) + 1) % 2 ^ 32 else s.get (R.srfCntRaise e))
      ∧ ∃ ks, Aside ks (s.wordTaken e) (s.surfaceUpdate e hits parity) := by
  obtain ⟨haside, hentry, hbad, hparity, hreinit⟩ := s.wordRead_spec e w hits parity
  rw [State.surfaceUpdate_eq hw hr]
  set v := s.wordRead e w hits parity with hv
  obtain ⟨hts, hx, hy, hpol, hp⟩ := taggedWord_fields parity w
  have hplace (x : Fld) (hx : x ∈ judgeFields (wordPort w)) : v.get x = s.get x :=
    (haside.get (judgeFields_apart (wordPort_lt w) e x hx).1).trans rfl
  have hplace' (x : Fld) (hx : x ∈ placeFields (wordPort w)) : v.get x = s.get x := hplace x (List.mem_append_left _ hx)
  have hkey : v.wordKey (taggedWord parity w) = s.wordKey w := by
    unfold State.wordKey
    rw [hp, hx, hy]
    exact State.pixelKey_congr hplace' _ _
  have hcircles : v.wordCircles (taggedWord parity w) = s.wordCircles w := by
    unfold State.wordCircles
    rw [hp, hx, hy]
    exact State.near_congr hplace' _ _ _
  obtain ⟨corner, f, r, hafter, hown, hother, hbads, hupdate, hraise⟩ := State.apply_spec (s := v) (e := e) (w := taggedWord parity w) (hits := hits)
    fun q hq => by
      rw [hcircles] at hq
      have hg := hgood q hq
      rw [hp, State.pixelKey_congr hplace']
      simp only [State.entryBad, Bool.or_eq_false_iff] at hg ⊢
      exact ⟨by rw [hbad, hg.1, Bool.and_false], hg.2⟩
  have hpixel : v.wordPixel (taggedWord parity w) =
      if s.entryBad (s.wordKey w) (hitOn hits (.canvas (s.wordKey w))) then pixelOf entryInit else s.wordPixel w := by
    rw [State.wordPixel, hkey, hentry]
    simp only [true_and]
    exact apply_ite pixelOf _ _ _
  have hwas : (v.wordPixel (taggedWord parity w)).pos < 2 ^ 24 ∧ (v.wordPixel (taggedWord parity w)).neg < 2 ^ 24 :=
    ⟨(pixelOf_lt _).1, (pixelOf_lt _).2.1⟩
  have hsame : v.wordAfter (taggedWord parity w) corner = s.pixelAfter (v.wordPixel (taggedWord parity w)) (wordPol w) (wordStamp w) corner := by
    rw [State.wordAfter, hpol, hts]
    exact State.pixelAfter_congr (fun x hx => hplace x (List.mem_append_right _ hx)) _ _ _ _
  have happly (x : Fld) (hx : x ∈ judgeFields (wordPort w)) : (v.apply e (taggedWord parity w) hits).get x = s.get x := by
    obtain ⟨-, hk, hlow⟩ := judgeFields_apart (wordPort_lt w) e x hx
    exact (hafter.get (notMem_applyKeys hk hlow f r)).trans (hplace x hx)
  rw [hkey] at hown hother
  rw [hpol, hts] at hraise
  have hcounters : R.cntParity.key ∉ applyKeys e f r ∧ R.cntCanvasReinit.key ∉ applyKeys e f r :=
    ⟨notMem_applyKeys (errCounters_apart e _ (by simp)) (by decide) f r, notMem_applyKeys (errCounters_apart e _ (by simp)) (by decide) f r⟩
  have hold (x : Fld) (hx : x ∈ [R.srfCntUpdate e, R.srfCntRaise e]) : v.get x = s.get x :=
    (haside.get (updateCounters_read e x hx)).trans rfl
  refine ⟨v.wordPixel (taggedWord parity w), corner, hpixel, ?_, fun k hk => ?_, fun k => ?_, fun hp => ?_, fun hb => ?_, ?_, ?_, ?_⟩
  · unfold State.pixel
    rw [State.pixelKey_congr (s := s) fun x hx => happly x (List.mem_append_left _ hx)]
    refine (congrArg pixelOf hown).trans ?_
    rw [hsame]
    exact State.pixelAfter_fits corner hwas.1 hwas.2 (Nat.mod_lt _ (by decide))
  · rw [hother k hk, hentry, if_neg fun h => hk h.1]
  · rw [hbads, hbad]
  · rw [hafter.get hcounters.1, hparity hp]
  · rw [hafter.get hcounters.2, hreinit hb]
  · rw [hupdate, hold _ (by simp)]
  · rw [hraise, hold _ (by simp)]
  · exact ⟨R.cntParity.key :: readKeys ++ applyKeys e f r, (haside.mono (List.subset_append_left _ _)).trans (hafter.mono (List.subset_append_right _ _))⟩


/-! ### A flow fit (R92, R93) -/

theorem flowOf_some {n : Nat} {pts : List (Int × Int × Int)} {v : Nat × Nat} (h : flowOf n pts = some v) : n ≤ pts.length := by
  unfold flowOf at h
  split at h
  · exact absurd h (by simp)
  · omega

/-- The state of a fit's engine before its outcome: entries read, the fit taken off, the corner tap served. -/
def State.fitTaken (s : State) (e : Nat) (hits : List MemHit) (v : EngineEvent) (l : List EngineEvent) (flow : Option (Nat × Nat)) : State :=
  let t := s.readPixels e (wordPort v.word) hits (s.near (wordPort v.word) (wordX v.word) (wordY v.word) flowOffsets)
  ((t.took 25).setCv { t.cv with fits := SMap.set t.cv.fits [] e l }).tapCorner e v.word v.corner flow v.poison

/-- The flow value of a fit. -/
def State.flowValue (s : State) (e : Nat) (hits : List MemHit) (v : EngineEvent) : Option (Nat × Nat) :=
  flowOf (s.getIn R.srfFlowMinPts 4 25) ((s.readPixels e (wordPort v.word) hits (s.near (wordPort v.word) (wordX v.word) (wordY v.word)
    flowOffsets)).flowPoints e (wordPort v.word) (wordPol v.word) (wordStamp v.word) (wordX v.word) (wordY v.word))

/-- A flow value noted for the FTU and counted. -/
def State.flowNoted (s : State) (e : Nat) (v : EngineEvent) (f : Nat × Nat) : State :=
  (s.inc (R.srfCntFlow e)).setCv { s.cv with flows := s.cv.flows ++ [⟨wordPort v.word, wordX v.word, wordY v.word, f.1, f.2, v.time, v.poison⟩] }

theorem State.flowNoted_keeps {e : Nat} (h : s.keepsRegs t ks) (hk : (R.srfCntFlow e).key ∈ ks) (v : EngineEvent) (f : Nat × Nat) :
    s.keepsRegs (t.flowNoted e v f) ks := fun x hx => (State.get_setCv _ _ x).trans (h.inc hk x hx)

theorem State.flowNoted_cv (s : State) (e : Nat) (v : EngineEvent) (f : Nat × Nat) : (s.flowNoted e v f).cv =
    { s.cv with flows := s.cv.flows ++ [⟨wordPort v.word, wordX v.word, wordY v.word, f.1, f.2, v.time, v.poison⟩] } := rfl

theorem State.flowNoted_counts (s : State) (e : Nat) (v : EngineEvent) (f : Nat × Nat) :
    (s.flowNoted e v f).get (R.srfCntFlow e) = (s.get (R.srfCntFlow e) + 1) % 2 ^ 32 := (State.get_setCv _ _ _).trans (State.get_inc_same s _)

theorem State.flowFit_eq {e : Nat} {v : EngineEvent} {l : List EngineEvent} (h : SMap.get s.cv.fits [] e = v :: l) (hits : List MemHit) :
    s.flowFit e hits = (match s.flowValue e hits v with
      | none => s.fitTaken e hits v l none
      | some f => (s.fitTaken e hits v l (some f)).flowNoted e v f) := by
  unfold State.flowFit
  rw [h]
  change (match s.flowValue e hits v with
    | none => s.fitTaken e hits v l (s.flowValue e hits v)
    | some f => (s.fitTaken e hits v l (s.flowValue e hits v)).flowNoted e v f) = _
  cases s.flowValue e hits v <;> rfl

theorem exec_flowFit_of (ha : s.awake = true) (e : Fin 8) (hits : List MemHit) : exec (.flowFit e hits) s = .next (s.flowFit e hits) := by
  change Host.Outcome.next (s.clocked _) = _
  rw [State.clocked_awake ha]

/-- The pixels that a fit reads. -/
def State.fitReads (s : State) (w : Nat) : List (Nat × Nat) := s.near (wordPort w) (wordX w) (wordY w) flowOffsets

section
variable (e : Fin 8) (hits : List MemHit) (v : EngineEvent) (l : List EngineEvent) (flow : Option (Nat × Nat))

theorem srfCntFlow_apart (e : Fin 8) : (R.srfCntFlow e).key ∉ readKeys ∧ (R.srfCntFlow e).key ≠ (R.srfCntTapDrop e).key
    ∧ (R.srfCntFlow e).key < 0x1000000 * 64 := by
  decide +revert

/-- The state before a fit's outcome: of the entries only those that a failing read initialises have changed. -/
theorem State.fitTaken_spec (s : State) : SMap.get (s.fitTaken e hits v l flow).cv.fits [] e = l
      ∧ (∀ q ∈ s.fitReads v.word, s.entryBad (s.pixelKey (wordPort v.word) q.1 q.2) (hitOn hits (.canvas (s.pixelKey (wordPort v.word) q.1 q.2))) = true →
          (s.fitTaken e hits v l flow).entryAt (s.pixelKey (wordPort v.word) q.1 q.2) = entryInit)
      ∧ (∀ k, (∀ q ∈ s.fitReads v.word, s.pixelKey (wordPort v.word) q.1 q.2 = k → s.entryBad k (hitOn hits (.canvas k)) = false) →
          (s.fitTaken e hits v l flow).entryAt k = s.entryAt k)
      ∧ (s.fitTaken e hits v l flow).cv.flows = s.cv.flows
      ∧ (s.fitTaken e hits v l flow).get (R.srfCntFlow e) = s.get (R.srfCntFlow e) := by
  have hread := s.readPixels_reread (wordPort_lt v.word) e hits (s.fitReads v.word)
  set t := s.readPixels e (wordPort v.word) hits (s.fitReads v.word) with ht
  have htap := ((t.took 25).setCv { t.cv with fits := SMap.set t.cv.fits [] e l }).tapCorner_tapped e v.word v.corner flow v.poison
  obtain ⟨haside, m, d, hcv⟩ := htap
  obtain ⟨m', l', d', b', hrest⟩ := hread.rest
  obtain ⟨hkr, hkd, hlow⟩ := srfCntFlow_apart e
  have hentry (k : Nat) := (State.entryAt_congr (s := t) (congrArg (·.entries) hcv) k).trans (hread.entry k)
  refine ⟨?_, fun q hq hb => ?_, fun k hk => ?_, ?_, ?_⟩
  · exact (congrArg (fun c : Canvas => SMap.get c.fits [] e) hcv).trans (SMap.get_set_same _ _ _ _)
  · exact (hentry _).trans (if_pos ⟨List.mem_map.2 ⟨q, hq, rfl⟩, hb⟩)
  · refine (hentry k).trans (if_neg fun ⟨hm, hb⟩ => ?_)
    obtain ⟨q, hq, he⟩ := List.mem_map.1 hm
    rw [hk q hq he] at hb
    exact absurd hb (by decide)
  · exact (congrArg (·.flows) hcv).trans (congrArg (·.flows) hrest)
  · exact (haside.get (low_notMem_tapKeys hlow hkd _ _)).trans (hread.aside.get hkr)

/-- Where every check of a fit's reads finds nothing, entries and dirty marks stay, and no register changes but the tap's. -/
theorem State.fitTaken_clean (h : ∀ q ∈ s.fitReads v.word, SMap.get s.cv.bad false (s.pixelKey (wordPort v.word) q.1 q.2) = false
      ∧ hitOn hits (.canvas (s.pixelKey (wordPort v.word) q.1 q.2)) = .ok) :
    (s.fitTaken e hits v l flow).cv.entries = s.cv.entries ∧ (s.fitTaken e hits v l flow).cv.dirty = s.cv.dirty
      ∧ s.keepsRegs (s.fitTaken e hits v l flow) (tapKeys e (s.get R.srfTapFunc) (s.get R.srfTapRing)) := by
  have hs : s.readPixels e (wordPort v.word) hits (s.fitReads v.word) = s := State.readPixels_clean h
  obtain ⟨haside, m, d, hcv⟩ := ((s.took 25).setCv { s.cv with fits := SMap.set s.cv.fits [] e l }).tapCorner_tapped e v.word v.corner flow v.poison
  have he : s.fitTaken e hits v l flow = ((s.took 25).setCv { s.cv with fits := SMap.set s.cv.fits [] e l }).tapCorner e v.word v.corner flow v.poison := by
    unfold State.fitTaken
    rw [show s.near (wordPort v.word) (wordX v.word) (wordY v.word) flowOffsets = s.fitReads v.word from rfl, hs]
  rw [he]
  exact ⟨congrArg (·.entries) hcv, congrArg (·.dirty) hcv, haside.regs⟩

end

/-- Settles O50: an applied event by the parts of its application, a flow fit by its two outcomes. -/
theorem surfaceEnginesApplyEvents : Obligations.SurfaceEnginesApplyEvents := by
  refine ⟨fun e s w ws hits parity ha hw => ?update, fun e s v l hits ha hfit => ?fit⟩
  case update =>
    extract_lets ts x y pol p key bad was raised age k
    refine ⟨fun hr hgood => ?applied, fun hr => ?held⟩
    case held => rw [exec_surfaceUpdate_of ha, State.surfaceUpdate_held hr]
    case applied =>
      obtain ⟨was', corner, hwas, hpixel, hother, hbad, hparity, hreinit, hupdate, hraise, ks, haside⟩ :=
        State.surfaceUpdate_spec parity hw hr (hits := hits) fun q hq => by simpa [bad] using hgood q hq
      replace hwas : was' = was := hwas
      subst hwas
      replace hpixel : (s.surfaceUpdate e hits parity).pixel p x y = s.pixelAfter was pol ts corner := hpixel
      have hraised : raised ↔ was.raisedBy pol ts = true := Pixel.raisedBy_iff.symm
      have hunraised (h : ¬ raised) : was.raisedBy pol ts = false := Bool.eq_false_iff.2 fun hb => h (hraised.2 hb)
      refine ⟨_, exec_surfaceUpdate_of ha e hits parity, ?words, fun h => ?raise, fun h => ?keep, ?stamp, ?stale, ?act, ?hot, fun h => ?corner,
        hother, hparity, fun h => ⟨hreinit h, ?bad⟩, hupdate, fun h => ?counted, fun h => ?uncounted, haside.time, haside.lpddr, haside.active, haside.tns⟩
      case words => exact (congrArg (fun i : Ingest => SMap.get i.words [] e) haside.ing).trans (s.words_wordTaken hw)
      case raise => exact hpixel ▸ State.pixelAfter_raised corner (hraised.1 h)
      case keep => exact hpixel ▸ State.pixelAfter_unraised corner (hunraised h)
      case stamp => exact hpixel ▸ (State.pixelAfter_other corner).1
      case stale => exact hpixel ▸ (State.pixelAfter_other corner).2
      case act => exact (congrArg Pixel.act hpixel).trans (nextAct_eq was ts _)
      case hot => exact hpixel ▸ State.pixelAfter_hot
      case corner => exact hpixel ▸ State.pixelAfter_untested corner (h.imp hunraised fun h => hpixel ▸ h)
      case bad => exact (hbad key).trans (by rw [show s.wordKey w = key from rfl, decide_eq_true rfl]; rfl)
      case counted => rw [hraise, if_pos (hraised.1 h)]
      case uncounted => rw [hraise, if_neg fun hb => h (hraised.2 hb)]
  case fit =>
    extract_lets p x y read s0 f r
    rw [exec_flowFit_of ha, State.flowFit_eq hfit]
    have hkeys : tapKeys e (s.get R.srfTapFunc) (s.get R.srfTapRing) ⊆ [(R.srfCntFlow e).key, (R.srfCntTapDrop e).key, (R.fnRingOffCntOff f).key,
      (R.fnStrStageOcc f r).key, (R.fnStrGapCntGap f r).key] := List.subset_cons_self _ _
    cases hflow : s.flowValue e hits v with
    | none =>
      obtain ⟨hfits, hinit, hkept, hflows, hcnt⟩ := s.fitTaken_spec e hits v l none
      refine ⟨_, rfl, hfits, hinit, hkept, fun hclean => ?_, .inl ⟨hflows, hcnt⟩⟩
      obtain ⟨hentries, hdirty, hregs⟩ := State.fitTaken_clean e hits v l none hclean
      exact ⟨hentries, hdirty, hregs.mono hkeys⟩
    | some z =>
      obtain ⟨hfits, hinit, hkept, hflows, hcnt⟩ := s.fitTaken_spec e hits v l (some z)
      have hcv := (s.fitTaken e hits v l (some z)).flowNoted_cv e v z
      have hentry := State.entryAt_congr (congrArg (·.entries) hcv)
      refine ⟨_, rfl, (congrArg (fun c : Canvas => SMap.get c.fits [] e) hcv).trans hfits, fun q hq hb => (hentry _).trans (hinit q hq hb),
        fun k hk => (hentry k).trans (hkept k hk), fun hclean => ?_, .inr ⟨flowOf_some hflow, ⟨z.1, z.2, ?_⟩, ?_⟩⟩
      · obtain ⟨hentries, hdirty, hregs⟩ := State.fitTaken_clean e hits v l (some z) hclean
        exact ⟨(congrArg (·.entries) hcv).trans hentries, (congrArg (·.dirty) hcv).trans hdirty,
          State.flowNoted_keeps (hregs.mono hkeys) List.mem_cons_self v z⟩
      · exact (congrArg (·.flows) hcv).trans (congrArg (· ++ _) hflows)
      · exact (State.flowNoted_counts _ e v z).trans (by rw [hcnt])

end Sys2Proof.Machine
end

section
/-! SUPPORT and OBLIGATION. Sweep, scan, taps, initialisation and STALE marking of the Canvas (R81, R98, R99, R101, R103, R104, R430, R522). -/

namespace Sys2Proof.Machine

variable {s t u : State} {ks : List Nat}

/-! ### The sweep (R81) -/

/-- Whether a sweep at microsecond `u` finds a polarity older than 4 s. -/
def Pixel.outlived (p : Pixel) (u : Nat) (pol : Bool) : Bool := !p.stale pol && decide (4000000 ≤ ofInt 24 ((u : Int) - p.stamp pol))

theorem sweepPixel_stale (p : Pixel) (u : Nat) (pol : Bool) : (sweepPixel p u).1.stamp pol = p.stamp pol
    ∧ (sweepPixel p u).1.stale pol = (p.stale pol || p.outlived u pol) := by
  unfold sweepPixel
  dsimp only
  constructor
  · split <;> rfl
  · split <;> cases pol <;> rfl

theorem sweepPixel_cleared {p : Pixel} {u : Nat} (h : (sweepPixel p u).1.stalePos = true ∧ (sweepPixel p u).1.staleNeg = true) :
    (sweepPixel p u).1.act = 0 ∧ (sweepPixel p u).1.hot = false ∧ (sweepPixel p u).1.corner = false := by
  unfold sweepPixel at h ⊢
  dsimp only at h ⊢
  split
  next => exact ⟨rfl, rfl, rfl⟩
  next hc =>
    rw [if_neg hc] at h
    exact absurd (Bool.and_eq_true_iff.2 h) hc

theorem sweepPixel_kept {p : Pixel} {u : Nat} (h : ¬((sweepPixel p u).1.stalePos = true ∧ (sweepPixel p u).1.staleNeg = true)) :
    (sweepPixel p u).1.act = p.act ∧ (sweepPixel p u).1.hot = p.hot ∧ (sweepPixel p u).1.corner = p.corner := by
  unfold sweepPixel at h ⊢
  dsimp only at h ⊢
  split
  next hc =>
    rw [if_pos hc] at h
    exact absurd (Bool.and_eq_true_iff.1 hc) h
  next => exact ⟨rfl, rfl, rfl⟩

theorem sweepPixel_fits (p : Pixel) (u : Nat) (hpos : p.pos < 2 ^ 24) (hneg : p.neg < 2 ^ 24) (hact : p.act < 2 ^ 8) :
    pixelOf (sweepPixel p u).1.entry = (sweepPixel p u).1 := by
  unfold sweepPixel
  dsimp only
  split
  · exact pixelOf_entry hpos hneg (show 0 < 2 ^ 8 by decide)
  · exact pixelOf_entry hpos hneg hact

/-- A sweep's visit to a pixel of an enabled region: its entry read, then written with what is too old marked. -/
def State.swept (s : State) (p x y : Nat) (hits : List MemHit) : State :=
  let t := s.readPixel (engineOf x y) p hits (x, y)
  (t.writeEntry (engineOf x y) (t.pixelKey p x y) (sweepPixel (t.pixel p x y) t.nowUs).1.entry).add (R.srfCntStaleMark (engineOf x y))
    (sweepPixel (t.pixel p x y) t.nowUs).2

theorem Pixel.outlived_iff (p : Pixel) (u : Nat) (pol : Bool) :
    p.outlived u pol = true ↔ p.stale pol = false ∧ 4000000 ≤ ofInt 24 ((u : Int) - p.stamp pol) := by
  simp [Pixel.outlived]

theorem exec_staleSweepVisit_of (ha : s.awake = true) (p : Fin 8) (x y : Nat) (hits : List MemHit) : exec (.staleSweepVisit p x y hits) s =
    .next (if s.regionOn p && decide (x < s.width p) && decide (y < s.height p) then s.swept p x y hits else s) := by
  change Host.Outcome.next (s.clocked _) = _
  rw [State.clocked_awake ha]
  rfl

theorem engineOf_lt (x y : Nat) : engineOf x y < 8 := by unfold engineOf; omega

theorem staleMark_apart {e : Nat} (he : e < 8) : R.cntCanvasReinit.key ≠ (R.srfCntStaleMark e).key := by
  simp only [Fld.key, R.cntCanvasReinit, R.srfCntStaleMark]; omega

theorem placeFields_stale {p : Nat} (hp : p < 8) {e : Nat} (he : e < 8) : ∀ x ∈ placeFields p, x.key ≠ (R.srfCntStaleMark e).key := by
  simp only [placeFields, List.forall_mem_cons]
  simp only [Fld.key, R.ingPortGeomWidthM1, R.ingPortGeomHeightM1, R.srfRegionB0Base, R.srfRegionB1Base, R.srfRegionB0En, R.srfCntStaleMark]
  refine ⟨?_, ?_, ?_, ?_, ?_, fun _ h => nomatch h⟩ <;> omega

/-- What a sweep's visit leaves: the pixel as the sweep makes it of what was read, and every other entry. -/
theorem State.swept_spec (s : State) {p : Nat} (hp : p < 8) (x y : Nat) (hits : List MemHit) : ∃ was : Pixel,
    was = (if s.entryBad (s.pixelKey p x y) (hitOn hits (.canvas (s.pixelKey p x y))) then pixelOf entryInit else s.pixel p x y)
      ∧ (s.swept p x y hits).pixel p x y = (sweepPixel was s.nowUs).1
      ∧ (∀ k, k ≠ s.pixelKey p x y → (s.swept p x y hits).entryAt k = s.entryAt k)
      ∧ (s.entryBad (s.pixelKey p x y) (hitOn hits (.canvas (s.pixelKey p x y))) = false → (s.swept p x y hits).cv.dirty = s.cv.dirty)
      ∧ (s.entryBad (s.pixelKey p x y) (hitOn hits (.canvas (s.pixelKey p x y))) = true →
          (s.swept p x y hits).get R.cntCanvasReinit = (s.get R.cntCanvasReinit + 1) % 2 ^ 32)
      ∧ (SMap.get s.cv.bad false (s.pixelKey p x y) = false → hitOn hits (.canvas (s.pixelKey p x y)) = .ok →
          s.keepsRegs (s.swept p x y hits) [(R.srfCntStaleMark (engineOf x y)).key]) := by
  have hread := s.readPixel_reread (engineOf x y) p hits (x, y)
  set t := s.readPixel (engineOf x y) p hits (x, y) with ht
  have hplace (f : Fld) (hf : f ∈ placeFields p) : t.get f = s.get f := hread.aside.get (placeFields_read hp f hf)
  have hkey : t.pixelKey p x y = s.pixelKey p x y := State.pixelKey_congr hplace x y
  have hnow : t.nowUs = s.nowUs := congrArg (· / 1000) hread.aside.now
  have hmark : t.keepsRegs (s.swept p x y hits) [(R.srfCntStaleMark (engineOf x y)).key] :=
    (show t.keepsRegs (t.writeEntry _ _ _) _ from fun _ _ => rfl).set List.mem_cons_self _
  have hkey' : (s.swept p x y hits).pixelKey p x y = s.pixelKey p x y := State.pixelKey_congr (fun f hf => (hmark f fun hm =>
    placeFields_stale hp (engineOf_lt x y) f hf (List.mem_singleton.1 hm)).trans (hplace f hf)) x y
  have hentry (k : Nat) : (s.swept p x y hits).entryAt k =
      SMap.get (SMap.set t.cv.entries entryInit (t.pixelKey p x y) (sweepPixel (t.pixel p x y) t.nowUs).1.entry) entryInit k := rfl
  have hreinit : (s.swept p x y hits).get R.cntCanvasReinit = t.get R.cntCanvasReinit :=
    hmark _ fun hm => staleMark_apart (engineOf_lt x y) (List.mem_singleton.1 hm)
  have hdirty : (s.swept p x y hits).cv.dirty = t.cv.dirty := rfl
  refine ⟨t.pixel p x y, ?_, ?_, fun k hk => ?_, fun hf => hdirty.trans (congrArg Canvas.dirty (State.readPixel_good (q := (x, y)) hf).2),
    fun hf => hreinit.trans (State.readPixel_bad (q := (x, y)) hf).2, fun hb hok => ?_⟩
  · rw [State.pixel, hkey, hread.entry]
    simp only [List.mem_singleton, true_and]
    exact apply_ite pixelOf _ _ _
  · obtain ⟨hpos, hneg, hact⟩ := pixelOf_lt (t.entryAt (t.pixelKey p x y))
    rw [State.pixel, hkey', ← hkey, hentry, SMap.get_set_same, hnow]
    exact sweepPixel_fits _ _ hpos hneg hact
  · rw [hentry, SMap.get_set_ne (by rw [hkey]; exact hk)]
    refine (hread.entry k).trans (if_neg fun h => hk (List.mem_singleton.1 h.1))
  · rwa [ht, State.readPixel_clean (q := (x, y)) hb hok] at hmark

/-! ### Bits set and cleared, and maps filtered by key -/

theorem bit_setBit_true (v i : Nat) : bit (setBit v i true) i = true := by
  unfold setBit
  by_cases h : bit v i = true
  · simp [h]
  · have hpos : 0 < 2 ^ i := by positivity
    simp only [h, Bool.false_eq_true, ↓reduceIte]
    simp only [bit, beq_iff_eq] at h ⊢
    rw [Nat.add_div_right _ hpos]
    omega

theorem bit_setBit_false (v i : Nat) : bit (setBit v i false) i = false := by
  unfold setBit
  by_cases h : bit v i = true
  · simp only [h, Bool.false_eq_true, ↓reduceIte]
    simp only [bit, beq_iff_eq, beq_eq_false_iff_ne] at h ⊢
    have hsub : (v - 2 ^ i) / 2 ^ i = v / 2 ^ i - 1 := by simpa using Nat.sub_mul_div v (2 ^ i) 1
    rw [hsub]
    omega
  · simp [h]

theorem SMap.find?_filter_key {α : Type} (f : Nat → Bool) (m : SMap α) (k : Nat) :
    SMap.find? k (m.filter fun c => f c.1) = if f k then SMap.find? k m else none := by
  induction m with
  | nil => simp [SMap.find?]
  | cons c m ih =>
    obtain ⟨j, v⟩ := c
    by_cases hj : f j = true <;> by_cases hk : k = j
    · subst hk; simp [hj, SMap.find?]
    · simp [hj, hk, SMap.find?, ih]
    · subst hk; simpa [hj, SMap.find?] using ih
    · simp [hj, hk, SMap.find?, ih]

theorem SMap.get_filter_key {α : Type} (f : Nat → Bool) (m : SMap α) (d : α) (k : Nat) :
    SMap.get (m.filter fun c => f c.1) d k = if f k then SMap.get m d k else d := by
  unfold SMap.get
  rw [SMap.find?_filter_key]
  split <;> rfl

/-- What holds of the default and of every listed value holds of every value read. -/
theorem SMap.get_all {α : Type} {P : α → Prop} {m : SMap α} {d : α} (hd : P d) (h : ∀ c ∈ m, P c.2) (k : Nat) : P (SMap.get m d k) := by
  unfold SMap.get
  induction m with
  | nil => exact hd
  | cons c m ih =>
    rw [SMap.find?]
    split
    · exact h c List.mem_cons_self
    · exact ih fun x hx => h x (List.mem_cons_of_mem _ hx)

/-! ### A region initialised, the whole Canvas marked STALE (R430, R522) -/

/-- The state with the region of port `p` initialised. -/
def State.regionReset (s : State) (p : Nat) : State :=
  s.setCv { s.cv with
    entries := s.cv.entries.filter (fun c => !s.inRegion p c.1)
    bad := s.cv.bad.filter (fun c => !s.inRegion p c.1)
    inits := setBit s.cv.inits p false
    recent := s.cv.recent.filter (fun w => !s.inRegion p w.key) }

theorem exec_regionInit_of (ha : s.awake = true) (p : Fin 8) :
    exec (.regionInit p) s = .next (if bit s.cv.inits p then s.regionReset p else s) := by
  change Host.Outcome.next (s.clocked _) = _
  rw [State.clocked_awake ha]
  rfl

theorem State.regionReset_entryAt (s : State) (p k : Nat) : (s.regionReset p).entryAt k = if s.inRegion p k then entryInit else s.entryAt k := by
  refine (SMap.get_filter_key (fun k => !s.inRegion p k) s.cv.entries entryInit k).trans ?_
  cases s.inRegion p k <;> rfl

theorem staleEntry_stale (v : Nat) : (pixelOf (staleEntry v)).stalePos = true ∧ (pixelOf (staleEntry v)).staleNeg = true := by
  refine ⟨?_, bit_setBit_true _ 57⟩
  have h := bit_setBit_true v 56
  change bit (setBit (setBit v 56 true) 57 true) 56 = true
  generalize setBit v 56 true = w at h ⊢
  unfold setBit
  simp only [bit, beq_iff_eq, ↓reduceIte] at h ⊢
  split <;> omega

/-- The state with every entry marked STALE. -/
def State.allStale (s : State) : State :=
  { s.setCv { s.cv with entries := (s.cv.entries.map fun c => (c.1, staleEntry c.2)).filter (fun c => c.2 != entryInit), recent := [] } with
    ctl := { s.ctl with staleMark := false } }

theorem exec_canvasStaleMark_of (ha : s.awake = true) : exec .canvasStaleMark s = .next (if s.ctl.staleMark then s.allStale else s) := by
  change Host.Outcome.next (s.clocked _) = _
  rw [State.clocked_awake ha]
  rfl

theorem State.allStale_stale (s : State) (k : Nat) :
    (pixelOf (s.allStale.entryAt k)).stalePos = true ∧ (pixelOf (s.allStale.entryAt k)).staleNeg = true := by
  refine SMap.get_all (P := fun v => (pixelOf v).stalePos = true ∧ (pixelOf v).staleNeg = true) ⟨by decide, by decide⟩ (fun c hc => ?_) k
  obtain ⟨b, -, rfl⟩ := List.mem_map.1 (List.mem_of_mem_filter hc)
  exact staleEntry_stale b.2

/-! ### A tap record closes (R103, R104) -/

/-- Whether the record that a tap fills closes: at 64 entries, or 10 µs after the first. -/
def State.tapDue (s : State) (e : Nat) (c : Bool) : Bool :=
  (s.tap e c).filling.entries.length == 64 || (!(s.tap e c).filling.entries.isEmpty && s.reached ((s.tap e c).filling.first + 10000))

theorem State.tapDue_iff (s : State) (e : Nat) (c : Bool) : s.tapDue e c = true ↔ (s.tap e c).filling.entries.length = 64
    ∨ ((s.tap e c).filling.entries ≠ [] ∧ (s.tap e c).filling.first + 10000 ≤ s.now) := by
  simp [State.tapDue, State.reached]

section
variable {e : Nat} {c : Bool}

/-- The tap with its record closed. -/
def State.tapClosed (s : State) (e : Nat) (c : Bool) : State :=
  s.setTap e c { s.tap e c with closed := some (s.tap e c).filling, filling := {} }

@[simp] theorem State.tap_setTap (s : State) (e : Nat) (c : Bool) (v : Tap) : (s.setTap e c v).tap e c = v := SMap.get_set_same _ _ _ _

theorem State.passTap_none (h : (s.tap e c).closed = none) : s.passTap e c = s := by
  unfold State.passTap
  dsimp only
  rw [h]

/-- A closed record that its ring takes, or discards while it is off, leaves the tap. -/
theorem State.passTap_passes {x : TapRecord} (h : (s.tap e c).closed = some x)
    (hr : s.flag (R.fnStrCfgEn (s.get R.srfTapFunc) (s.get R.srfTapRing)) = false ∨
      (s.str (s.get R.srfTapFunc) (s.get R.srfTapRing)).admits (s.get R.srfTapFunc) (x.rcd e c).padded = true) :
    s.passTap e c = (s.setTap e c { s.tap e c with closed := none }).stage (s.get R.srfTapFunc) (s.get R.srfTapRing) (x.rcd e c) := by
  unfold State.passTap
  dsimp only
  rw [h]
  exact if_pos (by rcases hr with hr | hr <;> simp [hr])

theorem State.passTap_waits {x : TapRecord} (h : (s.tap e c).closed = some x)
    (hon : s.flag (R.fnStrCfgEn (s.get R.srfTapFunc) (s.get R.srfTapRing)) = true)
    (hr : (s.str (s.get R.srfTapFunc) (s.get R.srfTapRing)).admits (s.get R.srfTapFunc) (x.rcd e c).padded = false) : s.passTap e c = s := by
  unfold State.passTap
  dsimp only
  rw [h]
  exact if_neg (by simp [hon, hr])

theorem State.closeTap_due (h : (s.tap e c).closed = none) (hd : s.tapDue e c = true) : s.closeTap e c = (s.tapClosed e c).passTap e c := by
  unfold State.closeTap
  dsimp only
  rw [State.passTap_none h]
  exact if_pos (Bool.and_eq_true_iff.2 ⟨hd, by rw [h]; rfl⟩)

theorem State.closeTap_early (h : (s.tap e c).closed = none) (hd : s.tapDue e c = false) : s.closeTap e c = s := by
  unfold State.closeTap
  dsimp only
  rw [State.passTap_none h]
  exact if_neg fun hc => absurd (Bool.and_eq_true_iff.1 hc).1 (Bool.eq_false_iff.1 hd)

/-- A tap whose closed record still waits closes no other. -/
theorem State.closeTap_waits {x : TapRecord} (h : (s.tap e c).closed = some x) (hp : s.passTap e c = s) : s.closeTap e c = s := by
  unfold State.closeTap
  dsimp only
  rw [hp, h]
  exact if_neg (by simp)

/-- The tap with its record handed on. -/
def State.tapHanded (s : State) (e : Nat) (c : Bool) : State := (s.tapClosed e c).setTap e c { s.tap e c with filling := {} }

theorem State.tap_tapHanded (s : State) (e : Nat) (c : Bool) : (s.tapHanded e c).tap e c = { s.tap e c with filling := {} } := State.tap_setTap _ _ _ _

/-- A due record that its ring takes, or discards while it is off, goes there at once. -/
theorem State.closeTap_passes (h : (s.tap e c).closed = none) (hd : s.tapDue e c = true)
    (hr : s.flag (R.fnStrCfgEn (s.get R.srfTapFunc) (s.get R.srfTapRing)) = false ∨
      (s.str (s.get R.srfTapFunc) (s.get R.srfTapRing)).admits (s.get R.srfTapFunc) ((s.tap e c).filling.rcd e c).padded = true) :
    s.closeTap e c = (s.tapHanded e c).stage (s.get R.srfTapFunc) (s.get R.srfTapRing) ((s.tap e c).filling.rcd e c) := by
  have hfill : (s.tapClosed e c).tap e c = { s.tap e c with closed := some (s.tap e c).filling, filling := {} } := State.tap_setTap _ _ _ _
  rw [State.closeTap_due h hd, State.passTap_passes (s := s.tapClosed e c) (x := (s.tap e c).filling) (by rw [hfill]) hr, hfill, State.tapHanded, ← h]
  rfl

theorem State.closeTap_off (h : (s.tap e c).closed = none) (hd : s.tapDue e c = true)
    (hoff : s.flag (R.fnStrCfgEn (s.get R.srfTapFunc) (s.get R.srfTapRing)) = false) :
    s.closeTap e c = (s.tapHanded e c).touch.inc (R.fnRingOffCntOff (s.get R.srfTapFunc)) := by
  rw [State.closeTap_passes h hd (.inl hoff)]
  exact State.stage_off (s := s.tapHanded e c) hoff _

theorem State.closeTap_admitted (h : (s.tap e c).closed = none) (hd : s.tapDue e c = true)
    (hon : s.flag (R.fnStrCfgEn (s.get R.srfTapFunc) (s.get R.srfTapRing)) = true)
    (had : (s.str (s.get R.srfTapFunc) (s.get R.srfTapRing)).admits (s.get R.srfTapFunc) ((s.tap e c).filling.rcd e c).padded = true) :
    (s.closeTap e c).cv = (s.tapHanded e c).cv ∧
      ∃ z ∈ ((s.closeTap e c).str (s.get R.srfTapFunc) (s.get R.srfTapRing)).staged, z.record = (s.tap e c).filling.rcd e c := by
  obtain ⟨h2, h8⟩ := (s.tap e c).filling.rcd_type e c
  rw [State.closeTap_passes h hd (.inr had)]
  refine ⟨((s.tapHanded e c).stage_aside _ _ h2 h8).2, ⟨s.host.nextId, (s.tap e c).filling.rcd e c, false⟩, ?_, rfl⟩
  rw [State.stage_admitted_str (s := s.tapHanded e c) hon had]
  exact List.mem_append_right _ (List.mem_singleton_self _)

/-- A due record whose ring has no room closes and waits. -/
theorem State.closeTap_full (h : (s.tap e c).closed = none) (hd : s.tapDue e c = true)
    (hon : s.flag (R.fnStrCfgEn (s.get R.srfTapFunc) (s.get R.srfTapRing)) = true)
    (had : (s.str (s.get R.srfTapFunc) (s.get R.srfTapRing)).admits (s.get R.srfTapFunc) ((s.tap e c).filling.rcd e c).padded = false) :
    s.closeTap e c = s.tapClosed e c := by
  have hfill : (s.tapClosed e c).tap e c = { s.tap e c with closed := some (s.tap e c).filling, filling := {} } := State.tap_setTap _ _ _ _
  rw [State.closeTap_due h hd]
  exact State.passTap_waits (x := (s.tap e c).filling) (by rw [hfill]) hon had

end

theorem exec_tapRecordClose_of (ha : s.awake = true) (e : Fin 8) (c : Bool) : exec (.tapRecordClose e c) s = .next (s.closeTap e c) := by
  change Host.Outcome.next (s.clocked _) = _
  rw [State.clocked_awake ha]

/-! ### The least of some ticks -/

/-- The least number so far and one more. -/
def leastOf (o : Option Nat) (m : Nat) : Option Nat := match o with | none => some m | some k => some (min k m)

/-- A running minimum stays below where it starts and below every number it takes, and is one of them. -/
theorem foldl_leastOf (l : List Nat) (o : Option Nat) :
    (∀ m, o = some m ∨ m ∈ l → ∃ r, l.foldl leastOf o = some r ∧ r ≤ m)
      ∧ (∀ r, l.foldl leastOf o = some r → o = some r ∨ r ∈ l) := by
  induction l generalizing o with
  | nil => exact ⟨fun m hm => ⟨m, by simpa using hm, le_rfl⟩, fun r hr => .inl hr⟩
  | cons a l ih =>
    obtain ⟨hle, hmem⟩ := ih (leastOf o a)
    obtain ⟨b, hb, hba, hbo⟩ : ∃ b, leastOf o a = some b ∧ b ≤ a ∧ (∀ k, o = some k → b ≤ k) := by
      cases o with
      | none => exact ⟨a, rfl, le_rfl, by simp⟩
      | some k => exact ⟨min k a, rfl, Nat.min_le_right _ _, by simp⟩
    refine ⟨fun m hm => ?_, fun r hr => ?_⟩
    · rw [List.foldl_cons]
      rcases hm with hm | hm
      · obtain ⟨r, hr, hrb⟩ := hle b (.inl hb)
        exact ⟨r, hr, hrb.trans (hbo m hm)⟩
      · rcases List.mem_cons.1 hm with rfl | hm
        · obtain ⟨r, hr, hrb⟩ := hle b (.inl hb)
          exact ⟨r, hr, hrb.trans hba⟩
        · exact hle m (.inr hm)
    · rw [List.foldl_cons] at hr
      rcases hmem r hr with h | h
      · cases o with
        | none => exact .inr (List.mem_cons.2 (.inl (Option.some.inj h).symm))
        | some k =>
          have hk : min k a = r := Option.some.inj h
          rcases min_choice k a with hm | hm
          · exact .inl (by rw [← hk, hm])
          · exact .inr (List.mem_cons.2 (.inl (by rw [← hk, hm])))
      · exact .inr (List.mem_cons_of_mem _ h)

theorem firstCrossing_eq (edges : List Nat) (a : Int) (n : Nat) : firstCrossing edges a n =
    (((edges.map (crossingTick a)).filter fun m => decide ((n : Int) ≤ m)).map Int.toNat).foldl leastOf none := by
  rw [List.foldl_map]
  rfl

/-- A stamp's first crossing from tick `n` on comes no earlier. -/
theorem le_of_firstCrossing {edges : List Nat} {a : Int} {n m : Nat} (h : firstCrossing edges a n = some m) : n ≤ m := by
  rw [firstCrossing_eq] at h
  rcases (foldl_leastOf _ _).2 m h with h | h
  · exact absurd h (by simp)
  · obtain ⟨c, hc, rfl⟩ := List.mem_map.1 h
    have := of_decide_eq_true (List.mem_filter.1 hc).2
    omega

/-! ### One tile scanned (R99) -/

/-- The elements of a tile that are not STALE, with their absolute stamps. -/
def State.liveElements (s : State) (p tx ty : Nat) : List (((Nat × Nat) × Bool) × Int) :=
  ((s.tilePixels p tx ty).flatMap fun q => [(q, true), (q, false)]).filterMap fun a =>
    if (s.pixel p a.1.1 a.1.2).stale a.2 then none else some (a, absoluteUs s.nowUs ((s.pixel p a.1.1 a.1.2).stamp a.2))

/-- The tick of a tile's earliest crossing after tick `n`. -/
def State.nextScan (s : State) (n p tx ty : Nat) : Option Nat :=
  ((s.liveElements p tx ty).filterMap fun a => firstCrossing s.edges a.2 (n + 1)).foldl leastOf none

/-- A tile booked for a tick, where there is one. -/
def State.book (s : State) (e p tx ty : Nat) (m : Option Nat) : State := match m with | some m => s.schedule e p tx ty m | none => s

/-- The elements of a tile whose crossing falls in tick `n` marked and counted. -/
def State.markCrossed (s : State) (e n p tx ty : Nat) : State :=
  let cross := (s.liveElements p tx ty).filter fun a => s.edges.any fun ed => crossingTick a.2 ed == (n : Int)
  (s.each cross fun s a => s.markDirty n p a.1.1.1 a.1.1.2 a.1.2).add (R.srfCntAgeMark e) cross.length

/-- A tile of the scanned slot once its entries are read. -/
def State.tileScanned (s : State) (e n p tx ty : Nat) : State := (s.markCrossed e n p tx ty).book e p tx ty (s.nextScan n p tx ty)

theorem State.scanTile_eq (s : State) (e n p tx ty : Nat) (hits : List MemHit) :
    s.scanTile e n p tx ty hits = (s.readPixels e p hits (s.tilePixels p tx ty)).tileScanned e n p tx ty := by
  unfold State.scanTile
  dsimp only
  generalize s.readPixels e p hits (s.tilePixels p tx ty) = t
  rfl

/-- The register fields that place, date and bin a tile's elements. -/
def scanFields (p : Nat) : List Fld := placeFields p ++
  [R.srfBinEdge1Edge, R.srfBinEdge2Edge, R.srfBinEdge3Edge, R.srfBinEdge4Edge, R.srfBinEdge5Edge, R.srfBinEdge6Edge, R.srfBinEdge7Edge]

theorem scanFields_apart {p : Nat} (hp : p < 8) (e : Fin 8) : ∀ x ∈ scanFields p, x.key ∉ readKeys ++ [(R.srfCntAgeMark e).key] := by
  have h : ∀ p e : Fin 8, ∀ x ∈ scanFields p, x.key ∉ readKeys ++ [(R.srfCntAgeMark e).key] := by decide
  exact h ⟨p, hp⟩ e

theorem State.tileScanned_beside (s : State) (e n p tx ty : Nat) : Beside [(R.srfCntAgeMark e).key] s (s.tileScanned e n p tx ty) := by
  have hmark : Beside [(R.srfCntAgeMark e).key] s (s.markCrossed e n p tx ty) := by
    have hm : Beside [(R.srfCntAgeMark e).key] s (s.each ((s.liveElements p tx ty).filter fun a => s.edges.any fun ed => crossingTick a.2 ed == (n : Int))
        fun s a => s.markDirty n p a.1.1.1 a.1.1.2 a.1.2) :=
      State.each_keeps (Beside [(R.srfCntAgeMark e).key] s) (fun t a h => h.markDirty ..) (Beside.refl _ s)
    exact ⟨hm.toAside.set List.mem_cons_self _, hm.entries, hm.bad⟩
  unfold State.tileScanned State.book
  split
  · exact hmark.schedule ..
  · exact hmark

/-- A wheel bit that stands. -/
def State.booked (s : State) (k : Nat) : Prop := SMap.get s.cv.wheel false k = true

theorem State.schedule_wheel (s : State) (e p tx ty m : Nat) :
    (s.schedule e p tx ty m).cv.wheel = SMap.set s.cv.wheel false (wheelKey e (m % 512) p tx ty) true := rfl

theorem State.booked_schedule (h : ∀ k, s.booked k → t.booked k) (e p tx ty m k : Nat) (hk : s.booked k) : (t.schedule e p tx ty m).booked k := by
  unfold State.booked
  rw [State.schedule_wheel]
  by_cases he : k = wheelKey e (m % 512) p tx ty
  · rw [he, SMap.get_set_same]
  · rw [SMap.get_set_ne he]
    exact h k hk

theorem State.markCrossed_wheel (s : State) (e n p tx ty : Nat) : (s.markCrossed e n p tx ty).cv.wheel = s.cv.wheel ∧
    (s.markCrossed e n p tx ty).cv.scan = s.cv.scan := by
  have hm := State.each_keeps (fun t => t.cv.wheel = s.cv.wheel ∧ t.cv.scan = s.cv.scan) (s := s)
    (l := (s.liveElements p tx ty).filter fun a => s.edges.any fun ed => crossingTick a.2 ed == (n : Int))
    (f := fun s a => s.markDirty n p a.1.1.1 a.1.1.2 a.1.2) (fun t a h => h) ⟨rfl, rfl⟩
  exact hm

theorem State.tileScanned_booked (s : State) (e n p tx ty : Nat) (k : Nat) (hk : s.booked k) : (s.tileScanned e n p tx ty).booked k := by
  have hmark (k : Nat) (hk : s.booked k) : (s.markCrossed e n p tx ty).booked k := by
    unfold State.booked
    rw [(s.markCrossed_wheel e n p tx ty).1]
    exact hk
  unfold State.tileScanned State.book
  split
  · exact State.booked_schedule hmark _ _ _ _ _ k hk
  · exact hmark k hk

theorem State.tileScanned_scan (s : State) (e n p tx ty : Nat) : (s.tileScanned e n p tx ty).cv.scan = s.cv.scan := by
  unfold State.tileScanned State.book
  split <;> exact (s.markCrossed_wheel e n p tx ty).2

/-- A tile's element that is not STALE and crosses an edge after tick `n` has its tile booked no later. -/
def State.books (s t : State) (e n : Nat) (q : Nat × Nat × Nat) : Prop :=
  ∀ a ∈ s.tilePixels q.1 q.2.1 q.2.2, ∀ (pol : Bool) (m : Nat), (s.pixel q.1 a.1 a.2).stale pol = false →
    firstCrossing s.edges (absoluteUs s.nowUs ((s.pixel q.1 a.1 a.2).stamp pol)) (n + 1) = some m →
    ∃ m' : Nat, n < m' ∧ m' ≤ m ∧ SMap.get t.cv.wheel false (wheelKey e (m' % 512) q.1 q.2.1 q.2.2) = true

theorem State.mem_liveElements {p tx ty : Nat} {a : Nat × Nat} (ha : a ∈ s.tilePixels p tx ty) {pol : Bool} (h : (s.pixel p a.1 a.2).stale pol = false) :
    ((a, pol), absoluteUs s.nowUs ((s.pixel p a.1 a.2).stamp pol)) ∈ s.liveElements p tx ty := by
  refine List.mem_filterMap.2 ⟨(a, pol), List.mem_flatMap.2 ⟨a, ha, by cases pol <;> simp⟩, ?_⟩
  simp [h]

theorem State.tileScanned_books (s : State) (e n : Nat) (q : Nat × Nat × Nat) : s.books (s.tileScanned e n q.1 q.2.1 q.2.2) e n q := by
  intro a ha pol m hs hm
  have hmem : m ∈ (s.liveElements q.1 q.2.1 q.2.2).filterMap fun a => firstCrossing s.edges a.2 (n + 1) :=
    List.mem_filterMap.2 ⟨_, State.mem_liveElements ha hs, hm⟩
  obtain ⟨hleast, hone⟩ := foldl_leastOf ((s.liveElements q.1 q.2.1 q.2.2).filterMap fun a => firstCrossing s.edges a.2 (n + 1)) none
  obtain ⟨r, hr, hrm⟩ := hleast m (.inr hmem)
  have hnr : n < r := by
    rcases hone r hr with h | h
    · exact absurd h (by simp)
    · obtain ⟨x, -, hx⟩ := List.mem_filterMap.1 h
      exact le_of_firstCrossing hx
  refine ⟨r, hnr, hrm, ?_⟩
  have hnext : s.nextScan n q.1 q.2.1 q.2.2 = some r := hr
  unfold State.tileScanned
  rw [hnext, State.book, State.schedule_wheel, SMap.get_set_same]

/-! ### The tiles of a slot scanned in turn (R99, R441) -/

/-- From `s` to `t` engine `e` has scanned: an entry is as before, or initialised because its read failed. -/
structure Scanned (hits : List MemHit) (e : Nat) (s t : State) : Prop where
  aside : Aside (readKeys ++ [(R.srfCntAgeMark e).key]) s t
  entry : ∀ k, t.entryAt k = s.entryAt k ∨ (s.entryBad k (hitOn hits (.canvas k)) = true ∧ t.entryAt k = entryInit)
  bad : ∀ k, SMap.get t.cv.bad false k = true → SMap.get s.cv.bad false k = true
  scan : t.cv.scan = s.cv.scan

variable {hits : List MemHit} {e : Nat}

theorem Scanned.refl (hits : List MemHit) (e : Nat) (s : State) : Scanned hits e s s := ⟨Aside.refl _ s, fun _ => .inl rfl, fun _ h => h, rfl⟩

theorem Scanned.trans (a : Scanned hits e s t) (b : Scanned hits e t u) : Scanned hits e s u := by
  refine ⟨a.aside.trans b.aside, fun k => ?_, fun k hk => a.bad k (b.bad k hk), b.scan.trans a.scan⟩
  rcases b.entry k with h | ⟨hb, h⟩
  · rw [h]
    exact a.entry k
  · refine .inr ⟨?_, h⟩
    unfold State.entryBad at hb ⊢
    rw [Bool.or_eq_true] at hb ⊢
    exact hb.imp_left (a.bad k)

theorem Reread.scanned {js : List Nat} (a : Reread hits js s t) : Scanned hits e s t := by
  obtain ⟨m, l, d, b, hrest⟩ := a.rest
  refine ⟨a.aside.mono (List.subset_append_left _ _), fun k => ?_, fun k hk => ?_, congrArg (·.scan) hrest⟩
  · rw [a.entry]
    split
    next h => exact .inr ⟨h.2, rfl⟩
    next => exact .inl rfl
  · rw [a.bad, Bool.and_eq_true] at hk
    exact hk.2

theorem State.tileScanned_scanned (s : State) (e n p tx ty : Nat) : Scanned hits e s (s.tileScanned e n p tx ty) := by
  have h := s.tileScanned_beside e n p tx ty
  exact ⟨h.toAside.mono (List.subset_append_right _ _), fun k => .inl (State.entryAt_congr h.entries k), fun k hk => by rwa [h.bad] at hk,
    s.tileScanned_scan e n p tx ty⟩

/-- Tiles scanned one after another. -/
def State.scanTiles (s : State) (e n : Nat) (hits : List MemHit) (l : List (Nat × Nat × Nat)) : State :=
  s.each l fun s q => s.scanTile e n q.1 q.2.1 q.2.2 hits

theorem State.scanTiles_scanned (e n : Nat) {l : List (Nat × Nat × Nat)} (hl : ∀ q ∈ l, q.1 < 8) : Scanned hits e s (s.scanTiles e n hits l) := by
  induction l generalizing s with
  | nil => exact Scanned.refl hits e s
  | cons q l ih =>
    have hq : Scanned hits e s (s.scanTile e n q.1 q.2.1 q.2.2 hits) := by
      rw [State.scanTile_eq]
      exact (State.readPixels_reread (hl q List.mem_cons_self) s e hits _).scanned.trans (State.tileScanned_scanned _ e n _ _ _)
    exact hq.trans (ih fun r hr => hl r (List.mem_cons_of_mem _ hr))

/-- Without errors a tile is scanned as it stands. -/
theorem State.scanTile_clean (h : s.cv.bad = []) (e n p tx ty : Nat) : s.scanTile e n p tx ty [] = s.tileScanned e n p tx ty := by
  rw [State.scanTile_eq, State.readPixels_clean fun q hq => ⟨by rw [h]; rfl, rfl⟩]

/-- The element facts that a scan uses stand where entries and registers stand. -/
theorem State.books_congr {v : State} {n : Nat} {q : Nat × Nat × Nat} (hb : Beside ks s t) (hf : ∀ x ∈ scanFields q.1, x.key ∉ ks)
    (h : t.books v e n q) : s.books v e n q := by
  have hget (x : Fld) (hx : x ∈ scanFields q.1) : t.get x = s.get x := hb.get (hf x hx)
  have hplace (x : Fld) (hx : x ∈ placeFields q.1) : t.get x = s.get x := hget x (List.mem_append_left _ hx)
  have hpixel (x y : Nat) : t.pixel q.1 x y = s.pixel q.1 x y := by
    unfold State.pixel
    rw [State.pixelKey_congr hplace, State.entryAt_congr hb.entries]
  have hedges : t.edges = s.edges := by
    unfold State.edges
    simp only [hget R.srfBinEdge1Edge (by simp [scanFields]), hget R.srfBinEdge2Edge (by simp [scanFields]), hget R.srfBinEdge3Edge (by simp [scanFields]),
      hget R.srfBinEdge4Edge (by simp [scanFields]), hget R.srfBinEdge5Edge (by simp [scanFields]), hget R.srfBinEdge6Edge (by simp [scanFields]),
      hget R.srfBinEdge7Edge (by simp [scanFields])]
  have hnow : t.nowUs = s.nowUs := congrArg (· / 1000) hb.now
  unfold State.books at h
  rw [State.tilePixels_congr hplace, hedges, hnow] at h
  simp only [hpixel] at h
  exact h

/-- Without errors the tiles of a slot are scanned in turn: no entry changes, no booking is lost, and each tile is booked. -/
theorem State.scanTiles_clean (e : Fin 8) (n : Nat) {l : List (Nat × Nat × Nat)} (hl : ∀ q ∈ l, q.1 < 8) (h : s.cv.bad = []) :
    Beside [(R.srfCntAgeMark e).key] s (s.scanTiles e n [] l) ∧ (∀ k, s.booked k → (s.scanTiles e n [] l).booked k)
      ∧ ∀ q ∈ l, s.books (s.scanTiles e n [] l) e n q := by
  induction l generalizing s with
  | nil => exact ⟨Beside.refl _ s, fun _ hk => hk, by simp⟩
  | cons q l ih =>
    have hq := s.tileScanned_beside e n q.1 q.2.1 q.2.2
    obtain ⟨hb, hkeep, hbooks⟩ := ih (s := s.tileScanned e n q.1 q.2.1 q.2.2) (fun r hr => hl r (List.mem_cons_of_mem _ hr)) (hq.bad.trans h)
    have hrun : s.scanTiles e n [] (q :: l) = (s.tileScanned e n q.1 q.2.1 q.2.2).scanTiles e n [] l := by
      rw [← State.scanTile_clean h]
      rfl
    rw [hrun]
    refine ⟨hq.trans hb, fun k hk => hkeep k (s.tileScanned_booked e n _ _ _ k hk), fun r hr => ?_⟩
    rcases List.mem_cons.1 hr with rfl | hr
    · intro a ha pol m hs hm
      obtain ⟨m', hn, hle, hw⟩ := s.tileScanned_books e n r a ha pol m hs hm
      exact ⟨m', hn, hle, hkeep _ hw⟩
    · exact State.books_congr hq (fun x hx hm => scanFields_apart (hl r (List.mem_cons_of_mem _ hr)) e x hx (List.mem_append_right _ hm)) (hbooks r hr)

/-! ### Delivery (R101, R152) -/

theorem State.abandonSlices_spec (s : State) : s.abandonSlices.cv = s.cv ∧ s.abandonSlices.tns.delivered = s.tns.delivered
    ∧ s.keepsRegs s.abandonSlices [R.cntSliceAbandon.key] :=
  ⟨rfl, rfl, fun x hx => State.get_set_other s (by simpa using hx) _⟩

/-- What delivery leaves of the Canvas. -/
def Canvas.delivered (c : Canvas) (e n : Nat) : Canvas :=
  { c with dirty := c.dirty.filter fun d => !(d.engine == e && decide (d.tick ≤ n)), scan := SMap.set c.scan 0 e (n + 1) }

theorem Canvas.delivered_scan (c : Canvas) (e n : Nat) : SMap.get (c.delivered e n).scan 0 e = n + 1 := SMap.get_set_same c.scan 0 e (n + 1)

theorem State.deliverDirty_spec (s : State) (e n : Nat) : (s.deliverDirty e n).cv = s.cv.delivered e n
    ∧ (s.inRun n = true → bit (SMap.get (s.deliverDirty e n).tns.delivered 0 n) e = true)
    ∧ (s.inRun n = false → (s.deliverDirty e n).tns = s.tns)
    ∧ s.keepsRegs (s.deliverDirty e n) [R.cntSliceAbandon.key] := by
  unfold State.deliverDirty
  extract_lets mine rest src s1 src' s2
  split
  next hin =>
    obtain ⟨hcv, hdel, hregs⟩ := s2.abandonSlices_spec
    have hbit : bit (SMap.get s2.tns.delivered 0 n) e = true := by
      refine (congrArg (bit · e) (SMap.get_upd_same s.tns.delivered 0 n fun m => setBit m e true)).trans (bit_setBit_true _ e)
    refine ⟨State.when_same (·.cv) hcv _, fun _ => ?_, fun h => absurd hin (by simp [h]), ?_⟩
    · rw [State.when_same (f := State.abandonSlices) (fun u => u.tns.delivered) hdel]
      exact hbit
    · exact (show s.keepsRegs s2 [R.cntSliceAbandon.key] from fun _ _ => rfl).when _ hregs
  next hout => exact ⟨rfl, fun h => absurd h hout, fun _ => rfl, fun _ _ => rfl⟩

theorem exec_agingWheelScan_of (ha : s.awake = true) {e : Fin 8} (ho : s.offline (dieOfEngine e) = false) (hn : (s.scanTick e + 1) * 25000 ≤ s.now)
    (hits : List MemHit) : exec (.agingWheelScan e hits) s = .next ((s.scanSlot e (s.scanTick e) hits).deliverDirty e (s.scanTick e)) := by
  change execAgingWheelScan e hits s = _
  simp [execAgingWheelScan, ha, ho, State.reached, tickNs, hn]

theorem runFields_apart (e : Fin 8) : ∀ x ∈ [R.hifRunState, R.hifStopTickTick], x.key ∉ readKeys ++ [(R.srfCntAgeMark e).key] := by
  decide +revert

theorem Scanned.inRun {e : Fin 8} (h : Scanned hits e s t) (n : Nat) : t.inRun n = s.inRun n := by
  unfold State.inRun State.run
  rw [h.aside.tns, h.aside.get (runFields_apart e R.hifRunState (by simp)), h.aside.get (runFields_apart e R.hifStopTickTick (by simp))]

theorem mem_slotTiles_lt {s : State} {e slot : Nat} : ∀ q ∈ s.slotTiles e slot, q.1 < 8 := by
  intro q hq
  obtain ⟨c, -, hc⟩ := List.mem_filterMap.1 hq
  split at hc
  · rw [← Option.some.inj hc]
    exact Nat.mod_lt _ (by decide)
  · exact absurd hc (by simp)

/-- The slot of a tick cleared and its tiles scanned. -/
theorem State.scanSlot_scanned (s : State) (e : Fin 8) (n : Nat) : Scanned hits e s (s.scanSlot e n hits) :=
  (⟨(Aside.refl _ s).setCv _, fun _ => .inl rfl, fun _ h => h, rfl⟩ : Scanned hits e s (s.clearSlot e (n % 512))).trans
    (State.scanTiles_scanned e n mem_slotTiles_lt)

theorem State.scanSlot_clean (e : Fin 8) (n : Nat) (h : s.cv.bad = []) : Beside [(R.srfCntAgeMark e).key] s (s.scanSlot e n [])
    ∧ ∀ q ∈ s.slotTiles e (n % 512), s.books (s.scanSlot e n []) e n q := by
  have hclear : Beside [] s (s.clearSlot e (n % 512)) := (Beside.refl [] s).setCv rfl rfl
  obtain ⟨hb, -, hbooks⟩ := State.scanTiles_clean (s := s.clearSlot e (n % 512)) e n (mem_slotTiles_lt (s := s) (e := e) (slot := n % 512)) h
  exact ⟨(hclear.mono (List.nil_subset _)).trans hb, fun q hq => State.books_congr hclear (fun x _ => List.not_mem_nil) (hbooks q hq)⟩

/-- Settles O51: the sweep by what it reads, the scan by its slot and its delivery, a tap record by its ring, and the two initialisations. -/
theorem canvasIsSweptAndScanned : Obligations.CanvasIsSweptAndScanned := by
  refine ⟨fun p x y hits s ha => ?sweep, fun e hits s ha ho hn => ?scan, fun e c s ha hc => ?tap, fun e c x s ha hc hon hfull => ?waits,
    fun p s ha => ⟨fun hi => ?init, fun hi => ?noInit⟩, fun s ha => ⟨fun hm => ?stale, fun hm => ?fresh⟩⟩
  case sweep =>
    extract_lets own found was old
    rw [exec_staleSweepVisit_of ha]
    refine ⟨fun ⟨hr, hx, hy⟩ => ?visited, fun h => ?skipped⟩
    case skipped => rw [if_neg (by simpa [and_assoc] using h)]
    case visited =>
      obtain ⟨was', hwas, hpixel, hentry, hdirty, hcnt, hregs⟩ := s.swept_spec p.isLt x y hits
      obtain rfl : was' = was := hwas
      rw [if_pos (by simp [hr, hx, hy])]
      refine ⟨_, rfl, fun pol => ?_, fun h => ?_, fun h => ?_, hentry, hdirty, hcnt, hregs⟩
      · rw [hpixel, (sweepPixel_stale _ _ pol).1, (sweepPixel_stale _ _ pol).2, Bool.or_eq_true, Pixel.outlived_iff]
        exact ⟨rfl, Iff.rfl⟩
      · rw [hpixel] at h ⊢
        exact sweepPixel_cleared h
      · rw [hpixel] at h ⊢
        exact sweepPixel_kept h
  case scan =>
    have hscan := s.scanSlot_scanned (hits := hits) e (s.scanTick e)
    obtain ⟨hcv, hin, hout, hregs⟩ := (s.scanSlot e (s.scanTick e) hits).deliverDirty_spec e (s.scanTick e)
    rw [hscan.inRun] at hin hout
    refine ⟨_, exec_agingWheelScan_of ha ho hn hits, ?next, fun d hd he => ?dirty, hin, fun h => (hout h).trans hscan.aside.tns, fun k => ?entry,
      fun hh hb => ?clean⟩
    case next =>
      exact (congrArg (fun c : Canvas => SMap.get c.scan 0 e) hcv).trans (Canvas.delivered_scan _ e _)
    case dirty =>
      rw [hcv] at hd
      simpa [he] using (List.mem_filter.1 hd).2
    case entry =>
      rw [State.entryAt_congr (congrArg (·.entries) hcv)]
      exact hscan.entry k
    case clean =>
      subst hh
      obtain ⟨hbeside, hbooks⟩ := State.scanSlot_clean e (s.scanTick e) hb
      refine ⟨(congrArg (·.entries) hcv).trans hbeside.entries, (hbeside.regs.mono (by simp)).trans (hregs.mono (by simp)),
        fun q hq a hq' pol m hs hm => ?_⟩
      rw [hcv]
      exact hbooks q hq a hq' pol m hs hm
  case tap =>
    extract_lets due f r x
    rw [exec_tapRecordClose_of ha]
    have hdue (hd : due) : s.tapDue e c = true := (s.tapDue_iff e c).2 hd
    refine ⟨fun hd hon had => ?admitted, fun hd hon had => ?full, fun hd hoff => ?off, fun hd => ?early⟩
    case admitted =>
      obtain ⟨hcv, hstaged⟩ := State.closeTap_admitted hc (hdue hd) hon had
      refine ⟨_, rfl, ?_, hstaged, congrArg (·.entries) hcv⟩
      exact (congrArg (fun v : Canvas => SMap.get v.taps {} (tapKey e c)) hcv).trans (s.tap_tapHanded e c)
    case full =>
      rw [State.closeTap_full hc (hdue hd) hon had]
      exact ⟨_, rfl, State.tap_setTap .., rfl, rfl⟩
    case off =>
      rw [State.closeTap_off hc (hdue hd) hoff]
      exact ⟨_, rfl, s.tap_tapHanded e c, ((Aside.refl [(R.fnRingOffCntOff f).key] s).setCv _).touch.inc (List.mem_singleton_self _) |>.regs⟩
    case early => rw [State.closeTap_early hc (Bool.eq_false_iff.2 fun h => hd ((s.tapDue_iff e c).1 h))]
  case waits => rw [exec_tapRecordClose_of ha, State.closeTap_waits hc (State.passTap_waits hc hon hfull)]
  case init =>
    rw [exec_regionInit_of ha, if_pos hi]
    exact ⟨_, rfl, bit_setBit_false _ _, s.regionReset_entryAt p, fun _ _ => rfl⟩
  case noInit => rw [exec_regionInit_of ha, if_neg (by simp [hi])]
  case stale =>
    rw [exec_canvasStaleMark_of ha, if_pos hm]
    exact ⟨_, rfl, rfl, fun _ _ => rfl, s.allStale_stale, rfl⟩
  case fresh => rw [exec_canvasStaleMark_of ha, if_neg (by simp [hm])]

end Sys2Proof.Machine
end

section
/-! SUPPORT and OBLIGATION. The detection post-processor selects one candidate twice: a set with two boxes apart, and the run that shows it (R185, R186). -/

namespace Sys2Proof.Machine

/-- An anchored descriptor that meets R187: two cells side by side of 10 × 10 with one anchor of 2 × 2, so that its two boxes lie apart; one class, up
to two survivors, IOU_THR 0, scales 0, channel 0 for scores and channels 1–4 for boxes of the layer with number 0. -/
def twinDpp : DppDesc :=
  { desc := [0, 0, 0, 1, 0, 0, 0, 0, 0, 0, 0, 0, 1, 0, 1, 0, 0, 0, 0, 0, 0, 0, 0x20, 0x41, 0, 0, 0x20, 0x41] ++ List.replicate 36 0, anchors := [(0x40000000, 0x40000000)] }

/-- The head layer: 2 × 1 elements of 5 channels, all 0. -/
def twinHead : LayerSt := { desc := List.replicate 14 0 ++ [5] ++ List.replicate 81 0, outW := 2, outH := 1, act := List.replicate 10 0 }

/-- A device in the work of tick 0 whose active set holds the descriptor and its head layer, with nothing left to do but the DPP's run. -/
def twinState : State :=
  { State.reset with phase := .sail, tns := { next := some 0, working := true }, active := some { id := 5, layers := [twinHead], dpps := [twinDpp] } }

/-- The candidates of the two boxes. -/
def twinCands : List Cand := candidates twinDpp (twinState.dppHeads twinDpp)

/-- The image check of R187 takes the descriptor with its head layer. -/
theorem twinDpp_loads : dppBad [twinHead] [] twinDpp = false := by decide

theorem State.readHeads_nil (s : State) (d : DppDesc) : s.readHeads d [] = s :=
  State.when_same (s := s) (f := fun u => u.readLayer [] (s.heads d).2) id rfl _

theorem twinState_ready : twinState.nextDpp (0 : Fin 2) = some (twinDpp, 0) := by decide

theorem exec_dppRun_of {s : State} {die : Fin 2} {d : DppDesc} {j : Nat} (ha : s.awake = true) (hw : s.tns.working = true)
    (hd : s.nextDpp die = some (d, j)) : exec (.dppRun die false []) s = .next (s.runDpp die j d false) := by
  change execDppRun die false [] s = _
  simp only [execDppRun, State.clocked_awake ha, hw, hd, State.readHeads_nil, Bool.not_true, Bool.false_eq_true, if_false]
  rfl

/-- Both survivors of the run are the box of cell 0: what the test of the second box against the selected first one passes on is the first box. -/
theorem twin_survivors : (twinState.runDpp (0 : Fin 2) 0 twinDpp false).tns.dets.map (·.cand) = [0, 0] := by decide +kernel

/-- The box of cell 0 suppresses itself. -/
theorem twin_suppressed : ∀ a ∈ twinCands, ∀ b ∈ twinCands, a.index = 0 → b.index = 0 →
    suppresses twinDpp (a.clip 1280 1024) (b.clip 1280 1024) = true := by decide +kernel

/-- Poison plays no part in suppression. -/
theorem suppresses_poison (d : DppDesc) (a b : Cand) (p q : Bool) :
    suppresses d { a with poison := p } { b with poison := q } = suppresses d a b := rfl

/-- Refutes O53: in its last part, two boxes apart. Once the first is selected, `suppress` replaces each remaining candidate `b` by `b.passed d c`, whose
first candidate is `b`: a copy of the selected `c`. So the second survivor is the first box again, and the two survivors suppress each other. -/
theorem not_denseWorkIsDone : ¬ Obligations.DenseWorkIsDone := by
  rintro ⟨-, -, -, -, hdpp⟩
  obtain ⟨hrun, -⟩ := hdpp 0 false [] twinState rfl rfl
  obtain ⟨t, cs, hexec, -, hdets, -, hpair, hcs, -⟩ := hrun twinDpp 0 twinState_ready
  obtain rfl := Host.Outcome.next.inj ((exec_dppRun_of rfl rfl twinState_ready).symm.trans hexec)
  have hindex : cs.map (·.index) = [0, 0] := by
    have h := twin_survivors
    rw [hdets, show twinState.tns.dets = [] from rfl, List.nil_append, List.map_map] at h
    exact h
  obtain ⟨a, b, rfl, ha, hb⟩ : ∃ a b, cs = [a, b] ∧ a.index = 0 ∧ b.index = 0 := by
    simpa [List.map_eq_cons_iff] using hindex
  have hab : suppresses twinDpp a b = false := List.rel_of_pairwise_cons hpair List.mem_cons_self
  obtain ⟨-, a0, ha0, -, hca⟩ := hcs a (by simp)
  obtain ⟨-, b0, hb0, -, hcb⟩ := hcs b (by simp)
  rw [State.readHeads_nil] at ha0 hb0
  have hself := twin_suppressed a0 ha0 b0 hb0 (by rw [hca] at ha; exact ha) (by rw [hcb] at hb; exact hb)
  rw [hca, hcb, suppresses_poison] at hab
  exact absurd (hself.symm.trans hab) (by decide)

end Sys2Proof.Machine
end

section
/-! SUPPORT. The dense path: the worked set and its layers under their updates, and what dense operations leave alone (R134–R156, R350, R437–R442). -/

namespace Sys2Proof.Machine

/-! ### Steps taken in turn -/

variable {s t u : State} {ks ls : List Nat} {i : Nat}

/-- What every listed element's step keeps, the whole run keeps. -/
theorem State.each_keeps_mem {α : Type} (P : State → Prop) {f : State → α → State} {l : List α} (hf : ∀ u, ∀ x ∈ l, P u → P (f u x)) (hs : P s) :
    P (s.each l f) := by
  induction l generalizing s with
  | nil => exact hs
  | cons x l ih => exact ih (fun u y hy => hf u y (List.mem_cons_of_mem x hy)) (hf s x List.mem_cons_self hs)

/-- What one element's step brings about and every step keeps holds after the whole run; `P` is what the steps may rely on. -/
theorem State.each_reaches {α : Type} (P Q : State → Prop) {f : State → α → State} {l : List α} (hP : ∀ u, ∀ x ∈ l, P u → P (f u x))
    (hQ : ∀ u, ∀ x ∈ l, P u → Q u → Q (f u x)) {x : α} (hx : x ∈ l) (hreach : ∀ u, P u → Q (f u x)) (hs : P s) : Q (s.each l f) := by
  induction l generalizing s with
  | nil => exact absurd hx List.not_mem_nil
  | cons y l ih =>
    have hPl (u : State) (z : α) (hz : z ∈ l) : P u → P (f u z) := hP u z (List.mem_cons_of_mem y hz)
    rcases List.mem_cons.1 hx with rfl | hx
    · exact (State.each_keeps_mem (fun u => P u ∧ Q u) (fun u z hz h => ⟨hPl u z hz h.1, hQ u z (List.mem_cons_of_mem _ hz) h.1 h.2⟩)
        ⟨hP s x List.mem_cons_self hs, hreach s hs⟩).2
    · exact ih hPl (fun u z hz => hQ u z (List.mem_cons_of_mem y hz)) hx (hP s y List.mem_cons_self hs)

/-! ### What lies outside the sets -/

/-- The dense path but for the layer noted for NaN in the unit of work. -/
def Dense.unnoted (d : Dense) : Dense := { d with nanUnit := none }

/-- From `s` to `t` nothing outside the sets has changed but observation, error folding, records handed over, free values, the layer noted for NaN,
and the register fields whose keys are listed. -/
structure DenseFrame (ks : List Nat) (s t : State) : Prop where
  regs : s.keepsRegs t ks
  time : t.time = s.time
  cv : t.cv = s.cv
  pwr : t.pwr = s.pwr
  parked : t.err.parked = s.err.parked
  tns : t.tns.unnoted = s.tns.unnoted

namespace DenseFrame

theorem refl (ks : List Nat) (s : State) : DenseFrame ks s s := ⟨s.keepsRegs_refl ks, rfl, rfl, rfl, rfl, rfl⟩

theorem trans (a : DenseFrame ks s t) (b : DenseFrame ks t u) : DenseFrame ks s u :=
  ⟨a.regs.trans b.regs, b.time.trans a.time, b.cv.trans a.cv, b.pwr.trans a.pwr, b.parked.trans a.parked, b.tns.trans a.tns⟩

theorem mono (a : DenseFrame ks s t) (h : ks ⊆ ls) : DenseFrame ls s t := ⟨a.regs.mono h, a.time, a.cv, a.pwr, a.parked, a.tns⟩

theorem set (a : DenseFrame ks s t) {f : Fld} (h : f.key ∈ ks) (v : Nat) : DenseFrame ks s (t.set f v) :=
  ⟨a.regs.set h v, a.time, a.cv, a.pwr, a.parked, a.tns⟩

theorem each {α : Type} (a : DenseFrame ks s t) {l : List α} {f : State → α → State} (h : ∀ u x, DenseFrame ks u (f u x)) :
    DenseFrame ks s (t.each l f) := State.each_keeps (DenseFrame ks s) (fun u x hu => hu.trans (h u x)) a

theorem get (a : DenseFrame ks s t) {x : Fld} (h : x.key ∉ ks) : t.get x = s.get x := a.regs x h

theorem next (a : DenseFrame ks s t) : t.tns.next = s.tns.next := (congrArg Dense.next a.tns :)
theorem todo (a : DenseFrame ks s t) : t.tns.todo = s.tns.todo := (congrArg Dense.todo a.tns :)

/-- Which set is worked does not depend on what the frame leaves free (R350). -/
theorem workActive (a : DenseFrame ks s t) : t.workActive = s.workActive := by
  unfold State.workActive
  rw [a.next, show t.tns.swaps = s.tns.swaps from (congrArg Dense.swaps a.tns :)]

theorem modifyWork (a : DenseFrame ks s t) (f : ConfigSet → ConfigSet) : DenseFrame ks s (t.modifyWork f) := by
  unfold State.modifyWork
  split
  · exact ⟨a.regs, a.time, a.cv, a.pwr, a.parked, a.tns⟩
  · exact ⟨a.regs, a.time, a.cv, a.pwr, a.parked, a.tns⟩

theorem setLayer (a : DenseFrame ks s t) (i : Nat) (l : LayerSt) : DenseFrame ks s (t.setLayer i l) := a.modifyWork _

end DenseFrame

/-- From `s` to `t` the sets stay as they are, and outside them what the frame says. -/
structure DenseAside (ks : List Nat) (s t : State) : Prop extends DenseFrame ks s t where
  active : t.active = s.active
  shadow : t.shadow = s.shadow

namespace DenseAside

theorem refl (ks : List Nat) (s : State) : DenseAside ks s s := ⟨DenseFrame.refl ks s, rfl, rfl⟩

theorem trans (a : DenseAside ks s t) (b : DenseAside ks t u) : DenseAside ks s u :=
  ⟨a.toDenseFrame.trans b.toDenseFrame, b.active.trans a.active, b.shadow.trans a.shadow⟩

theorem mono (a : DenseAside ks s t) (h : ks ⊆ ls) : DenseAside ls s t := ⟨a.toDenseFrame.mono h, a.active, a.shadow⟩

theorem set (a : DenseAside ks s t) {f : Fld} (h : f.key ∈ ks) (v : Nat) : DenseAside ks s (t.set f v) :=
  ⟨a.toDenseFrame.set h v, a.active, a.shadow⟩

theorem obs (a : DenseAside ks s t) (v : Observe) : DenseAside ks s { t with obs := v } :=
  ⟨⟨a.regs, a.time, a.cv, a.pwr, a.parked, a.tns⟩, a.active, a.shadow⟩

theorem took (a : DenseAside ks s t) (n : Nat) : DenseAside ks s (t.took n) := ⟨⟨a.regs, a.time, a.cv, a.pwr, a.parked, a.tns⟩, a.active, a.shadow⟩

theorem count (a : DenseAside ks s t) (d k n : Nat) : DenseAside ks s (t.count d k n) := a.obs _

theorem noteNan (a : DenseAside ks s t) (v : Option Nat) : DenseAside ks s (t.setTns { t.tns with nanUnit := v }) :=
  ⟨⟨a.regs, a.time, a.cv, a.pwr, a.parked, a.tns⟩, a.active, a.shadow⟩

theorem when (a : DenseAside ks s t) (c : Bool) {f : State → State} (h : ∀ u, DenseAside ks s u → DenseAside ks s (f u)) :
    DenseAside ks s (t.when c f) := by
  cases c
  · exact a
  · exact h t a

theorem of_quiet (h : Quiet s t) (hp : t.err.parked = s.err.parked) (hk : faultKeys ⊆ ks) : DenseAside ks s t :=
  ⟨⟨fun x hx => h.regs x fun hf => hx (hk hf), h.time, h.cv, h.pwr, hp, congrArg Dense.unnoted h.tns⟩, h.active, h.shadow⟩

theorem workSet (a : DenseAside ks s t) : t.workSet = s.workSet := by
  unfold State.workSet
  rw [a.workActive, a.active, a.shadow]

theorem layers (a : DenseAside ks s t) : t.layers = s.layers := by
  unfold State.layers
  rw [a.workSet]

theorem layer (a : DenseAside ks s t) (i : Nat) : t.layer i = s.layer i := congrArg (·.getD i noLayer) a.layers

end DenseAside

/-! ### Faults and checks (R436, R439, R449) -/

theorem State.trace_parked (s : State) (die source unit arg data : Nat) : (s.trace die source unit arg data).err.parked = s.err.parked := by
  unfold State.trace
  split
  · dsimp only
    split <;> rfl
  · rfl

theorem State.condition_parked (s : State) (k : Nat) : (s.condition k).err.parked = s.err.parked := by
  unfold State.condition
  split <;> rfl

/-- A contained fault parks no die. -/
theorem State.contained_parked (s : State) (source die unit detail : Nat) :
    (s.fault .contained source die unit detail).err.parked = s.err.parked := by
  unfold State.fault
  refine (State.when_same (·.err.parked) rfl _).trans ?_
  exact (State.condition_parked _ 0).trans (s.trace_parked _ _ _ _ _)

/-- A corrected fault parks no die. -/
theorem State.corrected_parked (s : State) (source die unit detail : Nat) :
    (s.fault .corrected source die unit detail).err.parked = s.err.parked := by
  unfold State.fault
  refine (State.when_same (·.err.parked) ?_ _).trans (s.trace_parked _ _ _ _ _)
  unfold State.reportCorrected
  dsimp only
  split
  · rfl
  · split
    · rfl
    · split <;> rfl

theorem DenseAside.contained (a : DenseAside ks s t) (hk : faultKeys ⊆ ks) (source die unit detail : Nat) :
    DenseAside ks s (t.fault .contained source die unit detail) :=
  a.trans (of_quiet (quiet_fault (Quiet.refl t) ..) (t.contained_parked ..) hk)

theorem DenseAside.corrected (a : DenseAside ks s t) (hk : faultKeys ⊆ ks) (source die unit detail : Nat) :
    DenseAside ks s (t.fault .corrected source die unit detail) :=
  a.trans (of_quiet (quiet_fault (Quiet.refl t) ..) (t.corrected_parked ..) hk)

theorem State.eccRead_denseAside (s : State) (e : Ecc) (die mem detail : Nat) : DenseAside eccKeys s (s.eccRead e die mem detail) := by
  have hf : faultKeys ⊆ eccKeys := fun k hk => by simp [eccKeys, hk]
  cases e
  case ok => exact DenseAside.refl _ _
  case single => exact (((DenseAside.refl eccKeys s).obs _).set (by simp [eccKeys]) _).corrected hf ..
  case uncorrectable => exact ((DenseAside.refl eccKeys s).set (by simp [eccKeys]) _).contained hf ..

/-! ### The worked set and its layers -/

theorem State.workSet_modifyWork (s : State) (f : ConfigSet → ConfigSet) : (s.modifyWork f).workSet = s.workSet.map f := by
  have h := ((DenseFrame.refl [] s).modifyWork f).workActive
  unfold State.workSet
  rw [h]
  unfold State.modifyWork
  cases s.workActive <;> rfl

theorem State.layers_modifyWork {f : ConfigSet → ConfigSet} (s : State) (h : ∀ c, (f c).layers = c.layers) :
    (s.modifyWork f).layers = s.layers := by
  unfold State.layers
  rw [State.workSet_modifyWork]
  cases s.workSet
  · rfl
  · exact h _

theorem State.packets_modifyWork {f : ConfigSet → ConfigSet} (s : State) (h : ∀ c, (f c).packets = c.packets) :
    (s.modifyWork f).packets = s.packets := by
  unfold State.packets
  rw [State.workSet_modifyWork]
  cases s.workSet
  · rfl
  · exact h _

theorem State.layers_setLayer (s : State) (i : Nat) (l : LayerSt) : (s.setLayer i l).layers = s.layers.set i l := by
  unfold State.setLayer State.layers
  rw [State.workSet_modifyWork]
  cases s.workSet <;> rfl

theorem State.packets_setLayer (s : State) (i : Nat) (l : LayerSt) : (s.setLayer i l).packets = s.packets :=
  s.packets_modifyWork fun _ => rfl

theorem State.layer_setLayer (s : State) (i : Nat) (l : LayerSt) : (s.setLayer i l).layer i = if i < s.layers.length then l else s.layer i := by
  unfold State.layer
  rw [State.layers_setLayer]
  split
  next h => simp [h]
  next h => simp [h]

theorem State.layer_setLayer_same {l : LayerSt} (h : i < s.layers.length) : (s.setLayer i l).layer i = l := by
  rw [State.layer_setLayer, if_pos h]

theorem State.layer_setLayer_other (s : State) {i j : Nat} (h : j ≠ i) (l : LayerSt) : (s.setLayer i l).layer j = s.layer j := by
  unfold State.layer
  rw [State.layers_setLayer]
  simp [h.symm]

/-! ### Work on one layer -/

/-- From `s` to `t` there was work on layer `i`: outside the sets what the frame says, no other layer changed, and of layer `i` `key` stays. -/
structure LayerWork {β : Type} (key : LayerSt → β) (ks : List Nat) (i : Nat) (s t : State) : Prop extends DenseFrame ks s t where
  length : t.layers.length = s.layers.length
  own : key (t.layer i) = key (s.layer i)
  others : ∀ j, j ≠ i → t.layer j = s.layer j

namespace LayerWork

variable {β : Type} {key : LayerSt → β}

theorem of_aside (a : DenseAside ks s t) : LayerWork key ks i s t :=
  ⟨a.toDenseFrame, by rw [a.layers], by rw [a.layer], fun j _ => a.layer j⟩

theorem refl (key : LayerSt → β) (ks : List Nat) (i : Nat) (s : State) : LayerWork key ks i s s := of_aside (DenseAside.refl ks s)

theorem trans (a : LayerWork key ks i s t) (b : LayerWork key ks i t u) : LayerWork key ks i s u :=
  ⟨a.toDenseFrame.trans b.toDenseFrame, b.length.trans a.length, b.own.trans a.own, fun j hj => (b.others j hj).trans (a.others j hj)⟩

theorem mono (a : LayerWork key ks i s t) (h : ks ⊆ ls) : LayerWork key ls i s t := ⟨a.toDenseFrame.mono h, a.length, a.own, a.others⟩

theorem aside (a : LayerWork key ks i s t) (b : DenseAside ks t u) : LayerWork key ks i s u := a.trans (of_aside b)

theorem setLayer (a : LayerWork key ks i s t) {l : LayerSt} (hk : key l = key (t.layer i)) : LayerWork key ks i s (t.setLayer i l) :=
  a.trans
    { toDenseFrame := (DenseFrame.refl ks t).setLayer i l
      length := by rw [State.layers_setLayer, List.length_set]
      own := by
        rw [State.layer_setLayer]
        split
        · exact hk
        · rfl
      others := fun j hj => t.layer_setLayer_other hj l }

/-- A change of the worked set beside its layers. -/
theorem modifyWork (a : LayerWork key ks i s t) {f : ConfigSet → ConfigSet} (h : ∀ c, (f c).layers = c.layers) :
    LayerWork key ks i s (t.modifyWork f) :=
  have hl (j : Nat) : (t.modifyWork f).layer j = t.layer j := congrArg (·.getD j noLayer) (t.layers_modifyWork h)
  a.trans ⟨(DenseFrame.refl ks t).modifyWork f, by rw [t.layers_modifyWork h], by rw [hl], fun j _ => hl j⟩

theorem each {α : Type} (a : LayerWork key ks i s t) {l : List α} {f : State → α → State} (h : ∀ u x, LayerWork key ks i u (f u x)) :
    LayerWork key ks i s (t.each l f) := State.each_keeps (LayerWork key ks i s) (fun u x hu => hu.trans (h u x)) a

end LayerWork

/-! ### Groups filled (R437) -/

theorem State.layers_fillDone (s : State) : s.fillDone.layers = s.layers := s.layers_modifyWork fun _ => rfl

theorem State.layer_fillDone (s : State) (i : Nat) : s.fillDone.layer i = s.layer i := congrArg (·.getD i noLayer) s.layers_fillDone

theorem State.packets_fillDone (s : State) : s.fillDone.packets = s.packets := s.packets_modifyWork fun _ => rfl

/-! ### Protected words read (R439, R440) -/

theorem State.checkWord_aside (s : State) (l : LayerSt) (h : MemHit) : DenseAside eccKeys s (s.checkWord l h).1 := by
  have hr := s.eccRead_denseAside h.ecc (dieOfMemory l.memory) (placeOfMemory l.memory) (l.index + 512 * wordElem h.word)
  unfold State.checkWord
  dsimp only
  split
  next => exact DenseAside.refl _ s
  next =>
    split
    · exact hr
    · exact hr
    · exact hr.took 1

/-- Reads of a layer change no other one. -/
theorem State.readLayer_work (s : State) (hits : List MemHit) (i : Nat) : LayerWork (fun _ => ()) eccKeys i s (s.readLayer hits i) :=
  (LayerWork.refl _ _ i s).each fun u h => ((LayerWork.refl _ _ i u).aside (u.checkWord_aside (u.layer i) h)).setLayer rfl

theorem State.checkEntry_denseAside (s : State) (k : Nat) (ecc : Ecc) : DenseAside eccKeys s (s.checkEntry k ecc) := by
  unfold State.checkEntry
  split
  · exact DenseAside.refl _ s
  · exact s.eccRead_denseAside ..

/-! ### Changes of the output plane (R138, R156) -/

theorem ConfigSet.send_layers (c : ConfigSet) (p : Nat) (ps : List DeltaPacket) : (c.send p ps).layers = c.layers := by
  unfold ConfigSet.send
  split <;> rfl

theorem set_getD_self (l : List Nat) (o : Nat) : l.set o (l.getD o 0) = l := by
  by_cases h : o < l.length
  · simp [h]
  · exact List.set_eq_of_length_le (by omega)

theorem getD_set_same {l : List Nat} {o : Nat} (h : o < l.length) (v : Nat) : (l.set o v).getD o 0 = v := by simp [h]

theorem getD_set_ne {o p : Nat} (h : p ≠ o) (l : List Nat) (v : Nat) : (l.set p v).getD o 0 = l.getD o 0 := by simp [h]

/-- A layer but for its output plane, and that plane's size. -/
def LayerSt.unplaned (l : LayerSt) : LayerSt × Nat := ({ l with act := [], poisonAct := [] }, l.act.length)

/-- An element's new value is work on its layer that changes the output plane alone. -/
theorem State.produce_work (s : State) (i o new : Nat) (poison : Bool) : LayerWork LayerSt.unplaned [] i s (s.produce i o new poison) := by
  unfold State.produce
  dsimp only
  split
  next => exact (LayerWork.refl _ [] i s).setLayer rfl
  next =>
    unfold State.change
    have hl (ps : List DeltaPacket) : (s.modifyWork fun c => c.send i ps).layer i = s.layer i :=
      congrArg (·.getD i noLayer) (s.layers_modifyWork fun c => c.send_layers i ps)
    refine ((LayerWork.refl _ [] i s).modifyWork fun c => c.send_layers i _).setLayer ?_
    rw [hl, LayerSt.unplaned, LayerSt.unplaned, List.length_set]

/-- The output plane with the element at its new value. -/
theorem State.produce_act (h : i < s.layers.length) (o new : Nat) (poison : Bool) :
    ((s.produce i o new poison).layer i).act = (s.layer i).act.set o new := by
  unfold State.produce
  dsimp only
  split
  next heq => rw [State.layer_setLayer_same h, heq, set_getD_self]
  next =>
    unfold State.change
    rw [State.layer_setLayer_same (by rw [s.layers_modifyWork fun c => c.send_layers i _]; exact h)]

/-! ### Passes and evaluations (R139–R141, R113, R124) -/

/-- The register fields that work on a layer may change: absorbed elements, saturation, NaN, infinite operands. -/
def workKeys : List Nat := [R.cntAbsorbed.key, R.tnsArithStatusSat.key, R.tnsArithStatusNan.key, R.tnsArithStatusInfIn.key]

theorem State.sawNan_aside (s : State) (i : Nat) : DenseAside workKeys s (s.sawNan i) := by
  unfold State.sawNan
  split
  next => exact DenseAside.refl _ s
  next => exact ((DenseAside.refl workKeys s).set (f := R.tnsArithStatusNan) (by simp [workKeys]) _).noteNan _

theorem State.evalStatus_aside (s : State) (i : Nat) (e : Eval) : DenseAside workKeys s (s.evalStatus i e) := by
  unfold State.evalStatus
  extract_lets l s1 s2
  have h1 : DenseAside workKeys s s1 :=
    (((DenseAside.refl workKeys s).when e.sat fun u hu => hu.set (f := R.tnsArithStatusSat) (by simp [workKeys]) _).when e.nan
      fun u hu => hu.trans (u.sawNan_aside i))
  exact (h1.when _ fun u hu => hu.count _ _ _).when _ fun u hu => hu.count _ _ _

/-- The register fields that the end of a unit of work may change (R113). -/
def unitKeys : List Nat := [R.tnsArithNanLayerLayer.key, R.tnsArithNanLayerValid.key]

theorem State.endUnit_aside (s : State) : DenseAside unitKeys s s.endUnit := by
  unfold State.endUnit
  split
  next => exact ((((DenseAside.refl unitKeys s).set (f := R.tnsArithNanLayerLayer) (by simp [unitKeys]) _).set (f := R.tnsArithNanLayerValid)
    (by simp [unitKeys]) _).noteNan none)
  next => exact DenseAside.refl _ s

theorem State.produce_frame (s : State) (i o new : Nat) (poison : Bool) : DenseFrame workKeys s (s.produce i o new poison) :=
  (s.produce_work i o new poison).toDenseFrame.mono (List.nil_subset _)

theorem State.evalMark_frame (s : State) (i o : Nat) : DenseFrame workKeys s (s.evalMark i o) :=
  (((DenseFrame.refl workKeys s).setLayer i _).trans (State.evalStatus_aside _ i _).toDenseFrame).trans (State.produce_frame ..)

theorem State.storePass_frame (s : State) (i o : Nat) (r : PassOut) : DenseFrame workKeys s (s.storePass i o r) := by
  unfold State.storePass
  extract_lets l moved s1
  have h1 : DenseFrame workKeys s s1 := (DenseFrame.refl workKeys s).setLayer i _
  exact h1.trans ((((DenseAside.refl workKeys s1).count _ _ _).count _ _ _).when _ (fun u hu => hu.set (f := R.tnsArithStatusInfIn) (by simp [workKeys]) _)
    |>.when _ fun u hu => hu.trans (u.sawNan_aside i)).toDenseFrame

theorem State.countAbsorbed_frame (s : State) (i : Nat) : DenseFrame workKeys s (s.countAbsorbed i) :=
  (((DenseAside.refl workKeys s).set (f := R.cntAbsorbed) (by simp [workKeys]) _).count _ _ _).toDenseFrame

theorem State.deltaPass_frame (s : State) (i lv : Nat) : DenseFrame workKeys s (s.deltaPass i lv) := by
  unfold State.deltaPass
  extract_lets l th touched s1
  split
  · exact DenseFrame.refl _ s
  · exact ((s.countAbsorbed_frame i).each fun u o => u.storePass_frame i o _).setLayer i _

theorem State.recomputePend_frame (s : State) (i : Nat) : DenseFrame workKeys s (s.recomputePend i) := by
  unfold State.recomputePend
  exact ((s.countAbsorbed_frame i).setLayer i _).each fun u o => (u.evalStatus_aside i _).toDenseFrame.trans (State.produce_frame ..)

theorem State.evaluateLayer_frame (s : State) (i n : Nat) : DenseFrame workKeys s (s.evaluateLayer i n) := by
  unfold State.evaluateLayer
  extract_lets l s1
  split
  · exact DenseFrame.refl _ s
  · split
    · exact (s.deltaPass_frame i _).each fun u o => u.evalMark_frame i o
    · exact s.recomputePend_frame i

end Sys2Proof.Machine
end

section
/-! SUPPORT. Conversion of Canvas pixels by bin: an element, a tile (R137, R161, R175). -/

namespace Sys2Proof.Machine

variable {s t u : State} {ks ls : List Nat} {i : Nat}

/-! ### Conversion of an element (R137, R175) -/

/-- The register fields that a conversion may change. -/
def convertKeys : List Nat := R.cntHemConv.key :: eccKeys

/-- One pixel polarity converted is work on its layer. -/
theorem State.convertElem_work (s : State) (i x y : Nat) (pol : Bool) (v : Nat) (hits : List MemHit) :
    LayerWork LayerSt.unplaned convertKeys i s (s.convertElem i x y pol v hits) := by
  unfold State.convertElem
  extract_lets l k ecc bad bin
  have hcheck : DenseAside convertKeys s (s.checkEntry k ecc) := (s.checkEntry_denseAside k ecc).mono (List.subset_cons_self _ _)
  exact (LayerWork.of_aside ((hcheck.took _).set List.mem_cons_self _)).each fun u c => (u.produce_work ..).mono (List.nil_subset _)

/-- One tile converted is work on its layer. -/
theorem State.convertTile_work (s : State) (c : ConvTile) (v : Nat) (hits : List MemHit) :
    LayerWork (fun _ => ()) convertKeys c.layer s (s.convertTile c v hits) := by
  unfold State.convertTile
  refine ((s.readLayer_work hits c.layer).mono (List.subset_cons_self _ _)).each fun u a => ?_
  split
  · obtain ⟨hframe, hlen, -, hothers⟩ := u.convertElem_work c.layer a.1.1 a.1.2 a.2 v hits
    exact ⟨hframe, hlen, rfl, hothers⟩
  · exact LayerWork.refl ..

/-- The place in the output plane of the Canvas channel number `n` of pixel (x, y). -/
def LayerSt.place (l : LayerSt) (x y n : Nat) : Nat := (y * l.outW + x) * l.outC + n

theorem LayerSt.place_inj {l : LayerSt} {x y n x' y' n' : Nat} (hx : x < l.outW) (hx' : x' < l.outW) (hn : n < l.outC) (hn' : n' < l.outC)
    (h : l.place x y n = l.place x' y' n') : x = x' ∧ y = y' ∧ n = n' := by
  have hc : 0 < l.outC := by omega
  have hw : 0 < l.outW := by omega
  unfold LayerSt.place at h
  have hrow : y * l.outW + x = y' * l.outW + x' := by
    have := congrArg (· / l.outC) h
    simpa [Nat.add_comm _ n, Nat.add_comm _ n', Nat.add_mul_div_right _ _ hc, Nat.div_eq_of_lt hn, Nat.div_eq_of_lt hn'] using this
  have hy : y = y' := by
    have := congrArg (· / l.outW) hrow
    simpa [Nat.add_comm _ x, Nat.add_comm _ x', Nat.add_mul_div_right _ _ hw, Nat.div_eq_of_lt hx, Nat.div_eq_of_lt hx'] using this
  subst hy
  rw [hrow] at h
  omega

/-- The channels of a layer that read polarity `pol`, numbered in its plane. -/
def LayerSt.channels (l : LayerSt) (pol : Bool) : List ((Nat × Bool) × Nat) := l.canvasSel.zipIdx.filter fun c => c.1.2 == pol

/-- Without failing checks a conversion writes the table value of the pixel's bin to each channel of its polarity (R137). -/
theorem State.convertElem_clean (h : s.cv.bad = []) (i x y : Nat) (pol : Bool) (v : Nat) : s.convertElem i x y pol v [] =
    ((s.took 0).inc R.cntHemConv).each ((s.layer i).channels pol) fun u c => u.produce i ((s.layer i).place x y c.2)
      ((s.layer i).binValue c.1.1 (s.binAt (s.pixel (s.layer i).port x y) pol v))
      (SMap.get (s.layer i).poisonTable false (8 * c.1.1 + s.binAt (s.pixel (s.layer i).port x y) pol v)) := by
  have hbad (k : Nat) : s.entryBad k (hitOn [] (.canvas k)) = false := by simp [State.entryBad, h, SMap.get, SMap.find?, hitOn]
  have hcheck (k : Nat) : s.checkEntry k (hitOn [] (.canvas k)) = s := by
    unfold State.checkEntry
    split <;> rfl
  unfold State.convertElem
  simp only [hbad, hcheck, State.hemBin, Bool.false_or, Bool.false_eq_true, if_false]
  rfl

/-- The register fields that place and bin the pixels of port `p`. -/
def convFields (p : Nat) : List Fld := R.srfCtlMaskInput :: scanFields p

theorem convFields_apart (p : Nat) : ∀ x ∈ convFields p, x.key ∉ [R.cntHemConv.key] := by
  have hedges : ∀ x ∈ [R.srfCtlMaskInput, R.srfBinEdge1Edge, R.srfBinEdge2Edge, R.srfBinEdge3Edge, R.srfBinEdge4Edge, R.srfBinEdge5Edge,
      R.srfBinEdge6Edge, R.srfBinEdge7Edge], x.key ∉ [R.cntHemConv.key] := by decide
  intro x hx
  rcases List.mem_cons.1 hx with rfl | hx
  · exact hedges _ List.mem_cons_self
  · rcases List.mem_append.1 hx with hx | hx
    · simp only [placeFields, List.mem_cons, List.not_mem_nil, or_false] at hx
      simp only [List.mem_singleton, Fld.key, R.cntHemConv]
      rcases hx with rfl | rfl | rfl | rfl | rfl
      · change (0x401008 + 0x100 * p) * 64 + 0 ≠ _
        omega
      · change (0x401008 + 0x100 * p) * 64 + 16 ≠ _
        omega
      · change (0x500100 + 0x10 * p) * 64 + 0 ≠ _
        omega
      · change (0x500104 + 0x10 * p) * 64 + 0 ≠ _
        omega
      · change (0x500100 + 0x10 * p) * 64 + 31 ≠ _
        omega
    · exact hedges x (List.mem_cons_of_mem _ hx)

/-- The bin of a pixel polarity depends on the Canvas and on the fields that place and bin it. -/
theorem State.pixelBin_congr {p : Nat} (h : ∀ x ∈ convFields p, t.get x = s.get x) (hcv : t.cv = s.cv) (x y : Nat) (pol : Bool) (v : Nat) :
    t.binAt (t.pixel p x y) pol v = s.binAt (s.pixel p x y) pol v := by
  have hscan (f : Fld) (hf : f ∈ scanFields p) : t.get f = s.get f := h f (List.mem_cons_of_mem _ hf)
  have hpixel : t.pixel p x y = s.pixel p x y := by
    unfold State.pixel
    rw [State.pixelKey_congr fun f hf => hscan f (List.mem_append_left _ hf), State.entryAt_congr (congrArg (·.entries) hcv)]
  have hmask (q : Pixel) : t.masked q = s.masked q := by
    unfold State.masked
    rw [State.flag_of_get (h R.srfCtlMaskInput List.mem_cons_self)]
  have hedges : t.edges = s.edges := by
    unfold State.edges
    rw [hscan _ (by simp [scanFields]), hscan _ (by simp [scanFields]), hscan _ (by simp [scanFields]), hscan _ (by simp [scanFields]),
      hscan _ (by simp [scanFields]), hscan _ (by simp [scanFields]), hscan _ (by simp [scanFields])]
  unfold State.binAt
  rw [hpixel, hmask, hedges]

theorem State.convertElem_clean_work (h : s.cv.bad = []) (i x y : Nat) (pol : Bool) (v : Nat) :
    LayerWork LayerSt.unplaned [R.cntHemConv.key] i s (s.convertElem i x y pol v []) := by
  rw [State.convertElem_clean h]
  have h0 : DenseAside [R.cntHemConv.key] s ((s.took 0).inc R.cntHemConv) := ((DenseAside.refl _ s).took 0).set List.mem_cons_self _
  exact (LayerWork.of_aside h0).each fun u c => (u.produce_work ..).mono (List.nil_subset _)

theorem LayerSt.of_unplaned {l m : LayerSt} (h : m.unplaned = l.unplaned) : m.act.length = l.act.length ∧ m.outW = l.outW ∧ m.outC = l.outC
    ∧ m.port = l.port ∧ m.canvasSel = l.canvasSel ∧ ∀ c b, m.binValue c b = l.binValue c b :=
  ⟨congrArg Prod.snd h, congrArg (fun x => x.1.outW) h, congrArg (fun x => x.1.outC) h, congrArg (fun x => x.1.port) h,
    congrArg (fun x => x.1.canvasSel) h, fun c b => congrArg (fun x => x.1.binValue c b) h⟩

/-- The code that a Canvas channel's element takes: the table value of the bin of its pixel's polarity (R137, R175). -/
def State.converted (s : State) (i : Nat) (a : Nat × Nat) (q : (Nat × Bool) × Nat) (v : Nat) : Nat :=
  (s.layer i).binValue q.1.1 (s.binAt (s.pixel (s.layer i).port a.1 a.2) q.1.2 v)

/-- The element of the output plane that a Canvas channel of a pixel has. -/
def State.planeAt (s : State) (i : Nat) (a : Nat × Nat) (q : (Nat × Bool) × Nat) : Nat :=
  (s.layer i).act.getD ((s.layer i).place a.1 a.2 q.2) 0

/-- A conversion gives the element of pixel `a` and channel `q` its code where it is the one converted, and leaves that code elsewhere. -/
theorem State.convertElem_planeAt (h : s.cv.bad = []) (hi : i < s.layers.length) (hsel : (s.layer i).canvasSel.length ≤ (s.layer i).outC)
    {a b : Nat × Nat} (ha : a.1 < (s.layer i).outW) (hb : b.1 < (s.layer i).outW) {q : (Nat × Bool) × Nat} (hq : q ∈ (s.layer i).canvasSel.zipIdx)
    (ho : (s.layer i).place a.1 a.2 q.2 < (s.layer i).act.length) (pol : Bool) (v : Nat)
    (hor : s.planeAt i a q = s.converted i a q v ∨ (b = a ∧ pol = q.1.2)) :
    ((s.convertElem i b.1 b.2 pol v []).layer i).act.getD ((s.layer i).place a.1 a.2 q.2) 0 = s.converted i a q v := by
  rw [State.convertElem_clean h]
  have hchan {c : (Nat × Bool) × Nat} (hc : c ∈ (s.layer i).canvasSel.zipIdx) : c.2 < (s.layer i).outC :=
    Nat.lt_of_lt_of_le (List.mem_zipIdx' (x := c.1) (i := c.2) hc).1 hsel
  have h0 : LayerWork LayerSt.unplaned [R.cntHemConv.key] i s ((s.took 0).inc R.cntHemConv) :=
    LayerWork.of_aside (((DenseAside.refl _ s).took 0).set List.mem_cons_self _)
  have hact : (((s.took 0).inc R.cntHemConv).layer i).act = (s.layer i).act :=
    congrArg LayerSt.act ((((DenseAside.refl [R.cntHemConv.key] s).took 0).set (f := R.cntHemConv) List.mem_cons_self _).layer i)
  have hstep (u : State) (o n : Nat) (p : Bool) (hu : LayerWork LayerSt.unplaned [R.cntHemConv.key] i s u) :
      LayerWork LayerSt.unplaned [R.cntHemConv.key] i s (u.produce i o n p) := hu.trans ((u.produce_work ..).mono (List.nil_subset _))
  have hsame {c : (Nat × Bool) × Nat} (hc : c ∈ (s.layer i).channels pol)
      (hplace : (s.layer i).place b.1 b.2 c.2 = (s.layer i).place a.1 a.2 q.2) : c = q ∧ b = a ∧ pol = q.1.2 := by
    obtain ⟨hmem, hpol⟩ := List.mem_filter.1 hc
    obtain ⟨hx, hy, hn⟩ := LayerSt.place_inj hb ha (hchan hmem) (hchan hq) hplace
    have hcq : c.1 = q.1 := by
      rw [List.mem_zipIdx_iff_getElem?] at hmem hq
      rw [hn] at hmem
      exact Option.some.inj (hmem.symm.trans hq)
    exact ⟨Prod.ext hcq hn, Prod.ext hx hy, by rw [← hcq]; exact (beq_iff_eq.1 hpol).symm⟩
  have hwrite (u : State) (hu : LayerWork LayerSt.unplaned [R.cntHemConv.key] i s u) (n : Nat) (p : Bool) :
      ((u.produce i ((s.layer i).place a.1 a.2 q.2) n p).layer i).act.getD ((s.layer i).place a.1 a.2 q.2) 0 = n := by
    rw [State.produce_act (hu.length ▸ hi), getD_set_same ((LayerSt.of_unplaned hu.own).1 ▸ ho)]
  have hkeep (u : State) (c : (Nat × Bool) × Nat) (hc : c ∈ (s.layer i).channels pol) (hu : LayerWork LayerSt.unplaned [R.cntHemConv.key] i s u)
      (hv : (u.layer i).act.getD ((s.layer i).place a.1 a.2 q.2) 0 = s.converted i a q v) (p : Bool) :
      ((u.produce i ((s.layer i).place b.1 b.2 c.2) ((s.layer i).binValue c.1.1 (s.binAt (s.pixel (s.layer i).port b.1 b.2) pol v)) p).layer i).act.getD
        ((s.layer i).place a.1 a.2 q.2) 0 = s.converted i a q v := by
    by_cases hplace : (s.layer i).place b.1 b.2 c.2 = (s.layer i).place a.1 a.2 q.2
    · obtain ⟨rfl, rfl, rfl⟩ := hsame hc hplace
      exact hwrite u hu _ p
    · rw [State.produce_act (hu.length ▸ hi), getD_set_ne hplace, hv]
  rcases hor with hv | ⟨rfl, rfl⟩
  · exact (State.each_keeps_mem (fun u => LayerWork LayerSt.unplaned [R.cntHemConv.key] i s u
      ∧ (u.layer i).act.getD ((s.layer i).place a.1 a.2 q.2) 0 = s.converted i a q v)
      (fun u c hc ⟨hu, hv⟩ => ⟨hstep u _ _ _ hu, hkeep u c hc hu hv _⟩) ⟨h0, by rw [hact]; exact hv⟩).2
  · exact State.each_reaches _ (fun u => (u.layer i).act.getD ((s.layer i).place b.1 b.2 q.2) 0 = s.converted i b q v)
      (fun u c _ hu => hstep u _ _ _ hu) (fun u c hc hu hv => hkeep u c hc hu hv _)
      (x := q) (List.mem_filter.2 ⟨hq, beq_self_eq_true _⟩) (fun u hu => hwrite u hu _ _) h0

/-- What a tile's step does with one of its elements. -/
def State.convertListed (s : State) (c : ConvTile) (v : Nat) (a : (Nat × Nat) × Bool) : State :=
  if c.whole || bit c.mask (elementBit a.1.1 a.1.2 a.2) then s.convertElem c.layer a.1.1 a.1.2 a.2 v [] else s

/-- The elements of a tile: both polarities of its pixels. -/
def State.tileElements (s : State) (c : ConvTile) : List ((Nat × Nat) × Bool) :=
  (s.tilePixels c.port c.tx c.ty).flatMap fun q => [(q, true), (q, false)]

theorem State.convertTile_clean (s : State) (c : ConvTile) (v : Nat) :
    s.convertTile c v [] = s.each (s.tileElements c) fun u a => u.convertListed c v a := rfl

theorem State.convertListed_work (h : s.cv.bad = []) (c : ConvTile) (v : Nat) (a : (Nat × Nat) × Bool) :
    LayerWork LayerSt.unplaned [R.cntHemConv.key] c.layer s (s.convertListed c v a) := by
  unfold State.convertListed
  split
  · exact State.convertElem_clean_work h ..
  · exact LayerWork.refl ..

theorem State.convertTile_clean_work (h : s.cv.bad = []) (c : ConvTile) (v : Nat) :
    LayerWork LayerSt.unplaned [R.cntHemConv.key] c.layer s (s.convertTile c v []) := by
  rw [State.convertTile_clean]
  exact State.each_keeps (LayerWork LayerSt.unplaned [R.cntHemConv.key] c.layer s)
    (fun u a hu => hu.trans (State.convertListed_work ((congrArg (·.bad) hu.cv).trans h) c v a)) (LayerWork.refl ..)

/-- A converted tile has each of its converted elements at its code (R137, R175). -/
theorem State.convertTile_planeAt {c : ConvTile} (h : s.cv.bad = []) (hi : c.layer < s.layers.length)
    (hsel : (s.layer c.layer).canvasSel.length ≤ (s.layer c.layer).outC) (hw : s.width c.port ≤ (s.layer c.layer).outW)
    {a : Nat × Nat} (ha : a ∈ s.tilePixels c.port c.tx c.ty) {q : (Nat × Bool) × Nat} (hq : q ∈ (s.layer c.layer).canvasSel.zipIdx)
    (hm : c.whole = true ∨ bit c.mask (elementBit a.1 a.2 q.1.2) = true)
    (ho : (s.layer c.layer).place a.1 a.2 q.2 < (s.layer c.layer).act.length) (v : Nat) :
    ((s.convertTile c v []).layer c.layer).act.getD ((s.layer c.layer).place a.1 a.2 q.2) 0 = s.converted c.layer a q v := by
  rw [State.convertTile_clean]
  have hpixel {b : Nat × Nat} (hb : b ∈ s.tilePixels c.port c.tx c.ty) : b.1 < (s.layer c.layer).outW := by
    have := (List.mem_filter.1 hb).2
    simp only [Bool.and_eq_true, decide_eq_true_eq] at this
    omega
  have hstep (u : State) (b : (Nat × Nat) × Bool) (_ : b ∈ s.tileElements c) (hu : LayerWork LayerSt.unplaned [R.cntHemConv.key] c.layer s u) :
      LayerWork LayerSt.unplaned [R.cntHemConv.key] c.layer s (u.convertListed c v b) :=
    hu.trans (State.convertListed_work ((congrArg (·.bad) hu.cv).trans h) c v b)
  have hconv (u : State) (b : (Nat × Nat) × Bool) (hb : b ∈ s.tileElements c) (hu : LayerWork LayerSt.unplaned [R.cntHemConv.key] c.layer s u)
      (hor : (u.layer c.layer).act.getD ((s.layer c.layer).place a.1 a.2 q.2) 0 = s.converted c.layer a q v ∨ (b.1 = a ∧ b.2 = q.1.2)) :
      ((u.convertElem c.layer b.1.1 b.1.2 b.2 v []).layer c.layer).act.getD ((s.layer c.layer).place a.1 a.2 q.2) 0 = s.converted c.layer a q v := by
    obtain ⟨hlen, hoW, hoC, hport, hcs, hbv⟩ := LayerSt.of_unplaned hu.own
    have hplace : (u.layer c.layer).place a.1 a.2 q.2 = (s.layer c.layer).place a.1 a.2 q.2 := by
      rw [LayerSt.place, LayerSt.place, hoW, hoC]
    have hvalue : u.converted c.layer a q v = s.converted c.layer a q v := by
      unfold State.converted
      rw [hport, hbv, State.pixelBin_congr (fun x hx => hu.get (convFields_apart _ x hx)) hu.cv]
    have hb' : b.1 ∈ s.tilePixels c.port c.tx c.ty := by
      obtain ⟨p, hp, hbp⟩ := List.mem_flatMap.1 hb
      have : b.1 = p := by
        rcases List.mem_cons.1 hbp with rfl | hbp
        · rfl
        · rw [List.mem_singleton.1 hbp]
      rw [this]
      exact hp
    have := State.convertElem_planeAt ((congrArg (·.bad) hu.cv).trans h) (hu.length ▸ hi) (by rw [hcs, hoC]; exact hsel) (a := a) (b := b.1)
      (by rw [hoW]; exact hpixel ha) (by rw [hoW]; exact hpixel hb') (q := q) (by rw [hcs]; exact hq) (by rw [hplace, hlen]; exact ho) b.2 v
      (by rw [State.planeAt, hplace, hvalue]; exact hor)
    rwa [hplace, hvalue] at this
  refine State.each_reaches _ (fun u => (u.layer c.layer).act.getD ((s.layer c.layer).place a.1 a.2 q.2) 0 = s.converted c.layer a q v)
    hstep (fun u b hb hu hv => ?_) (x := (a, q.1.2)) ?_ (fun u hu => ?_) (LayerWork.refl ..)
  · unfold State.convertListed
    split
    · exact hconv u b hb hu (.inl hv)
    · exact hv
  · refine List.mem_flatMap.2 ⟨a, ha, ?_⟩
    cases q.1.2 <;> simp
  · unfold State.convertListed
    rw [if_pos (by simpa using hm)]
    refine hconv u (a, q.1.2) (List.mem_flatMap.2 ⟨a, ha, ?_⟩) hu (.inr ⟨rfl, rfl⟩)
    cases q.1.2 <;> simp

end Sys2Proof.Machine
end

section
/-! SUPPORT. Tiles to convert, and work that becomes ready (R137, R146, R152, R161, R398, R446, R522). -/

namespace Sys2Proof.Machine

variable {s t u : State} {n : Nat}

/-! ### Tiles and work that become ready (R146, R161, R446, R522) -/

theorem State.layer_setTodo (s : State) (l : List ConvTile) (i : Nat) : (s.setTns { s.tns with todo := l }).layer i = s.layer i := rfl

/-- What TICK_WORK_READY does in a running clock with a next tick. -/
theorem exec_tickWorkReady (ha : s.awake = true) (hn : s.tns.next = some n) (k : Nat) (hits : List MemHit) :
    exec (.tickWorkReady k hits) s = .next (if s.memOpen = false then s else if s.tns.working then s.convertSome n hits k
      else if s.tickReady n then (s.beginTick n).convertSome n hits k else s) := by
  change execTickWorkReady k hits s = _
  simp only [execTickWorkReady, State.clocked_awake ha, hn, Bool.not_eq_true']

theorem exec_tickWorkReady_shut (ha : s.awake = true) (hm : s.memOpen = false) (k : Nat) (hits : List MemHit) :
    exec (.tickWorkReady k hits) s = .next s := by
  cases hn : s.tns.next with
  | none =>
    change execTickWorkReady k hits s = _
    simp only [execTickWorkReady, State.clocked_awake ha, hn]
  | some n => rw [exec_tickWorkReady ha hn, if_pos hm]

theorem State.convertSome_one {c : ConvTile} {l : List ConvTile} (hi : s.cv.inits = 0) (ht : s.tns.todo = c :: l) (n : Nat) (hits : List MemHit) :
    s.convertSome n hits 1 = ((s.setTns { s.tns with todo := l }).convertTile c (closingUs n) hits).fillDone := by
  simp only [State.convertSome, State.convertTiles, hi, ht, if_true]

theorem exec_tickWorkReady_waits (ha : s.awake = true) (hn : s.tns.next = some n) (hw : s.tns.working = true) (hi : s.cv.inits ≠ 0) (k : Nat)
    (hits : List MemHit) : exec (.tickWorkReady k hits) s = .next s := by
  rw [exec_tickWorkReady ha hn, if_pos hw, State.convertSome, if_neg hi, ite_self]

theorem DenseFrame.fillDone (a : DenseFrame ks s t) : DenseFrame ks s t.fillDone := a.modifyWork _

theorem exec_tickWorkReady_tile {c : ConvTile} {l : List ConvTile} (ha : s.awake = true) (hn : s.tns.next = some n) (hw : s.tns.working = true)
    (ht : s.tns.todo = c :: l) (hi : s.cv.inits = 0) (hm : s.memOpen = true) (hits : List MemHit) : exec (.tickWorkReady 1 hits) s =
      .next ((s.setTns { s.tns with todo := l }).convertTile c (closingUs n) hits).fillDone := by
  rw [exec_tickWorkReady ha hn, if_neg (by simp [hm]), if_pos hw, State.convertSome_one hi ht]

/-- TICK_WORK_READY converts the first tile that waits, by the bins of its pixels (R137, R161, R522). -/
theorem exec_tickWorkReady_converts {c : ConvTile} {l : List ConvTile} (ha : s.awake = true) (hn : s.tns.next = some n) (hw : s.tns.working = true)
    (ht : s.tns.todo = c :: l) (hi : s.cv.inits = 0) (hm : s.memOpen = true) (hc : c.layer < s.layers.length)
    (hsel : (s.layer c.layer).canvasSel.length ≤ (s.layer c.layer).outC) (hwidth : s.width c.port ≤ (s.layer c.layer).outW) (hits : List MemHit) :
    ∃ t : State, exec (.tickWorkReady 1 hits) s = .next t ∧ t.tns.todo = l ∧ t.cv = s.cv ∧ (∀ j, j ≠ c.layer → t.layer j = s.layer j)
      ∧ (hits = [] → s.cv.bad = [] → s.keepsRegs t [R.cntHemConv.key] ∧ ∀ a ∈ s.tilePixels c.port c.tx c.ty, ∀ q ∈ (s.layer c.layer).canvasSel.zipIdx,
          (c.whole = true ∨ bit c.mask (elementBit a.1 a.2 q.1.2) = true) → (s.layer c.layer).port = c.port →
          (a.2 * (s.layer c.layer).outW + a.1) * (s.layer c.layer).outC + q.2 < (s.layer c.layer).act.length →
          (t.layer c.layer).act.getD ((a.2 * (s.layer c.layer).outW + a.1) * (s.layer c.layer).outC + q.2) 0
            = (s.layer c.layer).binValue q.1.1 (s.binAt (s.pixel c.port a.1 a.2) q.1.2 ((n + 1) * 25))) := by
  have hwork := (s.setTns { s.tns with todo := l }).convertTile_work c (closingUs n) hits
  refine ⟨_, exec_tickWorkReady_tile ha hn hw ht hi hm hits, hwork.toDenseFrame.fillDone.todo, hwork.toDenseFrame.fillDone.cv, fun j hj => ?_, ?_⟩
  · rw [State.layer_fillDone, hwork.others j hj, State.layer_setTodo]
  · rintro rfl hbad
    have hclean := State.convertTile_clean_work (s := s.setTns { s.tns with todo := l }) hbad c (closingUs n)
    refine ⟨hclean.toDenseFrame.fillDone.regs, fun a hta q hq hmask hport hlen => ?_⟩
    rw [State.layer_fillDone]
    refine (State.convertTile_planeAt (s := s.setTns { s.tns with todo := l }) hbad hc hsel hwidth hta hq hmask hlen (closingUs n)).trans ?_
    rw [← hport]
    rfl

/-! ### Work that becomes ready (R146, R152, R398) -/

/-- The register fields that place the tiles of the first eight ports lie apart from the count of abandoned slices. -/
theorem tileFields_apart {p : Nat} (hp : p < 8) : ∀ x ∈ R.srfRegionB0En p :: placeFields p, x.key ∉ [R.cntSliceAbandon.key] := by
  interval_cases p <;> decide

/-- The tiles of a tick depend on the worked set, on what was delivered, on the dies and on the regions. -/
theorem State.tickTiles_congr (hregs : s.keepsRegs t [R.cntSliceAbandon.key]) (hparked : t.err.parked = s.err.parked) (hset : t.workSet = s.workSet)
    (hwhole : t.tns.whole = s.tns.whole) (hinbox : t.tns.inbox = s.tns.inbox) (n : Nat) : t.tickTiles n = s.tickTiles n := by
  have hlayers : t.layers = s.layers := by
    unfold State.layers
    rw [hset]
  have hoff (d : Nat) : t.offline d = s.offline d := by
    unfold State.offline State.dieOff
    rw [hregs R.errOfflineDies (by decide), hparked]
  have hcanvas (p : Nat) : t.canvasLayers p = s.canvasLayers p := by
    unfold State.canvasLayers State.live State.layerIdx State.layer
    simp only [hlayers, hoff]
  have hplace {p : Nat} (hp : p < 8) (x : Fld) (hx : x ∈ R.srfRegionB0En p :: placeFields p) : t.get x = s.get x := hregs x (tileFields_apart hp x hx)
  have hon {p : Nat} (hp : p ∈ List.range 8) : t.regionOn p = s.regionOn p :=
    State.flag_of_get (hplace (List.mem_range.1 hp) _ List.mem_cons_self)
  have htiles {p : Nat} (hp : p ∈ (List.range 8).filter s.regionOn) : t.tilesX p = s.tilesX p ∧ t.tilesY p = s.tilesY p := by
    have h (x : Fld) (hx : x ∈ placeFields p) := hplace (List.mem_range.1 (List.mem_filter.1 hp).1) x (List.mem_cons_of_mem _ hx)
    unfold State.tilesX State.tilesY
    rw [State.width_congr h, State.height_congr h]
    exact ⟨rfl, rfl⟩
  unfold State.tickTiles
  rw [hset, hwhole, hinbox, List.filter_congr fun p hp => hon hp,
    List.flatMap_congr (l := (List.range 8).filter s.regionOn) fun p hp => by rw [hcanvas, (htiles hp).1, (htiles hp).2]]
  simp only [hcanvas]

/-- Marking the layers that run with a threshold changes nothing else but what shows it (R131). -/
theorem State.taintAll_frame (s : State) (n : Nat) : ∃ (u : State) (b : Bool), DenseFrame [R.tnsGauzeTaintAny.key] s u ∧ u.packets = s.packets
    ∧ s.taintAll n = u.setTns { u.tns with gauzeSeen := b } := by
  unfold State.taintAll
  extract_lets s1
  have h1 : DenseFrame [] s s1 ∧ s1.packets = s.packets := by
    refine State.each_keeps (fun u => DenseFrame [] s u ∧ u.packets = s.packets) (fun u j hu => ?_) ⟨DenseFrame.refl _ s, rfl⟩
    dsimp only
    split
    · exact ⟨hu.1.setLayer _ _, (u.packets_setLayer _ _).trans hu.2⟩
    · exact hu
  exact ⟨_, _, (h1.1.mono (List.nil_subset _)).set List.mem_cons_self _, h1.2, rfl⟩

theorem State.convertSome_none (s : State) (n : Nat) (hits : List MemHit) :
    DenseFrame [] s (s.convertSome n hits 0) ∧ (s.convertSome n hits 0).packets = s.packets := by
  unfold State.convertSome
  split
  · exact ⟨(DenseFrame.refl [] s).fillDone, s.packets_fillDone⟩
  · exact ⟨DenseFrame.refl _ s, rfl⟩

/-- Slices abandoned, and issue started where none ran: what the work of a tick begins from. -/
def State.fromSlices (s : State) : State := s.abandonSlices.when (!s.abandonSlices.tns.busy) (·.startIssue)

theorem State.fromSlices_same {α : Type} (part : State → α) (h : ∀ u : State, part u.startIssue = part u) (s : State) :
    part s.fromSlices = part s.abandonSlices := State.when_same part (h _) _

theorem State.fromSlices_tickTiles (s : State) (n : Nat) : s.fromSlices.tickTiles n = s.tickTiles n := by
  obtain ⟨-, -, hregs⟩ := s.abandonSlices_spec
  refine State.tickTiles_congr (fun x hx => ?_) ?_ ?_ ?_ ?_ n
  · exact (State.fromSlices_same (·.get x) (fun _ => rfl) s).trans (hregs x hx)
  · exact State.fromSlices_same (·.err.parked) (fun _ => rfl) s
  · exact State.fromSlices_same State.workSet (fun _ => rfl) s
  · exact State.fromSlices_same (·.tns.whole) (fun _ => rfl) s
  · exact State.fromSlices_same (·.tns.inbox) (fun _ => rfl) s

theorem State.tickReady_iff (s : State) (n : Nat) : s.tickReady n = true ↔ (n + 1) * 25000 ≤ s.now ∧ s.offline 2 = false ∧ s.offline 3 = false
    ∧ SMap.get s.tns.delivered 0 n = 255 ∧ s.late n = false := by
  have hreached : s.reached ((n + 1) * tickNs) = decide ((n + 1) * 25000 ≤ s.now) := rfl
  simp only [State.tickReady, State.allDelivered, hreached, dieMsd0, dieMsd1, Bool.and_eq_true, Bool.not_eq_true', decide_eq_true_eq, beq_iff_eq,
    and_assoc]

/-- The dense path with the work of tick `n` begun on the tiles `l` (R146). -/
def Dense.begun (d : Dense) (n : Nat) (l : List ConvTile) : Dense :=
  { d with working := true, busy := false, todo := l, inbox := d.inbox.filter (fun x => x.tick != n), delivered := SMap.del n d.delivered,
           dppDone := [], dets := [] }

theorem State.beginTick_frame (s : State) (n : Nat) : ∃ (u : State) (b : Bool),
    DenseFrame [R.tnsGauzeTaintAny.key] (s.fromSlices.setTns (s.fromSlices.tns.begun n (s.tickTiles n))) u ∧ u.packets = s.packets
      ∧ s.beginTick n = u.setTns { u.tns with gauzeSeen := b } := by
  have hcarried := (DenseFrame.refl [] s.fromSlices).modifyWork fun c => { c with carried := [] }
  have hworked : (s.fromSlices.setCarried []).tns = s.fromSlices.tns := by
    unfold State.setCarried State.modifyWork
    split <;> rfl
  have hpackets : ((s.fromSlices.setCarried []).setTns (s.fromSlices.tns.begun n (s.tickTiles n))).packets = s.packets := calc
    _ = (s.fromSlices.setCarried []).packets := by
      unfold State.packets State.workSet State.workActive
      rw [hworked]
      rfl
    _ = s.fromSlices.packets := s.fromSlices.packets_modifyWork fun _ => rfl
    _ = s.packets := State.fromSlices_same State.packets (fun _ => rfl) s
  obtain ⟨u, b, hu, hup, heq⟩ := ((s.fromSlices.setCarried []).setTns (s.fromSlices.tns.begun n (s.tickTiles n))).taintAll_frame n
  have hstart : DenseFrame [R.tnsGauzeTaintAny.key] (s.fromSlices.setTns (s.fromSlices.tns.begun n (s.tickTiles n)))
      ((s.fromSlices.setCarried []).setTns (s.fromSlices.tns.begun n (s.tickTiles n))) :=
    ⟨hcarried.regs.mono (List.nil_subset _), hcarried.time, hcarried.cv, hcarried.pwr, hcarried.parked, rfl⟩
  refine ⟨u, b, hstart.trans hu, hup.trans hpackets, ?_⟩
  rw [← heq, ← s.fromSlices_tickTiles]
  rfl

/-- What the start from the slices is worth to the work of a tick. -/
theorem State.fromSlices_spec (s : State) : s.keepsRegs s.fromSlices [R.cntSliceAbandon.key]
    ∧ s.fromSlices.get R.cntSliceAbandon = (s.get R.cntSliceAbandon + (b2n s.tns.check.running + b2n s.tns.refresh.running)) % 2 ^ 32
    ∧ s.fromSlices.tns = s.abandonSlices.tns
    ∧ (s.abandonSlices.tns.busy = false → s.fromSlices.pwr.permit = [(0, 0, s.now), (1, 0, s.now)]) := by
  obtain ⟨-, -, hregs⟩ := s.abandonSlices_spec
  refine ⟨fun x hx => (State.fromSlices_same (·.get x) (fun _ => rfl) s).trans (hregs x hx), ?_,
    State.fromSlices_same (·.tns) (fun _ => rfl) s, fun h => ?_⟩
  · exact (State.fromSlices_same (·.get R.cntSliceAbandon) (fun _ => rfl) s).trans (State.get_set_same _ _ _)
  · rw [State.fromSlices, h]
    rfl

theorem exec_tickWorkReady_begins (ha : s.awake = true) (hn : s.tns.next = some n) (hw : s.tns.working = false) (hm : s.memOpen = true)
    (hits : List MemHit) (hr : s.tickReady n = true) :
    ∃ t : State, exec (.tickWorkReady 0 hits) s = .next t ∧ t.tns.working = true ∧ t.tns.next = some n ∧ t.tns.todo = s.tickTiles n
        ∧ t.tns.check.running = false ∧ t.tns.refresh.running = false ∧ t.packets = s.packets ∧ t.tns.busy = false
        ∧ (s.tns.busy = false → s.tns.check.running = false → s.tns.refresh.running = false → t.pwr.permit = [(0, 0, s.now), (1, 0, s.now)])
        ∧ t.get R.cntSliceAbandon = (s.get R.cntSliceAbandon + (if s.tns.check.running then 1 else 0) + (if s.tns.refresh.running then 1 else 0)) % 2 ^ 32
        ∧ s.keepsRegs t [R.cntSliceAbandon.key, R.tnsGauzeTaintAny.key] := by
  obtain ⟨u, b, hu, hpackets, hbegin⟩ := s.beginTick_frame n
  obtain ⟨hregs, hcount, htns, hpermit⟩ := s.fromSlices_spec
  obtain ⟨hend, hendPackets⟩ := (s.beginTick n).convertSome_none n hits
  have hexec : exec (.tickWorkReady 0 hits) s = .next ((s.beginTick n).convertSome n hits 0) := by
    rw [exec_tickWorkReady ha hn, if_neg (by simp [hm]), if_neg (by simp [hw]), if_pos hr]
  have hpart {α : Type} (part : Dense → α) (h : ∀ d : Dense, part d.unnoted = part d) (hg : ∀ (d : Dense) b, part { d with gauzeSeen := b } = part d) :
      part ((s.beginTick n).convertSome n hits 0).tns = part (s.abandonSlices.tns.begun n (s.tickTiles n)) := by
    rw [← h, hend.tns, h, hbegin, ← htns]
    exact (hg _ b).trans (((h _).symm.trans (congrArg part hu.tns)).trans (h _))
  generalize ht : (s.beginTick n).convertSome n hits 0 = t at hexec hpart hend hendPackets
  refine ⟨t, hexec, hpart (·.working) (fun _ => rfl) (fun _ _ => rfl), (hpart (·.next) (fun _ => rfl) (fun _ _ => rfl)).trans hn,
    hpart (·.todo) (fun _ => rfl) (fun _ _ => rfl), hpart (·.check.running) (fun _ => rfl) (fun _ _ => rfl),
    hpart (·.refresh.running) (fun _ => rfl) (fun _ _ => rfl), ?_, hpart (·.busy) (fun _ => rfl) (fun _ _ => rfl), fun hb hc hf => ?_, ?_, ?_⟩
  · exact hendPackets.trans ((congrArg State.packets hbegin).trans hpackets)
  · rw [hend.pwr, hbegin]
    exact (congrArg Power.permit hu.pwr).trans (hpermit (by simp [State.abandonSlices, State.setTns, hb, hc, hf, b2n]))
  · rw [hend.get (List.not_mem_nil), hbegin]
    refine (hu.get (by decide)).trans (hcount.trans ?_)
    rw [Nat.add_assoc]
    rfl
  · refine .trans (fun x hx => ?_) (hend.regs.mono (List.nil_subset _))
    rw [hbegin]
    exact (hu.get (fun h => hx (List.mem_cons_of_mem _ h))).trans (hregs x fun h => hx (by rw [List.mem_singleton.1 h]; exact List.mem_cons_self))

end Sys2Proof.Machine
end

section
/-! SUPPORT. Ticks completed, cut and drained (R142, R147, R149, R150). -/

namespace Sys2Proof.Machine

variable {s t u : State} {n : Nat}

/-! ### Ticks completed and cut (R142, R147, R149) -/

theorem State.trace_aside (s : State) (die source unit arg data : Nat) : DenseAside [R.cntTraceDrop.key] s (s.trace die source unit arg data) := by
  unfold State.trace
  split
  · dsimp only
    split
    · exact (DenseAside.refl _ s).obs _
    · exact ((DenseAside.refl _ s).set List.mem_cons_self _).obs _
  · exact DenseAside.refl _ s

theorem State.condition_aside (s : State) (k : Nat) : DenseAside [] s (s.condition k) := by
  unfold State.condition
  split
  · exact (DenseAside.refl _ s).obs _
  · exact DenseAside.refl _ s

/-- What a cut keeps of a set for the next tick: layers, packets on their way and carried tiles. -/
def ConfigSet.held (c : ConfigSet) : List LayerSt × List DeltaPacket × List ConvTile := (c.layers, c.packets, c.carried)

theorem State.held_modifyWork (s : State) {f : ConfigSet → ConfigSet} (h : ∀ c, (f c).held = c.held) :
    (s.modifyWork f).active.map ConfigSet.held = s.active.map ConfigSet.held
      ∧ (s.modifyWork f).shadow.map ConfigSet.held = s.shadow.map ConfigSet.held := by
  have hmap (o : Option ConfigSet) : (o.map f).map ConfigSet.held = o.map ConfigSet.held := by
    rw [Option.map_map]
    exact congrArg (Option.map · o) (funext h)
  unfold State.modifyWork
  split
  · exact ⟨hmap _, rfl⟩
  · exact ⟨rfl, hmap _⟩

/-- The end of a tick fills every group and notes the layer that produced NaN; what the sets hold stays. -/
theorem State.endWork_frame (s : State) : DenseFrame unitKeys s s.fillAll.endUnit
    ∧ s.fillAll.endUnit.active.map ConfigSet.held = s.active.map ConfigSet.held
    ∧ s.fillAll.endUnit.shadow.map ConfigSet.held = s.shadow.map ConfigSet.held := by
  have hend := s.fillAll.endUnit_aside
  obtain ⟨hactive, hshadow⟩ := s.held_modifyWork (f := fun c => c.fill (fun _ => true) false) fun _ => rfl
  refine ⟨((DenseFrame.refl unitKeys s).modifyWork _).trans hend.toDenseFrame, ?_, ?_⟩
  · rw [hend.active]
    exact hactive
  · rw [hend.shadow]
    exact hshadow

/-- The result of a completed tick. -/
def State.fullResult (s : State) : TickResult :=
  { done := true, gauze := s.tns.gauzeSeen, dets := s.tns.dets, head := s.headValues, headPoison := s.headPoisoned }

/-- A tick ended with its work done, but for the trace. -/
def State.completed (s : State) (n : Nat) : State :=
  ((((s.endTick n s.fullResult).inc R.cntTickDone).set R.tnsSlackLastNs (s.deadline n - s.now)).set R.tnsDeltaStatusCutStreak 0).startSlices n

theorem exec_tickComplete (ha : s.awake = true) (hn : s.tns.next = some n) (hw : s.tns.working = true) :
    exec .tickComplete s = .next (if s.workDone = true ∧ s.now ≤ s.deadline n then (s.completed n).traceTick n false else s) := by
  change execTickComplete s = _
  simp only [execTickComplete, State.clocked_awake ha, hn, hw, Bool.true_and, Bool.and_eq_true, decide_eq_true_eq]
  rfl

theorem State.get_startSlices (s : State) (n : Nat) (x : Fld) : (s.startSlices n).get x = s.get x := rfl

theorem State.keepsRegs_endTick (s : State) (n : Nat) (r : TickResult) : s.keepsRegs (s.endTick n r) unitKeys := s.endWork_frame.1.regs

theorem State.completed_regs (s : State) (n : Nat) : (s.completed n).get R.cntTickDone = (s.get R.cntTickDone + 1) % 2 ^ 32
    ∧ (s.completed n).get R.tnsSlackLastNs = (s.deadline n - s.now) % 2 ^ 32 ∧ (s.completed n).get R.tnsDeltaStatusCutStreak = 0
    ∧ s.keepsRegs (s.completed n) [R.cntTickDone.key, R.tnsSlackLastNs.key, R.tnsDeltaStatusCutStreak.key, R.tnsArithNanLayerLayer.key,
        R.tnsArithNanLayerValid.key, R.cntTraceDrop.key] := by
  have hend := s.keepsRegs_endTick n s.fullResult
  generalize hu : s.endTick n s.fullResult = u at hend
  simp only [State.completed, State.get_startSlices, hu]
  refine ⟨?_, ?_, ?_, fun x hx => ?_⟩
  · rw [State.get_set_other _ (g := R.cntTickDone) (by decide), State.get_set_other _ (g := R.cntTickDone) (by decide), State.get_inc_same,
      hend R.cntTickDone (by decide)]
    rfl
  · rw [State.get_set_other _ (g := R.tnsSlackLastNs) (by decide), State.get_set_same]
    rfl
  · rw [State.get_set_same]
    rfl
  · simp only [List.mem_cons, List.not_mem_nil, or_false, not_or] at hx
    obtain ⟨hdone, hslack, hstreak, hlayer, hvalid, -⟩ := hx
    rw [State.get_startSlices, State.get_set_other _ hstreak, State.get_set_other _ hslack, State.get_inc_other _ hdone,
      hend x (by simp [unitKeys, hlayer, hvalid])]

theorem exec_tickComplete_done (ha : s.awake = true) (hn : s.tns.next = some n) (hw : s.tns.working = true) (hd : s.workDone = true)
    (hle : s.now ≤ s.deadline n) : ∃ t : State, exec .tickComplete s = .next t ∧ t.tns.next = some (n + 1) ∧ t.tns.working = false ∧ t.tns.carry = false
        ∧ (∃ r, SMap.find? n t.tns.results = some r ∧ r.done = true ∧ r.dets = s.tns.dets ∧ r.gauze = s.tns.gauzeSeen)
        ∧ t.get R.cntTickDone = (s.get R.cntTickDone + 1) % 2 ^ 32 ∧ t.get R.tnsSlackLastNs = (s.deadline n - s.now) % 2 ^ 32
        ∧ t.get R.tnsDeltaStatusCutStreak = 0 ∧ t.active.map ConfigSet.held = s.active.map ConfigSet.held
        ∧ t.shadow.map ConfigSet.held = s.shadow.map ConfigSet.held
        ∧ s.keepsRegs t [R.cntTickDone.key, R.tnsSlackLastNs.key, R.tnsDeltaStatusCutStreak.key, R.tnsArithNanLayerLayer.key,
            R.tnsArithNanLayerValid.key, R.cntTraceDrop.key] := by
  obtain ⟨hdone, hslack, hstreak, hregs⟩ := s.completed_regs n
  obtain ⟨-, hactive, hshadow⟩ := s.endWork_frame
  have htrace : DenseAside [R.cntTraceDrop.key] (s.completed n) ((s.completed n).traceTick n false) := State.trace_aside ..
  refine ⟨_, (exec_tickComplete ha hn hw).trans (by rw [if_pos ⟨hd, hle⟩]), (congrArg Dense.next htrace.tns :), (congrArg Dense.working htrace.tns :),
    (congrArg Dense.carry htrace.tns :), ⟨s.fullResult, ?_, rfl, rfl, rfl⟩, (htrace.get (by decide)).trans hdone, (htrace.get (by decide)).trans hslack,
    (htrace.get (by decide)).trans hstreak, ?_, ?_, hregs.trans (htrace.regs.mono (by simp))⟩
  · have hresults : ((s.completed n).traceTick n false).tns.results = SMap.put n s.fullResult s.tns.results := (congrArg Dense.results htrace.tns :)
    rw [hresults, SMap.find?_put_same]
  · rw [htrace.active]
    exact hactive
  · rw [htrace.shadow]
    exact hshadow

/-- A tick that is worked, cut: its tiles carried over, its result empty. -/
def State.cutTick (s : State) (n : Nat) : State :=
  let s1 := (s.setCarried s.tns.todo).endTick n { gauze := s.tns.gauzeSeen }
  s1.setTns { s1.tns with todo := [], carry := true }

/-- What a cut counts and shows (R147, R158, R474). -/
def State.showCut (s : State) (n streak : Nat) : State :=
  ((((s.inc R.cntTickCut).setFlag R.tnsDeltaStatusCut true).set R.tnsDeltaStatusCutStreak streak).set R.tnsLastCutTickTick n).condition 2

theorem exec_tickCut (ha : s.awake = true) (hn : s.tns.next = some n) (hw : s.tns.working = true) : exec .tickCut s = .next
    (if s.deadline n ≤ s.now ∧ s.workDone = false ∧ (s.run = runRunning ∨ n < s.get R.hifStopTickTick) then
      ((s.cutTick n).showCut n (min 255 (s.get R.tnsDeltaStatusCutStreak + 1))).traceTick n true else s) := by
  change execTickCut s = _
  simp only [execTickCut, State.clocked_awake ha, hn, hw, Bool.true_and, Bool.and_eq_true, decide_eq_true_eq, State.reached, Bool.not_eq_true',
    if_true, and_assoc]
  rfl

theorem State.held_setCarried (s : State) (l : List ConvTile) :
    (s.setCarried l).active.map ConfigSet.held = (if s.workActive then s.active.map fun c => (c.layers, c.packets, l) else s.active.map ConfigSet.held)
      ∧ (s.setCarried l).shadow.map ConfigSet.held
        = (if s.workActive then s.shadow.map ConfigSet.held else s.shadow.map fun c => (c.layers, c.packets, l)) := by
  unfold State.setCarried State.modifyWork
  split
  · exact ⟨Option.map_map .., rfl⟩
  · exact ⟨rfl, Option.map_map ..⟩

theorem State.cutTick_sets (s : State) (n : Nat) :
    (s.cutTick n).active.map ConfigSet.held
        = (if s.workActive then s.active.map fun c => (c.layers, c.packets, s.tns.todo) else s.active.map ConfigSet.held)
      ∧ (s.cutTick n).shadow.map ConfigSet.held
        = (if s.workActive then s.shadow.map ConfigSet.held else s.shadow.map fun c => (c.layers, c.packets, s.tns.todo)) := by
  obtain ⟨-, hactive, hshadow⟩ := (s.setCarried s.tns.todo).endWork_frame
  obtain ⟨hcarriedA, hcarriedS⟩ := s.held_setCarried s.tns.todo
  exact ⟨hactive.trans hcarriedA, hshadow.trans hcarriedS⟩

theorem State.cutTick_keepsRegs (s : State) (n : Nat) : s.keepsRegs (s.cutTick n) unitKeys :=
  (((DenseFrame.refl unitKeys s).modifyWork _).trans (s.setCarried s.tns.todo).endWork_frame.1).regs

theorem State.setCarried_tns (s : State) (l : List ConvTile) : (s.setCarried l).tns = s.tns := by
  unfold State.setCarried State.modifyWork
  split <;> rfl

theorem State.cutTick_results (s : State) (n : Nat) : (s.cutTick n).tns.results = SMap.put n { gauze := s.tns.gauzeSeen } s.tns.results :=
  congrArg (fun d : Dense => SMap.put n ({ gauze := s.tns.gauzeSeen } : TickResult) d.results) (s.setCarried_tns s.tns.todo)

/-- The registers of a cut, and nothing but registers and observation. -/
theorem State.showCut_aside (s : State) (n streak : Nat) :
    DenseAside [R.cntTickCut.key, R.tnsDeltaStatusCut.key, R.tnsDeltaStatusCutStreak.key, R.tnsLastCutTickTick.key] s (s.showCut n streak) :=
  (((((DenseAside.refl _ s).set (f := R.cntTickCut) (by decide) _).set (f := R.tnsDeltaStatusCut) (by decide) _).set (f := R.tnsDeltaStatusCutStreak)
    (by decide) _).set (f := R.tnsLastCutTickTick) (by decide) _).trans ((State.condition_aside _ 2).mono (List.nil_subset _))

theorem State.showCut_regs (s : State) (n streak : Nat) : (s.showCut n streak).get R.cntTickCut = (s.get R.cntTickCut + 1) % 2 ^ 32
    ∧ (s.showCut n streak).get R.tnsDeltaStatusCut = 1 ∧ (s.showCut n streak).get R.tnsDeltaStatusCutStreak = streak % 256
    ∧ (s.showCut n streak).get R.tnsLastCutTickTick = n % 2 ^ 64 := by
  have hcond (u : State) (x : Fld) : (u.condition 2).get x = u.get x := (u.condition_aside 2).get List.not_mem_nil
  unfold State.showCut
  refine ⟨?_, ?_, ?_, ?_⟩
  · rw [hcond, State.get_set_other _ (g := R.cntTickCut) (by decide), State.get_set_other _ (g := R.cntTickCut) (by decide),
      State.get_setFlag_other _ (by decide), State.get_inc_same]
    rfl
  · rw [hcond, State.get_set_other _ (g := R.tnsDeltaStatusCut) (by decide), State.get_set_other _ (g := R.tnsDeltaStatusCut) (by decide),
      State.get_setFlag_same _ _ _ (by decide)]
    rfl
  · rw [hcond, State.get_set_other _ (g := R.tnsDeltaStatusCutStreak) (by decide), State.get_set_same]
    rfl
  · rw [hcond, State.get_set_same]
    rfl

theorem exec_tickCut_cuts (ha : s.awake = true) (hn : s.tns.next = some n) (hw : s.tns.working = true) (hd : s.workDone = false)
    (hle : s.deadline n ≤ s.now) (hrun : s.run = 2) : ∃ t : State, exec .tickCut s = .next t ∧ t.tns.next = some (n + 1) ∧ t.tns.working = false
        ∧ t.tns.carry = true ∧ (∃ r, SMap.find? n t.tns.results = some r ∧ r.done = false ∧ r.dets = []) ∧ t.tns.todo = []
        ∧ t.active.map ConfigSet.held
          = (if s.workActive then s.active.map fun c => (c.layers, c.packets, s.tns.todo) else s.active.map ConfigSet.held)
        ∧ t.shadow.map ConfigSet.held
          = (if s.workActive then s.shadow.map ConfigSet.held else s.shadow.map fun c => (c.layers, c.packets, s.tns.todo))
        ∧ t.get R.cntTickCut = (s.get R.cntTickCut + 1) % 2 ^ 32 ∧ t.get R.tnsDeltaStatusCut = 1
        ∧ t.get R.tnsDeltaStatusCutStreak = min 255 (s.get R.tnsDeltaStatusCutStreak + 1) ∧ t.get R.tnsLastCutTickTick = n % 2 ^ 64 := by
  obtain ⟨hactive, hshadow⟩ := s.cutTick_sets n
  obtain ⟨hcount, hcut, hstreak, hlast⟩ := (s.cutTick n).showCut_regs n (min 255 (s.get R.tnsDeltaStatusCutStreak + 1))
  have hshow := (s.cutTick n).showCut_aside n (min 255 (s.get R.tnsDeltaStatusCutStreak + 1))
  have hexec := (exec_tickCut ha hn hw).trans (by rw [if_pos ⟨hle, hd, .inl hrun⟩])
  generalize (s.cutTick n).showCut n (min 255 (s.get R.tnsDeltaStatusCutStreak + 1)) = u at *
  have htrace : DenseAside [R.cntTraceDrop.key] u (u.traceTick n true) := State.trace_aside ..
  have htns : (u.traceTick n true).tns.unnoted = (s.cutTick n).tns.unnoted := htrace.tns.trans hshow.tns
  have hresults : (u.traceTick n true).tns.results = SMap.put n { gauze := s.tns.gauzeSeen } s.tns.results :=
    (congrArg Dense.results htns :).trans (s.cutTick_results n)
  refine ⟨_, hexec, (congrArg Dense.next htns :), (congrArg Dense.working htns :), (congrArg Dense.carry htns :),
    ⟨{ gauze := s.tns.gauzeSeen }, by rw [hresults, SMap.find?_put_same], rfl, rfl⟩, (congrArg Dense.todo htns :),
    by rw [htrace.active, hshow.active, hactive], by rw [htrace.shadow, hshow.shadow, hshadow], ?_, (htrace.get (by decide)).trans hcut, ?_,
    (htrace.get (by decide)).trans hlast⟩
  · rw [htrace.get (by decide), hcount, s.cutTick_keepsRegs n R.cntTickCut (by decide)]
  · rw [htrace.get (by decide), hstreak, Nat.mod_eq_of_lt (by omega)]

/-! ### The drain (R150) -/

/-- The register fields that the drain of a layer may change. -/
def drainKeys : List Nat := R.cntDieDiscard.key :: workKeys

theorem State.receive_frame (s : State) (k : DeltaPacket) : DenseFrame drainKeys s (s.receive k) := by
  unfold State.receive
  dsimp only
  split
  · exact (DenseFrame.refl _ s).set List.mem_cons_self _
  · exact (DenseFrame.refl _ s).setLayer _ _

theorem State.receiveAll_frame (s : State) (i : Nat) : DenseFrame drainKeys s (s.receiveAll i) :=
  ((DenseFrame.refl _ s).modifyWork _).each fun u k => u.receive_frame k

theorem State.finishLayer_frame (s : State) (i : Nat) : DenseFrame drainKeys s (s.finishLayer i) := by
  unfold State.finishLayer
  extract_lets s1
  split
  · exact (s.receiveAll_frame i).trans ((s1.evaluateLayer_frame i _).mono (List.subset_cons_self _ _))
  · exact s.receiveAll_frame i

/-- The dense path but for the tiles to convert and the layer noted for NaN. -/
def Dense.unqueued (d : Dense) : Dense := { d with nanUnit := none, todo := [] }

theorem Dense.unqueued_of_unnoted {d e : Dense} (h : d.unnoted = e.unnoted) : d.unqueued = e.unqueued :=
  (congrArg (fun x : Dense => ({ x with todo := [] } : Dense)) h :)

/-- Tiles converted leave the queue; the rest of the dense path and the other registers stay. -/
theorem State.convertTiles_frame (n : Nat) (hits : List MemHit) (k : Nat) (s : State) : s.keepsRegs (s.convertTiles n hits k) convertKeys
    ∧ (s.convertTiles n hits k).tns.todo = s.tns.todo.drop k ∧ (s.convertTiles n hits k).tns.unqueued = s.tns.unqueued := by
  induction k generalizing s with
  | zero => exact ⟨s.keepsRegs_refl _, rfl, rfl⟩
  | succ k ih =>
    cases ht : s.tns.todo with
    | nil =>
      rw [State.convertTiles, ht]
      exact ⟨s.keepsRegs_refl _, ht, rfl⟩
    | cons c l =>
      have hwork := ((s.setTns { s.tns with todo := l }).convertTile_work c (closingUs n) hits).toDenseFrame
      obtain ⟨hregs, htodo, hrest⟩ := ih ((s.setTns { s.tns with todo := l }).convertTile c (closingUs n) hits)
      rw [State.convertTiles, ht]
      refine ⟨State.keepsRegs.trans hwork.regs hregs, ?_, ?_⟩
      · rw [htodo, hwork.todo]
        rfl
      · rw [hrest, Dense.unqueued_of_unnoted hwork.tns]
        rfl

/-- The work that a drain does before it counts itself. -/
def State.drainWork (s : State) : State :=
  let tiles := match s.workSet with | some c => c.carried | none => []
  let s1 := (s.setCarried []).setTns { s.tns with todo := tiles }
  ((s1.convertTiles (s.tns.next.getD 1 - 1) [] tiles.length).each s.layerIdx fun u i => u.finishLayer i).fillAll.endUnit

theorem exec_denseDrain (ha : s.awake = true) : exec .denseDrain s =
    .next (if s.mustDrain then (s.drainWork.setTns { s.drainWork.tns with carry := false }).inc R.cntDrain else s) := by
  change execDenseDrain s = _
  rw [execDenseDrain, State.clocked_awake ha]
  rfl

theorem State.drainWork_spec (s : State) : s.drainWork.get R.cntDrain = s.get R.cntDrain ∧ s.drainWork.tns.todo = []
    ∧ s.drainWork.tns.unqueued = s.tns.unqueued := by
  unfold State.drainWork
  extract_lets tiles _ s1
  obtain ⟨hregs, htodo, hrest⟩ := s1.convertTiles_frame (s.tns.next.getD 1 - 1) [] tiles.length
  generalize s1.convertTiles (s.tns.next.getD 1 - 1) [] tiles.length = s2 at *
  have hfinish : DenseFrame (unitKeys ++ drainKeys) s2 (s2.each s.layerIdx fun u i => u.finishLayer i).fillAll.endUnit :=
    (((DenseFrame.refl drainKeys s2).each fun u i => u.finishLayer_frame i).mono (List.subset_append_right _ _)).trans
      ((State.endWork_frame _).1.mono (List.subset_append_left _ _))
  have hstart : s.keepsRegs s1 [] := ((DenseFrame.refl [] s).modifyWork fun c => { c with carried := [] }).regs
  refine ⟨?_, ?_, ?_⟩
  · rw [hfinish.get (by decide), hregs _ (by decide), hstart _ List.not_mem_nil]
  · rw [hfinish.todo, htodo]
    exact List.drop_length
  · rw [Dense.unqueued_of_unnoted hfinish.tns, hrest]
    rfl

theorem exec_denseDrain_drains (ha : s.awake = true) (hm : s.mustDrain = true) : ∃ t : State, exec .denseDrain s = .next t ∧ t.tns.carry = false
    ∧ t.tns.todo = [] ∧ t.tns.next = s.tns.next ∧ t.tns.results = s.tns.results ∧ t.tns.dets = s.tns.dets
    ∧ t.get R.cntDrain = (s.get R.cntDrain + 1) % 2 ^ 32 := by
  obtain ⟨hcount, htodo, hrest⟩ := s.drainWork_spec
  refine ⟨(s.drainWork.setTns { s.drainWork.tns with carry := false }).inc R.cntDrain, by rw [exec_denseDrain ha, if_pos hm], rfl, htodo,
    (congrArg Dense.next hrest :), (congrArg Dense.results hrest :), (congrArg Dense.dets hrest :), ?_⟩
  rw [State.get_inc_same, ← hcount]
  rfl

end Sys2Proof.Machine
end

section
/-! SUPPORT and OBLIGATION. The boundary mark, and the order of dense ticks (R128, R404, R447, R467, R519). -/

namespace Sys2Proof.Machine

variable {s t u : State} {n : Nat}

/-! ### The boundary mark (R128, R404, R447, R467, R519) -/

/-- What a boundary mark goes by: deferred writes, control, time, and snapshots requested. -/
def State.timing (s : State) : List Deferred × Control × TimeState × List (Nat × Nat) := (s.deferred, s.ctl, s.time, s.obs.snaps)

theorem State.timing_each {α : Type} (s : State) (l : List α) {f : State → α → State} (h : ∀ u x, (f u x).timing = u.timing) :
    (s.each l f).timing = s.timing := State.each_keeps (fun u => u.timing = s.timing) (fun u x hu => (h u x).trans hu) rfl

theorem State.timing_when (s : State) (c : Bool) {f : State → State} (h : (f s).timing = s.timing) : (s.when c f).timing = s.timing :=
  State.when_same State.timing h c

theorem State.timing_writeFields (s : State) (lo : Nat) (fs : List FieldSpec) (v : Nat) : (s.writeFields lo fs v).timing = s.timing := by
  refine s.timing_each fs fun u f => ?_
  unfold State.writeField
  cases f.acc <;> rfl

theorem State.timing_releaseThr (s : State) (n : Nat) (w : Bool) : (s.releaseThr n w).timing = s.timing := by
  unfold State.releaseThr
  extract_lets t h s1
  split
  next => rfl
  next =>
    split
    · exact State.timing_when _ _ rfl
    · rfl

theorem State.timing_set (s : State) (f : Fld) (v : Nat) : (s.set f v).timing = s.timing := rfl

theorem State.timing_setSettled (s : State) (n : Nat) (b : Bool) : (s.setSettled n b).timing = s.timing := rfl

theorem State.timing_restart (s : State) (n : Nat) : (s.restart n).timing = s.timing := by
  have hthr : ((s.releaseThr n false).releaseThr n true).timing = s.timing :=
    ((s.releaseThr n false).timing_releaseThr n true).trans (s.timing_releaseThr n false)
  unfold State.restart State.thrOut State.setFlag
  dsimp only
  rw [State.timing_set, State.timing_set, State.timing_setSettled, State.inc, State.add, State.timing_set, ← hthr]
  rfl

theorem State.timing_takeDeferred (s : State) (d : Deferred) : (s.takeDeferred d).timing = s.timing := by
  unfold State.takeDeferred
  split
  next => exact (State.timing_when _ _ rfl).trans (s.timing_writeFields _ _ _)
  next =>
    split
    · exact State.timing_when _ _ (State.timing_restart _ _)
    · exact s.timing_writeFields _ _ _

theorem State.timing_takeDue (s : State) (due : Boundary → Bool) :
    (s.takeDue due).timing = (s.deferred.filter (fun d => !due d.due), s.ctl, s.time, s.obs.snaps) :=
  State.timing_each _ _ State.timing_takeDeferred

theorem State.timing_trace (s : State) (die source unit arg data : Nat) : (s.trace die source unit arg data).timing = s.timing := by
  unfold State.trace
  split
  · dsimp only
    split <;> rfl
  · rfl

/-! #### Gauze levels -/

/-- A step of a die's margin changes the power side alone. -/
theorem State.stepMargin_eq_setPwr (s : State) (d : Nat) : ∃ v, s.stepMargin d = s.setPwr v := by
  have hmark (u : State) : ∃ v, u.markThrottled d = u.setPwr v := by
    unfold State.markThrottled
    split
    · exact ⟨_, rfl⟩
    · exact ⟨u.pwr, rfl⟩
  obtain ⟨v, hv⟩ := hmark (s.setPwr { s.pwr with
    margin := SMap.set s.pwr.margin 0 d (if SMap.get s.pwr.throttled false d then min 16 (SMap.get s.pwr.margin 0 d + s.getIn R.pwrGauzePolMarginUp 0 16)
      else SMap.get s.pwr.margin 0 d - 1), throttled := SMap.set s.pwr.throttled false d false })
  exact ⟨v, hv⟩

theorem State.regs_stepMargin (s : State) (d : Nat) : (s.stepMargin d).regs = s.regs := by
  obtain ⟨v, hv⟩ := s.stepMargin_eq_setPwr d
  rw [hv]
  rfl

theorem State.timing_stepMargin (s : State) (d : Nat) : (s.stepMargin d).timing = s.timing := by
  obtain ⟨v, hv⟩ := s.stepMargin_eq_setPwr d
  rw [hv]
  rfl

theorem State.gauzeRule_le (s : State) (d : Nat) : s.gauzeRule d ≤ 16 := by
  have hclamp (z : Int) : (clampInt 0 16 z).toNat ≤ 16 := by
    unfold clampInt
    split
    · decide
    · split <;> omega
  unfold State.gauzeRule
  dsimp only
  split
  · exact Nat.zero_le _
  · split
    · exact Nat.le_refl _
    · exact hclamp _

theorem State.gauzeRule_disabled (h : s.flag R.tnsGauzeCtlDisable = true) (d : Nat) : s.gauzeRule d = 0 := by
  unfold State.gauzeRule
  dsimp only
  rw [if_pos h]

/-- What the levels of a mark are held to: the steps of both dies' margins. -/
def State.margins (s : State) : State := (s.stepMargin 0).stepMargin 1

theorem State.get_margins (s : State) (x : Fld) : s.margins.get x = s.get x :=
  State.get_of_regs (((s.stepMargin 0).regs_stepMargin 1).trans (s.regs_stepMargin 0)) x

/-- The levels shown and traced. -/
def State.showLevels (s : State) (a b : Nat) (moved : Bool) : State :=
  ((s.set R.tnsGauzeLevelLevelCd0 a).set R.tnsGauzeLevelLevelCd1 b).when moved fun s => s.tracePower 0 5 (a + 256 * b)

theorem State.showLevels_get (s : State) (a b : Nat) (moved : Bool) {x : Fld} (h : x.key ≠ R.cntTraceDrop.key) :
    (s.showLevels a b moved).get x = ((s.set R.tnsGauzeLevelLevelCd0 a).set R.tnsGauzeLevelLevelCd1 b).get x :=
  ((DenseAside.refl [R.cntTraceDrop.key] _).when moved fun _ hu => hu.trans (State.trace_aside ..)).get (by simpa using h)

theorem State.timing_showLevels (s : State) (a b : Nat) (moved : Bool) : (s.showLevels a b moved).timing = s.timing :=
  State.timing_when _ _ (State.timing_trace ..)

/-- The levels of tick `n` kept for its work, beside those of the last sixteen ticks. -/
def State.keepLevels (s : State) (n v : Nat) : State :=
  s.setTns { s.tns with levels := SMap.set (s.tns.levels.filter fun x => decide (n < x.1 + 16)) 0 n v }

theorem State.levels_keepLevels (s : State) (n v : Nat) : SMap.get (s.keepLevels n v).tns.levels 0 n = v := SMap.get_set_same _ _ _ _

theorem State.get_keepLevels (s : State) (n v : Nat) (x : Fld) : (s.keepLevels n v).get x = s.get x := rfl

theorem State.timing_keepLevels (s : State) (n v : Nat) : (s.keepLevels n v).timing = s.timing := rfl

theorem State.setGauze_eq (s : State) (n : Nat) : ∃ moved, s.setGauze n =
    (s.margins.showLevels (s.margins.gauzeRule 0) (s.margins.gauzeRule 1) moved).keepLevels n (s.margins.gauzeRule 0 + 32 * s.margins.gauzeRule 1) := by
  unfold State.setGauze State.keepLevels State.showLevels State.margins
  exact ⟨_, rfl⟩

/-- The levels of a mark stand in the registers and with the tick (R128, R404). -/
theorem State.setGauze_spec (s : State) (n : Nat) : (s.setGauze n).timing = s.timing
    ∧ (s.setGauze n).get R.tnsGauzeLevelLevelCd0 = s.margins.gauzeRule 0 ∧ (s.setGauze n).get R.tnsGauzeLevelLevelCd1 = s.margins.gauzeRule 1
    ∧ (s.setGauze n).get R.tnsGauzeCtlDisable = s.get R.tnsGauzeCtlDisable ∧ (s.setGauze n).get R.hifRunHold = s.get R.hifRunHold
    ∧ SMap.get (s.setGauze n).tns.levels 0 n = s.margins.gauzeRule 0 + 32 * s.margins.gauzeRule 1 := by
  obtain ⟨moved, hset⟩ := s.setGauze_eq n
  have hget {x : Fld} (hx : x.key ≠ R.cntTraceDrop.key) : (s.setGauze n).get x =
      ((s.margins.set R.tnsGauzeLevelLevelCd0 (s.margins.gauzeRule 0)).set R.tnsGauzeLevelLevelCd1 (s.margins.gauzeRule 1)).get x := by
    rw [hset, State.get_keepLevels, State.showLevels_get _ _ _ _ hx]
  refine ⟨?_, ?_, ?_, ?_, ?_, ?_⟩
  · rw [hset, State.timing_keepLevels, State.timing_showLevels]
    exact ((s.stepMargin 0).timing_stepMargin 1).trans (s.timing_stepMargin 0)
  · rw [hget (by decide), State.get_set_other _ (by decide), State.get_set_same]
    exact Nat.mod_eq_of_lt (Nat.lt_of_le_of_lt (s.margins.gauzeRule_le 0) (by decide))
  · rw [hget (by decide), State.get_set_same]
    exact Nat.mod_eq_of_lt (Nat.lt_of_le_of_lt (s.margins.gauzeRule_le 1) (by decide))
  · rw [hget (by decide), State.get_set_other _ (by decide), State.get_set_other _ (by decide), State.get_margins]
  · rw [hget (by decide), State.get_set_other _ (by decide), State.get_set_other _ (by decide), State.get_margins]
  · rw [hset, State.levels_keepLevels]

/-! #### Snapshots and what is traced -/

/-- Latching all counters changes no part that register writes leave alone. -/
theorem State.latchAll_same {α : Type} (part : State → α) (s : State) (n : Nat) (h : ∀ (u : State) d k v, part (u.set (R.dbgOpcCount d k) v) = part u)
    (ht : ∀ (u : State) v, part (u.set R.dbgOpcSnapTickTick v) = part u) : part (s.latchAll n) = part s :=
  (ht _ _).trans (State.each_keeps (fun u => part u = part s)
    (fun _ d hu => State.each_keeps (fun w => part w = part s) (fun w k hw => (h w d k _).trans hw) hu) rfl)

theorem State.latchPage_same {α : Type} (part : State → α) (s : State) (f n : Nat) (h : ∀ (u : State) k v, part (u.set (R.fnOpcCount f k) v) = part u)
    (ht : ∀ (u : State) v, part (u.set (R.fnOpcSnapTickTick f) v) = part u) : part (s.latchPage f n) = part s :=
  (ht _ _).trans (State.each_keeps (fun u => part u = part s) (fun u k hu => (h u k _).trans hu) rfl)

/-- What a snapshot of the list does: the device's latch, or a function's. -/
def State.latch1 (s : State) (n who : Nat) : State := if who = 0 then s.latchAll n else s.latchPage (who - 1) n

/-- A snapshot changes no part that register writes leave alone. -/
theorem State.latch1_same {α : Type} (part : State → α) (h : ∀ (u : State) f v, part (u.set f v) = part u) (s : State) (n who : Nat) :
    part (s.latch1 n who) = part s := by
  unfold State.latch1
  split
  · exact s.latchAll_same part n (fun u _ _ => h u _) fun u => h u _
  · exact s.latchPage_same part _ n (fun u _ => h u _) fun u => h u _

/-- Registers below the block of snapshots stay. -/
theorem State.get_latch1 (s : State) (n who : Nat) {x : Fld} (h : x.key < 0xa00000 * 64) : (s.latch1 n who).get x = s.get x := by
  have hset (u : State) {f : Fld} (hf : 0xa00000 * 64 ≤ f.key) (v : Nat) : (u.set f v).get x = u.get x := State.get_set_other u (by omega) v
  have hdev (d k : Nat) : 0xa00000 * 64 ≤ (R.dbgOpcCount d k).key := by simp only [R.dbgOpcCount, Fld.key]; omega
  have hpage (f k : Nat) : 0xa00000 * 64 ≤ (R.fnOpcCount f k).key := by simp only [R.fnOpcCount, Fld.key]; omega
  have htick (f : Nat) : 0xa00000 * 64 ≤ (R.fnOpcSnapTickTick f).key := by simp only [R.fnOpcSnapTickTick, Fld.key]; omega
  unfold State.latch1
  split
  · exact s.latchAll_same (·.get x) n (fun u d k => hset u (hdev d k)) fun u => hset u (by decide)
  · exact s.latchPage_same (·.get x) _ n (fun u k => hset u (hpage _ k)) fun u => hset u (htick _)

/-- The tick of a device snapshot: the one latched, kept by a function's. -/
theorem State.snapTick_latch1 (s : State) (n who : Nat) :
    (s.latch1 n who).get R.dbgOpcSnapTickTick = if who = 0 then n % 2 ^ 64 else s.get R.dbgOpcSnapTickTick := by
  have hpage (f k : Nat) : R.dbgOpcSnapTickTick.key ≠ (R.fnOpcCount f k).key := by simp only [R.fnOpcCount, R.dbgOpcSnapTickTick, Fld.key]; omega
  have htick (f : Nat) : R.dbgOpcSnapTickTick.key ≠ (R.fnOpcSnapTickTick f).key := by simp only [R.fnOpcSnapTickTick, R.dbgOpcSnapTickTick, Fld.key]; omega
  unfold State.latch1
  split
  · exact State.get_set_same _ _ _
  · exact s.latchPage_same (·.get R.dbgOpcSnapTickTick) _ n (fun u k => State.get_set_other u (hpage _ k)) fun u => State.get_set_other u (htick _)

/-- The snapshots due at the boundary of tick `n`, latched. -/
def State.latched (s : State) (n : Nat) : State := s.each (s.obs.snaps.filter fun x => decide (x.2 ≤ n)) fun u x => u.latch1 n x.1

theorem State.takeSnaps_eq (s : State) (n : Nat) :
    s.takeSnaps n = { s.latched n with obs := { (s.latched n).obs with snaps := (s.latched n).obs.snaps.filter fun x => !decide (x.2 ≤ n) } } := rfl

theorem State.latched_same {α : Type} (part : State → α) (h : ∀ (u : State) f v, part (u.set f v) = part u) (s : State) (n : Nat) :
    part (s.latched n) = part s :=
  State.each_keeps (fun u => part u = part s) (fun u x hu => (u.latch1_same part h n x.1).trans hu) rfl

theorem State.takeSnaps_spec (s : State) (n : Nat) : (s.takeSnaps n).deferred = s.deferred ∧ (s.takeSnaps n).ctl = s.ctl ∧ (s.takeSnaps n).tns = s.tns
    ∧ (s.takeSnaps n).obs.snaps = s.obs.snaps.filter (fun x => !decide (x.2 ≤ n))
    ∧ (∀ x : Fld, x.key < 0xa00000 * 64 → (s.takeSnaps n).get x = s.get x)
    ∧ ((∃ x ∈ s.obs.snaps, x.1 = 0 ∧ x.2 ≤ n) → (s.takeSnaps n).get R.dbgOpcSnapTickTick = n % 2 ^ 64) := by
  rw [State.takeSnaps_eq]
  refine ⟨State.latched_same (·.deferred) (fun _ _ _ => rfl) s n, State.latched_same (·.ctl) (fun _ _ _ => rfl) s n,
    State.latched_same (·.tns) (fun _ _ _ => rfl) s n, ?_, fun x hx => ?_, ?_⟩
  · exact congrArg (List.filter _) (State.latched_same (·.obs.snaps) (fun _ _ _ => rfl) s n)
  · exact State.each_keeps (fun u => u.get x = s.get x) (fun u y hu => (u.get_latch1 n y.1 hx).trans hu) rfl
  · rintro ⟨x, hx, hwho, hle⟩
    refine State.each_reaches (fun _ => True) (fun u => u.get R.dbgOpcSnapTickTick = n % 2 ^ 64) (fun _ _ _ _ => trivial) (fun u y _ _ hu => ?_) (x := x)
      (List.mem_filter.2 ⟨hx, decide_eq_true hle⟩) (fun u _ => ?_) trivial
    · rw [State.snapTick_latch1, hu, ite_self]
    · rw [State.snapTick_latch1, if_pos hwho]

theorem State.timing_setTrace (s : State) (v : TraceState) : (s.setTrace v).timing = s.timing := rfl

/-- INGEST entries change nothing but observation and the count of dropped entries. -/
theorem State.ingestTrace_aside (s : State) (n : Nat) : DenseAside [R.cntTraceDrop.key] s (s.ingestTrace n) := by
  unfold State.ingestTrace
  split
  · exact (State.each_keeps (DenseAside [R.cntTraceDrop.key] s) (fun _ _ hu => hu.trans (State.trace_aside ..)) (DenseAside.refl _ s)).obs _
  · exact DenseAside.refl _ s

theorem State.timing_ingestTrace (s : State) (n : Nat) : (s.ingestTrace n).timing = s.timing := by
  unfold State.ingestTrace
  split
  · dsimp only
    rw [State.timing_setTrace]
    exact State.timing_each s _ fun _ _ => State.timing_trace ..
  · rfl

/-! #### The mark -/

theorem State.of_timing {d : List Deferred} {c : Control} {v : TimeState} {l : List (Nat × Nat)} (h : s.timing = (d, c, v, l)) :
    s.deferred = d ∧ s.ctl = c ∧ s.time = v ∧ s.obs.snaps = l := by
  simpa only [State.timing, Prod.mk.injEq] using h

/-- A FULL hold due by now is in force; time, deferred writes and snapshots stay. -/
theorem State.takeHold_spec (s : State) : s.takeHold.deferred = s.deferred ∧ s.takeHold.obs.snaps = s.obs.snaps
    ∧ ∀ h, s.ctl.holdAt = some h → s.reached (h * tickNs) = true → s.takeHold.get R.hifRunHold = 1 ∧ s.takeHold.ctl.hold = some h := by
  unfold State.takeHold
  split
  next h heq =>
    split
    next => exact ⟨rfl, rfl, fun _ hh _ => ⟨s.get_setFlag_same R.hifRunHold true (by decide), heq.symm.trans hh⟩⟩
    next hr => exact ⟨rfl, rfl, fun k hk hreached => absurd hreached (by rw [Option.some.inj (hk.symm.trans heq)]; exact hr)⟩
  next heq => exact ⟨rfl, rfl, fun k hk => absurd (hk.symm.trans heq) (by simp)⟩

/-- The first half of a mark: deferred writes, a FULL hold, Gauze levels. -/
def State.markStart (s : State) (n : Nat) : State := ((s.takeDue (dueAtTick n)).takeHold).setGauze n

theorem State.markStart_spec (s : State) (n : Nat) : (s.markStart n).deferred = s.deferred.filter (fun d => !dueAtTick n d.due)
    ∧ (s.markStart n).obs.snaps = s.obs.snaps
    ∧ ∀ h, s.ctl.holdAt = some h → h * 25000 ≤ s.now → (s.markStart n).get R.hifRunHold = 1 ∧ (s.markStart n).ctl.hold = some h := by
  obtain ⟨hdue, hctl, htime, hrequested⟩ := State.of_timing (s.timing_takeDue (dueAtTick n))
  obtain ⟨hdeferred, hsnaps, hhold⟩ := (s.takeDue (dueAtTick n)).takeHold_spec
  obtain ⟨htiming, -, -, -, hrun, -⟩ := ((s.takeDue (dueAtTick n)).takeHold).setGauze_spec n
  obtain ⟨hgauzeDeferred, hgauzeCtl, -, hgauzeSnaps⟩ := State.of_timing htiming
  refine ⟨hgauzeDeferred.trans (hdeferred.trans hdue), hgauzeSnaps.trans (hsnaps.trans hrequested), fun h hh hle => ?_⟩
  have hnow : (s.takeDue (dueAtTick n)).now = s.now := congrArg (fun v : TimeState => v.dev / 2 ^ 32) htime
  obtain ⟨hflag, hset⟩ := hhold h (by rw [hctl, hh]) (by rw [State.reached, hnow]; exact decide_eq_true hle)
  exact ⟨hrun.trans hflag, (congrArg Control.hold hgauzeCtl).trans hset⟩

/-- Two levels stand apart in the word that a tick keeps of them (R128). -/
theorem bits_levels {a b : Nat} (ha : a ≤ 16) (hb : b ≤ 16) (d : Fin 2) : bits (a + 32 * b) (5 * d) 5 = if d = 0 then a else b := by
  fin_cases d
  · change (a + 32 * b) / 2 ^ 0 % 2 ^ 5 = a
    omega
  · change (a + 32 * b) / 2 ^ 5 % 2 ^ 5 = b
    omega

/-- The Gauze levels of a mark: at most 16, 0 where Gauze is disabled, and those of the tick's work (R128, R404). -/
theorem State.markStart_gauze (s : State) (n : Nat) : (s.markStart n).get R.tnsGauzeLevelLevelCd0 ≤ 16 ∧ (s.markStart n).get R.tnsGauzeLevelLevelCd1 ≤ 16
    ∧ ((s.markStart n).flag R.tnsGauzeCtlDisable = true →
      (s.markStart n).get R.tnsGauzeLevelLevelCd0 = 0 ∧ (s.markStart n).get R.tnsGauzeLevelLevelCd1 = 0)
    ∧ ∀ d : Fin 2, (s.markStart n).gauzeLevel n d =
      if d = 0 then (s.markStart n).get R.tnsGauzeLevelLevelCd0 else (s.markStart n).get R.tnsGauzeLevelLevelCd1 := by
  obtain ⟨-, ha, hb, hflag, -, hlevels⟩ := ((s.takeDue (dueAtTick n)).takeHold).setGauze_spec n
  generalize hu : (s.takeDue (dueAtTick n)).takeHold = u at *
  have hstart : s.markStart n = u.setGauze n := by rw [State.markStart, hu]
  have hle0 := u.margins.gauzeRule_le 0
  have hle1 := u.margins.gauzeRule_le 1
  rw [hstart, ha, hb]
  refine ⟨hle0, hle1, fun hoff => ?_, fun d => ?_⟩
  · have hmargins : u.margins.flag R.tnsGauzeCtlDisable = true := by
      rw [State.flag_of_get (u.get_margins _), ← State.flag_of_get hflag, hoff]
    exact ⟨State.gauzeRule_disabled hmargins 0, State.gauzeRule_disabled hmargins 1⟩
  · rw [State.gauzeLevel, hlevels, bits_levels hle0 hle1]

/-- The boundary of tick `n` noted as marked. -/
def State.noteMark (s : State) (n : Nat) : State := s.setCtl { s.ctl with marked := n, lateMark := none }

theorem State.get_noteMark (s : State) (n : Nat) (x : Fld) : (s.noteMark n).get x = s.get x := rfl

/-- The second half of a mark: snapshots, INGEST entries and the boundary noted. -/
def State.markEnd (s : State) (n : Nat) : State := ((s.takeSnaps n).ingestTrace n).noteMark n

theorem State.markTick_eq (s : State) (n : Nat) : s.markTick n = (s.markStart n).markEnd n := by
  unfold State.markTick State.markStart State.markEnd State.noteMark
  rfl

theorem State.markEnd_spec (s : State) (n : Nat) : (s.markEnd n).ctl = { s.ctl with marked := n, lateMark := none }
    ∧ (s.markEnd n).deferred = s.deferred ∧ (s.markEnd n).tns.levels = s.tns.levels
    ∧ (s.markEnd n).obs.snaps = s.obs.snaps.filter (fun x => !decide (x.2 ≤ n))
    ∧ (∀ x : Fld, x.key < 0xa00000 * 64 → (s.markEnd n).get x = s.get x)
    ∧ ((∃ x ∈ s.obs.snaps, x.1 = 0 ∧ x.2 ≤ n) → (s.markEnd n).get R.dbgOpcSnapTickTick = n % 2 ^ 64) := by
  obtain ⟨hdeferred, hctl, htns, hsnaps, hregs, htick⟩ := s.takeSnaps_spec n
  have haside := (s.takeSnaps n).ingestTrace_aside n
  obtain ⟨hsameDeferred, hsameCtl, -, hsameSnaps⟩ := State.of_timing ((s.takeSnaps n).timing_ingestTrace n)
  unfold State.markEnd
  generalize (s.takeSnaps n).ingestTrace n = u at *
  refine ⟨?_, hsameDeferred.trans hdeferred, (congrArg Dense.levels haside.tns :).trans (congrArg Dense.levels htns :), hsameSnaps.trans hsnaps,
    fun x hx => ?_, fun h => ?_⟩
  · rw [← hctl, ← hsameCtl]
    rfl
  · have htrace : 0xa00000 * 64 ≤ R.cntTraceDrop.key := by decide
    rw [State.get_noteMark, haside.get (by simp only [List.mem_singleton]; omega), hregs x hx]
  · rw [State.get_noteMark, haside.get (by decide), htick h]

theorem exec_tickBoundaryMark (ha : s.awake = true) : exec .tickBoundaryMark s =
    .next (if (s.ctl.marked + 1) * 25000 ≤ s.now then (if s.retraining then s.waitMark (s.ctl.marked + 1) else s.markTick (s.ctl.marked + 1)) else s) := by
  have hreached : s.reached ((s.ctl.marked + 1) * tickNs) = decide ((s.ctl.marked + 1) * 25000 ≤ s.now) := rfl
  change execTickBoundaryMark s = _
  simp only [execTickBoundaryMark, ha, hreached, Bool.true_and, decide_eq_true_eq]

/-- The mark of a tick is late: waiting units are counted. -/
theorem State.waitMark_spec {n : Nat} (h : s.ctl.lateMark ≠ some n) : (s.waitMark n).ctl.marked = s.ctl.marked ∧ (s.waitMark n).ctl.lateMark = some n
    ∧ (s.waitMark n).get R.cntMarkWait = (s.get R.cntMarkWait + (1 + s.freeValue % 256)) % 2 ^ 32
    ∧ s.keepsRegs (s.waitMark n) [R.cntMarkWait.key] ∧ (s.waitMark n).deferred = s.deferred := by
  rw [State.waitMark, if_neg h]
  exact ⟨rfl, rfl, State.get_set_same _ _ _, (s.keepsRegs_refl _).set (f := R.cntMarkWait) List.mem_cons_self _, rfl⟩

/-! ### The obligation -/

theorem exec_tickBoundaryMark_marks (ha : s.awake = true) (hn : s.ctl.marked + 1 = n) (hle : n * 25000 ≤ s.now) (hr : s.retraining = false) :
    ∃ t : State, exec .tickBoundaryMark s = .next t ∧ t.ctl.marked = n ∧ t.ctl.lateMark = none
        ∧ t.deferred = s.deferred.filter (fun d => match d.due with | .tick m => decide (n < m) | .step _ => true)
        ∧ (∀ x ∈ t.obs.snaps, n < x.2) ∧ ((∃ x ∈ s.obs.snaps, x.1 = 0 ∧ x.2 ≤ n) → t.get R.dbgOpcSnapTickTick = n % 2 ^ 64)
        ∧ t.get R.tnsGauzeLevelLevelCd0 ≤ 16 ∧ t.get R.tnsGauzeLevelLevelCd1 ≤ 16
        ∧ (t.flag R.tnsGauzeCtlDisable = true → t.get R.tnsGauzeLevelLevelCd0 = 0 ∧ t.get R.tnsGauzeLevelLevelCd1 = 0)
        ∧ (∀ d : Fin 2, t.gauzeLevel n d = if d = 0 then t.get R.tnsGauzeLevelLevelCd0 else t.get R.tnsGauzeLevelLevelCd1)
        ∧ (∀ h, s.ctl.holdAt = some h → h ≤ n → h * 25000 ≤ s.now → t.get R.hifRunHold = 1 ∧ t.ctl.hold = some h) := by
  subst hn
  have hexec : exec .tickBoundaryMark s = .next ((s.markStart (s.ctl.marked + 1)).markEnd (s.ctl.marked + 1)) := by
    rw [exec_tickBoundaryMark ha, if_pos hle, if_neg (by simp [hr]), State.markTick_eq]
  generalize s.ctl.marked + 1 = n at *
  obtain ⟨hdeferred, hsnaps, hhold⟩ := s.markStart_spec n
  obtain ⟨ha16, hb16, hoff, hlevels⟩ := s.markStart_gauze n
  generalize s.markStart n = u at *
  obtain ⟨hctl, hendDeferred, hendLevels, hendSnaps, hregs, htick⟩ := u.markEnd_spec n
  generalize u.markEnd n = t at *
  refine ⟨t, hexec, by rw [hctl], by rw [hctl], ?_, fun x hx => ?_, fun hx => htick (by rwa [hsnaps]), ?_, ?_, ?_, fun d => ?_, fun h hh _ hdue => ?_⟩
  · rw [hendDeferred, hdeferred]
    refine List.filter_congr fun d _ => ?_
    cases d.due with
    | tick m => simp only [dueAtTick, ← decide_not, Nat.not_le]
    | step m => rfl
  · rw [hendSnaps] at hx
    simpa using (List.mem_filter.1 hx).2
  · rwa [hregs _ (by decide)]
  · rwa [hregs _ (by decide)]
  · rwa [State.flag_of_get (hregs R.tnsGauzeCtlDisable (by decide)), hregs _ (by decide), hregs _ (by decide)]
  · rw [hregs R.tnsGauzeLevelLevelCd0 (by decide), hregs R.tnsGauzeLevelLevelCd1 (by decide), ← hlevels d, State.gauzeLevel, hendLevels]
    rfl
  · rw [hregs R.hifRunHold (by decide), hctl]
    exact hhold h hh hdue

theorem exec_tickBoundaryMark_late (ha : s.awake = true) (hle : (s.ctl.marked + 1) * 25000 ≤ s.now) (hr : s.retraining = true) :
    exec .tickBoundaryMark s = .next (s.waitMark (s.ctl.marked + 1)) := by
  rw [exec_tickBoundaryMark ha, if_pos hle, if_pos hr]

theorem exec_tickBoundaryMark_idle (ha : s.awake = true)
    (h : s.now < (s.ctl.marked + 1) * 25000 ∨ (s.retraining = true ∧ s.ctl.lateMark = some (s.ctl.marked + 1))) : exec .tickBoundaryMark s = .next s := by
  rw [exec_tickBoundaryMark ha]
  rcases h with hlt | ⟨hr, hl⟩
  · rw [if_neg (by omega)]
  · rw [if_pos hr, State.waitMark, if_pos hl, ite_self]

/-- Settles O52: each command of the dense path brings what its rule says; what it leaves alone follows from the frames of its parts. -/
theorem denseTicksRunInOrder : Obligations.DenseTicksRunInOrder := by
  unfold Obligations.DenseTicksRunInOrder
  refine ⟨fun s ha => ⟨exec_tickBoundaryMark_marks ha rfl, fun hle hr hlate => ?_, exec_tickBoundaryMark_idle ha⟩,
    fun s n k hits ha hn hw hm => ⟨fun hready => ?_, fun hready => ?_⟩, fun s k hits ha hm => exec_tickWorkReady_shut ha hm k hits,
    fun s n c l hits ha hn hw ht => ⟨fun hi k => exec_tickWorkReady_waits ha hn hw hi k hits,
      fun hi hm hc hsel hwidth => exec_tickWorkReady_converts ha hn hw ht hi hm hc hsel hwidth hits⟩,
    fun s n ha hn hw => ⟨exec_tickComplete_done ha hn hw, fun h => ?_, exec_tickCut_cuts ha hn hw, fun h => ?_⟩,
    fun s ha => ⟨exec_denseDrain_drains ha, fun hm => ?_⟩⟩
  · obtain ⟨hmarked, hmark, hcount, hregs, hdeferred⟩ := State.waitMark_spec hlate
    exact ⟨_, 1 + s.freeValue % 256, exec_tickBoundaryMark_late ha hle hr, hmarked, hmark, by omega, by omega, hcount, hregs, hdeferred⟩
  · exact exec_tickWorkReady_begins ha hn hw hm hits ((s.tickReady_iff n).2 hready)
  · rw [exec_tickWorkReady ha hn, if_neg (by simp [hm]), if_neg (by simp [hw]), if_neg fun h => hready ((s.tickReady_iff n).1 h)]
  · rw [exec_tickComplete ha hn hw, if_neg]
    rintro ⟨hd, hle⟩
    rcases h with h | h
    · simp [hd] at h
    · omega
  · rw [exec_tickCut ha hn hw, if_neg]
    rintro ⟨hle, hd, -⟩
    rcases h with h | h
    · simp [hd] at h
    · omega
  · rw [exec_denseDrain ha, if_neg (by simp [hm])]

end Sys2Proof.Machine
end

section
/-! SUPPORT and OBLIGATIONS. Reset values, the start of a run, and count windows: kept, handed over, read (R216, R218, R226, R303, R330, R348, R426). -/

namespace Sys2Proof.Machine

variable {s : State}

/-! ### Reset (R7, R426) -/

/-- Nothing is listed in the register map of the state at reset, so every field reads its reset value. -/
theorem State.get_reset (x : Fld) : State.reset.get x = x.reset := rfl

/-- Settles O7: each field by the reset value of its register table. -/
theorem resetRegisterValues : Obligations.ResetRegisterValues :=
  ⟨State.get_reset _, State.get_reset _, State.get_reset _, State.get_reset _, State.get_reset _,
    fun _ => ⟨State.get_reset _, State.get_reset _, State.get_reset _⟩,
    State.get_reset _, State.get_reset _, State.get_reset _, State.get_reset _, State.get_reset _, rfl, rfl, rfl, rfl, rfl⟩

/-! ### The start of a run (R226, R348) -/

/-- The step period depends on FAB_STEP alone. -/
theorem State.stepNs_congr {t : State} (h : t.get R.fabStepPeriodUs = s.get R.fabStepPeriodUs) : t.stepNs = s.stepNs := by
  unfold State.stepNs State.getIn
  rw [h]

theorem State.stepNs_pos (s : State) : 0 < s.stepNs := by
  unfold State.stepNs State.getIn
  omega

/-- The step of a tick is the first whose boundary lies at or after it. -/
theorem State.stepAtTick_bounds (s : State) (n : Nat) :
    n * 25000 ≤ s.stepAtTick n * s.stepNs ∧ s.stepAtTick n * s.stepNs < n * 25000 + s.stepNs := by
  unfold State.stepAtTick ceilDiv tickNs
  have hdiv := Nat.div_add_mod' (n * 25000 + s.stepNs - 1) s.stepNs
  have hmod := Nat.mod_lt (n * 25000 + s.stepNs - 1) s.stepNs_pos
  have hpos := s.stepNs_pos
  omega

/-- The fabric starts: it runs from the step of tick `n` on, and run control, the dense path and time stay as they are. -/
theorem State.startFabric_spec (s : State) (n : Nat) :
    (s.startFabric n).fab.running = true ∧ (s.startFabric n).fab.first = s.stepAtTick n ∧ (s.startFabric n).tns = s.tns
      ∧ (s.startFabric n).ctl = s.ctl ∧ ∀ x : Fld, x.inBar0 → (s.startFabric n).get x = s.get x := by
  obtain ⟨hctl, htns, -, -, -, hget⟩ := State.flushWindow_frame s
  have hstep : s.flushWindow.stepAtTick n = s.stepAtTick n := by
    unfold State.stepAtTick
    rw [State.stepNs_congr (hget _ (by decide))]
  exact ⟨rfl, hstep, htns, hctl, hget⟩

/-- No slot is masked or withheld any more, as the FTU starts anew. -/
def State.unmaskAll (s : State) : State :=
  ((s.set R.ftuMaskedSlots 0).set R.ftuWithheldSlots 0).each (List.range 64) fun s k =>
    ((s.setFlag (R.ftuSrcStatMasked k) false).set (R.ftuSrcStatReason k) 0).setFlag (R.ftuSrcStatWithheld k) false

/-- From `s` to `t` only registers of the FTU's block, or above it, have changed. -/
structure FtuRegs (s t : State) : Prop where
  ftu : t.ftu = s.ftu
  fab : t.fab = s.fab
  tns : t.tns = s.tns
  ctl : t.ctl = s.ctl
  flt : t.flt = s.flt
  regs : ∀ x : Fld, x.key < 0x900000 * 64 → t.get x = s.get x

theorem FtuRegs.set {s t : State} (h : FtuRegs s t) {f : Fld} (hf : 0x900000 * 64 ≤ f.key) (v : Nat) : FtuRegs s (t.set f v) :=
  ⟨h.ftu, h.fab, h.tns, h.ctl, h.flt, fun x hx => (State.get_set_other t (by omega) v).trans (h.regs x hx)⟩

theorem State.unmaskAll_ftuRegs (s : State) : FtuRegs s s.unmaskAll := by
  have hs : FtuRegs s s := ⟨rfl, rfl, rfl, rfl, rfl, fun _ _ => rfl⟩
  refine State.each_keeps (FtuRegs s) (fun u k hu => ((hu.set ?_ _).set ?_ _).set ?_ _) ((hs.set (by decide) _).set (by decide) _)
  all_goals simp only [Fld.key, R.ftuSrcStatMasked, R.ftuSrcStatReason, R.ftuSrcStatWithheld]; omega

theorem State.startFtu_eq (s : State) (n : Nat) : ∃ f : Ftu, f.next = some n ∧
    s.startFtu n = (s.setFtu f).unmaskAll.setFlag R.ftuStatusMode (s.setFtu f).unmaskAll.visual := by
  unfold State.startFtu
  extract_lets dev e frame f s1
  exact ⟨f, rfl, rfl⟩

/-- The FTU starts with tick `n`, and only it. -/
theorem State.startFtu_spec (s : State) (n : Nat) :
    (s.startFtu n).ftu.next = some n ∧ (s.startFtu n).fab = s.fab ∧ (s.startFtu n).tns = s.tns ∧ (s.startFtu n).ctl = s.ctl
      ∧ (s.startFtu n).flt = s.flt ∧ ∀ x : Fld, x.key < 0x900000 * 64 → (s.startFtu n).get x = s.get x := by
  obtain ⟨f, hf, he⟩ := s.startFtu_eq n
  have h := (s.setFtu f).unmaskAll_ftuRegs.set (f := R.ftuStatusMode) (by decide) (b2n (s.setFtu f).unmaskAll.visual)
  rw [he]
  exact ⟨(congrArg Ftu.next h.ftu).trans hf, h.fab, h.tns, h.ctl, h.flt, h.regs⟩

/-- The state in which a run from tick `n` has begun and its START has not completed yet. -/
def State.runBegun (s : State) (n : Nat) : State :=
  let s1 := (((s.releaseHold.startDense n).startFabric n).setFlt { s.flt with stopAt := none }).startFtu n
  let s2 := s1.set R.hifRunState runRunning
  s2.setCtl { s2.ctl with start := none }

theorem exec_runBegins_of (ha : s.awake = true) (hrun : s.get R.hifRunState = 1) (hc : s.ctl.cancelled = false)
    (hm : s.markHeld (s.get R.hifRunTickTick) = true) :
    exec .runBegins s = .next ((s.runBegun (s.get R.hifRunTickTick)).completeOwner s.ctl.start (.okay (s.get R.hifRunTickTick))) := by
  change execRunBegins s = _
  have hstart : (s.run == runStarting) = true := by simp [State.run, hrun, runStarting]
  simp only [execRunBegins, ha, hstart, hc, hm]
  rfl

theorem State.runBegun_spec (s : State) (n : Nat) :
    (s.runBegun n).get R.hifRunState = 2 ∧ (s.runBegun n).get R.hifRunHold = 0 ∧ (s.runBegun n).ctl.hold = none
      ∧ (s.runBegun n).ctl.holdAt = none ∧ (s.runBegun n).ctl.start = none ∧ (s.runBegun n).tns.next = some n
      ∧ (s.runBegun n).fab.running = true ∧ (s.runBegun n).fab.first = s.stepAtTick n ∧ (s.runBegun n).flt.stopAt = none
      ∧ (s.runBegun n).ftu.next = some n := by
  obtain ⟨hrun, hfirst, htns, hctl, hget⟩ := (s.releaseHold.startDense n).startFabric_spec n
  obtain ⟨hftu, hfab, htns', hctl', hflt, hget'⟩ := (((s.releaseHold.startDense n).startFabric n).setFlt { s.flt with stopAt := none }).startFtu_spec n
  have hstep : (s.releaseHold.startDense n).stepAtTick n = s.stepAtTick n := by
    unfold State.stepAtTick
    rw [State.stepNs_congr (t := s.releaseHold.startDense n) (s := s)
      (State.get_setFlag_other s (f := R.hifRunHold) (g := R.fabStepPeriodUs) (by decide) false)]
  unfold State.runBegun
  dsimp only
  have hc := hctl'.trans hctl
  refine ⟨?_, ?_, congrArg Control.hold hc, congrArg Control.holdAt hc, rfl, ?_, (congrArg Fabric.running hfab).trans hrun,
    (congrArg Fabric.first hfab).trans (hfirst.trans hstep), congrArg Filter.stopAt hflt, hftu⟩
  · rw [State.get_setCtl, State.get_set_same]; rfl
  · rw [State.get_setCtl, State.get_set_other _ (by decide), hget' _ (by decide), State.get_setFlt, hget _ (by decide)]
    exact State.get_setFlag_same s R.hifRunHold false (by decide)
  · exact congrArg Dense.next (htns'.trans htns)

/-- Settles O18: RUN_BEGINS makes the state of `runBegun`, of which START then completes. -/
theorem runBeginsAtFirstTick : Obligations.RunBeginsAtFirstTick := by
  intro s o ha hrun hc hm ho
  obtain ⟨hstate, hhold, hnone, hat, hstart, hdense, hfab, hfirst, hstop, hftu⟩ := s.runBegun_spec (s.get R.hifRunTickTick)
  have hb := s.stepAtTick_bounds (s.get R.hifRunTickTick)
  exact ⟨_, ho ▸ exec_runBegins_of ha hrun hc hm, hstate, hhold, hnone, hat, hstart, hdense, hfab, fun _ _ => by rw [hfirst]; exact hb, hstop, hftu⟩

/-! ### Windows kept and read (R216, R303) -/

variable {f : Fin 8} {q : Fin 4} {j a n : Nat}

/-- READ_WINDOW of a window that is kept. -/
theorem exec_readWindow_kept (ha : s.awake = true) (hop : s.fetchedOp f q = some (.readWindow j a n))
    {k : KeptWindow} (hk : (s.fab.kept.find? fun k => k.index == j) = some k) : exec (.readWindow f q) s = .next (s.serveWindow f q j a n) := by
  change execReadWindow f q s = _
  simp only [execReadWindow, hop, hk, State.clocked_awake ha]
  rfl

/-- READ_WINDOW of a window that is not kept. -/
theorem exec_readWindow_unkept (ha : s.awake = true) (hop : s.fetchedOp f q = some (.readWindow j a n)) (hk : ∀ k ∈ s.fab.kept, k.index ≠ j) :
    exec (.readWindow f q) s = .next (if j < s.currentWindow then s.complete f q { status := .noResource, reason := 0x07 }
      else if s.stopped then s.complete f q { status := .abortedByStop } else s.begin f q) := by
  change execReadWindow f q s = _
  have hnone : (s.fab.kept.find? fun k => k.index == j) = none := List.find?_eq_none.2 fun k hmem => by simpa using hk k hmem
  simp only [execReadWindow, hop, hnone, State.clocked_awake ha]
  rfl

/-- Settles O25: a kept window served or refused for its length, one that is gone, and one to come. -/
theorem readWindowOutcomes : Obligations.ReadWindowOutcomes := by
  intro f q j a n s ha hop hn
  refine ⟨fun k hk => ⟨fun hlen hp => ?served, fun hlen => ?short⟩, fun hk => ⟨fun hj => ?gone, fun hj hs => ?aborted, fun hj hs => ?waits⟩⟩
  case served =>
    refine ⟨s.post f a true k.record.copyBytes, (exec_readWindow_kept ha hop hk).trans ?_, State.post_hostHas s f a true _ (by omega),
      s.keepsRegs_refl [], rfl⟩
    simp [State.serveWindow, hk, hlen.not_gt, hp, Done.okay]
  case short =>
    rw [exec_readWindow_kept ha hop hk]
    simp [State.serveWindow, hk, hlen, Done.bad]
  case gone => rw [exec_readWindow_unkept ha hop hk, if_pos hj]
  case aborted => rw [exec_readWindow_unkept ha hop hk, if_neg hj.not_gt, if_pos hs]
  case waits =>
    obtain ⟨d, hd, -, -⟩ := State.fetchedOp_some hop
    obtain ⟨-, hget, -, hmem, -⟩ := State.begin_spec hd
    refine ⟨s.begin f q, ?_, State.begin_running hop, hmem, fun x _ => hget x⟩
    rw [exec_readWindow_unkept ha hop hk, if_neg hj.not_gt, if_neg (by simp [hs])]

/-! ### The end of a window (R216, R218) -/

theorem exec_windowEnd_of (ha : s.awake = true) (he : s.windowEnded = true) :
    exec .windowEnd s = .next ((s.keptWindow s.fab.winNext).serveReads s.fab.winNext) := by
  change execWindowEnd s = _
  simp only [execWindowEnd, ha, he, Bool.and_self, if_true, State.endWindow_eq]

/-- The records kept so far with that of window `j` behind them. -/
def State.keptWith (s : State) (j : Nat) : List KeptWindow := s.fab.kept ++ [⟨j, s.windowRecord j⟩]

/-- After window `j` the newest 8 records are kept, its own the last. -/
theorem State.keptWindow_fab (s : State) (j : Nat) : (s.keptWindow j).fab = { s.fab with
    kept := (s.keptWith j).drop ((s.keptWith j).length - 8), windows := SMap.del j s.fab.windows, winNext := j + 1 } := by
  unfold State.keptWindow
  cases s.flag R.fabWinDestEn <;> rfl

/-- Settles O26: the window kept, handed over where its destination is enabled, and then the waiting reads served. -/
theorem windowEndKeepsRecord : Obligations.WindowEndKeepsRecord := by
  intro s ha he
  refine ⟨_, exec_windowEnd_of ha he, ?_, ?_, ?_, ?_, fun hen => ?_, fun hen => ?_⟩
  · rw [State.keptWindow_fab]
    simp [State.keptWith, List.getLast?_drop]
  · rw [State.keptWindow_fab, List.length_drop]
    omega
  · rw [State.keptWindow_fab]
    intro k hk
    simpa [State.keptWith] using List.mem_of_mem_drop hk
  · rw [State.keptWindow_fab]
  · unfold State.keptWindow
    rw [State.when_true _ hen]
    exact ⟨rfl, fun _ _ => rfl⟩
  · unfold State.keptWindow
    rw [State.when_false _ hen]
    exact ⟨rfl, fun _ _ => rfl⟩

end Sys2Proof.Machine
end

section
/-! SUPPORT and OBLIGATION. Control registers that act when they are written: SNAP, HIF_SVC, CLEAR, MGT_DIE_RESET (R223, R460, R467, R480). -/

namespace Sys2Proof.Machine

variable {s : State}

/-! ### Bits and maps -/

theorem bit_eq_testBit (v i : Nat) : bit v i = v.testBit i := by
  rw [Nat.testBit_eq_decide_div_mod_eq]
  rfl

/-- A bit below the width of a field is the bit of the number written. -/
theorem bit_mod {w i : Nat} (h : i < w) (v : Nat) : bit (v % 2 ^ w) i = bit v i := by
  rw [bit_eq_testBit, bit_eq_testBit, Nat.testBit_mod_two_pow]
  simp [h]

/-- A clear bit set by addition leaves every other bit: below it for the carry's sake, above it since the sum stays in its block. -/
theorem bit_add_two_pow_other {v i j : Nat} (hc : bit v i = false) (h : j ≠ i) : bit (v + 2 ^ i) j = bit v j := by
  rcases Nat.lt_or_gt_of_ne h with hlt | hgt
  · rw [bit_eq_testBit, bit_eq_testBit, Nat.add_comm, Nat.testBit_two_pow_add_gt hlt]
  · obtain ⟨d, rfl⟩ := Nat.exists_eq_add_of_lt hgt
    have hblock : (v + 2 ^ i) / 2 ^ (i + 1) = v / 2 ^ (i + 1) := by
      have hpos : 0 < 2 ^ i := by positivity
      simp only [bit, beq_eq_false_iff_ne] at hc
      rw [Nat.pow_succ, ← Nat.div_div_eq_div_mul, ← Nat.div_div_eq_div_mul, Nat.add_div_right _ hpos]
      omega
    unfold bit
    rw [show 2 ^ (i + d + 1) = 2 ^ (i + 1) * 2 ^ d by ring, ← Nat.div_div_eq_div_mul, hblock, Nat.div_div_eq_div_mul]

/-- A bit set or cleared leaves every other bit. -/
theorem bit_setBit_other {i j : Nat} (h : j ≠ i) (v : Nat) (b : Bool) : bit (setBit v i b) j = bit v j := by
  by_cases hv : bit v i = true
  · cases b
    · have hclear := bit_setBit_false v i
      have hsub : setBit v i false = v - 2 ^ i := by simp [setBit, hv]
      have hle : 2 ^ i ≤ v := by
        by_contra hlt
        simp [bit, Nat.div_eq_of_lt (not_le.1 hlt)] at hv
      rw [hsub] at hclear ⊢
      rw [← bit_add_two_pow_other hclear h, Nat.sub_add_cancel hle]
    · simp [setBit, hv]
  · cases b
    · simp [setBit, hv]
    · have hset : setBit v i true = v + 2 ^ i := by simp [setBit, hv]
      rw [hset, bit_add_two_pow_other (by simpa using hv) h]

/-! ### Snapshots and service modes (R460, R467, R480) -/

theorem nextTick_bounds (d : Nat) : nextTick d * 25000 * 2 ^ 32 ≤ d + 25000 * 2 ^ 32 ∧ d < nextTick d * 25000 * 2 ^ 32 := by
  unfold nextTick tickNs
  omega

/-- A snapshot requested at the next boundary, once for each requester; no register changes. -/
theorem State.requestSnap_spec (s : State) (who : Nat) : s.keepsRegs (s.requestSnap who) []
    ∧ (s.requestSnap who).obs.snaps = if (s.obs.snaps.any fun x => x.1 == who) then s.obs.snaps else s.obs.snaps ++ [(who, nextTick s.time.dev)] := by
  unfold State.requestSnap
  split
  · exact ⟨s.keepsRegs_refl [], rfl⟩
  · exact ⟨s.keepsRegs_refl [], rfl⟩

theorem exec_snap_of (h : s.served = true) (page : Option (Fin 8)) : exec (.snap page) s = .next (s.touch.requestSnap (page.elim 0 fun f => f.val + 1)) := by
  change execSnap page s = _
  cases page
  · simp only [execSnap, State.bus_served h]; rfl
  · simp only [execSnap, State.bus_served h]; rfl

theorem exec_serviceModeWrite_of (h : s.served = true) (v : Word) : exec (.serviceModeWrite v) s = .next (s.touch.writeSvc v.toNat) := by
  change execServiceModeWrite v s = _
  rw [execServiceModeWrite, State.bus_served h]

/-- The mode entered is the mode read, and no other field changes. -/
theorem State.enterMode_spec (s : State) {m : Nat} (hm : m < 4) : (s.enterMode m).get R.hifSvcMode = m ∧ s.keepsRegs (s.enterMode m) [R.hifSvcMode.key] := by
  unfold State.enterMode
  split
  next h => exact ⟨h, s.keepsRegs_refl _⟩
  next h =>
    refine ⟨?_, (s.keepsRegs_refl [R.hifSvcMode.key]).set (f := R.hifSvcMode) (by simp) m⟩
    rw [State.get_setErr, State.get_set_same]
    exact Nat.mod_eq_of_lt hm

/-! ### Reflex outputs cleared (R223) -/

theorem exec_clear_of (h : s.served = true) (r : Fin 2) : exec (.clear r) s =
    .next (if s.flag (R.fabReflexCfgLatch r) then s.touch.setFlag (R.fabReflexStatAsserted r) false else s.touch) := by
  change execClear r s = _
  rw [execClear, State.bus_served h]
  rfl

/-! ### Die resets (R426, R460) -/

theorem exec_dieReset_of (h : s.served = true) (v : Word) : exec (.dieReset v) s = .next (s.touch.writeDieReset v.toNat) := by
  change execDieReset v s = _
  rw [execDieReset, State.bus_served h]

theorem mem_namedDies {v d : Nat} : d ∈ namedDies v ↔ d < 4 ∧ bit v d = true := by simp [namedDies]

theorem namedDies_offline (s : State) (v : Nat) : (namedDies v).all s.dieOff = true ↔ ∀ d : Fin 4, bit v d = true → s.dieOff d = true := by
  rw [List.all_eq_true]
  exact ⟨fun h d hd => h d (mem_namedDies.2 ⟨d.isLt, hd⟩), fun h d hd => h ⟨d, (mem_namedDies.1 hd).1⟩ (mem_namedDies.1 hd).2⟩

/-- One die's reset begins: it ends 20 ms later. -/
def State.beginDieReset (s : State) (d : Nat) : State :=
  { s.setErr { s.err with dieResets := SMap.put d (s.time.clk + 5000000) s.err.dieResets } with
    obs := { s.obs with life := { s.obs.life with resets := SMap.upd s.obs.life.resets 0 5 (· + 1) } } }

theorem State.writeDieReset_taken {v : Nat} (hm : s.get R.hifSvcMode = 3) (ho : ∀ d : Fin 4, bit v d = true → s.dieOff d = true) :
    s.writeDieReset v = s.each (namedDies v) State.beginDieReset := by
  unfold State.writeDieReset
  dsimp only
  rw [if_pos (by simpa [hm] using List.all_eq_true.1 ((namedDies_offline s v).2 ho))]
  rfl

theorem State.writeDieReset_refused {v : Nat} (h : s.get R.hifSvcMode ≠ 3 ∨ ∃ d : Fin 4, bit v d = true ∧ s.dieOff d = false) : s.writeDieReset v = s := by
  refine if_neg ?_
  rw [Bool.and_eq_true, namedDies_offline, beq_iff_eq]
  rintro ⟨hm, ho⟩
  rcases h with h | ⟨d, hd, hoff⟩
  · exact h hm
  · simp [ho d hd] at hoff

/-- Dies reset one after another: each listed one is due 20 ms from now, the others as they were. -/
theorem State.each_beginDieReset (s : State) (l : List Nat) : s.keepsRegs (s.each l State.beginDieReset) []
    ∧ ∀ d, SMap.find? d (s.each l State.beginDieReset).err.dieResets = if d ∈ l then some (s.time.clk + 5000000) else SMap.find? d s.err.dieResets := by
  induction l generalizing s with
  | nil => exact ⟨s.keepsRegs_refl [], fun d => by simp [State.each_nil]⟩
  | cons x l ih =>
    obtain ⟨hregs, hdue⟩ := ih (s.beginDieReset x)
    refine ⟨fun y hy => hregs y hy, fun d => ?_⟩
    rw [State.each_cons, hdue d]
    change (if d ∈ l then _ else SMap.find? d (SMap.put x (s.time.clk + 5000000) s.err.dieResets)) = _
    by_cases hl : d ∈ l
    · simp [hl, State.beginDieReset, State.setErr]
    · by_cases hx : d = x
      · subst hx
        simp [hl, SMap.find?_put_same]
      · simp [hl, hx, SMap.find?_put_ne hx]

/-- The state in which the reset of die `d` is no longer waited for. -/
def State.resetEnded (s : State) (d : Nat) : State := s.setErr { s.err with dieResets := SMap.del d s.err.dieResets }

theorem exec_dieResetDone_of (ha : s.awake = true) {d : Fin 4} {at0 : Nat} (h : SMap.find? d.val s.err.dieResets = some at0) (pass : Bool) :
    exec (.dieResetDone d pass) s =
      .next (if at0 ≤ s.time.clk then (if pass then (s.resetEnded d).dieBack d else (s.resetEnded d).fatal 0x11 d 0 0) else s) := by
  change execDieResetDone d pass s = _
  simp only [execDieResetDone, State.clocked_awake ha, h]
  rfl

/-- The die comes back: it alone is no longer offline, and parked where the active set maps work to it. -/
theorem State.dieBack_spec (s : State) (d : Fin 4) : (s.dieBack d).err.dieResets = s.err.dieResets ∧ (s.dieBack d).dieOff d = false
    ∧ (∀ k : Fin 4, k ≠ d → (s.dieBack d).dieOff k = s.dieOff k)
    ∧ (∀ c, s.active = some c → d.val < 2 → c.usesDie d = true → (s.dieBack d).offline d = true)
    ∧ s.keepsRegs (s.dieBack d) [R.errOfflineDies.key] := by
  have hget : ∀ x, (s.dieBack d).get x = (s.set R.errOfflineDies (setBit (s.get R.errOfflineDies) d false)).get x := fun x =>
    State.when_same (·.get x) rfl _
  have hoff : ∀ k : Fin 4, bit ((s.dieBack d).get R.errOfflineDies) k = bit (setBit (s.get R.errOfflineDies) d false) k := fun k => by
    rw [hget, State.get_set_same]
    exact bit_mod k.isLt _
  refine ⟨State.when_same (·.err.dieResets) rfl _, ?_, fun k hk => ?_, fun c hc hd hu => ?_, fun x hx => ?_⟩
  · rw [State.dieOff, hoff d, bit_setBit_false, Bool.and_false]
  · rw [State.dieOff, State.dieOff, hoff k, bit_setBit_other (fun e => hk (Fin.ext e))]
  · have hp : (decide (d.val < 2) && setUses s.active d) = true := by simp [hd, setUses, hc, hu]
    unfold State.offline State.dieBack
    rw [State.when_true _ hp, State.setErr_err, bit_setBit_true, Bool.or_true]
  · exact (hget x).trans ((s.keepsRegs_refl _).set (f := R.errOfflineDies) (by simp) _ x hx)

/-- Settles O46: each register by what its write does in SAIL, and the end of a die reset by whether it is due. -/
theorem controlRegisterWrites : Obligations.ControlRegisterWrites := by
  refine ⟨fun s hs => ⟨?snap, fun f => ?snapPage, fun v => ⟨fun ho hm => ?mode, fun h => ?noMode⟩, fun r => ⟨fun hl => ?clear, fun hl => ?noClear⟩,
    fun v => ⟨fun hm ho => ?reset, fun h => ?noReset⟩⟩, fun d at0 s ha h => ⟨fun hd => ⟨?back, ?failed⟩, fun hd pass => ?early⟩⟩
  case snap =>
    obtain ⟨hregs, hsnaps⟩ := s.touch.requestSnap_spec 0
    exact ⟨_, _, exec_snap_of hs none, hregs, (nextTick_bounds _).1, (nextTick_bounds _).2, hsnaps⟩
  case snapPage =>
    obtain ⟨hregs, hsnaps⟩ := s.touch.requestSnap_spec (f.val + 1)
    exact ⟨_, _, exec_snap_of hs (some f), hregs, (nextTick_bounds _).1, (nextTick_bounds _).2, hsnaps⟩
  case mode =>
    obtain ⟨hmode, hregs⟩ := s.touch.enterMode_spec (m := bits v.toNat 0 2) (Nat.mod_lt _ (by decide))
    refine ⟨_, (exec_serviceModeWrite_of hs v).trans ?_, hmode, hregs⟩
    rw [State.writeSvc, if_pos ⟨ho, hm⟩]
  case noMode =>
    refine ⟨_, (exec_serviceModeWrite_of hs v).trans ?_, s.touch.keepsRegs_refl []⟩
    rw [State.writeSvc, if_neg]
    rintro ⟨ho, hm⟩
    exact h.elim (fun h => h ho) fun h => hm h
  case clear =>
    refine ⟨_, (exec_clear_of hs r).trans (by rw [if_pos hl]), State.get_setFlag_same _ _ _ (le_refl 1), ?_⟩
    exact (s.touch.keepsRegs_refl _).setFlag (by simp) false
  case noClear => exact ⟨_, (exec_clear_of hs r).trans (by rw [if_neg (by simp [hl])]), s.touch.keepsRegs_refl []⟩
  case reset =>
    obtain ⟨hregs, hdue⟩ := s.touch.each_beginDieReset (namedDies v.toNat)
    refine ⟨_, (exec_dieReset_of hs v).trans (by rw [State.writeDieReset_taken (s := s.touch) hm ho]), hregs, fun d => ?_⟩
    simp [hdue, mem_namedDies]
  case noReset =>
    exact ⟨s.touch, (exec_dieReset_of hs v).trans (by rw [State.writeDieReset_refused (s := s.touch) h]), rfl, rfl, s.touch.keepsRegs_refl []⟩
  case back =>
    obtain ⟨hdue, hoff, hothers, hparked, hregs⟩ := (s.resetEnded d).dieBack_spec d
    exact ⟨_, (exec_dieResetDone_of ha h true).trans (by rw [if_pos hd]; rfl), (congrArg (SMap.find? d.val) hdue).trans (SMap.find?_del_same _ _),
      hoff, hothers, hparked, hregs⟩
  case failed => exact ⟨s.resetEnded d, (exec_dieResetDone_of ha h false).trans (by rw [if_pos hd]; rfl), SMap.find?_del_same _ _, s.keepsRegs_refl []⟩
  case early => rw [exec_dieResetDone_of ha h pass, if_neg hd.not_ge]

end Sys2Proof.Machine
end

section
/-! SUPPORT and OBLIGATION. Looming samples, reflex outputs, the fabric's halt and set change, command messages (R220–R223, R226, R334). -/

namespace Sys2Proof.Machine

variable {s t : State}

/-! ### A queue word's parity check (R436) -/

/-- A contained fault leaves error handling alone. -/
theorem State.contained_err (s : State) (source die unit detail : Nat) : (s.fault .contained source die unit detail).err = s.err := by
  have htrace : (s.trace die 4 unit source detail).err = s.err := by
    unfold State.trace
    split
    · dsimp only
      split <;> rfl
    · rfl
  have hcond : ∀ u : State, (u.condition 0).err = u.err := fun u => by
    unfold State.condition
    split <;> rfl
  unfold State.fault
  exact (State.when_same State.err rfl _).trans ((hcond _).trans htrace)

/-- The parity check of a queue word counts its failure; beside that it is quiet and leaves error handling alone. -/
theorem State.parityCheck_counts (s : State) (b : Bool) (die unit : Nat) :
    (s.parityCheck b die unit).get R.cntParity = (if b then (s.get R.cntParity + 1) % 2 ^ 32 else s.get R.cntParity)
      ∧ Quiet (s.when b fun s => s.inc R.cntParity) (s.parityCheck b die unit) ∧ (s.parityCheck b die unit).err = s.err := by
  cases b
  case false => exact ⟨rfl, Quiet.refl s, rfl⟩
  case true =>
    have hq := quiet_fault (Quiet.refl (s.inc R.cntParity)) .contained 0x04 die unit 0
    exact ⟨(hq.regs _ (by decide)).trans (s.get_inc_same _), hq, State.contained_err _ _ _ _ _⟩

theorem State.parityCheck_keepsRegs (s : State) (b : Bool) (die unit : Nat) :
    s.keepsRegs (s.parityCheck b die unit) (R.cntParity.key :: faultKeys) := (s.parityCheck_spec b die unit).2.2.2

/-- What a parity check leaves alone: time, fabric, sets, Canvas and run control. -/
theorem State.parityCheck_parts (s : State) (b : Bool) (die unit : Nat) :
    (s.parityCheck b die unit).time = s.time ∧ (s.parityCheck b die unit).fab = s.fab ∧ (s.parityCheck b die unit).active = s.active
      ∧ (s.parityCheck b die unit).shadow = s.shadow ∧ (s.parityCheck b die unit).cv = s.cv ∧ (s.parityCheck b die unit).ctl = s.ctl := by
  have hq := (s.parityCheck_counts b die unit).2.1
  cases b
  case false => exact ⟨rfl, rfl, rfl, rfl, rfl, rfl⟩
  case true => exact ⟨hq.time, hq.fab, hq.active, hq.shadow, hq.cv, hq.ctl⟩

/-! ### Looming samples (R220, R221) -/

/-- The instant at which the looming samples of the next tick close. -/
def State.loomClose (s : State) : Nat := 25 * (s.fab.loomNext + 1)

/-- Whether every step with an instant of the next tick has drained. -/
def State.loomFull (s : State) : Bool := s.allDrained (s.stepOf (s.loomClose - 1))

/-- The samples handed over for the next tick. -/
def State.loomSamples (s : State) : List LoomSample :=
  (List.range (s.getIn R.fabLoomSectors 0 32)).map fun k => s.loomSample s.fab.loomNext k (s.free + 2 * k) (!s.loomFull)

/-- The state in which the samples of the next tick have been handed over. -/
def State.loomHanded (s : State) : State :=
  ((s.took (2 * s.getIn R.fabLoomSectors 0 32)).setFab { s.fab with
    loomNext := s.fab.loomNext + 1, loomOut := SMap.put s.fab.loomNext s.loomSamples s.fab.loomOut }).when (!s.loomFull)
    fun u => u.add R.cntLoomLate (s.getIn R.fabLoomSectors 0 32)

theorem exec_loomingHandover_of (ha : s.awake = true) : exec .loomingHandover s =
    .next (if s.inRun s.fab.loomNext && (s.loomFull || decide (s.deadline s.fab.loomNext ≤ s.now)) then s.loomHanded else s) := by
  change execLoomingHandover s = _
  simp only [execLoomingHandover, ha, Bool.true_and]
  rfl

theorem State.loomHanded_fab (s : State) : s.loomHanded.fab = { s.fab with
    loomNext := s.fab.loomNext + 1, loomOut := SMap.put s.fab.loomNext s.loomSamples s.fab.loomOut } :=
  State.when_same State.fab rfl _

/-- Fire `a` is not preferred to `b`: it is earlier, or no larger at the same stamp. -/
theorem LoomFire.beats_eq_false {a b : LoomFire} : a.beats b = false ↔ a.stamp < b.stamp ∨ (a.stamp = b.stamp ∧ a.payload ≤ b.payload) := by
  simp only [LoomFire.beats, Bool.or_eq_false_iff, decide_eq_false_iff_not, Bool.and_eq_false_iff, beq_eq_false_iff_ne]
  omega

/-- The fires of a sector that its sample may draw on. -/
def State.loomFires (s : State) (close sector : Nat) : List LoomFire := (SMap.get s.fab.loom [] sector).filter fun f => decide (f.stamp < close)

theorem State.mem_loomFires {close sector : Nat} {f : LoomFire} :
    f ∈ s.loomFires close sector ↔ f ∈ SMap.get s.fab.loom [] sector ∧ f.stamp < close := by simp [State.loomFires]

/-- Where `f` is a fire that no other beats, the fire found for the sample is one with its stamp and payload. -/
theorem State.find_newest {close k : Nat} {f : LoomFire} (hf : f ∈ s.loomFires close k) (hmax : ∀ g ∈ s.loomFires close k, g.beats f = false) :
    ∃ g ∈ s.loomFires close k, ((s.loomFires close k).find? fun f => (s.loomFires close k).all fun g => !g.beats f) = some g
      ∧ g.stamp = f.stamp ∧ g.payload = f.payload := by
  have hsome : ((s.loomFires close k).find? fun f => (s.loomFires close k).all fun g => !g.beats f).isSome = true :=
    List.find?_isSome.2 ⟨f, hf, by simpa using hmax⟩
  obtain ⟨g, hg⟩ := Option.isSome_iff_exists.1 hsome
  have hmem := List.mem_of_find?_eq_some hg
  have hall : ((s.loomFires close k).all fun x => !x.beats g) = true := List.find?_some (p := fun f => (s.loomFires close k).all fun x => !x.beats f) hg
  have hbest : f.beats g = false := by simpa using List.all_eq_true.1 hall f hf
  have h1 := LoomFire.beats_eq_false.1 (hmax g hmem)
  have h2 := LoomFire.beats_eq_false.1 hbest
  exact ⟨g, hmem, hg, by omega, by omega⟩

/-- The payload of a looming fire indexes the TTC table. -/
abbrev LoomFire.known (f : LoomFire) : Prop := 1 ≤ f.payload ∧ f.payload ≤ 127

/-- The sample of a sector goes by the newest of its fires (R220). -/
theorem State.loomSample_newest {n k i : Nat} {late : Bool} {f : LoomFire} (hf : f ∈ s.loomFires (25 * (n + 1)) k)
    (hmax : ∀ g ∈ s.loomFires (25 * (n + 1)) k, g.beats f = false) :
    (s.loomSample n k i late).age = 25 * (n + 1) - f.stamp ∧ (¬ f.known → (s.loomSample n k i late).valid = false)
      ∧ (s.get R.fabLoomHoldUs < 25 * (n + 1) - f.stamp → (s.loomSample n k i late).valid = false)
      ∧ ((∀ g ∈ SMap.get s.fab.loom [] k, s.offline g.die = false) → f.known → 25 * (n + 1) - f.stamp ≤ s.get R.fabLoomHoldUs →
          (s.loomSample n k i late).valid = true)
      ∧ ∀ (c : ConfigSet) (w : Nat), s.stepSet (s.stepOf (25 * (n + 1) - 1)) = some c → f.known → c.ttc[f.payload.toNat - 1]? = some w →
          (s.loomSample n k i late).ttc = w := by
  obtain ⟨g, hg, hfind, hstamp, hpay⟩ := State.find_newest hf hmax
  unfold State.loomSample
  dsimp only
  rw [show (SMap.get s.fab.loom [] k).filter (fun f => decide (f.stamp < 25 * (n + 1))) = s.loomFires (25 * (n + 1)) k from rfl, hfind]
  dsimp only
  rw [hstamp, hpay]
  refine ⟨rfl, fun hk => ?_, fun hh => ?_, fun hon hk hh => ?_, fun c w hc hk hw => ?_⟩
  · have hk' : (decide (1 ≤ f.payload) && decide (f.payload ≤ 127)) = false := by simpa using hk
    simp [hk']
  · simp [hh.not_ge]
  · simp [hk.1, hk.2, hh, hon g (State.mem_loomFires.1 hg).1]
  · simp [hk.1, hk.2, hc, hw]

/-- The samples of a tick: one for each sector, each incomplete where a step of the tick has not drained. -/
theorem State.loomSamples_spec (s : State) : s.loomSamples.length = s.getIn R.fabLoomSectors 0 32 ∧ (∀ x ∈ s.loomSamples, x.incomplete = !s.loomFull)
    ∧ ∀ (k : Nat) (x : LoomSample), s.loomSamples[k]? = some x → x = s.loomSample s.fab.loomNext k (s.free + 2 * k) (!s.loomFull) := by
  unfold State.loomSamples
  refine ⟨by simp, fun x hx => ?_, fun k x hx => ?_⟩
  · obtain ⟨k, -, rfl⟩ := List.mem_map.1 hx
    unfold State.loomSample
    dsimp only
    split <;> rfl
  · rw [List.getElem?_map, Option.map_eq_some_iff] at hx
    obtain ⟨j, hj, rfl⟩ := hx
    obtain ⟨-, rfl⟩ := List.getElem?_eq_some_iff.1 hj
    simp

/-! ### Reflex outputs (R222, R223) -/

variable {r : Nat} {f : ReflexFire}

@[simp] theorem State.reflex_setReflex (s : State) (r : Nat) (v : Reflex) : (s.setReflex r v).reflex r = v := SMap.get_set_same _ _ _ _

theorem State.reflex_setReflex_other {o r : Nat} (h : o ≠ r) (s : State) (v : Reflex) : (s.setReflex r v).reflex o = s.reflex o := SMap.get_set_ne h _ _ _ _

/-- Whether a fire counts at output `r` (R222). -/
def State.reflexMeets (s : State) (r : Nat) (f : ReflexFire) : Prop :=
  s.flag (R.fabReflexCfgEn r) = true ∧ s.get (R.fabReflexCfgGroup r) = f.group ∧ (s.reflex r).newest ≤ f.step + 63

/-- The fires counted in the window that ends with step `k`, by the counts `m`. -/
def State.reflexSum (s : State) (r k : Nat) (m : SMap Nat) : Nat :=
  ((List.range (s.get (R.fabReflexCfgWinM1 r) + 1)).map fun d => if d ≤ k then SMap.get m 0 (k - d) else 0).sum

/-- Output `r` with a fire of step `k` counted. -/
def Reflex.countIn (v : Reflex) (k : Nat) : Reflex :=
  { v with counts := (SMap.upd v.counts 0 k (· + 1)).filter (fun x => decide (max v.newest k < x.1 + 64)), newest := max v.newest k }

theorem Reflex.countIn_counts {v : Reflex} {k : Nat} (h : v.newest ≤ k + 63) : SMap.get (v.countIn k).counts 0 k = SMap.get v.counts 0 k + 1 := by
  have hk : max v.newest k < k + 64 := by omega
  exact (SMap.get_filter_key (fun x => decide (max v.newest k < x + 64)) _ 0 k).trans (by simp [hk])

/-- The state in which output `r` has counted a fire and shows the sum. -/
def State.reflexCounted (s : State) (r : Nat) (f : ReflexFire) : State :=
  (s.setReflex r ((s.reflex r).countIn f.step)).set (R.fabReflexStatCountNow r)
    (min 65535 (s.reflexSum r f.step ((s.reflex r).countIn f.step).counts))

theorem State.reflexAt_unmet (h : ¬ s.reflexMeets r f) : s.reflexAt r f = s := by
  unfold State.reflexAt
  dsimp only
  refine if_pos ?_
  simp only [State.reflexMeets] at h
  simp only [Bool.or_eq_true, Bool.not_eq_true', bne_iff_ne, decide_eq_true_eq]
  by_contra hc
  simp only [not_or, Bool.not_eq_false, not_not, not_lt] at hc
  exact h ⟨hc.1.1, hc.1.2, hc.2⟩

theorem State.reflexAt_met (h : s.reflexMeets r f) : s.reflexAt r f = (s.reflexCounted r f).when
    (decide (max 1 (s.get (R.fabReflexThrThr r)) ≤ s.reflexSum r f.step ((s.reflex r).countIn f.step).counts)) fun s => s.activate r := by
  obtain ⟨hen, hgroup, hnew⟩ := h
  unfold State.reflexAt
  dsimp only
  rw [if_neg (by simp [hen, hgroup, hnew])]
  rfl

/-- The register fields by which output `r` goes, and those that show it. -/
def reflexFields (r : Nat) : List Fld :=
  [R.fabReflexCfgEn r, R.fabReflexCfgGroup r, R.fabReflexCfgWinM1 r, R.fabReflexThrThr r, R.fabReflexHoldHoldUs r, R.fabReflexStatAsserted r,
    R.fabReflexStatCountNow r]

/-- The register fields that a fire at output `r` may write. -/
def reflexKeys (r : Nat) : List Nat := [(R.fabReflexStatAsserted r).key, (R.fabReflexStatCountNow r).key, (cntReflex r).key]

/-- To output `r` the states `s` and `t` are the same. -/
structure SameReflex (r : Nat) (s t : State) : Prop where
  regs : ∀ x ∈ reflexFields r, t.get x = s.get x
  reflex : t.reflex r = s.reflex r
  time : t.time = s.time

theorem SameReflex.meets (h : SameReflex r s t) : t.reflexMeets r f ↔ s.reflexMeets r f := by
  unfold State.reflexMeets State.flag
  rw [h.regs _ (by simp [reflexFields]), h.regs _ (by simp [reflexFields]), h.reflex]

theorem SameReflex.sum (h : SameReflex r s t) (k : Nat) (m : SMap Nat) : t.reflexSum r k m = s.reflexSum r k m := by
  unfold State.reflexSum
  rw [h.regs _ (by simp [reflexFields])]

/-- Beside output `r` a fire there changes the trace conditions only; the queue and the other output stay. -/
structure ReflexOnly (r : Nat) (s t : State) : Prop where
  regs : s.keepsRegs t (reflexKeys r)
  time : t.time = s.time
  queue : t.fab.reflexQ = s.fab.reflexQ
  others : ∀ o, o ≠ r → t.reflex o = s.reflex o

theorem ReflexOnly.set {k : Fld} (h : ReflexOnly r s t) (hk : k.key ∈ reflexKeys r) (v : Nat) : ReflexOnly r s (t.set k v) :=
  ⟨h.regs.set hk v, h.time, h.queue, h.others⟩

theorem ReflexOnly.setReflex (h : ReflexOnly r s t) (v : Reflex) : ReflexOnly r s (t.setReflex r v) :=
  ⟨h.regs, h.time, h.queue, fun o ho => (State.reflex_setReflex_other ho t v).trans (h.others o ho)⟩

theorem ReflexOnly.activate (h : ReflexOnly r s t) : ReflexOnly r s (t.activate r) := by
  have hcond : ∀ u, ReflexOnly r s u → ReflexOnly r s (u.condition 4) := fun u hu => by
    obtain ⟨v, hv⟩ := u.condition_eq 4
    rw [hv]
    exact ⟨hu.regs, hu.time, hu.queue, hu.others⟩
  unfold State.activate
  refine ReflexOnly.setReflex (ReflexOnly.set ?_ (by simp [reflexKeys]) _) _
  by_cases hasserted : (!t.flag (R.fabReflexStatAsserted r)) = true
  · rw [State.when_true _ hasserted]
    exact hcond _ (h.set (by simp [reflexKeys]) _)
  · rw [State.when_false _ (by simpa using hasserted)]
    exact h

theorem State.reflexAt_only (s : State) (r : Nat) (f : ReflexFire) : ReflexOnly r s (s.reflexAt r f) := by
  have hs : ReflexOnly r s s := ⟨s.keepsRegs_refl _, rfl, rfl, fun _ _ => rfl⟩
  by_cases h : s.reflexMeets r f
  · have hc : ReflexOnly r s (s.reflexCounted r f) := (hs.setReflex _).set (by simp [reflexKeys]) _
    rw [State.reflexAt_met h]
    unfold State.when
    split
    · exact hc.activate
    · exact hc
  · rw [State.reflexAt_unmet h]
    exact hs

/-- The output driven (R222, R223): asserted, and its hold from now on. -/
theorem State.activate_spec (s : State) (r : Nat) : (s.activate r).get (R.fabReflexStatAsserted r) = 1
    ∧ (s.activate r).reflex r = { s.reflex r with holdEnd := s.now + max 1 (s.get (R.fabReflexHoldHoldUs r)) * 1000 } := by
  have hreflex : ∀ c : Bool, (s.when c fun s => (s.inc (cntReflex r)).condition 4).reflex r = s.reflex r := fun c =>
    State.when_same (·.reflex r) (by obtain ⟨v, hv⟩ := (s.inc (cntReflex r)).condition_eq 4; rw [hv]; rfl) c
  unfold State.activate
  dsimp only
  exact ⟨State.get_setFlag_same _ (R.fabReflexStatAsserted r) true (le_refl 1), by rw [State.reflex_setReflex, hreflex]⟩

/-- What a fire that meets output `r` does there, from `s` to `t`. -/
structure ReflexMet (r : Nat) (f : ReflexFire) (s t : State) : Prop where
  counted : SMap.get (t.reflex r).counts 0 f.step = SMap.get (s.reflex r).counts 0 f.step + 1
  shown : t.get (R.fabReflexStatCountNow r) = min 65535 (s.reflexSum r f.step (t.reflex r).counts)
  driven : max 1 (s.get (R.fabReflexThrThr r)) ≤ s.reflexSum r f.step (t.reflex r).counts →
    t.get (R.fabReflexStatAsserted r) = 1 ∧ (t.reflex r).holdEnd = s.now + max 1 (s.get (R.fabReflexHoldHoldUs r)) * 1000
  rests : s.reflexSum r f.step (t.reflex r).counts < max 1 (s.get (R.fabReflexThrThr r)) →
    t.get (R.fabReflexStatAsserted r) = s.get (R.fabReflexStatAsserted r)

theorem reflexStat_apart (r : Nat) : (R.fabReflexStatCountNow r).key ≠ (R.fabReflexStatAsserted r).key
    ∧ (R.fabReflexStatCountNow r).key ≠ (cntReflex r).key ∧ (R.fabReflexHoldHoldUs r).key ≠ (R.fabReflexStatCountNow r).key := by
  refine ⟨?_, ?_, ?_⟩
  · simp only [Fld.key, R.fabReflexStatAsserted, R.fabReflexStatCountNow]; omega
  · unfold cntReflex
    split <;> simp only [Fld.key, R.cntReflex0, R.cntReflex1, R.fabReflexStatCountNow] <;> omega
  · simp only [Fld.key, R.fabReflexHoldHoldUs, R.fabReflexStatCountNow]; omega

theorem State.activate_countNow (s : State) (r : Nat) : (s.activate r).get (R.fabReflexStatCountNow r) = s.get (R.fabReflexStatCountNow r) := by
  obtain ⟨hstat, hcnt, -⟩ := reflexStat_apart r
  unfold State.activate
  dsimp only
  have hwhen : ∀ c : Bool, (s.when c fun s => (s.inc (cntReflex r)).condition 4).get (R.fabReflexStatCountNow r) = s.get (R.fabReflexStatCountNow r) :=
    fun c => State.when_same (·.get (R.fabReflexStatCountNow r))
      (by obtain ⟨v, hv⟩ := (s.inc (cntReflex r)).condition_eq 4; rw [hv]; exact s.get_inc_other hcnt) c
  exact (State.get_setFlag_other _ hstat true).trans (hwhen _)

theorem State.reflexAt_reflexMet (h : s.reflexMeets r f) : ReflexMet r f s (s.reflexAt r f) := by
  obtain ⟨hstat, -, hhold⟩ := reflexStat_apart r
  have hnow : (s.reflexCounted r f).get (R.fabReflexStatCountNow r) = min 65535 (s.reflexSum r f.step ((s.reflex r).countIn f.step).counts) :=
    (State.get_set_same _ _ _).trans (Nat.mod_eq_of_lt (lt_of_le_of_lt (Nat.min_le_left _ _) (show 65535 < 2 ^ 16 by decide)))
  have hreflex : (s.reflexCounted r f).reflex r = (s.reflex r).countIn f.step := State.reflex_setReflex s r _
  obtain ⟨hasserted, hheld⟩ := (s.reflexCounted r f).activate_spec r
  rw [State.reflexAt_met h]
  by_cases hthr : max 1 (s.get (R.fabReflexThrThr r)) ≤ s.reflexSum r f.step ((s.reflex r).countIn f.step).counts
  · rw [State.when_true _ (decide_eq_true hthr)]
    have hcounts : (((s.reflexCounted r f).activate r).reflex r).counts = ((s.reflex r).countIn f.step).counts := by rw [hheld, hreflex]
    refine ⟨by rw [hcounts, Reflex.countIn_counts h.2.2], ?_, fun _ => ⟨hasserted, ?_⟩, fun hlt => ?_⟩
    · rw [State.activate_countNow, hnow, hcounts]
    · rw [hheld]
      change (s.reflexCounted r f).now + _ = _
      rw [show (s.reflexCounted r f).get (R.fabReflexHoldHoldUs r) = s.get (R.fabReflexHoldHoldUs r) from State.get_set_other _ hhold _]
      rfl
    · rw [hcounts] at hlt
      omega
  · rw [State.when_false _ (decide_eq_false hthr)]
    refine ⟨by rw [hreflex, Reflex.countIn_counts h.2.2], by rw [hnow, hreflex], fun hle => ?_, fun _ => ?_⟩
    · rw [hreflex] at hle
      exact absurd hle hthr
    · exact State.get_set_other _ hstat.symm _

/-- What happens at an output is told by the states before and after as that output sees them. -/
theorem ReflexMet.congr {s' t' : State} (h : ReflexMet r f s t) (hs : SameReflex r s' s) (ht : SameReflex r t t') : ReflexMet r f s' t' := by
  have get' : ∀ x ∈ reflexFields r, s'.get x = s.get x := fun x hx => (hs.regs x hx).symm
  have hsum : ∀ m, s'.reflexSum r f.step m = s.reflexSum r f.step m := fun m => (hs.sum f.step m).symm
  have hnow : s'.now = s.now := congrArg (fun v : TimeState => v.dev / 2 ^ 32) hs.time.symm
  constructor
  · rw [ht.reflex, h.counted, hs.reflex]
  · rw [ht.regs _ (by simp [reflexFields]), h.shown, hsum, ht.reflex]
  · rw [hsum, ht.reflex, ht.regs _ (by simp [reflexFields]), hnow, get' _ (by simp [reflexFields]), get' _ (by simp [reflexFields])]
    exact h.driven
  · rw [hsum, ht.reflex, ht.regs _ (by simp [reflexFields]), get' _ (by simp [reflexFields]), get' _ (by simp [reflexFields])]
    exact h.rests

theorem reflexFields_apart {r o : Fin 2} (h : r ≠ o) : ∀ x ∈ reflexFields r, x.key ∉ reflexKeys o := by
  decide +revert

theorem reflexFields_parity (r : Fin 2) : ∀ x ∈ reflexFields r, x.key ∉ R.cntParity.key :: faultKeys := by
  decide +revert

theorem ReflexOnly.same {r o : Fin 2} (h : ReflexOnly o s t) (hr : r ≠ o) : SameReflex r s t :=
  ⟨fun x hx => h.regs x (reflexFields_apart hr x hx), h.others r fun e => hr (Fin.ext e), h.time⟩

theorem SameReflex.refl (r : Nat) (s : State) : SameReflex r s s := ⟨fun _ _ => rfl, rfl, rfl⟩

/-- The oldest fire taken off the queue, its word checked. -/
def State.reflexTaken (s : State) (l : List ReflexFire) (parity : Bool) : State :=
  ({ s with fab := { s.fab with reflexQ := l } }).parityCheck parity dieIod 0

theorem State.reflexTaken_same (s : State) (l : List ReflexFire) (parity : Bool) (r : Fin 2) : SameReflex r s (s.reflexTaken l parity) := by
  obtain ⟨htime, hfab, -⟩ := ({ s with fab := { s.fab with reflexQ := l } }).parityCheck_parts parity dieIod 0
  exact ⟨fun x hx => State.parityCheck_keepsRegs _ _ _ _ x (reflexFields_parity r x hx), (congrArg (fun v : Fabric => SMap.get v.reflex {} r.val) hfab :), htime⟩

theorem exec_reflexFire_of (ha : s.awake = true) {l : List ReflexFire} (hq : s.fab.reflexQ = f :: l) (parity : Bool) :
    exec (.reflexFire parity) s = .next (((s.reflexTaken l parity).reflexAt 0 f).reflexAt 1 f) := by
  change execReflexFire parity s = _
  simp only [execReflexFire, hq, State.clocked_awake ha]
  rfl

theorem exec_reflexFire_empty (hq : s.fab.reflexQ = []) (parity : Bool) : exec (.reflexFire parity) s = .next s := by
  change execReflexFire parity s = _
  simp [execReflexFire, hq, State.clocked]

/-- Each output sees the fire as if it were the only one. -/
theorem State.reflexAt_both (s : State) (f : ReflexFire) (r : Fin 2) :
    (s.reflexMeets r f → ReflexMet r f s ((s.reflexAt 0 f).reflexAt 1 f)) ∧ (¬ s.reflexMeets r f → SameReflex r s ((s.reflexAt 0 f).reflexAt 1 f)) := by
  have h0 := s.reflexAt_only 0 f
  have h1 := (s.reflexAt 0 f).reflexAt_only 1 f
  by_cases hr : r = 0
  · subst hr
    have hsame : SameReflex (0 : Fin 2) (s.reflexAt 0 f) ((s.reflexAt 0 f).reflexAt 1 f) := h1.same (r := 0) (o := 1) (by decide)
    refine ⟨fun h => (State.reflexAt_reflexMet h).congr (SameReflex.refl 0 s) hsame, fun h => ?_⟩
    rw [show s.reflexAt 0 f = s from State.reflexAt_unmet h] at hsame ⊢
    exact hsame
  · obtain rfl : r = 1 := by omega
    have hsame : SameReflex (1 : Fin 2) s (s.reflexAt 0 f) := h0.same (r := 1) (o := 0) (by decide)
    refine ⟨fun h => (State.reflexAt_reflexMet (hsame.meets.2 h)).congr hsame (SameReflex.refl 1 _), fun h => ?_⟩
    rw [show (s.reflexAt 0 f).reflexAt 1 f = s.reflexAt 0 f from State.reflexAt_unmet fun hm => h (hsame.meets.1 hm)]
    exact hsame

theorem exec_reflexHoldExpiry_of (ha : s.awake = true) (r : Fin 2) : exec (.reflexHoldExpiry r) s =
    .next (if s.flag (R.fabReflexStatAsserted r) && !s.flag (R.fabReflexCfgLatch r) && s.reached (s.reflex r).holdEnd then
      s.setFlag (R.fabReflexStatAsserted r) false else s) := by
  change execReflexHoldExpiry r s = _
  rw [execReflexHoldExpiry, State.clocked_awake ha]

/-! ### The fabric's halt (R226) -/

theorem SMap.find?_map_key {α β : Type} (g : Nat → α → β) (m : SMap α) (k : Nat) :
    SMap.find? k (m.map fun x => (x.1, g x.1 x.2)) = (SMap.find? k m).map (g k) := by
  induction m with
  | nil => rfl
  | cons c m ih =>
    rw [List.map_cons, SMap.find?, SMap.find?]
    split
    next h => rw [h]; rfl
    next => exact ih

/-- The fabric at rest: its sets, windows and queue to the reflex unit stay, its buffers and routers are empty. -/
def Fabric.halted (f : Fabric) : Fabric :=
  { f with running := false, flight := [], core := f.core.map fun x => (x.1, { x.2 with ran := false, buffer := [] }) }

/-- Each core keeps what it has closed, and holds no spike back. -/
theorem Fabric.halted_core (f : Fabric) (c : Nat) :
    SMap.get f.halted.core {} c = { SMap.get f.core {} c with ran := false, buffer := [] } := by
  have hmap := SMap.find?_map_key (fun _ (v : CoreFab) => { v with ran := false, buffer := [] }) f.core c
  change (SMap.find? c (f.core.map fun x => (x.1, { x.2 with ran := false, buffer := [] }))).getD ({} : CoreFab) = _
  rw [SMap.get, hmap]
  cases SMap.find? c f.core <;> rfl

/-- The state in which the fabric has come to rest before `b`, the last step of each core counted. -/
def State.fabricHalted (s : State) (b : Nat) : State :=
  (s.add R.fabCntStep (s.fab.core.filter fun x => x.2.ran && s.dieRuns (b - 1) (dieOfCore x.1)).length).setFab s.fab.halted

theorem exec_fabricHalt_of {b : Nat} (ha : s.awake = true) (hb : s.fab.halt = some b) : exec .fabricHalt s =
    .next (if s.fab.running && decide (b * s.stepNs ≤ s.now) && (decide (b ≤ s.fab.first) || s.allDrained (b - 1)) then
      (s.fabricHalted b).abortReads b else s) := by
  change execFabricHalt s = _
  unfold execFabricHalt
  split
  next b' hb' =>
    obtain rfl : b' = b := by simpa [hb'] using hb
    simp only [ha, Bool.true_and]
    rfl
  next hnone => simp [hnone] at hb

/-! ### The fabric's set change (R226, R229) -/

/-- What each step of a run adds to a counter, the run adds once for each element. -/
theorem State.each_counts {α : Type} {x : Fld} {f : State → α → State} (h : ∀ u y, (f u y).get x % 2 ^ 32 = (u.get x + 1) % 2 ^ 32) (s : State) (l : List α) :
    (s.each l f).get x % 2 ^ 32 = (s.get x + l.length) % 2 ^ 32 := by
  induction l generalizing s with
  | nil => rfl
  | cons y l ih =>
    rw [State.each_cons, ih, Nat.add_mod, h, ← Nat.add_mod, List.length_cons]
    congr 1
    omega

/-- Cores that leave are counted; registers but that count, and the sets, stay. -/
theorem State.leaveCores_spec (s : State) (b : Nat) : s.keepsRegs (s.leaveCores b) [R.fabCntStep.key] ∧ (s.leaveCores b).active = s.active
    ∧ (s.leaveCores b).shadow = s.shadow ∧ (s.leaveCores b).get R.fabCntStep % 2 ^ 32
      = (s.get R.fabCntStep + ((s.cores (b - 1)).filter fun c => (s.core c).ran && !s.dieRuns b (dieOfCore c)).length) % 2 ^ 32 := by
  have hkeep := State.each_keeps (fun u : State => s.keepsRegs u [R.fabCntStep.key] ∧ u.active = s.active ∧ u.shadow = s.shadow)
    (f := fun s c => (s.inc R.fabCntStep).setCore c { s.core c with ran := false })
    (l := (s.cores (b - 1)).filter fun c => (s.core c).ran && !s.dieRuns b (dieOfCore c))
    (fun u c ⟨hregs, hact, hsha⟩ => ⟨hregs.inc (by simp), hact, hsha⟩) ⟨s.keepsRegs_refl _, rfl, rfl⟩
  refine ⟨hkeep.1, hkeep.2.1, hkeep.2.2, State.each_counts (fun u c => ?_) s _⟩
  change (u.inc R.fabCntStep).get R.fabCntStep % 2 ^ 32 = _
  rw [State.get_inc_same]
  exact Nat.mod_mod _ _

/-- The fabric but for what its cores keep. -/
def Fabric.uncored (f : Fabric) : Fabric := { f with core := [] }

/-- Cores that take up a set change nothing but themselves. -/
theorem State.joinCores_spec (s : State) (b : Nat) : s.keepsRegs (s.joinCores b) [] ∧ (s.joinCores b).active = s.active
    ∧ (s.joinCores b).shadow = s.shadow ∧ (s.joinCores b).fab.uncored = s.fab.uncored := by
  refine State.each_keeps (fun u : State => s.keepsRegs u [] ∧ u.active = s.active ∧ u.shadow = s.shadow ∧ u.fab.uncored = s.fab.uncored)
    (fun u c h => ?_) ⟨s.keepsRegs_refl _, rfl, rfl, rfl⟩
  exact iteInduction (motive := fun t : State => s.keepsRegs t [] ∧ t.active = s.active ∧ t.shadow = s.shadow ∧ t.fab.uncored = s.fab.uncored)
    (fun _ => h) fun _ => h

/-- Whether the set change of step `b` finds cores at work. -/
def State.midRun (s : State) (b : Nat) : Bool := s.fab.running && decide (s.fab.first < b)

/-- The state in which the set change of step `b` has been taken up. -/
def State.setChanged (s : State) (b : Nat) (l : List (Nat × Bool)) : State :=
  ((s.when (s.midRun b) fun s => s.leaveCores b).setFab { s.fab with swaps := l }).when (s.midRun b) fun s => s.joinCores b

theorem exec_fabricSetChange_of {b : Nat} {l : List (Nat × Bool)} (ha : s.awake = true) (hb : s.fab.swaps = (b, true) :: l) :
    exec .fabricSetChange s = .next (if decide (b * s.stepNs ≤ s.now) && (!s.fab.running || decide (b ≤ s.fab.first) || s.allDrained (b - 1)) then
      s.setChanged b l else s) := by
  change execFabricSetChange s = _
  unfold execFabricSetChange
  rw [hb]
  simp only [ha, Bool.true_and]
  rfl

/-- The cores that leave with the set change of step `b`. -/
def State.leaving (s : State) (b : Nat) : List Nat :=
  if s.midRun b then (s.cores (b - 1)).filter fun c => (s.core c).ran && !s.dieRuns b (dieOfCore c) else []

theorem State.setChanged_spec (s : State) (b : Nat) (l : List (Nat × Bool)) : s.keepsRegs (s.setChanged b l) [R.fabCntStep.key]
    ∧ (s.setChanged b l).active = s.active ∧ (s.setChanged b l).shadow = s.shadow
    ∧ (s.setChanged b l).fab.uncored = { s.fab with swaps := l }.uncored
    ∧ (s.setChanged b l).get R.fabCntStep % 2 ^ 32 = (s.get R.fabCntStep + (s.leaving b).length) % 2 ^ 32 := by
  unfold State.setChanged State.leaving
  by_cases h : s.midRun b = true
  · obtain ⟨lregs, lact, lsha, lcnt⟩ := s.leaveCores_spec b
    obtain ⟨jregs, jact, jsha, jfab⟩ := ((s.leaveCores b).setFab { s.fab with swaps := l }).joinCores_spec b
    rw [State.when_true _ h, State.when_true _ h, if_pos h]
    refine ⟨lregs.trans (jregs.mono (List.nil_subset _)), jact.trans lact, jsha.trans lsha, jfab, ?_⟩
    rw [jregs R.fabCntStep (by simp)]
    exact lcnt
  · rw [State.when_false _ (by simpa using h), State.when_false _ (by simpa using h), if_neg h]
    exact ⟨s.keepsRegs_refl _, rfl, rfl, rfl, rfl⟩

/-! ### Command messages (R334, R436) -/

/-- A message has come to its die: one less is on its way there, and the hop has passed. -/
def State.messageTaken (s : State) (die : Nat) : State := (s.setCtl { s.ctl with messages := SMap.upd s.ctl.messages 0 die (· - 1) }).hopPassed

theorem exec_commandMessage_of (ha : s.awake = true) (die : Fin 5) (parity : Bool) :
    exec (.commandMessage die parity) s = .next ((s.messageTaken die).parityCheck parity die die) := by
  change execCommandMessage die parity s = _
  rw [execCommandMessage, State.clocked_awake ha]
  rfl

/-- Settles O55: each command by its condition, and where it holds by what the unit then does. -/
theorem fabricOutputsAndHalts : Obligations.FabricOutputsAndHalts := by
  refine ⟨fun s ha => ⟨fun hrun hdue => ?looming, fun hno => ?noLooming⟩,
    fun parity s ha => ⟨fun hq => exec_reflexFire_empty hq parity, fun f l hq => ?fire⟩,
    fun r s ha => ⟨fun hdue => ?expiry, fun hno => ?noExpiry⟩, fun s b ha hb => ?halt, fun s b l ha hb => ?change, fun die parity s ha => ?message⟩
  case looming =>
    obtain ⟨hlen, hinc, helem⟩ := s.loomSamples_spec
    refine ⟨s.loomHanded, s.loomSamples, ?_, by rw [State.loomHanded_fab], by rw [State.loomHanded_fab]; exact SMap.find?_put_same _ _ _, hlen, hinc,
      fun k x f hx hf hclose hmax => ?_, fun hfull => ?_, fun hfull => ?_⟩
    · rw [exec_loomingHandover_of ha, if_pos]
      rw [hrun, Bool.true_and, Bool.or_eq_true, decide_eq_true_eq]
      exact hdue
    · rw [helem k x hx]
      obtain ⟨hage, hunknown, hold, hvalid, httc⟩ := State.loomSample_newest (i := s.free + 2 * k) (late := !s.loomFull)
        (State.mem_loomFires.2 ⟨hf, hclose⟩) fun g hg => LoomFire.beats_eq_false.2 (hmax g (State.mem_loomFires.1 hg).1 (State.mem_loomFires.1 hg).2)
      exact ⟨hage, hunknown, hold, fun hon h1 h2 => hvalid hon ⟨h1, h2⟩, fun c w hc h1 h2 => httc c w hc ⟨h1, h2⟩⟩
    · have hfull : s.loomFull = true := hfull
      unfold State.loomHanded
      rw [State.when_false _ (by simp [hfull])]
      exact s.keepsRegs_refl []
    · have hfull : s.loomFull = false := hfull
      unfold State.loomHanded
      rw [State.when_true _ (by simp [hfull])]
      exact ⟨State.get_set_same _ _ _, State.keepsRegs.set (s.keepsRegs_refl _) (by simp) _⟩
  case noLooming =>
    rw [exec_loomingHandover_of ha, if_neg]
    rw [Bool.and_eq_true, Bool.or_eq_true, decide_eq_true_eq]
    rintro ⟨hrun, hdue⟩
    rcases hno with hno | ⟨hfull, hlt⟩
    · simp [hno] at hrun
    · exact hdue.elim (fun h => by simp [State.loomFull, State.loomClose, hfull] at h) hlt.not_ge
  case fire =>
    obtain ⟨htime, hfab, -⟩ := ({ s with fab := { s.fab with reflexQ := l } }).parityCheck_parts parity dieIod 0
    have h0 := (s.reflexTaken l parity).reflexAt_only 0 f
    have h1 := ((s.reflexTaken l parity).reflexAt 0 f).reflexAt_only 1 f
    refine ⟨_, exec_reflexFire_of ha hq parity, h1.queue.trans (h0.queue.trans (congrArg Fabric.reflexQ hfab)),
      h1.time.trans (h0.time.trans htime), ?_, fun r => ?_⟩
    · rw [h1.regs _ (by decide), h0.regs _ (by decide)]
      exact (({ s with fab := { s.fab with reflexQ := l } }).parityCheck_counts parity dieIod 0).1
    · obtain ⟨hmet, hunmet⟩ := (s.reflexTaken l parity).reflexAt_both f r
      have hsame := s.reflexTaken_same l parity r
      refine ⟨fun h => ?_, fun h => ?_⟩
      · have h := (hmet (hsame.meets.2 h)).congr hsame (SameReflex.refl r _)
        exact ⟨h.counted, h.shown, h.driven, h.rests⟩
      · have h := hunmet fun hm => h (hsame.meets.1 hm)
        exact ⟨h.reflex.trans hsame.reflex, (h.regs _ (by simp [reflexFields])).trans (hsame.regs _ (by simp [reflexFields])),
          (h.regs _ (by simp [reflexFields])).trans (hsame.regs _ (by simp [reflexFields]))⟩
  case expiry =>
    obtain ⟨hflag, hlatch, hend⟩ := hdue
    refine ⟨_, (exec_reflexHoldExpiry_of ha r).trans (by rw [if_pos (by simp [hflag, hlatch, State.reached, hend])]),
      State.get_setFlag_same _ _ _ (le_refl 1), (s.keepsRegs_refl _).setFlag (by simp) false, rfl⟩
  case noExpiry =>
    rw [exec_reflexHoldExpiry_of ha r, if_neg]
    simp only [Bool.and_eq_true, Bool.not_eq_true', State.reached, decide_eq_true_eq]
    exact fun h => hno ⟨h.1.1, h.1.2, h.2⟩
  case halt =>
    have hkeep := (serveOnly_abortReads (s.fabricHalted b) b).rest
    refine ⟨fun hdue => ⟨(s.fabricHalted b).abortReads b, (exec_fabricHalt_of ha hb).trans (by rw [if_pos (by simpa [and_assoc] using hdue)]), ?_⟩, fun hno =>
      (exec_fabricHalt_of ha hb).trans (by rw [if_neg (by simpa [and_assoc] using hno)])⟩
    unfold State.core
    rw [hkeep.fab, hkeep.active, hkeep.shadow]
    exact ⟨rfl, rfl, fun c => (congrArg CoreFab.buffer (Fabric.halted_core s.fab c) :),
      fun c => (congrArg CoreFab.closed (Fabric.halted_core s.fab c) :),
      rfl, rfl, rfl, rfl⟩
  case change =>
    obtain ⟨hregs, hact, hsha, hfab, hcnt⟩ := s.setChanged_spec b l
    refine ⟨fun hdue => ⟨s.setChanged b l, (exec_fabricSetChange_of ha hb).trans (by rw [if_pos (by simpa [or_assoc] using hdue)]),
      (congrArg Fabric.swaps hfab :), hact, hsha, (congrArg Fabric.flight hfab :), (congrArg Fabric.windows hfab :), ?_, hregs⟩, fun hno =>
      (exec_fabricSetChange_of ha hb).trans (by rw [if_neg (by simpa [or_assoc] using hno)])⟩
    simpa [State.leaving, State.midRun] using hcnt
  case message =>
    obtain ⟨-, -, -, -, -, hctl⟩ := (s.messageTaken die).parityCheck_parts parity die die
    obtain ⟨hcnt, -, herr⟩ := (s.messageTaken die).parityCheck_counts parity die die
    refine ⟨_, exec_commandMessage_of ha die parity, ?_, fun d hd => ?_, congrArg Errors.hopFails herr, fun hp => ?_, fun hp => ?_⟩
    · rw [hctl]
      exact SMap.get_upd_same s.ctl.messages 0 die (· - 1)
    · rw [hctl]
      exact SMap.get_upd_ne hd s.ctl.messages 0 0 (· - 1)
    · subst hp
      exact s.keepsRegs_refl []
    · rw [hcnt, if_pos hp]
      rfl

end Sys2Proof.Machine
end

section
/-! SUPPORT. The spike fabric: what its operations leave alone, and the sets and contexts they work on (R193, R198–R205, R211–R217, R439, R442). -/

namespace Sys2Proof.Machine

variable {s t u : State} {ks ls : List Nat}

/-! ### Frames -/

/-- The register fields by which the fabric goes. -/
def fabFields : List Fld := [R.fabStepPeriodUs, R.errOfflineDies, R.hifSvcMode] ++ (List.range 8).map R.ingPortGeomWidthM1

/-- The register fields that a read of a fabric word may change. -/
def wordKeys : List Nat := R.fabStatusPoison.key :: eccKeys

/-- The register fields that a fire may change. -/
def fireKeys : List Nat := [R.cntFire.key, R.cntEdgeDrop.key, R.cntDieDiscard.key, R.cntTraceDrop.key]

/-- The register fields that one synapse of an arriving spike may change, its test apart. -/
def synapseKeys : List Nat := [R.cntSynUpd.key, R.cntFold.key, R.fabStatusFold.key]

/-- The register fields that an arriving spike may change. -/
def arriveKeys : List Nat := R.cntNosyn.key :: R.fabStatusPoison.key :: (synapseKeys ++ fireKeys)

/-- The register fields that an injected spike may change. -/
def injectKeys : List Nat := [R.cntInject.key, R.cntDieDiscard.key, R.cntShedFull.key, R.cntShedSlip.key]

/-- The register fields that a step start may change, its counted spikes apart. -/
def startKeys : List Nat := [R.fabCntStep.key, R.fabShedMaskCores.key, R.fabStatusShedding.key, R.fabStatusSlipMax.key, R.cntTraceDrop.key]

/-- The register fields that spikes and step starts may change. -/
def fabKeys : List Nat := R.cntParity.key :: (wordKeys ++ arriveKeys ++ injectKeys ++ startKeys)

theorem fabFields_fabKeys : ∀ x ∈ fabFields, x.key ∉ fabKeys := by decide

/-- The fabric but for its cores, the spikes on their way, and what its fires have left. -/
def Fabric.plan (f : Fabric) : Fabric := { f with core := [], flight := [], windows := [], loom := [], reflexQ := [] }

/-- From `s` to `t` the run, the steps and the marks of the fabric stay, with time, Canvas, the parked dies and all register fields but those listed. -/
structure FabFrame (ks : List Nat) (s t : State) : Prop where
  known : ks ⊆ fabKeys
  regs : s.keepsRegs t ks
  time : t.time = s.time
  cv : t.cv = s.cv
  parked : t.err.parked = s.err.parked
  plan : t.fab.plan = s.fab.plan

/-- The cores' barrier states stay too. -/
structure FabKeep (ks : List Nat) (s t : State) : Prop extends FabFrame ks s t where
  core : t.fab.core = s.fab.core

/-- The sets stay too. -/
structure FabAside (ks : List Nat) (s t : State) : Prop extends FabKeep ks s t where
  active : t.active = s.active
  shadow : t.shadow = s.shadow

/-- The spikes on their way stay too. -/
structure FabStill (ks : List Nat) (s t : State) : Prop extends FabAside ks s t where
  flight : t.fab.flight = s.fab.flight

namespace FabFrame

theorem trans (a : FabFrame ks s t) (b : FabFrame ks t u) : FabFrame ks s u :=
  ⟨a.known, a.regs.trans b.regs, b.time.trans a.time, b.cv.trans a.cv, b.parked.trans a.parked, b.plan.trans a.plan⟩

theorem mono (a : FabFrame ks s t) (h : ks ⊆ ls) (hl : ls ⊆ fabKeys) : FabFrame ls s t := ⟨hl, a.regs.mono h, a.time, a.cv, a.parked, a.plan⟩

/-- What the fabric goes by reads after as before. -/
theorem field (a : FabFrame ks s t) {x : Fld} (h : x ∈ fabFields) : t.get x = s.get x := a.regs x fun hk => fabFields_fabKeys x h (a.known hk)

theorem stepUs (a : FabFrame ks s t) : t.stepUs = s.stepUs := by
  unfold State.stepUs State.getIn
  rw [a.field (by simp [fabFields])]

theorem stepOf (a : FabFrame ks s t) (us : Nat) : t.stepOf us = s.stepOf us := by
  unfold State.stepOf
  rw [a.stepUs]

theorem offline (a : FabFrame ks s t) (d : Nat) : t.offline d = s.offline d := by
  unfold State.offline State.dieOff
  rw [a.field (by simp [fabFields]), a.parked]

theorem inActive (a : FabFrame ks s t) (k : Nat) : t.inActive k = s.inActive k := by
  unfold State.inActive
  rw [show t.fab.swaps = s.fab.swaps from (congrArg Fabric.swaps a.plan :)]

theorem stepRuns (a : FabFrame ks s t) (k : Nat) : t.stepRuns k = s.stepRuns k := by
  unfold State.stepRuns
  rw [show t.fab.running = s.fab.running from (congrArg Fabric.running a.plan :), show t.fab.first = s.fab.first from (congrArg Fabric.first a.plan :),
    show t.fab.halt = s.fab.halt from (congrArg Fabric.halt a.plan :)]

theorem width (a : FabFrame ks s t) {p : Nat} (hp : p < 8) : t.width p = s.width p := by
  unfold State.width
  rw [a.field (by simp only [fabFields, List.mem_append, List.mem_map, List.mem_range]; exact .inr ⟨p, hp, rfl⟩)]

theorem marks (a : FabFrame ks s t) : t.fab.marks = s.fab.marks := (congrArg Fabric.marks a.plan :)

end FabFrame

namespace FabKeep

theorem trans (a : FabKeep ks s t) (b : FabKeep ks t u) : FabKeep ks s u := ⟨a.toFabFrame.trans b.toFabFrame, b.core.trans a.core⟩

theorem mono (a : FabKeep ks s t) (h : ks ⊆ ls) (hl : ls ⊆ fabKeys) : FabKeep ls s t := ⟨a.toFabFrame.mono h hl, a.core⟩

theorem coreAt (a : FabKeep ks s t) (c : Nat) : t.core c = s.core c := congrArg (fun m : SMap CoreFab => SMap.get m {} c) a.core

theorem coreMarks (a : FabKeep ks s t) (c : Nat) : t.coreMarks c = s.coreMarks c := by
  unfold State.coreMarks
  rw [a.coreAt, a.stepUs]

end FabKeep

namespace FabAside

theorem trans (a : FabAside ks s t) (b : FabAside ks t u) : FabAside ks s u :=
  ⟨a.toFabKeep.trans b.toFabKeep, b.active.trans a.active, b.shadow.trans a.shadow⟩

theorem mono (a : FabAside ks s t) (h : ks ⊆ ls) (hl : ls ⊆ fabKeys) : FabAside ls s t := ⟨a.toFabKeep.mono h hl, a.active, a.shadow⟩

theorem stepSet (a : FabAside ks s t) (k : Nat) : t.stepSet k = s.stepSet k := by
  unfold State.stepSet
  rw [a.inActive, a.active, a.shadow]

theorem fabSet (a : FabAside ks s t) (k : Nat) : t.fabSet k = s.fabSet k := by
  unfold State.fabSet
  rw [a.stepSet]

theorem context (a : FabAside ks s t) (k c ix : Nat) : t.context k c ix = s.context k c ix := by
  unfold State.context
  rw [a.fabSet]

end FabAside

namespace FabStill

theorem refl (s : State) (h : ks ⊆ fabKeys) : FabStill ks s s := ⟨⟨⟨⟨h, s.keepsRegs_refl ks, rfl, rfl, rfl, rfl⟩, rfl⟩, rfl, rfl⟩, rfl⟩

theorem trans (a : FabStill ks s t) (b : FabStill ks t u) : FabStill ks s u := ⟨a.toFabAside.trans b.toFabAside, b.flight.trans a.flight⟩

theorem mono (a : FabStill ks s t) (h : ks ⊆ ls) (hl : ls ⊆ fabKeys) : FabStill ls s t := ⟨a.toFabAside.mono h hl, a.flight⟩

theorem set (a : FabStill ks s t) {f : Fld} (h : f.key ∈ ks) (v : Nat) : FabStill ks s (t.set f v) :=
  ⟨⟨⟨⟨a.known, a.regs.set h v, a.time, a.cv, a.parked, a.plan⟩, a.core⟩, a.active, a.shadow⟩, a.flight⟩

theorem inc (a : FabStill ks s t) {f : Fld} (h : f.key ∈ ks) : FabStill ks s (t.inc f) := a.set h _

theorem obs (a : FabStill ks s t) (v : Observe) : FabStill ks s { t with obs := v } :=
  ⟨⟨⟨⟨a.known, a.regs, a.time, a.cv, a.parked, a.plan⟩, a.core⟩, a.active, a.shadow⟩, a.flight⟩

theorem count (a : FabStill ks s t) (d k n : Nat) : FabStill ks s (t.count d k n) := a.obs _

theorem took (a : FabStill ks s t) (n : Nat) : FabStill ks s (t.took n) :=
  ⟨⟨⟨⟨a.known, a.regs, a.time, a.cv, a.parked, a.plan⟩, a.core⟩, a.active, a.shadow⟩, a.flight⟩

theorem setWindow (a : FabStill ks s t) (k : Nat) (w : Window) : FabStill ks s (t.setWindow k w) :=
  ⟨⟨⟨⟨a.known, a.regs, a.time, a.cv, a.parked, a.plan⟩, a.core⟩, a.active, a.shadow⟩, a.flight⟩

theorem when (a : FabStill ks s t) (c : Bool) {f : State → State} (h : ∀ u, FabStill ks s u → FabStill ks s (f u)) : FabStill ks s (t.when c f) := by
  cases c
  · exact a
  · exact h t a

theorem condition (a : FabStill ks s t) (k : Nat) : FabStill ks s (t.condition k) := by
  obtain ⟨v, hv⟩ := t.condition_eq k
  rw [hv]
  exact a.obs _

theorem trace (a : FabStill ks s t) (h : R.cntTraceDrop.key ∈ ks) (die source unit arg data : Nat) : FabStill ks s (t.trace die source unit arg data) := by
  unfold State.trace
  split
  · dsimp only
    split
    · exact a.obs _
    · exact (a.inc h).obs _
  · exact a

theorem of_quiet (h : Quiet s t) (hp : t.err.parked = s.err.parked) (hf : faultKeys ⊆ ks) (hk : ks ⊆ fabKeys) : FabStill ks s t :=
  ⟨⟨⟨⟨hk, fun x hx => h.regs x fun hq => hx (hf hq), h.time, h.cv, hp, by rw [h.fab]⟩, by rw [h.fab]⟩, h.active, h.shadow⟩, by rw [h.fab]⟩

theorem contained (a : FabStill ks s t) (hf : faultKeys ⊆ ks) (source die unit detail : Nat) : FabStill ks s (t.fault .contained source die unit detail) :=
  a.trans (of_quiet (quiet_fault (Quiet.refl t) ..) (t.contained_parked ..) hf a.known)

theorem corrected (a : FabStill ks s t) (hf : faultKeys ⊆ ks) (source die unit detail : Nat) : FabStill ks s (t.fault .corrected source die unit detail) :=
  a.trans (of_quiet (quiet_fault (Quiet.refl t) ..) (t.corrected_parked ..) hf a.known)

end FabStill

/-! ### Checks of words (R436, R439, R440) -/

theorem faultKeys_wordKeys : faultKeys ⊆ wordKeys := by decide

theorem State.parityCheck_still (s : State) (b : Bool) (die unit : Nat) : FabStill (R.cntParity.key :: faultKeys) s (s.parityCheck b die unit) := by
  obtain ⟨-, hq, herr⟩ := s.parityCheck_counts b die unit
  have hcount : FabStill (R.cntParity.key :: faultKeys) s (s.when b fun s => s.inc R.cntParity) :=
    (FabStill.refl s (by decide)).when b fun u hu => hu.inc (by simp)
  exact hcount.trans (FabStill.of_quiet hq ((congrArg Errors.parked herr).trans (State.when_same (·.err.parked) rfl b).symm) (by simp) (by decide))

theorem State.eccRead_still (s : State) (e : Ecc) (die mem detail : Nat) : FabStill wordKeys s (s.eccRead e die mem detail) := by
  cases e
  case ok => exact FabStill.refl s (by decide)
  case single => exact (((FabStill.refl s (by decide)).obs _).inc (by decide)).corrected faultKeys_wordKeys ..
  case uncorrectable => exact ((FabStill.refl s (by decide)).inc (by decide)).contained faultKeys_wordKeys ..

theorem State.eccRead_uncorrectable (s : State) (die mem detail : Nat) :
    (s.eccRead .uncorrectable die mem detail).get R.cntEccUncorr = (s.get R.cntEccUncorr + 1) % 2 ^ 32 :=
  ((quiet_fault (Quiet.refl (s.inc R.cntEccUncorr)) .contained 0x02 die mem detail).regs _ (by decide)).trans (State.get_inc_same _ _)

theorem State.checkFabWord_still (s : State) (f : FabSet) (mem : Nat) (h : MemHit) : FabStill wordKeys s (s.checkFabWord f mem h).1 := by
  have hread : FabStill wordKeys s ((s.eccRead h.ecc (dieOfMemory mem) (placeOfMemory mem) (s.freeValue % 2 ^ 64)).took 1) := (s.eccRead_still ..).took 1
  unfold State.checkFabWord
  dsimp only
  split
  · exact FabStill.refl s (by decide)
  · split
    · exact hread
    · exact hread
    · exact (hread.took 1).when _ fun u hu => hu.set (by decide) _

theorem FabSet.isBad_context {f : FabSet} {c ix : Nat} {x : Context} (hx : SMap.find? (c * 2 ^ 17 + ix) f.ctx = some x) (hp : x.poison = false) :
    f.isBad (.context c ix) = false := by
  change (SMap.get f.ctx {} (c * 2 ^ 17 + ix)).poison = false
  rw [SMap.get, hx]
  exact hp

/-- An uncorrectable error of a context word that was sound is counted and shown, and the context poisoned. -/
theorem State.checkFabWord_context {f : FabSet} {c ix : Nat} {x : Context} (s : State) (mem : Nat) (hx : SMap.find? (c * 2 ^ 17 + ix) f.ctx = some x)
    (hp : x.poison = false) :
    (s.checkFabWord f mem ⟨.context c ix, .uncorrectable⟩).1.get R.fabStatusPoison = 1
      ∧ (s.checkFabWord f mem ⟨.context c ix, .uncorrectable⟩).1.get R.cntEccUncorr = (s.get R.cntEccUncorr + 1) % 2 ^ 32
      ∧ (s.checkFabWord f mem ⟨.context c ix, .uncorrectable⟩).2 = { f with ctx := SMap.put (c * 2 ^ 17 + ix) x.spoil f.ctx } := by
  have hholds : f.holds (.context c ix) = true := congrArg Option.isSome hx
  have hsound : f.isBad (.context c ix) = false := FabSet.isBad_context hx hp
  unfold State.checkFabWord
  simp only [hholds, hsound, Bool.not_true, Bool.or_false, Bool.false_eq_true, if_false]
  refine ⟨State.get_setFlag_same _ _ true (by decide), (State.get_setFlag_other _ (by decide) true).trans (s.eccRead_uncorrectable ..), ?_⟩
  unfold FabSet.spoil
  dsimp only
  rw [hx]

/-! ### The set of a step -/

theorem State.setFabSet_keep (s : State) (k : Nat) (v : FabSet) (h : ks ⊆ fabKeys) :
    FabKeep ks s (s.setFabSet k v) ∧ (s.setFabSet k v).fab = s.fab := by
  unfold State.setFabSet
  split
  · exact ⟨⟨⟨h, s.keepsRegs_refl ks, rfl, rfl, rfl, rfl⟩, rfl⟩, rfl⟩
  · exact ⟨⟨⟨h, s.keepsRegs_refl ks, rfl, rfl, rfl, rfl⟩, rfl⟩, rfl⟩

theorem State.stepSet_setFabSet (s : State) (k : Nat) (v : FabSet) : (s.setFabSet k v).stepSet k = (s.stepSet k).map fun c => { c with fab := v } := by
  have h := (s.setFabSet_keep (ks := []) k v (by simp)).1.inActive k
  unfold State.stepSet
  rw [h]
  unfold State.setFabSet
  cases s.inActive k <;> rfl

theorem State.fabSet_setFabSet {k : Nat} (h : (s.stepSet k).isSome) (v : FabSet) : (s.setFabSet k v).fabSet k = v := by
  obtain ⟨c, hc⟩ := Option.isSome_iff_exists.1 h
  rw [State.fabSet, State.stepSet_setFabSet, hc]
  rfl

/-- A step whose set holds contexts has a set. -/
theorem State.stepSet_isSome {k : Nat} (h : (s.fabSet k).ctx ≠ []) : (s.stepSet k).isSome := by
  unfold State.fabSet at h
  cases hset : s.stepSet k with
  | none => exact absurd (by rw [hset]) h
  | some c => rfl

theorem State.stepSet_of_context {k c ix : Nat} {x : Context} (h : s.context k c ix = some x) : (s.stepSet k).isSome := by
  refine State.stepSet_isSome fun hnil => ?_
  rw [State.context, hnil] at h
  exact absurd h (by simp [SMap.find?])

theorem State.setContext_keep (s : State) (k c ix : Nat) (x : Context) (h : ks ⊆ fabKeys) :
    FabKeep ks s (s.setContext k c ix x) ∧ (s.setContext k c ix x).fab = s.fab := s.setFabSet_keep k _ h

theorem State.fabSet_setContext {k : Nat} (h : (s.stepSet k).isSome) (c ix : Nat) (x : Context) :
    (s.setContext k c ix x).fabSet k = { s.fabSet k with ctx := SMap.put (c * 2 ^ 17 + ix) x (s.fabSet k).ctx } := State.fabSet_setFabSet h _

theorem State.context_setContext {k : Nat} (h : (s.stepSet k).isSome) (c ix : Nat) (x : Context) :
    (s.setContext k c ix x).context k c ix = some x := by
  rw [State.context, State.fabSet_setContext h]
  exact SMap.find?_put_same _ _ _

/-! ### Words read by a core and by an engine -/

theorem State.readCore_keep (s : State) (k c : Nat) (hits : List MemHit) :
    FabKeep wordKeys s (s.readCore k c hits) ∧ (s.readCore k c hits).fab.flight = s.fab.flight :=
  State.each_keeps (fun u : State => FabKeep wordKeys s u ∧ u.fab.flight = s.fab.flight) (fun u h hu => by
    have hcheck := u.checkFabWord_still (u.fabSet k) c h
    obtain ⟨hset, hfab⟩ := (u.checkFabWord (u.fabSet k) c h).1.setFabSet_keep (ks := wordKeys) k (u.checkFabWord (u.fabSet k) c h).2 (by decide)
    exact ⟨(hu.1.trans hcheck.toFabKeep).trans hset, (congrArg Fabric.flight hfab).trans (hcheck.flight.trans hu.2)⟩)
    ⟨(FabStill.refl s (by decide)).toFabKeep, rfl⟩

theorem State.readRoute_keep (s : State) (e k src : Nat) (hits : List MemHit) : FabKeep wordKeys s (s.readRoute e k src hits) :=
  State.each_keeps (FabKeep wordKeys s) (fun u h hu => (hu.trans (u.checkFabWord_still _ _ h).toFabKeep).trans
    (State.setFabSet_keep _ _ _ (by decide)).1) (FabStill.refl s (by decide)).toFabKeep

/-- A core that finds an uncorrectable error in a sound context counts and shows it. -/
theorem State.readCore_context {k c ix : Nat} {x : Context} (hx : s.context k c ix = some x) (hp : x.poison = false) :
    (s.readCore k c [⟨.context c ix, .uncorrectable⟩]).get R.fabStatusPoison = 1
      ∧ (s.readCore k c [⟨.context c ix, .uncorrectable⟩]).get R.cntEccUncorr = (s.get R.cntEccUncorr + 1) % 2 ^ 32 := by
  obtain ⟨hpoison, hcount, -⟩ := s.checkFabWord_context c hx hp
  have hset := (State.setFabSet_keep (ks := []) (s.checkFabWord (s.fabSet k) c ⟨.context c ix, .uncorrectable⟩).1 k
    (s.checkFabWord (s.fabSet k) c ⟨.context c ix, .uncorrectable⟩).2 (by simp)).1.regs
  unfold State.readCore
  rw [show [(⟨.context c ix, .uncorrectable⟩ : MemHit)].filter (fun h => wordCore h.word == some c) = [⟨.context c ix, .uncorrectable⟩] by simp [wordCore],
    State.each_cons, State.each_nil]
  exact ⟨(hset _ (by simp)).trans hpoison, (hset _ (by simp)).trans hcount⟩

end Sys2Proof.Machine
end

section
/-! SUPPORT. Fires, tests and arriving spikes (R190, R191, R198–R205, R225, R226). -/

namespace Sys2Proof.Machine

variable {s t u : State} {ks ls : List Nat} {k c ix a us : Nat} {x : Context}

/-! ### Fires (R204, R226) -/

theorem State.traceSpike_still (s : State) (c src stamp : Nat) (payload : Int) : FabStill [R.cntTraceDrop.key] s (s.traceSpike c src stamp payload) := by
  have h := FabStill.refl s (ks := [R.cntTraceDrop.key]) (by decide)
  unfold State.traceSpike
  split
  · exact (h.when _ fun u hu => hu.trace (by simp) ..).obs _
  · exact h

theorem State.countFire_still (s : State) (k : Nat) (r : Route) (payload : Int) (poison : Bool) : FabStill [] s (s.countFire k r payload poison) := by
  have h := FabStill.refl s (ks := []) (by simp)
  unfold State.countFire
  split
  · exact h.setWindow _ _
  · exact h

theorem State.loomFire_still (s : State) (r : Route) (f : LoomFire) : FabStill [] s (s.loomFire r f) := by
  have h := FabStill.refl s (ks := []) (by simp)
  unfold State.loomFire
  split
  · exact ⟨⟨⟨⟨h.known, h.regs, rfl, rfl, rfl, rfl⟩, rfl⟩, rfl, rfl⟩, rfl⟩
  · exact h

/-- A copy of a fire of core `c` leaves for core `d`. -/
def State.emit (s : State) (c src us : Nat) (payload : Int) (poison : Bool) (d : Nat) : State :=
  if s.offline (dieOfCore d) then s.inc R.cntDieDiscard
  else s.setFab { s.fab with flight := s.fab.flight ++ [{ core := d, source := src, stamp := us, payload := payload, poison := poison, marks := s.coreMarks c }] }

theorem State.emit_aside (s : State) (c src us : Nat) (payload : Int) (poison : Bool) (d : Nat) :
    FabAside [R.cntDieDiscard.key] s (s.emit c src us payload poison d) := by
  have h := FabStill.refl s (ks := [R.cntDieDiscard.key]) (by decide)
  unfold State.emit
  split
  · exact (h.inc (by simp)).toFabAside
  · exact ⟨⟨⟨h.known, h.regs, rfl, rfl, rfl, rfl⟩, rfl⟩, rfl, rfl⟩

/-- The copies of a fire leave for every listed core whose die is online. -/
theorem State.each_emit_flight (s : State) (c src us : Nat) (payload : Int) (poison : Bool) (l : List Nat) :
    (s.each l fun u d => u.emit c src us payload poison d).fab.flight = s.fab.flight ++ (l.filter fun d => !s.offline (dieOfCore d)).map fun d =>
      { core := d, source := src, stamp := us, payload := payload, poison := poison, marks := s.coreMarks c } := by
  induction l generalizing s with
  | nil => simp [State.each_nil]
  | cons d l ih =>
    have h := s.emit_aside c src us payload poison d
    rw [State.each_cons, ih, h.coreMarks]
    simp only [h.offline]
    by_cases hd : s.offline (dieOfCore d) = true
    · rw [List.filter_cons_of_neg (by simp [hd]), State.emit, if_pos hd]
      rfl
    · rw [List.filter_cons_of_pos (by simpa using hd), State.emit, if_neg hd, List.map_cons]
      simp [State.setFab]

/-- A fire counted at its core. -/
def State.fireCounted (s : State) (c : Nat) : State := (s.inc R.cntFire).count (dieOfCore c) 14 1

/-- The state in which a fire has been traced and counted for windows, looming and reflexes, before its copies leave. -/
def State.fireNoted (s : State) (k0 c ix us : Nat) (payload : Int) (poison : Bool) : State :=
  let r := SMap.get (s.fabSet k0).routes {} (c * 2 ^ 17 + ix)
  let u := (((s.fireCounted c).traceSpike c (c * 2 ^ 17 + ix) us payload).countFire (s.stepOf us) r payload poison).loomFire r ⟨us, payload, poison, dieOfCore c⟩
  u.when r.groupEn fun u => u.setFab { u.fab with reflexQ := u.fab.reflexQ ++ [⟨r.group, s.stepOf us⟩] }

/-- Whether a fire of step `k` stamped `us` leaves its core: its stamp's step runs, and on the same set (R226). -/
def State.fireLeaves (s : State) (k us : Nat) : Bool := s.stepRuns (s.stepOf us) && s.inActive (s.stepOf us) == s.inActive k

theorem State.fireLeaves_iff : s.fireLeaves k us = true ↔ s.stepRuns (s.stepOf us) = true ∧ s.inActive (s.stepOf us) = s.inActive k := by
  simp [State.fireLeaves]

/-- Whether what neuron `ix` of core `c` sends is poisoned, by its own poison or that of its route entry. -/
def State.firePoison (s : State) (k c ix : Nat) (poison : Bool) : Bool := poison || SMap.get (s.fabSet k).badRoute false (c * 2 ^ 17 + ix)

theorem State.fire_eq (s : State) (k c ix us : Nat) (payload : Int) (poison : Bool) : s.fire k c ix us payload poison =
    if s.fireLeaves k us then (s.fireNoted k c ix us payload (s.firePoison k c ix poison)).each
        ((List.range 64).filter fun d => bit (SMap.get (s.fabSet k).routes {} (c * 2 ^ 17 + ix)).mask d)
        fun u d => u.emit c (c * 2 ^ 17 + ix) us payload (s.firePoison k c ix poison) d
    else (s.fireCounted c).inc R.cntEdgeDrop := by
  have hleaves : s.fireLeaves k us = !(!s.stepRuns (s.stepOf us) || s.inActive (s.stepOf us) != s.inActive k) := by
    simp [State.fireLeaves, bne]
  rw [hleaves]
  unfold State.fire
  extract_lets src k' r poison' s1 s2 s3
  cases (!s.stepRuns (s.stepOf us) || s.inActive (s.stepOf us) != s.inActive k) <;> rfl

theorem State.fireCounted_still (s : State) (c : Nat) : FabStill [R.cntFire.key] s (s.fireCounted c) :=
  ((FabStill.refl s (by decide)).inc (by simp)).count _ _ _

theorem State.fireNoted_still (s : State) (k c ix us : Nat) (payload : Int) (poison : Bool) :
    FabStill [R.cntTraceDrop.key] (s.fireCounted c) (s.fireNoted k c ix us payload poison) := by
  unfold State.fireNoted
  refine FabStill.when ?_ _ fun u hu => ⟨⟨⟨⟨hu.known, hu.regs, hu.time, hu.cv, hu.parked, hu.plan⟩, hu.core⟩, hu.active, hu.shadow⟩, hu.flight⟩
  exact ((State.traceSpike_still ..).trans ((State.countFire_still ..).mono (by simp) (by decide))).trans
    ((State.loomFire_still ..).mono (by simp) (by decide))

/-- A fire is counted at its core; the sets stay. -/
theorem State.fire_aside (s : State) (k c ix us : Nat) (payload : Int) (poison : Bool) :
    FabAside fireKeys s (s.fire k c ix us payload poison) ∧ (s.fire k c ix us payload poison).get R.cntFire = (s.get R.cntFire + 1) % 2 ^ 32 := by
  have hcount : (s.fireCounted c).get R.cntFire = (s.get R.cntFire + 1) % 2 ^ 32 := State.get_set_same s R.cntFire _
  have hcounted := (s.fireCounted_still c).mono (ls := fireKeys) (by decide) (by decide)
  rw [State.fire_eq]
  split
  · have hnoted := s.fireNoted_still k c ix us payload (s.firePoison k c ix poison)
    have hsent := State.each_keeps (FabAside [R.cntTraceDrop.key, R.cntDieDiscard.key] (s.fireCounted c))
      (l := (List.range 64).filter fun d => bit (SMap.get (s.fabSet k).routes {} (c * 2 ^ 17 + ix)).mask d)
      (fun u d hu => hu.trans ((u.emit_aside c (c * 2 ^ 17 + ix) us payload (s.firePoison k c ix poison) d).mono (by simp) (by decide)))
      (hnoted.mono (by simp) (by decide)).toFabAside
    exact ⟨hcounted.toFabAside.trans (hsent.mono (by decide) (by decide)), (hsent.regs _ (by decide)).trans hcount⟩
  · exact ⟨(hcounted.inc (by decide)).toFabAside, (State.get_set_other _ (by decide) _).trans hcount⟩

/-- A fire stamped in a step that does not run on its set is dropped (R226). -/
theorem State.fire_dropped (h : s.fireLeaves k us = false) (c ix : Nat) (payload : Int) (poison : Bool) :
    (s.fire k c ix us payload poison).fab.flight = s.fab.flight
      ∧ (s.fire k c ix us payload poison).get R.cntEdgeDrop = (s.get R.cntEdgeDrop + 1) % 2 ^ 32 := by
  rw [State.fire_eq, if_neg (by simp [h])]
  refine ⟨rfl, (State.get_set_same _ R.cntEdgeDrop _).trans ?_⟩
  rw [(s.fireCounted_still c).regs R.cntEdgeDrop (by decide)]
  rfl

/-- A fire that leaves its core goes to every core of its route whose die is online. -/
theorem State.fire_sent (h : s.fireLeaves k us = true) (c ix : Nat) (payload : Int) (poison : Bool) :
    (s.fire k c ix us payload poison).fab.flight = s.fab.flight
      ++ ((List.range 64).filter fun d => bit (SMap.get (s.fabSet k).routes {} (c * 2 ^ 17 + ix)).mask d && !s.offline (dieOfCore d)).map fun d =>
        { core := d, source := c * 2 ^ 17 + ix, stamp := us, payload := payload, poison := s.firePoison k c ix poison, marks := s.coreMarks c } := by
  have hnoted := ((s.fireCounted_still c).mono (ls := fireKeys) (by decide) (by decide)).trans
    ((s.fireNoted_still k c ix us payload (s.firePoison k c ix poison)).mono (by decide) (by decide))
  rw [State.fire_eq, if_pos h, State.each_emit_flight, hnoted.flight, hnoted.coreMarks, List.filter_filter]
  simp only [hnoted.offline, Bool.and_comm]

/-! ### Tests (R204, R205) -/

theorem State.testContext_keep (s : State) (k c ix us : Nat) (x : Context) : FabKeep fireKeys s (s.testContext k c ix us x).1 := by
  have hset (y : Context) := (s.setContext_keep (ks := fireKeys) k c ix y (by decide)).1
  unfold State.testContext
  dsimp only
  split
  · exact (hset _).trans (State.fire_aside ..).1.toFabKeep
  · exact hset _

theorem State.context_testContext (h : (s.stepSet k).isSome) (c ix us : Nat) (x : Context) :
    (s.testContext k c ix us x).1.context k c ix = some (s.testContext k c ix us x).2 := by
  unfold State.testContext
  dsimp only
  split
  · exact ((State.fire_aside ..).1.context _ _ _).trans (State.context_setContext h c ix _)
  · exact State.context_setContext h c ix _

/-- The value a test goes by. -/
def Context.tested (x : Context) : Int := clampInt (-(2 ^ 23)) (2 ^ 23 - 1) x.acc

/-- A sound context below its threshold is settled, and does not fire. -/
theorem State.testContext_below (hsound : (s.fabSet k).isBad (.cls c x.cls) = false) (hlt : x.tested < ((s.fabSet k).cls c x.cls).theta) (ix us : Nat) :
    s.testContext k c ix us x = (s.setContext k c ix { x with acc := x.tested, pf := false }, { x with acc := x.tested, pf := false }) := by
  have htest : x.test ((s.fabSet k).cls c x.cls) = ({ x with acc := x.tested, pf := false }, none) := by
    unfold Context.test
    exact if_neg hlt.not_ge
  unfold State.testContext
  rw [hsound]
  simp only [Bool.false_eq_true, if_false, htest, Bool.or_false]

/-- The payload of a fire of a class. -/
def ClassEntry.payloadOf (e : ClassEntry) (v : Int) : Int := if e.graded then clampInt 1 127 ((v - e.theta).fdiv (2 ^ e.shift)) else e.fix

/-- A context after it has fired. -/
def Context.fired (x : Context) (e : ClassEntry) : Context :=
  { x with acc := (if e.reset = 0 then 0 else if e.reset = 1 then x.tested - e.theta else x.tested), pf := false, poison := x.poison && e.reset != 0 }

/-- A sound context at its threshold is reset, and fires. -/
theorem State.testContext_fires (hsound : (s.fabSet k).isBad (.cls c x.cls) = false) (hle : ((s.fabSet k).cls c x.cls).theta ≤ x.tested) (ix us : Nat) :
    (s.testContext k c ix us x).1 = (s.setContext k c ix (x.fired ((s.fabSet k).cls c x.cls))).fire k c ix (us + 1)
        (((s.fabSet k).cls c x.cls).payloadOf x.tested) x.poison
      ∧ (s.testContext k c ix us x).2 = x.fired ((s.fabSet k).cls c x.cls) := by
  have htest : x.test ((s.fabSet k).cls c x.cls) = (x.fired ((s.fabSet k).cls c x.cls), some (((s.fabSet k).cls c x.cls).payloadOf x.tested)) := by
    unfold Context.test
    exact if_pos hle
  unfold State.testContext
  rw [hsound]
  simp only [Bool.false_eq_true, if_false, htest, Bool.or_false, and_self]

theorem FabFrame.fireLeaves (h : FabFrame ks s t) (k us : Nat) : t.fireLeaves k us = s.fireLeaves k us := by
  unfold State.fireLeaves
  rw [h.stepOf, h.stepRuns, h.inActive, h.inActive]

/-- A test below the threshold leaves its context settled, and nothing sent. -/
theorem State.testContext_rests (hset : (s.stepSet k).isSome) (hsound : (s.fabSet k).isBad (.cls c x.cls) = false)
    (hlt : x.tested < ((s.fabSet k).cls c x.cls).theta) (ix us : Nat) :
    (s.testContext k c ix us x).1.context k c ix = some { x with acc := x.tested, pf := false }
      ∧ (s.testContext k c ix us x).1.fab.flight = s.fab.flight ∧ (s.testContext k c ix us x).1.get R.cntFire = s.get R.cntFire := by
  obtain ⟨hkeep, hfab⟩ := s.setContext_keep (ks := []) k c ix { x with acc := x.tested, pf := false } (by simp)
  rw [State.testContext_below hsound hlt]
  exact ⟨State.context_setContext hset .., congrArg Fabric.flight hfab, hkeep.regs _ (by simp)⟩

/-- A test at the threshold resets its context, and its spike is dropped or sent along its route. -/
theorem State.testContext_sends (hset : (s.stepSet k).isSome) (hsound : (s.fabSet k).isBad (.cls c x.cls) = false)
    (hle : ((s.fabSet k).cls c x.cls).theta ≤ x.tested) (ix us : Nat) :
    (s.testContext k c ix us x).1.context k c ix = some (x.fired ((s.fabSet k).cls c x.cls))
      ∧ (s.testContext k c ix us x).1.get R.cntFire = (s.get R.cntFire + 1) % 2 ^ 32
      ∧ (s.fireLeaves k (us + 1) = false → (s.testContext k c ix us x).1.fab.flight = s.fab.flight
          ∧ (s.testContext k c ix us x).1.get R.cntEdgeDrop = (s.get R.cntEdgeDrop + 1) % 2 ^ 32)
      ∧ (s.fireLeaves k (us + 1) = true → (s.testContext k c ix us x).1.fab.flight = s.fab.flight
          ++ ((List.range 64).filter fun d => bit (SMap.get (s.fabSet k).routes {} (c * 2 ^ 17 + ix)).mask d && !s.offline (dieOfCore d)).map fun d =>
            { core := d, source := c * 2 ^ 17 + ix, stamp := us + 1, payload := ((s.fabSet k).cls c x.cls).payloadOf x.tested,
              poison := s.firePoison k c ix x.poison, marks := s.coreMarks c }) := by
  obtain ⟨hfire, hafter⟩ := State.testContext_fires hsound hle ix us
  have hcontext := State.context_testContext hset c ix us x
  obtain ⟨hkeep, hfab⟩ := s.setContext_keep (ks := []) k c ix (x.fired ((s.fabSet k).cls c x.cls)) (by simp)
  have hset' := State.fabSet_setContext hset c ix (x.fired ((s.fabSet k).cls c x.cls))
  have hget (y : Fld) : (s.setContext k c ix (x.fired ((s.fabSet k).cls c x.cls))).get y = s.get y := hkeep.regs y (by simp)
  rw [hafter] at hcontext
  refine ⟨hcontext, ?_, fun hleaves => ?_, fun hleaves => ?_⟩
  · rw [hfire, (State.fire_aside ..).2, hget]
  · obtain ⟨hflight, hdrop⟩ := State.fire_dropped ((hkeep.fireLeaves k (us + 1)).trans hleaves) c ix (((s.fabSet k).cls c x.cls).payloadOf x.tested) x.poison
    rw [hfire]
    exact ⟨hflight.trans (congrArg Fabric.flight hfab), hdrop.trans (by rw [hget])⟩
  · rw [hfire, State.fire_sent ((hkeep.fireLeaves k (us + 1)).trans hleaves), hfab, hset', hkeep.coreMarks]
    unfold State.firePoison
    simp only [hkeep.offline, hset']

/-! ### Integration (R190, R191, R202, R203) -/

/-- The state after what an instant's pending test does before a synapse of effective instant `a` is added, and the context then. -/
def State.untilInstant (s : State) (k c ix a : Nat) (x : Context) : State × Context :=
  if x.pf && after a x.last then s.testContext k c ix (a - ofInt 16 ((a : Int) - x.last)) x else (s, x)

theorem State.untilInstant_keep (s : State) (k c ix a : Nat) (x : Context) : FabKeep fireKeys s (s.untilInstant k c ix a x).1 := by
  unfold State.untilInstant
  split
  · exact s.testContext_keep ..
  · exact (FabStill.refl s (by decide)).toFabKeep

theorem State.stepSet_untilInstant (h : (s.stepSet k).isSome) (c ix a : Nat) (x : Context) : ((s.untilInstant k c ix a x).1.stepSet k).isSome := by
  unfold State.untilInstant
  split
  · exact State.stepSet_of_context (State.context_testContext h ..)
  · exact h

/-- Context `y` with `v` added to a potential that waits for the same instant. -/
def Context.added (y : Context) (v : Int) : Context := { y with acc := wrap42 (y.acc + v) }

/-- How long context `y` has leaked before instant `a`. -/
def Context.leakTime (y : Context) (age : Nat) : Nat := if y.old then 255 else min 255 age

/-- Context `y` leaked over `age`, and `v` added at instant `a`. -/
def Context.leaked (y : Context) (e : ClassEntry) (a age : Nat) (v : Int) : Context :=
  { y with
    acc := wrap42 (leak e y.acc (y.leakTime age) + v), last := a % 65536, old := false, pf := true,
    poison := y.poison && e.leak.getD (y.leakTime age) 0x8000 != 0 }

/-- An update that folds by instant `a` is counted, and shown in its window. -/
def State.noteFold (s : State) (a : Nat) : State :=
  ((s.inc R.cntFold).setFlag R.fabStatusFold true).setWindow (s.stepOf a) { s.window (s.stepOf a) with fold := (s.window (s.stepOf a)).fold + 1 }

theorem State.noteFold_still (s : State) (a : Nat) : FabStill [R.cntFold.key, R.fabStatusFold.key] s (s.noteFold a) :=
  (((FabStill.refl s (by decide)).inc (by simp)).set (by simp) _).setWindow _ _

theorem State.noteFold_counts (s : State) (a : Nat) : (s.noteFold a).get R.cntFold = (s.get R.cntFold + 1) % 2 ^ 32 :=
  ((s.inc R.cntFold).get_setFlag_other (f := R.fabStatusFold) (g := R.cntFold) (by decide) true).trans (State.get_set_same s R.cntFold _)

/-- An update counted, with what it shows: a context newly poisoned, and a fold by instant `a`. -/
def State.noteUpdate (s : State) (c a : Nat) (spoilt fold : Bool) : State :=
  (((s.inc R.cntSynUpd).count (dieOfCore c) 13 1).when spoilt fun s => s.setFlag R.fabStatusPoison true).when fold fun s => s.noteFold a

theorem State.whenFold_still (s : State) (a : Nat) (fold : Bool) : FabStill synapseKeys s (s.when fold fun s => s.noteFold a) :=
  (FabStill.refl s (by decide)).when _ fun u hu => hu.trans ((u.noteFold_still a).mono (by decide) (by decide))

theorem State.updateCounted_still (s : State) (c : Nat) : FabStill synapseKeys s ((s.inc R.cntSynUpd).count (dieOfCore c) 13 1) :=
  ((FabStill.refl s (by decide)).inc (by decide)).count _ _ _

theorem State.noteUpdate_sound (s : State) (c a : Nat) (fold : Bool) : FabStill synapseKeys s (s.noteUpdate c a false fold) :=
  (s.updateCounted_still c).trans (State.whenFold_still _ a fold)

theorem State.noteUpdate_still (s : State) (c a : Nat) (spoilt fold : Bool) :
    FabStill (R.fabStatusPoison.key :: synapseKeys) s (s.noteUpdate c a spoilt fold) :=
  (((s.updateCounted_still c).mono (by decide) (by decide)).when spoilt fun _ hu => hu.set (by simp) _).trans
    ((State.whenFold_still _ a fold).mono (by decide) (by decide))

theorem State.noteUpdate_counts (s : State) (c a : Nat) (fold : Bool) :
    (s.noteUpdate c a false fold).get R.cntSynUpd = (s.get R.cntSynUpd + 1) % 2 ^ 32
      ∧ (s.noteUpdate c a false fold).get R.cntFold = (if fold then (s.get R.cntFold + 1) % 2 ^ 32 else s.get R.cntFold) := by
  have hupd : ((s.inc R.cntSynUpd).count (dieOfCore c) 13 1).get R.cntSynUpd = (s.get R.cntSynUpd + 1) % 2 ^ 32 := State.get_set_same s _ _
  have hfold : ((s.inc R.cntSynUpd).count (dieOfCore c) 13 1).get R.cntFold = s.get R.cntFold := State.get_set_other s (by decide) _
  unfold State.noteUpdate
  rw [State.when_false _ rfl, ← hupd, ← hfold]
  cases fold
  case false => exact ⟨rfl, rfl⟩
  case true =>
    rw [State.when_true _ rfl, if_pos rfl]
    exact ⟨(State.noteFold_still _ a).regs R.cntSynUpd (by decide), State.noteFold_counts _ a⟩

/-- Once the poison status shows, an update leaves it so. -/
theorem State.noteUpdate_poison (h : s.get R.fabStatusPoison = 1) (c a : Nat) (spoilt fold : Bool) :
    (s.noteUpdate c a spoilt fold).get R.fabStatusPoison = 1 := by
  refine ((State.whenFold_still _ a fold).regs R.fabStatusPoison (by decide)).trans ?_
  cases spoilt
  case false => exact ((s.updateCounted_still c).regs _ (by decide)).trans h
  case true => exact State.get_setFlag_same _ R.fabStatusPoison true (by decide)

/-- The context that a synapse leaves: the value added where `x` waits for the same instant, or leaked and added to `y`, what a test has left;
poisoned where something drawn on is. -/
def State.updated (s : State) (k c a : Nat) (x y : Context) (v : Int) (drawn : Bool) : Context :=
  let z := if x.pf && !after a x.last then y.added v else y.leaked ((s.fabSet k).cls c y.cls) a (ofInt 16 ((a : Int) - x.last)) v
  if drawn || (s.fabSet k).isBad (.cls c x.cls) then z.spoil else z

/-- A synapse to a context that is there: what came due before, the context after, and what is noted. -/
theorem State.integrate_eq (hx : s.context k c ix = some x) (a : Nat) (late : Bool) (v : Int) (drawn : Bool) : s.integrate k c ix a late v drawn =
    ((s.untilInstant k c ix a x).1.setContext k c ix (s.updated k c a x (s.untilInstant k c ix a x).2 v drawn)).noteUpdate c a
      ((s.updated k c a x (s.untilInstant k c ix a x).2 v drawn).poison && !x.poison)
      (late || (x.pf && !after a x.last && a % 65536 != x.last)) := by
  have hdue : (x.pf && !(x.pf && !after a x.last)) = (x.pf && after a x.last) := by cases x.pf <;> simp
  unfold State.integrate
  rw [hx]
  simp only [hdue]
  rfl

theorem State.integrate_none (hx : s.context k c ix = none) (a : Nat) (late : Bool) (v : Int) (drawn : Bool) : s.integrate k c ix a late v drawn = s := by
  unfold State.integrate
  rw [hx]

/-- One synapse of a spike, as a spike's arrival takes it. -/
theorem State.integrate_keep (s : State) (k c ix a : Nat) (late : Bool) (v : Int) (drawn : Bool) : FabKeep arriveKeys s (s.integrate k c ix a late v drawn)
    ∧ (s.get R.fabStatusPoison = 1 → (s.integrate k c ix a late v drawn).get R.fabStatusPoison = 1) := by
  cases hx : s.context k c ix with
  | none =>
    rw [State.integrate_none hx]
    exact ⟨(FabStill.refl s (by decide)).toFabKeep, id⟩
  | some x =>
    rw [State.integrate_eq hx]
    have hdue := s.untilInstant_keep k c ix a x
    have hset := ((s.untilInstant k c ix a x).1.setContext_keep (ks := fireKeys) k c ix
      (s.updated k c a x (s.untilInstant k c ix a x).2 v drawn) (by decide)).1
    refine ⟨(((hdue.trans hset).mono (by decide) (by decide)).trans ((State.noteUpdate_still ..).mono (by decide) (by decide)).toFabKeep), fun h => ?_⟩
    exact State.noteUpdate_poison (((hdue.trans hset).regs _ (by decide)).trans h) ..

/-- A context to which a poisoned synapse is added is poisoned (R442). -/
theorem State.integrate_poisons (hx : s.context k c ix = some x) {drawn : Bool} (hbad : (drawn || (s.fabSet k).isBad (.cls c x.cls)) = true)
    (a : Nat) (late : Bool) (v : Int) : ∃ y, (s.integrate k c ix a late v drawn).context k c ix = some y ∧ y.acc = 0 ∧ y.poison = true := by
  rw [State.integrate_eq hx]
  have hset := State.stepSet_untilInstant (State.stepSet_of_context hx) c ix a x
  refine ⟨_, ((State.noteUpdate_still ..).context k c ix).trans (State.context_setContext hset c ix _), ?_⟩
  unfold State.updated
  simp only [hbad, if_true]
  exact ⟨rfl, rfl⟩

/-- A sound synapse to a context that no earlier instant waits for: the context after, and what counts it. -/
theorem State.integrate_sound (hx : s.context k c ix = some x) (hcls : (s.fabSet k).isBad (.cls c x.cls) = false) (hnow : (x.pf && after a x.last) = false)
    (late : Bool) (v : Int) :
    (s.integrate k c ix a late v false).context k c ix
        = some (if x.pf then x.added v else x.leaked ((s.fabSet k).cls c x.cls) a (ofInt 16 ((a : Int) - x.last)) v)
      ∧ (s.integrate k c ix a late v false).fab.flight = s.fab.flight ∧ s.keepsRegs (s.integrate k c ix a late v false) synapseKeys
      ∧ (s.integrate k c ix a late v false).get R.cntSynUpd = (s.get R.cntSynUpd + 1) % 2 ^ 32
      ∧ (s.integrate k c ix a late v false).get R.cntFold
        = (if late || (x.pf && a % 65536 != x.last) then (s.get R.cntFold + 1) % 2 ^ 32 else s.get R.cntFold) := by
  have huntil : s.untilInstant k c ix a x = (s, x) := by rw [State.untilInstant, hnow]; rfl
  have hmerge : (x.pf && !after a x.last) = x.pf := by
    cases hpf : x.pf
    · rfl
    · simpa [hpf] using hnow
  rw [State.integrate_eq hx, huntil]
  dsimp only
  rw [hmerge]
  have hz : s.updated k c a x x v false = if x.pf then x.added v else x.leaked ((s.fabSet k).cls c x.cls) a (ofInt 16 ((a : Int) - x.last)) v := by
    unfold State.updated
    simp [hcls, hmerge]
  have hsame : ((if x.pf then x.added v else x.leaked ((s.fabSet k).cls c x.cls) a (ofInt 16 ((a : Int) - x.last)) v).poison && !x.poison) = false := by
    cases x.pf
    · cases hp : x.poison <;> simp [Context.leaked, hp]
    · simp [Context.added]
  rw [hz, hsame]
  generalize (if x.pf then x.added v else x.leaked ((s.fabSet k).cls c x.cls) a (ofInt 16 ((a : Int) - x.last)) v) = z
  obtain ⟨hset, hfab⟩ := s.setContext_keep (ks := synapseKeys) k c ix z (by decide)
  have hnote := (s.setContext k c ix z).noteUpdate_sound c a (late || (x.pf && a % 65536 != x.last))
  obtain ⟨hupd, hfold⟩ := (s.setContext k c ix z).noteUpdate_counts c a (late || (x.pf && a % 65536 != x.last))
  have hget (f : Fld) : (s.setContext k c ix z).get f = s.get f := (s.setContext_keep (ks := []) k c ix z (by simp)).1.regs f (by simp)
  refine ⟨(hnote.context k c ix).trans (State.context_setContext (State.stepSet_of_context hx) c ix z), hnote.flight.trans (congrArg Fabric.flight hfab),
    hset.regs.trans hnote.regs, by rw [hupd, hget], by rw [hfold, hget]⟩

/-! ### Arriving spikes (R199–R202, R442) -/

/-- The synapse words of a spike, each with whether it is poisoned. -/
def State.synapsesOf (s : State) (f : Spike) : List (Nat × Bool) :=
  match (s.fabSet (s.stepOf f.stamp)).lookup f.core f.source with
  | some n => (s.fabSet (s.stepOf f.stamp)).synapses f.core n
  | none => []

/-- Whether an index entry of a spike is poisoned. -/
def State.indexBad (s : State) (f : Spike) : Bool :=
  (s.fabSet (s.stepOf f.stamp)).isBad (.first f.core (f.source / 2 ^ 17))
    || (match (s.fabSet (s.stepOf f.stamp)).lookup f.core f.source with
      | some n => (s.fabSet (s.stepOf f.stamp)).isBad (.second f.core n)
      | none => false)

/-- The instant at which a spike acts. -/
def State.instantOf (s : State) (f : Spike) : Nat :=
  if after f.stamp (s.core f.core).closed then f.stamp else (s.core f.core).closed + 1

/-- A synapse of spike `f`, integrated. -/
def State.takeSynapse (s : State) (k a : Nat) (bad : Bool) (f : Spike) (w : Nat × Bool) : State :=
  s.integrate k f.core (bits w.1 0 17) a (a != f.stamp) (toSigned 8 (bits w.1 17 8) * f.payload) (bad || w.2)

theorem State.arrive_eq (s : State) (f : Spike) : s.arrive f = if s.synapsesOf f = [] then s.inc R.cntNosyn
    else s.each (s.synapsesOf f) (fun u w => u.takeSynapse (s.stepOf f.stamp) (s.instantOf f) (f.poison || s.indexBad f) f w) := by
  simp only [State.indexBad, ← Bool.or_assoc]
  rfl

theorem State.arrive_keep (s : State) (f : Spike) : FabKeep arriveKeys s (s.arrive f)
    ∧ (s.get R.fabStatusPoison = 1 → (s.arrive f).get R.fabStatusPoison = 1) := by
  rw [State.arrive_eq]
  split
  · exact ⟨((FabStill.refl s (by decide)).inc (by decide)).toFabKeep, fun h => (State.get_set_other s (by decide) _).trans h⟩
  · exact State.each_keeps (fun u : State => FabKeep arriveKeys s u ∧ (s.get R.fabStatusPoison = 1 → u.get R.fabStatusPoison = 1))
      (fun u w hu => ⟨hu.1.trans (u.integrate_keep ..).1, fun h => (u.integrate_keep ..).2 (hu.2 h)⟩)
      ⟨(FabStill.refl s (by decide)).toFabKeep, id⟩

namespace FabAside

theorem synapsesOf (h : FabAside ks s t) (f : Spike) : t.synapsesOf f = s.synapsesOf f := by
  unfold State.synapsesOf
  rw [h.stepOf, h.fabSet]

theorem indexBad (h : FabAside ks s t) (f : Spike) : t.indexBad f = s.indexBad f := by
  unfold State.indexBad
  rw [h.stepOf, h.fabSet]

theorem instantOf (h : FabAside ks s t) (f : Spike) : t.instantOf f = s.instantOf f := by
  unfold State.instantOf
  rw [h.coreAt]

end FabAside

end Sys2Proof.Machine
end

section
/-! SUPPORT. Input spikes injected (R194, R195, R211–R214). -/

namespace Sys2Proof.Machine

variable {s t u : State} {ks : List Nat}

/-! ### A copy of an input spike at its core (R211–R214) -/

theorem State.shed_still (s : State) (c k : Nat) {cnt : Fld} (h : cnt.key ∈ ks) (hk : ks ⊆ fabKeys) : FabStill ks s (s.shed c k cnt) :=
  ((((FabStill.refl s hk).inc h).setWindow _ _).count _ _ _).condition _

/-- Whether the step of an instant has come at core `c`. -/
def State.stepCome (s : State) (c us : Nat) : Bool :=
  match (s.core c).step with
  | some j => decide (s.stepOf us ≤ j)
  | none => false

theorem State.inputAt_eq (s : State) (f : Spike) : s.inputAt f =
    if s.offline (dieOfCore f.core) then s.inc R.cntDieDiscard
    else if 32768 ≤ (s.core f.core).buffer.length then s.shed f.core (s.stepOf f.stamp) R.cntShedFull
    else if s.stepCome f.core f.stamp then
      if (s.core f.core).shed then s.shed f.core (s.stepOf f.stamp) R.cntShedSlip else s.setFab { s.fab with flight := s.fab.flight ++ [f] }
    else s.setCore f.core { s.core f.core with buffer := (s.core f.core).buffer ++ [f] } := rfl

theorem State.inputAt_frame (s : State) (f : Spike) : FabFrame injectKeys s (s.inputAt f) := by
  have h := FabStill.refl s (ks := injectKeys) (by decide)
  rw [State.inputAt_eq]
  split
  · exact (h.inc (by decide)).toFabFrame
  · split
    · exact (s.shed_still (cnt := R.cntShedFull) _ _ (by decide) h.known).toFabFrame
    · split
      · split
        · exact (s.shed_still (cnt := R.cntShedSlip) _ _ (by decide) h.known).toFabFrame
        · exact ⟨h.known, h.regs, rfl, rfl, rfl, rfl⟩
      · exact ⟨h.known, h.regs, rfl, rfl, rfl, rfl⟩

/-- Spike `f` finds its core online and with room. -/
def State.hasRoom (s : State) (f : Spike) : Prop := s.offline (dieOfCore f.core) = false ∧ (s.core f.core).buffer.length < 32768

/-- A copy whose step its core is in is on its way to be integrated. -/
theorem State.inputAt_running {f : Spike} (hroom : s.hasRoom f) (hshed : (s.core f.core).shed = false) (hcome : s.stepCome f.core f.stamp = true) :
    s.inputAt f = s.setFab { s.fab with flight := s.fab.flight ++ [f] } := by
  obtain ⟨hoff, hlen⟩ := hroom
  rw [State.inputAt_eq, if_neg (by simp [hoff]), if_neg hlen.not_ge, if_pos hcome, if_neg (by simp [hshed])]

/-- A copy whose step is to come waits in the injection buffer of its core. -/
theorem State.inputAt_waiting {f : Spike} (hroom : s.hasRoom f) (hcome : s.stepCome f.core f.stamp = false) :
    s.inputAt f = s.setCore f.core { s.core f.core with buffer := (s.core f.core).buffer ++ [f] } := by
  obtain ⟨hoff, hlen⟩ := hroom
  rw [State.inputAt_eq, if_neg (by simp [hoff]), if_neg hlen.not_ge, if_neg (by simp [hcome])]

theorem State.stepCome_of_le {c us j : Nat} (hj : (s.core c).step = some j) (h : s.stepOf us ≤ j) : s.stepCome c us = true := by
  unfold State.stepCome
  rw [hj]
  exact decide_eq_true h

theorem State.stepCome_eq_false {c us : Nat} (h : ∀ j, (s.core c).step = some j → j < s.stepOf us) : s.stepCome c us = false := by
  unfold State.stepCome
  split
  · next j hj => exact decide_eq_false (h j hj).not_ge
  · rfl

theorem FabKeep.stepCome (h : FabKeep ks s t) (c us : Nat) : t.stepCome c us = s.stepCome c us := by
  unfold State.stepCome
  rw [h.coreAt, h.stepOf]

theorem FabKeep.hasRoom (h : FabKeep ks s t) (f : Spike) : t.hasRoom f ↔ s.hasRoom f := by
  unfold State.hasRoom
  rw [h.offline, h.coreAt]

theorem State.core_setCore (s : State) (c : Nat) (v : CoreFab) : (s.setCore c v).core c = v := SMap.get_set_same s.fab.core {} c v

theorem State.core_setCore_other {c d : Nat} (h : d ≠ c) (s : State) (v : CoreFab) : (s.setCore c v).core d = s.core d :=
  SMap.get_set_ne h s.fab.core {} {} v

/-! ### The copies of an input spike -/

/-- The copy of an input spike at core `c`, with the marks of its engine. -/
def State.inputCopy (s : State) (f : Nat → Spike) (e c : Nat) : State := s.inputAt { f c with marks := SMap.get s.fab.marks 0 e }

theorem State.each_inputCopy_frame (s : State) (f : Nat → Spike) (e : Nat) (l : List Nat) : FabFrame injectKeys s (s.each l fun u c => u.inputCopy f e c) :=
  State.each_keeps (FabFrame injectKeys s) (fun u _ hu => hu.trans (u.inputAt_frame _)) (FabStill.refl s (by decide)).toFabFrame

variable {f : Nat → Spike} {e : Nat}

/-- Copies whose step their cores are in are on their way, in the order of their cores. -/
theorem State.each_inputCopy_running {l : List Nat} (hcore : ∀ c, (f c).core = c) (hmarks : ∀ c, (f c).marks = SMap.get s.fab.marks 0 e)
    (h : ∀ c ∈ l, s.hasRoom (f c) ∧ (s.core c).shed = false ∧ s.stepCome c (f c).stamp = true) :
    (s.each l fun u c => u.inputCopy f e c).fab.flight = s.fab.flight ++ l.map f ∧ s.keepsRegs (s.each l fun u c => u.inputCopy f e c) [] := by
  induction l generalizing s with
  | nil => exact ⟨by simp [State.each_nil], s.keepsRegs_refl _⟩
  | cons c l ih =>
    obtain ⟨hroom, hshed, hcome⟩ := h c List.mem_cons_self
    have hcopy : { f c with marks := SMap.get s.fab.marks 0 e } = f c := by rw [← hmarks c]
    have hfirst : s.inputCopy f e c = s.setFab { s.fab with flight := s.fab.flight ++ [f c] } := by
      rw [State.inputCopy, hcopy]
      exact State.inputAt_running hroom (by rw [hcore]; exact hshed) (by rw [hcore]; exact hcome)
    rw [State.each_cons, hfirst]
    obtain ⟨hflight, hregs⟩ := ih (s := s.setFab { s.fab with flight := s.fab.flight ++ [f c] }) hmarks fun d hd => h d (List.mem_cons_of_mem c hd)
    exact ⟨by rw [hflight]; simp [State.setFab], hregs⟩

/-- Copies whose step is to come wait, each at its core. -/
theorem State.each_inputCopy_waiting {l : List Nat} (hcore : ∀ c, (f c).core = c) (hmarks : ∀ c, (f c).marks = SMap.get s.fab.marks 0 e) (hl : l.Nodup)
    (h : ∀ c ∈ l, s.hasRoom (f c) ∧ s.stepCome c (f c).stamp = false) :
    (s.each l fun u c => u.inputCopy f e c).fab.flight = s.fab.flight ∧ s.keepsRegs (s.each l fun u c => u.inputCopy f e c) []
      ∧ (∀ c ∈ l, ((s.each l fun u c => u.inputCopy f e c).core c).buffer = (s.core c).buffer ++ [f c])
      ∧ ∀ c, c ∉ l → (s.each l fun u c => u.inputCopy f e c).core c = s.core c := by
  induction l generalizing s with
  | nil => exact ⟨rfl, s.keepsRegs_refl _, by simp, fun c _ => rfl⟩
  | cons c l ih =>
    obtain ⟨hnot, hl⟩ := List.nodup_cons.1 hl
    obtain ⟨hroom, hcome⟩ := h c List.mem_cons_self
    have hcopy : { f c with marks := SMap.get s.fab.marks 0 e } = f c := by rw [← hmarks c]
    have hfirst : s.inputCopy f e c = s.setCore c { s.core c with buffer := (s.core c).buffer ++ [f c] } := by
      rw [State.inputCopy, hcopy]
      exact (State.inputAt_waiting hroom (by rw [hcore]; exact hcome)).trans (by rw [hcore])
    have hother (d : Nat) (hd : d ∈ l) : (s.setCore c { s.core c with buffer := (s.core c).buffer ++ [f c] }).core d = s.core d :=
      State.core_setCore_other (by rintro rfl; exact hnot hd) s _
    rw [State.each_cons, hfirst]
    obtain ⟨hflight, hregs, hin, hout⟩ := ih (s := s.setCore c { s.core c with buffer := (s.core c).buffer ++ [f c] }) hmarks hl fun d hd => by
      obtain ⟨⟨hoff, hlen⟩, hcome⟩ := h d (List.mem_cons_of_mem c hd)
      refine ⟨⟨hoff, ?_⟩, ?_⟩
      · rw [hcore] at hlen ⊢
        rw [hother d hd]
        exact hlen
      · unfold State.stepCome
        rw [hother d hd]
        exact hcome
    refine ⟨hflight, hregs, fun d hd => ?_, fun d hd => ?_⟩
    · rcases List.mem_cons.1 hd with rfl | hd
      · rw [hout d hnot, State.core_setCore]
      · rw [hin d hd, hother d hd]
    · obtain ⟨hne, hd⟩ := not_or.1 (mt List.mem_cons.2 hd)
      rw [hout d hd, State.core_setCore_other hne]

/-! ### INPUT_SPIKE_INJECTION (R194, R195) -/

/-- The input map that an event goes by. -/
def State.eventMap (s : State) (v : EngineEvent) : InputMap := SMap.get (s.fabSet (s.inputSource v).1).maps {} (bits v.word 47 3)

/-- The route entry that an event goes by. -/
def State.eventRoute (s : State) (v : EngineEvent) : Route := SMap.get (s.fabSet (s.inputSource v).1).routes {} (s.inputSource v).2

/-- The cores to which an event's spike goes. -/
def State.eventCores (s : State) (v : EngineEvent) : List Nat := (List.range 64).filter fun c => bit (s.eventRoute v).mask c

/-- Whether an event of engine `e` injects (R194). -/
def State.mayInject (s : State) (e : Nat) (v : EngineEvent) : Bool :=
  s.stepRuns (s.inputSource v).1 && (s.eventMap v).takes (bit v.word 46) && (s.eventRoute v).mask != 0 && !s.offline (dieOfEngine e)

/-- The copy of an event's spike for core `c`. -/
def State.eventSpike (s : State) (e : Nat) (v : EngineEvent) (c : Nat) : Spike :=
  { core := c, source := (s.inputSource v).2, engine := some e, stamp := v.time / 1000,
    payload := if bit v.word 46 then (s.eventMap v).payPos else (s.eventMap v).payNeg,
    poison := v.poison || SMap.get (s.fabSet (s.inputSource v).1).badRoute false (s.inputSource v).2, marks := SMap.get s.fab.marks 0 e }

theorem State.injectSpike_eq (s : State) (e : Nat) (v : EngineEvent) : s.injectSpike e v = if s.mayInject e v then
    (s.inc R.cntInject).each ((List.range 64).filter fun c => bit (s.eventRoute v).mask c) fun u c => u.inputCopy (s.eventSpike e v) e c else s := rfl

theorem State.injectSpike_frame (s : State) (e : Nat) (v : EngineEvent) : FabFrame injectKeys s (s.injectSpike e v) := by
  have h := FabStill.refl s (ks := injectKeys) (by decide)
  rw [State.injectSpike_eq]
  split
  · exact (h.inc (by decide)).toFabFrame.trans (State.each_inputCopy_frame ..)
  · exact h.toFabFrame

namespace FabAside

variable (h : FabAside ks s t) (v : EngineEvent)
include h

theorem inputSource : t.inputSource v = s.inputSource v := by
  have hport : bits v.word 47 3 < 8 := Nat.mod_lt _ (by decide)
  unfold State.inputSource
  dsimp only
  rw [h.stepOf, h.fabSet, h.width hport]

theorem eventMap : t.eventMap v = s.eventMap v := by
  unfold State.eventMap
  rw [h.inputSource, h.fabSet]

theorem eventRoute : t.eventRoute v = s.eventRoute v := by
  unfold State.eventRoute
  rw [h.inputSource, h.fabSet]

theorem eventCores : t.eventCores v = s.eventCores v := by
  unfold State.eventCores
  rw [h.eventRoute]

theorem mayInject (e : Nat) : t.mayInject e v = s.mayInject e v := by
  unfold State.mayInject
  rw [h.inputSource, h.stepRuns, h.eventMap, h.eventRoute, h.offline]

theorem eventSpike (e : Nat) : t.eventSpike e v = s.eventSpike e v := by
  funext c
  unfold State.eventSpike
  rw [h.inputSource, h.eventMap, h.fabSet, h.marks]

end FabAside

theorem State.mayInject_iff {e : Nat} {v : EngineEvent} : s.mayInject e v = true ↔ s.stepRuns (s.inputSource v).1 = true
    ∧ (s.eventMap v).takes (bit v.word 46) = true ∧ (s.eventRoute v).mask ≠ 0 ∧ s.offline (dieOfEngine e) = false := by
  simp [State.mayInject, and_assoc]

theorem State.injectSpike_refused {e : Nat} {v : EngineEvent} (h : s.mayInject e v = false) : s.injectSpike e v = s := by
  rw [State.injectSpike_eq, if_neg (by simp [h])]

theorem State.injectCounted_still (s : State) : FabStill [R.cntInject.key] s (s.inc R.cntInject) := (FabStill.refl s (by decide)).inc (by simp)

/-- A spike whose step its cores are in is on its way to each of them. -/
theorem State.injectSpike_running {e : Nat} {v : EngineEvent} (hmay : s.mayInject e v = true)
    (h : ∀ c ∈ s.eventCores v, s.hasRoom (s.eventSpike e v c) ∧ (s.core c).shed = false ∧ s.stepCome c (v.time / 1000) = true) :
    (s.injectSpike e v).fab.flight = s.fab.flight ++ (s.eventCores v).map (s.eventSpike e v)
      ∧ (s.injectSpike e v).get R.cntInject = (s.get R.cntInject + 1) % 2 ^ 32 ∧ s.keepsRegs (s.injectSpike e v) [R.cntInject.key] := by
  have hinc := s.injectCounted_still
  obtain ⟨hflight, hregs⟩ := State.each_inputCopy_running (s := s.inc R.cntInject) (f := s.eventSpike e v) (e := e) (l := s.eventCores v) (fun _ => rfl)
    (fun _ => rfl) fun c hc => by rw [hinc.hasRoom, hinc.coreAt, hinc.stepCome]; exact h c hc
  rw [State.injectSpike_eq, if_pos hmay]
  exact ⟨hflight, (hregs _ (by simp)).trans (State.get_set_same s R.cntInject _), ((s.keepsRegs_refl _).inc (by simp)).trans (hregs.mono (by simp))⟩

/-- A spike whose step is to come waits at each of its cores. -/
theorem State.injectSpike_waiting {e : Nat} {v : EngineEvent} (hmay : s.mayInject e v = true)
    (h : ∀ c ∈ s.eventCores v, s.hasRoom (s.eventSpike e v c) ∧ s.stepCome c (v.time / 1000) = false) :
    (s.injectSpike e v).fab.flight = s.fab.flight ∧ (∀ c ∈ s.eventCores v, ((s.injectSpike e v).core c).buffer = (s.core c).buffer ++ [s.eventSpike e v c])
      ∧ (s.injectSpike e v).get R.cntInject = (s.get R.cntInject + 1) % 2 ^ 32 ∧ s.keepsRegs (s.injectSpike e v) [R.cntInject.key] := by
  have hinc := s.injectCounted_still
  obtain ⟨hflight, hregs, hin, -⟩ := State.each_inputCopy_waiting (s := s.inc R.cntInject) (f := s.eventSpike e v) (e := e) (l := s.eventCores v) (fun _ => rfl)
    (fun _ => rfl) (List.nodup_range.filter _) fun c hc => by rw [hinc.hasRoom, hinc.stepCome]; exact h c hc
  rw [State.injectSpike_eq, if_pos hmay]
  exact ⟨hflight, hin, (hregs _ (by simp)).trans (State.get_set_same s R.cntInject _), ((s.keepsRegs_refl _).inc (by simp)).trans (hregs.mono (by simp))⟩

/-- The oldest event of engine `e` taken off its queue, its word checked. -/
def State.eventTaken (s : State) (e : Fin 8) (l : List EngineEvent) (parity : Bool) : State :=
  ({ s with cv := { s.cv with spikes := SMap.set s.cv.spikes [] e l } }).parityCheck parity (dieOfEngine e) e

/-- Beside Canvas, the event taken off changes what a parity check does. -/
theorem State.eventTaken_still (s : State) (e : Fin 8) (l : List EngineEvent) (parity : Bool) :
    FabStill (R.cntParity.key :: faultKeys) { s with cv := { s.cv with spikes := SMap.set s.cv.spikes [] e l } } (s.eventTaken e l parity) :=
  State.parityCheck_still _ _ _ _

/-- What an injection does that finds its words sound: the event taken off, its spike sent, the marks of its engine. -/
def State.spikeInjected (s : State) (e : Fin 8) (v : EngineEvent) (l : List EngineEvent) (parity : Bool) : State :=
  ((s.eventTaken e l parity).injectSpike e v).sendMarks e

/-- A spike whose step its cores are in, taken from its queue. -/
theorem State.spikeInjected_running {e : Fin 8} {v : EngineEvent} (hmay : s.mayInject e v = true)
    (h : ∀ c ∈ s.eventCores v, s.hasRoom (s.eventSpike e v c) ∧ (s.core c).shed = false ∧ s.stepCome c (v.time / 1000) = true)
    (l : List EngineEvent) (parity : Bool) :
    (s.spikeInjected e v l parity).fab.flight = s.fab.flight ++ (s.eventCores v).map (s.eventSpike e v)
      ∧ (s.spikeInjected e v l parity).get R.cntInject = (s.get R.cntInject + 1) % 2 ^ 32
      ∧ (parity = false → s.keepsRegs (s.spikeInjected e v l parity) [R.cntInject.key]) := by
  have ht := s.eventTaken_still e l parity
  have hcores : (s.eventTaken e l parity).eventCores v = s.eventCores v := ht.eventCores v
  have hspike : (s.eventTaken e l parity).eventSpike e v = s.eventSpike e v := ht.eventSpike v e
  obtain ⟨hflight, hcount, hregs⟩ := State.injectSpike_running (s := s.eventTaken e l parity) ((ht.mayInject v e).trans hmay) fun c hc => by
    rw [ht.hasRoom, ht.coreAt, ht.stepCome, hspike]
    exact h c (hcores ▸ hc)
  refine ⟨hflight.trans (by rw [ht.flight, hcores, hspike]), hcount.trans (by rw [ht.regs R.cntInject (by decide)]; rfl), fun hp => ?_⟩
  subst hp
  exact hregs

/-- A spike whose step is to come, taken from its queue. -/
theorem State.spikeInjected_waiting {e : Fin 8} {v : EngineEvent} (hmay : s.mayInject e v = true)
    (h : ∀ c ∈ s.eventCores v, s.hasRoom (s.eventSpike e v c) ∧ s.stepCome c (v.time / 1000) = false) (l : List EngineEvent) (parity : Bool) :
    (s.spikeInjected e v l parity).fab.flight = s.fab.flight
      ∧ (∀ c ∈ s.eventCores v, ((s.spikeInjected e v l parity).core c).buffer = (s.core c).buffer ++ [s.eventSpike e v c])
      ∧ (s.spikeInjected e v l parity).get R.cntInject = (s.get R.cntInject + 1) % 2 ^ 32
      ∧ (parity = false → s.keepsRegs (s.spikeInjected e v l parity) [R.cntInject.key]) := by
  have ht := s.eventTaken_still e l parity
  have hcores : (s.eventTaken e l parity).eventCores v = s.eventCores v := ht.eventCores v
  have hspike : (s.eventTaken e l parity).eventSpike e v = s.eventSpike e v := ht.eventSpike v e
  obtain ⟨hflight, hbuffer, hcount, hregs⟩ := State.injectSpike_waiting (s := s.eventTaken e l parity) ((ht.mayInject v e).trans hmay) fun c hc => by
    rw [ht.hasRoom, ht.stepCome, hspike]
    exact h c (hcores ▸ hc)
  refine ⟨hflight.trans ht.flight, fun c hc => (hbuffer c (hcores.symm ▸ hc)).trans (by rw [ht.coreAt, hspike]; rfl),
    hcount.trans (by rw [ht.regs R.cntInject (by decide)]; rfl), fun hp => ?_⟩
  subst hp
  exact hregs

/-- An event that may not inject leaves its queue without a spike. -/
theorem State.spikeInjected_refused {e : Fin 8} {v : EngineEvent} (hmay : s.mayInject e v = false) (l : List EngineEvent) (parity : Bool) :
    (s.spikeInjected e v l parity).fab.flight = s.fab.flight ∧ (s.spikeInjected e v l parity).fab.core = s.fab.core
      ∧ (parity = false → s.keepsRegs (s.spikeInjected e v l parity) []) := by
  have ht := s.eventTaken_still e l parity
  unfold State.spikeInjected
  rw [State.injectSpike_refused ((ht.mayInject v e).trans hmay)]
  refine ⟨ht.flight, ht.core, fun hp => ?_⟩
  subst hp
  exact s.keepsRegs_refl []

theorem exec_inputSpikeInjection_of (ha : s.awake = true) {e : Fin 8} {v : EngineEvent} {l : List EngineEvent} (hq : SMap.get s.cv.spikes [] e = v :: l)
    (parity : Bool) (hits : List MemHit) : exec (.inputSpikeInjection e parity hits) s = .next (if s.inputOpen e then
      (((s.eventTaken e l parity).readRoute e (s.inputSource v).1 (s.inputSource v).2 hits).injectSpike e { v with poison := v.poison || parity }).sendMarks e
      else s) := by
  change execInputSpikeInjection e parity hits s = _
  unfold execInputSpikeInjection
  rw [hq, State.clocked_awake ha]
  cases s.inputOpen e <;> rfl

/-- An injection that finds its words sound. -/
theorem exec_inputSpikeInjection_sound (ha : s.awake = true) {e : Fin 8} {v : EngineEvent} {l : List EngineEvent} (hq : SMap.get s.cv.spikes [] e = v :: l)
    (hopen : s.inputOpen e = true) (parity : Bool) :
    exec (.inputSpikeInjection e parity []) s = .next (s.spikeInjected e { v with poison := v.poison || parity } l parity) := by
  rw [exec_inputSpikeInjection_of ha hq, if_pos hopen]
  rfl

end Sys2Proof.Machine
end

section
/-! SUPPORT. Spikes delivered, instants closed, steps started, contexts aged, step boundaries (R198–R213). -/

namespace Sys2Proof.Machine

variable {s t u : State} {ks : List Nat} {f : Spike} {i k c ix : Nat} {x : Context}

/-! ### SPIKE_ARRIVAL (R198–R202) -/

/-- A spike read from its queue, and the words its core reads for it. -/
def State.spikeRead (s : State) (f : Spike) (parity : Bool) (hits : List MemHit) : State :=
  (s.parityCheck parity (dieOfCore f.core) f.core).readCore (s.stepOf f.stamp) f.core hits

theorem exec_spikeArrival_of (ha : s.awake = true) (hf : s.fab.flight[i]? = some f) (parity : Bool) (hits : List MemHit) :
    exec (.spikeArrival i parity hits) s = .next (if s.spikeMayArrive i f then
      if s.offline (dieOfCore f.core) then (s.dropFlight i).inc R.cntDieDiscard
      else (s.spikeRead f parity hits).deliverSpike i { f with poison := f.poison || parity }
    else s) := by
  change execSpikeArrival i parity hits s = _
  unfold execSpikeArrival
  rw [hf]
  simp only [ha, Bool.not_true, Bool.false_or]
  cases s.spikeMayArrive i f <;> rfl

/-- Outside mode 2 a spike is delivered as it is. -/
theorem State.deliverSpike_plain (h : s.get R.hifSvcMode ≠ 2) (i : Nat) (f : Spike) : s.deliverSpike i f = (s.dropFlight i).arrive f := by
  have hinjects : s.injects f.core = (s, false) := by
    unfold State.injects
    rw [if_neg (by simp [h])]
  unfold State.deliverSpike
  dsimp only
  rw [hinjects]
  rfl

theorem State.dropFlight_aside (s : State) (i : Nat) (h : ks ⊆ fabKeys) : FabAside ks s (s.dropFlight i) :=
  ⟨⟨⟨h, s.keepsRegs_refl ks, rfl, rfl, rfl, rfl⟩, rfl⟩, rfl, rfl⟩

/-- A spike for a core whose die is online acts on its core outside mode 2. -/
theorem exec_spikeArrival_online (ha : s.awake = true) (hf : s.fab.flight[i]? = some f) (hmay : s.spikeMayArrive i f = true)
    (hon : s.offline (dieOfCore f.core) = false) (hmode : s.get R.hifSvcMode ≠ 2) (parity : Bool) (hits : List MemHit) :
    exec (.spikeArrival i parity hits) s = .next (((s.spikeRead f parity hits).dropFlight i).arrive { f with poison := f.poison || parity }) := by
  have hread : FabKeep (R.cntParity.key :: wordKeys) s (s.spikeRead f parity hits) :=
    ((s.parityCheck_still parity _ _).mono (by decide) (by decide)).toFabKeep.trans ((State.readCore_keep _ _ _ _).1.mono (by decide) (by decide))
  rw [exec_spikeArrival_of ha hf, if_pos hmay, if_neg (by simp [hon]), State.deliverSpike_plain]
  rw [hread.field (by simp [fabFields])]
  exact hmode

/-- What a spike finds where its words are sound: all but its place in the queue as before. -/
theorem State.spikeRead_aside (s : State) (f : Spike) (parity : Bool) (i : Nat) :
    FabAside (R.cntParity.key :: faultKeys) s ((s.spikeRead f parity []).dropFlight i)
      ∧ ((s.spikeRead f parity []).dropFlight i).fab.flight = s.fab.flight.eraseIdx i := by
  have hcheck := s.parityCheck_still parity (dieOfCore f.core) f.core
  exact ⟨hcheck.toFabAside.trans (State.dropFlight_aside _ i (by decide)), congrArg (·.eraseIdx i) hcheck.flight⟩

theorem State.arrive_none (h : s.synapsesOf f = []) : s.arrive f = s.inc R.cntNosyn := by
  rw [State.arrive_eq, if_pos h]

theorem State.arrive_single {w : Nat × Bool} (h : s.synapsesOf f = [w]) :
    s.arrive f = s.takeSynapse (s.stepOf f.stamp) (s.instantOf f) (f.poison || s.indexBad f) f w := by
  rw [State.arrive_eq, h, if_neg (by simp)]
  rfl

/-- One synapse that draws on poison poisons its context. -/
theorem State.arrive_poisons {w : Nat} {bad : Bool} (hsyn : s.synapsesOf f = [(w, bad)])
    (hx : s.context (s.stepOf f.stamp) f.core (bits w 0 17) = some x)
    (hbad : (f.poison || s.indexBad f || bad || (s.fabSet (s.stepOf f.stamp)).isBad (.cls f.core x.cls)) = true) :
    ∃ y, (s.arrive f).context (s.stepOf f.stamp) f.core (bits w 0 17) = some y ∧ y.acc = 0 ∧ y.poison = true := by
  rw [State.arrive_single hsyn]
  exact State.integrate_poisons hx hbad _ _ _

/-- One sound synapse, to a context that no earlier instant waits for. -/
theorem State.arrive_sound {w : Nat} (hsyn : s.synapsesOf f = [(w, false)]) (hx : s.context (s.stepOf f.stamp) f.core (bits w 0 17) = some x)
    (hp : f.poison = false) (hindex : s.indexBad f = false) (hcls : (s.fabSet (s.stepOf f.stamp)).isBad (.cls f.core x.cls) = false)
    (hnow : (x.pf && after (s.instantOf f) x.last) = false) :
    (s.arrive f).context (s.stepOf f.stamp) f.core (bits w 0 17) = some (if x.pf then x.added (toSigned 8 (bits w 17 8) * f.payload)
        else x.leaked ((s.fabSet (s.stepOf f.stamp)).cls f.core x.cls) (s.instantOf f) (ofInt 16 ((s.instantOf f : Int) - x.last))
          (toSigned 8 (bits w 17 8) * f.payload))
      ∧ (s.arrive f).fab.flight = s.fab.flight ∧ s.keepsRegs (s.arrive f) synapseKeys
      ∧ (s.arrive f).get R.cntSynUpd = (s.get R.cntSynUpd + 1) % 2 ^ 32
      ∧ (s.arrive f).get R.cntFold = (if (s.instantOf f != f.stamp) || (x.pf && s.instantOf f % 65536 != x.last) then (s.get R.cntFold + 1) % 2 ^ 32
        else s.get R.cntFold) := by
  rw [State.arrive_single hsyn]
  unfold State.takeSynapse
  rw [hp, hindex]
  exact State.integrate_sound hx hcls hnow _ _

theorem State.instantOf_eq (s : State) (f : Spike) :
    s.instantOf f = if 0 < wrapDiff 16 f.stamp (s.core f.core).closed then f.stamp else (s.core f.core).closed + 1 := by
  simp only [State.instantOf, after, decide_eq_true_eq]

/-- A spike whose context reads as uncorrectable shows and counts it. -/
theorem State.arrive_uncorrectable {parity : Bool} (hx : s.context (s.stepOf f.stamp) f.core ix = some x) (hp : x.poison = false) (i : Nat) (g : Spike) :
    (((s.spikeRead f parity [⟨.context f.core ix, .uncorrectable⟩]).dropFlight i).arrive g).get R.fabStatusPoison = 1
      ∧ (((s.spikeRead f parity [⟨.context f.core ix, .uncorrectable⟩]).dropFlight i).arrive g).get R.cntEccUncorr = (s.get R.cntEccUncorr + 1) % 2 ^ 32 := by
  have hcheck := s.parityCheck_still parity (dieOfCore f.core) f.core
  obtain ⟨hpoison, hcount⟩ := State.readCore_context ((hcheck.context _ _ _).trans hx) hp
  obtain ⟨harrive, hstays⟩ := ((s.spikeRead f parity [⟨.context f.core ix, .uncorrectable⟩]).dropFlight i).arrive_keep g
  refine ⟨hstays hpoison, (harrive.regs R.cntEccUncorr (by decide)).trans (hcount.trans ?_)⟩
  rw [hcheck.regs R.cntEccUncorr (by decide)]

/-! ### INSTANT_CLOSE (R205) -/

/-- The state in which core `c` has tested the contexts that wait for its next instant. -/
def State.instantTested (s : State) (c : Nat) (hits : List MemHit) : State :=
  (s.readCore (s.stepOf ((s.core c).closed + 1)) c hits).each
    ((s.readCore (s.stepOf ((s.core c).closed + 1)) c hits).pendingAt (s.stepOf ((s.core c).closed + 1)) c ((s.core c).closed + 1))
    fun u x => (u.testContext (s.stepOf ((s.core c).closed + 1)) c (x.1 % 2 ^ 17) ((s.core c).closed + 1) x.2).1

theorem State.awake_of_mayClose (h : s.mayClose c = true) : s.awake = true := by
  simp only [State.mayClose, Bool.and_eq_true] at h
  exact h.1.1.1.1

/-- The state in which core `c` has closed its next instant. -/
def State.instantClosed (s : State) (c : Nat) (hits : List MemHit) : State :=
  (s.instantTested c hits).setCore c { (s.instantTested c hits).core c with closed := (s.core c).closed + 1 }

theorem exec_instantClose_of (s : State) (c : Fin 64) (hits : List MemHit) :
    exec (.instantClose c hits) s = .next (if s.mayClose c then s.instantClosed c hits else s) := by
  change execInstantClose c hits s = _
  rw [execInstantClose]
  by_cases h : s.mayClose c = true
  · rw [State.clocked_awake (State.awake_of_mayClose h)]
    rfl
  · dsimp only
    rw [if_neg h, if_neg h, State.clocked, ite_self]

theorem State.tests_keep {α : Type} (s : State) (k c us : Nat) (ix : α → Nat) (x : α → Context) (l : List α) :
    FabKeep fireKeys s (s.each l fun u y => (u.testContext k c (ix y) us (x y)).1) :=
  State.each_keeps (FabKeep fireKeys s) (fun u _ hu => hu.trans (u.testContext_keep ..)) (FabStill.refl s (by decide)).toFabKeep

theorem State.instantTested_keep (s : State) (c : Nat) (hits : List MemHit) : FabKeep (wordKeys ++ fireKeys) s (s.instantTested c hits) :=
  ((State.readCore_keep _ _ _ _).1.mono (by decide) (by decide)).trans ((State.tests_keep ..).mono (by decide) (by decide))

/-- One context waits, its words sound: its test is all that happens before the close. -/
theorem State.instantTested_single {c : Nat} (hix : ix < 2 ^ 17)
    (h : s.pendingAt (s.stepOf ((s.core c).closed + 1)) c ((s.core c).closed + 1) = [(c * 2 ^ 17 + ix, x)]) :
    s.instantTested c [] = (s.testContext (s.stepOf ((s.core c).closed + 1)) c ix ((s.core c).closed + 1) x).1 := by
  have hkey : (c * 2 ^ 17 + ix) % 2 ^ 17 = ix := by omega
  unfold State.instantTested
  rw [show s.readCore (s.stepOf ((s.core c).closed + 1)) c [] = s from rfl, h, State.each_cons, State.each_nil, hkey]

theorem State.core_instantClosed (s : State) (c : Nat) (hits : List MemHit) :
    (s.instantClosed c hits).core c = { s.core c with closed := (s.core c).closed + 1 } := by
  rw [State.instantClosed, State.core_setCore, (s.instantTested_keep c hits).coreAt]

/-- A context that reads as uncorrectable shows and counts it. -/
theorem State.instantClosed_uncorrectable {c : Nat} (hx : s.context (s.stepOf ((s.core c).closed + 1)) c ix = some x) (hp : x.poison = false) :
    (s.instantClosed c [⟨.context c ix, .uncorrectable⟩]).get R.fabStatusPoison = 1
      ∧ (s.instantClosed c [⟨.context c ix, .uncorrectable⟩]).get R.cntEccUncorr = (s.get R.cntEccUncorr + 1) % 2 ^ 32 := by
  obtain ⟨hpoison, hcount⟩ := State.readCore_context hx hp
  have htests := State.tests_keep (s.readCore (s.stepOf ((s.core c).closed + 1)) c [⟨.context c ix, .uncorrectable⟩]) (s.stepOf ((s.core c).closed + 1)) c
    ((s.core c).closed + 1) (fun x : Nat × Context => x.1 % 2 ^ 17) (fun x => x.2)
    ((s.readCore (s.stepOf ((s.core c).closed + 1)) c [⟨.context c ix, .uncorrectable⟩]).pendingAt (s.stepOf ((s.core c).closed + 1)) c ((s.core c).closed + 1))
  exact ⟨(htests.regs _ (by decide)).trans hpoison, (htests.regs _ (by decide)).trans hcount⟩

/-- Contexts that wait have a set. -/
theorem State.stepSet_of_pending {us : Nat} {e : Nat × Context} (h : e ∈ s.pendingAt k c us) : (s.stepSet k).isSome :=
  State.stepSet_isSome (List.ne_nil_of_mem (List.mem_filter.1 h).1)

/-- The one context that waits is tested before its instant closes. -/
theorem State.instantClosed_single {c : Nat} (hix : ix < 2 ^ 17)
    (h : s.pendingAt (s.stepOf ((s.core c).closed + 1)) c ((s.core c).closed + 1) = [(c * 2 ^ 17 + ix, x)]) : ∃ v, s.instantClosed c [] =
      (s.testContext (s.stepOf ((s.core c).closed + 1)) c ix ((s.core c).closed + 1) x).1.setCore c v := by
  rw [State.instantClosed, State.instantTested_single hix h]
  exact ⟨_, rfl⟩

/-! ### STEP_START (R211–R213) -/

/-- Whether core `c` sheds as it starts step `k` (R213). -/
def State.startSheds (s : State) (c k : Nat) : Bool :=
  if (s.core c).shed then decide (0 < s.slip k) else decide (max 1 (s.get R.fabSlipLimit) < s.slip k)

theorem State.startSheds_iff : s.startSheds c k = true ↔
    (if (s.core c).shed then 0 < s.slip k else max 1 (s.get R.fabSlipLimit) < s.slip k) := by
  unfold State.startSheds
  split <;> exact decide_eq_true_iff

/-- Core `c` in step `k`. -/
def State.startedCore (s : State) (c k : Nat) : CoreFab :=
  { s.core c with
    step := some k, ran := true, shed := s.startSheds c k,
    buffer := (s.core c).buffer.filter fun f => !decide (s.stepOf f.stamp ≤ k), closed := max (s.core c).closed (k * s.stepUs - 1) }

/-- Core `c` has entered step `k`, its last one counted. -/
def State.stepEntered (s : State) (c k : Nat) : State := (s.when (s.core c).ran fun s => s.inc R.fabCntStep).setCore c (s.startedCore c k)

/-- What core `c` shows of step `k` as it starts it. -/
def State.stepShown (s : State) (c k : Nat) : State :=
  ((((s.stepEntered c k).showShed c (s.startSheds c k)).set R.fabStatusSlipMax (max (s.get R.fabStatusSlipMax) (min 255 (s.slip k)))).setWindow k
    { s.window k with slip := max (s.window k).slip (s.slip k) }).when (decide (0 < s.slip k))
    fun u => u.trace (dieOfCore c) 8 c (k % 2 ^ 32) (min 255 (s.slip k))

/-- The spikes that have waited for step `k` at core `c`. -/
def State.stepSpikes (s : State) (c k : Nat) : List Spike := (s.core c).buffer.filter fun f => decide (s.stepOf f.stamp ≤ k)

/-- The state in which core `c` has started step `k`. -/
def State.stepStarted (s : State) (c k : Nat) : State :=
  if s.startSheds c k then (s.stepShown c k).each (s.stepSpikes c k) fun u _ => u.shed c k R.cntShedSlip
  else (s.stepShown c k).setFab { (s.stepShown c k).fab with flight := (s.stepShown c k).fab.flight ++ s.stepSpikes c k }

theorem exec_stepStart_of (ha : s.awake = true) (c : Fin 64) : exec (.stepStart c) s =
    .next (if s.mayStart c (s.nextCoreStep c) && !s.late (tickOf (s.nextCoreStep c * s.stepNs)) then s.stepStarted c (s.nextCoreStep c) else s) := by
  change execStepStart c s = _
  rw [execStepStart, State.clocked_awake ha]
  rfl

theorem State.stepShown_still (s : State) (c k : Nat) : FabStill startKeys (s.stepEntered c k) (s.stepShown c k) :=
  ((((FabStill.refl _ (by decide)).set (by decide) _).set (by decide) _).set (by decide) _ |>.setWindow _ _).when _ fun _ hu => hu.trace (by decide) ..

theorem State.stepShown_slipMax (s : State) (c k : Nat) :
    (s.stepShown c k).get R.fabStatusSlipMax = max (s.get R.fabStatusSlipMax) (min 255 (s.slip k)) % 2 ^ 8 := by
  have htrace (u : State) : FabStill [R.cntTraceDrop.key] u (u.when (decide (0 < s.slip k)) fun u => u.trace (dieOfCore c) 8 c (k % 2 ^ 32) (min 255 (s.slip k))) :=
    (FabStill.refl u (by decide)).when _ fun _ hu => hu.trace (by simp) ..
  exact ((htrace _).regs R.fabStatusSlipMax (by decide)).trans (State.get_set_same _ R.fabStatusSlipMax _)

theorem State.core_stepEntered (s : State) (c k : Nat) : (s.stepEntered c k).core c = s.startedCore c k := State.core_setCore _ c _

theorem State.flight_stepEntered (s : State) (c k : Nat) : (s.stepEntered c k).fab.flight = s.fab.flight := State.when_same (·.fab.flight) rfl _

theorem State.stepEntered_shedSlip (s : State) (c k : Nat) : (s.stepEntered c k).get R.cntShedSlip = s.get R.cntShedSlip :=
  ((s.keepsRegs_refl [R.fabCntStep.key]).when (s.core c).ran ((s.keepsRegs_refl _).inc (by simp))) R.cntShedSlip (by decide)

/-- What a step start leaves at its core and shows of it. -/
theorem State.stepStarted_spec (s : State) (c k : Nat) : (s.stepStarted c k).core c = s.startedCore c k
    ∧ (s.stepStarted c k).get R.fabStatusSlipMax = max (s.get R.fabStatusSlipMax) (min 255 (s.slip k)) % 2 ^ 8
    ∧ (s.startSheds c k = false → (s.stepStarted c k).fab.flight = s.fab.flight ++ s.stepSpikes c k
        ∧ (s.stepStarted c k).get R.cntShedSlip = s.get R.cntShedSlip)
    ∧ (s.startSheds c k = true → (s.stepStarted c k).fab.flight = s.fab.flight
        ∧ (s.stepStarted c k).get R.cntShedSlip % 2 ^ 32 = (s.get R.cntShedSlip + (s.stepSpikes c k).length) % 2 ^ 32) := by
  have hshown := s.stepShown_still c k
  have hslip := s.stepShown_slipMax c k
  have hcore : (s.stepShown c k).core c = s.startedCore c k := (hshown.coreAt c).trans (s.core_stepEntered c k)
  have hflight : (s.stepShown c k).fab.flight = s.fab.flight := hshown.flight.trans (s.flight_stepEntered c k)
  have hcount : (s.stepShown c k).get R.cntShedSlip = s.get R.cntShedSlip := (hshown.regs _ (by decide)).trans (s.stepEntered_shedSlip c k)
  unfold State.stepStarted
  cases hshed : s.startSheds c k
  case false =>
    exact ⟨hcore, hslip, fun _ => ⟨congrArg (· ++ s.stepSpikes c k) hflight, hcount⟩, fun h => absurd h (by simp)⟩
  case true =>
    have hsheds := State.each_keeps (FabStill [R.cntShedSlip.key] (s.stepShown c k)) (l := s.stepSpikes c k) (f := fun u _ => u.shed c k R.cntShedSlip)
      (fun u _ hu => hu.trans (u.shed_still _ _ (by simp) (by decide))) (FabStill.refl _ (by decide))
    refine ⟨(hsheds.coreAt c).trans hcore, (hsheds.regs _ (by decide)).trans hslip, fun h => absurd h (by simp), fun _ => ⟨hsheds.flight.trans hflight, ?_⟩⟩
    rw [if_pos rfl, State.each_counts (fun u _ => ?_), hcount]
    obtain ⟨v, hv⟩ := ((((u.inc R.cntShedSlip).setWindow k { u.window k with shed := (u.window k).shed + 1 }).count (dieOfCore c) 15 1)).condition_eq 3
    unfold State.shed
    rw [hv]
    exact (congrArg (· % 2 ^ 32) (State.get_set_same u R.cntShedSlip _)).trans (Nat.mod_mod _ _)

/-! ### CONTEXT_AGE_SWEEP (R208) -/

/-- Whether the sweep visits the contexts of core `c`. -/
def State.sweeps (s : State) (c : Nat) : Bool := s.timeRuns && !s.halted && s.powered (dieOfCore c)

/-- The contexts under `key` aged in both sets, and counted. -/
def State.contextsAged (s t : State) (key : Nat) : State :=
  ({ t with active := t.active.map (visitContext key (ageContext (s.now / 1000))), shadow := t.shadow.map (visitContext key (ageContext (s.now / 1000))) }).add
    R.cntSweep (s.contextCount key)

theorem exec_contextAgeSweep_of (s : State) (c : Fin 64) (ix : Nat) (hits : List MemHit) : exec (.contextAgeSweep c ix hits) s =
    .next (if s.sweeps c then s.contextsAged (s.readContext c ix hits) (c * 2 ^ 17 + ix) else s) := rfl

/-- A visit changes the context under its key alone. -/
theorem find?_visitContext (key : Nat) (g : Context → Context) (a : ConfigSet) (j : Nat) :
    SMap.find? j (visitContext key g a).fab.ctx = if j = key then (SMap.find? j a.fab.ctx).map g else SMap.find? j a.fab.ctx := by
  have hmap : (visitContext key g a).fab.ctx = a.fab.ctx.map fun x => (x.1, if x.1 = key then g x.2 else x.2) := by
    refine List.map_congr_left fun x _ => ?_
    split <;> rfl
  rw [hmap, SMap.find?_map_key fun j v => if j = key then g v else v]
  split
  · rfl
  · exact Option.map_id'

theorem ageContext_eq (u : Nat) (x : Context) :
    ageContext u x = if x.pf = false ∧ 255 ≤ ofInt 16 ((u : Int) - x.last) then { x with old := true } else x := by
  simp [ageContext]

/-- A visit ages the context under its key. -/
theorem State.contextsAged_find {a : ConfigSet} (s : State) (key j : Nat) :
    SMap.find? j (visitContext key (ageContext (s.now / 1000)) a).fab.ctx = if j = key then (SMap.find? j a.fab.ctx).map fun x =>
      if x.pf = false ∧ 255 ≤ ofInt 16 (((s.now / 1000 : Nat) : Int) - x.last) then { x with old := true } else x else SMap.find? j a.fab.ctx := by
  rw [find?_visitContext, show ageContext (s.now / 1000) = _ from funext (ageContext_eq _)]

theorem State.sweeps_iff : s.sweeps c = true ↔ s.timeRuns = true ∧ s.halted = false ∧ s.powered (dieOfCore c) = true := by
  simp [State.sweeps, and_assoc]

theorem ageContext_spoil (u : Nat) (x : Context) : (ageContext u x.spoil).acc = 0 ∧ (ageContext u x.spoil).poison = true := by
  unfold ageContext
  split <;> exact ⟨rfl, rfl⟩

/-- The sweep reads a sound context of the active set, and finds it uncorrectable. -/
theorem State.readContext_active {a : ConfigSet} (ha : s.active = some a) (hx : SMap.find? (c * 2 ^ 17 + ix) a.fab.ctx = some x) (hp : x.poison = false) :
    FabFrame wordKeys s (s.readContext c ix [⟨.context c ix, .uncorrectable⟩])
      ∧ (s.readContext c ix [⟨.context c ix, .uncorrectable⟩]).get R.fabStatusPoison = 1
      ∧ (s.readContext c ix [⟨.context c ix, .uncorrectable⟩]).get R.cntEccUncorr = (s.get R.cntEccUncorr + 1) % 2 ^ 32
      ∧ (s.readContext c ix [⟨.context c ix, .uncorrectable⟩]).active
        = some { a with fab := { a.fab with ctx := SMap.put (c * 2 ^ 17 + ix) x.spoil a.fab.ctx } } := by
  obtain ⟨hpoison, hcount, hfab⟩ := s.checkFabWord_context c hx hp
  have hframe := s.checkFabWord_still a.fab c ⟨.context c ix, .uncorrectable⟩
  have hholds : a.fab.holds (.context c ix) = true := congrArg Option.isSome hx
  have hsound : a.fab.isBad (.context c ix) = false := FabSet.isBad_context hx hp
  have hread : s.readContext c ix [⟨.context c ix, .uncorrectable⟩] = { (s.checkFabWord a.fab c ⟨.context c ix, .uncorrectable⟩).1 with
      active := some { a with fab := (s.checkFabWord a.fab c ⟨.context c ix, .uncorrectable⟩).2 } } := by
    unfold State.readContext
    simp only [List.filter_cons, List.filter_nil, beq_self_eq_true, if_true, State.each_cons, State.each_nil, ha, hholds, hsound, Bool.not_false,
      Bool.and_true, Option.map_some]
  rw [hread]
  exact ⟨⟨hframe.known, hframe.regs, hframe.time, hframe.cv, hframe.parked, hframe.plan⟩, hpoison, hcount, by rw [hfab]⟩

/-! ### STEP_BOUNDARY (R210, R519) -/

/-- The spikes on their way, and Canvas with the events that wait for their engines. -/
def State.traffic (s : State) : List Spike × Canvas := (s.fab.flight, s.cv)

theorem State.traffic_each {α : Type} (s : State) (l : List α) {f : State → α → State} (h : ∀ u x, (f u x).traffic = u.traffic) :
    (s.each l f).traffic = s.traffic := State.each_keeps (fun u => u.traffic = s.traffic) (fun u x hu => (h u x).trans hu) rfl

theorem State.traffic_when (s : State) (c : Bool) {f : State → State} (h : (f s).traffic = s.traffic) : (s.when c f).traffic = s.traffic :=
  State.when_same State.traffic h c

theorem State.traffic_writeFields (s : State) (lo : Nat) (fs : List FieldSpec) (v : Nat) : (s.writeFields lo fs v).traffic = s.traffic := by
  refine s.traffic_each fs fun u f => ?_
  unfold State.writeField
  cases f.acc <;> rfl

theorem State.traffic_releaseThr (s : State) (n : Nat) (w : Bool) : (s.releaseThr n w).traffic = s.traffic := by
  unfold State.releaseThr
  extract_lets t h s1
  split
  next => rfl
  next =>
    split
    · exact State.traffic_when _ _ rfl
    · rfl

theorem State.traffic_set (s : State) (f : Fld) (v : Nat) : (s.set f v).traffic = s.traffic := rfl

theorem State.traffic_setSettled (s : State) (n : Nat) (b : Bool) : (s.setSettled n b).traffic = s.traffic := rfl

theorem State.traffic_restart (s : State) (n : Nat) : (s.restart n).traffic = s.traffic := by
  have hthr : ((s.releaseThr n false).releaseThr n true).traffic = s.traffic :=
    ((s.releaseThr n false).traffic_releaseThr n true).trans (s.traffic_releaseThr n false)
  unfold State.restart State.thrOut State.setFlag
  dsimp only
  rw [State.traffic_set, State.traffic_set, State.traffic_setSettled, State.inc, State.add, State.traffic_set, ← hthr]
  rfl

theorem State.traffic_takeDeferred (s : State) (d : Deferred) : (s.takeDeferred d).traffic = s.traffic := by
  unfold State.takeDeferred
  split
  next => exact (State.traffic_when _ _ rfl).trans (s.traffic_writeFields _ _ _)
  next =>
    split
    · exact State.traffic_when _ _ (State.traffic_restart _ _)
    · exact s.traffic_writeFields _ _ _

theorem State.traffic_takeDue (s : State) (due : Boundary → Bool) : (s.takeDue due).traffic = s.traffic :=
  State.traffic_each _ _ State.traffic_takeDeferred

/-- The engines whose die is online send their marks. -/
def State.marksSent (s : State) : State := s.each ((List.range 8).filter fun e => !s.offline (dieOfEngine e)) fun u e => u.sendMarks e

theorem exec_stepBoundary_of (ha : s.awake = true) : exec .stepBoundary s = .next (s.takeDue (dueAtStep (s.now / s.stepNs))).marksSent := by
  change execStepBoundary s = _
  rw [execStepBoundary, if_pos ha]
  rfl

/-- A mark sent changes the marks of its engine alone. -/
theorem State.sendMarks_eq (s : State) (e : Nat) : ∃ m, s.sendMarks e = s.setFab { s.fab with marks := m } := ⟨_, rfl⟩

theorem State.sendMarks_idle {e : Nat} (h : SMap.get s.cv.spikes [] e = []) : SMap.get (s.sendMarks e).fab.marks 0 e = s.now / s.stepNs := by
  unfold State.sendMarks
  rw [h]
  exact SMap.get_set_same _ _ _ _

theorem State.sendMarks_other {d e : Nat} (h : d ≠ e) (s : State) : SMap.get (s.sendMarks e).fab.marks 0 d = SMap.get s.fab.marks 0 d :=
  SMap.get_set_ne h _ _ _ _

/-- The state but for the marks of the engines. -/
def State.unmarked (s : State) : State := s.setFab { s.fab with marks := [] }

theorem State.sendMarks_unmarked (s : State) (e : Nat) : (s.sendMarks e).unmarked = s.unmarked := by
  obtain ⟨m, hm⟩ := s.sendMarks_eq e
  rw [hm]
  rfl

theorem State.marksSent_unmarked (s : State) : s.marksSent.unmarked = s.unmarked :=
  State.each_keeps (fun u => u.unmarked = s.unmarked) (fun u e hu => (u.sendMarks_unmarked e).trans hu) rfl

/-- An online engine without an event left marks every step that has ended. -/
theorem State.marksSent_marks {e : Nat} (he : e < 8) (hon : s.offline (dieOfEngine e) = false) (hq : SMap.get s.cv.spikes [] e = []) :
    SMap.get s.marksSent.fab.marks 0 e = s.now / s.stepNs := by
  have hsend (u : State) (hu : u.unmarked = s.unmarked) : SMap.get (u.sendMarks e).fab.marks 0 e = s.now / s.stepNs := by
    have hspikes : SMap.get u.cv.spikes [] e = [] := (congrArg (fun v : State => SMap.get v.cv.spikes [] e) hu :).trans hq
    exact (State.sendMarks_idle hspikes).trans (congrArg (fun v : State => v.now / v.stepNs) hu :)
  refine State.each_reaches (fun u => u.unmarked = s.unmarked) (fun u => SMap.get u.fab.marks 0 e = s.now / s.stepNs)
    (fun u d _ hu => (u.sendMarks_unmarked d).trans hu) (fun u d _ hu hmark => ?_) (x := e) (List.mem_filter.2 ⟨List.mem_range.2 he, by simp [hon]⟩) hsend rfl
  by_cases hd : e = d
  · exact hd ▸ hsend u hu
  · exact (State.sendMarks_other hd u).trans hmark

end Sys2Proof.Machine
end

section
/-! OBLIGATION. Spikes reach neurons, instants close and steps start (R194–R213). -/

namespace Sys2Proof.Machine

/-- Settles O54: each command by its condition, and where it holds by what the unit then does. -/
theorem spikesReachNeuronsAndSteps : Obligations.SpikesReachNeuronsAndSteps := by
  refine ⟨fun e s v l parity hits ha hq => ⟨fun hclosed => ?shut, fun hopen => ?taken, fun hmay hopen hhits hcores => ?running,
      fun hmay hopen hhits hcores => ?waiting, fun hno hopen hhits => ?refused⟩,
    fun i s f parity hits ha hf => ⟨fun hno => ?held, fun hmay hoff => ?lost, fun hmay hon hmode => ⟨fun hhits hsyn hpar => ?nosyn,
      fun ix x hhits hx hp => ?spoilt, fun w x sp hhits hsyn hx hbad => ?poisons,
      fun w x hhits hpar hsyn hx hp htab hcls => ⟨fun hpf hnow => ?merges, fun hpf => ?leaks⟩⟩⟩,
    fun c hits s => ⟨fun hno => ?early, fun hmay => ?closes, fun ix x hix hhits hmay hpend hcls => ?test, fun ix x hhits hmay hx hp => ?spoiltTest⟩,
    fun c s ha => ⟨fun hmay hlate => ?starts, fun hno => ?rests⟩,
    fun c ix hits s => ⟨fun hruns hhits => ?sweep, fun a x hruns hhits hact hx hp => ?spoiltSweep, fun hno => ?noSweep⟩,
    fun s ha => ?boundary⟩
  case shut => rw [exec_inputSpikeInjection_of ha hq, if_neg (by simp [hclosed])]
  case taken =>
    have htaken := s.eventTaken_still e l parity
    have hread := (s.eventTaken e l parity).readRoute_keep e (s.inputSource v).1 (s.inputSource v).2 hits
    have hinject := ((s.eventTaken e l parity).readRoute e (s.inputSource v).1 (s.inputSource v).2 hits).injectSpike_frame e
      { v with poison := v.poison || parity }
    refine ⟨_, (exec_inputSpikeInjection_of ha hq parity hits).trans (by rw [if_pos hopen]), ?_, ?_⟩
    · exact (congrArg (fun m : Canvas => SMap.get m.spikes [] e) (hinject.cv.trans (hread.cv.trans htaken.cv))).trans (SMap.get_set_same _ _ _ _)
    · exact ((hinject.regs R.cntParity (by decide)).trans (hread.regs R.cntParity (by decide))).trans (State.parityCheck_counts _ _ _ _).1
  case running =>
    subst hhits
    refine ⟨_, exec_inputSpikeInjection_sound ha hq hopen parity, State.spikeInjected_running (v := { v with poison := v.poison || parity })
      (State.mayInject_iff.2 hmay) (fun c hc => ?_) l parity⟩
    obtain ⟨hon, hshed, hroom, j, hj, hle⟩ := hcores c hc
    exact ⟨⟨hon, hroom⟩, hshed, State.stepCome_of_le hj hle⟩
  case waiting =>
    subst hhits
    refine ⟨_, exec_inputSpikeInjection_sound ha hq hopen parity, State.spikeInjected_waiting (v := { v with poison := v.poison || parity })
      (State.mayInject_iff.2 hmay) (fun c hc => ?_) l parity⟩
    obtain ⟨hon, hroom, hstep⟩ := hcores c hc
    exact ⟨⟨hon, hroom⟩, State.stepCome_eq_false hstep⟩
  case refused =>
    subst hhits
    exact ⟨_, exec_inputSpikeInjection_sound ha hq hopen parity, State.spikeInjected_refused (v := { v with poison := v.poison || parity })
      (Bool.eq_false_iff.2 (mt State.mayInject_iff.1 hno)) l parity⟩
  case held => rw [exec_spikeArrival_of ha hf, if_neg (by simp [hno])]
  case lost =>
    exact ⟨(s.dropFlight i).inc R.cntDieDiscard, (exec_spikeArrival_of ha hf parity hits).trans (by rw [if_pos hmay, if_pos hoff]), rfl, rfl, rfl,
      State.get_set_same s R.cntDieDiscard _, (s.keepsRegs_refl _).inc (by simp)⟩
  case nosyn =>
    subst hhits hpar
    refine ⟨(s.dropFlight i).inc R.cntNosyn, (exec_spikeArrival_online ha hf hmay hon hmode false []).trans (congrArg _ (State.arrive_none ?_)), rfl, rfl, rfl,
      State.get_set_same s R.cntNosyn _, (s.keepsRegs_refl _).inc (by simp)⟩
    exact hsyn
  case spoilt =>
    subst hhits
    exact ⟨_, exec_spikeArrival_online ha hf hmay hon hmode parity _, State.arrive_uncorrectable hx hp i _⟩
  case poisons =>
    subst hhits
    obtain ⟨hread, -⟩ := s.spikeRead_aside f parity i
    have hbad : (f.poison || parity || s.indexBad f || sp || (s.fabSet (s.stepOf f.stamp)).isBad (.cls f.core x.cls)) = true := hbad
    obtain ⟨y, hy, hacc, hpoison⟩ := State.arrive_poisons (s := (s.spikeRead f parity []).dropFlight i) (f := { f with poison := f.poison || parity })
      ((hread.synapsesOf _).trans hsyn) (by rw [hread.context, hread.stepOf]; exact hx)
      (by rw [hread.indexBad, hread.stepOf, hread.fabSet]; exact hbad)
    rw [hread.stepOf] at hy
    exact ⟨_, y, exec_spikeArrival_online ha hf hmay hon hmode parity [], hy, hacc, hpoison⟩
  case merges =>
    subst hhits hpar
    rw [← s.instantOf_eq] at hnow
    obtain ⟨hctx, hflight, hregs, -, hfold⟩ := State.arrive_sound (s := s.dropFlight i) (f := { f with poison := f.poison || false }) hsyn hx (by simp [hp])
      htab hcls (by rw [Bool.and_eq_false_iff]; exact .inr (decide_eq_false hnow))
    refine ⟨_, exec_spikeArrival_online ha hf hmay hon hmode false [], hflight, hctx.trans (by rw [if_pos hpf]; rfl), hfold.trans ?_, hregs⟩
    rw [← s.instantOf_eq]
    simp only [hpf, Bool.true_and, Bool.or_eq_true, bne_iff_ne]
    rfl
  case leaks =>
    subst hhits hpar
    obtain ⟨hctx, hflight, hregs, hupd, hfold⟩ := State.arrive_sound (s := s.dropFlight i) (f := { f with poison := f.poison || false }) hsyn hx (by simp [hp])
      htab hcls (by simp [hpf])
    rw [if_neg (by simp [hpf])] at hctx
    rw [← s.instantOf_eq]
    refine ⟨_, _, exec_spikeArrival_online ha hf hmay hon hmode false [], hflight, hctx, rfl, rfl, rfl, rfl, rfl, hupd, hfold.trans ?_, hregs⟩
    simp only [hpf, Bool.false_and, Bool.or_false, bne_iff_ne]
    rfl
  case early => rw [exec_instantClose_of, if_neg (by simp [hno])]
  case closes =>
    refine ⟨s.instantClosed c hits, (exec_instantClose_of s c hits).trans (by rw [if_pos hmay]), ?_, ?_⟩
    · rw [State.core_instantClosed]
    · rw [State.core_instantClosed]
  case test =>
    subst hhits
    have hset := State.stepSet_of_pending (hpend ▸ List.mem_singleton_self _)
    obtain ⟨w, hclosed⟩ := State.instantClosed_single hix hpend
    have hexec := (exec_instantClose_of s c []).trans (by rw [if_pos hmay, hclosed])
    rcases lt_or_ge x.tested ((s.fabSet (s.stepOf ((s.core c).closed + 1))).cls c x.cls).theta with hlt | hle
    · obtain ⟨hctx, hflight, hfire⟩ := State.testContext_rests hset hcls hlt ix ((s.core c).closed + 1)
      exact ⟨_, _, hexec, hctx, rfl, rfl, fun _ => ⟨rfl, hflight, hfire⟩, fun hle => absurd hle hlt.not_ge⟩
    · obtain ⟨hctx, hfire, hdrop, hsend⟩ := State.testContext_sends hset hcls hle ix ((s.core c).closed + 1)
      refine ⟨_, _, hexec, hctx, rfl, rfl, fun hlt => absurd hle hlt.not_ge, fun _ => ⟨rfl, hfire, fun hno => hdrop ?_, fun hrun hsame => hsend ?_⟩⟩
      · rw [Bool.eq_false_iff, ne_eq, State.fireLeaves_iff]
        exact fun h => hno.elim (fun hstop => by simp [hstop] at h) fun hne => hne h.2
      · exact State.fireLeaves_iff.2 ⟨hrun, hsame⟩
  case spoiltTest =>
    subst hhits
    exact ⟨s.instantClosed c _, (exec_instantClose_of s c _).trans (by rw [if_pos hmay]), State.instantClosed_uncorrectable hx hp⟩
  case starts =>
    obtain ⟨hcore, hslip, hall, hshed⟩ := s.stepStarted_spec c (s.nextCoreStep c)
    refine ⟨_, (exec_stepStart_of ha c).trans (by rw [if_pos (by simp [hmay, hlate])]), by rw [hcore]; rfl, ?_, by rw [hcore]; rfl, hslip,
      fun h => hall (Bool.eq_false_iff.2 (mt State.startSheds_iff.1 h)), fun h => hshed (State.startSheds_iff.2 h)⟩
    rw [hcore]
    exact State.startSheds_iff
  case rests =>
    rw [exec_stepStart_of ha, if_neg]
    rcases hno with h | h <;> simp [h]
  case sweep =>
    subst hhits
    refine ⟨s.contextsAged s (c * 2 ^ 17 + ix), (exec_contextAgeSweep_of s c ix []).trans (by rw [if_pos (State.sweeps_iff.2 hruns)]; rfl),
      fun a ha => ⟨_, congrArg (Option.map _) ha, s.contextsAged_find _⟩, fun a ha => ⟨_, congrArg (Option.map _) ha, s.contextsAged_find _⟩,
      State.get_set_same s R.cntSweep _, (s.keepsRegs_refl _).set (by simp) _⟩
  case spoiltSweep =>
    subst hhits
    obtain ⟨hframe, hpoison, hcount, hactive⟩ := State.readContext_active hact hx hp
    refine ⟨_, (exec_contextAgeSweep_of s c ix _).trans (by rw [if_pos (State.sweeps_iff.2 hruns)]), ?_, ?_, ?_, _, congrArg (Option.map _) hactive, ?_⟩
    · exact (State.get_set_other _ (by decide) _).trans hpoison
    · exact (State.get_set_other _ (by decide) _).trans hcount
    · exact (State.get_set_same _ R.cntSweep _).trans (congrArg (fun n => (n + s.contextCount (c * 2 ^ 17 + ix)) % 2 ^ 32)
        (hframe.regs R.cntSweep (by decide)))
    · obtain ⟨hacc, hbad⟩ := ageContext_spoil (s.now / 1000) x
      rw [find?_visitContext, if_pos rfl, SMap.find?_put_same, Option.map_some, Option.map_some, hacc, hbad]
  case noSweep => rw [exec_contextAgeSweep_of, if_neg (mt State.sweeps_iff.1 hno)]
  case boundary =>
    have htraffic := s.traffic_takeDue (dueAtStep (s.now / s.stepNs))
    have htiming := s.timing_takeDue (dueAtStep (s.now / s.stepNs))
    refine ⟨_, exec_stepBoundary_of ha, ?_⟩
    generalize s.takeDue (dueAtStep (s.now / s.stepNs)) = u at htraffic htiming ⊢
    have hsame := u.marksSent_unmarked
    have hdeferred : u.marksSent.deferred = s.deferred.filter fun d => !dueAtStep (s.now / s.stepNs) d.due :=
      (congrArg State.deferred hsame :).trans (congrArg Prod.fst htiming)
    refine ⟨?_, (congrArg (fun v : State => v.fab.flight) hsame :).trans (congrArg Prod.fst htraffic),
      (congrArg State.cv hsame :).trans (congrArg Prod.snd htraffic), fun e hon hq => ?_⟩
    · rw [hdeferred]
      refine List.filter_congr fun d _ => ?_
      unfold dueAtStep
      cases d.due with
      | tick n => rfl
      | step m => exact decide_not.symm.trans (decide_eq_decide.2 not_le)
    · have hnow : u.now = s.now := congrArg (fun v => v.2.2.1.dev / 2 ^ 32) htiming
      have hoff : u.marksSent.offline (dieOfEngine e) = u.offline (dieOfEngine e) := (congrArg (fun v : State => v.offline (dieOfEngine e)) hsame :)
      have hstep : u.marksSent.stepNs = u.stepNs := (congrArg State.stepNs hsame :)
      have hidle : SMap.get u.cv.spikes [] e = [] := (congrArg (fun v : List Spike × Canvas => SMap.get v.2.spikes [] e) htraffic :).trans hq
      rw [State.marksSent_marks e.isLt (hoff.symm.trans hon) hidle, hnow, hstep]

end Sys2Proof.Machine
end

section
/-! SUPPORT. What the work on one filter channel leaves alone, and what its thresholds do (R256–R258). -/

namespace Sys2Proof.Machine

variable {s t u : State} {n : Nat} {W V : Nat → Prop} {c d : Channel}

/-! ### Channels under the updates of the filter chain -/

@[simp] theorem State.chan_setChan (s : State) (n : Nat) (c : Channel) : (s.setChan n c).chan n = c := SMap.get_set_same _ _ _ _

@[simp] theorem State.chan_set (s : State) (f : Fld) (v k : Nat) : (s.set f v).chan k = s.chan k := (rfl)
@[simp] theorem State.chan_inc (s : State) (f : Fld) (k : Nat) : (s.inc f).chan k = s.chan k := (rfl)
@[simp] theorem State.chan_setFlag (s : State) (f : Fld) (b : Bool) (k : Nat) : (s.setFlag f b).chan k = s.chan k := (rfl)
@[simp] theorem State.chan_setSettled (s : State) (n : Nat) (b : Bool) (k : Nat) : (s.setSettled n b).chan k = s.chan k := (rfl)
@[simp] theorem State.chan_thrOut (s : State) (k : Nat) : s.thrOut.chan k = s.chan k := (rfl)
@[simp] theorem State.get_setChan (s : State) (n : Nat) (c : Channel) (x : Fld) : (s.setChan n c).get x = s.get x := (rfl)
@[simp] theorem State.get_deliver (s : State) (x : Sample) (g : Fld) : (s.deliver x).get g = s.get g := (rfl)
@[simp] theorem State.setChan_ftu (s : State) (n : Nat) (c : Channel) : (s.setChan n c).ftu = s.ftu := (rfl)
@[simp] theorem State.inc_ftu (s : State) (f : Fld) : (s.inc f).ftu = s.ftu := (rfl)
@[simp] theorem State.setChan_now (s : State) (n : Nat) (c : Channel) : (s.setChan n c).now = s.now := (rfl)
@[simp] theorem State.inc_now (s : State) (f : Fld) : (s.inc f).now = s.now := (rfl)
@[simp] theorem State.count_now (s : State) (d k n : Nat) : (s.count d k n).now = s.now := (rfl)

/-- A sample reaches the FTU behind those that wait there, with the device time of its arrival. -/
theorem State.deliver_inbox (s : State) (x : Sample) : (s.deliver x).ftu.inbox = s.ftu.inbox ++ [{ x with arrived := s.now }] := (rfl)

theorem State.chan_setChan_other {k : Nat} (h : k ≠ n) (s : State) (c : Channel) : (s.setChan n c).chan k = s.chan k := SMap.get_set_ne h _ _ _ _

/-! ### What the work on one channel leaves alone -/

/-- From `s` to `t` nothing of the filter chain but channel `n` has changed, no time has passed, and no register field but those whose keys `W` takes has changed. -/
structure ChanWork (W : Nat → Prop) (n : Nat) (s t : State) : Prop where
  regs : ∀ x : Fld, ¬ W x.key → t.get x = s.get x
  time : t.time = s.time
  flt : t.flt = { s.flt with chan := t.flt.chan }
  others : ∀ k, k ≠ n → t.chan k = s.chan k

namespace ChanWork

theorem refl (W : Nat → Prop) (n : Nat) (s : State) : ChanWork W n s s := ⟨fun _ _ => rfl, rfl, rfl, fun _ _ => rfl⟩

theorem trans (a : ChanWork W n s t) (b : ChanWork W n t u) : ChanWork W n s u :=
  ⟨fun x hx => (b.regs x hx).trans (a.regs x hx), b.time.trans a.time, by rw [b.flt, a.flt], fun k hk => (b.others k hk).trans (a.others k hk)⟩

theorem mono (a : ChanWork W n s t) (h : ∀ k, W k → V k) : ChanWork V n s t := ⟨fun x hx => a.regs x (mt (h _) hx), a.time, a.flt, a.others⟩

theorem set (a : ChanWork W n s t) {f : Fld} (h : W f.key) (v : Nat) : ChanWork W n s (t.set f v) :=
  ⟨fun x hx => (State.get_set_other t (f := f) (g := x) (fun e => hx (e ▸ h)) v).trans (a.regs x hx), a.time, a.flt, a.others⟩

theorem inc (a : ChanWork W n s t) {f : Fld} (h : W f.key) : ChanWork W n s (t.inc f) := a.set h _

theorem setFlag (a : ChanWork W n s t) {f : Fld} (h : W f.key) (b : Bool) : ChanWork W n s (t.setFlag f b) := a.set h _

theorem setChan (a : ChanWork W n s t) (c : Channel) : ChanWork W n s (t.setChan n c) :=
  ⟨a.regs, a.time, by rw [State.setChan, State.setFlt_flt, a.flt], fun k hk => (State.chan_setChan_other hk t c).trans (a.others k hk)⟩

theorem hand (a : ChanWork W n s t) (f r : Nat) (x : Rec) : ChanWork W n s (t.hand f r x) := ⟨a.regs, a.time, a.flt, a.others⟩

theorem took (a : ChanWork W n s t) (k : Nat) : ChanWork W n s (t.took k) := ⟨a.regs, a.time, a.flt, a.others⟩

theorem deliver (a : ChanWork W n s t) (x : Sample) : ChanWork W n s (t.deliver x) := ⟨a.regs, a.time, a.flt, a.others⟩

theorem count (a : ChanWork W n s t) (d k m : Nat) : ChanWork W n s (t.count d k m) := ⟨a.regs, a.time, a.flt, a.others⟩

theorem when (a : ChanWork W n s t) (c : Bool) {f : State → State} (h : ChanWork W n s (f t)) : ChanWork W n s (t.when c f) := by
  cases c
  · exact a
  · exact h

theorem now (a : ChanWork W n s t) : t.now = s.now := congrArg (fun v : TimeState => v.dev / 2 ^ 32) a.time

theorem imu (a : ChanWork W n s t) (i : Nat) : t.imu i = s.imu i := by unfold State.imu; rw [a.flt]

theorem enc (a : ChanWork W n s t) (e : Nat) : t.enc e = s.enc e := by unfold State.enc; rw [a.flt]

/-- A raised vector may change a pending field of some function page. -/
theorem raise (a : ChanWork W n s t) (h : ∀ f, W (R.fnMsixPbaPending f).key) (f v : Nat) : ChanWork W n s (t.raise f v) := by
  have hflt : (t.raise f v).flt = t.flt := by
    unfold State.raise
    split <;> rfl
  obtain ⟨-, -, -, -, -, -, -, htime, -, -, hregs⟩ := State.raise_frame t f v
  exact ⟨fun x hx => (hregs x fun e => hx (e ▸ h f)).trans (a.regs x hx), htime.trans a.time, by rw [hflt, a.flt],
    fun k hk => (congrArg (fun m : Filter => SMap.get m.chan {} k) hflt).trans (a.others k hk)⟩

end ChanWork

/-! ### Thresholds (R256–R258) -/

/-- From `c` to `d` nothing but the thresholds has changed. -/
def Channel.SameButThr (c d : Channel) : Prop := ∃ a b, d = { c with thrA := a, thrB := b }

theorem Channel.sameButThr_refl (c : Channel) : c.SameButThr c := ⟨c.thrA, c.thrB, rfl⟩

theorem Channel.SameButThr.trans {e : Channel} (h : c.SameButThr d) (g : d.SameButThr e) : c.SameButThr e := by
  obtain ⟨a, b, rfl⟩ := h
  obtain ⟨a', b', rfl⟩ := g
  exact ⟨a', b', rfl⟩

theorem Channel.sameButThr_setThr (c : Channel) (w : Bool) (h : Threshold) : c.SameButThr (c.setThr w h) := by
  cases w
  · exact ⟨h, c.thrB, rfl⟩
  · exact ⟨c.thrA, h, rfl⟩

/-- The register fields that a threshold of channel `n` may write: its ACTIVE bit, the event counter, and the pending vectors of a function page. -/
abbrev thrWrites (n : Nat) (w : Bool) (k : Nat) : Prop :=
  k = (thrRegs n w).active.key ∨ k = R.cntThrEvent.key ∨ (R.fnMsixPbaPending 0).key ≤ k

theorem thrWrites_pba (n : Nat) (w : Bool) (f : Nat) : thrWrites n w (R.fnMsixPbaPending f).key :=
  .inr (.inr (by simp only [Fld.key, R.fnMsixPbaPending]; omega))

/-- Work on a channel that touches its thresholds only, and no sample of the FTU. -/
structure ThrWork (W : Nat → Prop) (n : Nat) (s t : State) : Prop extends ChanWork W n s t where
  ftu : t.ftu = s.ftu
  chan : (s.chan n).SameButThr (t.chan n)

namespace ThrWork

theorem refl (W : Nat → Prop) (n : Nat) (s : State) : ThrWork W n s s := ⟨.refl W n s, rfl, Channel.sameButThr_refl _⟩

theorem trans (a : ThrWork W n s t) (b : ThrWork W n t u) : ThrWork W n s u := ⟨a.toChanWork.trans b.toChanWork, b.ftu.trans a.ftu, a.chan.trans b.chan⟩

theorem mono (a : ThrWork W n s t) (h : ∀ k, W k → V k) : ThrWork V n s t := ⟨a.toChanWork.mono h, a.ftu, a.chan⟩

theorem setFlag (a : ThrWork W n s t) {f : Fld} (h : W f.key) (b : Bool) : ThrWork W n s (t.setFlag f b) := ⟨a.toChanWork.setFlag h b, a.ftu, a.chan⟩

theorem setChan (a : ThrWork W n s t) (h : (s.chan n).SameButThr c) : ThrWork W n s (t.setChan n c) :=
  ⟨a.toChanWork.setChan c, a.ftu, (State.chan_setChan t n c).symm ▸ h⟩

theorem took (a : ThrWork W n s t) (k : Nat) : ThrWork W n s (t.took k) := ⟨a.toChanWork.took k, a.ftu, a.chan⟩

theorem raise (a : ThrWork W n s t) (h : ∀ f, W (R.fnMsixPbaPending f).key) (f v : Nat) : ThrWork W n s (t.raise f v) := by
  have hsame : (t.raise f v).ftu = t.ftu ∧ (t.raise f v).chan n = t.chan n := by
    unfold State.raise
    split <;> exact ⟨rfl, rfl⟩
  exact ⟨a.toChanWork.raise h f v, hsame.1.trans a.ftu, hsame.2.symm ▸ a.chan⟩

theorem when (a : ThrWork W n s t) (c : Bool) {f : State → State} (h : ThrWork W n s (f t)) : ThrWork W n s (t.when c f) := by
  cases c
  · exact a
  · exact h

theorem thrRecord (a : ThrWork W n s t) (h : W R.cntThrEvent.key) (w release unsettled poison : Bool) (instant value minN lvl : Nat) :
    ThrWork W n s (t.thrRecord n w release unsettled poison instant value minN lvl) := by
  have hinc : ThrWork W n s (t.inc R.cntThrEvent) := ⟨a.toChanWork.inc h, a.ftu, a.chan⟩
  unfold State.thrRecord
  refine hinc.when _ ?_
  exact ⟨hinc.toChanWork.hand _ _ _, hinc.ftu, hinc.chan⟩

end ThrWork

/-- A threshold that is off takes up its registers and does nothing else. -/
theorem State.moveThr_off {w : Bool} (h : s.flag (thrRegs n w).en = false) (instant value : Nat) (poison : Bool) :
    s.moveThr n w instant value poison = s.setChan n ((s.chan n).setThr w (s.latchThr n w ((s.chan n).thr w))) := by
  unfold State.moveThr
  exact if_pos (by simp [h])

theorem State.moveThr_work (s : State) (n : Nat) (w : Bool) (instant value : Nat) (poison : Bool) :
    ThrWork (thrWrites n w) n s (s.moveThr n w instant value poison) := by
  have hset : ∀ h h', ThrWork (thrWrites n w) n s ((s.setChan n ((s.chan n).setThr w h)).setChan n ((s.chan n).setThr w h')) := fun h h' =>
    ((ThrWork.refl _ n s).setChan (Channel.sameButThr_setThr _ w h)).setChan (Channel.sameButThr_setThr _ w h')
  unfold State.moveThr
  dsimp only
  generalize (if s.flag (thrRegs n w).active then isBack _ _ _ _ else beyond _ _ _) = meets
  split
  · exact (ThrWork.refl _ n s).setChan (Channel.sameButThr_setThr _ w _)
  · split
    · exact hset _ _
    · split
      · exact hset _ _
      · refine ThrWork.when ?record _ (ThrWork.raise ?record (thrWrites_pba n w) _ _)
        exact ((hset _ _).setFlag (.inl rfl) _).thrRecord (.inr (.inl rfl)) w _ false _ instant value _ _

theorem State.releaseThr_work (s : State) (n : Nat) (w : Bool) : ThrWork (thrWrites n w) n s (s.releaseThr n w) := by
  have hset : ∀ h, ThrWork (thrWrites n w) n s (s.setChan n ((s.chan n).setThr w h)) := fun h =>
    (ThrWork.refl _ n s).setChan (Channel.sameButThr_setThr _ w h)
  unfold State.releaseThr
  dsimp only
  split
  · exact .refl _ n s
  · split
    · exact (((hset _).setFlag (.inl rfl) false).thrRecord (.inr (.inl rfl)) w true true _ _ _ _ _).took 1
    · exact hset _

theorem State.thrRecord_get {x : Fld} (h : x.key ≠ R.cntThrEvent.key) (s : State) (w release unsettled poison : Bool) (instant value minN lvl : Nat) :
    (s.thrRecord n w release unsettled poison instant value minN lvl).get x = s.get x :=
  (State.when_same (·.get x) rfl _).trans (State.get_inc_other s h)

/-- A threshold released is not ACTIVE. -/
theorem State.releaseThr_inactive {w : Bool} (h : ((s.chan n).thr w).en = true) : (s.releaseThr n w).get (thrRegs n w).active = 0 := by
  have hw : 1 ≤ (thrRegs n w).active.width := by cases w <;> exact le_rfl
  have hcnt : (thrRegs n w).active.key ≠ R.cntThrEvent.key := by
    cases w <;> simp only [thrRegs, Bool.false_eq_true, ↓reduceIte, Fld.key, R.fltChStatThraActive, R.fltChStatThrbActive, R.cntThrEvent] <;> omega
  unfold State.releaseThr
  dsimp only
  rw [if_neg (by simp [h])]
  split
  next => exact (State.thrRecord_get hcnt _ _ _ _ _ _ _ _ _).trans (State.get_setFlag_same _ _ false hw)
  next hoff => exact State.get_of_flag_false (Bool.eq_false_iff.2 hoff)

/-- The release of one threshold leaves the other enabled or not as it was. -/
theorem State.releaseThr_en (s : State) (n : Nat) (w v : Bool) : (((s.releaseThr n w).chan n).thr v).en = ((s.chan n).thr v).en := by
  have hthr : ∀ h : Threshold, h.en = ((s.chan n).thr w).en → ((((s.chan n).setThr w h)).thr v).en = ((s.chan n).thr v).en := fun h hh => by
    cases w <;> cases v <;> first | rfl | exact hh
  have hchan : ∀ u : State, ∀ i x m l p, ((u.thrRecord n w true true p i x m l).took 1).chan n = u.chan n := fun u i x m l p =>
    State.when_same (·.chan n) rfl _
  unfold State.releaseThr
  dsimp only
  split
  · rfl
  · split
    · rw [hchan]
      exact (congrArg (fun c : Channel => (c.thr v).en) (State.chan_setChan s n _)).trans (hthr _ rfl)
    · rw [State.chan_setChan]
      exact hthr _ rfl

end Sys2Proof.Machine
end

section
/-! SUPPORT. A filter channel restarts, forms its outputs and takes the raw samples of its source (R246–R255, R259). -/

namespace Sys2Proof.Machine

variable {s t u : State} {n : Nat} {W V : Nat → Prop} {c d : Channel}

/-! ### Restarts (R254) -/

/-- The channel as a restart leaves it, `p` the decimated period. -/
def Channel.restarted (c : Channel) (p : Nat) : Channel :=
  { c with fir := [], ints := [], combs := [], phase := 0, hist := [], spNum := p, spPow := 0, raw := 0, lastRaw := none }

/-- The state in which both thresholds of channel `n` are released. -/
def State.released (s : State) (n : Nat) : State := (s.releaseThr n false).releaseThr n true

/-- The register fields that the work on channel `n` may write. -/
abbrev chanWrites (n : Nat) (k : Nat) : Prop :=
  k ∈ [R.fltStatusCoefPerr, R.fltSettledSettled, R.fltThrOutLevel, R.fltChStatSettled n, R.fltChStatThraActive n, R.fltChStatThrbActive n, R.fltChStatCount n,
      R.cntRestart, R.cntStretch, R.cntSat, R.cntOut, R.cntThrEvent].map Fld.key
    ∨ (R.fnMsixPbaPending 0).key ≤ k

theorem chanWrites_of_thr {w : Bool} {k : Nat} (h : thrWrites n w k) : chanWrites n k := by
  rcases h with rfl | rfl | h
  · cases w <;> exact .inl (by simp [thrRegs])
  · exact .inl (by simp)
  · exact .inr h

/-- The register fields that the two thresholds of channel `n` may write. -/
abbrev thrsWrites (n : Nat) (k : Nat) : Prop := thrWrites n false k ∨ thrWrites n true k

theorem State.released_work (s : State) (n : Nat) : ThrWork (thrsWrites n) n s (s.released n) :=
  ((s.releaseThr_work n false).mono fun _ => .inl).trans (((s.releaseThr n false).releaseThr_work n true).mono fun _ => .inr)

theorem State.restart_eq (s : State) (n : Nat) : s.restart n =
    (((((s.released n).setChan n (((s.released n).chan n).restarted (s.decimated n))).inc R.cntRestart).setSettled n false).set (R.fltChStatCount n) 0).thrOut :=
  rfl

theorem ChanWork.setSettled (a : ChanWork W n s t) (h : W R.fltSettledSettled.key) (h' : W (R.fltChStatSettled n).key) (b : Bool) :
    ChanWork W n s (t.setSettled n b) := (a.set h _).setFlag h' b

theorem State.restart_work (s : State) (n : Nat) : ChanWork (chanWrites n) n s (s.restart n) := by
  have hreleased : ChanWork (chanWrites n) n s (s.released n) :=
    (s.released_work n).toChanWork.mono fun k hk => hk.elim chanWrites_of_thr chanWrites_of_thr
  rw [State.restart_eq]
  exact ((((hreleased.setChan _).inc (.inl (by simp))).setSettled (.inl (by simp)) (.inl (by simp)) false).set (.inl (by simp)) 0).setFlag (.inl (by simp)) _

theorem State.restart_chan (s : State) (n : Nat) : (s.restart n).chan n = ((s.released n).chan n).restarted (s.decimated n) := by
  simp [State.restart_eq]

theorem State.get_setSettled_other {x : Fld} (h : x.key ≠ R.fltSettledSettled.key) (h' : x.key ≠ (R.fltChStatSettled n).key) (s : State) (b : Bool) :
    (s.setSettled n b).get x = s.get x := (State.get_set_other _ h' _).trans (State.get_set_other s h _)

theorem State.get_thrOut {x : Fld} (h : x.key ≠ R.fltThrOutLevel.key) (s : State) : s.thrOut.get x = s.get x := State.get_setFlag_other s h _

/-- A restart is counted, and the channel is not settled. -/
theorem State.restart_counted (s : State) (n : Fin 32) : (s.restart n).get R.cntRestart = (s.get R.cntRestart + 1) % 2 ^ 32
    ∧ (s.restart n).get (R.fltChStatSettled n) = 0 := by
  have hreleased : (s.released n).get R.cntRestart = s.get R.cntRestart := (s.released_work n).regs _ (by decide +revert)
  rw [State.restart_eq, State.get_thrOut (by decide), State.get_thrOut (by clear * - n; decide +revert), State.get_set_other _ (by clear * - n; decide +revert),
    State.get_set_other _ (by clear * - n; decide +revert), State.get_setSettled_other (by decide) (by clear * - n; decide +revert), State.get_inc_same, State.get_setChan, hreleased]
  exact ⟨rfl, State.get_setFlag_same _ _ false le_rfl⟩

/-- A restart releases a threshold that was on at the channel's last output. -/
theorem State.restart_inactive {w : Bool} {n : Fin 32} (h : ((s.chan n).thr w).en = true) : (s.restart n).get (thrRegs n w).active = 0 := by
  have hafter : (s.restart n).get (thrRegs n w).active = (s.released n).get (thrRegs n w).active := by
    rw [State.restart_eq, State.get_thrOut (by clear * - w; decide +revert), State.get_set_other _ (by clear * - w; decide +revert),
      State.get_setSettled_other (by clear * - w; decide +revert) (by clear * - w; decide +revert), State.get_inc_other _ (by clear * - w; decide +revert),
      State.get_setChan]
  rw [hafter, State.released]
  cases w with
  | true => exact State.releaseThr_inactive ((congrArg (· = true) (s.releaseThr_en n false true)).mpr h)
  | false => exact (((s.releaseThr n false).releaseThr_work n true).regs _ (by clear * - n; decide +revert)).trans (State.releaseThr_inactive h)

/-- A channel started takes up the first instant whose evaluation lies ahead (R249). -/
theorem State.firstInstant_spec (s : State) (n : Nat) :
    (256 * s.now : Nat) < s.evalAt n (s.firstInstant n) ∧ s.firstInstant n % s.outDiv n = 0 := by
  have hceil : ∀ a b : Nat, 0 < b → a ≤ ceilDiv a b * b := fun a b hb => by
    have := Nat.lt_div_mul_add (a := a + b - 1) hb
    unfold ceilDiv
    omega
  refine ⟨?_, Nat.mul_mod_left _ _⟩
  have hle := hceil (s.now + s.get (R.fltChPdlyPdly n) * s.get (R.fltChNomNomNs n) / 256 + 1) (s.outDiv n * tickNs)
    (Nat.mul_pos (Nat.succ_pos _) (by decide))
  have hm : s.firstInstant n * tickNs
      = ceilDiv (s.now + s.get (R.fltChPdlyPdly n) * s.get (R.fltChNomNomNs n) / 256 + 1) (s.outDiv n * tickNs) * (s.outDiv n * tickNs) :=
    Nat.mul_assoc _ _ _
  unfold State.evalAt
  rw [hm]
  omega

theorem State.startChan_eq (s : State) (n : Nat) : s.startChan n = (s.restart n).setChan n { (s.restart n).chan n with next := s.firstInstant n } := rfl

/-! ### Outputs (R249–R252, R259) -/

/-- The channel with its next instant taken and, where `bad`, a coefficient's parity error noted. -/
def Channel.advanced (c : Channel) (d : Nat) (bad : Bool) : Channel := { c with perr := c.perr || bad, next := c.next + d }

/-- The rounded and saturated sum of the bank phase for the channel's next instant, and whether it saturated. -/
def State.outSum (s : State) (n : Nat) : Int × Bool := sat24 (rndShift (s.resample n (s.phaseOf n (s.evalAt n (s.chan n).next)).1) 15)

/-- The FP32 code of the output for the channel's next instant. -/
def State.outCode (s : State) (n : Nat) : Nat :=
  code32 (add32 (mul32 (ofInteger (s.outSum n).1) (f32 (s.get (R.fltChScaleOutScale n)))) (f32 (s.get (R.fltChOfsOutOfs n))))

/-- Whether a stop holds the output for the channel's next instant (R259). -/
def State.outHeld (s : State) (n : Nat) : Bool := s.flt.stopAt.any fun T => decide (T ≤ (s.chan n).next)

/-- The state in which the channel's next instant is taken. -/
def State.outTaken (s : State) (n : Nat) (bad : Bool) : State :=
  (s.readCoef n bad).setChan n { (s.readCoef n bad).chan n with next := (s.chan n).next + s.outDiv n }

/-- The state in which the output has been formed, stretched and saturated outputs counted. -/
def State.outFormed (s : State) (n : Nat) (bad : Bool) : State :=
  ((s.outTaken n bad).when (s.phaseOf n (s.evalAt n (s.chan n).next)).2 fun s => s.inc R.cntStretch).countSat n (s.outSum n).2

/-- The output as the FTU gets it. -/
def State.outSample (s : State) (n : Nat) (bad : Bool) : Sample :=
  { origin := .chan n, stamp := (s.chan n).next * tickNs, vals := [s.outCode n], sat := ((s.outFormed n bad).chan n).sat,
    poison := ((s.readCoef n bad).chan n).perr }

/-- The state in which the output has reached the FTU, unless a stop holds it. -/
def State.outHanded (s : State) (n : Nat) (bad : Bool) : State :=
  ((s.outFormed n bad).setChan n { (s.outFormed n bad).chan n with sat := false, perr := false, lastInstant := (s.chan n).next * tickNs }).when
    (!s.outHeld n) fun u => ((u.inc R.cntOut).count dieIod 19 1).deliver (s.outSample n bad)

theorem State.readCoef_chan (s : State) (n : Nat) (bad : Bool) : (s.readCoef n bad).chan n = { s.chan n with perr := (s.chan n).perr || bad } := by
  cases bad
  · simp [State.readCoef, State.when]
  · simp [State.readCoef, State.when]

theorem State.readCoef_work (s : State) (n : Nat) (bad : Bool) : ChanWork (· ∈ [R.fltStatusCoefPerr.key]) n s (s.readCoef n bad) := by
  refine (ChanWork.refl _ n s).when bad (ChanWork.setFlag ?_ (by simp) true)
  exact (ChanWork.refl _ n s).setChan _

theorem State.readCoef_ftu (s : State) (n : Nat) (bad : Bool) : (s.readCoef n bad).ftu = s.ftu := State.when_same State.ftu rfl bad

theorem State.outTaken_chan (s : State) (n : Nat) (bad : Bool) : (s.outTaken n bad).chan n = (s.chan n).advanced (s.outDiv n) bad := by
  rw [State.outTaken, State.chan_setChan, State.readCoef_chan]
  rfl

/-- An output before the channel has settled is not formed (R255). -/
theorem State.compute_unsettled (h : (s.chan n).raw < s.settleLen n) (bad : Bool) : s.compute n bad = s.outTaken n bad := by
  unfold State.compute
  dsimp only
  exact if_pos (by rw [State.readCoef_chan]; exact h)

/-- A settled channel forms its output, hands it over, and the thresholds meet it. -/
theorem State.compute_settled (h : s.settleLen n ≤ (s.chan n).raw) (bad : Bool) : s.compute n bad =
    (((s.outHanded n bad).moveThr n false ((s.chan n).next * tickNs) (s.outCode n) ((s.readCoef n bad).chan n).perr).moveThr n true
      ((s.chan n).next * tickNs) (s.outCode n) ((s.readCoef n bad).chan n).perr).thrOut := by
  have hheld : s.outHeld n = match s.flt.stopAt with | some T => decide (T ≤ (s.chan n).next) | none => false := by
    unfold State.outHeld
    cases s.flt.stopAt <;> rfl
  unfold State.outHanded
  rw [hheld]
  unfold State.compute
  dsimp only
  rw [if_neg (by rw [State.readCoef_chan]; exact h.not_gt)]
  rfl

/-- The register fields that an output formed and handed over may write. -/
abbrev outWrites : List Nat := [R.fltStatusCoefPerr.key, R.cntStretch.key, R.cntSat.key, R.cntOut.key]

theorem State.countSat_chan (s : State) (n : Nat) (b : Bool) : (s.countSat n b).chan n = { s.chan n with sat := (s.chan n).sat || b } := by
  cases b
  · simp [State.countSat, State.when]
  · simp [State.countSat, State.when]

theorem ChanWork.countSat (a : ChanWork W n s t) (h : W R.cntSat.key) (b : Bool) : ChanWork W n s (t.countSat n b) :=
  a.when b (ChanWork.setChan (a.inc h) _)

theorem State.outTaken_work (s : State) (n : Nat) (bad : Bool) : ChanWork (· ∈ [R.fltStatusCoefPerr.key]) n s (s.outTaken n bad) :=
  (s.readCoef_work n bad).setChan _

theorem State.outFormed_work (s : State) (n : Nat) (bad : Bool) :
    ChanWork (· ∈ [R.fltStatusCoefPerr.key, R.cntStretch.key, R.cntSat.key]) n s (s.outFormed n bad) := by
  have htaken : ChanWork (· ∈ [R.fltStatusCoefPerr.key, R.cntStretch.key, R.cntSat.key]) n s (s.outTaken n bad) :=
    (s.outTaken_work n bad).mono fun k hk => List.mem_cons.2 (.inl (List.mem_singleton.1 hk))
  exact (htaken.when _ (htaken.inc (by simp))).countSat (by simp) _

theorem State.outFormed_ftu (s : State) (n : Nat) (bad : Bool) : (s.outFormed n bad).ftu = s.ftu :=
  (State.when_same State.ftu rfl _).trans ((State.when_same State.ftu rfl _).trans (s.readCoef_ftu n bad))

theorem State.outHanded_work (s : State) (n : Nat) (bad : Bool) : ChanWork (· ∈ outWrites) n s (s.outHanded n bad) := by
  have hformed : ChanWork (· ∈ outWrites) n s (s.outFormed n bad) := (s.outFormed_work n bad).mono (by simp)
  refine ChanWork.when (hformed.setChan _) _ ?_
  exact (((hformed.setChan _).inc (by simp)).count _ _ _).deliver _

theorem State.outHanded_chan (s : State) (n : Nat) (bad : Bool) : (s.outHanded n bad).chan n =
    { (s.chan n).advanced (s.outDiv n) bad with sat := false, perr := false, lastInstant := (s.chan n).next * tickNs } := by
  have hstretch : ∀ c : Bool, ((s.outTaken n bad).when c fun s => s.inc R.cntStretch).chan n = (s.chan n).advanced (s.outDiv n) bad := fun c =>
    (State.when_same (·.chan n) rfl c).trans (s.outTaken_chan n bad)
  refine (State.when_same (·.chan n) rfl _).trans ?_
  rw [State.chan_setChan, State.outFormed, State.countSat_chan, hstretch]

/-- Where a stop holds the output, nothing reaches the FTU. -/
theorem State.outHanded_held {bad : Bool} (h : s.outHeld n = true) :
    (s.outHanded n bad).get R.cntOut = s.get R.cntOut ∧ (s.outHanded n bad).ftu = s.ftu := by
  rw [State.outHanded, State.when_false _ (by simp [h])]
  exact ⟨(s.outFormed_work n bad).regs _ (by decide), s.outFormed_ftu n bad⟩

/-- Where no stop holds the output, it is counted and reaches the FTU. -/
theorem State.outHanded_free {bad : Bool} (h : s.outHeld n = false) : (s.outHanded n bad).get R.cntOut = (s.get R.cntOut + 1) % 2 ^ 32
    ∧ (s.outHanded n bad).ftu.inbox = s.ftu.inbox ++ [{ s.outSample n bad with arrived := s.now }] := by
  have hcount : (s.outFormed n bad).get R.cntOut = s.get R.cntOut := (s.outFormed_work n bad).regs _ (by decide)
  rw [State.outHanded, State.when_true _ (by simp [h])]
  refine ⟨?_, ?_⟩
  · rw [State.get_deliver, State.get_count, State.get_inc_same, State.get_setChan, hcount]
    rfl
  · rw [State.deliver_inbox, State.count_ftu, State.inc_ftu, State.setChan_ftu, s.outFormed_ftu, State.count_now, State.inc_now, State.setChan_now,
      (s.outFormed_work n bad).now]

theorem State.readCoef_perr (s : State) (n : Nat) : (s.readCoef n true).get R.fltStatusCoefPerr = 1 := State.get_setFlag_same _ _ true le_rfl

/-- A parity error of a coefficient shows in FLT_STATUS, a stretched phase in its counter. -/
theorem State.outHanded_status (s : State) (n : Nat) (bad : Bool) :
    (bad = true → (s.outHanded n bad).get R.fltStatusCoefPerr = 1)
      ∧ ((s.phaseOf n (s.evalAt n (s.chan n).next)).2 = true → (s.outHanded n bad).get R.cntStretch = (s.get R.cntStretch + 1) % 2 ^ 32) := by
  have hlater : ∀ x : Fld, x.key ≠ R.cntOut.key → (s.outHanded n bad).get x = (s.outFormed n bad).get x := fun x hx =>
    State.when_same (·.get x) (State.get_inc_other _ hx) _
  have hsat : ∀ (u : State) (b : Bool) (x : Fld), x.key ≠ R.cntSat.key → (u.countSat n b).get x = u.get x := fun u b x hx =>
    State.when_same (·.get x) (State.get_inc_other _ hx) b
  refine ⟨fun hbad => ?perr, fun hph => ?stretch⟩
  case perr =>
    subst hbad
    rw [hlater _ (by decide), State.outFormed, hsat _ _ _ (by decide)]
    exact (State.when_same (·.get R.fltStatusCoefPerr) (State.get_inc_other _ (by decide)) _).trans (s.readCoef_perr n)
  case stretch =>
    rw [hlater _ (by decide), State.outFormed, hsat _ _ _ (by decide), State.when_true _ hph, State.get_inc_same]
    exact congrArg (fun v => (v + 1) % 2 ^ 32) ((s.outTaken_work n bad).regs R.cntStretch (by decide))

/-- The register fields that an output met by the thresholds of channel `n` may write. -/
abbrev metWrites (n : Nat) (k : Nat) : Prop := thrsWrites n k ∨ k = R.fltThrOutLevel.key

theorem ThrWork.thrOut (a : ThrWork W n s t) (h : W R.fltThrOutLevel.key) : ThrWork W n s t.thrOut := a.setFlag h _

/-- What the thresholds do as they meet a settled channel's output. -/
theorem State.compute_met (h : s.settleLen n ≤ (s.chan n).raw) (bad : Bool) : ThrWork (metWrites n) n (s.outHanded n bad) (s.compute n bad) := by
  rw [State.compute_settled h]
  refine ThrWork.thrOut (ThrWork.trans ((State.moveThr_work _ n false _ _ _).mono ?_) ((State.moveThr_work _ n true _ _ _).mono ?_)) (.inr rfl)
  · exact fun k hk => .inl (.inl hk)
  · exact fun k hk => .inl (.inr hk)

theorem State.get_moveThr_off {w : Bool} (h : s.flag (thrRegs n w).en = false) (instant value : Nat) (poison : Bool) (x : Fld) :
    (s.moveThr n w instant value poison).get x = s.get x := by
  rw [State.moveThr_off h]
  rfl

/-- Thresholds that are off write no field but LEVEL. -/
theorem State.compute_off (h : s.settleLen n ≤ (s.chan n).raw) (ha : s.flag (R.fltChThraCfgEn n) = false) (hb : s.flag (R.fltChThrbCfgEn n) = false)
    (bad : Bool) : s.keepsRegs (s.compute n bad) [R.cntOut.key, R.cntStretch.key, R.cntSat.key, R.fltStatusCoefPerr.key, R.fltThrOutLevel.key] := by
  have hhanded := (s.outHanded_work n bad).regs
  have ha' : (s.outHanded n bad).flag (thrRegs n false).en = false :=
    (State.flag_of_get (hhanded (R.fltChThraCfgEn n) (by simp [Fld.key, R.fltChThraCfgEn, R.fltStatusCoefPerr, R.cntStretch, R.cntSat, R.cntOut]; omega))).trans ha
  have hb' : (s.outHanded n bad).flag (thrRegs n true).en = false :=
    (State.flag_of_get (hhanded (R.fltChThrbCfgEn n) (by simp [Fld.key, R.fltChThrbCfgEn, R.fltStatusCoefPerr, R.cntStretch, R.cntSat, R.cntOut]; omega))).trans hb
  rw [State.compute_settled h]
  intro x hx
  simp only [List.mem_cons, List.not_mem_nil, or_false, not_or] at hx
  obtain ⟨hout, hstretch, hsat, hperr, hlevel⟩ := hx
  rw [State.get_thrOut hlevel, State.get_moveThr_off ((State.flag_of_get (State.get_moveThr_off ha' _ _ _ _)).trans hb'), State.get_moveThr_off ha']
  exact hhanded x (by simp [hout, hstretch, hsat, hperr])

theorem chanWrites_of_met {k : Nat} (h : metWrites n k) : chanWrites n k :=
  h.elim (fun h => h.elim chanWrites_of_thr chanWrites_of_thr) fun h => .inl (by simp [h])

theorem State.compute_work (s : State) (n : Nat) (bad : Bool) : ChanWork (chanWrites n) n s (s.compute n bad) := by
  rcases Nat.lt_or_ge (s.chan n).raw (s.settleLen n) with hlt | hle
  · rw [State.compute_unsettled hlt]
    exact (s.outTaken_work n bad).mono fun k hk => .inl (by simp [List.mem_singleton.1 hk])
  · refine ((s.outHanded_work n bad).mono fun k hk => .inl ?_).trans ((State.compute_met hle bad).toChanWork.mono fun _ => chanWrites_of_met)
    revert hk
    simp
    tauto

/-- An output leaves the samples of its channel as they are. -/
theorem State.compute_raw (s : State) (n : Nat) (bad : Bool) : ((s.compute n bad).chan n).raw = (s.chan n).raw := by
  rcases Nat.lt_or_ge (s.chan n).raw (s.settleLen n) with hlt | hle
  · rw [State.compute_unsettled hlt, State.outTaken_chan]
    rfl
  · obtain ⟨a, b, hchan⟩ := (State.compute_met hle bad).chan
    rw [hchan, State.outHanded_chan]
    rfl

/-! ### Raw samples (R247, R248, R250, R251, R254) -/

theorem State.computeBefore_work (s : State) (n stamp : Nat) (bad : Bool) (fuel : Nat) : ChanWork (chanWrites n) n s (s.computeBefore n stamp bad fuel)
    ∧ ((s.computeBefore n stamp bad fuel).chan n).raw = (s.chan n).raw := by
  induction fuel generalizing s bad with
  | zero => exact ⟨.refl _ n s, rfl⟩
  | succ fuel ih =>
    unfold State.computeBefore
    split
    · obtain ⟨hwork, hraw⟩ := ih (s.compute n bad) false
      exact ⟨(s.compute_work n bad).trans hwork, hraw.trans (s.compute_raw n bad)⟩
    · exact ⟨.refl _ n s, rfl⟩

theorem Channel.pushPoint_same (c : Channel) (x : Point) : (c.pushPoint x).fir = c.fir ∧ (c.pushPoint x).raw = c.raw := by
  unfold Channel.pushPoint
  split <;> exact ⟨rfl, rfl⟩

/-- A raw sample enters the FIR delay line of its channel, and no other channel. -/
theorem State.pass_spec (s : State) (n stamp : Nat) (x : Int) : ChanWork (chanWrites n) n s (s.pass n stamp x)
    ∧ ((s.pass n stamp x).chan n).raw = (s.chan n).raw ∧ ((s.pass n stamp x).chan n).fir = (x :: (s.chan n).fir).take (s.firLen n) := by
  have hsat : chanWrites n R.cntSat.key := .inl (by simp)
  unfold State.pass
  dsimp only
  split
  · refine ⟨ChanWork.countSat (ChanWork.setChan (ChanWork.countSat ((ChanWork.refl _ n s).setChan _) hsat _) _) hsat _, ?_, ?_⟩
    · rw [State.countSat_chan, State.chan_setChan]
      exact (Channel.pushPoint_same _ _).2.trans (by rw [State.countSat_chan, State.chan_setChan])
    · rw [State.countSat_chan, State.chan_setChan]
      exact (Channel.pushPoint_same _ _).1.trans (by rw [State.countSat_chan, State.chan_setChan])
  · refine ⟨ChanWork.countSat ((ChanWork.refl _ n s).setChan _) hsat _, ?_, ?_⟩
    · rw [State.countSat_chan, State.chan_setChan]
    · rw [State.countSat_chan, State.chan_setChan]

/-- Whether a raw sample of stamp `stamp` comes after a gap of channel `n`'s source (R254). -/
def State.gapBefore (s : State) (n stamp : Nat) : Bool := (s.chan n).lastRaw.any fun p => decide (p + 2 * s.get (R.fltChNomNomNs n) < stamp)

/-- The state in which the outputs due before a raw sample have been formed, the channel restarted where the sample comes after a gap. -/
def State.sampleCome (s : State) (n stamp perr : Nat) : State :=
  (s.computeBefore n stamp (bit perr n) (s.dueInstants n stamp)).when (s.gapBefore n stamp) fun s => s.restart n

/-- The state in which a raw sample that has passed FIR and CIC is entered as the channel's last. -/
def State.sampleEntered (s : State) (n stamp : Nat) : State :=
  (s.setChan n { s.chan n with raw := (s.chan n).raw + 1, lastRaw := some stamp }).set (R.fltChStatCount n) (min 65535 ((s.chan n).raw + 1))

/-- The state in which the sample is entered and the channel settled where it was the last one wanting (R255). -/
def State.sampleCounted (s : State) (n stamp : Nat) : State :=
  (s.sampleEntered n stamp).when (decide ((s.sampleEntered n stamp).settleLen n ≤ (s.chan n).raw + 1)) fun s => s.setSettled n true

theorem State.rawSample_eq (s : State) (n stamp : Nat) (x : Int) (perr : Nat) : s.rawSample n stamp x perr =
    (((s.sampleCome n stamp perr).readCoef n (bit perr (32 + n) && s.get (R.fltChFirTaps n) != 0)).pass n stamp x).sampleCounted n stamp := by
  unfold State.rawSample State.sampleCome State.gapBefore
  cases (s.chan n).lastRaw <;> rfl

/-- What a raw sample does: it is counted, from 0 after a gap, its stamp is the channel's last, and it enters the FIR delay line. -/
structure Sampled (n stamp : Nat) (x : Int) (s t : State) : Prop where
  work : ChanWork (chanWrites n) n s t
  last : (t.chan n).lastRaw = some stamp
  raw : (t.chan n).raw = (if s.gapBefore n stamp then 0 else (s.chan n).raw) + 1
  fir : (t.chan n).fir.head? = some x

theorem State.sampleCome_work (s : State) (n stamp perr : Nat) : ChanWork (chanWrites n) n s (s.sampleCome n stamp perr)
    ∧ ((s.sampleCome n stamp perr).chan n).raw = if s.gapBefore n stamp then 0 else (s.chan n).raw := by
  obtain ⟨hdue, hraw⟩ := s.computeBefore_work n stamp (bit perr n) (s.dueInstants n stamp)
  refine ⟨hdue.when _ (hdue.trans (State.restart_work _ n)), ?_⟩
  unfold State.sampleCome
  cases s.gapBefore n stamp with
  | false => exact hraw
  | true => exact congrArg Channel.raw (State.restart_chan _ n)

theorem State.sampleCounted_work (s : State) (n stamp : Nat) : ChanWork (chanWrites n) n s (s.sampleCounted n stamp) := by
  have hentered : ChanWork (chanWrites n) n s (s.sampleEntered n stamp) := ((ChanWork.refl _ n s).setChan _).set (.inl (by simp)) _
  exact hentered.when _ (hentered.setSettled (.inl (by simp)) (.inl (by simp)) true)

theorem State.sampleCounted_chan (s : State) (n stamp : Nat) :
    (s.sampleCounted n stamp).chan n = { s.chan n with raw := (s.chan n).raw + 1, lastRaw := some stamp } :=
  (State.when_same (·.chan n) rfl _).trans (State.chan_setChan s n _)

theorem State.rawSample_sampled (s : State) (n stamp : Nat) (x : Int) (perr : Nat) : Sampled n stamp x s (s.rawSample n stamp x perr) := by
  rw [State.rawSample_eq]
  generalize (bit perr (32 + n) && s.get (R.fltChFirTaps n) != 0) = bad
  obtain ⟨hcome, hraw⟩ := s.sampleCome_work n stamp perr
  have hread := (s.sampleCome n stamp perr).readCoef_work n bad
  obtain ⟨hpass, hpassRaw, hpassFir⟩ := ((s.sampleCome n stamp perr).readCoef n bad).pass_spec n stamp x
  refine ⟨?work, ?last, ?raw, ?fir⟩
  case work =>
    exact ((hcome.trans (hread.mono fun k hk => .inl (by simp [List.mem_singleton.1 hk]))).trans hpass).trans (State.sampleCounted_work _ n stamp)
  case last => rw [State.sampleCounted_chan]
  case raw =>
    rw [State.sampleCounted_chan, ← hraw]
    exact congrArg (· + 1) (hpassRaw.trans (by rw [State.readCoef_chan]))
  case fir =>
    obtain ⟨k, hk⟩ : ∃ k, ((s.sampleCome n stamp perr).readCoef n bad).firLen n = k + 1 := Nat.exists_eq_succ_of_ne_zero (Nat.ne_of_gt (Nat.le_max_left 1 _))
    rw [State.sampleCounted_chan]
    change ((((s.sampleCome n stamp perr).readCoef n bad).pass n stamp x).chan n).fir.head? = some x
    rw [hpassFir, hk]
    rfl

/-! ### Sources (R246) -/

/-- Of the numbers below `m` exactly one passes a test that it alone passes. -/
theorem filter_range_eq_singleton {m n : Nat} {p : Nat → Bool} (hn : n < m) (hp : p n = true) (h : ∀ k, k < m → k ≠ n → p k = false) :
    (List.range m).filter p = [n] := by
  have hsame : ∀ k ∈ List.range m, p k = (k == n) := fun k hk => by
    by_cases hkn : k = n
    · subst hkn
      rw [hp, beq_self_eq_true]
    · rw [h k (List.mem_range.1 hk) hkn, beq_eq_false_iff_ne.2 hkn]
  rw [List.filter_congr hsame, List.filter_beq, List.count_eq_one_of_mem List.nodup_range (List.mem_range.2 hn)]
  rfl

/-- The channels that take source `src`. -/
def State.takers (s : State) (src : Nat) : List Nat := (List.range 32).filter fun n => s.chanOn n && s.get (R.fltChSrcSrc n) == src

theorem State.source_eq (s : State) (src stamp : Nat) (x : Int) (perr : Nat) :
    s.source src stamp x perr = s.each (s.takers src) fun s n => s.rawSample n stamp x perr := rfl

theorem State.mem_takers {src k : Nat} : k ∈ s.takers src ↔ k < 32 ∧ s.chanOn k = true ∧ s.get (R.fltChSrcSrc k) = src := by simp [State.takers]

/-- The samples of a list of other channels leave channel `n` and what is no channel alone. -/
theorem State.each_rawSample_others {l : List Nat} (h : n ∉ l) (s : State) (stamp : Nat) (x : Int) (perr : Nat) :
    (s.each l fun s n => s.rawSample n stamp x perr).chan n = s.chan n
      ∧ (s.each l fun s n => s.rawSample n stamp x perr).flt = { s.flt with chan := (s.each l fun s n => s.rawSample n stamp x perr).flt.chan } := by
  induction l generalizing s with
  | nil => exact ⟨rfl, rfl⟩
  | cons k l ih =>
    rw [List.mem_cons, not_or] at h
    obtain ⟨hk, hl⟩ := h
    obtain ⟨hchan, hflt⟩ := ih hl (s.rawSample k stamp x perr)
    have hwork := (s.rawSample_sampled k stamp x perr).work
    exact ⟨hchan.trans (hwork.others n hk), hflt.trans (by rw [hwork.flt]; rfl)⟩

/-- A sample of a source reaches each channel that takes it. -/
theorem State.source_taken {src : Nat} (h : n ∈ s.takers src) (stamp : Nat) (x : Int) (perr : Nat) :
    ((s.source src stamp x perr).chan n).lastRaw = some stamp ∧ ((s.source src stamp x perr).chan n).fir.head? = some x
      ∧ (s.source src stamp x perr).flt = { s.flt with chan := (s.source src stamp x perr).flt.chan } := by
  obtain ⟨l, r, hsplit⟩ := List.append_of_mem h
  have hnodup : (s.takers src).Nodup := List.nodup_range.filter _
  rw [hsplit, List.nodup_middle, List.nodup_cons, List.mem_append, not_or] at hnodup
  obtain ⟨⟨hl, hr⟩, -⟩ := hnodup
  have hrun : s.source src stamp x perr
      = ((s.each l fun s n => s.rawSample n stamp x perr).rawSample n stamp x perr).each r fun s n => s.rawSample n stamp x perr := by
    rw [State.source_eq, hsplit]
    exact List.foldl_append
  obtain ⟨-, hbefore⟩ := State.each_rawSample_others hl s stamp x perr
  have hown := (s.each l fun s n => s.rawSample n stamp x perr).rawSample_sampled n stamp x perr
  obtain ⟨hchan, hafter⟩ := State.each_rawSample_others hr ((s.each l fun s n => s.rawSample n stamp x perr).rawSample n stamp x perr) stamp x perr
  rw [hrun, hchan]
  exact ⟨hown.last, hown.fir, hafter.trans (by rw [hown.work.flt, hbefore])⟩

/-- A sample of a source that one channel takes reaches that channel alone. -/
theorem State.source_single {src : Nat} (hn : n < 32) (hon : s.chanOn n = true) (hsrc : s.get (R.fltChSrcSrc n) = src)
    (h : ∀ k, k < 32 → k ≠ n → s.chanOn k = true → s.get (R.fltChSrcSrc k) ≠ src) (stamp : Nat) (x : Int) (perr : Nat) :
    s.source src stamp x perr = s.rawSample n stamp x perr := by
  rw [State.source_eq, State.takers, filter_range_eq_singleton hn (by simp [hon, hsrc]) fun k hk hkn => ?_]
  · rfl
  · rw [Bool.and_eq_false_iff, beq_eq_false_iff_ne, ← Bool.not_eq_true]
    exact imp_iff_not_or.1 (h k hk hkn)

/-- A sample of a source that no channel takes changes nothing. -/
theorem State.source_none {src : Nat} (h : ∀ k, k < 32 → s.chanOn k = true → s.get (R.fltChSrcSrc k) ≠ src) (stamp : Nat) (x : Int) (perr : Nat) :
    s.source src stamp x perr = s := by
  have hnone : s.takers src = [] := List.eq_nil_iff_forall_not_mem.2 fun k hk => by
    obtain ⟨hlt, hon, hsrc⟩ := State.mem_takers.1 hk
    exact h k hlt hon hsrc
  rw [State.source_eq, hnone]
  rfl

end Sys2Proof.Machine
end

section
/-! OBLIGATION. Filter channels run: enabled and restarted, their outputs, and gaps of their source (R249–R255, R259). -/

namespace Sys2Proof.Machine

variable {s : State}

theorem chanWrites_apart (n : Fin 32) : ¬ chanWrites n R.fltChEnEn.key := by decide +revert

/-! ### Enabling a channel (R253) -/

/-- Whether channel `n` may be enabled beside those that are (R253). -/
def State.mayEnable (s : State) (n : Nat) : Prop :=
  s.srcOk (s.get (R.fltChSrcSrc n)) = true ∧ s.decimated n ≤ 250000 ∧ s.macsOk ((List.range 32).filter fun i => i == n || s.chanOn i) = true

theorem exec_channelEnable_of (h : s.served = true) {n : Fin 32} (hoff : s.chanOn n = false) : exec (.channelEnable n) s = .next (s.touch.enableChan n) := by
  change execChannelEnable n s = _
  have hne : ¬ s.touch.chanOn n = true := by
    rw [show s.touch.chanOn n = s.chanOn n from rfl, hoff]
    exact Bool.false_ne_true
  rw [execChannelEnable, State.bus_served h, State.writeChanBit, if_neg hne]
  rfl

/-- The state with channel `n` enabled, not started yet. -/
def State.withChan (s : State) (n : Nat) : State := s.set R.fltChEnEn (setBit (s.get R.fltChEnEn) n true)

theorem State.withChan_get {x : Fld} (h : x.key ≠ R.fltChEnEn.key) (s : State) (n : Nat) : (s.withChan n).get x = s.get x := State.get_set_other s h _

theorem State.enableChan_taken {n : Nat} (h : s.mayEnable n) : s.enableChan n = (s.withChan n).startChan n := by
  obtain ⟨hsrc, hrate, hmacs⟩ := h
  unfold State.enableChan
  exact if_pos (by simp [hsrc, hrate, hmacs])

/-- A channel started: restarted, not settled, its next instant one that lies ahead. -/
theorem State.startChan_spec (s : State) (n : Fin 32) : (∃ c : Channel, (s.startChan n).chan n = { c.restarted (s.decimated n) with next := s.firstInstant n })
    ∧ (s.startChan n).get R.cntRestart = (s.get R.cntRestart + 1) % 2 ^ 32 ∧ (s.startChan n).get (R.fltChStatSettled n) = 0
    ∧ (s.startChan n).get R.fltChEnEn = s.get R.fltChEnEn := by
  obtain ⟨hcount, hsettled⟩ := s.restart_counted n
  rw [State.startChan_eq, State.chan_setChan, State.get_setChan, State.get_setChan, State.get_setChan, State.restart_chan]
  exact ⟨⟨_, rfl⟩, hcount, hsettled, (s.restart_work n).regs _ (chanWrites_apart n)⟩

theorem State.enableChan_refused {n : Nat} (h : ¬ s.mayEnable n) : s.enableChan n = s.cfgErr := by
  unfold State.enableChan
  refine if_neg fun hc => h ?_
  simpa [State.mayEnable, and_assoc] using hc

/-! ### The instants of a channel (R251) -/

/-- Whether channel `n` waits no longer for the samples of its next instant (R251). -/
def State.outDue (s : State) (n : Nat) : Prop := s.evalAt n (s.chan n).next + (256 * s.get (R.fltChRsWaitNs n) : Nat) ≤ (256 * s.now : Nat)

theorem exec_resamplerTimeout_due (ha : s.awake = true) {n : Fin 32} (hon : s.chanOn n = true) (hdue : s.outDue n) (perr : Bool) :
    exec (.resamplerTimeout n perr) s = .next (s.compute n perr) := by
  change execResamplerTimeout n perr s = _
  rw [execResamplerTimeout, State.clocked_awake ha, if_pos (by simpa [hon, State.outDue] using hdue)]

theorem exec_resamplerTimeout_early (ha : s.awake = true) {n : Fin 32} (hdue : ¬ s.outDue n) (perr : Bool) :
    exec (.resamplerTimeout n perr) s = .next s := by
  change execResamplerTimeout n perr s = _
  rw [execResamplerTimeout, State.clocked_awake ha, if_neg]
  rw [Bool.and_eq_true, decide_eq_true_iff]
  exact fun h => hdue h.2

/-! ### Gaps of the source (R254) -/

theorem exec_channelGapRestart_of (ha : s.awake = true) {n : Fin 32} {p : Nat} (hon : s.chanOn n = true) (hlast : (s.chan n).lastRaw = some p) :
    exec (.channelGapRestart n) s =
      .next (if p + 2 * s.get (R.fltChNomNomNs n) + s.get (R.fltChRsWaitNs n) < s.now then s.restart n else s) := by
  change execChannelGapRestart n s = _
  rw [execChannelGapRestart, State.clocked_awake ha, hlast]
  simp [hon]

/-! ### The obligation -/

theorem metWrites_apart (n : Fin 32) : ¬ metWrites n R.cntOut.key ∧ ¬ metWrites n R.cntStretch.key ∧ ¬ metWrites n R.fltStatusCoefPerr.key := by
  decide +revert

/-- Settles O44: a channel's start through its restart, an output through what is handed over before the thresholds meet it. -/
theorem filterChannelsRun : Obligations.FilterChannelsRun := by
  refine ⟨fun n s hserved hoff => ⟨fun hok => ?enabled, fun hno => ?refused⟩,
    fun n perr s ha hon => ⟨fun hearly => ?early, fun hdue hraw => ?unsettled, fun hdue hraw => ?output⟩,
    fun n p s ha hon hlast => ⟨fun hgap => ?gap, fun hno => ?noGap⟩⟩
  case enabled =>
    have hok' : s.touch.mayEnable n := hok
    have hget : ∀ x : Fld, x.key ≠ R.fltChEnEn.key → (s.touch.withChan n).get x = s.get x := fun x hx => State.withChan_get hx s.touch n
    refine ⟨(s.touch.withChan n).startChan n, (exec_channelEnable_of hserved hoff).trans (by rw [State.enableChan_taken hok']), ?_⟩
    obtain ⟨⟨c, hchan⟩, hcount, hsettled, hen⟩ := (s.touch.withChan n).startChan_spec n
    obtain ⟨hahead, hgrid⟩ := (s.touch.withChan n).firstInstant_spec n
    rw [State.evalAt, hget _ (by clear * - n; decide +revert), hget _ (by clear * - n; decide +revert)] at hahead
    rw [State.outDiv, hget _ (by clear * - n; decide +revert)] at hgrid
    rw [hget _ (by decide)] at hcount
    rw [hchan]
    exact ⟨hen.trans (State.get_set_same _ _ _), hcount, rfl, rfl, rfl, rfl, rfl, rfl, rfl, hsettled, hahead, hgrid⟩
  case refused =>
    have hno' : ¬ s.touch.mayEnable n := hno
    refine ⟨s.touch.cfgErr, (exec_channelEnable_of hserved hoff).trans (by rw [State.enableChan_refused hno']), ?_, ?_, rfl, ?_⟩
    · exact State.get_setFlag_other _ (by decide) _
    · exact State.get_setFlag_same s.touch R.fltStatusCfgErr true le_rfl
    · exact (s.keepsRegs_refl _).setFlag (by simp) true
  case early => exact exec_resamplerTimeout_early ha hearly.not_ge perr
  case unsettled =>
    refine ⟨s.outTaken n perr, (exec_resamplerTimeout_due ha hon hdue perr).trans (by rw [State.compute_unsettled hraw]), ?_, s.readCoef_ftu n perr,
      (s.outTaken_work n perr).regs⟩
    rw [State.outTaken_chan]
    rfl
  case output =>
    have hmet := State.compute_met hraw perr
    obtain ⟨houtKey, hstretchKey, hperrKey⟩ := metWrites_apart n
    obtain ⟨a, b, hchan⟩ := hmet.chan
    rw [State.outHanded_chan] at hchan
    obtain ⟨hperr, hstretch⟩ := s.outHanded_status n perr
    refine ⟨s.compute n perr, exec_resamplerTimeout_due ha hon hdue perr, by rw [hchan]; rfl, by rw [hchan]; rfl, fun hfree => ?free, fun T hT hle => ?held,
      fun h => (hmet.regs _ hperrKey).trans (hperr h), fun h => (hmet.regs _ hstretchKey).trans (hstretch h), fun hA hB => State.compute_off hraw hA hB perr⟩
    case free =>
      have hheld : s.outHeld n = false := by
        unfold State.outHeld
        cases hT : s.flt.stopAt with
        | none => rfl
        | some T => exact decide_eq_false (hfree T hT).not_ge
      obtain ⟨hcount, hinbox⟩ := State.outHanded_free (bad := perr) hheld
      refine ⟨(hmet.regs _ houtKey).trans hcount, _, (congrArg Ftu.inbox hmet.ftu).trans hinbox, rfl, rfl, rfl, ?_⟩
      exact congrArg Channel.perr (s.readCoef_chan n perr)
    case held =>
      have hheld : s.outHeld n = true := by simp [State.outHeld, hT, hle]
      obtain ⟨hcount, hftu⟩ := State.outHanded_held (bad := perr) hheld
      exact ⟨(hmet.regs _ houtKey).trans hcount, hmet.ftu.trans hftu⟩
  case gap =>
    obtain ⟨hcount, hsettled⟩ := s.restart_counted n
    have hwork := s.restart_work n
    refine ⟨s.restart n, (exec_channelGapRestart_of ha hon hlast).trans (by rw [if_pos hgap]), hcount, ?_⟩
    rw [State.restart_chan]
    exact ⟨rfl, rfl, rfl, rfl, rfl, rfl, hsettled, hwork.regs _ (chanWrites_apart n), State.restart_inactive (w := false), State.restart_inactive (w := true),
      fun k hk => hwork.others k (Fin.val_ne_of_ne hk)⟩
  case noGap => rw [exec_channelGapRestart_of ha hon hlast, if_neg hno.not_gt]

end Sys2Proof.Machine
end

section
/-! OBLIGATION. IMU masters: enabled, transfers, data-ready edges, and reads that end (R232–R234, R260, R503). -/

namespace Sys2Proof.Machine

variable {s t : State} {i : Fin 2}

/-! ### Masters under the updates of the filter chain -/

@[simp] theorem State.imu_setImu (s : State) (i : Nat) (v : Imu) : (s.setImu i v).imu i = v := SMap.get_set_same _ _ _ _

@[simp] theorem State.get_setImu (s : State) (i : Nat) (v : Imu) (x : Fld) : (s.setImu i v).get x = s.get x := (rfl)

/-! ### Enabling a master (R232, R260) -/

/-- The fields of FLT_IMUi_CFG beside EN, as a write sets them. -/
def State.setImuCfg (s : State) (i v : Nat) : State :=
  (((((s.set (R.fltImuCfgMode3 i) (bits v 1 1)).set (R.fltImuCfgW24 i) (bits v 2 1)).set (R.fltImuCfgBe i) (bits v 3 1)).set
    (R.fltImuCfgSclkDiv i) (bits v 4 8)).set (R.fltImuCfgCmdLenM1 i) (bits v 12 2)).set (R.fltImuCfgRdLen i) (bits v 16 5)

theorem State.setImuCfg_spec (s : State) (i : Fin 2) (v : Nat) :
    (s.setImuCfg i v).get (R.fltImuCfgW24 i) = bits v 2 1 ∧ (s.setImuCfg i v).get (R.fltImuCfgBe i) = bits v 3 1
      ∧ (s.setImuCfg i v).get (R.fltImuCfgRdLen i) = bits v 16 5 ∧ (s.setImuCfg i v).get (R.fltImuCfgSclkDiv i) = bits v 4 8
      ∧ (s.setImuCfg i v).get (R.fltImuCfgEn i) = s.get (R.fltImuCfgEn i) ∧ (s.setImuCfg i v).get R.fltStatusCfgErr = s.get R.fltStatusCfgErr := by
  unfold State.setImuCfg
  refine ⟨?w24, ?be, (State.get_set_same _ _ _).trans (bits_mod v 16 5), ?sclk, ?en, ?err⟩
  all_goals simp (disch := clear * - i; decide +revert) only [State.get_set_other, State.get_set_same]
  all_goals exact bits_mod v _ _

theorem State.imuOfs_of_lt {e : Nat} (h : e < 6) (s : State) (i : Nat) : s.imuOfs i e = bits (s.get (R.fltImuOfsOfs i)) (5 * e) 5 := if_neg h.ne

theorem State.imuFits_iff {v : Nat} : s.imuFits i v = true ↔
    (∀ e : Fin 6, bits (s.get (R.fltImuOfsOfs i)) (5 * e) 5 + (if bit v 2 then 3 else 2) ≤ bits v 16 5)
      ∧ s.get (R.fltImuOfs6Ofs6 i) + (if bit v 2 then 3 else 2) ≤ bits v 16 5 := by
  simp only [State.imuFits, List.all_eq_true, List.mem_range, decide_eq_true_eq]
  refine ⟨fun h => ⟨fun e => s.imuOfs_of_lt e.isLt i ▸ h e (by omega), h 6 (by decide)⟩, fun ⟨h, h6⟩ e he => ?_⟩
  rcases Nat.lt_succ_iff_lt_or_eq.1 he with hlt | rfl
  · exact (s.imuOfs_of_lt hlt i).symm ▸ h ⟨e, hlt⟩
  · exact h6

theorem exec_imuEnable_of (h : s.served = true) (i : Fin 2) (v : Word) : exec (.imuEnable i v) s = .next (s.touch.writeImuCfg i v.toNat) := by
  change execImuEnable i v s = _
  rw [execImuEnable, State.bus_served h]

theorem State.writeImuCfg_on {i v : Nat} (h : s.flag (R.fltImuCfgEn i) = true) : s.writeImuCfg i v = s.fltRunWrite := if_pos h

theorem State.writeImuCfg_enables {i v : Nat} (h : s.flag (R.fltImuCfgEn i) = false) (hv : bit v 0 = true) :
    s.writeImuCfg i v = if s.imuFits i v then (s.setImuCfg i v).setFlag (R.fltImuCfgEn i) true else (s.setImuCfg i v).cfgErr := by
  unfold State.writeImuCfg
  rw [if_neg (by simp [h])]
  exact if_neg (by simp [hv])

/-! ### Transfers (R234) -/

theorem leBytes_leNat (l : List Byte) : leBytes (leNat l) l.length = l := by
  induction l with
  | nil => rfl
  | cons b l ih =>
    have hdiv : (b.toNat + 256 * leNat l) / 256 = leNat l := by
      have := b.isLt
      omega
    have hbyte : BitVec.ofNat 8 (b.toNat + 256 * leNat l) = b := by
      rw [← BitVec.toNat_inj, BitVec.toNat_ofNat]
      have := b.isLt
      omega
    rw [leNat, List.length_cons, leBytes, hdiv, hbyte, ih]

theorem exec_imuXfer_of (h : s.served = true) (i : Fin 2) (v : Word) : exec (.imuXfer i v) s = .next (s.touch.writeXferCtl i v.toNat) := by
  change execImuXfer i v s = _
  rw [execImuXfer, State.bus_served h]

/-- A transfer begun: BUSY, its bytes sent. -/
def State.startXfer (s : State) (i : Nat) : State :=
  (s.setFlag (R.fltImuXferCtlBusy i) true).setImu i { s.imu i with sent := leBytes (s.get (R.fltImuXferDataData i)) (min 8 (s.get (R.fltImuXferCtlLen i))) }

theorem State.writeXferCtl_eq (s : State) (i v : Nat) : s.writeXferCtl i v =
    (s.set (R.fltImuXferCtlLen i) (bits v 0 4)).when (bit v 30 && !s.flag (R.fltImuCfgEn i)) fun u => u.startXfer i := rfl

/-- The transfer of a master ended with the bytes `l` in FLT_IMUi_XFER_DATA. -/
def State.endXfer (s : State) (i : Nat) (l : List Byte) : State :=
  ((s.set (R.fltImuXferDataData i) (leNat l)).setFlag (R.fltImuXferCtlBusy i) false).setImu i { s.imu i with sent := [] }

theorem exec_imuXferDone_of (ha : s.awake = true) (hb : s.flag (R.fltImuXferCtlBusy i) = true) {data : List Byte}
    (hlen : data.length = s.get (R.fltImuXferCtlLen i)) (h8 : data.length ≤ 8) :
    exec (.imuXferDone i data) s = .next (s.endXfer i (data ++ (leBytes (s.get (R.fltImuXferDataData i)) 8).drop data.length)) := by
  change execImuXferDone i data s = _
  rw [execImuXferDone, State.clocked_awake ha, if_pos hb, ← hlen, Nat.min_eq_right h8]
  dsimp only
  rw [List.take_left']
  · rfl
  · rfl

theorem State.endXfer_spec (s : State) (i : Fin 2) {l : List Byte} (h : l.length = 8) : (s.endXfer i l).get (R.fltImuXferCtlBusy i) = 0
    ∧ leBytes ((s.endXfer i l).get (R.fltImuXferDataData i)) 8 = l
    ∧ s.keepsRegs (s.endXfer i l) [(R.fltImuXferCtlBusy i).key, (R.fltImuXferDataData i).key] := by
  have hlt : leNat l < 2 ^ 64 := (leNat_lt l).trans_eq (by rw [h]; decide)
  have hdata : (s.endXfer i l).get (R.fltImuXferDataData i) = leNat l := by
    rw [State.endXfer, State.get_setImu, State.get_setFlag_other _ (by clear * - i; decide +revert), State.get_set_same]
    exact Nat.mod_eq_of_lt hlt
  refine ⟨State.get_setFlag_same _ (R.fltImuXferCtlBusy i) false le_rfl, ?_, ?_⟩
  · rw [hdata, ← h]
    exact leBytes_leNat l
  · exact ((s.keepsRegs_refl _).set (by simp) _).setFlag (f := R.fltImuXferCtlBusy i) (by simp) false

/-! ### Data-ready edges (R232, R233, R503) -/

/-- The counter of a master's overrun edges. -/
def cntDrdyOvr (i : Nat) : Fld := if i = 0 then R.cntDrdyOvr0 else R.cntDrdyOvr1

theorem exec_drdyEdge_short {held : Nat} (h : held < s.filterNs (drdyFilter i)) : exec (.drdyEdge i held) s = .next s := by
  change execDrdyEdge i held s = _
  rw [execDrdyEdge, if_pos (by simp [State.filterPasses, h])]

/-- What an edge that passes the filter does: it begins a read, is latched during one, and overruns where another edge is latched. -/
def State.edgeTaken (s : State) (i : Nat) : State :=
  match (s.imu i).reading, (s.imu i).latched with
  | none, _ => s.startRead i s.now (s.imu i).latched
  | some _, none => s.setImu i { s.imu i with latched := some s.now }
  | some _, some _ => (s.setImu i { s.imu i with latched := some s.now }).inc (cntDrdyOvr i)

theorem exec_drdyEdge_of (ha : s.awake = true) (hon : s.flag (R.fltImuCfgEn i) = true) {held : Nat} (h : s.filterNs (drdyFilter i) ≤ held) :
    exec (.drdyEdge i held) s = .next (s.edgeTaken i) := by
  change execDrdyEdge i held s = _
  rw [execDrdyEdge, if_neg (by simp [ha, hon, State.filterPasses, h])]
  unfold State.edgeTaken
  dsimp only
  cases (s.imu i).reading <;> cases (s.imu i).latched <;> rfl

theorem State.edgeTaken_idle {i : Nat} (h : (s.imu i).reading = none) : s.edgeTaken i = s.startRead i s.now (s.imu i).latched := by
  unfold State.edgeTaken
  rw [h]

theorem State.edgeTaken_reading {i a : Nat} (h : (s.imu i).reading = some a) (hl : (s.imu i).latched = none) :
    s.edgeTaken i = s.setImu i { s.imu i with latched := some s.now } := by
  unfold State.edgeTaken
  rw [h, hl]

theorem State.edgeTaken_overrun {i a b : Nat} (h : (s.imu i).reading = some a) (hl : (s.imu i).latched = some b) :
    s.edgeTaken i = (s.setImu i { s.imu i with latched := some s.now }).inc (cntDrdyOvr i) := by
  unfold State.edgeTaken
  rw [h, hl]

/-! ### Reads that end (R232, R233) -/

/-- The state in which the read in progress has ended and a latched edge has begun the next one. -/
def State.readEnded (s : State) (i : Nat) : State :=
  match (s.imu i).latched with
  | some u => s.startRead i u none
  | none => s.setImu i {}

theorem State.readEnded_some {i u : Nat} (h : (s.imu i).latched = some u) : s.readEnded i = s.startRead i u none := by
  unfold State.readEnded
  rw [h]

theorem State.readEnded_none {i : Nat} (h : (s.imu i).latched = none) : s.readEnded i = s.setImu i {} := by
  unfold State.readEnded
  rw [h]

theorem State.startRead_imu (s : State) (i t : Nat) (l : Option Nat) : (s.startRead i t l).imu i =
    { reading := some t, latched := l, sent := leBytes (s.get (R.fltImuCmdCmd i)) (s.get (R.fltImuCfgCmdLenM1 i) + 1) } := State.imu_setImu _ _ _

theorem State.readEnded_spec (s : State) (i : Nat) : ((s.readEnded i).imu i).reading = (s.imu i).latched ∧ ((s.readEnded i).imu i).latched = none
    ∧ (∀ k, (s.readEnded i).chan k = s.chan k) ∧ s.keepsRegs (s.readEnded i) [] := by
  cases hl : (s.imu i).latched with
  | none =>
    rw [State.readEnded_none hl, State.imu_setImu]
    exact ⟨rfl, rfl, fun _ => rfl, fun _ _ => rfl⟩
  | some u =>
    rw [State.readEnded_some hl, State.startRead_imu]
    exact ⟨rfl, rfl, fun _ => rfl, fun _ _ => rfl⟩

theorem exec_imuReadComplete_of (ha : s.awake = true) {a : Nat} (hr : (s.imu i).reading = some a) (data : List Byte) (perr : Nat) :
    exec (.imuReadComplete i data perr) s = .next ((s.readEnded i).each (List.range 7) fun u e =>
      u.source (0x10 + 8 * i + e) a (u.imuElement i e (u.bytesRead i data)) perr) := by
  change execImuReadComplete i data perr s = _
  rw [execImuReadComplete, State.clocked_awake ha, hr]
  cases hl : (s.imu i).latched with
  | none => simp only [State.readEnded_none hl]
  | some u => simp only [State.readEnded_some hl]

/-- Where all elements of a list but one leave the state as it is, before that one's step and after it, the run over the list is that one's step. -/
theorem State.each_of_single {α : Type} {l : List α} {f : State → α → State} {e : α} (hl : l.Nodup) (he : e ∈ l) (hbefore : ∀ x ∈ l, x ≠ e → f s x = s)
    (hafter : ∀ x ∈ l, x ≠ e → f (f s e) x = f s e) : s.each l f = f s e := by
  obtain ⟨a, b, rfl⟩ := List.append_of_mem he
  rw [List.nodup_middle, List.nodup_cons, List.mem_append, not_or] at hl
  obtain ⟨⟨ha, hb⟩, -⟩ := hl
  have hrun : s.each (a ++ e :: b) f = (f (s.each a f) e).each b f := List.foldl_append
  rw [hrun, State.each_of_fixed fun x hx => hbefore x (by simp [hx]) fun h => ha (h ▸ hx),
    State.each_of_fixed fun x hx => hafter x (by simp [hx]) fun h => hb (h ▸ hx)]

/-- The value of an element rests on register fields alone. -/
theorem State.imuElement_congr (h : s.keepsRegs t []) (i e : Nat) (data : List Byte) :
    t.imuElement i e (t.bytesRead i data) = s.imuElement i e (s.bytesRead i data) := by
  have hget : ∀ x : Fld, t.get x = s.get x := fun x => h x (by simp)
  unfold State.imuElement State.imuOfs State.bytesRead State.flag
  simp only [hget]

/-- Channel `n` alone takes an element of master `i`, and that is element `e`. -/
structure TakesElement (s : State) (i : Fin 2) (e : Fin 7) (n : Fin 32) : Prop where
  on : s.chanOn n = true
  src : s.get (R.fltChSrcSrc n) = 0x10 + 8 * i + e
  others : ∀ k : Fin 32, k ≠ n → s.chanOn k = true → s.get (R.fltChSrcSrc k) < 0x10 + 8 * i ∨ 0x16 + 8 * i < s.get (R.fltChSrcSrc k)

variable {e : Fin 7} {n : Fin 32}

/-- Which channels take which source rests on CH_EN and the SRC fields. -/
theorem TakesElement.congr (h : TakesElement s i e n) (hen : t.get R.fltChEnEn = s.get R.fltChEnEn)
    (hsrc : ∀ k : Fin 32, t.get (R.fltChSrcSrc k) = s.get (R.fltChSrcSrc k)) : TakesElement t i e n := by
  have hon : ∀ k, t.chanOn k = s.chanOn k := fun k => congrArg (bit · k) hen
  exact ⟨(hon n).trans h.on, (hsrc n).trans h.src, fun k hk hkon => hsrc k ▸ h.others k hk ((hon k).symm.trans hkon)⟩

theorem TakesElement.source_same (h : TakesElement s i e n) (stamp : Nat) (x : Int) (perr : Nat) :
    s.source (0x10 + 8 * i + e) stamp x perr = s.rawSample n stamp x perr := by
  refine State.source_single n.isLt h.on h.src (fun k hk hkn hon => ?_) stamp x perr
  have := h.others ⟨k, hk⟩ (Fin.ne_of_val_ne hkn) hon
  dsimp only at this
  omega

theorem TakesElement.source_other (h : TakesElement s i e n) {j : Nat} (hj : j < 7) (hne : j ≠ e) (stamp : Nat) (x : Int) (perr : Nat) :
    s.source (0x10 + 8 * i + j) stamp x perr = s := by
  refine State.source_none (fun k hk hon => ?_) stamp x perr
  by_cases hkn : k = n
  · have := h.src
    subst hkn
    omega
  · have := h.others ⟨k, hk⟩ (Fin.ne_of_val_ne hkn) hon
    dsimp only at this
    omega

theorem chanWrites_src (n k : Fin 32) : ¬ chanWrites n (R.fltChSrcSrc k).key := by decide +revert

/-- The elements of a read reach the one channel that takes one of them. -/
theorem TakesElement.each_source (h : TakesElement s i e n) (stamp : Nat) (x : State → Nat → Int) (perr : Nat) :
    (s.each (List.range 7) fun u j => u.source (0x10 + 8 * i + j) stamp (x u j) perr) = s.rawSample n stamp (x s e) perr := by
  have hwork := (s.rawSample_sampled n stamp (x s e) perr).work
  have hafter : TakesElement (s.rawSample n stamp (x s e) perr) i e n := h.congr (hwork.regs _ (chanWrites_apart n))
    fun k => hwork.regs _ (chanWrites_src n k)
  rw [State.each_of_single (e := e.val) List.nodup_range (List.mem_range.2 e.isLt), h.source_same]
  · exact fun j hj hne => h.source_other (List.mem_range.1 hj) hne _ _ _
  · rw [h.source_same]
    exact fun j hj hne => hafter.source_other (List.mem_range.1 hj) hne _ _ _

/-! ### The obligation -/

/-- Settles O43: each command by the state that its meaning names, the elements of a read by the one channel that takes one. -/
theorem imuMastersRead : Obligations.ImuMastersRead := by
  refine ⟨fun i v s hserved => ⟨fun hon => ?on, fun hoff hen hfits => ?enables, fun hoff hen hno => ?unfit, fun hgo hoff => ?go, fun hon => ?noGo⟩,
    fun i data s ha hbusy hlen h8 => ?done, fun i held s ha hon => ⟨fun hshort => exec_drdyEdge_short hshort, fun hheld =>
      ⟨fun hr => ?idle, fun a hr hl => ?latches, fun a b hr hl => ?overruns⟩⟩,
    fun i e n data a perr s ha hr hon hsrc hothers => ?complete⟩
  case on =>
    refine ⟨s.touch.fltRunWrite, (exec_imuEnable_of hserved i v).trans (by rw [State.writeImuCfg_on (s := s.touch) hon]), ?_, rfl, ?_⟩
    · exact State.get_setFlag_same s.touch R.fltStatusRunWrite true le_rfl
    · exact (s.keepsRegs_refl _).setFlag (f := R.fltStatusRunWrite) (by simp) true
  case enables =>
    have hfits' : s.touch.imuFits i v.toNat = true := State.imuFits_iff.2 hfits
    obtain ⟨hw24, hbe, hlen, hsclk, -, herr⟩ := s.touch.setImuCfg_spec i v.toNat
    refine ⟨(s.touch.setImuCfg i v.toNat).setFlag (R.fltImuCfgEn i) true,
      (exec_imuEnable_of hserved i v).trans (by rw [State.writeImuCfg_enables (s := s.touch) hoff hen, if_pos hfits']),
      State.get_setFlag_same _ (R.fltImuCfgEn i) true le_rfl, ?_, ?_, ?_, ?_, ?_, rfl⟩
    · exact (State.get_setFlag_other _ (by clear * - i; decide +revert) _).trans hw24
    · exact (State.get_setFlag_other _ (by clear * - i; decide +revert) _).trans hbe
    · exact (State.get_setFlag_other _ (by clear * - i; decide +revert) _).trans hlen
    · exact (State.get_setFlag_other _ (by clear * - i; decide +revert) _).trans hsclk
    · exact (State.get_setFlag_other _ (by clear * - i; decide +revert) _).trans herr
  case unfit =>
    have hno' : ¬ s.touch.imuFits i v.toNat = true := mt State.imuFits_iff.1 hno
    obtain ⟨-, -, -, -, hen', -⟩ := s.touch.setImuCfg_spec i v.toNat
    refine ⟨(s.touch.setImuCfg i v.toNat).cfgErr, (exec_imuEnable_of hserved i v).trans (by rw [State.writeImuCfg_enables (s := s.touch) hoff hen, if_neg hno']),
      ?_, State.get_setFlag_same _ R.fltStatusCfgErr true le_rfl, rfl⟩
    exact (State.flag_of_get ((State.get_setFlag_other _ (by clear * - i; decide +revert) _).trans hen')).trans hoff
  case go =>
    have hoff' : s.touch.flag (R.fltImuCfgEn i) = false := hoff
    have hgo' : (bit v.toNat 30 && !s.touch.flag (R.fltImuCfgEn i)) = true := by rw [hgo, hoff']; rfl
    have hlen : (s.touch.set (R.fltImuXferCtlLen i) (bits v.toNat 0 4)).get (R.fltImuXferCtlLen i) = bits v.toNat 0 4 :=
      (State.get_set_same _ _ _).trans (bits_mod _ 0 4)
    refine ⟨(s.touch.set (R.fltImuXferCtlLen i) (bits v.toNat 0 4)).startXfer i,
      (exec_imuXfer_of hserved i v).trans (by rw [State.writeXferCtl_eq, State.when_true _ hgo']), ?_, ?_, ?_, ?_⟩
    · exact State.get_setFlag_same _ (R.fltImuXferCtlBusy i) true le_rfl
    · rw [State.startXfer, State.get_setImu, State.get_setFlag_other _ (by clear * - i; decide +revert), hlen]
    · rw [State.startXfer, State.imu_setImu, hlen, State.get_set_other _ (by clear * - i; decide +revert)]
      rfl
    · exact ((s.keepsRegs_refl _).set (f := R.fltImuXferCtlLen i) (by simp) _).setFlag (f := R.fltImuXferCtlBusy i) (by simp) true
  case noGo =>
    have hon' : s.touch.flag (R.fltImuCfgEn i) = true := hon
    refine ⟨s.touch.set (R.fltImuXferCtlLen i) (bits v.toNat 0 4),
      (exec_imuXfer_of hserved i v).trans (by rw [State.writeXferCtl_eq, State.when_false _ (by simp [hon'])]), ?_, ?_⟩
    · exact State.get_set_other _ (by clear * - i; decide +revert) _
    · exact (s.keepsRegs_refl _).set (f := R.fltImuXferCtlLen i) (by simp) _
  case done =>
    have hdone : (data ++ (leBytes (s.get (R.fltImuXferDataData i)) 8).drop data.length).length = 8 := by
      rw [List.length_append, List.length_drop, leBytes_length]
      omega
    exact ⟨_, exec_imuXferDone_of ha hbusy hlen h8, s.endXfer_spec i hdone⟩
  case idle =>
    refine ⟨_, (exec_drdyEdge_of ha hon hheld).trans (congrArg _ (State.edgeTaken_idle hr)), ?_, fun _ _ => rfl⟩
    rw [State.startRead_imu]
  case latches =>
    exact ⟨_, (exec_drdyEdge_of ha hon hheld).trans (congrArg _ (State.edgeTaken_reading hr hl)), State.imu_setImu _ _ _, fun _ _ => rfl⟩
  case overruns =>
    have hwidth : ∀ i : Nat, (cntDrdyOvr i).width = 32 := fun i => by
      unfold cntDrdyOvr
      split <;> rfl
    refine ⟨_, (exec_drdyEdge_of ha hon hheld).trans (congrArg _ (State.edgeTaken_overrun hr hl)), State.imu_setImu _ _ _, ?_, ?_⟩
    · exact (State.get_inc_same _ (cntDrdyOvr i)).trans (by rw [hwidth]; rfl)
    · exact (s.keepsRegs_refl _).inc (f := cntDrdyOvr i) (List.mem_singleton_self _)
  case complete =>
    obtain ⟨hreading, hlatched, hchan, hregs⟩ := s.readEnded_spec i
    have htakes : TakesElement (s.readEnded i) i e n := (TakesElement.mk hon hsrc hothers).congr (hregs _ (by simp)) fun k => hregs _ (by simp)
    have hsampled := (s.readEnded i).rawSample_sampled n a ((s.readEnded i).imuElement i e ((s.readEnded i).bytesRead i data)) perr
    have hgap : (s.readEnded i).gapBefore n a = s.gapBefore n a := by
      unfold State.gapBefore
      rw [hchan, hregs _ (by simp)]
    refine ⟨_, (exec_imuReadComplete_of ha hr data perr).trans (congrArg _ (htakes.each_source a (fun u j => u.imuElement i j (u.bytesRead i data)) perr)),
      ?_, ?_, hsampled.last, ?_, hsampled.fir.trans (congrArg some (State.imuElement_congr hregs i e data)), fun k hk => (hsampled.work.others k (Fin.val_ne_of_ne hk)).trans (hchan k)⟩
    · rw [hsampled.work.imu, hreading]
    · rw [hsampled.work.imu, hlatched]
    · rw [hsampled.raw, hgap, hchan]
      unfold State.gapBefore
      cases (s.chan n).lastRaw <;> rfl

end Sys2Proof.Machine
end

section
/-! SUPPORT. Wheel encoders: transitions and samples (R235, R236, R503). -/

namespace Sys2Proof.Machine

variable {s : State} {e : Fin 8}

@[simp] theorem State.enc_setEnc (s : State) (e : Nat) (v : Encoder) : (s.setEnc e v).enc e = v := SMap.get_set_same _ _ _ _

@[simp] theorem State.get_setEnc (s : State) (e : Nat) (v : Encoder) (x : Fld) : (s.setEnc e v).get x = s.get x := (rfl)

/-! ### Steps of a transition (R235) -/

/-- Both inputs changed: the transition is illegal. -/
theorem encSteps_both (inv : Bool) {a0 b0 a b : Bool} (ha : a ≠ a0) (hb : b ≠ b0) : encSteps inv a0 b0 a b = 2 := by decide +revert

/-- One input changed: a step forward or backward, and the other way with the inputs exchanged. -/
theorem encSteps_one (inv : Bool) {a0 b0 a b : Bool} (h : (a ≠ a0 ∧ b = b0) ∨ (a = a0 ∧ b ≠ b0)) :
    (encSteps inv a0 b0 a b = 1 ∨ encSteps inv a0 b0 a b = 3) ∧ encSteps inv a0 b0 a b + encSteps (!inv) a0 b0 a b = 4 := by
  decide +revert

/-! ### ENCODER_TRANSITION (R235) -/

/-- The state in which the levels of encoder `e` have been taken. -/
def State.encLevels (s : State) (e : Nat) (a b : Bool) : State := s.setEnc e { s.enc e with a := a, b := b }

/-- What the present levels of encoder `e` and its next ones make (R235). -/
def State.encStep (s : State) (e : Nat) (a b : Bool) : Nat := encSteps (bit (s.get R.fltEncCfgInvert) e) (s.enc e).a (s.enc e).b a b

/-- The encoder count moved by a step: up by 1, or down by 1 modulo 2^32. -/
def encMove (k : Nat) : Nat := if decide (k = 1) = Config.encoderUp then 1 else 2 ^ 32 - 1

theorem exec_encoderTransition_short (ha : s.awake = true) {held : Nat} (h : held < s.filterNs R.mgtPad5Filt) (a b : Bool) :
    exec (.encoderTransition e a b held) s = .next s := by
  change execEncoderTransition e a b held s = _
  rw [execEncoderTransition, State.clocked_awake ha, if_pos (by simp [State.filterPasses, h])]

theorem exec_encoderTransition_off (ha : s.awake = true) {held : Nat} (h : s.filterNs R.mgtPad5Filt ≤ held) (hoff : s.encOn e = false) (a b : Bool) :
    exec (.encoderTransition e a b held) s = .next (s.encLevels e a b) := by
  change execEncoderTransition e a b held s = _
  rw [execEncoderTransition, State.clocked_awake ha, if_neg (by simp [State.filterPasses, h])]
  dsimp only
  rw [if_pos (by simp [hoff]), State.encLevels]

theorem exec_encoderTransition_illegal (ha : s.awake = true) {held : Nat} (h : s.filterNs R.mgtPad5Filt ≤ held) (hon : s.encOn e = true) {a b : Bool}
    (hk : s.encStep e a b = 2) : exec (.encoderTransition e a b held) s = .next ((s.encLevels e a b).inc R.cntEncIllegal) := by
  change execEncoderTransition e a b held s = _
  rw [execEncoderTransition, State.clocked_awake ha, if_neg (by simp [State.filterPasses, h])]
  dsimp only
  unfold State.encStep at hk
  rw [if_neg (by simp [hon]), if_pos hk, State.encLevels]

theorem exec_encoderTransition_step (ha : s.awake = true) {held : Nat} (h : s.filterNs R.mgtPad5Filt ≤ held) (hon : s.encOn e = true) {a b : Bool}
    (hk : s.encStep e a b = 1 ∨ s.encStep e a b = 3) :
    exec (.encoderTransition e a b held) s = .next ((s.encLevels e a b).add (R.fltEncPosPos e) (encMove (s.encStep e a b))) := by
  unfold State.encStep at hk ⊢
  have hmove : ∀ (u : State) (k : Nat), (if (k = 1) = Config.encoderUp then u.add (R.fltEncPosPos e) 1 else u.add (R.fltEncPosPos e) (2 ^ 32 - 1))
      = u.add (R.fltEncPosPos e) (encMove k) := fun u k => by
    have hup : ((k = 1) = (Config.encoderUp = true)) ↔ decide (k = 1) = Config.encoderUp := by
      cases Config.encoderUp <;> simp
    unfold encMove
    by_cases hc : decide (k = 1) = Config.encoderUp
    · rw [if_pos (hup.2 hc), if_pos hc]
    · rw [if_neg (mt hup.1 hc), if_neg hc]
  change execEncoderTransition e a b held s = _
  rw [execEncoderTransition, State.clocked_awake ha, if_neg (by simp [State.filterPasses, h])]
  dsimp only
  rw [if_neg (by simp [hon]), if_neg (by omega), if_neg (by omega), hmove, State.encLevels]

/-! ### ENCODER_SAMPLE (R236) -/

theorem exec_encoderSample_of (ha : s.awake = true) (hon : s.encOn e = true) (hus : (s.enc e).us < s.now / 1000) (perr : Nat) :
    exec (.encoderSample e perr) s = .next ((s.setEnc e { s.enc e with prev := s.get (R.fltEncPosPos e), us := s.now / 1000 }).source (0x20 + e)
      (s.now / 1000 * 1000) (clampInt (-(2 ^ 23)) (2 ^ 23 - 1) (wrapDiff 32 (s.get (R.fltEncPosPos e)) (s.enc e).prev)) perr) := by
  change execEncoderSample e perr s = _
  unfold execEncoderSample
  dsimp only
  rw [if_pos (by simp [ha, hon, hus])]
  rfl

/-- A sampled encoder keeps the count and the microsecond of its sample, which reaches each channel that takes it. -/
theorem State.encSampled_spec {n : Fin 32} (hchan : s.chanOn n = true) (hsrc : s.get (R.fltChSrcSrc n) = 0x20 + e) (v : Encoder) (stamp : Nat) (x : Int)
    (perr : Nat) : ((s.setEnc e v).source (0x20 + e) stamp x perr).enc e = v
    ∧ (((s.setEnc e v).source (0x20 + e) stamp x perr).chan n).lastRaw = some stamp
    ∧ (((s.setEnc e v).source (0x20 + e) stamp x perr).chan n).fir.head? = some x := by
  have htaker : n.val ∈ (s.setEnc e v).takers (0x20 + e) := State.mem_takers.2 ⟨n.isLt, hchan, hsrc⟩
  obtain ⟨hlast, hfir, hflt⟩ := State.source_taken htaker stamp x perr
  refine ⟨?_, hlast, hfir⟩
  rw [State.enc, hflt]
  exact State.enc_setEnc s e v

end Sys2Proof.Machine
end

section
/-! SUPPORT. CAN controllers: acknowledged frames, filters and maps, the receive FIFO, bus errors (R237–R241). -/

namespace Sys2Proof.Machine

variable {s t : State} {c : Fin 4} {fr : CanFrame} {sof : Nat}

@[simp] theorem State.can_setCanPort (s : State) (c : Nat) (v : CanPort) : (s.setCanPort c v).can c = v := SMap.get_set_same _ _ _ _

@[simp] theorem State.can_inc (s : State) (f : Fld) (c : Nat) : (s.inc f).can c = s.can c := (rfl)

@[simp] theorem State.get_setCanPort (s : State) (c : Nat) (v : CanPort) (x : Fld) : (s.setCanPort c v).get x = s.get x := (rfl)

@[simp] theorem State.setCanPort_ftu (s : State) (c : Nat) (v : CanPort) : (s.setCanPort c v).ftu = s.ftu := (rfl)

/-! ### What a controller sends, and its error counters (R237) -/

/-- The keys of FLT_CANc_STAT. -/
abbrev canStatKeys (c : Nat) : List Nat := [(R.fltCanStatRec c).key, (R.fltCanStatTec c).key, (R.fltCanStatState c).key]

/-- The filters and signal maps stand behind the status of every controller. -/
theorem canStatKeys_low {x : Fld} (h : (R.fltCanfIdId 0).key ≤ x.key) (c : Fin 4) : x.key ∉ canStatKeys c := by
  have hlow : ∀ k ∈ canStatKeys c, k < (R.fltCanfIdId 0).key := by
    clear h
    decide +revert
  exact fun hk => (hlow _ hk).not_ge h

theorem State.setCan_keepsRegs (s : State) (c r t : Nat) : s.keepsRegs (s.setCan c r t) (canStatKeys c) :=
  (((s.keepsRegs_refl _).set (by simp) _).set (by simp) _).set (by simp) _

theorem State.setCan_spec (s : State) (c : Fin 4) (r t : Nat) :
    (s.setCan c r t).get (R.fltCanStatRec c) = min 255 r ∧ (s.setCan c r t).get (R.fltCanStatState c) = canState r t := by
  have hrec : min 255 r < 2 ^ 8 := lt_of_le_of_lt (Nat.min_le_left _ _) (by decide)
  have hstate : canState r t < 2 ^ 2 := by
    unfold canState
    split
    · decide
    · split <;> decide
  unfold State.setCan
  refine ⟨?_, (State.get_set_same _ _ _).trans (Nat.mod_eq_of_lt hstate)⟩
  rw [State.get_set_other _ (by clear * - c; decide +revert), State.get_set_other _ (by clear * - c; decide +revert), State.get_set_same]
  exact Nat.mod_eq_of_lt hrec

/-- A frame received without error moves the counters and nothing else. -/
theorem State.canRxOk_same (s : State) (c : Nat) :
    s.keepsRegs (s.canRxOk c) (canStatKeys c) ∧ (s.canRxOk c).flt = s.flt ∧ (s.canRxOk c).ftu = s.ftu := by
  unfold State.canRxOk
  dsimp only
  split
  · exact ⟨s.keepsRegs_refl _, rfl, rfl⟩
  · split
    · exact ⟨s.setCan_keepsRegs c _ _, rfl, rfl⟩
    · exact ⟨s.setCan_keepsRegs c _ _, rfl, rfl⟩

/-- The controller's port once it has sent `x`, which it does unless it only listens. -/
def State.sentPort (s : State) (c : Nat) (x : CanSent) : CanPort :=
  { s.can c with sent := if s.flag (R.fltCanCfgListen c) then (s.can c).sent else some x }

theorem State.canSends_spec (s : State) (c : Nat) (x : CanSent) :
    (s.canSends c x).can c = s.sentPort c x ∧ s.keepsRegs (s.canSends c x) [] ∧ (s.canSends c x).ftu = s.ftu := by
  unfold State.canSends State.sentPort
  cases s.flag (R.fltCanCfgListen c) with
  | true => exact ⟨rfl, fun _ _ => rfl, rfl⟩
  | false => exact ⟨State.can_setCanPort s c _, fun _ _ => rfl, rfl⟩

/-- The state in which a frame received without error is counted and acknowledged. -/
def State.canAcked (s : State) (c : Nat) : State := (s.canRxOk c).canSends c .ack

/-- An acknowledged frame moves the counters of its controller; the port has sent the acknowledge. -/
theorem State.canAcked_spec (s : State) (c : Fin 4) :
    (s.canAcked c).can c = s.sentPort c .ack ∧ s.keepsRegs (s.canAcked c) (canStatKeys c) ∧ (s.canAcked c).ftu = s.ftu := by
  obtain ⟨hregs, hflt, hftu⟩ := s.canRxOk_same c
  obtain ⟨hcan, hsent, hftu'⟩ := (s.canRxOk c).canSends_spec c .ack
  have hlisten : (s.canRxOk c).flag (R.fltCanCfgListen c) = s.flag (R.fltCanCfgListen c) := State.flag_of_get (hregs _ (by clear * - c; decide +revert))
  have hport : (s.canRxOk c).can c = s.can c := congrArg (fun m : Filter => SMap.get m.can {} c) hflt
  refine ⟨hcan.trans ?_, hregs.trans (hsent.mono (by simp)), hftu'.trans hftu⟩
  unfold State.sentPort
  rw [hlisten, hport]

/-! ### Filters and maps (R239, R240) -/

/-- The filters and maps read fields that an acknowledge leaves as they are. -/
theorem State.canAcked_get {x : Fld} (h : (R.fltCanfIdId 0).key ≤ x.key) (s : State) (c : Fin 4) : (s.canAcked c).get x = s.get x :=
  (s.canAcked_spec c).2.1 x (canStatKeys_low h c)

theorem State.canAcked_canMatch (s : State) (c : Fin 4) (f k : Nat) (fr : CanFrame) : (s.canAcked c).canMatch f k fr = s.canMatch f k fr := by
  unfold State.canMatch State.flag
  rw [State.canAcked_get (x := R.fltCanfMaskEn f), State.canAcked_get (x := R.fltCanfIdCtrl f), State.canAcked_get (x := R.fltCanfIdIde f),
    State.canAcked_get (x := R.fltCanfIdId f), State.canAcked_get (x := R.fltCanfMaskMask f)]
  all_goals simp only [Fld.key, R.fltCanfIdId, R.fltCanfMaskEn, R.fltCanfIdCtrl, R.fltCanfIdIde, R.fltCanfMaskMask]; omega

/-- Whether map `m` takes from the frames of filter `f`. -/
def State.mapOf (s : State) (f m : Nat) : Bool := s.flag (R.fltSigCfgEn m) && s.get (R.fltSigCfgFilter m) == f

theorem State.canAcked_mapOf (s : State) (c : Fin 4) (f m : Nat) : (s.canAcked c).mapOf f m = s.mapOf f m := by
  unfold State.mapOf State.flag
  rw [State.canAcked_get (x := R.fltSigCfgEn m), State.canAcked_get (x := R.fltSigCfgFilter m)]
  all_goals simp only [Fld.key, R.fltCanfIdId, R.fltSigCfgEn, R.fltSigCfgFilter]; omega

theorem State.canAcked_canMap (s : State) (c : Fin 4) (m : Nat) (data : List Byte) : (s.canAcked c).canMap m data = s.canMap m data := by
  unfold State.canMap State.flag
  rw [State.canAcked_get (x := R.fltSigCfgLenM1 m), State.canAcked_get (x := R.fltSigCfgStart m), State.canAcked_get (x := R.fltSigCfgBe m),
    State.canAcked_get (x := R.fltSigDestDirect m), State.canAcked_get (x := R.fltSigCfgSigned m)]
  all_goals simp only [Fld.key, R.fltCanfIdId, R.fltSigCfgLenM1, R.fltSigCfgStart, R.fltSigCfgBe, R.fltSigDestDirect, R.fltSigCfgSigned]; omega

/-- The value that map `m` takes from data that reach to its last bit. -/
def State.mapValue (s : State) (m : Nat) (data : List Byte) : CanValue :=
  let len := s.get (R.fltSigCfgLenM1 m) + 1
  let raw := canField data (s.flag (R.fltSigCfgBe m)) (s.get (R.fltSigCfgStart m)) len
  ⟨m, s.flag (R.fltSigDestDirect m), if s.flag (R.fltSigCfgSigned m) then toSigned len raw else raw⟩

theorem State.canMap_fits {m : Nat} {data : List Byte} (h : s.get (R.fltSigCfgStart m) + (s.get (R.fltSigCfgLenM1 m) + 1) ≤ 8 * data.length) :
    s.canMap m data = some (s.mapValue m data) := if_neg h.not_gt

theorem State.canMap_short {m : Nat} {data : List Byte} (h : 8 * data.length < s.get (R.fltSigCfgStart m) + (s.get (R.fltSigCfgLenM1 m) + 1)) :
    s.canMap m data = none := if_pos h

/-! ### The receive FIFO (R237–R241) -/

/-- The first filter that takes the frame is `f`, and the only map that takes from its frames is `m`. -/
structure TakenBy (s : State) (c : Nat) (fr : CanFrame) (f m : Nat) : Prop where
  first : (List.range 64).find? (fun g => s.canMatch g c fr) = some f
  maps : (List.range 32).filter (s.mapOf f) = [m]

/-- The first filter and the only map by their hypotheses. -/
theorem TakenBy.of_unique {f : Fin 64} {m : Fin 32} (hmatch : s.canMatch f c fr = true) (hfirst : ∀ g : Fin 64, g < f → s.canMatch g c fr = false)
    (hmap : s.flag (R.fltSigCfgEn m) = true) (hfilter : s.get (R.fltSigCfgFilter m) = f)
    (hothers : ∀ k : Fin 32, k ≠ m → s.flag (R.fltSigCfgEn k) = false ∨ s.get (R.fltSigCfgFilter k) ≠ f) : TakenBy s c fr f m := by
  refine ⟨List.find?_range_eq_some.2 ⟨hmatch, List.mem_range.2 f.isLt, fun g hg => ?_⟩, filter_range_eq_singleton m.isLt ?_ fun k hk hkm => ?_⟩
  · rw [hfirst ⟨g, hg.trans f.isLt⟩ hg]
    rfl
  · simp [State.mapOf, hmap, hfilter]
  · rw [State.mapOf, Bool.and_eq_false_iff, beq_eq_false_iff_ne]
    exact hothers ⟨k, hk⟩ (Fin.ne_of_val_ne hkm)

theorem TakenBy.acked {f m : Nat} (h : TakenBy s c fr f m) : TakenBy (s.canAcked c) c fr f m := by
  refine ⟨?_, ?_⟩
  · rw [← h.first]
    exact congrArg (fun p => (List.range 64).find? p) (funext fun g => s.canAcked_canMatch c g c fr)
  · rw [← h.maps]
    exact congrArg (fun p => (List.range 32).filter p) (funext fun k => s.canAcked_mapOf c f k)

theorem State.keepFrame_full (h : 32 ≤ (s.can c).fifo.length) (sof : Nat) (fr : CanFrame) : s.keepFrame c sof fr = s.inc R.cntCanOvf := if_pos h

theorem State.keepFrame_unmatched (hroom : (s.can c).fifo.length < 32) (h : ∀ f, f < 64 → s.canMatch f c fr = false) (sof : Nat) :
    s.keepFrame c sof fr = (s.inc R.cntCanFrame).inc R.cntCanNomatch := by
  have hnone : (List.range 64).find? (fun f => s.canMatch f c fr) = none := List.find?_eq_none.2 fun f hf => by
    rw [h f (List.mem_range.1 hf)]
    exact Bool.false_ne_true
  unfold State.keepFrame
  rw [if_neg hroom.not_ge]
  dsimp only
  rw [hnone]

theorem State.unmatched_counts (s : State) : ((s.inc R.cntCanFrame).inc R.cntCanNomatch).get R.cntCanFrame = (s.get R.cntCanFrame + 1) % 2 ^ 32
    ∧ ((s.inc R.cntCanFrame).inc R.cntCanNomatch).get R.cntCanNomatch = (s.get R.cntCanNomatch + 1) % 2 ^ 32 := by
  refine ⟨?_, ?_⟩
  · rw [State.get_inc_other _ (by decide), State.get_inc_same]
    rfl
  · rw [State.get_inc_same, State.get_inc_other s (by decide)]
    rfl

/-- A frame taken by a filter with one map is kept with what the map takes from it; a map that finds it too short is counted (R238–R240). -/
theorem State.keepFrame_taken {f m : Nat} (hroom : (s.can c).fifo.length < 32) (h : TakenBy s c fr f m) (sof : Nat) :
    s.keepFrame c sof fr = ((s.inc R.cntCanFrame).add R.cntCanShort (1 - (s.canMap m fr.data).toList.length)).setCanPort c
      { s.can c with fifo := (s.can c).fifo ++ [⟨sof, (s.canMap m fr.data).toList⟩] } := by
  have hvals : [m].filterMap (fun k => s.canMap k fr.data) = (s.canMap m fr.data).toList := by
    cases hmap : s.canMap m fr.data <;> simp [hmap]
  have hmaps : ((List.range 32).filter fun k => s.flag (R.fltSigCfgEn k) && s.get (R.fltSigCfgFilter k) == f) = [m] := h.maps
  unfold State.keepFrame
  rw [if_neg hroom.not_ge]
  dsimp only
  rw [h.first]
  dsimp only
  rw [hmaps, hvals, List.length_singleton]

/-- A direct value of the only frame in the FIFO reaches the FTU with the stamp of its frame (R241). -/
theorem State.takeCan_direct {stamp : Nat} {v : CanValue} (h : (s.can c).fifo = [⟨stamp, [v]⟩]) (hd : v.direct = true) (perr : Nat) :
    s.takeCan c perr = (s.setCanPort c { s.can c with fifo := [] }).deliver { origin := .can v.map, stamp := stamp, vals := [code32 (ofInteger v.value)] } := by
  unfold State.takeCan
  rw [h]
  dsimp only
  rw [State.each_cons, State.each_nil, State.canValue, if_pos hd]

theorem State.canOn_iff : s.canOn c = true ↔ s.awake = true ∧ s.flag (R.fltCanCfgEn c) = true ∧ s.get (R.fltCanStatState c) ≠ 2 := by
  simp only [State.canOn, Bool.and_eq_true, bne_iff_ne, and_assoc]

theorem State.awake_of_canOn (h : s.canOn c = true) : s.awake = true := (State.canOn_iff.1 h).1

theorem exec_canFrame_of (hon : s.canOn c = true) (hfd : fr.fd = true → s.flag (R.fltCanCfgFdEn c) = true) (sof taken perr : Nat) :
    exec (.canFrame c sof fr taken perr) s =
      .next ((if fr.remote then s.canAcked c else (s.canAcked c).keepFrame c sof fr).takeCans c perr taken) := by
  have ha : s.awake = true := State.awake_of_canOn hon
  have hpass : (!s.canOn c || (fr.fd && !s.flag (R.fltCanCfgFdEn c))) = false := by
    cases hf : fr.fd with
    | false => simp [hon]
    | true => simp [hon, hfd hf]
  change execCanFrame c sof fr taken perr s = _
  rw [execCanFrame, State.clocked_awake ha, if_neg (by simp [hpass])]
  rfl

theorem exec_canFrame_data (hon : s.canOn c = true) (hfd : fr.fd = true → s.flag (R.fltCanCfgFdEn c) = true) (hdata : fr.remote = false) (sof taken perr : Nat) :
    exec (.canFrame c sof fr taken perr) s = .next (((s.canAcked c).keepFrame c sof fr).takeCans c perr taken) :=
  (exec_canFrame_of hon hfd sof taken perr).trans (by rw [if_neg (by simp [hdata])])

theorem State.canAcked_fifo (s : State) (c : Fin 4) : ((s.canAcked c).can c).fifo = (s.can c).fifo := (congrArg CanPort.fifo (s.canAcked_spec c).1 :)

/-- The state in which a frame is acknowledged and kept with what its map takes from it. -/
def State.frameKept (s : State) (c sof m : Nat) (data : List Byte) : State :=
  (((s.canAcked c).inc R.cntCanFrame).add R.cntCanShort (1 - (s.canMap m data).toList.length)).setCanPort c
    { s.sentPort c .ack with fifo := (s.can c).fifo ++ [⟨sof, (s.canMap m data).toList⟩] }

theorem State.keepFrame_acked {f m : Nat} (hroom : (s.can c).fifo.length < 32) (h : TakenBy s c fr f m) (sof : Nat) :
    (s.canAcked c).keepFrame c sof fr = s.frameKept c sof m fr.data := by
  rw [State.keepFrame_taken (by rw [s.canAcked_fifo]; exact hroom) h.acked, s.canAcked_canMap, (s.canAcked_spec c).1]
  rfl

theorem State.frameKept_spec (s : State) (c : Fin 4) (sof m : Nat) (data : List Byte) :
    (s.frameKept c sof m data).can c = { s.sentPort c .ack with fifo := (s.can c).fifo ++ [⟨sof, (s.canMap m data).toList⟩] }
      ∧ (s.frameKept c sof m data).get R.cntCanFrame = (s.get R.cntCanFrame + 1) % 2 ^ 32
      ∧ (s.frameKept c sof m data).get R.cntCanShort = (s.get R.cntCanShort + (1 - (s.canMap m data).toList.length)) % 2 ^ 32
      ∧ (s.frameKept c sof m data).ftu = s.ftu := by
  obtain ⟨-, hregs, hftu⟩ := s.canAcked_spec c
  refine ⟨State.can_setCanPort _ _ _, ?_, ?_, hftu⟩
  · rw [State.frameKept, State.get_setCanPort, State.add, State.get_set_other _ (by decide), State.get_inc_same, hregs _ (by clear * - c; decide +revert)]
    rfl
  · rw [State.frameKept, State.get_setCanPort, State.add, State.get_set_same, State.get_inc_other _ (by decide), hregs _ (by clear * - c; decide +revert)]
    rfl

/-! ### Bus errors (R237) -/

/-- The state in which controller `c` has sent an error frame and its counters stand at `r` and `t`. -/
def State.canFailed (s : State) (c r t : Nat) : State := (s.canSends c (s.canErrorFrame c)).setCan c r t

theorem exec_canBusError_rx (hon : s.canOn c = true) (k : Nat) :
    exec (.canBusError c (.rx k)) s = .next (s.canFailed c (s.get (R.fltCanStatRec c) + k) (s.get (R.fltCanStatTec c))) := by
  have ha : s.awake = true := State.awake_of_canOn hon
  change execCanBusError c (.rx k) s = _
  rw [execCanBusError, State.clocked_awake ha, if_pos hon, State.canFailed]

theorem exec_canBusError_tx (hon : s.canOn c = true) (k : Nat) : exec (.canBusError c (.tx k)) s = .next (if s.flag (R.fltCanCfgListen c) then s
    else s.canFailed c (s.get (R.fltCanStatRec c)) (s.get (R.fltCanStatTec c) + k)) := by
  have ha : s.awake = true := State.awake_of_canOn hon
  change execCanBusError c (.tx k) s = _
  rw [execCanBusError, State.clocked_awake ha, if_pos hon, State.canFailed]

theorem State.canFailed_spec (s : State) (c : Fin 4) (r t : Nat) : (s.canFailed c r t).can c = s.sentPort c (s.canErrorFrame c)
    ∧ (s.canFailed c r t).get (R.fltCanStatRec c) = min 255 r ∧ (s.canFailed c r t).get (R.fltCanStatState c) = canState r t :=
  ⟨(s.canSends_spec c _).1, State.setCan_spec _ c r t⟩

/-- The state in which a controller has recovered from bus-off. -/
def State.canRecovered (s : State) (c : Nat) : State := ((s.set (R.fltCanStatRec c) 0).set (R.fltCanStatTec c) 0).set (R.fltCanStatState c) 0

theorem exec_busOffRecovery_of (ha : s.awake = true) (h : s.get (R.fltCanStatState c) = 2) : exec (.busOffRecovery c) s = .next (s.canRecovered c) := by
  change execBusOffRecovery c s = _
  rw [execBusOffRecovery, State.clocked_awake ha, if_pos h, State.canRecovered]

theorem State.canRecovered_spec (s : State) (c : Fin 4) : (s.canRecovered c).get (R.fltCanStatState c) = 0
    ∧ (s.canRecovered c).get (R.fltCanStatRec c) = 0 ∧ (s.canRecovered c).get (R.fltCanStatTec c) = 0 ∧ s.keepsRegs (s.canRecovered c) (canStatKeys c) := by
  refine ⟨State.get_set_same _ _ _, ?_, ?_, (((s.keepsRegs_refl _).set (by simp) _).set (by simp) _).set (by simp) _⟩
  all_goals
    unfold State.canRecovered
    simp (disch := clear * - c; decide +revert) only [State.get_set_other, State.get_set_same, Nat.zero_mod]

end Sys2Proof.Machine
end

section
/-! SUPPORT and OBLIGATION. GNSS sentences and bytes (R243–R245), and what encoders, CAN controllers and the GNSS input take (R235–R245). -/

namespace Sys2Proof.Machine

variable {s : State}

/-! ### GNSS sentences and bytes (R243–R245) -/

theorem exec_gnssSentence_of (ha : s.awake = true) (hen : s.flag R.fltGnssCfgEn = true) (hraw : s.flag R.fltGnssCfgRaw = false) (at0 : Nat) (text : List Byte) :
    exec (.gnssSentence at0 text) s = .next (s.sentence at0 text) := by
  change execGnssSentence at0 text s = _
  rw [execGnssSentence, if_pos (by simp [ha, hen, hraw])]

theorem State.sentence_bad {text : List Byte} (h : sentenceBody text = none) (at0 : Nat) : s.sentence at0 text = s.inc R.cntGnssBad := by
  unfold State.sentence
  rw [h]

/-- A sound RMC sentence passes its values on. -/
theorem State.sentence_rmc {text body : List Byte} {fr : Nat} {l : List Nat} (hbody : sentenceBody text = some body)
    (hlen : ((splitAtByte 44 body).getD 0 []).length = 5) (hkind : ((splitAtByte 44 body).getD 0 []).drop 2 = [82, 77, 67])
    (hfr : utcFraction ((splitAtByte 44 body).getD 1 []) (s.free + 6) = some fr)
    (hl : rmcValues (fun n => (splitAtByte 44 body).getD n []) s.free = some l) (at0 : Nat) :
    s.sentence at0 text = (s.took 7).gnssSample .rmc at0 fr l := by
  unfold State.sentence
  rw [hbody]
  dsimp only
  rw [if_neg (not_not.2 hlen), hkind, if_neg (by decide), if_pos rfl, hfr, hl]

/-- The pulse edge that dates a sentence whose first byte arrived at `at0` (R244). -/
def State.gnssEdge (s : State) (at0 : Nat) : Option Nat :=
  (SMap.get s.time.edges [] (s.get R.fltGnssCfgPpsTci)).find? fun p => decide (p ≤ at0) && decide (at0 ≤ p + 10 ^ 9)

theorem State.gnssStamp_edge {at0 e : Nat} (h : s.gnssEdge at0 = some e) (fr : Nat) : s.gnssStamp at0 fr = (e + fr, false) := by
  unfold State.gnssStamp
  unfold State.gnssEdge at h
  rw [h]

theorem State.gnssStamp_none {at0 : Nat} (h : s.gnssEdge at0 = none) (fr : Nat) : s.gnssStamp at0 fr = (at0, true) := by
  unfold State.gnssStamp
  unfold State.gnssEdge at h
  rw [h]

/-- The sample that a sentence gives. -/
def State.gnssGiven (s : State) (o : Origin) (at0 fr : Nat) (l : List Nat) : Sample :=
  { origin := o, stamp := (s.gnssStamp at0 fr).1, vals := l, noPps := (s.gnssStamp at0 fr).2, arrived := s.now }

/-- A sentence passed on is counted, and reaches the FTU as one sample. -/
theorem State.gnssSample_spec (s : State) (o : Origin) (at0 fr : Nat) (l : List Nat) :
    (s.gnssSample o at0 fr l).get R.cntGnssSent = (s.get R.cntGnssSent + 1) % 2 ^ 32
      ∧ (s.gnssSample o at0 fr l).ftu.inbox = s.ftu.inbox ++ [s.gnssGiven o at0 fr l]
      ∧ ((s.gnssStamp at0 fr).2 = true → (s.gnssSample o at0 fr l).get R.cntGnssNopps = (s.get R.cntGnssNopps + 1) % 2 ^ 32) := by
  unfold State.gnssSample State.gnssGiven
  dsimp only
  rw [State.get_deliver, State.get_deliver, State.deliver_inbox]
  refine ⟨?_, ?_, fun hno => ?_⟩
  · exact (State.when_same (·.get R.cntGnssSent) (State.get_inc_other _ (by decide)) _).trans (State.get_inc_same s R.cntGnssSent)
  · have hnow : ∀ c : Bool, ((s.inc R.cntGnssSent).when c fun u => u.inc R.cntGnssNopps).now = s.now := fun c =>
      (State.when_same State.now (State.inc_now _ _) c).trans (State.inc_now s _)
    rw [State.when_same State.ftu (State.inc_ftu _ _), State.inc_ftu, hnow]
  · rw [State.when_true _ hno, State.get_inc_same, State.get_inc_other s (by decide)]
    rfl

theorem exec_gnssByte_of (ha : s.awake = true) (hen : s.flag R.fltGnssCfgEn = true) (hraw : s.flag R.fltGnssCfgRaw = true) (b : Byte) :
    exec (.gnssByte b) s =
      .next (if s.flt.gnss.length < 1024 then s.setFlt { s.flt with gnss := s.flt.gnss ++ [b] } else s.inc R.cntGnssRxovf) := by
  change execGnssByte b s = _
  rw [execGnssByte, if_pos (by simp [ha, hen, hraw])]

/-! ### The obligation -/

/-- Settles O45: each command by the state that its meaning names; a frame by the one filter and map that take it. -/
theorem auxiliaryInputsAreTaken : Obligations.AuxiliaryInputsAreTaken := by
  refine ⟨fun e a b held s ha => ⟨fun hshort => exec_encoderTransition_short ha hshort a b, fun hheld =>
      ⟨fun hon hda hdb => ?illegal, fun hon hone => ?step, fun hoff => ?off⟩⟩,
    fun e n perr s ha hon hus hchan hsrc => ?sample,
    fun c sof perr fr s hon hfd => ⟨fun hrem => ?remote, fun hdata hfull => ?full, fun hdata hroom hno => ?unmatched,
      fun f m hdata hmatch hfirst hmap hfilter hothers => ⟨fun hroom hfits => ?kept, fun hroom hshort => ?short, fun hempty hfits hdirect => ?direct⟩⟩,
    fun c k s ha hen hstate => ⟨?receive, fun hlisten => ?listens, fun htalk hoff => ?busOff⟩, fun c s ha hstate => ?recovery,
    fun at0 text s ha hen hraw => ⟨fun hbad => ?bad, fun body fr l hbody hlen hkind hfr hl => ?rmc⟩,
    fun b s ha hen hraw => ⟨fun hroom => ?byte, fun hfull => ?lost⟩⟩
  case illegal =>
    have hk : s.encStep e a b = 2 := encSteps_both _ hda hdb
    refine ⟨_, exec_encoderTransition_illegal ha hheld hon hk, State.get_inc_same _ R.cntEncIllegal, ?_, ?_, (s.keepsRegs_refl _).inc (by simp)⟩
    · exact congrArg Encoder.a (State.enc_setEnc s e _)
    · exact congrArg Encoder.b (State.enc_setEnc s e _)
  case step =>
    have hk := fun inv => encSteps_one inv hone
    refine ⟨_, exec_encoderTransition_step ha hheld hon (hk _).1, ?_, ?_, ?_, fun inv => (hk inv).2, (s.keepsRegs_refl _).set (f := R.fltEncPosPos e) (by simp) _⟩
    · exact congrArg Encoder.a (State.enc_setEnc s e _)
    · exact congrArg Encoder.b (State.enc_setEnc s e _)
    · exact State.get_set_same _ _ _
  case off =>
    refine ⟨_, exec_encoderTransition_off ha hheld hoff a b, ?_, ?_, fun _ _ => rfl⟩
    · exact congrArg Encoder.a (State.enc_setEnc s e _)
    · exact congrArg Encoder.b (State.enc_setEnc s e _)
  case sample =>
    obtain ⟨henc, hlast, hfir⟩ := s.encSampled_spec hchan hsrc { s.enc e with prev := s.get (R.fltEncPosPos e), us := s.now / 1000 } (s.now / 1000 * 1000)
      (clampInt (-(2 ^ 23)) (2 ^ 23 - 1) (wrapDiff 32 (s.get (R.fltEncPosPos e)) (s.enc e).prev)) perr
    exact ⟨_, exec_encoderSample_of ha hon hus perr, congrArg Encoder.prev henc, congrArg Encoder.us henc, hlast, hfir⟩
  case remote =>
    obtain ⟨hcan, hregs, hftu⟩ := s.canAcked_spec c
    refine ⟨s.canAcked c, (exec_canFrame_of hon hfd sof 0 perr).trans (by rw [if_pos hrem]; rfl), congrArg CanPort.sent hcan,
      hregs _ (by clear * - c; decide +revert), hftu, s.canAcked_fifo c, hregs⟩
  case full =>
    obtain ⟨hcan, hregs, hftu⟩ := s.canAcked_spec c
    have hfull' : 32 ≤ ((s.canAcked c).can c).fifo.length := by rw [s.canAcked_fifo]; exact hfull
    refine ⟨(s.canAcked c).inc R.cntCanOvf, (exec_canFrame_data hon hfd hdata sof 0 perr).trans (by rw [State.keepFrame_full hfull']; rfl),
      congrArg CanPort.sent hcan, ?_, ?_, s.canAcked_fifo c, hftu⟩
    · rw [State.get_inc_same, hregs _ (by clear * - c; decide +revert)]
      rfl
    · rw [State.get_inc_other _ (by decide), hregs _ (by clear * - c; decide +revert)]
  case unmatched =>
    obtain ⟨hcan, hregs, hftu⟩ := s.canAcked_spec c
    have hroom' : ((s.canAcked c).can c).fifo.length < 32 := by rw [s.canAcked_fifo]; exact hroom
    have hno' : ∀ f, f < 64 → (s.canAcked c).canMatch f c fr = false := fun f hf => (s.canAcked_canMatch c f c fr).trans (hno ⟨f, hf⟩)
    obtain ⟨hframe, hnomatch⟩ := (s.canAcked c).unmatched_counts
    refine ⟨((s.canAcked c).inc R.cntCanFrame).inc R.cntCanNomatch,
      (exec_canFrame_data hon hfd hdata sof 0 perr).trans (by rw [State.keepFrame_unmatched hroom' hno']; rfl), ?_, ?_, ?_, ?_, ?_, ?_⟩
    · beta_reduce
      rw [State.can_inc, State.can_inc, hcan, State.sentPort]
    · rw [hframe, hregs _ (by clear * - c; decide +revert)]
    · rw [hnomatch, hregs _ (by clear * - c; decide +revert)]
    · rw [State.inc_ftu, State.inc_ftu, hftu]
    · rw [State.can_inc, State.can_inc, s.canAcked_fifo]
    · exact (State.keepsRegs.inc (f := R.cntCanFrame) (hregs.mono (by simp)) (by simp)).inc (f := R.cntCanNomatch) (by simp)
  case kept =>
    have htaken := TakenBy.of_unique hmatch hfirst hmap hfilter hothers
    obtain ⟨hcan, hcount, -, hftu⟩ := s.frameKept_spec c sof m fr.data
    rw [State.canMap_fits hfits] at hcan
    exact ⟨_, (exec_canFrame_data hon hfd hdata sof 0 perr).trans (congrArg _ (State.keepFrame_acked hroom htaken sof)), congrArg CanPort.sent hcan, hcount,
      congrArg CanPort.fifo hcan, hftu⟩
  case short =>
    have htaken := TakenBy.of_unique hmatch hfirst hmap hfilter hothers
    obtain ⟨-, -, hcount, hftu⟩ := s.frameKept_spec c sof m fr.data
    rw [State.canMap_short hshort] at hcount
    exact ⟨_, (exec_canFrame_data hon hfd hdata sof 0 perr).trans (congrArg _ (State.keepFrame_acked hroom htaken sof)), hcount, hftu⟩
  case direct =>
    have htaken := TakenBy.of_unique hmatch hfirst hmap hfilter hothers
    have hroom : (s.can c).fifo.length < 32 := by rw [hempty]; decide
    obtain ⟨hcan, hcount, -, hftu⟩ := s.frameKept_spec c sof m fr.data
    rw [State.canMap_fits hfits, hempty] at hcan
    have hrun : ((s.canAcked c).keepFrame c sof fr).takeCans c perr 1 = _ :=
      (congrArg (State.takeCan · c perr) (State.keepFrame_acked hroom htaken sof)).trans (State.takeCan_direct (congrArg CanPort.fifo hcan) hdirect perr)
    refine ⟨_, (exec_canFrame_data hon hfd hdata sof 1 perr).trans (congrArg _ hrun), ?_, ?_, _,
      (State.deliver_inbox _ _).trans (congrArg (fun u : Ftu => u.inbox ++ _) ((State.setCanPort_ftu _ c _).trans hftu)), rfl, rfl, rfl⟩
    · rw [State.get_deliver, State.get_setCanPort, hcount]
    · exact congrArg CanPort.fifo (State.can_setCanPort _ c _)
  case receive =>
    obtain ⟨hcan, hrec, -⟩ := s.canFailed_spec c (s.get (R.fltCanStatRec c) + k) (s.get (R.fltCanStatTec c))
    exact ⟨_, exec_canBusError_rx (State.canOn_iff.2 ⟨ha, hen, hstate⟩) k, hrec, congrArg CanPort.sent hcan⟩
  case listens => rw [exec_canBusError_tx (State.canOn_iff.2 ⟨ha, hen, hstate⟩), if_pos hlisten]
  case busOff =>
    obtain ⟨-, -, hoff'⟩ := s.canFailed_spec c (s.get (R.fltCanStatRec c)) (s.get (R.fltCanStatTec c) + k)
    refine ⟨_, (exec_canBusError_tx (State.canOn_iff.2 ⟨ha, hen, hstate⟩) k).trans (by rw [if_neg (by simp [htalk])]), hoff'.trans (if_pos hoff)⟩
  case recovery => exact ⟨_, exec_busOffRecovery_of ha hstate, s.canRecovered_spec c⟩
  case bad =>
    exact ⟨_, (exec_gnssSentence_of ha hen hraw at0 text).trans (by rw [State.sentence_bad hbad]), State.get_inc_same s R.cntGnssBad, rfl,
      (s.keepsRegs_refl _).inc (by simp)⟩
  case rmc =>
    obtain ⟨hsent, hinbox, hnopps⟩ := (s.took 7).gnssSample_spec .rmc at0 fr l
    refine ⟨(s.took 7).gnssSample .rmc at0 fr l, (s.took 7).gnssGiven .rmc at0 fr l,
      (exec_gnssSentence_of ha hen hraw at0 text).trans (by rw [State.sentence_rmc hbody hlen hkind hfr hl]), hsent, hinbox, rfl, rfl,
      fun e hedge => ?edge, fun hnone => ?noEdge⟩
    case edge =>
      have hstamp : (s.took 7).gnssStamp at0 fr = (e + fr, false) := State.gnssStamp_edge hedge fr
      exact ⟨congrArg Prod.fst hstamp, congrArg Prod.snd hstamp⟩
    case noEdge =>
      have hedge : (s.took 7).gnssEdge at0 = none := List.find?_eq_none.2 fun e he => by
        have := hnone e he
        simp only [Bool.and_eq_true, decide_eq_true_eq]
        omega
      have hstamp := State.gnssStamp_none hedge fr
      exact ⟨congrArg Prod.fst hstamp, congrArg Prod.snd hstamp, hnopps (congrArg Prod.snd hstamp)⟩
  case byte => exact ⟨_, (exec_gnssByte_of ha hen hraw b).trans (congrArg _ (if_pos hroom)), rfl, rfl, fun _ _ => rfl⟩
  case lost =>
    exact ⟨_, (exec_gnssByte_of ha hen hraw b).trans (congrArg _ (if_neg hfull.not_gt)), rfl, State.get_inc_same s R.cntGnssRxovf,
      (s.keepsRegs_refl _).inc (by simp)⟩

end Sys2Proof.Machine
end
